-- ==== Sys2Proof/Word.lean ====
section
/-! DEFINITION. The word types of R2 and their plainest arithmetic. -/

namespace Sys2Proof

/-- A byte of memory (R2). -/
abbrev Byte := BitVec 8
/-- A halfword (R2). -/
abbrev Half := BitVec 16
/-- A doubleword, the width of an x register (R2, R76). -/
abbrev Word := BitVec 64
/-- A vector register (R76). -/
abbrev VReg := BitVec 1024
/-- A predicate register (R76). -/
abbrev PReg := BitVec 128

/-- bits [hi:lo] of a word as a number (R2). -/
abbrev bitsOf {n : Nat} (w : BitVec n) (lo width : Nat) : Nat := (w.extractLsb' lo width).toNat

end Sys2Proof
end

