-- ==== Sys2Proof/Syntax.lean ====
section
/-! DEFINITION. The instructions and machine events of the XQ2: one constructor of Instr for each row of
spec/opcode_table.json. Rows with an encoding carry the operand fields of R48 and R57 as they stand in the word;
the other rows are the machine's own events and carry the unit they happen at. -/

namespace Sys2Proof

/-- The object that an uncorrectable memory error strikes (R195, R215, R269, R300, R325, R361, R370, R374, R377). -/
inductive ErrObj where
  /-- a 32-byte sector of ULM, sequencer memory or HBM4E, named by one location in it -/
  | sector (loc : Nat)
  /-- a Weight Buffer slot of a Set -/
  | slot (set wb : Nat)
  /-- an entry of an accumulator tile, or the tag of a row where no column is named -/
  | tile (set tile row : Nat) (col : Option Nat)
  /-- a row of a Montage tile buffer of a Set -/
  | tileBuf (set buf row : Nat)
  /-- an entry of a task queue in queue SRAM -/
  | queueEntry (part qh i : Nat)
  /-- an entry of a queue register of a core or Set node -/
  | queueReg (unit q i : Nat)
  /-- a dependence counter -/
  | counter (die i : Nat)
  /-- a barrier -/
  | barrier (die i : Nat)
  /-- a slate -/
  | slate (die i : Nat)
  /-- a record of the trace SRAM -/
  | traceRecord (die i : Nat)
  /-- a range descriptor or its residency list -/
  | rangeEntry (part rid : Nat)
  /-- a node of a Range Table's index -/
  | indexNode (part node : Nat)
  /-- a node record of the Continuity Tree -/
  | treeNode (part tree node : Nat)
  /-- a sector of a core's L1, by sector number -/
  | l1Sector (core sector : Nat)
  /-- a sector of a die's L2 -/
  | l2Sector (die sector : Nat)
  /-- a sector of a die's RDC -/
  | rdcSector (die sector : Nat)
  /-- a sector of a core's I-cache, by its key -/
  | icacheSector (core key : Nat)
  /-- a thread's fetch buffer -/
  | fetchBuffer (core tid : Nat)
  /-- a slot of the reel at a header's location -/
  | reelSlot (loc slot : Nat)
  /-- the journal of a thread (found when END checks it) -/
  | journal (core tid : Nat)
  /-- a message slot of the inbox -/
  | inboxSlot (core slot : Nat)
  /-- a message of a send buffer -/
  | sendEntry (unit i : Nat)
  /-- a message of the mesh that stands in an input buffer -/
  | inputEntry (i : Nat)
  /-- a request of T6's arrival queue -/
  | t6Entry (core i : Nat)
  /-- an item of T7's service queue, with the message in its slot -/
  | serviceItem (core i : Nat)
  /-- a message of a context buffer -/
  | contextEntry (core tid i : Nat)
  /-- a message of a message save area -/
  | saveEntry (core tid i : Nat)
  /-- a message of a region's pending queue, by the region's RCB address -/
  | pendingEntry (part rcb i : Nat)
  /-- a packet of an ingress port FIFO -/
  | fifoPacket (die port i : Nat)
  /-- a packet of a CP input FIFO -/
  | cpPacket (die i : Nat)
  /-- a flit of a reduction round -/
  | reduction (die tree : Nat)
  deriving DecidableEq, Repr

/-- The agent behind an MMIO write (R207, R208). -/
inductive Writer where
  /-- a master of R419: 0 PF0, 1 and 2 the MCTP masters -/
  | master (m : Nat)
  /-- T7 of a physical core -/
  | t7 (core : Nat)
  /-- the debug port -/
  | debug
  deriving DecidableEq, Repr

/-- A resource that the owner grants to a partition (R412). -/
inductive Resource where
  | core (c : Nat)
  | set (s : Nat)
  | backing (base size : Nat)
  | key (k : Nat)
  | counters (die block : Nat)
  | barriers (die block : Nat)
  | slates (die block : Nat)
  | port (die p : Nat)
  | dbg
  | hostLaunch
  | secureWorld
  /-- the queue-table handles from `lo` on, `n` of them, and memory for the Range Table and the tree tables (R324, R412) -/
  | handles (lo n : Nat)
  | tableMemory (base size : Nat)
  deriving DecidableEq, Repr

/-- A firmware image with its LMS signature and the public key that it names (R421): LMS with SHA-256, height 10, Winternitz parameter 4. -/
structure Firmware where
  image : List (BitVec 8) := []
  /-- identifier of the key pair, and the number of the one-time key that signed -/
  id : List (BitVec 8) := []
  q : Nat := 0
  /-- the randomizer, the 67 chain values and the 10 nodes of the path -/
  c : List (BitVec 8) := []
  y : List (List (BitVec 8)) := []
  path : List (List (BitVec 8)) := []
  /-- root of the public key -/
  root : List (BitVec 8) := []
  deriving DecidableEq, Repr

/-- What the boot ROM finds: the envelope selection, and the primary and the secondary image (R9, R421). -/
structure BootInput where
  envelope : Nat := 0
  primary : Firmware := {}
  secondary : Firmware := {}
  deriving DecidableEq, Repr


/-- One constructor per row of the opcode table (R51, R57, R59 and the rules each row cites). -/
inductive Instr where
  /-- ADD (R116): Writes the 64-bit wrapped sum of two x registers. -/
  | add (d : BitVec 5) (a : BitVec 5) (b : BitVec 5)
  /-- SUB (R116): Writes the 64-bit wrapped difference of two x registers. -/
  | sub (d : BitVec 5) (a : BitVec 5) (b : BitVec 5)
  /-- ADDW (R116): Writes the sign-extended low 32 bits of the sum. -/
  | addw (d : BitVec 5) (a : BitVec 5) (b : BitVec 5)
  /-- SUBW (R116): Writes the sign-extended low 32 bits of the difference. -/
  | subw (d : BitVec 5) (a : BitVec 5) (b : BitVec 5)
  /-- AND (R116): Writes the bitwise AND of two x registers. -/
  | and (d : BitVec 5) (a : BitVec 5) (b : BitVec 5)
  /-- OR (R116): Writes the bitwise OR of two x registers. -/
  | or (d : BitVec 5) (a : BitVec 5) (b : BitVec 5)
  /-- XOR (R116): Writes the bitwise XOR of two x registers. -/
  | xor (d : BitVec 5) (a : BitVec 5) (b : BitVec 5)
  /-- ANDN (R116): Writes A AND NOT B. -/
  | andn (d : BitVec 5) (a : BitVec 5) (b : BitVec 5)
  /-- ORN (R116): Writes A OR NOT B. -/
  | orn (d : BitVec 5) (a : BitVec 5) (b : BitVec 5)
  /-- SLL (R116): Shifts A left by B[5:0]. -/
  | sll (d : BitVec 5) (a : BitVec 5) (b : BitVec 5)
  /-- SRL (R116): Shifts A logically right by B[5:0]. -/
  | srl (d : BitVec 5) (a : BitVec 5) (b : BitVec 5)
  /-- SRA (R116): Shifts A arithmetically right by B[5:0]. -/
  | sra (d : BitVec 5) (a : BitVec 5) (b : BitVec 5)
  /-- ROL (R116): Rotates A left by B[5:0]. -/
  | rol (d : BitVec 5) (a : BitVec 5) (b : BitVec 5)
  /-- ROR (R116): Rotates A right by B[5:0]. -/
  | ror (d : BitVec 5) (a : BitVec 5) (b : BitVec 5)
  /-- SLT (R116): Writes 1 if A is less than B, signed. -/
  | slt (d : BitVec 5) (a : BitVec 5) (b : BitVec 5)
  /-- SLTU (R116): Writes 1 if A is less than B, unsigned. -/
  | sltu (d : BitVec 5) (a : BitVec 5) (b : BitVec 5)
  /-- SEQ (R116): Writes 1 if A equals B. -/
  | seq (d : BitVec 5) (a : BitVec 5) (b : BitVec 5)
  /-- MIN (R116): Writes the signed lesser of A and B. -/
  | min (d : BitVec 5) (a : BitVec 5) (b : BitVec 5)
  /-- MAX (R116): Writes the signed greater of A and B. -/
  | max (d : BitVec 5) (a : BitVec 5) (b : BitVec 5)
  /-- MINU (R116): Writes the unsigned lesser of A and B. -/
  | minu (d : BitVec 5) (a : BitVec 5) (b : BitVec 5)
  /-- MAXU (R116): Writes the unsigned greater of A and B. -/
  | maxu (d : BitVec 5) (a : BitVec 5) (b : BitVec 5)
  /-- CLZ (R116): Counts leading zero bits of A. -/
  | clz (d : BitVec 5) (a : BitVec 5)
  /-- CTZ (R116): Counts trailing zero bits of A. -/
  | ctz (d : BitVec 5) (a : BitVec 5)
  /-- POPC (R116): Counts set bits of A. -/
  | popc (d : BitVec 5) (a : BitVec 5)
  /-- BREV (R116): Reverses the bits of A. -/
  | brev (d : BitVec 5) (a : BitVec 5)
  /-- BSWAP (R116): Reverses the bytes of A. -/
  | bswap (d : BitVec 5) (a : BitVec 5)
  /-- SEXT_B (R116): Sign-extends A[7:0]. -/
  | sextB (d : BitVec 5) (a : BitVec 5)
  /-- SEXT_H (R116): Sign-extends A[15:0]. -/
  | sextH (d : BitVec 5) (a : BitVec 5)
  /-- SEXT_W (R116): Sign-extends A[31:0]. -/
  | sextW (d : BitVec 5) (a : BitVec 5)
  /-- ZEXT_B (R116): Zero-extends A[7:0]. -/
  | zextB (d : BitVec 5) (a : BitVec 5)
  /-- ZEXT_H (R116): Zero-extends A[15:0]. -/
  | zextH (d : BitVec 5) (a : BitVec 5)
  /-- ZEXT_W (R116): Zero-extends A[31:0]. -/
  | zextW (d : BitVec 5) (a : BitVec 5)
  /-- SHADD (R116): Writes A shifted left by n (1 to 4) plus B. -/
  | shadd (d : BitVec 5) (a : BitVec 5) (b : BitVec 5) (n : BitVec 2)
  /-- ADDI (R117): Adds a sign-extended 14-bit immediate. -/
  | addi (d : BitVec 5) (a : BitVec 5) (i : BitVec 14)
  /-- ANDI (R117): ANDs with a sign-extended immediate. -/
  | andi (d : BitVec 5) (a : BitVec 5) (i : BitVec 14)
  /-- ORI (R117): ORs with a sign-extended immediate. -/
  | ori (d : BitVec 5) (a : BitVec 5) (i : BitVec 14)
  /-- XORI (R117): XORs with a sign-extended immediate. -/
  | xori (d : BitVec 5) (a : BitVec 5) (i : BitVec 14)
  /-- SLLI (R117): Shifts left by an immediate amount. -/
  | slli (d : BitVec 5) (a : BitVec 5) (n : BitVec 6)
  /-- SRLI (R117): Shifts logically right by an immediate amount. -/
  | srli (d : BitVec 5) (a : BitVec 5) (n : BitVec 6)
  /-- SRAI (R117): Shifts arithmetically right by an immediate amount. -/
  | srai (d : BitVec 5) (a : BitVec 5) (n : BitVec 6)
  /-- RORI (R117): Rotates right by an immediate amount. -/
  | rori (d : BitVec 5) (a : BitVec 5) (n : BitVec 6)
  /-- SLTI (R117): Writes 1 if A is less than the immediate, signed. -/
  | slti (d : BitVec 5) (a : BitVec 5) (i : BitVec 14)
  /-- SLTIU (R117): Writes 1 if A is less than the sign-extended immediate, unsigned. -/
  | sltiu (d : BitVec 5) (a : BitVec 5) (i : BitVec 14)
  /-- LUI (R118): Writes imm19 times 8,192, sign-extended. -/
  | lui (d : BitVec 5) (i : BitVec 19)
  /-- ADDPC (R118): Writes PC plus imm19 times 8,192. -/
  | addpc (d : BitVec 5) (i : BitVec 19)
  /-- MUL (R119): Writes the low 64 bits of the product. -/
  | mul (d : BitVec 5) (a : BitVec 5) (b : BitVec 5)
  /-- MULH (R119): Writes the high 64 bits of the signed product. -/
  | mulh (d : BitVec 5) (a : BitVec 5) (b : BitVec 5)
  /-- MULHU (R119): Writes the high 64 bits of the unsigned product. -/
  | mulhu (d : BitVec 5) (a : BitVec 5) (b : BitVec 5)
  /-- MULHSU (R119): Writes the high 64 bits of the signed-by-unsigned product. -/
  | mulhsu (d : BitVec 5) (a : BitVec 5) (b : BitVec 5)
  /-- MULW (R119): Writes the sign-extended low 32 bits of the product. -/
  | mulw (d : BitVec 5) (a : BitVec 5) (b : BitVec 5)
  /-- DIV (R119): Signed division toward zero, saturating without trap. -/
  | div (d : BitVec 5) (a : BitVec 5) (b : BitVec 5)
  /-- DIVU (R119): Unsigned division toward zero, saturating without trap. -/
  | divu (d : BitVec 5) (a : BitVec 5) (b : BitVec 5)
  /-- REM (R119): Signed remainder of DIV. -/
  | rem (d : BitVec 5) (a : BitVec 5) (b : BitVec 5)
  /-- REMU (R119): Unsigned remainder of DIVU. -/
  | remu (d : BitVec 5) (a : BitVec 5) (b : BitVec 5)
  /-- MADD (R119): Adds A times B to X[d], wrapped. -/
  | madd (d : BitVec 5) (a : BitVec 5) (b : BitVec 5)
  /-- LDB (R120): Loads a sign-extended byte. -/
  | ldb (d : BitVec 5) (a : BitVec 5) (i : BitVec 14)
  /-- LDBU (R120): Loads a zero-extended byte. -/
  | ldbu (d : BitVec 5) (a : BitVec 5) (i : BitVec 14)
  /-- LDH (R120): Loads a sign-extended halfword. -/
  | ldh (d : BitVec 5) (a : BitVec 5) (i : BitVec 14)
  /-- LDHU (R120): Loads a zero-extended halfword. -/
  | ldhu (d : BitVec 5) (a : BitVec 5) (i : BitVec 14)
  /-- LDW (R120): Loads a sign-extended word. -/
  | ldw (d : BitVec 5) (a : BitVec 5) (i : BitVec 14)
  /-- LDWU (R120): Loads a zero-extended word. -/
  | ldwu (d : BitVec 5) (a : BitVec 5) (i : BitVec 14)
  /-- LDD (R120): Loads a doubleword. -/
  | ldd (d : BitVec 5) (a : BitVec 5) (i : BitVec 14)
  /-- STB (R120): Stores a byte, at issue or journaled by R121. -/
  | stb (s : BitVec 5) (b : BitVec 5) (i : BitVec 14)
  /-- STH (R120): Stores a halfword. -/
  | sth (s : BitVec 5) (b : BitVec 5) (i : BitVec 14)
  /-- STW (R120): Stores a word. -/
  | stw (s : BitVec 5) (b : BitVec 5) (i : BitVec 14)
  /-- STD (R120): Stores a doubleword. -/
  | std (s : BitVec 5) (b : BitVec 5) (i : BitVec 14)
  /-- BEQ (R122): Branches if A equals B. -/
  | beq (a : BitVec 5) (b : BitVec 5) (o : BitVec 11)
  /-- BNE (R122): Branches if A differs from B. -/
  | bne (a : BitVec 5) (b : BitVec 5) (o : BitVec 11)
  /-- BLT (R122): Branches if A is less than B, signed. -/
  | blt (a : BitVec 5) (b : BitVec 5) (o : BitVec 11)
  /-- BGE (R122): Branches if A is at least B, signed. -/
  | bge (a : BitVec 5) (b : BitVec 5) (o : BitVec 11)
  /-- BLTU (R122): Branches if A is less than B, unsigned. -/
  | bltu (a : BitVec 5) (b : BitVec 5) (o : BitVec 11)
  /-- BGEU (R122): Branches if A is at least B, unsigned. -/
  | bgeu (a : BitVec 5) (b : BitVec 5) (o : BitVec 11)
  /-- BBS (R122): Branches if bit B[5:0] of A is set. -/
  | bbs (a : BitVec 5) (b : BitVec 5) (o : BitVec 11)
  /-- BBC (R122): Branches if bit B[5:0] of A is clear. -/
  | bbc (a : BitVec 5) (b : BitVec 5) (o : BitVec 11)
  /-- JAL (R123): Writes the return address and jumps by a halfword offset. -/
  | jal (d : BitVec 5) (o : BitVec 19)
  /-- JALR (R123): Writes the return address and jumps to a register plus offset. -/
  | jalr (d : BitVec 5) (a : BitVec 5) (i : BitVec 14)
  /-- LOOP (R124): Opens a hardware loop counted in X[d]. -/
  | loopI (d : BitVec 5) (i : BitVec 14)
  /-- FADD (R127): Floating-point add, rounded once. -/
  | fadd (d : BitVec 5) (a : BitVec 5) (b : BitVec 5) (r : BitVec 3) (f : BitVec 1)
  /-- FSUB (R127): Floating-point subtract. -/
  | fsub (d : BitVec 5) (a : BitVec 5) (b : BitVec 5) (r : BitVec 3) (f : BitVec 1)
  /-- FMUL (R127): Floating-point multiply. -/
  | fmul (d : BitVec 5) (a : BitVec 5) (b : BitVec 5) (r : BitVec 3) (f : BitVec 1)
  /-- FDIV (R127): Floating-point divide. -/
  | fdiv (d : BitVec 5) (a : BitVec 5) (b : BitVec 5) (r : BitVec 3) (f : BitVec 1)
  /-- FSQRT (R127): Floating-point square root. -/
  | fsqrt (d : BitVec 5) (a : BitVec 5) (r : BitVec 3) (f : BitVec 1)
  /-- FMA (R127): Fused a times b plus F[d]. -/
  | fma (d : BitVec 5) (a : BitVec 5) (b : BitVec 5) (r : BitVec 3) (f : BitVec 1)
  /-- FMS (R127): Fused a times b minus F[d]. -/
  | fms (d : BitVec 5) (a : BitVec 5) (b : BitVec 5) (r : BitVec 3) (f : BitVec 1)
  /-- FNMA (R127): Fused F[d] minus a times b. -/
  | fnma (d : BitVec 5) (a : BitVec 5) (b : BitVec 5) (r : BitVec 3) (f : BitVec 1)
  /-- FMIN (R128): Floating-point minimum with -0 below +0. -/
  | fmin (d : BitVec 5) (a : BitVec 5) (b : BitVec 5) (f : BitVec 1)
  /-- FMAX (R128): Floating-point maximum. -/
  | fmax (d : BitVec 5) (a : BitVec 5) (b : BitVec 5) (f : BitVec 1)
  /-- FCMP_EQ (R128): Writes 1 to X[d] if a equals b. -/
  | fcmpEq (d : BitVec 5) (a : BitVec 5) (b : BitVec 5) (f : BitVec 1)
  /-- FCMP_LT (R128): Writes 1 to X[d] if a is less than b. -/
  | fcmpLt (d : BitVec 5) (a : BitVec 5) (b : BitVec 5) (f : BitVec 1)
  /-- FCMP_LE (R128): Writes 1 to X[d] if a is at most b. -/
  | fcmpLe (d : BitVec 5) (a : BitVec 5) (b : BitVec 5) (f : BitVec 1)
  /-- FCMP_UN (R128): Writes 1 to X[d] if either operand is NaN. -/
  | fcmpUn (d : BitVec 5) (a : BitVec 5) (b : BitVec 5) (f : BitVec 1)
  /-- FCLASS (R128): Writes the class word of a floating-point value. -/
  | fclass (d : BitVec 5) (a : BitVec 5) (f : BitVec 1)
  /-- FCVT_S (R129): Rounds an FP64 value to FP32. -/
  | fcvtS (d : BitVec 5) (a : BitVec 5) (r : BitVec 3)
  /-- FCVT_D (R129): Widens an FP32 value to FP64 exactly. -/
  | fcvtD (d : BitVec 5) (a : BitVec 5)
  /-- FCVTI (R129): Converts a floating-point value to an integer kind by ConvInt. -/
  | fcvti (d : BitVec 5) (a : BitVec 5) (k : BitVec 5) (r : BitVec 3) (f : BitVec 1)
  /-- FCVTF (R129): Converts an integer kind to floating point. -/
  | fcvtf (d : BitVec 5) (a : BitVec 5) (k : BitVec 5) (r : BitVec 3) (f : BitVec 1)
  /-- FMVXF (R129): Copies f register bits to an x register. -/
  | fmvxf (d : BitVec 5) (a : BitVec 5) (f : BitVec 1)
  /-- FMVFX (R129): Copies x register bits to an f register. -/
  | fmvfx (d : BitVec 5) (a : BitVec 5) (f : BitVec 1)
  /-- FSGN (R129): Copies a with the sign of b. -/
  | fsgn (d : BitVec 5) (a : BitVec 5) (b : BitVec 5) (f : BitVec 1)
  /-- FSGNN (R129): Copies a with the inverted sign of b. -/
  | fsgnn (d : BitVec 5) (a : BitVec 5) (b : BitVec 5) (f : BitVec 1)
  /-- FSGNX (R129): Copies a with the XOR of both signs. -/
  | fsgnx (d : BitVec 5) (a : BitVec 5) (b : BitVec 5) (f : BitVec 1)
  /-- FLDW (R120): Loads a word into an f register, zero-extended. -/
  | fldw (d : BitVec 5) (a : BitVec 5) (i : BitVec 14)
  /-- FLDD (R120): Loads a doubleword into an f register. -/
  | fldd (d : BitVec 5) (a : BitVec 5) (i : BitVec 14)
  /-- FSTW (R120): Stores F[data][31:0]. -/
  | fstw (s : BitVec 5) (b : BitVec 5) (i : BitVec 14)
  /-- FSTD (R120): Stores an f register doubleword. -/
  | fstd (s : BitVec 5) (b : BitVec 5) (i : BitVec 14)
  /-- AMOADD (R247): Atomically adds to a doubleword at its home and returns the old value. -/
  | amoadd (d : BitVec 5) (a : BitVec 5) (b : BitVec 5) (o : BitVec 5)
  /-- AMOAND (R247): Atomic AND. -/
  | amoand (d : BitVec 5) (a : BitVec 5) (b : BitVec 5) (o : BitVec 5)
  /-- AMOOR (R247): Atomic OR. -/
  | amoor (d : BitVec 5) (a : BitVec 5) (b : BitVec 5) (o : BitVec 5)
  /-- AMOXOR (R247): Atomic XOR. -/
  | amoxor (d : BitVec 5) (a : BitVec 5) (b : BitVec 5) (o : BitVec 5)
  /-- AMOMIN (R247): Atomic signed minimum. -/
  | amomin (d : BitVec 5) (a : BitVec 5) (b : BitVec 5) (o : BitVec 5)
  /-- AMOMAX (R247): Atomic signed maximum. -/
  | amomax (d : BitVec 5) (a : BitVec 5) (b : BitVec 5) (o : BitVec 5)
  /-- AMOMINU (R247): Atomic unsigned minimum. -/
  | amominu (d : BitVec 5) (a : BitVec 5) (b : BitVec 5) (o : BitVec 5)
  /-- AMOMAXU (R247): Atomic unsigned maximum. -/
  | amomaxu (d : BitVec 5) (a : BitVec 5) (b : BitVec 5) (o : BitVec 5)
  /-- AMOSWAP (R247): Atomic swap. -/
  | amoswap (d : BitVec 5) (a : BitVec 5) (b : BitVec 5) (o : BitVec 5)
  /-- CAS (R247): Atomic compare-and-swap against X[d]. -/
  | cas (d : BitVec 5) (a : BitVec 5) (b : BitVec 5) (o : BitVec 5)
  /-- FENCE (R242): Orders the agent's accesses by kind and scope, with partial commit for releases. -/
  | fence (k : BitVec 3) (s : BitVec 3)
  /-- IFENCE (R243): Discards the thread's fetch buffer. -/
  | ifence
  /-- ICINV (R244): Invalidates I-cache lines over an interval in every covered cache and marks fetch buffers stale. -/
  | icinv (d : BitVec 5) (a : BitVec 5) (b : BitVec 5) (s : BitVec 3)
  /-- DCINV (R244): Invalidates data lines without write-back; service only. -/
  | dcinv (d : BitVec 5) (a : BitVec 5) (b : BitVec 5) (s : BitVec 3)
  /-- DCWB (R244): Writes back dirty sectors over an interval. -/
  | dcwb (d : BitVec 5) (a : BitVec 5) (b : BitVec 5) (s : BitVec 3)
  /-- DCFL (R244): Writes back and invalidates lines over an interval. -/
  | dcfl (d : BitVec 5) (a : BitVec 5) (b : BitVec 5) (s : BitVec 3)
  /-- PREF (R245): Prefetches a line into L1 or acts as NOP. -/
  | pref (a : BitVec 5)
  /-- MFS (R79): Reads a system register by number. -/
  | mfs (d : BitVec 5) (n : BitVec 12)
  /-- MTS (R79): Writes a system register field by field. -/
  | mts (a : BitVec 5) (n : BitVec 12)
  /-- TRAP (R131): Takes SYSCALL with TVAL from X[a]. -/
  | trap (a : BitVec 5)
  /-- ERET_RESUME (R392): Ends T7's item and resumes the served thread at EPC, or restores a hosted context for KIND 4. -/
  | eretResume
  /-- ERET_PREEMPT (R392): Ends the item and saves the served context so that the thread hosts it. -/
  | eretPreempt
  /-- ERET_PARK (R392): As PREEMPT, with resumption held for an UNPARK. -/
  | eretPark
  /-- ERET_RETAKE (R392): Retakes the served activation by R28, or kills it if not retakeable. -/
  | eretRetake
  /-- ERET_KILL (R392): Escalates the served activation, discarding its journal and held messages. -/
  | eretKill
  /-- ERET_UNPARK (R392): Makes the parked context of a named thread resumable. -/
  | eretUnpark
  /-- UTRET (R132): Sets PC to UTEPC. -/
  | utret
  /-- WAIT (R133): Waits until the timebase reaches X[a], or on T7 until a service item waits. -/
  | waitI (a : BitVec 5)
  /-- HALT (R134): Requests a stop of every halt group of the core through the cut network. -/
  | halt
  /-- MIGRATE (R135): Moves the running activation to another core of the partition. -/
  | migrate (a : BitVec 5)
  /-- SCANRUN (R136): Starts the core's 200 us in-field scan or reports BUSY. -/
  | scanrun (d : BitVec 5) (a : BitVec 5)
  /-- SEND (R274): Sends a message with up to two payload words from registers. -/
  | sendI (d : BitVec 5) (a : BitVec 5) (b : BitVec 5)
  /-- SENDL (R274): Sends a message whose payload is read from ULM. -/
  | sendl (a : BitVec 5) (b : BitVec 5)
  /-- SENDL_RPL (R278): T7 replays an 80-byte message image into its own inbox through the loop-back port. -/
  | sendlRpl (a : BitVec 5) (b : BitVec 5)
  /-- REDUCE (R277): Sends a contribution into an in-network reduction tree. -/
  | reduce (a : BitVec 5) (b : BitVec 5)
  /-- DEFER (R276): Commits and retires the activation and re-readies its message at a given time. -/
  | defer (a : BitVec 5)
  /-- END (R27): Ends the activation, active message or sequencer program, starting the commit. -/
  | endAct
  /-- RLD (R248): Requests a remote ULM doubleword load served by T6. -/
  | rld (d : BitVec 5) (a : BitVec 5)
  /-- RST (R248): Requests a remote ULM doubleword store. -/
  | rst (a : BitVec 5) (b : BitVec 5)
  /-- RCAS (R248): Requests a remote compare-and-swap. -/
  | rcas (d : BitVec 5) (a : BitVec 5) (b : BitVec 5)
  /-- RAMO (R248): Requests a remote atomic operation. -/
  | ramo (d : BitVec 5) (a : BitVec 5) (b : BitVec 5) (p : BitVec 4)
  /-- QBIND (R287): Empties and binds a queue register to producer and consumer. -/
  | qbind (a : BitVec 5) (b : BitVec 5)
  /-- QPUT (R287): Appends a value to a queue register, waiting while full. -/
  | qput (a : BitVec 5) (b : BitVec 5)
  /-- QGET (R287): Removes the head of a queue register, waiting while empty. -/
  | qget (d : BitVec 5) (a : BitVec 5)
  /-- QTRY (R287): Removes the head or returns the sentinel. -/
  | qtry (d : BitVec 5) (a : BitVec 5) (b : BitVec 5)
  /-- QLEN (R287): Returns the number of entries held. -/
  | qlen (d : BitVec 5) (a : BitVec 5)
  /-- OXLD (R137): Loads n doublewords into ox registers. -/
  | oxld (d : BitVec 5) (a : BitVec 5) (n : BitVec 3)
  /-- OXST (R137): Stores n ox registers to memory. -/
  | oxst (a : BitVec 5) (b : BitVec 5) (n : BitVec 3)
  /-- OXSET (R137): Copies an x register to an ox register. -/
  | oxset (d : BitVec 5) (a : BitVec 5)
  /-- OXGET (R137): Copies an ox register to an x register. -/
  | oxget (d : BitVec 5) (a : BitVec 5)
  /-- VADD (R145): Lane-wise wrapped add. -/
  | vadd (d : BitVec 5) (a : BitVec 5) (b : BitVec 5) (p : BitVec 3) (s : BitVec 2)
  /-- VSUB (R145): Lane-wise wrapped subtract. -/
  | vsub (d : BitVec 5) (a : BitVec 5) (b : BitVec 5) (p : BitVec 3) (s : BitVec 2)
  /-- VMUL (R145): Lane-wise low product. -/
  | vmul (d : BitVec 5) (a : BitVec 5) (b : BitVec 5) (p : BitVec 3) (s : BitVec 2)
  /-- VMULH (R145): Lane-wise signed high product. -/
  | vmulh (d : BitVec 5) (a : BitVec 5) (b : BitVec 5) (p : BitVec 3) (s : BitVec 2)
  /-- VMADD (R145): Lane-wise multiply-add into vd. -/
  | vmadd (d : BitVec 5) (a : BitVec 5) (b : BitVec 5) (p : BitVec 3) (s : BitVec 2)
  /-- VAND (R145): Lane-wise AND. -/
  | vand (d : BitVec 5) (a : BitVec 5) (b : BitVec 5) (p : BitVec 3) (s : BitVec 2)
  /-- VOR (R145): Lane-wise OR. -/
  | vor (d : BitVec 5) (a : BitVec 5) (b : BitVec 5) (p : BitVec 3) (s : BitVec 2)
  /-- VXOR (R145): Lane-wise XOR. -/
  | vxor (d : BitVec 5) (a : BitVec 5) (b : BitVec 5) (p : BitVec 3) (s : BitVec 2)
  /-- VSLL (R145): Lane-wise shift left. -/
  | vsll (d : BitVec 5) (a : BitVec 5) (b : BitVec 5) (p : BitVec 3) (s : BitVec 2)
  /-- VSRL (R145): Lane-wise logical shift right. -/
  | vsrl (d : BitVec 5) (a : BitVec 5) (b : BitVec 5) (p : BitVec 3) (s : BitVec 2)
  /-- VSRA (R145): Lane-wise arithmetic shift right. -/
  | vsra (d : BitVec 5) (a : BitVec 5) (b : BitVec 5) (p : BitVec 3) (s : BitVec 2)
  /-- VMIN (R145): Lane-wise signed minimum. -/
  | vmin (d : BitVec 5) (a : BitVec 5) (b : BitVec 5) (p : BitVec 3) (s : BitVec 2)
  /-- VMAX (R145): Lane-wise signed maximum. -/
  | vmax (d : BitVec 5) (a : BitVec 5) (b : BitVec 5) (p : BitVec 3) (s : BitVec 2)
  /-- VMINU (R145): Lane-wise unsigned minimum. -/
  | vminu (d : BitVec 5) (a : BitVec 5) (b : BitVec 5) (p : BitVec 3) (s : BitVec 2)
  /-- VMAXU (R145): Lane-wise unsigned maximum. -/
  | vmaxu (d : BitVec 5) (a : BitVec 5) (b : BitVec 5) (p : BitVec 3) (s : BitVec 2)
  /-- VABS (R145): Lane-wise wrapped absolute value. -/
  | vabs (d : BitVec 5) (a : BitVec 5) (p : BitVec 3) (s : BitVec 2)
  /-- VADDS (R146): Lane-wise saturating signed add. -/
  | vadds (d : BitVec 5) (a : BitVec 5) (b : BitVec 5) (p : BitVec 3) (s : BitVec 2)
  /-- VSUBS (R146): Lane-wise saturating signed subtract. -/
  | vsubs (d : BitVec 5) (a : BitVec 5) (b : BitVec 5) (p : BitVec 3) (s : BitVec 2)
  /-- VCMP (R147): Writes a predicate from an integer lane comparison. -/
  | vcmp (c : BitVec 2) (q : BitVec 3) (a : BitVec 5) (b : BitVec 5) (p : BitVec 3) (s : BitVec 2)
  /-- VSEL (R146): Selects lanes of va or vb by predicate. -/
  | vsel (d : BitVec 5) (a : BitVec 5) (b : BitVec 5) (p : BitVec 3) (s : BitVec 2)
  /-- VDOT4 (R148): Four-way INT8 dot product into INT32 lanes. -/
  | vdot4 (d : BitVec 5) (a : BitVec 5) (b : BitVec 5) (p : BitVec 3)
  /-- VTDOT4 (R148): Four-way ternary-sign dot product into INT32 lanes. -/
  | vtdot4 (d : BitVec 5) (a : BitVec 5) (b : BitVec 5) (p : BitVec 3)
  /-- VPOPC (R146): Lane-wise population count. -/
  | vpopc (d : BitVec 5) (a : BitVec 5) (p : BitVec 3) (s : BitVec 2)
  /-- VMV (R146): Lane-wise move. -/
  | vmv (d : BitVec 5) (a : BitVec 5) (p : BitVec 3) (s : BitVec 2)
  /-- VFADD (R149): Lane-wise floating-point add. -/
  | vfadd (d : BitVec 5) (a : BitVec 5) (b : BitVec 5) (p : BitVec 3) (s : BitVec 2)
  /-- VFSUB (R149): Lane-wise floating-point subtract. -/
  | vfsub (d : BitVec 5) (a : BitVec 5) (b : BitVec 5) (p : BitVec 3) (s : BitVec 2)
  /-- VFMUL (R149): Lane-wise floating-point multiply. -/
  | vfmul (d : BitVec 5) (a : BitVec 5) (b : BitVec 5) (p : BitVec 3) (s : BitVec 2)
  /-- VFMA (R149): Lane-wise fused multiply-add. -/
  | vfma (d : BitVec 5) (a : BitVec 5) (b : BitVec 5) (p : BitVec 3) (s : BitVec 2)
  /-- VFMS (R149): Lane-wise fused multiply-subtract. -/
  | vfms (d : BitVec 5) (a : BitVec 5) (b : BitVec 5) (p : BitVec 3) (s : BitVec 2)
  /-- VFMIN (R149): Lane-wise floating-point minimum. -/
  | vfmin (d : BitVec 5) (a : BitVec 5) (b : BitVec 5) (p : BitVec 3) (s : BitVec 2)
  /-- VFMAX (R149): Lane-wise floating-point maximum. -/
  | vfmax (d : BitVec 5) (a : BitVec 5) (b : BitVec 5) (p : BitVec 3) (s : BitVec 2)
  /-- VFDIV (R149): Lane-wise floating-point divide. -/
  | vfdiv (d : BitVec 5) (a : BitVec 5) (b : BitVec 5) (p : BitVec 3) (s : BitVec 2)
  /-- VFSQRT (R149): Lane-wise square root. -/
  | vfsqrt (d : BitVec 5) (a : BitVec 5) (p : BitVec 3) (s : BitVec 2)
  /-- VFRCP (R150): Lane-wise correctly rounded reciprocal. -/
  | vfrcp (d : BitVec 5) (a : BitVec 5) (p : BitVec 3) (s : BitVec 2)
  /-- VFRSQ (R150): Lane-wise correctly rounded reciprocal square root. -/
  | vfrsq (d : BitVec 5) (a : BitVec 5) (p : BitVec 3) (s : BitVec 2)
  /-- VFCMP (R147): Writes a predicate from a floating-point lane comparison. -/
  | vfcmp (c : BitVec 2) (q : BitVec 3) (a : BitVec 5) (b : BitVec 5) (p : BitVec 3) (s : BitVec 2)
  /-- VLD (R151): Loads contiguous lanes. -/
  | vld (d : BitVec 5) (a : BitVec 5) (p : BitVec 3) (s : BitVec 2)
  /-- VLDS (R151): Loads strided lanes. -/
  | vlds (d : BitVec 5) (a : BitVec 5) (b : BitVec 5) (p : BitVec 3) (s : BitVec 2)
  /-- VGATH (R151): Gathers lanes by vector offsets. -/
  | vgath (d : BitVec 5) (a : BitVec 5) (b : BitVec 5) (p : BitVec 3) (s : BitVec 2)
  /-- VST (R151): Stores contiguous lanes. -/
  | vst (d : BitVec 5) (a : BitVec 5) (p : BitVec 3) (s : BitVec 2)
  /-- VSTS (R151): Stores strided lanes. -/
  | vsts (d : BitVec 5) (a : BitVec 5) (b : BitVec 5) (p : BitVec 3) (s : BitVec 2)
  /-- VSCAT (R151): Scatters lanes by vector offsets. -/
  | vscat (d : BitVec 5) (a : BitVec 5) (b : BitVec 5) (p : BitVec 3) (s : BitVec 2)
  /-- VLDB (R151): Loads up to 128 bytes, zeroing the rest. -/
  | vldb (d : BitVec 5) (a : BitVec 5) (b : BitVec 5)
  /-- VREDSUM (R155): Sums active lanes by the fixed pairwise tree into lane 0. -/
  | vredsum (d : BitVec 5) (a : BitVec 5) (k : BitVec 5) (p : BitVec 3) (s : BitVec 2)
  /-- VREDMIN (R155): Minimum of active lanes by the fixed tree. -/
  | vredmin (d : BitVec 5) (a : BitVec 5) (k : BitVec 5) (p : BitVec 3) (s : BitVec 2)
  /-- VREDMAX (R155): Maximum of active lanes by the fixed tree. -/
  | vredmax (d : BitVec 5) (a : BitVec 5) (k : BitVec 5) (p : BitVec 3) (s : BitVec 2)
  /-- VSCAN (R155): Inclusive running sum in lane order. -/
  | vscan (d : BitVec 5) (a : BitVec 5) (k : BitVec 5) (p : BitVec 3) (s : BitVec 2)
  /-- VPERM (R155): Permutes lanes by index. -/
  | vperm (d : BitVec 5) (a : BitVec 5) (b : BitVec 5) (p : BitVec 3) (s : BitVec 2)
  /-- VBCAST (R155): Broadcasts an x register to active lanes. -/
  | vbcast (d : BitVec 5) (a : BitVec 5) (p : BitVec 3) (s : BitVec 2)
  /-- VSLIDE (R155): Slides lanes by a signed amount. -/
  | vslide (d : BitVec 5) (a : BitVec 5) (b : BitVec 5) (p : BitVec 3) (s : BitVec 2)
  /-- VINS (R155): Inserts an x register into one lane. -/
  | vins (d : BitVec 5) (a : BitVec 5) (b : BitVec 5) (s : BitVec 2)
  /-- VEXT (R155): Extracts one lane into an x register. -/
  | vext (d : BitVec 5) (a : BitVec 5) (b : BitVec 5) (s : BitVec 2)
  /-- VZIP (R155): Interleaves the low halves of two registers. -/
  | vzip (d : BitVec 5) (a : BitVec 5) (b : BitVec 5) (p : BitVec 3) (s : BitVec 2)
  /-- VCVT (R157): Converts lanes between formats of one width. -/
  | vcvt (d : BitVec 5) (a : BitVec 5) (c : BitVec 4) (p : BitVec 3) (s : BitVec 2)
  /-- VNARROW (R157): Converts lanes to half width into one half of vd. -/
  | vnarrow (d : BitVec 5) (a : BitVec 5) (h : BitVec 1) (c : BitVec 4) (p : BitVec 3) (s : BitVec 2)
  /-- VWIDEN (R157): Converts one half of va to double width. -/
  | vwiden (d : BitVec 5) (a : BitVec 5) (h : BitVec 1) (c : BitVec 4) (p : BitVec 3) (s : BitVec 2)
  /-- UNPK3 (R158): Decodes 25 ternary bytes into 125 INT8 lanes with an invalid-lane predicate. -/
  | unpk3 (d : BitVec 5) (a : BitVec 5) (b : BitVec 5) (q : BitVec 3)
  /-- UNPK4 (R159): Decodes one Q4 block into 32 lanes. -/
  | unpk4 (d : BitVec 5) (a : BitVec 5) (b : BitVec 5) (p : BitVec 3) (s : BitVec 2)
  /-- VPWL (R160): Evaluates a 16-segment piecewise-linear curve on FP32 lanes. -/
  | vpwl (d : BitVec 5) (a : BitVec 5) (b : BitVec 5) (p : BitVec 3)
  /-- VSUPD (R161): Compensated FP32 state update. -/
  | vsupd (d : BitVec 5) (a : BitVec 5) (b : BitVec 5) (p : BitVec 3)
  /-- VPRUNE (R162): Prunes INT8 lanes to 4:8 and writes the masks. -/
  | vprune (d : BitVec 5) (a : BitVec 5) (q : BitVec 3)
  /-- PAND (R163): Predicate AND. -/
  | pand (d : BitVec 5) (a : BitVec 5) (b : BitVec 5)
  /-- POR (R163): Predicate OR. -/
  | por (d : BitVec 5) (a : BitVec 5) (b : BitVec 5)
  /-- PXOR (R163): Predicate XOR. -/
  | pxor (d : BitVec 5) (a : BitVec 5) (b : BitVec 5)
  /-- PNOT (R163): Predicate NOT. -/
  | pnot (d : BitVec 5) (a : BitVec 5)
  /-- PSET (R163): Activates the first n lanes. -/
  | pset (d : BitVec 5) (a : BitVec 5) (s : BitVec 2)
  /-- PCNT (R163): Counts active lanes. -/
  | pcnt (d : BitVec 5) (a : BitVec 5) (s : BitVec 2)
  /-- PFIRST (R163): Finds the first active lane. -/
  | pfirst (d : BitVec 5) (a : BitVec 5) (s : BitVec 2)
  /-- MXCFG (R186): Checks and writes the matrix configuration MXC. -/
  | mxcfg (a : BitVec 5)
  /-- MXZERO (R187): Queues zeroing of a tile, its tags and flags. -/
  | mxzero (d : BitVec 5)
  /-- MXLDB (R181): Queues a dense weight load into a Weight Buffer slot. -/
  | mxldb (d : BitVec 5) (a : BitVec 5)
  /-- MXLDBS (R181): Queues a load of one sparse column with explicit masks. -/
  | mxldbs (d : BitVec 5) (a : BitVec 5) (b : BitVec 5)
  /-- MXLDBG (R181): Queues a sparse weight load with LFSR-generated masks. -/
  | mxldbg (d : BitVec 5) (a : BitVec 5)
  /-- MXSTG (R183): Queues the filling of an A stage. -/
  | mxstg (d : BitVec 5) (a : BitVec 5)
  /-- MXMUL (R188): Checks and queues a matrix product into a tile. -/
  | mxmul (d : BitVec 5) (a : BitVec 5)
  /-- MXRD (R191): Checks and queues a readout of tile rows to memory. -/
  | mxrd (d : BitVec 5) (a : BitVec 5)
  /-- MXFENCE (R192): Stalls MI until its earlier engine entries complete. -/
  | mxfence
  /-- FORK_MS (R170): Queues a program start on MS and returns a ticket. -/
  | forkMs (d : BitVec 5) (a : BitVec 5) (b : BitVec 5)
  /-- FORK_MI (R170): Queues a program start on MI. -/
  | forkMi (d : BitVec 5) (a : BitVec 5) (b : BitVec 5)
  /-- FORK_CS (R170): Queues a program start on the copy sequencer. -/
  | forkCs (d : BitVec 5) (a : BitVec 5) (b : BitVec 5)
  /-- JOIN (R173): Waits for a forked program to end and returns its exit value. -/
  | join (d : BitVec 5) (a : BitVec 5)
  /-- SEMPOST (R174): Adds to a Set semaphore, saturating, as a release. -/
  | sempost (d : BitVec 5) (a : BitVec 5)
  /-- SEMWAIT (R174): Waits in order for a semaphore count and takes it. -/
  | semwait (d : BitVec 5) (a : BitVec 5)
  /-- ENGSTAT (R175): Reads engine status by selector. -/
  | engstat (d : BitVec 5) (a : BitVec 5)
  /-- CPY (R253): Checks and issues a copy, returning its handle. -/
  | cpy (d : BitVec 5)
  /-- CPYM (R259): Issues a copy of one source to the same ULM address of many cores. -/
  | cpym (d : BitVec 5)
  /-- CPYCAN (R260): Cancels a copy and returns its prior status. -/
  | cpycan (d : BitVec 5) (a : BitVec 5)
  /-- CPYST (R260): Returns a copy's status word. -/
  | cpyst (d : BitVec 5) (a : BitVec 5)
  /-- STCFG (R262): Binds a stream slot to f28-f31 or v28-v31 with an address pattern. -/
  | stcfg (d : BitVec 5)
  /-- STEND (R265): Unbinds a stream slot after its pushes are performed. -/
  | stend (d : BitVec 5)
  /-- STSTAT (R265): Reads a stream slot's status. -/
  | ststat (d : BitVec 5) (a : BitVec 5)
  /-- REELINIT (R290): Initialises a reel header. -/
  | reelinit (a : BitVec 5) (b : BitVec 5)
  /-- REELAWAIT (R290): Waits until the reel's read slot is filled and returns its address. -/
  | reelawait (d : BitVec 5) (a : BitVec 5)
  /-- REELREL (R290): Releases the reel's read slot and advances RP. -/
  | reelrel (a : BitVec 5)
  /-- REELST (R290): Reads the reel's state. -/
  | reelst (d : BitVec 5) (a : BitVec 5)
  /-- TENQ (R292): Sends a 64-byte entry to a FIFO task queue. -/
  | tenq (a : BitVec 5) (b : BitVec 5)
  /-- TDEQ (R293): Removes the head of a task queue. -/
  | tdeq (d : BitVec 5) (a : BitVec 5) (b : BitVec 5)
  /-- FUTLD (R294): Reads a full future, or takes FUTURE_EMPTY. -/
  | futld (d : BitVec 5) (a : BitVec 5)
  /-- FUTST (R294): Fills an empty future. -/
  | futst (d : BitVec 5) (a : BitVec 5) (b : BitVec 5)
  /-- LAUNCH (R304): Checks and sends a launch packet to a stage input queue. -/
  | launch (a : BitVec 5)
  /-- BARINIT (R369): Initialises a barrier with its participant count. -/
  | barinit (d : BitVec 5) (a : BitVec 5) (b : BitVec 5)
  /-- BARARR (R369): Arrives at a barrier. -/
  | bararr (d : BitVec 5) (a : BitVec 5)
  /-- BARWAIT (R369): Waits for a barrier's phase to change. -/
  | barwait (d : BitVec 5) (a : BitVec 5) (b : BitVec 5)
  /-- DCINIT (R368): Sets a dependence counter and clears its poison. -/
  | dcinit (a : BitVec 5) (b : BitVec 5)
  /-- DCDEC (R368): Decrements or poisons a dependence counter. -/
  | dcdec (d : BitVec 5) (a : BitVec 5) (b : BitVec 5)
  /-- DCWAIT (R368): Waits until a dependence counter reaches zero. -/
  | dcwait (a : BitVec 5)
  /-- SLOPEN (R374): Closes an open slate and opens a new window. -/
  | slopen (d : BitVec 5) (a : BitVec 5)
  /-- SLOPEN_CLOSE (R374): With CLOSE set, closes the slate and opens nothing. -/
  | slopenClose (d : BitVec 5) (a : BitVec 5)
  /-- SLWAIT (R374): Waits for a slate generation to close. -/
  | slwait (d : BitVec 5) (a : BitVec 5) (b : BitVec 5)
  /-- SLSTAT (R374): Reads a slate's status word. -/
  | slstat (d : BitVec 5) (a : BitVec 5)
  /-- BUMP (R266): Allocates chunks from an allocator descriptor in one step. -/
  | bump (d : BitVec 5) (a : BitVec 5) (b : BitVec 5)
  /-- RNGMAP (R329): Enters a new range from an image. -/
  | rngmap (d : BitVec 5) (a : BitVec 5)
  /-- RNGUNMAP (R330): Removes a range. -/
  | rngunmap (d : BitVec 5) (a : BitVec 5)
  /-- RNGSPLIT (R330): Cuts a range in two. -/
  | rngsplit (d : BitVec 5) (a : BitVec 5) (b : BitVec 5)
  /-- RNGMERGE (R330): Joins a range with the following range. -/
  | rngmerge (d : BitVec 5) (a : BitVec 5)
  /-- RNGPROT (R331): Sets a range's permissions. -/
  | rngprot (d : BitVec 5) (a : BitVec 5) (b : BitVec 5)
  /-- RNGRES_ADD (R331): Adds a residency interval to a range. -/
  | rngresAdd (d : BitVec 5) (a : BitVec 5) (b : BitVec 5)
  /-- RNGRES_REMOVE (R331): Removes a residency interval from a range. -/
  | rngresRemove (d : BitVec 5) (a : BitVec 5) (b : BitVec 5)
  /-- RNGINV (R332): Drops translations of an interval everywhere and waits for their users. -/
  | rnginv (d : BitVec 5) (a : BitVec 5) (b : BitVec 5)
  /-- RNGCMP (R333): Starts moving a range's backing to a new physical base. -/
  | rngcmp (d : BitVec 5) (a : BitVec 5) (b : BitVec 5)
  /-- RNGQRY (R334): Finds the range covering an address, optionally locking its RTB entry. -/
  | rngqry (d : BitVec 5) (a : BitVec 5) (b : BitVec 5)
  /-- LCMREM_REMOVE (R343): Removes a logical core from the logical core map. -/
  | lcmremRemove (d : BitVec 5) (a : BitVec 5) (b : BitVec 5)
  /-- LCMREM_PLACE (R343): Places a physical core under a logical index. -/
  | lcmremPlace (d : BitVec 5) (a : BitVec 5) (b : BitVec 5)
  /-- QTMAP_MAP (R338): Maps a task-queue handle. -/
  | qtmapMap (d : BitVec 5) (a : BitVec 5) (b : BitVec 5)
  /-- QTMAP_UNMAP (R338): Unmaps a task-queue handle. -/
  | qtmapUnmap (d : BitVec 5) (a : BitVec 5) (b : BitVec 5)
  /-- QTPIN_PIN (R338): Pins a queue-table entry in the queue manager. -/
  | qtpinPin (d : BitVec 5) (a : BitVec 5) (b : BitVec 5)
  /-- QTPIN_UNPIN (R338): Unpins a queue-table entry. -/
  | qtpinUnpin (d : BitVec 5) (a : BitVec 5) (b : BitVec 5)
  /-- SNAPINIT_CURSOR (R352): Initialises a cursor on a tree. -/
  | snapinitCursor (d : BitVec 5) (a : BitVec 5) (b : BitVec 5)
  /-- SNAPINIT_CREATE (R352): Creates a Continuity Tree from an image. -/
  | snapinitCreate (d : BitVec 5) (a : BitVec 5) (b : BitVec 5)
  /-- SNAPINIT_DESTROY (R352): Destroys a tree with no holds. -/
  | snapinitDestroy (d : BitVec 5) (a : BitVec 5) (b : BitVec 5)
  /-- SNAPINIT_QUERY (R352): Copies a tree record to the local window. -/
  | snapinitQuery (d : BitVec 5) (a : BitVec 5) (b : BitVec 5)
  /-- SNAPHASH (R353): Folds input blocks into the cursor's key and digest and logs checkpoints. -/
  | snaphash (d : BitVec 5) (a : BitVec 5) (b : BitVec 5)
  /-- SNAPPUT (R354): Deposits a snapshot at the cursor's depth or holds the existing one. -/
  | snapput (d : BitVec 5) (a : BitVec 5) (b : BitVec 5)
  /-- SNAPFIND (R356): Finds the deepest usable snapshot on the cursor's logged prefix. -/
  | snapfind (d : BitVec 5) (a : BitVec 5)
  /-- SNAPGET (R357): Issues a copy restoring the held node's state. -/
  | snapget (d : BitVec 5) (a : BitVec 5) (b : BitVec 5)
  /-- SNAPREL (R358): Releases the cursor's live hold. -/
  | snaprel (d : BitVec 5) (a : BitVec 5) (b : BitVec 5)
  /-- SNAPREL_ALL (R358): Clears every hold of a tree and advances HEPOCH. -/
  | snaprelAll (d : BitVec 5) (a : BitVec 5) (b : BitVec 5)
  /-- MONOPEN (R297): Configures a Montage bin and names its reel. -/
  | monopen
  /-- MONPUT (R298): Sends a feature row to the Montage unit; status returns in X[d]. -/
  | monput (d : BitVec 5) (a : BitVec 5) (b : BitVec 5)
  /-- MONSEAL (R301): Seals a filling bin explicitly. -/
  | monseal (a : BitVec 5)
  /-- MONSTAT (R301): Reads a bin's state. -/
  | monstat (d : BitVec 5) (a : BitVec 5)
  /-- MONCLOSE (R299): Seals and closes a bin. -/
  | monclose (a : BitVec 5)
  /-- RDTS (R380): Reads the timebase. -/
  | rdts (d : BitVec 5)
  /-- RDCYC (R380): Reads the cycle counter. -/
  | rdcyc (d : BitVec 5)
  /-- RDVC (R380): Reads an entry of the die's vector clock. -/
  | rdvc (d : BitVec 5) (a : BitVec 5)
  /-- PMCFG (R382): Programs a performance counter and zeroes it. -/
  | pmcfg (a : BitVec 5) (b : BitVec 5)
  /-- PMRD (R383): Reads a performance or fixed counter. -/
  | pmrd (d : BitVec 5) (a : BitVec 5)
  /-- DLYRD (R385): Reads a delay-account field, optionally clearing all entries. -/
  | dlyrd (d : BitVec 5) (a : BitVec 5)
  /-- DBGMARK (R386): Writes a marker record into trace SRAM when a session is open. -/
  | dbgmark (a : BitVec 5)
  /-- C_MV (R57): Compact move. -/
  | cMv (d : BitVec 5) (a : BitVec 5)
  /-- C_ADD (R57): Compact add. -/
  | cAdd (d : BitVec 5) (a : BitVec 5)
  /-- C_SUB (R57): Compact subtract. -/
  | cSub (d : BitVec 5) (a : BitVec 5)
  /-- C_AND (R57): Compact AND. -/
  | cAnd (d : BitVec 5) (a : BitVec 5)
  /-- C_OR (R57): Compact OR. -/
  | cOr (d : BitVec 5) (a : BitVec 5)
  /-- C_XOR (R57): Compact XOR. -/
  | cXor (d : BitVec 5) (a : BitVec 5)
  /-- C_SLL (R57): Compact shift left. -/
  | cSll (d : BitVec 5) (a : BitVec 5)
  /-- C_SRL (R57): Compact logical shift right. -/
  | cSrl (d : BitVec 5) (a : BitVec 5)
  /-- C_SRA (R57): Compact arithmetic shift right. -/
  | cSra (d : BitVec 5) (a : BitVec 5)
  /-- C_MUL (R57): Compact multiply. -/
  | cMul (d : BitVec 5) (a : BitVec 5)
  /-- C_SLT (R57): Compact signed set-less-than. -/
  | cSlt (d : BitVec 5) (a : BitVec 5)
  /-- C_JMPR (R57): Compact jump to register. -/
  | cJmpr (a : BitVec 5)
  /-- C_CALLR (R57): Compact call through register. -/
  | cCallr (a : BitVec 5)
  /-- C_LDX (R57): Compact doubleword load at offset 0. -/
  | cLdx (d : BitVec 5) (a : BitVec 5)
  /-- C_STX (R57): Compact doubleword store at offset 0. -/
  | cStx (s : BitVec 5) (a : BitVec 5)
  /-- C_END (R57): Compact END. -/
  | cEnd
  /-- BRK (R58): Takes BREAKPOINT at its own address. -/
  | brk
  /-- NOP (R58): Advances the PC only. -/
  | nop
  /-- YIELD (R58): Steps back in the next issue choice. -/
  | yield
  /-- C_ADDI (R57): Compact add immediate. -/
  | cAddi (d : BitVec 5) (i : BitVec 5)
  /-- C_LI (R57): Compact load immediate. -/
  | cLi (d : BitVec 5) (i : BitVec 5)
  /-- C_SLLI (R57): Compact shift left immediate. -/
  | cSlli (d : BitVec 5) (n : BitVec 5)
  /-- C_SRLI (R57): Compact logical shift right immediate. -/
  | cSrli (d : BitVec 5) (n : BitVec 5)
  /-- C_SRAI (R57): Compact arithmetic shift right immediate. -/
  | cSrai (d : BitVec 5) (n : BitVec 5)
  /-- C_ANDI (R57): Compact AND immediate. -/
  | cAndi (d : BitVec 5) (i : BitVec 5)
  /-- C_ORI (R57): Compact OR immediate. -/
  | cOri (d : BitVec 5) (i : BitVec 5)
  /-- C_XORI (R57): Compact XOR immediate. -/
  | cXori (d : BitVec 5) (i : BitVec 5)
  /-- C_SPADJ (R57): Compact stack-pointer adjust by multiples of 8. -/
  | cSpadj (i : BitVec 10)
  /-- C_J (R57): Compact jump. -/
  | cJ (o : BitVec 10)
  /-- C_JAL (R57): Compact jump and link. -/
  | cJal (o : BitVec 10)
  /-- C_BEQZ (R57): Compact branch if zero. -/
  | cBeqz (a : BitVec 5) (o : BitVec 5)
  /-- C_BNEZ (R57): Compact branch if not zero. -/
  | cBnez (a : BitVec 5) (o : BitVec 5)
  /-- C_SLD (R57): Compact stack doubleword load. -/
  | cSld (d : BitVec 5) (i : BitVec 5)
  /-- C_SST (R57): Compact stack doubleword store. -/
  | cSst (s : BitVec 5) (i : BitVec 5)
  /-- C_PLD (R57): Compact persistent-region doubleword load. -/
  | cPld (d : BitVec 5) (i : BitVec 5)
  /-- C_PST (R57): Compact persistent-region doubleword store. -/
  | cPst (s : BitVec 5) (i : BitVec 5)
  /-- C_SLW (R57): Compact stack word load. -/
  | cSlw (d : BitVec 5) (i : BitVec 5)
  /-- C_SSW (R57): Compact stack word store. -/
  | cSsw (s : BitVec 5) (i : BitVec 5)
  /-- MESSAGE_INJECT (R275): The NI injects the next buffered message whole into the mesh. -/
  | messageInject (unit : Nat)
  /-- SEND_BUFFER_GRANT (R275): A waiting send or commit receives a send-buffer entry when one frees. -/
  | sendBufferGrant (unit : Nat)
  /-- MESSAGE_ARRIVAL (R278): The destination NI places an arriving message in the inbox, T6 queue, pending queue or T7 queue, or returns it. -/
  | messageArrival (i : Nat)
  /-- MESSAGE_RETURN_ARRIVAL (R279): A returned message reaches its context's return cell, context buffer or T7. -/
  | messageReturnArrival (i : Nat)
  /-- EDGE_RETURN (R280): A return to an edge agent is dropped or puts a launch packet back or removes it. -/
  | edgeReturn (i : Nat)
  /-- REPLY_ARRIVAL (R281): A reply writes its register, or goes to a saved context's buffer, or is discarded. -/
  | replyArrival (i : Nat)
  /-- HANDLER_ENTRY_CHANGE (R22): A performed change to a handler entry readies, holds or returns waiting messages. -/
  | handlerEntryChange (core : Nat) (hid : Nat)
  /-- PENDING_DELIVERY (R22): Pending messages are delivered in order after an entry becomes BOUND. -/
  | pendingDelivery (core : Nat) (hid : Nat)
  /-- MESSAGE_TAKE (R36): The core takes the highest-ranked ready message onto the lowest FREE thread of its mask. -/
  | messageTake (core : Nat)
  /-- DEFER_READY (R276): A deferred message becomes ready again when the timebase reaches its time. -/
  | deferReady (core : Nat) (slot : Nat)
  /-- END_COMMIT (R27): END's commit completes and the activation retires. -/
  | endCommit (core : Nat) (tid : Nat)
  /-- WATCHDOG_EXPIRY (R29): An activation's watchdog expires and it takes WATCHDOG. -/
  | watchdogExpiry (core : Nat) (tid : Nat)
  /-- ACTIVE_MESSAGE_WATCHDOG (R32): An active message exceeds 4,096 cycles and takes WATCHDOG. -/
  | activeMessageWatchdog (core : Nat)
  /-- SEQUENCER_WATCHDOG (R171): A sequencer program's watchdog expires and the program ends. -/
  | sequencerWatchdog (set : Nat) (q : Nat)
  /-- UNCORRECTABLE_ERROR (R215): An uncorrectable memory error poisons its sector, entry or record. -/
  | uncorrectableError (obj : ErrObj)
  /-- UNCORRECTABLE_TRAP (R395): A consumed uncorrectable error is taken at the next boundary and retakes or escalates. -/
  | uncorrectableTrap (core : Nat) (tid : Nat)
  /-- PREEMPT_REQUEST (R394): A message waiting 1 us above a running priority raises a KIND 3 item naming a victim. -/
  | preemptRequest (core : Nat)
  /-- SAVE_COMPLETE (R396): The save engine finishes writing a context and the thread becomes SAVED. -/
  | saveComplete (core : Nat) (tid : Nat)
  /-- RESUMPTION_ITEM (R398): A SAVED thread with nothing to take raises a KIND 4 item to T7. -/
  | resumptionItem (core : Nat) (tid : Nat)
  /-- RESTORE_COMPLETE (R398): The saved registers and journal are restored and buffered replies applied. -/
  | restoreComplete (core : Nat) (tid : Nat)
  /-- SERVICE_ITEM_START (R391): T7 starts its next service item at the service entry. -/
  | serviceItemStart (core : Nat)
  /-- ACTIVE_MESSAGE_START (R32): T6 takes an active message and runs its handler. -/
  | activeMessageStart (core : Nat)
  /-- RLD_SERVE (R249): T6 serves a remote load and replies. -/
  | rldServe (core : Nat)
  /-- RST_SERVE (R249): T6 serves a remote store. -/
  | rstServe (core : Nat)
  /-- RCAS_SERVE (R249): T6 serves a remote compare-and-swap and replies. -/
  | rcasServe (core : Nat)
  /-- RAMO_SERVE (R249): T6 serves a remote atomic and replies. -/
  | ramoServe (core : Nat)
  /-- MIGRATE_ARRIVAL (R38): A migrated context arrives and is held as a resumption on the destination core. -/
  | migrateArrival (i : Nat)
  /-- WAIT_TIME_REACHED (R133): A thread in WAIT resumes when the timebase reaches its value. -/
  | waitTimeReached (agent : Nat)
  /-- DCWAIT_RELEASE (R371): A counter waiter is released after the counter reaches zero or is poisoned. -/
  | dcwaitRelease (agent : Nat)
  /-- BARWAIT_RELEASE (R371): A barrier waiter is released after the phase changes or poison. -/
  | barwaitRelease (agent : Nat)
  /-- SLWAIT_RELEASE (R374): A slate waiter is released when the slate closes. -/
  | slwaitRelease (agent : Nat)
  /-- REELAWAIT_FILL (R290): A waiting REELAWAIT returns once the read slot fills. -/
  | reelawaitFill (agent : Nat)
  /-- QGET_WAKE (R287): A waiting QGET takes an entry when one arrives. -/
  | qgetWake (agent : Nat)
  /-- QPUT_ROOM (R287): A waiting QPUT appends once the queue has room. -/
  | qputRoom (agent : Nat)
  /-- JOIN_WAKE (R173): A waiting JOIN returns once its program ends. -/
  | joinWake (agent : Nat)
  /-- SEMWAIT_GRANT (R174): A semaphore waiter is granted in order when the count suffices. -/
  | semwaitGrant (agent : Nat)
  /-- FLAG_TO_SFLAGS (R85): A raised sticky flag reaches the Set's SFLAGS within 16 cycles. -/
  | flagToSflags (set : Nat)
  /-- CHECKER_MISMATCH (R400): The checker blocks a commit, re-executes and counts a strike. -/
  | checkerMismatch (core : Nat)
  /-- KNOWN_ANSWER_MISMATCH (R400): A known-answer operation of the vector unit or ME mismatches. -/
  | knownAnswerMismatch (core : Nat) (me : Bool)
  /-- SCAN_COMPLETE (R136): A 200 us scan ends with PASS or FAIL. -/
  | scanComplete (core : Nat) (pass : Bool)
  /-- SCAN_ABORT (R136): A running scan stops for an urgent message or a pre-emption request. -/
  | scanAbort (core : Nat)
  /-- LAUNCH_ACCEPT (R304): The queue manager accepts or returns a launch packet and resolves its values. -/
  | launchAccept (i : Nat)
  /-- TASK_ENQUEUE (R292): A TENQ message is appended to its queue or returned. -/
  | taskEnqueue (i : Nat)
  /-- LAUNCH_WINDOW_WRITE (R295): A 64-byte posted write to a launch page enters the CP input FIFO; `at_` is its address in the page
  and its doublewords. -/
  | launchWindowWrite (die : Nat) (fn : Nat) (at_ : Nat × List (BitVec 64))
  /-- CP_DISPATCH (R305): The CP dispatches its head packet into a stage queue or holds it. -/
  | cpDispatch (die : Nat)
  /-- LAUNCH_READY (R306): A blocked packet becomes ready after its counter reaches zero. -/
  | launchReady (part : Nat) (qh : Nat) (i : Nat)
  /-- BLOCKED_PACKET_REMOVAL (R307): A blocked packet whose counter is poisoned is removed and reported. -/
  | blockedPacketRemoval (part : Nat) (qh : Nat) (i : Nat)
  /-- THREAD_REPORT (R309): A core reports a FREE thread of the stage handler to the dispatcher. -/
  | threadReport (core : Nat) (tid : Nat)
  /-- STAGE_DISPATCH (R309): The dispatcher sends the top ready packet as a LAUNCH message to a reported thread. -/
  | stageDispatch (part : Nat) (qh : Nat)
  /-- DEADLINE_MISS (R312): The timebase passes an activation's deadline, setting MISS and counting it. -/
  | deadlineMiss (core : Nat) (tid : Nat)
  /-- GAFFER_SAMPLE (R316): Every 1 us the Gaffer samples ready packets of each stage. -/
  | gafferSample (die : Nat)
  /-- GAFFER_DECISION (R316): Every 10 us the Gaffer begins core and pair moves between stages. -/
  | gafferDecision (die : Nat)
  /-- SEQUENCER_PROGRAM_START (R171): A sequencer starts the next program of its fork queue. -/
  | sequencerProgramStart (set : Nat) (q : Nat)
  /-- ENGINE_ENTRY_START (R189): The engine queue head meets its barrier and streams. -/
  | engineEntryStart (set : Nat)
  /-- ENGINE_ENTRY_COMPLETE (R190): An engine entry completes in order and makes its completion post. -/
  | engineEntryComplete (set : Nat)
  /-- WEIGHT_LOAD_START (R184): The loader starts the next load once earlier MXMULs of its target complete. -/
  | weightLoadStart (set : Nat)
  /-- WEIGHT_LOAD_COMPLETE (R184): A load's last byte is written; the target becomes READY and posts. -/
  | weightLoadComplete (set : Nat)
  /-- WEIGHT_LOAD_FAULT (R184): A load meets a fault or poisoned sector and its target becomes POISON. -/
  | weightLoadFault (set : Nat)
  /-- WEIGHT_LOAD_SUSPEND (R184): A load meets a partial-residency hole and waits for T7's service. -/
  | weightLoadSuspend (set : Nat)
  /-- COPY_START (R253): A copy with ORD starts once the agent's previous copy has ended. -/
  | copyStart (h : BitVec 64)
  /-- COPY_SUSPEND (R257): A copy meets a non-resident byte and T7 receives PARTIAL_RESIDENCY. -/
  | copySuspend (h : BitVec 64)
  /-- COPY_COMPLETE (R258): A copy writes its last byte and performs its completion action. -/
  | copyComplete (h : BitVec 64)
  /-- COPY_FAULT (R258): A copy ends in FAULT, poisoning its completion target and reporting to T7. -/
  | copyFault (h : BitVec 64)
  /-- STREAM_READAHEAD (R264): The copy engine reads ahead a strip for a read-bound stream slot. -/
  | streamReadahead (core : Nat) (tid : Nat) (slot : Nat)
  /-- STREAM_PUSH_WRITE (R264): A pushed strip is written to memory as a copy's writes. -/
  | streamPushWrite (core : Nat) (tid : Nat) (slot : Nat)
  /-- MONTAGE_ROW_ARRIVAL (R298): The Montage unit places or refuses an arriving row and replies with status. -/
  | montageRowArrival (set : Nat) (i : Nat)
  /-- BIN_TIMEOUT (R299): A bin's timeout expires and it seals its tile. -/
  | binTimeout (set : Nat) (bin : Nat)
  /-- SEAL_COMPLETE (R299): A SEALING bin completes its seal when its slot frees. -/
  | sealComplete (set : Nat) (bin : Nat)
  /-- INGRESS_EVENT (R285): The ingress unit routes an event packet, updating the slate watermark and late count. -/
  | ingressEvent (die : Nat) (port : Nat)
  /-- INGRESS_WATERMARK (R285): A watermark packet advances its source's watermark. -/
  | ingressWatermark (die : Nat) (port : Nat)
  /-- SLATE_TIMEOUT (R373): An open slate closes on its grace timeout. -/
  | slateTimeout (die : Nat) (slate : Nat)
  /-- REDUCE_COMBINE (R377): A router combines the inputs of a round once all are present and passes them on. -/
  | reduceCombine (die : Nat) (tree : Nat) (router : Nat)
  /-- REDUCE_RESULT (R378): The root router sends the round's result to the result handler. -/
  | reduceResult (die : Nat) (tree : Nat)
  /-- RESIDENCY_SPILL (R214): T7 requests a spill of a persistent region to its backing. -/
  | residencySpill (core : Nat) (preg : Nat)
  /-- RESIDENCY_FILL (R214): T7 requests a fill of a persistent region from its backing. -/
  | residencyFill (core : Nat) (preg : Nat) (off : BitVec 64)
  /-- RESIDENCY_COPY_COMPLETE (R214): A spill or fill copy completes and the region changes state. -/
  | residencyCopyComplete (core : Nat) (preg : Nat)
  /-- RANGE_WALK_COMPLETE (R326): The Range Walker supplies a descriptor on an RTB miss. -/
  | rangeWalkComplete (core : Nat) (va : BitVec 64)
  /-- RNGINV_COMPLETE (R332): RNGINV completes once all users of the old translations have ended. -/
  | rnginvComplete (agent : Nat)
  /-- LCMREM_COMPLETE (R343): Every router, NI and dispatcher uses the new logical-map entry. -/
  | lcmremComplete (agent : Nat)
  /-- COMPACTION_SWITCH (R333): After copying, the compactor sets PBASE, HOME and GEN in one step. -/
  | compactionSwitch (die : Nat)
  /-- COMPACTION_COMPLETE (R333): The compaction's RNGINV completes and the completion action follows. -/
  | compactionComplete (die : Nat)
  /-- EPOCH_CHANGE (R233): A die's write counter wraps and the domain starts a new clock epoch. -/
  | epochChange (die : Nat)
  /-- CLOCK_MESSAGE (R433): A peer's vector-clock message arrives and is held for the next write. -/
  | clockMessage (clock : Nat × List (BitVec 32))
  /-- CORE_AT_REST (R404): A stopped member core writes its stop record. -/
  | coreAtRest (core : Nat)
  /-- DEBUG_STOP_REQUEST (R403): The debug port requests a halt-group stop. -/
  | debugStopRequest (die : Nat) (g : Nat)
  /-- DEBUG_CODE_WRITE (R213): The debug port writes code into a DBG partition. -/
  | debugCodeWrite (core : Nat) (addr : BitVec 64) (data : BitVec 16)
  /-- HGC_GO (R402): A write of GO resumes a halt group. -/
  | hgcGo (die : Nat) (g : Nat)
  /-- CPBRK_WRITE (R406): A write to a command-packet breakpoint register; clearing HIT resumes the CP. -/
  | cpbrkWrite (n : Nat) (v : BitVec 64)
  /-- CLAIM (R419): A master claims an unowned device. -/
  | claim (m : List Nat)
  /-- OFFER (R420): The owner offers a handover to a named master. -/
  | offer (m : Nat) (dest : Nat)
  /-- ACCEPT (R420): The offered master accepts ownership. -/
  | accept (m : Nat × Option Nat)
  /-- RELEASE (R420): The owner releases ownership. -/
  | release (m : Nat)
  /-- OFFER_TIMEOUT (R420): An offer lapses after 100 ms without ACCEPT. -/
  | offerTimeout
  /-- DOMAIN_WRITE (R208): Writes the causal-domain size and index, discarded while a partition runs. -/
  | domainWrite (v : BitVec 64)
  /-- TBSLEW_WRITE (R208): Sets the timebase rate correction, clamped to 100 ppm. -/
  | tbslewWrite (v : BitVec 64)
  /-- TBSTEP_WRITE (R208): Steps the timebase forward, discarded while a partition runs. -/
  | tbstepWrite (v : BitVec 64)
  /-- MSIX_TRIGGER (R208): A write raises an MSI-X vector of a function. -/
  | msixTrigger (w : Writer) (fn : Nat) (v : BitVec 64)
  /-- CORE_RESET (R408): Writing CRST.GO starts a queue-level reset of a core. -/
  | coreReset (w : Writer) (core : Nat)
  /-- SET_RESET (R408): Writing SRST.GO starts a queue-level reset of a Set. -/
  | setReset (w : Writer) (set : Nat)
  /-- QUEUE_RESET_COMPLETE (R408): A queue-level reset finishes and the core or Set takes work again. -/
  | queueResetComplete (isSet : Bool) (id : Nat)
  /-- SCANCTL_START (R208): Writing START runs the in-field scan of a core from MMIO. -/
  | scanctlStart (w : Writer) (core : Nat) (v : BitVec 64)
  /-- TRACE_OPEN (R407): The debug port opens a trace session over a core mask. -/
  | traceOpen (die : Nat) (mask : BitVec 64) (stop : Bool)
  /-- TRACE_CLOSE (R407): The debug port closes the trace session as COMPLETE. -/
  | traceClose (die : Nat)
  /-- INGRESS_ROUTE_WRITE (R341): Writes an ingress routing entry, refused outside the port's partition. -/
  | ingressRouteWrite (w : Writer) (die : Nat) (src : Nat) (v : BitVec 64)
  /-- REDUCTION_TREE_WRITE (R376): Writes a reduction tree entry, discarding a round in progress. -/
  | reductionTreeWrite (w : Writer) (die : Nat) (tree : Nat) (dw : Nat) (v : BitVec 64)
  /-- ULM_LOAD_WINDOW_WRITE (R418): The owner writes a core's initial ULM image through its load window. -/
  | ulmLoadWindowWrite (w : Writer) (core : Nat) (addr : Nat) (data : List (BitVec 8))
  /-- MMIO_REGISTER_WRITE (R207): An 8-byte write to an MMIO register without behaviour of its own, checked and counted if refused. -/
  | mmioRegisterWrite (w : Writer) (off : Nat) (size : Nat) (v : BitVec 64)
  /-- GRANT_RESOURCE (R413): The owner grants a resource to a partition in CONFIG_UNLOCKED. -/
  | grantResource (part : Nat) (r : Resource)
  /-- WITHDRAW_RESOURCE (R413): The owner withdraws a resource, scrubbing it. -/
  | withdrawResource (part : Nat) (r : Resource)
  /-- LOCK_INTERFACE (R413): TDISP LOCK_INTERFACE freezes grants and records the configuration digest. -/
  | lockInterface (part : Nat)
  /-- START_INTERFACE (R418): TDISP START_INTERFACE generates keys, loads HTAB and starts each core's T7. -/
  | startInterface (part : Nat)
  /-- STOP_INTERFACE (R413): TDISP STOP_INTERFACE resets and scrubs the partition and wipes its keys. -/
  | stopInterface (part : Nat)
  /-- PARTITION_ERROR (R415): A TDISP violation, IDE failure or illegal access puts a partition in ERROR. -/
  | partitionError (part : Nat)
  /-- ATT_CLEAR (R423): A mailbox request clears a boot step's ATT count. -/
  | attClear (step : Nat)
  /-- SPDM_REQUEST (R425): The SPDM responder answers a request over DOE or MCTP. -/
  | spdmRequest
  /-- DEVICE_RESET (R421): Reset release runs the boot ROM and the start-up steps. -/
  | deviceReset (env : BootInput) (failNormal : List (BitVec 16)) (failAlt : List (BitVec 16)) (badCores : BitVec 128)
  /-- APERTURE_ACCESS (R429): An inbound request through a VF's BAR2 accesses the partition's memory. -/
  | apertureAccess (vf : Nat × Nat) (secure : Bool) (off : BitVec 64) (data : Option (List (BitVec 8))) (n : Nat)
  /-- EVENT_PAGE_WRITE (R431): A posted write to an event page is cut into event packets for the port FIFO. -/
  | eventPageWrite (vf : Nat) (die : Nat) (addr : Nat) (data : List (BitVec 8))
  /-- CSI2_EVENT_PACKET (R436): A data type 0x30 payload enters the port FIFO as event packets. -/
  | csi2EventPacket (port : Nat) (data : List (BitVec 8)) (crcOk : Bool)
  /-- CSI2_FRAME_START (R435): A frame start selects a buffer or drops the frame. -/
  | csi2FrameStart (port : Nat) (vc : Nat)
  /-- CSI2_FRAME_LINE (R434): A frame line is written packed into the frame buffer. -/
  | csi2FrameLine (port : Nat) (vc : Nat) (data : List (BitVec 8)) (crcOk : Bool)
  /-- CSI2_FRAME_END (R435): A frame end performs the frame target's completion. -/
  | csi2FrameEnd (port : Nat) (vc : Nat)
  /-- BRIDGE_RETRAIN (R437): The die bridge retrains and back-pressures every channel. -/
  | bridgeRetrain
  /-- BRIDGE_RETRAIN_COMPLETE (R437): The retrain ends, or fails and puts every partition in ERROR. -/
  | bridgeRetrainComplete (ok : Bool)
  /-- MANAGEMENT_READ (R438): The board controller reads temperatures, powers or boot data over I3C. -/
  | managementRead (off : Nat)
  /-- ILLEGAL_INSTRUCTION (R59): Issue of a word that no map entry assigns takes ILLEGAL_INSTRUCTION precisely. -/
  | illegalInstruction (w : BitVec 32) (compact : Bool)
  /-- CORRECTED_ERROR (R215): A single-bit error is corrected in place and counted in the die's corrected-error counter. -/
  | correctedError (die : Nat)
  /-- POWER_ON (R422): Loss and return of power clear the retention SRAM, and with it the boot record and the BOOTS count. -/
  | powerOn
  /-- COPY_LINE_RELEASE (R206): A copy performs its write of an owned destination line and releases it, letting waiting accesses proceed. -/
  | copyLineRelease (h : BitVec 64)
  /-- COMPACTION_CHUNK_COPY (R333): The Range Compactor finishes moving one 1 MiB chunk, and writers stalled on it proceed. -/
  | compactionChunkCopy (die : Nat)
  /-- MIGRATE_FORWARD_EXPIRY (R38): The old core stops forwarding late replies of a migrated activation 64 us after the move. -/
  | migrateForwardExpiry (i : Nat)
  /-- CSI2_PACKET_DROP (R434): A CSI-2 packet of another data type, or with a multi-bit header error, is dropped and counted. -/
  | csi2PacketDrop (port : Nat)
  /-- INGRESS_TYPE_ERROR (R285): The ingress unit takes a padding packet or a packet of an unknown type from a port FIFO, ignoring it or counting a type error. -/
  | ingressTypeError (die : Nat) (port : Nat)
  /-- MCTP_CONTROL_MESSAGE (R438): Die 0 serves an MCTP control message received over I3C. -/
  | mctpControlMessage
  deriving DecidableEq, Repr

end Sys2Proof
end

