-- ==== Sys2Proof/WellFormed.lean ====
section
/-! DEFINITION. Which instructions have a legal word: the register-file sizes of R50, the reserved codes of R53, R54, R55
and R57, and the per-instruction limits that R59 calls illegal. -/

namespace Sys2Proof

/-- A static rounding field is one of the five modes or "dynamic" (R53). -/
def roundingOk (r : BitVec 3) : Bool := r != 5 && r != 6

/-- The kind of a reduction or scan fits its element size (R154). -/
def redKindOk (k : BitVec 5) (s : BitVec 2) : Bool :=
  k == 0 || k == 1 || (k == 2 && s != 0) || (k == 3 && s == 1)

/-- Format id `f` exists at element width `8 * 2 ^ s` bits (R156). -/
def fmtOk (s : Nat) (f : BitVec 2) : Bool := decide (s < 2) || (decide (s < 4) && f != 3)

/-- A register pair operand: even and at most 26 (R160, R161). -/
def pairOk (r : BitVec 5) : Bool := r.getLsbD 0 == false && decide (r.toNat ≤ 26)

/-- The system-register numbers that R78 assigns. -/
def sysregAssigned (n : BitVec 12) : Bool :=
  let k := n.toNat
  (decide (0x001 ≤ k) && decide (k ≤ 0x006)) || k == 0x008 || k == 0x009 || k == 0x00A
    || (decide (0x100 ≤ k) && decide (k ≤ 0x102)) || k == 0x200
    || (decide (0x208 ≤ k) && decide (k ≤ 0x20F)) || (decide (0x210 ≤ k) && decide (k ≤ 0x212))
    || k == 0x300 || k == 0x301 || k == 0x400 || k == 0x401
    || (decide (0x408 ≤ k) && decide (k ≤ 0x40F))


/-- The word of `i` is a legal instruction word (R50, R53, R54, R55, R57, R59). Machine events have no word and no check. -/
def Instr.wellFormed (i : Instr) : Bool :=
  match i with
  | .add _ _ _ => true
  | .sub _ _ _ => true
  | .addw _ _ _ => true
  | .subw _ _ _ => true
  | .and _ _ _ => true
  | .or _ _ _ => true
  | .xor _ _ _ => true
  | .andn _ _ _ => true
  | .orn _ _ _ => true
  | .sll _ _ _ => true
  | .srl _ _ _ => true
  | .sra _ _ _ => true
  | .rol _ _ _ => true
  | .ror _ _ _ => true
  | .slt _ _ _ => true
  | .sltu _ _ _ => true
  | .seq _ _ _ => true
  | .min _ _ _ => true
  | .max _ _ _ => true
  | .minu _ _ _ => true
  | .maxu _ _ _ => true
  | .clz _ _ => true
  | .ctz _ _ => true
  | .popc _ _ => true
  | .brev _ _ => true
  | .bswap _ _ => true
  | .sextB _ _ => true
  | .sextH _ _ => true
  | .sextW _ _ => true
  | .zextB _ _ => true
  | .zextH _ _ => true
  | .zextW _ _ => true
  | .shadd _ _ _ _ => true
  | .addi _ _ _ => true
  | .andi _ _ _ => true
  | .ori _ _ _ => true
  | .xori _ _ _ => true
  | .slli _ _ _ => true
  | .srli _ _ _ => true
  | .srai _ _ _ => true
  | .rori _ _ _ => true
  | .slti _ _ _ => true
  | .sltiu _ _ _ => true
  | .lui _ _ => true
  | .addpc _ _ => true
  | .mul _ _ _ => true
  | .mulh _ _ _ => true
  | .mulhu _ _ _ => true
  | .mulhsu _ _ _ => true
  | .mulw _ _ _ => true
  | .div _ _ _ => true
  | .divu _ _ _ => true
  | .rem _ _ _ => true
  | .remu _ _ _ => true
  | .madd _ _ _ => true
  | .ldb _ _ _ => true
  | .ldbu _ _ _ => true
  | .ldh _ _ _ => true
  | .ldhu _ _ _ => true
  | .ldw _ _ _ => true
  | .ldwu _ _ _ => true
  | .ldd _ _ _ => true
  | .stb _ _ _ => true
  | .sth _ _ _ => true
  | .stw _ _ _ => true
  | .std _ _ _ => true
  | .beq _ _ _ => true
  | .bne _ _ _ => true
  | .blt _ _ _ => true
  | .bge _ _ _ => true
  | .bltu _ _ _ => true
  | .bgeu _ _ _ => true
  | .bbs _ _ _ => true
  | .bbc _ _ _ => true
  | .jal _ _ => true
  | .jalr _ _ _ => true
  | .loopI d i => d != 0 && (BitVec.sle 2 i)
  | .fadd _ _ _ r _ => roundingOk r
  | .fsub _ _ _ r _ => roundingOk r
  | .fmul _ _ _ r _ => roundingOk r
  | .fdiv _ _ _ r _ => roundingOk r
  | .fsqrt _ _ r _ => roundingOk r
  | .fma _ _ _ r _ => roundingOk r
  | .fms _ _ _ r _ => roundingOk r
  | .fnma _ _ _ r _ => roundingOk r
  | .fmin _ _ _ _ => true
  | .fmax _ _ _ _ => true
  | .fcmpEq _ _ _ _ => true
  | .fcmpLt _ _ _ _ => true
  | .fcmpLe _ _ _ _ => true
  | .fcmpUn _ _ _ _ => true
  | .fclass _ _ _ => true
  | .fcvtS _ _ r => roundingOk r
  | .fcvtD _ _ => true
  | .fcvti _ _ k r _ => roundingOk r && decide (k.toNat < 4)
  | .fcvtf _ _ k r _ => roundingOk r && decide (k.toNat < 4)
  | .fmvxf _ _ _ => true
  | .fmvfx _ _ _ => true
  | .fsgn _ _ _ _ => true
  | .fsgnn _ _ _ _ => true
  | .fsgnx _ _ _ _ => true
  | .fldw _ _ _ => true
  | .fldd _ _ _ => true
  | .fstw _ _ _ => true
  | .fstd _ _ _ => true
  | .amoadd _ _ _ o => decide (o.toNat ≤ 20)
  | .amoand _ _ _ o => decide (o.toNat ≤ 20)
  | .amoor _ _ _ o => decide (o.toNat ≤ 20)
  | .amoxor _ _ _ o => decide (o.toNat ≤ 20)
  | .amomin _ _ _ o => decide (o.toNat ≤ 20)
  | .amomax _ _ _ o => decide (o.toNat ≤ 20)
  | .amominu _ _ _ o => decide (o.toNat ≤ 20)
  | .amomaxu _ _ _ o => decide (o.toNat ≤ 20)
  | .amoswap _ _ _ o => decide (o.toNat ≤ 20)
  | .cas _ _ _ o => decide (o.toNat ≤ 20)
  | .fence k s => decide (1 ≤ k.toNat ∧ k.toNat ≤ 4) && decide (s.toNat < 6)
  | .ifence => true
  | .icinv _ _ _ s => decide (1 ≤ s.toNat ∧ s.toNat ≤ 4)
  | .dcinv _ _ _ s => decide (1 ≤ s.toNat ∧ s.toNat ≤ 4)
  | .dcwb _ _ _ s => decide (1 ≤ s.toNat ∧ s.toNat ≤ 4)
  | .dcfl _ _ _ s => decide (1 ≤ s.toNat ∧ s.toNat ≤ 4)
  | .pref _ => true
  | .mfs _ n => sysregAssigned n
  | .mts _ n => sysregAssigned n
  | .trap _ => true
  | .eretResume => true
  | .eretPreempt => true
  | .eretPark => true
  | .eretRetake => true
  | .eretKill => true
  | .eretUnpark => true
  | .utret => true
  | .waitI _ => true
  | .halt => true
  | .migrate _ => true
  | .scanrun _ _ => true
  | .sendI _ _ _ => true
  | .sendl _ _ => true
  | .sendlRpl _ _ => true
  | .reduce _ _ => true
  | .defer _ => true
  | .endAct => true
  | .rld _ _ => true
  | .rst _ _ => true
  | .rcas _ _ _ => true
  | .ramo _ _ _ p => decide (p.toNat ≤ 8)
  | .qbind a _ => decide (a.toNat < 8)
  | .qput a _ => decide (a.toNat < 8)
  | .qget _ a => decide (a.toNat < 8)
  | .qtry _ a _ => decide (a.toNat < 8)
  | .qlen _ a => decide (a.toNat < 8)
  | .oxld d _ n => decide (d.toNat < 8) && decide (d.toNat + n.toNat + 1 ≤ 8)
  | .oxst a _ n => decide (a.toNat < 8) && decide (a.toNat + n.toNat + 1 ≤ 8)
  | .oxset d _ => decide (d.toNat < 8)
  | .oxget _ a => decide (a.toNat < 8)
  | .vadd _ _ _ _ _ => true
  | .vsub _ _ _ _ _ => true
  | .vmul _ _ _ _ _ => true
  | .vmulh _ _ _ _ _ => true
  | .vmadd _ _ _ _ _ => true
  | .vand _ _ _ _ _ => true
  | .vor _ _ _ _ _ => true
  | .vxor _ _ _ _ _ => true
  | .vsll _ _ _ _ _ => true
  | .vsrl _ _ _ _ _ => true
  | .vsra _ _ _ _ _ => true
  | .vmin _ _ _ _ _ => true
  | .vmax _ _ _ _ _ => true
  | .vminu _ _ _ _ _ => true
  | .vmaxu _ _ _ _ _ => true
  | .vabs _ _ _ _ => true
  | .vadds _ _ _ _ _ => true
  | .vsubs _ _ _ _ _ => true
  | .vcmp _ _ _ _ _ _ => true
  | .vsel _ _ _ _ _ => true
  | .vdot4 _ _ _ _ => true
  | .vtdot4 _ _ _ _ => true
  | .vpopc _ _ _ _ => true
  | .vmv _ _ _ _ => true
  | .vfadd _ _ _ _ _ => true
  | .vfsub _ _ _ _ _ => true
  | .vfmul _ _ _ _ _ => true
  | .vfma _ _ _ _ _ => true
  | .vfms _ _ _ _ _ => true
  | .vfmin _ _ _ _ _ => true
  | .vfmax _ _ _ _ _ => true
  | .vfdiv _ _ _ _ _ => true
  | .vfsqrt _ _ _ _ => true
  | .vfrcp _ _ _ _ => true
  | .vfrsq _ _ _ _ => true
  | .vfcmp _ _ _ _ _ _ => true
  | .vld _ _ _ _ => true
  | .vlds _ _ _ _ _ => true
  | .vgath _ _ _ _ _ => true
  | .vst _ _ _ _ => true
  | .vsts _ _ _ _ _ => true
  | .vscat _ _ _ _ _ => true
  | .vldb _ _ _ => true
  | .vredsum _ _ k _ s => redKindOk k s
  | .vredmin _ _ k _ s => redKindOk k s
  | .vredmax _ _ k _ s => redKindOk k s
  | .vscan _ _ k _ s => redKindOk k s
  | .vperm _ _ _ _ _ => true
  | .vbcast _ _ _ _ => true
  | .vslide _ _ _ _ _ => true
  | .vins _ _ _ _ => true
  | .vext _ _ _ _ => true
  | .vzip _ _ _ _ _ => true
  | .vcvt _ _ c _ s => fmtOk s.toNat (c.extractLsb' 2 2) && fmtOk s.toNat (c.extractLsb' 0 2)
  | .vnarrow _ _ _ c _ s => decide (s.toNat < 3) && fmtOk (s.toNat + 1) (c.extractLsb' 2 2) && fmtOk s.toNat (c.extractLsb' 0 2)
  | .vwiden _ _ _ c _ s => decide (s.toNat < 3) && fmtOk s.toNat (c.extractLsb' 2 2) && fmtOk (s.toNat + 1) (c.extractLsb' 0 2)
  | .unpk3 _ _ _ _ => true
  | .unpk4 _ _ _ _ _ => true
  | .vpwl _ _ b _ => pairOk b
  | .vsupd d _ _ _ => pairOk d
  | .vprune _ _ q => q != 0
  | .pand d a b => decide (d.toNat < 8) && decide (a.toNat < 8) && decide (b.toNat < 8)
  | .por d a b => decide (d.toNat < 8) && decide (a.toNat < 8) && decide (b.toNat < 8)
  | .pxor d a b => decide (d.toNat < 8) && decide (a.toNat < 8) && decide (b.toNat < 8)
  | .pnot d a => decide (d.toNat < 8) && decide (a.toNat < 8)
  | .pset d _ _ => decide (d.toNat < 8)
  | .pcnt _ a _ => decide (a.toNat < 8)
  | .pfirst _ a _ => decide (a.toNat < 8)
  | .mxcfg a => decide (a.toNat < 8)
  | .mxzero d => decide (d.toNat < 8)
  | .mxldb d _ => decide (d.toNat < 16)
  | .mxldbs d _ b => decide (d.toNat < 16) && decide (b.toNat < 8)
  | .mxldbg d _ => decide (d.toNat < 16)
  | .mxstg d _ => decide (d.toNat < 4)
  | .mxmul d a => decide (d.toNat < 8) && decide (a.toNat < 16)
  | .mxrd d _ => decide (d.toNat < 8)
  | .mxfence => true
  | .forkMs _ _ _ => true
  | .forkMi _ _ _ => true
  | .forkCs _ _ _ => true
  | .join _ _ => true
  | .sempost d _ => decide (d.toNat < 16)
  | .semwait d _ => decide (d.toNat < 16)
  | .engstat _ _ => true
  | .cpy _ => true
  | .cpym _ => true
  | .cpycan _ _ => true
  | .cpyst _ _ => true
  | .stcfg d => decide (d.toNat < 4)
  | .stend d => decide (d.toNat < 4)
  | .ststat _ a => decide (a.toNat < 4)
  | .reelinit _ _ => true
  | .reelawait _ _ => true
  | .reelrel _ => true
  | .reelst _ _ => true
  | .tenq _ _ => true
  | .tdeq _ _ _ => true
  | .futld _ _ => true
  | .futst _ _ _ => true
  | .launch _ => true
  | .barinit _ _ _ => true
  | .bararr _ _ => true
  | .barwait _ _ _ => true
  | .dcinit _ _ => true
  | .dcdec _ _ _ => true
  | .dcwait _ => true
  | .slopen _ _ => true
  | .slopenClose _ _ => true
  | .slwait _ _ _ => true
  | .slstat _ _ => true
  | .bump _ _ _ => true
  | .rngmap _ _ => true
  | .rngunmap _ _ => true
  | .rngsplit _ _ _ => true
  | .rngmerge _ _ => true
  | .rngprot _ _ _ => true
  | .rngresAdd _ _ _ => true
  | .rngresRemove _ _ _ => true
  | .rnginv _ _ _ => true
  | .rngcmp _ _ _ => true
  | .rngqry _ _ _ => true
  | .lcmremRemove _ _ _ => true
  | .lcmremPlace _ _ _ => true
  | .qtmapMap _ _ _ => true
  | .qtmapUnmap _ _ _ => true
  | .qtpinPin _ _ _ => true
  | .qtpinUnpin _ _ _ => true
  | .snapinitCursor _ _ _ => true
  | .snapinitCreate _ _ _ => true
  | .snapinitDestroy _ _ _ => true
  | .snapinitQuery _ _ _ => true
  | .snaphash _ _ _ => true
  | .snapput _ _ _ => true
  | .snapfind _ _ => true
  | .snapget _ _ _ => true
  | .snaprel _ _ _ => true
  | .snaprelAll _ _ _ => true
  | .monopen => true
  | .monput _ _ _ => true
  | .monseal _ => true
  | .monstat _ _ => true
  | .monclose _ => true
  | .rdts _ => true
  | .rdcyc _ => true
  | .rdvc _ _ => true
  | .pmcfg _ _ => true
  | .pmrd _ _ => true
  | .dlyrd _ _ => true
  | .dbgmark _ => true
  | .cMv d _ => d != 0
  | .cAdd d _ => d != 0
  | .cSub d _ => d != 0
  | .cAnd d _ => d != 0
  | .cOr d _ => d != 0
  | .cXor d _ => d != 0
  | .cSll d _ => d != 0
  | .cSrl d _ => d != 0
  | .cSra d _ => d != 0
  | .cMul d _ => d != 0
  | .cSlt d _ => d != 0
  | .cJmpr a => a != 0
  | .cCallr a => a != 0
  | .cLdx d _ => d != 0
  | .cStx _ _ => true
  | .cEnd => true
  | .brk => true
  | .nop => true
  | .yield => true
  | .cAddi d _ => d != 0
  | .cLi d _ => d != 0
  | .cSlli d _ => d != 0
  | .cSrli d _ => d != 0
  | .cSrai d _ => d != 0
  | .cAndi d _ => d != 0
  | .cOri d _ => d != 0
  | .cXori d _ => d != 0
  | .cSpadj _ => true
  | .cJ _ => true
  | .cJal _ => true
  | .cBeqz _ _ => true
  | .cBnez _ _ => true
  | .cSld d _ => d != 0
  | .cSst _ _ => true
  | .cPld d _ => d != 0
  | .cPst _ _ => true
  | .cSlw d _ => d != 0
  | .cSsw _ _ => true
  | .messageInject _ => true
  | .sendBufferGrant _ => true
  | .messageArrival _ => true
  | .messageReturnArrival _ => true
  | .edgeReturn _ => true
  | .replyArrival _ => true
  | .handlerEntryChange _ _ => true
  | .pendingDelivery _ _ => true
  | .messageTake _ => true
  | .deferReady _ _ => true
  | .endCommit _ _ => true
  | .watchdogExpiry _ _ => true
  | .activeMessageWatchdog _ => true
  | .sequencerWatchdog _ _ => true
  | .uncorrectableError _ => true
  | .uncorrectableTrap _ _ => true
  | .preemptRequest _ => true
  | .saveComplete _ _ => true
  | .resumptionItem _ _ => true
  | .restoreComplete _ _ => true
  | .serviceItemStart _ => true
  | .activeMessageStart _ => true
  | .rldServe _ => true
  | .rstServe _ => true
  | .rcasServe _ => true
  | .ramoServe _ => true
  | .migrateArrival _ => true
  | .waitTimeReached _ => true
  | .dcwaitRelease _ => true
  | .barwaitRelease _ => true
  | .slwaitRelease _ => true
  | .reelawaitFill _ => true
  | .qgetWake _ => true
  | .qputRoom _ => true
  | .joinWake _ => true
  | .semwaitGrant _ => true
  | .flagToSflags _ => true
  | .checkerMismatch _ => true
  | .knownAnswerMismatch _ _ => true
  | .scanComplete _ _ => true
  | .scanAbort _ => true
  | .launchAccept _ => true
  | .taskEnqueue _ => true
  | .launchWindowWrite _ _ _ => true
  | .cpDispatch _ => true
  | .launchReady _ _ _ => true
  | .blockedPacketRemoval _ _ _ => true
  | .threadReport _ _ => true
  | .stageDispatch _ _ => true
  | .deadlineMiss _ _ => true
  | .gafferSample _ => true
  | .gafferDecision _ => true
  | .sequencerProgramStart _ _ => true
  | .engineEntryStart _ => true
  | .engineEntryComplete _ => true
  | .weightLoadStart _ => true
  | .weightLoadComplete _ => true
  | .weightLoadFault _ => true
  | .weightLoadSuspend _ => true
  | .copyStart _ => true
  | .copySuspend _ => true
  | .copyComplete _ => true
  | .copyFault _ => true
  | .streamReadahead _ _ _ => true
  | .streamPushWrite _ _ _ => true
  | .montageRowArrival _ _ => true
  | .binTimeout _ _ => true
  | .sealComplete _ _ => true
  | .ingressEvent _ _ => true
  | .ingressWatermark _ _ => true
  | .slateTimeout _ _ => true
  | .reduceCombine _ _ _ => true
  | .reduceResult _ _ => true
  | .residencySpill _ _ => true
  | .residencyFill _ _ _ => true
  | .residencyCopyComplete _ _ => true
  | .rangeWalkComplete _ _ => true
  | .rnginvComplete _ => true
  | .lcmremComplete _ => true
  | .compactionSwitch _ => true
  | .compactionComplete _ => true
  | .epochChange _ => true
  | .clockMessage _ => true
  | .coreAtRest _ => true
  | .debugStopRequest _ _ => true
  | .debugCodeWrite _ _ _ => true
  | .hgcGo _ _ => true
  | .cpbrkWrite _ _ => true
  | .claim _ => true
  | .offer _ _ => true
  | .accept _ => true
  | .release _ => true
  | .offerTimeout => true
  | .domainWrite _ => true
  | .tbslewWrite _ => true
  | .tbstepWrite _ => true
  | .msixTrigger _ _ _ => true
  | .coreReset _ _ => true
  | .setReset _ _ => true
  | .queueResetComplete _ _ => true
  | .scanctlStart _ _ _ => true
  | .traceOpen _ _ _ => true
  | .traceClose _ => true
  | .ingressRouteWrite _ _ _ _ => true
  | .reductionTreeWrite _ _ _ _ _ => true
  | .ulmLoadWindowWrite _ _ _ _ => true
  | .mmioRegisterWrite _ _ _ _ => true
  | .grantResource _ _ => true
  | .withdrawResource _ _ => true
  | .lockInterface _ => true
  | .startInterface _ => true
  | .stopInterface _ => true
  | .partitionError _ => true
  | .attClear _ => true
  | .spdmRequest => true
  | .deviceReset _ _ _ _ => true
  | .apertureAccess _ _ _ _ _ => true
  | .eventPageWrite _ _ _ _ => true
  | .csi2EventPacket _ _ _ => true
  | .csi2FrameStart _ _ => true
  | .csi2FrameLine _ _ _ _ => true
  | .csi2FrameEnd _ _ => true
  | .bridgeRetrain => true
  | .bridgeRetrainComplete _ => true
  | .managementRead _ => true
  | .illegalInstruction _ _ => true
  | .correctedError _ => true
  | .powerOn => true
  | .copyLineRelease _ => true
  | .compactionChunkCopy _ => true
  | .migrateForwardExpiry _ => true
  | .csi2PacketDrop _ => true
  | .ingressTypeError _ _ => true
  | .mctpControlMessage => true

end Sys2Proof
end

