-- ==== Sys2Proof/Decode.lean ====
section
/-! DEFINITION. Decoding, total on any bytes (R45, R48, R51, R57, R59), and after it the encoder. -/

namespace Sys2Proof

/-! ### Fields of the 32-bit formats (R48) and of a compact halfword (R56) -/

/-- bits [31:24]: 0b11 and the major opcode -/
def fMajor (w : BitVec 32) : BitVec 8 := w.extractLsb' 24 8
def fD (w : BitVec 32) : BitVec 5 := w.extractLsb' 19 5
def fA (w : BitVec 32) : BitVec 5 := w.extractLsb' 14 5
def fB (w : BitVec 32) : BitVec 5 := w.extractLsb' 9 5
def fFn (w : BitVec 32) : BitVec 9 := w.extractLsb' 0 9
def fImm (w : BitVec 32) : BitVec 14 := w.extractLsb' 0 14
def fCond (w : BitVec 32) : BitVec 3 := w.extractLsb' 21 3
def fBa (w : BitVec 32) : BitVec 5 := w.extractLsb' 16 5
def fBb (w : BitVec 32) : BitVec 5 := w.extractLsb' 11 5
def fOff11 (w : BitVec 32) : BitVec 11 := w.extractLsb' 0 11
def fOff19 (w : BitVec 32) : BitVec 19 := w.extractLsb' 0 19
def fP (w : BitVec 32) : BitVec 3 := w.extractLsb' 6 3
def fSz (w : BitVec 32) : BitVec 2 := w.extractLsb' 4 2
def fFn4 (w : BitVec 32) : BitVec 4 := w.extractLsb' 0 4
def cOp (h : BitVec 16) : BitVec 6 := h.extractLsb' 10 6
def cHi (h : BitVec 16) : BitVec 5 := h.extractLsb' 5 5
def cLo (h : BitVec 16) : BitVec 5 := h.extractLsb' 0 5

/-! ### Words built field by field in the same formats -/

def rWord (m : BitVec 8) (d a b : BitVec 5) (fn : BitVec 9) : BitVec 32 := m ++ d ++ a ++ b ++ fn
def iWord (m : BitVec 8) (d a : BitVec 5) (imm : BitVec 14) : BitVec 32 := m ++ d ++ a ++ imm
def jWord (m : BitVec 8) (d : BitVec 5) (off : BitVec 19) : BitVec 32 := m ++ d ++ off
def bWord (m : BitVec 8) (cond : BitVec 3) (a b : BitVec 5) (off : BitVec 11) : BitVec 32 := m ++ cond ++ a ++ b ++ off
def vWord (m : BitVec 8) (d a b : BitVec 5) (p : BitVec 3) (s : BitVec 2) (fn : BitVec 4) : BitVec 32 :=
  m ++ d ++ a ++ b ++ p ++ s ++ fn
def cWord (op : BitVec 6) (hi lo : BitVec 5) : BitVec 16 := op ++ hi ++ lo

/-- What stands in memory for an instruction: a 32-bit word, a halfword, or nothing for a machine event. -/
inductive Enc where
  | full (w : BitVec 32)
  | half (h : BitVec 16)
  | event
  deriving DecidableEq, Repr

/-- Why bytes are no instruction. -/
inductive DecodeError where
  /-- fewer bytes than the length that bits [15:14] of the first halfword give (R45) -/
  | tooShort
  /-- a pattern that no map entry assigns (R59) -/
  | unassigned
  deriving DecidableEq, Repr


/-- The Int group, major 0x01 (R51). -/
noncomputable def groupInt (w : BitVec 32) : Option Instr :=
  match (fFn w).toNat with
  | 0 => some (.add (fD w) (fA w) (fB w))
  | 1 => some (.sub (fD w) (fA w) (fB w))
  | 2 => some (.addw (fD w) (fA w) (fB w))
  | 3 => some (.subw (fD w) (fA w) (fB w))
  | 4 => some (.and (fD w) (fA w) (fB w))
  | 5 => some (.or (fD w) (fA w) (fB w))
  | 6 => some (.xor (fD w) (fA w) (fB w))
  | 7 => some (.andn (fD w) (fA w) (fB w))
  | 8 => some (.orn (fD w) (fA w) (fB w))
  | 9 => some (.sll (fD w) (fA w) (fB w))
  | 10 => some (.srl (fD w) (fA w) (fB w))
  | 11 => some (.sra (fD w) (fA w) (fB w))
  | 12 => some (.rol (fD w) (fA w) (fB w))
  | 13 => some (.ror (fD w) (fA w) (fB w))
  | 14 => some (.slt (fD w) (fA w) (fB w))
  | 15 => some (.sltu (fD w) (fA w) (fB w))
  | 16 => some (.seq (fD w) (fA w) (fB w))
  | 17 => some (.min (fD w) (fA w) (fB w))
  | 18 => some (.max (fD w) (fA w) (fB w))
  | 19 => some (.minu (fD w) (fA w) (fB w))
  | 20 => some (.maxu (fD w) (fA w) (fB w))
  | 21 => some (.clz (fD w) (fA w))
  | 22 => some (.ctz (fD w) (fA w))
  | 23 => some (.popc (fD w) (fA w))
  | 24 => some (.brev (fD w) (fA w))
  | 25 => some (.bswap (fD w) (fA w))
  | 26 => some (.sextB (fD w) (fA w))
  | 27 => some (.sextH (fD w) (fA w))
  | 28 => some (.sextW (fD w) (fA w))
  | 29 => some (.zextB (fD w) (fA w))
  | 30 => some (.zextH (fD w) (fA w))
  | 31 => some (.zextW (fD w) (fA w))
  | 32 => some (.shadd (fD w) (fA w) (fB w) ((fFn w).extractLsb' 0 2))
  | 33 => some (.shadd (fD w) (fA w) (fB w) ((fFn w).extractLsb' 0 2))
  | 34 => some (.shadd (fD w) (fA w) (fB w) ((fFn w).extractLsb' 0 2))
  | 35 => some (.shadd (fD w) (fA w) (fB w) ((fFn w).extractLsb' 0 2))
  | _ => none

/-- The ShiftImm group, major 0x06 (R51). -/
noncomputable def groupShiftImm (w : BitVec 32) : Option Instr :=
  match ((fImm w).extractLsb' 12 2).toNat with
  | 0 => some (.slli (fD w) (fA w) ((fImm w).extractLsb' 0 6))
  | 1 => some (.srli (fD w) (fA w) ((fImm w).extractLsb' 0 6))
  | 2 => some (.srai (fD w) (fA w) ((fImm w).extractLsb' 0 6))
  | 3 => some (.rori (fD w) (fA w) ((fImm w).extractLsb' 0 6))
  | _ => none

/-- The MulDiv group, major 0x0B (R51). -/
noncomputable def groupMulDiv (w : BitVec 32) : Option Instr :=
  match (fFn w).toNat with
  | 0 => some (.mul (fD w) (fA w) (fB w))
  | 1 => some (.mulh (fD w) (fA w) (fB w))
  | 2 => some (.mulhu (fD w) (fA w) (fB w))
  | 3 => some (.mulhsu (fD w) (fA w) (fB w))
  | 4 => some (.mulw (fD w) (fA w) (fB w))
  | 5 => some (.div (fD w) (fA w) (fB w))
  | 6 => some (.divu (fD w) (fA w) (fB w))
  | 7 => some (.rem (fD w) (fA w) (fB w))
  | 8 => some (.remu (fD w) (fA w) (fB w))
  | 9 => some (.madd (fD w) (fA w) (fB w))
  | _ => none

/-- The Branch group, major 0x17 (R51). -/
noncomputable def groupBranch (w : BitVec 32) : Option Instr :=
  match (fCond w).toNat with
  | 0 => some (.beq (fBa w) (fBb w) (fOff11 w))
  | 1 => some (.bne (fBa w) (fBb w) (fOff11 w))
  | 2 => some (.blt (fBa w) (fBb w) (fOff11 w))
  | 3 => some (.bge (fBa w) (fBb w) (fOff11 w))
  | 4 => some (.bltu (fBa w) (fBb w) (fOff11 w))
  | 5 => some (.bgeu (fBa w) (fBb w) (fOff11 w))
  | 6 => some (.bbs (fBa w) (fBb w) (fOff11 w))
  | 7 => some (.bbc (fBa w) (fBb w) (fOff11 w))
  | _ => none

/-- The Fp group, major 0x1B (R51). -/
noncomputable def groupFp (w : BitVec 32) : Option Instr :=
  match ((fFn w).extractLsb' 0 5).toNat with
  | 0 => some (.fadd (fD w) (fA w) (fB w) ((fFn w).extractLsb' 6 3) ((fFn w).extractLsb' 5 1))
  | 1 => some (.fsub (fD w) (fA w) (fB w) ((fFn w).extractLsb' 6 3) ((fFn w).extractLsb' 5 1))
  | 2 => some (.fmul (fD w) (fA w) (fB w) ((fFn w).extractLsb' 6 3) ((fFn w).extractLsb' 5 1))
  | 3 => some (.fdiv (fD w) (fA w) (fB w) ((fFn w).extractLsb' 6 3) ((fFn w).extractLsb' 5 1))
  | 4 => some (.fsqrt (fD w) (fA w) ((fFn w).extractLsb' 6 3) ((fFn w).extractLsb' 5 1))
  | 5 => some (.fma (fD w) (fA w) (fB w) ((fFn w).extractLsb' 6 3) ((fFn w).extractLsb' 5 1))
  | 6 => some (.fms (fD w) (fA w) (fB w) ((fFn w).extractLsb' 6 3) ((fFn w).extractLsb' 5 1))
  | 7 => some (.fnma (fD w) (fA w) (fB w) ((fFn w).extractLsb' 6 3) ((fFn w).extractLsb' 5 1))
  | 8 => some (.fmin (fD w) (fA w) (fB w) ((fFn w).extractLsb' 5 1))
  | 9 => some (.fmax (fD w) (fA w) (fB w) ((fFn w).extractLsb' 5 1))
  | 10 => some (.fcmpEq (fD w) (fA w) (fB w) ((fFn w).extractLsb' 5 1))
  | 11 => some (.fcmpLt (fD w) (fA w) (fB w) ((fFn w).extractLsb' 5 1))
  | 12 => some (.fcmpLe (fD w) (fA w) (fB w) ((fFn w).extractLsb' 5 1))
  | 13 => some (.fcmpUn (fD w) (fA w) (fB w) ((fFn w).extractLsb' 5 1))
  | 14 => some (.fclass (fD w) (fA w) ((fFn w).extractLsb' 5 1))
  | 15 => if (fFn w).extractLsb' 5 1 = 1#1 then some (.fcvtS (fD w) (fA w) ((fFn w).extractLsb' 6 3)) else some (.fcvtD (fD w) (fA w))
  | 16 => some (.fcvti (fD w) (fA w) (fB w) ((fFn w).extractLsb' 6 3) ((fFn w).extractLsb' 5 1))
  | 17 => some (.fcvtf (fD w) (fA w) (fB w) ((fFn w).extractLsb' 6 3) ((fFn w).extractLsb' 5 1))
  | 18 => some (.fmvxf (fD w) (fA w) ((fFn w).extractLsb' 5 1))
  | 19 => some (.fmvfx (fD w) (fA w) ((fFn w).extractLsb' 5 1))
  | 20 => some (.fsgn (fD w) (fA w) (fB w) ((fFn w).extractLsb' 5 1))
  | 21 => some (.fsgnn (fD w) (fA w) (fB w) ((fFn w).extractLsb' 5 1))
  | 22 => some (.fsgnx (fD w) (fA w) (fB w) ((fFn w).extractLsb' 5 1))
  | _ => none

/-- The Atom group, major 0x20 (R51). -/
noncomputable def groupAtom (w : BitVec 32) : Option Instr :=
  match ((fFn w).extractLsb' 0 4).toNat with
  | 0 => some (.amoadd (fD w) (fA w) (fB w) ((fFn w).extractLsb' 4 5))
  | 1 => some (.amoand (fD w) (fA w) (fB w) ((fFn w).extractLsb' 4 5))
  | 2 => some (.amoor (fD w) (fA w) (fB w) ((fFn w).extractLsb' 4 5))
  | 3 => some (.amoxor (fD w) (fA w) (fB w) ((fFn w).extractLsb' 4 5))
  | 4 => some (.amomin (fD w) (fA w) (fB w) ((fFn w).extractLsb' 4 5))
  | 5 => some (.amomax (fD w) (fA w) (fB w) ((fFn w).extractLsb' 4 5))
  | 6 => some (.amominu (fD w) (fA w) (fB w) ((fFn w).extractLsb' 4 5))
  | 7 => some (.amomaxu (fD w) (fA w) (fB w) ((fFn w).extractLsb' 4 5))
  | 8 => some (.amoswap (fD w) (fA w) (fB w) ((fFn w).extractLsb' 4 5))
  | 9 => some (.cas (fD w) (fA w) (fB w) ((fFn w).extractLsb' 4 5))
  | _ => none

/-- The Fence group, major 0x21 (R51). -/
noncomputable def groupFence (w : BitVec 32) : Option Instr :=
  match ((fFn w).extractLsb' 0 3).toNat with
  | 0 => some (.fence ((fFn w).extractLsb' 6 3) ((fFn w).extractLsb' 3 3))
  | 1 => some (.ifence )
  | 2 => some (.icinv (fD w) (fA w) (fB w) ((fFn w).extractLsb' 3 3))
  | 3 => some (.dcinv (fD w) (fA w) (fB w) ((fFn w).extractLsb' 3 3))
  | 4 => some (.dcwb (fD w) (fA w) (fB w) ((fFn w).extractLsb' 3 3))
  | 5 => some (.dcfl (fD w) (fA w) (fB w) ((fFn w).extractLsb' 3 3))
  | 6 => some (.pref (fA w))
  | _ => none

/-- The Sys group, major 0x22 (R51). -/
noncomputable def groupSys (w : BitVec 32) : Option Instr :=
  match ((fFn w).extractLsb' 7 2).toNat with
  | 0 => some (.mfs (fD w) (fB w ++ (fFn w).extractLsb' 0 7))
  | 1 => some (.mts (fA w) (fB w ++ (fFn w).extractLsb' 0 7))
  | _ =>
  match (fFn w).toNat with
  | 256 => some (.trap (fA w))
  | 257 => some (.eretResume )
  | 258 => some (.utret )
  | 259 => some (.waitI (fA w))
  | 260 => some (.halt )
  | 261 => some (.migrate (fA w))
  | 262 => some (.scanrun (fD w) (fA w))
  | _ => none

/-- The Msg group, major 0x23 (R51). -/
noncomputable def groupMsg (w : BitVec 32) : Option Instr :=
  match (fFn w).toNat with
  | 0 => some (.sendI (fD w) (fA w) (fB w))
  | 1 => some (.sendl (fA w) (fB w))
  | 2 => some (.reduce (fA w) (fB w))
  | 3 => some (.defer (fA w))
  | 4 => some (.endAct )
  | 8 => some (.rld (fD w) (fA w))
  | 9 => some (.rst (fA w) (fB w))
  | 10 => some (.rcas (fD w) (fA w) (fB w))
  | 16 => some (.ramo (fD w) (fA w) (fB w) ((fFn w).extractLsb' 0 4))
  | 17 => some (.ramo (fD w) (fA w) (fB w) ((fFn w).extractLsb' 0 4))
  | 18 => some (.ramo (fD w) (fA w) (fB w) ((fFn w).extractLsb' 0 4))
  | 19 => some (.ramo (fD w) (fA w) (fB w) ((fFn w).extractLsb' 0 4))
  | 20 => some (.ramo (fD w) (fA w) (fB w) ((fFn w).extractLsb' 0 4))
  | 21 => some (.ramo (fD w) (fA w) (fB w) ((fFn w).extractLsb' 0 4))
  | 22 => some (.ramo (fD w) (fA w) (fB w) ((fFn w).extractLsb' 0 4))
  | 23 => some (.ramo (fD w) (fA w) (fB w) ((fFn w).extractLsb' 0 4))
  | 24 => some (.ramo (fD w) (fA w) (fB w) ((fFn w).extractLsb' 0 4))
  | 25 => some (.ramo (fD w) (fA w) (fB w) ((fFn w).extractLsb' 0 4))
  | 26 => some (.ramo (fD w) (fA w) (fB w) ((fFn w).extractLsb' 0 4))
  | 27 => some (.ramo (fD w) (fA w) (fB w) ((fFn w).extractLsb' 0 4))
  | 28 => some (.ramo (fD w) (fA w) (fB w) ((fFn w).extractLsb' 0 4))
  | 29 => some (.ramo (fD w) (fA w) (fB w) ((fFn w).extractLsb' 0 4))
  | 30 => some (.ramo (fD w) (fA w) (fB w) ((fFn w).extractLsb' 0 4))
  | 31 => some (.ramo (fD w) (fA w) (fB w) ((fFn w).extractLsb' 0 4))
  | _ => none

/-- The Qreg group, major 0x24 (R51). -/
noncomputable def groupQreg (w : BitVec 32) : Option Instr :=
  match (fFn w).toNat with
  | 0 => some (.qbind (fA w) (fB w))
  | 1 => some (.qput (fA w) (fB w))
  | 2 => some (.qget (fD w) (fA w))
  | 3 => some (.qtry (fD w) (fA w) (fB w))
  | 4 => some (.qlen (fD w) (fA w))
  | _ => none

/-- The Ox group, major 0x25 (R51). -/
noncomputable def groupOx (w : BitVec 32) : Option Instr :=
  match (fFn w).toNat with
  | 0 => some (.oxld (fD w) (fA w) ((fFn w).extractLsb' 0 3))
  | 1 => some (.oxld (fD w) (fA w) ((fFn w).extractLsb' 0 3))
  | 2 => some (.oxld (fD w) (fA w) ((fFn w).extractLsb' 0 3))
  | 3 => some (.oxld (fD w) (fA w) ((fFn w).extractLsb' 0 3))
  | 4 => some (.oxld (fD w) (fA w) ((fFn w).extractLsb' 0 3))
  | 5 => some (.oxld (fD w) (fA w) ((fFn w).extractLsb' 0 3))
  | 6 => some (.oxld (fD w) (fA w) ((fFn w).extractLsb' 0 3))
  | 7 => some (.oxld (fD w) (fA w) ((fFn w).extractLsb' 0 3))
  | 8 => some (.oxst (fA w) (fB w) ((fFn w).extractLsb' 0 3))
  | 9 => some (.oxst (fA w) (fB w) ((fFn w).extractLsb' 0 3))
  | 10 => some (.oxst (fA w) (fB w) ((fFn w).extractLsb' 0 3))
  | 11 => some (.oxst (fA w) (fB w) ((fFn w).extractLsb' 0 3))
  | 12 => some (.oxst (fA w) (fB w) ((fFn w).extractLsb' 0 3))
  | 13 => some (.oxst (fA w) (fB w) ((fFn w).extractLsb' 0 3))
  | 14 => some (.oxst (fA w) (fB w) ((fFn w).extractLsb' 0 3))
  | 15 => some (.oxst (fA w) (fB w) ((fFn w).extractLsb' 0 3))
  | 16 => some (.oxset (fD w) (fA w))
  | 17 => some (.oxget (fD w) (fA w))
  | _ => none

/-- The Vint1 group, major 0x26 (R51). -/
noncomputable def groupVint1 (w : BitVec 32) : Option Instr :=
  match (fFn4 w).toNat with
  | 0 => some (.vadd (fD w) (fA w) (fB w) (fP w) (fSz w))
  | 1 => some (.vsub (fD w) (fA w) (fB w) (fP w) (fSz w))
  | 2 => some (.vmul (fD w) (fA w) (fB w) (fP w) (fSz w))
  | 3 => some (.vmulh (fD w) (fA w) (fB w) (fP w) (fSz w))
  | 4 => some (.vmadd (fD w) (fA w) (fB w) (fP w) (fSz w))
  | 5 => some (.vand (fD w) (fA w) (fB w) (fP w) (fSz w))
  | 6 => some (.vor (fD w) (fA w) (fB w) (fP w) (fSz w))
  | 7 => some (.vxor (fD w) (fA w) (fB w) (fP w) (fSz w))
  | 8 => some (.vsll (fD w) (fA w) (fB w) (fP w) (fSz w))
  | 9 => some (.vsrl (fD w) (fA w) (fB w) (fP w) (fSz w))
  | 10 => some (.vsra (fD w) (fA w) (fB w) (fP w) (fSz w))
  | 11 => some (.vmin (fD w) (fA w) (fB w) (fP w) (fSz w))
  | 12 => some (.vmax (fD w) (fA w) (fB w) (fP w) (fSz w))
  | 13 => some (.vminu (fD w) (fA w) (fB w) (fP w) (fSz w))
  | 14 => some (.vmaxu (fD w) (fA w) (fB w) (fP w) (fSz w))
  | 15 => some (.vabs (fD w) (fA w) (fP w) (fSz w))
  | _ => none

/-- The Vint2 group, major 0x27 (R51). -/
noncomputable def groupVint2 (w : BitVec 32) : Option Instr :=
  match (fFn4 w).toNat with
  | 0 => some (.vadds (fD w) (fA w) (fB w) (fP w) (fSz w))
  | 1 => some (.vsubs (fD w) (fA w) (fB w) (fP w) (fSz w))
  | 2 => some (.vcmp ((fD w).extractLsb' 3 2) ((fD w).extractLsb' 0 3) (fA w) (fB w) (fP w) (fSz w))
  | 3 => some (.vsel (fD w) (fA w) (fB w) (fP w) (fSz w))
  | 4 => some (.vdot4 (fD w) (fA w) (fB w) (fP w))
  | 5 => some (.vtdot4 (fD w) (fA w) (fB w) (fP w))
  | 6 => some (.vpopc (fD w) (fA w) (fP w) (fSz w))
  | 7 => some (.vmv (fD w) (fA w) (fP w) (fSz w))
  | _ => none

/-- The Vfp group, major 0x28 (R51). -/
noncomputable def groupVfp (w : BitVec 32) : Option Instr :=
  match (fFn4 w).toNat with
  | 0 => some (.vfadd (fD w) (fA w) (fB w) (fP w) (fSz w))
  | 1 => some (.vfsub (fD w) (fA w) (fB w) (fP w) (fSz w))
  | 2 => some (.vfmul (fD w) (fA w) (fB w) (fP w) (fSz w))
  | 3 => some (.vfma (fD w) (fA w) (fB w) (fP w) (fSz w))
  | 4 => some (.vfms (fD w) (fA w) (fB w) (fP w) (fSz w))
  | 5 => some (.vfmin (fD w) (fA w) (fB w) (fP w) (fSz w))
  | 6 => some (.vfmax (fD w) (fA w) (fB w) (fP w) (fSz w))
  | 7 => some (.vfdiv (fD w) (fA w) (fB w) (fP w) (fSz w))
  | 8 => some (.vfsqrt (fD w) (fA w) (fP w) (fSz w))
  | 9 => some (.vfrcp (fD w) (fA w) (fP w) (fSz w))
  | 10 => some (.vfrsq (fD w) (fA w) (fP w) (fSz w))
  | 11 => some (.vfcmp ((fD w).extractLsb' 3 2) ((fD w).extractLsb' 0 3) (fA w) (fB w) (fP w) (fSz w))
  | _ => none

/-- The Vmem group, major 0x29 (R51). -/
noncomputable def groupVmem (w : BitVec 32) : Option Instr :=
  match (fFn4 w).toNat with
  | 0 => some (.vld (fD w) (fA w) (fP w) (fSz w))
  | 1 => some (.vlds (fD w) (fA w) (fB w) (fP w) (fSz w))
  | 2 => some (.vgath (fD w) (fA w) (fB w) (fP w) (fSz w))
  | 3 => some (.vst (fD w) (fA w) (fP w) (fSz w))
  | 4 => some (.vsts (fD w) (fA w) (fB w) (fP w) (fSz w))
  | 5 => some (.vscat (fD w) (fA w) (fB w) (fP w) (fSz w))
  | 6 => some (.vldb (fD w) (fA w) (fB w))
  | _ => none

/-- The Vperm group, major 0x2A (R51). -/
noncomputable def groupVperm (w : BitVec 32) : Option Instr :=
  match (fFn4 w).toNat with
  | 0 => some (.vredsum (fD w) (fA w) (fB w) (fP w) (fSz w))
  | 1 => some (.vredmin (fD w) (fA w) (fB w) (fP w) (fSz w))
  | 2 => some (.vredmax (fD w) (fA w) (fB w) (fP w) (fSz w))
  | 3 => some (.vscan (fD w) (fA w) (fB w) (fP w) (fSz w))
  | 4 => some (.vperm (fD w) (fA w) (fB w) (fP w) (fSz w))
  | 5 => some (.vbcast (fD w) (fA w) (fP w) (fSz w))
  | 6 => some (.vslide (fD w) (fA w) (fB w) (fP w) (fSz w))
  | 7 => some (.vins (fD w) (fA w) (fB w) (fSz w))
  | 8 => some (.vext (fD w) (fA w) (fB w) (fSz w))
  | 9 => some (.vzip (fD w) (fA w) (fB w) (fP w) (fSz w))
  | _ => none

/-- The Vcvt group, major 0x2B (R51). -/
noncomputable def groupVcvt (w : BitVec 32) : Option Instr :=
  match (fFn4 w).toNat with
  | 0 => some (.vcvt (fD w) (fA w) ((fB w).extractLsb' 0 4) (fP w) (fSz w))
  | 1 => some (.vnarrow (fD w) (fA w) ((fB w).extractLsb' 4 1) ((fB w).extractLsb' 0 4) (fP w) (fSz w))
  | 2 => some (.vwiden (fD w) (fA w) ((fB w).extractLsb' 4 1) ((fB w).extractLsb' 0 4) (fP w) (fSz w))
  | 3 => some (.unpk3 (fD w) (fA w) (fB w) (fP w))
  | 4 => some (.unpk4 (fD w) (fA w) (fB w) (fP w) (fSz w))
  | _ => none

/-- The Vspec group, major 0x2C (R51). -/
noncomputable def groupVspec (w : BitVec 32) : Option Instr :=
  match (fFn4 w).toNat with
  | 0 => some (.vpwl (fD w) (fA w) (fB w) (fP w))
  | 1 => some (.vsupd (fD w) (fA w) (fB w) (fP w))
  | 2 => some (.vprune (fD w) (fA w) (fP w))
  | _ => none

/-- The Pred group, major 0x2D (R51). -/
noncomputable def groupPred (w : BitVec 32) : Option Instr :=
  match (fFn w).toNat with
  | 0 => some (.pand (fD w) (fA w) (fB w))
  | 1 => some (.por (fD w) (fA w) (fB w))
  | 2 => some (.pxor (fD w) (fA w) (fB w))
  | 3 => some (.pnot (fD w) (fA w))
  | 4 => some (.pset (fD w) (fA w) ((fFn w).extractLsb' 0 2))
  | 5 => some (.pset (fD w) (fA w) ((fFn w).extractLsb' 0 2))
  | 6 => some (.pset (fD w) (fA w) ((fFn w).extractLsb' 0 2))
  | 7 => some (.pset (fD w) (fA w) ((fFn w).extractLsb' 0 2))
  | 8 => some (.pcnt (fD w) (fA w) ((fFn w).extractLsb' 0 2))
  | 9 => some (.pcnt (fD w) (fA w) ((fFn w).extractLsb' 0 2))
  | 10 => some (.pcnt (fD w) (fA w) ((fFn w).extractLsb' 0 2))
  | 11 => some (.pcnt (fD w) (fA w) ((fFn w).extractLsb' 0 2))
  | 12 => some (.pfirst (fD w) (fA w) ((fFn w).extractLsb' 0 2))
  | 13 => some (.pfirst (fD w) (fA w) ((fFn w).extractLsb' 0 2))
  | 14 => some (.pfirst (fD w) (fA w) ((fFn w).extractLsb' 0 2))
  | 15 => some (.pfirst (fD w) (fA w) ((fFn w).extractLsb' 0 2))
  | _ => none

/-- The Mx group, major 0x2E (R51). -/
noncomputable def groupMx (w : BitVec 32) : Option Instr :=
  match (fFn w).toNat with
  | 0 => some (.mxcfg (fA w))
  | 1 => some (.mxzero (fD w))
  | 2 => some (.mxldb (fD w) (fA w))
  | 3 => some (.mxldbs (fD w) (fA w) (fB w))
  | 4 => some (.mxldbg (fD w) (fA w))
  | 5 => some (.mxstg (fD w) (fA w))
  | 6 => some (.mxmul (fD w) (fA w))
  | 7 => some (.mxrd (fD w) (fA w))
  | 8 => some (.mxfence )
  | _ => none

/-- The Eng group, major 0x2F (R51). -/
noncomputable def groupEng (w : BitVec 32) : Option Instr :=
  match (fFn w).toNat with
  | 0 => some (.forkMs (fD w) (fA w) (fB w))
  | 1 => some (.forkMi (fD w) (fA w) (fB w))
  | 2 => some (.forkCs (fD w) (fA w) (fB w))
  | 3 => some (.join (fD w) (fA w))
  | 4 => some (.sempost (fD w) (fA w))
  | 5 => some (.semwait (fD w) (fA w))
  | 6 => some (.engstat (fD w) (fA w))
  | _ => none

/-- The Cpy group, major 0x30 (R51). -/
noncomputable def groupCpy (w : BitVec 32) : Option Instr :=
  match (fFn w).toNat with
  | 0 => some (.cpy (fD w))
  | 1 => some (.cpym (fD w))
  | 2 => some (.cpycan (fD w) (fA w))
  | 3 => some (.cpyst (fD w) (fA w))
  | 4 => some (.stcfg (fD w))
  | 5 => some (.stend (fD w))
  | 6 => some (.ststat (fD w) (fA w))
  | _ => none

/-- The Reel group, major 0x31 (R51). -/
noncomputable def groupReel (w : BitVec 32) : Option Instr :=
  match (fFn w).toNat with
  | 0 => some (.reelinit (fA w) (fB w))
  | 1 => some (.reelawait (fD w) (fA w))
  | 2 => some (.reelrel (fA w))
  | 3 => some (.reelst (fD w) (fA w))
  | _ => none

/-- The Task group, major 0x32 (R51). -/
noncomputable def groupTask (w : BitVec 32) : Option Instr :=
  match (fFn w).toNat with
  | 0 => some (.tenq (fA w) (fB w))
  | 1 => some (.tdeq (fD w) (fA w) (fB w))
  | 2 => some (.futld (fD w) (fA w))
  | 3 => some (.futst (fD w) (fA w) (fB w))
  | 4 => some (.launch (fA w))
  | _ => none

/-- The Sync group, major 0x33 (R51). -/
noncomputable def groupSync (w : BitVec 32) : Option Instr :=
  match (fFn w).toNat with
  | 0 => some (.barinit (fD w) (fA w) (fB w))
  | 1 => some (.bararr (fD w) (fA w))
  | 2 => some (.barwait (fD w) (fA w) (fB w))
  | 3 => some (.dcinit (fA w) (fB w))
  | 4 => some (.dcdec (fD w) (fA w) (fB w))
  | 5 => some (.dcwait (fA w))
  | 6 => some (.slopen (fD w) (fA w))
  | 7 => some (.slwait (fD w) (fA w) (fB w))
  | 8 => some (.slstat (fD w) (fA w))
  | 9 => some (.bump (fD w) (fA w) (fB w))
  | _ => none

/-- The Tbl group, major 0x34 (R51). -/
noncomputable def groupTbl (w : BitVec 32) : Option Instr :=
  match (fFn w).toNat with
  | 0 => some (.rngmap (fD w) (fA w))
  | 1 => some (.rngunmap (fD w) (fA w))
  | 2 => some (.rngsplit (fD w) (fA w) (fB w))
  | 3 => some (.rngmerge (fD w) (fA w))
  | 4 => some (.rngprot (fD w) (fA w) (fB w))
  | 5 => some (.rngresAdd (fD w) (fA w) (fB w))
  | 6 => some (.rnginv (fD w) (fA w) (fB w))
  | 7 => some (.rngcmp (fD w) (fA w) (fB w))
  | 8 => some (.rngqry (fD w) (fA w) (fB w))
  | 9 => some (.lcmremRemove (fD w) (fA w) (fB w))
  | 10 => some (.qtmapMap (fD w) (fA w) (fB w))
  | 11 => some (.qtpinPin (fD w) (fA w) (fB w))
  | _ => none

/-- The Snap group, major 0x35 (R51). -/
noncomputable def groupSnap (w : BitVec 32) : Option Instr :=
  match (fFn w).toNat with
  | 0 => some (.snapinitCursor (fD w) (fA w) (fB w))
  | 1 => some (.snaphash (fD w) (fA w) (fB w))
  | 2 => some (.snapput (fD w) (fA w) (fB w))
  | 3 => some (.snapfind (fD w) (fA w))
  | 4 => some (.snapget (fD w) (fA w) (fB w))
  | 5 => some (.snaprel (fD w) (fA w) (fB w))
  | _ => none

/-- The Mon group, major 0x36 (R51). -/
noncomputable def groupMon (w : BitVec 32) : Option Instr :=
  match (fFn w).toNat with
  | 0 => some (.monopen )
  | 1 => some (.monput (fD w) (fA w) (fB w))
  | 2 => some (.monseal (fA w))
  | 3 => some (.monstat (fD w) (fA w))
  | 4 => some (.monclose (fA w))
  | _ => none

/-- The Cnt group, major 0x37 (R51). -/
noncomputable def groupCnt (w : BitVec 32) : Option Instr :=
  match (fFn w).toNat with
  | 0 => some (.rdts (fD w))
  | 1 => some (.rdcyc (fD w))
  | 2 => some (.rdvc (fD w) (fA w))
  | 3 => some (.pmcfg (fA w) (fB w))
  | 4 => some (.pmrd (fD w) (fA w))
  | 5 => some (.dlyrd (fD w) (fA w))
  | 6 => some (.dbgmark (fA w))
  | _ => none

/-- The instruction a 32-bit word names by its major opcode and function code, before its other fields are checked (R51). -/
noncomputable def candidate32 (w : BitVec 32) : Option Instr :=
  match (fMajor w).toNat with
  | 0xC1 => groupInt w
  | 0xC2 => some (.addi (fD w) (fA w) (fImm w))
  | 0xC3 => some (.andi (fD w) (fA w) (fImm w))
  | 0xC4 => some (.ori (fD w) (fA w) (fImm w))
  | 0xC5 => some (.xori (fD w) (fA w) (fImm w))
  | 0xC6 => groupShiftImm w
  | 0xC7 => some (.slti (fD w) (fA w) (fImm w))
  | 0xC8 => some (.sltiu (fD w) (fA w) (fImm w))
  | 0xC9 => some (.lui (fD w) (fOff19 w))
  | 0xCA => some (.addpc (fD w) (fOff19 w))
  | 0xCB => groupMulDiv w
  | 0xCC => some (.ldb (fD w) (fA w) (fImm w))
  | 0xCD => some (.ldbu (fD w) (fA w) (fImm w))
  | 0xCE => some (.ldh (fD w) (fA w) (fImm w))
  | 0xCF => some (.ldhu (fD w) (fA w) (fImm w))
  | 0xD0 => some (.ldw (fD w) (fA w) (fImm w))
  | 0xD1 => some (.ldwu (fD w) (fA w) (fImm w))
  | 0xD2 => some (.ldd (fD w) (fA w) (fImm w))
  | 0xD3 => some (.stb (fD w) (fA w) (fImm w))
  | 0xD4 => some (.sth (fD w) (fA w) (fImm w))
  | 0xD5 => some (.stw (fD w) (fA w) (fImm w))
  | 0xD6 => some (.std (fD w) (fA w) (fImm w))
  | 0xD7 => groupBranch w
  | 0xD8 => some (.jal (fD w) (fOff19 w))
  | 0xD9 => some (.jalr (fD w) (fA w) (fImm w))
  | 0xDA => some (.loopI (fD w) (fImm w))
  | 0xDB => groupFp w
  | 0xDC => some (.fldw (fD w) (fA w) (fImm w))
  | 0xDD => some (.fldd (fD w) (fA w) (fImm w))
  | 0xDE => some (.fstw (fD w) (fA w) (fImm w))
  | 0xDF => some (.fstd (fD w) (fA w) (fImm w))
  | 0xE0 => groupAtom w
  | 0xE1 => groupFence w
  | 0xE2 => groupSys w
  | 0xE3 => groupMsg w
  | 0xE4 => groupQreg w
  | 0xE5 => groupOx w
  | 0xE6 => groupVint1 w
  | 0xE7 => groupVint2 w
  | 0xE8 => groupVfp w
  | 0xE9 => groupVmem w
  | 0xEA => groupVperm w
  | 0xEB => groupVcvt w
  | 0xEC => groupVspec w
  | 0xED => groupPred w
  | 0xEE => groupMx w
  | 0xEF => groupEng w
  | 0xF0 => groupCpy w
  | 0xF1 => groupReel w
  | 0xF2 => groupTask w
  | 0xF3 => groupSync w
  | 0xF4 => groupTbl w
  | 0xF5 => groupSnap w
  | 0xF6 => groupMon w
  | 0xF7 => groupCnt w
  | _ => none

/-- The compact form a halfword names by its quadrant and op4 (R57). -/
noncomputable def candidate16 (w : BitVec 16) : Option Instr :=
  match (cOp w).toNat with
  | 0 => some (.cMv (cHi w) (cLo w))
  | 1 => some (.cAdd (cHi w) (cLo w))
  | 2 => some (.cSub (cHi w) (cLo w))
  | 3 => some (.cAnd (cHi w) (cLo w))
  | 4 => some (.cOr (cHi w) (cLo w))
  | 5 => some (.cXor (cHi w) (cLo w))
  | 6 => some (.cSll (cHi w) (cLo w))
  | 7 => some (.cSrl (cHi w) (cLo w))
  | 8 => some (.cSra (cHi w) (cLo w))
  | 9 => some (.cMul (cHi w) (cLo w))
  | 10 => some (.cSlt (cHi w) (cLo w))
  | 11 =>
    match (cHi w).toNat with
    | 0 => some (.cJmpr (cLo w))
    | 1 => some (.cCallr (cLo w))
    | _ => none
  | 12 => some (.cLdx (cHi w) (cLo w))
  | 13 => some (.cStx (cHi w) (cLo w))
  | 15 =>
    match (cLo w).toNat with
    | 0 => some .cEnd
    | 1 => some .brk
    | 2 => some .nop
    | 3 => some .yield
    | _ => none
  | 16 => some (.cAddi (cHi w) (cLo w))
  | 17 => some (.cLi (cHi w) (cLo w))
  | 18 => some (.cSlli (cHi w) (cLo w))
  | 19 => some (.cSrli (cHi w) (cLo w))
  | 20 => some (.cSrai (cHi w) (cLo w))
  | 21 => some (.cAndi (cHi w) (cLo w))
  | 22 => some (.cOri (cHi w) (cLo w))
  | 23 => some (.cXori (cHi w) (cLo w))
  | 24 => some (.cSpadj (cHi w ++ cLo w))
  | 32 => some (.cJ (cHi w ++ cLo w))
  | 33 => some (.cJal (cHi w ++ cLo w))
  | 34 => some (.cBeqz (cHi w) (cLo w))
  | 35 => some (.cBnez (cHi w) (cLo w))
  | 36 => some (.cSld (cHi w) (cLo w))
  | 37 => some (.cSst (cHi w) (cLo w))
  | 38 => some (.cPld (cHi w) (cLo w))
  | 39 => some (.cPst (cHi w) (cLo w))
  | 40 => some (.cSlw (cHi w) (cLo w))
  | 41 => some (.cSsw (cHi w) (cLo w))
  | _ => none

/-! ### The word of each instruction, from the formats of R48 and the compact map of R57 -/

def word.add (d : BitVec 5) (a : BitVec 5) (b : BitVec 5) : Enc := .full (rWord 0xc1#8 d a b 0x0#9)
def word.sub (d : BitVec 5) (a : BitVec 5) (b : BitVec 5) : Enc := .full (rWord 0xc1#8 d a b 0x1#9)
def word.addw (d : BitVec 5) (a : BitVec 5) (b : BitVec 5) : Enc := .full (rWord 0xc1#8 d a b 0x2#9)
def word.subw (d : BitVec 5) (a : BitVec 5) (b : BitVec 5) : Enc := .full (rWord 0xc1#8 d a b 0x3#9)
def word.and (d : BitVec 5) (a : BitVec 5) (b : BitVec 5) : Enc := .full (rWord 0xc1#8 d a b 0x4#9)
def word.or (d : BitVec 5) (a : BitVec 5) (b : BitVec 5) : Enc := .full (rWord 0xc1#8 d a b 0x5#9)
def word.xor (d : BitVec 5) (a : BitVec 5) (b : BitVec 5) : Enc := .full (rWord 0xc1#8 d a b 0x6#9)
def word.andn (d : BitVec 5) (a : BitVec 5) (b : BitVec 5) : Enc := .full (rWord 0xc1#8 d a b 0x7#9)
def word.orn (d : BitVec 5) (a : BitVec 5) (b : BitVec 5) : Enc := .full (rWord 0xc1#8 d a b 0x8#9)
def word.sll (d : BitVec 5) (a : BitVec 5) (b : BitVec 5) : Enc := .full (rWord 0xc1#8 d a b 0x9#9)
def word.srl (d : BitVec 5) (a : BitVec 5) (b : BitVec 5) : Enc := .full (rWord 0xc1#8 d a b 0xa#9)
def word.sra (d : BitVec 5) (a : BitVec 5) (b : BitVec 5) : Enc := .full (rWord 0xc1#8 d a b 0xb#9)
def word.rol (d : BitVec 5) (a : BitVec 5) (b : BitVec 5) : Enc := .full (rWord 0xc1#8 d a b 0xc#9)
def word.ror (d : BitVec 5) (a : BitVec 5) (b : BitVec 5) : Enc := .full (rWord 0xc1#8 d a b 0xd#9)
def word.slt (d : BitVec 5) (a : BitVec 5) (b : BitVec 5) : Enc := .full (rWord 0xc1#8 d a b 0xe#9)
def word.sltu (d : BitVec 5) (a : BitVec 5) (b : BitVec 5) : Enc := .full (rWord 0xc1#8 d a b 0xf#9)
def word.seq (d : BitVec 5) (a : BitVec 5) (b : BitVec 5) : Enc := .full (rWord 0xc1#8 d a b 0x10#9)
def word.min (d : BitVec 5) (a : BitVec 5) (b : BitVec 5) : Enc := .full (rWord 0xc1#8 d a b 0x11#9)
def word.max (d : BitVec 5) (a : BitVec 5) (b : BitVec 5) : Enc := .full (rWord 0xc1#8 d a b 0x12#9)
def word.minu (d : BitVec 5) (a : BitVec 5) (b : BitVec 5) : Enc := .full (rWord 0xc1#8 d a b 0x13#9)
def word.maxu (d : BitVec 5) (a : BitVec 5) (b : BitVec 5) : Enc := .full (rWord 0xc1#8 d a b 0x14#9)
def word.clz (d : BitVec 5) (a : BitVec 5) : Enc := .full (rWord 0xc1#8 d a 0x0#5 0x15#9)
def word.ctz (d : BitVec 5) (a : BitVec 5) : Enc := .full (rWord 0xc1#8 d a 0x0#5 0x16#9)
def word.popc (d : BitVec 5) (a : BitVec 5) : Enc := .full (rWord 0xc1#8 d a 0x0#5 0x17#9)
def word.brev (d : BitVec 5) (a : BitVec 5) : Enc := .full (rWord 0xc1#8 d a 0x0#5 0x18#9)
def word.bswap (d : BitVec 5) (a : BitVec 5) : Enc := .full (rWord 0xc1#8 d a 0x0#5 0x19#9)
def word.sextB (d : BitVec 5) (a : BitVec 5) : Enc := .full (rWord 0xc1#8 d a 0x0#5 0x1a#9)
def word.sextH (d : BitVec 5) (a : BitVec 5) : Enc := .full (rWord 0xc1#8 d a 0x0#5 0x1b#9)
def word.sextW (d : BitVec 5) (a : BitVec 5) : Enc := .full (rWord 0xc1#8 d a 0x0#5 0x1c#9)
def word.zextB (d : BitVec 5) (a : BitVec 5) : Enc := .full (rWord 0xc1#8 d a 0x0#5 0x1d#9)
def word.zextH (d : BitVec 5) (a : BitVec 5) : Enc := .full (rWord 0xc1#8 d a 0x0#5 0x1e#9)
def word.zextW (d : BitVec 5) (a : BitVec 5) : Enc := .full (rWord 0xc1#8 d a 0x0#5 0x1f#9)
def word.shadd (d : BitVec 5) (a : BitVec 5) (b : BitVec 5) (n : BitVec 2) : Enc := .full (rWord 0xc1#8 d a b (0x8#7 ++ n))
def word.addi (d : BitVec 5) (a : BitVec 5) (i : BitVec 14) : Enc := .full (iWord 0xc2#8 d a i)
def word.andi (d : BitVec 5) (a : BitVec 5) (i : BitVec 14) : Enc := .full (iWord 0xc3#8 d a i)
def word.ori (d : BitVec 5) (a : BitVec 5) (i : BitVec 14) : Enc := .full (iWord 0xc4#8 d a i)
def word.xori (d : BitVec 5) (a : BitVec 5) (i : BitVec 14) : Enc := .full (iWord 0xc5#8 d a i)
def word.slli (d : BitVec 5) (a : BitVec 5) (n : BitVec 6) : Enc := .full (iWord 0xc6#8 d a (0x0#8 ++ n))
def word.srli (d : BitVec 5) (a : BitVec 5) (n : BitVec 6) : Enc := .full (iWord 0xc6#8 d a (0x40#8 ++ n))
def word.srai (d : BitVec 5) (a : BitVec 5) (n : BitVec 6) : Enc := .full (iWord 0xc6#8 d a (0x80#8 ++ n))
def word.rori (d : BitVec 5) (a : BitVec 5) (n : BitVec 6) : Enc := .full (iWord 0xc6#8 d a (0xc0#8 ++ n))
def word.slti (d : BitVec 5) (a : BitVec 5) (i : BitVec 14) : Enc := .full (iWord 0xc7#8 d a i)
def word.sltiu (d : BitVec 5) (a : BitVec 5) (i : BitVec 14) : Enc := .full (iWord 0xc8#8 d a i)
def word.lui (d : BitVec 5) (i : BitVec 19) : Enc := .full (jWord 0xc9#8 d i)
def word.addpc (d : BitVec 5) (i : BitVec 19) : Enc := .full (jWord 0xca#8 d i)
def word.mul (d : BitVec 5) (a : BitVec 5) (b : BitVec 5) : Enc := .full (rWord 0xcb#8 d a b 0x0#9)
def word.mulh (d : BitVec 5) (a : BitVec 5) (b : BitVec 5) : Enc := .full (rWord 0xcb#8 d a b 0x1#9)
def word.mulhu (d : BitVec 5) (a : BitVec 5) (b : BitVec 5) : Enc := .full (rWord 0xcb#8 d a b 0x2#9)
def word.mulhsu (d : BitVec 5) (a : BitVec 5) (b : BitVec 5) : Enc := .full (rWord 0xcb#8 d a b 0x3#9)
def word.mulw (d : BitVec 5) (a : BitVec 5) (b : BitVec 5) : Enc := .full (rWord 0xcb#8 d a b 0x4#9)
def word.div (d : BitVec 5) (a : BitVec 5) (b : BitVec 5) : Enc := .full (rWord 0xcb#8 d a b 0x5#9)
def word.divu (d : BitVec 5) (a : BitVec 5) (b : BitVec 5) : Enc := .full (rWord 0xcb#8 d a b 0x6#9)
def word.rem (d : BitVec 5) (a : BitVec 5) (b : BitVec 5) : Enc := .full (rWord 0xcb#8 d a b 0x7#9)
def word.remu (d : BitVec 5) (a : BitVec 5) (b : BitVec 5) : Enc := .full (rWord 0xcb#8 d a b 0x8#9)
def word.madd (d : BitVec 5) (a : BitVec 5) (b : BitVec 5) : Enc := .full (rWord 0xcb#8 d a b 0x9#9)
def word.ldb (d : BitVec 5) (a : BitVec 5) (i : BitVec 14) : Enc := .full (iWord 0xcc#8 d a i)
def word.ldbu (d : BitVec 5) (a : BitVec 5) (i : BitVec 14) : Enc := .full (iWord 0xcd#8 d a i)
def word.ldh (d : BitVec 5) (a : BitVec 5) (i : BitVec 14) : Enc := .full (iWord 0xce#8 d a i)
def word.ldhu (d : BitVec 5) (a : BitVec 5) (i : BitVec 14) : Enc := .full (iWord 0xcf#8 d a i)
def word.ldw (d : BitVec 5) (a : BitVec 5) (i : BitVec 14) : Enc := .full (iWord 0xd0#8 d a i)
def word.ldwu (d : BitVec 5) (a : BitVec 5) (i : BitVec 14) : Enc := .full (iWord 0xd1#8 d a i)
def word.ldd (d : BitVec 5) (a : BitVec 5) (i : BitVec 14) : Enc := .full (iWord 0xd2#8 d a i)
def word.stb (s : BitVec 5) (b : BitVec 5) (i : BitVec 14) : Enc := .full (iWord 0xd3#8 s b i)
def word.sth (s : BitVec 5) (b : BitVec 5) (i : BitVec 14) : Enc := .full (iWord 0xd4#8 s b i)
def word.stw (s : BitVec 5) (b : BitVec 5) (i : BitVec 14) : Enc := .full (iWord 0xd5#8 s b i)
def word.std (s : BitVec 5) (b : BitVec 5) (i : BitVec 14) : Enc := .full (iWord 0xd6#8 s b i)
def word.beq (a : BitVec 5) (b : BitVec 5) (o : BitVec 11) : Enc := .full (bWord 0xd7#8 0x0#3 a b o)
def word.bne (a : BitVec 5) (b : BitVec 5) (o : BitVec 11) : Enc := .full (bWord 0xd7#8 0x1#3 a b o)
def word.blt (a : BitVec 5) (b : BitVec 5) (o : BitVec 11) : Enc := .full (bWord 0xd7#8 0x2#3 a b o)
def word.bge (a : BitVec 5) (b : BitVec 5) (o : BitVec 11) : Enc := .full (bWord 0xd7#8 0x3#3 a b o)
def word.bltu (a : BitVec 5) (b : BitVec 5) (o : BitVec 11) : Enc := .full (bWord 0xd7#8 0x4#3 a b o)
def word.bgeu (a : BitVec 5) (b : BitVec 5) (o : BitVec 11) : Enc := .full (bWord 0xd7#8 0x5#3 a b o)
def word.bbs (a : BitVec 5) (b : BitVec 5) (o : BitVec 11) : Enc := .full (bWord 0xd7#8 0x6#3 a b o)
def word.bbc (a : BitVec 5) (b : BitVec 5) (o : BitVec 11) : Enc := .full (bWord 0xd7#8 0x7#3 a b o)
def word.jal (d : BitVec 5) (o : BitVec 19) : Enc := .full (jWord 0xd8#8 d o)
def word.jalr (d : BitVec 5) (a : BitVec 5) (i : BitVec 14) : Enc := .full (iWord 0xd9#8 d a i)
def word.loopI (d : BitVec 5) (i : BitVec 14) : Enc := .full (iWord 0xda#8 d 0x0#5 i)
def word.fadd (d : BitVec 5) (a : BitVec 5) (b : BitVec 5) (r : BitVec 3) (f : BitVec 1) : Enc := .full (rWord 0xdb#8 d a b (r ++ f ++ 0x0#5))
def word.fsub (d : BitVec 5) (a : BitVec 5) (b : BitVec 5) (r : BitVec 3) (f : BitVec 1) : Enc := .full (rWord 0xdb#8 d a b (r ++ f ++ 0x1#5))
def word.fmul (d : BitVec 5) (a : BitVec 5) (b : BitVec 5) (r : BitVec 3) (f : BitVec 1) : Enc := .full (rWord 0xdb#8 d a b (r ++ f ++ 0x2#5))
def word.fdiv (d : BitVec 5) (a : BitVec 5) (b : BitVec 5) (r : BitVec 3) (f : BitVec 1) : Enc := .full (rWord 0xdb#8 d a b (r ++ f ++ 0x3#5))
def word.fsqrt (d : BitVec 5) (a : BitVec 5) (r : BitVec 3) (f : BitVec 1) : Enc := .full (rWord 0xdb#8 d a 0x0#5 (r ++ f ++ 0x4#5))
def word.fma (d : BitVec 5) (a : BitVec 5) (b : BitVec 5) (r : BitVec 3) (f : BitVec 1) : Enc := .full (rWord 0xdb#8 d a b (r ++ f ++ 0x5#5))
def word.fms (d : BitVec 5) (a : BitVec 5) (b : BitVec 5) (r : BitVec 3) (f : BitVec 1) : Enc := .full (rWord 0xdb#8 d a b (r ++ f ++ 0x6#5))
def word.fnma (d : BitVec 5) (a : BitVec 5) (b : BitVec 5) (r : BitVec 3) (f : BitVec 1) : Enc := .full (rWord 0xdb#8 d a b (r ++ f ++ 0x7#5))
def word.fmin (d : BitVec 5) (a : BitVec 5) (b : BitVec 5) (f : BitVec 1) : Enc := .full (rWord 0xdb#8 d a b (0x7#3 ++ f ++ 0x8#5))
def word.fmax (d : BitVec 5) (a : BitVec 5) (b : BitVec 5) (f : BitVec 1) : Enc := .full (rWord 0xdb#8 d a b (0x7#3 ++ f ++ 0x9#5))
def word.fcmpEq (d : BitVec 5) (a : BitVec 5) (b : BitVec 5) (f : BitVec 1) : Enc := .full (rWord 0xdb#8 d a b (0x7#3 ++ f ++ 0xa#5))
def word.fcmpLt (d : BitVec 5) (a : BitVec 5) (b : BitVec 5) (f : BitVec 1) : Enc := .full (rWord 0xdb#8 d a b (0x7#3 ++ f ++ 0xb#5))
def word.fcmpLe (d : BitVec 5) (a : BitVec 5) (b : BitVec 5) (f : BitVec 1) : Enc := .full (rWord 0xdb#8 d a b (0x7#3 ++ f ++ 0xc#5))
def word.fcmpUn (d : BitVec 5) (a : BitVec 5) (b : BitVec 5) (f : BitVec 1) : Enc := .full (rWord 0xdb#8 d a b (0x7#3 ++ f ++ 0xd#5))
def word.fclass (d : BitVec 5) (a : BitVec 5) (f : BitVec 1) : Enc := .full (rWord 0xdb#8 d a 0x0#5 (0x7#3 ++ f ++ 0xe#5))
def word.fcvtS (d : BitVec 5) (a : BitVec 5) (r : BitVec 3) : Enc := .full (rWord 0xdb#8 d a 0x0#5 (r ++ 0x2f#6))
def word.fcvtD (d : BitVec 5) (a : BitVec 5) : Enc := .full (rWord 0xdb#8 d a 0x0#5 0x1cf#9)
def word.fcvti (d : BitVec 5) (a : BitVec 5) (k : BitVec 5) (r : BitVec 3) (f : BitVec 1) : Enc := .full (rWord 0xdb#8 d a k (r ++ f ++ 0x10#5))
def word.fcvtf (d : BitVec 5) (a : BitVec 5) (k : BitVec 5) (r : BitVec 3) (f : BitVec 1) : Enc := .full (rWord 0xdb#8 d a k (r ++ f ++ 0x11#5))
def word.fmvxf (d : BitVec 5) (a : BitVec 5) (f : BitVec 1) : Enc := .full (rWord 0xdb#8 d a 0x0#5 (0x7#3 ++ f ++ 0x12#5))
def word.fmvfx (d : BitVec 5) (a : BitVec 5) (f : BitVec 1) : Enc := .full (rWord 0xdb#8 d a 0x0#5 (0x7#3 ++ f ++ 0x13#5))
def word.fsgn (d : BitVec 5) (a : BitVec 5) (b : BitVec 5) (f : BitVec 1) : Enc := .full (rWord 0xdb#8 d a b (0x7#3 ++ f ++ 0x14#5))
def word.fsgnn (d : BitVec 5) (a : BitVec 5) (b : BitVec 5) (f : BitVec 1) : Enc := .full (rWord 0xdb#8 d a b (0x7#3 ++ f ++ 0x15#5))
def word.fsgnx (d : BitVec 5) (a : BitVec 5) (b : BitVec 5) (f : BitVec 1) : Enc := .full (rWord 0xdb#8 d a b (0x7#3 ++ f ++ 0x16#5))
def word.fldw (d : BitVec 5) (a : BitVec 5) (i : BitVec 14) : Enc := .full (iWord 0xdc#8 d a i)
def word.fldd (d : BitVec 5) (a : BitVec 5) (i : BitVec 14) : Enc := .full (iWord 0xdd#8 d a i)
def word.fstw (s : BitVec 5) (b : BitVec 5) (i : BitVec 14) : Enc := .full (iWord 0xde#8 s b i)
def word.fstd (s : BitVec 5) (b : BitVec 5) (i : BitVec 14) : Enc := .full (iWord 0xdf#8 s b i)
def word.amoadd (d : BitVec 5) (a : BitVec 5) (b : BitVec 5) (o : BitVec 5) : Enc := .full (rWord 0xe0#8 d a b (o ++ 0x0#4))
def word.amoand (d : BitVec 5) (a : BitVec 5) (b : BitVec 5) (o : BitVec 5) : Enc := .full (rWord 0xe0#8 d a b (o ++ 0x1#4))
def word.amoor (d : BitVec 5) (a : BitVec 5) (b : BitVec 5) (o : BitVec 5) : Enc := .full (rWord 0xe0#8 d a b (o ++ 0x2#4))
def word.amoxor (d : BitVec 5) (a : BitVec 5) (b : BitVec 5) (o : BitVec 5) : Enc := .full (rWord 0xe0#8 d a b (o ++ 0x3#4))
def word.amomin (d : BitVec 5) (a : BitVec 5) (b : BitVec 5) (o : BitVec 5) : Enc := .full (rWord 0xe0#8 d a b (o ++ 0x4#4))
def word.amomax (d : BitVec 5) (a : BitVec 5) (b : BitVec 5) (o : BitVec 5) : Enc := .full (rWord 0xe0#8 d a b (o ++ 0x5#4))
def word.amominu (d : BitVec 5) (a : BitVec 5) (b : BitVec 5) (o : BitVec 5) : Enc := .full (rWord 0xe0#8 d a b (o ++ 0x6#4))
def word.amomaxu (d : BitVec 5) (a : BitVec 5) (b : BitVec 5) (o : BitVec 5) : Enc := .full (rWord 0xe0#8 d a b (o ++ 0x7#4))
def word.amoswap (d : BitVec 5) (a : BitVec 5) (b : BitVec 5) (o : BitVec 5) : Enc := .full (rWord 0xe0#8 d a b (o ++ 0x8#4))
def word.cas (d : BitVec 5) (a : BitVec 5) (b : BitVec 5) (o : BitVec 5) : Enc := .full (rWord 0xe0#8 d a b (o ++ 0x9#4))
def word.fence (k : BitVec 3) (s : BitVec 3) : Enc := .full (rWord 0xe1#8 0x0#5 0x0#5 0x0#5 (k ++ s ++ 0x0#3))
def word.ifence : Enc := .full (rWord 0xe1#8 0x0#5 0x0#5 0x0#5 0x1#9)
def word.icinv (d : BitVec 5) (a : BitVec 5) (b : BitVec 5) (s : BitVec 3) : Enc := .full (rWord 0xe1#8 d a b (0x0#3 ++ s ++ 0x2#3))
def word.dcinv (d : BitVec 5) (a : BitVec 5) (b : BitVec 5) (s : BitVec 3) : Enc := .full (rWord 0xe1#8 d a b (0x0#3 ++ s ++ 0x3#3))
def word.dcwb (d : BitVec 5) (a : BitVec 5) (b : BitVec 5) (s : BitVec 3) : Enc := .full (rWord 0xe1#8 d a b (0x0#3 ++ s ++ 0x4#3))
def word.dcfl (d : BitVec 5) (a : BitVec 5) (b : BitVec 5) (s : BitVec 3) : Enc := .full (rWord 0xe1#8 d a b (0x0#3 ++ s ++ 0x5#3))
def word.pref (a : BitVec 5) : Enc := .full (rWord 0xe1#8 0x0#5 a 0x0#5 0x6#9)
def word.mfs (d : BitVec 5) (n : BitVec 12) : Enc := .full (rWord 0xe2#8 d 0x0#5 (n.extractLsb' 7 5) (0x0#2 ++ n.extractLsb' 0 7))
def word.mts (a : BitVec 5) (n : BitVec 12) : Enc := .full (rWord 0xe2#8 0x0#5 a (n.extractLsb' 7 5) (0x1#2 ++ n.extractLsb' 0 7))
def word.trap (a : BitVec 5) : Enc := .full (rWord 0xe2#8 0x0#5 a 0x0#5 0x100#9)
def word.eretResume : Enc := .full (rWord 0xe2#8 0x0#5 0x0#5 0x0#5 0x101#9)
def word.eretPreempt : Enc := .full (rWord 0xe2#8 0x0#5 0x0#5 0x0#5 0x101#9)
def word.eretPark : Enc := .full (rWord 0xe2#8 0x0#5 0x0#5 0x0#5 0x101#9)
def word.eretRetake : Enc := .full (rWord 0xe2#8 0x0#5 0x0#5 0x0#5 0x101#9)
def word.eretKill : Enc := .full (rWord 0xe2#8 0x0#5 0x0#5 0x0#5 0x101#9)
def word.eretUnpark : Enc := .full (rWord 0xe2#8 0x0#5 0x0#5 0x0#5 0x101#9)
def word.utret : Enc := .full (rWord 0xe2#8 0x0#5 0x0#5 0x0#5 0x102#9)
def word.waitI (a : BitVec 5) : Enc := .full (rWord 0xe2#8 0x0#5 a 0x0#5 0x103#9)
def word.halt : Enc := .full (rWord 0xe2#8 0x0#5 0x0#5 0x0#5 0x104#9)
def word.migrate (a : BitVec 5) : Enc := .full (rWord 0xe2#8 0x0#5 a 0x0#5 0x105#9)
def word.scanrun (d : BitVec 5) (a : BitVec 5) : Enc := .full (rWord 0xe2#8 d a 0x0#5 0x106#9)
def word.sendI (d : BitVec 5) (a : BitVec 5) (b : BitVec 5) : Enc := .full (rWord 0xe3#8 d a b 0x0#9)
def word.sendl (a : BitVec 5) (b : BitVec 5) : Enc := .full (rWord 0xe3#8 0x0#5 a b 0x1#9)
def word.sendlRpl (a : BitVec 5) (b : BitVec 5) : Enc := .full (rWord 0xe3#8 0x0#5 a b 0x1#9)
def word.reduce (a : BitVec 5) (b : BitVec 5) : Enc := .full (rWord 0xe3#8 0x0#5 a b 0x2#9)
def word.defer (a : BitVec 5) : Enc := .full (rWord 0xe3#8 0x0#5 a 0x0#5 0x3#9)
def word.endAct : Enc := .full (rWord 0xe3#8 0x0#5 0x0#5 0x0#5 0x4#9)
def word.rld (d : BitVec 5) (a : BitVec 5) : Enc := .full (rWord 0xe3#8 d a 0x0#5 0x8#9)
def word.rst (a : BitVec 5) (b : BitVec 5) : Enc := .full (rWord 0xe3#8 0x0#5 a b 0x9#9)
def word.rcas (d : BitVec 5) (a : BitVec 5) (b : BitVec 5) : Enc := .full (rWord 0xe3#8 d a b 0xa#9)
def word.ramo (d : BitVec 5) (a : BitVec 5) (b : BitVec 5) (p : BitVec 4) : Enc := .full (rWord 0xe3#8 d a b (0x1#5 ++ p))
def word.qbind (a : BitVec 5) (b : BitVec 5) : Enc := .full (rWord 0xe4#8 0x0#5 a b 0x0#9)
def word.qput (a : BitVec 5) (b : BitVec 5) : Enc := .full (rWord 0xe4#8 0x0#5 a b 0x1#9)
def word.qget (d : BitVec 5) (a : BitVec 5) : Enc := .full (rWord 0xe4#8 d a 0x0#5 0x2#9)
def word.qtry (d : BitVec 5) (a : BitVec 5) (b : BitVec 5) : Enc := .full (rWord 0xe4#8 d a b 0x3#9)
def word.qlen (d : BitVec 5) (a : BitVec 5) : Enc := .full (rWord 0xe4#8 d a 0x0#5 0x4#9)
def word.oxld (d : BitVec 5) (a : BitVec 5) (n : BitVec 3) : Enc := .full (rWord 0xe5#8 d a 0x0#5 (0x0#6 ++ n))
def word.oxst (a : BitVec 5) (b : BitVec 5) (n : BitVec 3) : Enc := .full (rWord 0xe5#8 0x0#5 a b (0x1#6 ++ n))
def word.oxset (d : BitVec 5) (a : BitVec 5) : Enc := .full (rWord 0xe5#8 d a 0x0#5 0x10#9)
def word.oxget (d : BitVec 5) (a : BitVec 5) : Enc := .full (rWord 0xe5#8 d a 0x0#5 0x11#9)
def word.vadd (d : BitVec 5) (a : BitVec 5) (b : BitVec 5) (p : BitVec 3) (s : BitVec 2) : Enc := .full (vWord 0xe6#8 d a b p s 0x0#4)
def word.vsub (d : BitVec 5) (a : BitVec 5) (b : BitVec 5) (p : BitVec 3) (s : BitVec 2) : Enc := .full (vWord 0xe6#8 d a b p s 0x1#4)
def word.vmul (d : BitVec 5) (a : BitVec 5) (b : BitVec 5) (p : BitVec 3) (s : BitVec 2) : Enc := .full (vWord 0xe6#8 d a b p s 0x2#4)
def word.vmulh (d : BitVec 5) (a : BitVec 5) (b : BitVec 5) (p : BitVec 3) (s : BitVec 2) : Enc := .full (vWord 0xe6#8 d a b p s 0x3#4)
def word.vmadd (d : BitVec 5) (a : BitVec 5) (b : BitVec 5) (p : BitVec 3) (s : BitVec 2) : Enc := .full (vWord 0xe6#8 d a b p s 0x4#4)
def word.vand (d : BitVec 5) (a : BitVec 5) (b : BitVec 5) (p : BitVec 3) (s : BitVec 2) : Enc := .full (vWord 0xe6#8 d a b p s 0x5#4)
def word.vor (d : BitVec 5) (a : BitVec 5) (b : BitVec 5) (p : BitVec 3) (s : BitVec 2) : Enc := .full (vWord 0xe6#8 d a b p s 0x6#4)
def word.vxor (d : BitVec 5) (a : BitVec 5) (b : BitVec 5) (p : BitVec 3) (s : BitVec 2) : Enc := .full (vWord 0xe6#8 d a b p s 0x7#4)
def word.vsll (d : BitVec 5) (a : BitVec 5) (b : BitVec 5) (p : BitVec 3) (s : BitVec 2) : Enc := .full (vWord 0xe6#8 d a b p s 0x8#4)
def word.vsrl (d : BitVec 5) (a : BitVec 5) (b : BitVec 5) (p : BitVec 3) (s : BitVec 2) : Enc := .full (vWord 0xe6#8 d a b p s 0x9#4)
def word.vsra (d : BitVec 5) (a : BitVec 5) (b : BitVec 5) (p : BitVec 3) (s : BitVec 2) : Enc := .full (vWord 0xe6#8 d a b p s 0xa#4)
def word.vmin (d : BitVec 5) (a : BitVec 5) (b : BitVec 5) (p : BitVec 3) (s : BitVec 2) : Enc := .full (vWord 0xe6#8 d a b p s 0xb#4)
def word.vmax (d : BitVec 5) (a : BitVec 5) (b : BitVec 5) (p : BitVec 3) (s : BitVec 2) : Enc := .full (vWord 0xe6#8 d a b p s 0xc#4)
def word.vminu (d : BitVec 5) (a : BitVec 5) (b : BitVec 5) (p : BitVec 3) (s : BitVec 2) : Enc := .full (vWord 0xe6#8 d a b p s 0xd#4)
def word.vmaxu (d : BitVec 5) (a : BitVec 5) (b : BitVec 5) (p : BitVec 3) (s : BitVec 2) : Enc := .full (vWord 0xe6#8 d a b p s 0xe#4)
def word.vabs (d : BitVec 5) (a : BitVec 5) (p : BitVec 3) (s : BitVec 2) : Enc := .full (vWord 0xe6#8 d a 0x0#5 p s 0xf#4)
def word.vadds (d : BitVec 5) (a : BitVec 5) (b : BitVec 5) (p : BitVec 3) (s : BitVec 2) : Enc := .full (vWord 0xe7#8 d a b p s 0x0#4)
def word.vsubs (d : BitVec 5) (a : BitVec 5) (b : BitVec 5) (p : BitVec 3) (s : BitVec 2) : Enc := .full (vWord 0xe7#8 d a b p s 0x1#4)
def word.vcmp (c : BitVec 2) (q : BitVec 3) (a : BitVec 5) (b : BitVec 5) (p : BitVec 3) (s : BitVec 2) : Enc := .full (vWord 0xe7#8 (c ++ q) a b p s 0x2#4)
def word.vsel (d : BitVec 5) (a : BitVec 5) (b : BitVec 5) (p : BitVec 3) (s : BitVec 2) : Enc := .full (vWord 0xe7#8 d a b p s 0x3#4)
def word.vdot4 (d : BitVec 5) (a : BitVec 5) (b : BitVec 5) (p : BitVec 3) : Enc := .full (vWord 0xe7#8 d a b p 0x0#2 0x4#4)
def word.vtdot4 (d : BitVec 5) (a : BitVec 5) (b : BitVec 5) (p : BitVec 3) : Enc := .full (vWord 0xe7#8 d a b p 0x0#2 0x5#4)
def word.vpopc (d : BitVec 5) (a : BitVec 5) (p : BitVec 3) (s : BitVec 2) : Enc := .full (vWord 0xe7#8 d a 0x0#5 p s 0x6#4)
def word.vmv (d : BitVec 5) (a : BitVec 5) (p : BitVec 3) (s : BitVec 2) : Enc := .full (vWord 0xe7#8 d a 0x0#5 p s 0x7#4)
def word.vfadd (d : BitVec 5) (a : BitVec 5) (b : BitVec 5) (p : BitVec 3) (s : BitVec 2) : Enc := .full (vWord 0xe8#8 d a b p s 0x0#4)
def word.vfsub (d : BitVec 5) (a : BitVec 5) (b : BitVec 5) (p : BitVec 3) (s : BitVec 2) : Enc := .full (vWord 0xe8#8 d a b p s 0x1#4)
def word.vfmul (d : BitVec 5) (a : BitVec 5) (b : BitVec 5) (p : BitVec 3) (s : BitVec 2) : Enc := .full (vWord 0xe8#8 d a b p s 0x2#4)
def word.vfma (d : BitVec 5) (a : BitVec 5) (b : BitVec 5) (p : BitVec 3) (s : BitVec 2) : Enc := .full (vWord 0xe8#8 d a b p s 0x3#4)
def word.vfms (d : BitVec 5) (a : BitVec 5) (b : BitVec 5) (p : BitVec 3) (s : BitVec 2) : Enc := .full (vWord 0xe8#8 d a b p s 0x4#4)
def word.vfmin (d : BitVec 5) (a : BitVec 5) (b : BitVec 5) (p : BitVec 3) (s : BitVec 2) : Enc := .full (vWord 0xe8#8 d a b p s 0x5#4)
def word.vfmax (d : BitVec 5) (a : BitVec 5) (b : BitVec 5) (p : BitVec 3) (s : BitVec 2) : Enc := .full (vWord 0xe8#8 d a b p s 0x6#4)
def word.vfdiv (d : BitVec 5) (a : BitVec 5) (b : BitVec 5) (p : BitVec 3) (s : BitVec 2) : Enc := .full (vWord 0xe8#8 d a b p s 0x7#4)
def word.vfsqrt (d : BitVec 5) (a : BitVec 5) (p : BitVec 3) (s : BitVec 2) : Enc := .full (vWord 0xe8#8 d a 0x0#5 p s 0x8#4)
def word.vfrcp (d : BitVec 5) (a : BitVec 5) (p : BitVec 3) (s : BitVec 2) : Enc := .full (vWord 0xe8#8 d a 0x0#5 p s 0x9#4)
def word.vfrsq (d : BitVec 5) (a : BitVec 5) (p : BitVec 3) (s : BitVec 2) : Enc := .full (vWord 0xe8#8 d a 0x0#5 p s 0xa#4)
def word.vfcmp (c : BitVec 2) (q : BitVec 3) (a : BitVec 5) (b : BitVec 5) (p : BitVec 3) (s : BitVec 2) : Enc := .full (vWord 0xe8#8 (c ++ q) a b p s 0xb#4)
def word.vld (d : BitVec 5) (a : BitVec 5) (p : BitVec 3) (s : BitVec 2) : Enc := .full (vWord 0xe9#8 d a 0x0#5 p s 0x0#4)
def word.vlds (d : BitVec 5) (a : BitVec 5) (b : BitVec 5) (p : BitVec 3) (s : BitVec 2) : Enc := .full (vWord 0xe9#8 d a b p s 0x1#4)
def word.vgath (d : BitVec 5) (a : BitVec 5) (b : BitVec 5) (p : BitVec 3) (s : BitVec 2) : Enc := .full (vWord 0xe9#8 d a b p s 0x2#4)
def word.vst (d : BitVec 5) (a : BitVec 5) (p : BitVec 3) (s : BitVec 2) : Enc := .full (vWord 0xe9#8 d a 0x0#5 p s 0x3#4)
def word.vsts (d : BitVec 5) (a : BitVec 5) (b : BitVec 5) (p : BitVec 3) (s : BitVec 2) : Enc := .full (vWord 0xe9#8 d a b p s 0x4#4)
def word.vscat (d : BitVec 5) (a : BitVec 5) (b : BitVec 5) (p : BitVec 3) (s : BitVec 2) : Enc := .full (vWord 0xe9#8 d a b p s 0x5#4)
def word.vldb (d : BitVec 5) (a : BitVec 5) (b : BitVec 5) : Enc := .full (vWord 0xe9#8 d a b 0x0#3 0x0#2 0x6#4)
def word.vredsum (d : BitVec 5) (a : BitVec 5) (k : BitVec 5) (p : BitVec 3) (s : BitVec 2) : Enc := .full (vWord 0xea#8 d a k p s 0x0#4)
def word.vredmin (d : BitVec 5) (a : BitVec 5) (k : BitVec 5) (p : BitVec 3) (s : BitVec 2) : Enc := .full (vWord 0xea#8 d a k p s 0x1#4)
def word.vredmax (d : BitVec 5) (a : BitVec 5) (k : BitVec 5) (p : BitVec 3) (s : BitVec 2) : Enc := .full (vWord 0xea#8 d a k p s 0x2#4)
def word.vscan (d : BitVec 5) (a : BitVec 5) (k : BitVec 5) (p : BitVec 3) (s : BitVec 2) : Enc := .full (vWord 0xea#8 d a k p s 0x3#4)
def word.vperm (d : BitVec 5) (a : BitVec 5) (b : BitVec 5) (p : BitVec 3) (s : BitVec 2) : Enc := .full (vWord 0xea#8 d a b p s 0x4#4)
def word.vbcast (d : BitVec 5) (a : BitVec 5) (p : BitVec 3) (s : BitVec 2) : Enc := .full (vWord 0xea#8 d a 0x0#5 p s 0x5#4)
def word.vslide (d : BitVec 5) (a : BitVec 5) (b : BitVec 5) (p : BitVec 3) (s : BitVec 2) : Enc := .full (vWord 0xea#8 d a b p s 0x6#4)
def word.vins (d : BitVec 5) (a : BitVec 5) (b : BitVec 5) (s : BitVec 2) : Enc := .full (vWord 0xea#8 d a b 0x0#3 s 0x7#4)
def word.vext (d : BitVec 5) (a : BitVec 5) (b : BitVec 5) (s : BitVec 2) : Enc := .full (vWord 0xea#8 d a b 0x0#3 s 0x8#4)
def word.vzip (d : BitVec 5) (a : BitVec 5) (b : BitVec 5) (p : BitVec 3) (s : BitVec 2) : Enc := .full (vWord 0xea#8 d a b p s 0x9#4)
def word.vcvt (d : BitVec 5) (a : BitVec 5) (c : BitVec 4) (p : BitVec 3) (s : BitVec 2) : Enc := .full (vWord 0xeb#8 d a (0x0#1 ++ c) p s 0x0#4)
def word.vnarrow (d : BitVec 5) (a : BitVec 5) (h : BitVec 1) (c : BitVec 4) (p : BitVec 3) (s : BitVec 2) : Enc := .full (vWord 0xeb#8 d a (h ++ c) p s 0x1#4)
def word.vwiden (d : BitVec 5) (a : BitVec 5) (h : BitVec 1) (c : BitVec 4) (p : BitVec 3) (s : BitVec 2) : Enc := .full (vWord 0xeb#8 d a (h ++ c) p s 0x2#4)
def word.unpk3 (d : BitVec 5) (a : BitVec 5) (b : BitVec 5) (q : BitVec 3) : Enc := .full (vWord 0xeb#8 d a b q 0x0#2 0x3#4)
def word.unpk4 (d : BitVec 5) (a : BitVec 5) (b : BitVec 5) (p : BitVec 3) (s : BitVec 2) : Enc := .full (vWord 0xeb#8 d a b p s 0x4#4)
def word.vpwl (d : BitVec 5) (a : BitVec 5) (b : BitVec 5) (p : BitVec 3) : Enc := .full (vWord 0xec#8 d a b p 0x0#2 0x0#4)
def word.vsupd (d : BitVec 5) (a : BitVec 5) (b : BitVec 5) (p : BitVec 3) : Enc := .full (vWord 0xec#8 d a b p 0x0#2 0x1#4)
def word.vprune (d : BitVec 5) (a : BitVec 5) (q : BitVec 3) : Enc := .full (vWord 0xec#8 d a 0x0#5 q 0x0#2 0x2#4)
def word.pand (d : BitVec 5) (a : BitVec 5) (b : BitVec 5) : Enc := .full (rWord 0xed#8 d a b 0x0#9)
def word.por (d : BitVec 5) (a : BitVec 5) (b : BitVec 5) : Enc := .full (rWord 0xed#8 d a b 0x1#9)
def word.pxor (d : BitVec 5) (a : BitVec 5) (b : BitVec 5) : Enc := .full (rWord 0xed#8 d a b 0x2#9)
def word.pnot (d : BitVec 5) (a : BitVec 5) : Enc := .full (rWord 0xed#8 d a 0x0#5 0x3#9)
def word.pset (d : BitVec 5) (a : BitVec 5) (s : BitVec 2) : Enc := .full (rWord 0xed#8 d a 0x0#5 (0x1#7 ++ s))
def word.pcnt (d : BitVec 5) (a : BitVec 5) (s : BitVec 2) : Enc := .full (rWord 0xed#8 d a 0x0#5 (0x2#7 ++ s))
def word.pfirst (d : BitVec 5) (a : BitVec 5) (s : BitVec 2) : Enc := .full (rWord 0xed#8 d a 0x0#5 (0x3#7 ++ s))
def word.mxcfg (a : BitVec 5) : Enc := .full (rWord 0xee#8 0x0#5 a 0x0#5 0x0#9)
def word.mxzero (d : BitVec 5) : Enc := .full (rWord 0xee#8 d 0x0#5 0x0#5 0x1#9)
def word.mxldb (d : BitVec 5) (a : BitVec 5) : Enc := .full (rWord 0xee#8 d a 0x0#5 0x2#9)
def word.mxldbs (d : BitVec 5) (a : BitVec 5) (b : BitVec 5) : Enc := .full (rWord 0xee#8 d a b 0x3#9)
def word.mxldbg (d : BitVec 5) (a : BitVec 5) : Enc := .full (rWord 0xee#8 d a 0x0#5 0x4#9)
def word.mxstg (d : BitVec 5) (a : BitVec 5) : Enc := .full (rWord 0xee#8 d a 0x0#5 0x5#9)
def word.mxmul (d : BitVec 5) (a : BitVec 5) : Enc := .full (rWord 0xee#8 d a 0x0#5 0x6#9)
def word.mxrd (d : BitVec 5) (a : BitVec 5) : Enc := .full (rWord 0xee#8 d a 0x0#5 0x7#9)
def word.mxfence : Enc := .full (rWord 0xee#8 0x0#5 0x0#5 0x0#5 0x8#9)
def word.forkMs (d : BitVec 5) (a : BitVec 5) (b : BitVec 5) : Enc := .full (rWord 0xef#8 d a b 0x0#9)
def word.forkMi (d : BitVec 5) (a : BitVec 5) (b : BitVec 5) : Enc := .full (rWord 0xef#8 d a b 0x1#9)
def word.forkCs (d : BitVec 5) (a : BitVec 5) (b : BitVec 5) : Enc := .full (rWord 0xef#8 d a b 0x2#9)
def word.join (d : BitVec 5) (a : BitVec 5) : Enc := .full (rWord 0xef#8 d a 0x0#5 0x3#9)
def word.sempost (d : BitVec 5) (a : BitVec 5) : Enc := .full (rWord 0xef#8 d a 0x0#5 0x4#9)
def word.semwait (d : BitVec 5) (a : BitVec 5) : Enc := .full (rWord 0xef#8 d a 0x0#5 0x5#9)
def word.engstat (d : BitVec 5) (a : BitVec 5) : Enc := .full (rWord 0xef#8 d a 0x0#5 0x6#9)
def word.cpy (d : BitVec 5) : Enc := .full (rWord 0xf0#8 d 0x0#5 0x0#5 0x0#9)
def word.cpym (d : BitVec 5) : Enc := .full (rWord 0xf0#8 d 0x0#5 0x0#5 0x1#9)
def word.cpycan (d : BitVec 5) (a : BitVec 5) : Enc := .full (rWord 0xf0#8 d a 0x0#5 0x2#9)
def word.cpyst (d : BitVec 5) (a : BitVec 5) : Enc := .full (rWord 0xf0#8 d a 0x0#5 0x3#9)
def word.stcfg (d : BitVec 5) : Enc := .full (rWord 0xf0#8 d 0x0#5 0x0#5 0x4#9)
def word.stend (d : BitVec 5) : Enc := .full (rWord 0xf0#8 d 0x0#5 0x0#5 0x5#9)
def word.ststat (d : BitVec 5) (a : BitVec 5) : Enc := .full (rWord 0xf0#8 d a 0x0#5 0x6#9)
def word.reelinit (a : BitVec 5) (b : BitVec 5) : Enc := .full (rWord 0xf1#8 0x0#5 a b 0x0#9)
def word.reelawait (d : BitVec 5) (a : BitVec 5) : Enc := .full (rWord 0xf1#8 d a 0x0#5 0x1#9)
def word.reelrel (a : BitVec 5) : Enc := .full (rWord 0xf1#8 0x0#5 a 0x0#5 0x2#9)
def word.reelst (d : BitVec 5) (a : BitVec 5) : Enc := .full (rWord 0xf1#8 d a 0x0#5 0x3#9)
def word.tenq (a : BitVec 5) (b : BitVec 5) : Enc := .full (rWord 0xf2#8 0x0#5 a b 0x0#9)
def word.tdeq (d : BitVec 5) (a : BitVec 5) (b : BitVec 5) : Enc := .full (rWord 0xf2#8 d a b 0x1#9)
def word.futld (d : BitVec 5) (a : BitVec 5) : Enc := .full (rWord 0xf2#8 d a 0x0#5 0x2#9)
def word.futst (d : BitVec 5) (a : BitVec 5) (b : BitVec 5) : Enc := .full (rWord 0xf2#8 d a b 0x3#9)
def word.launch (a : BitVec 5) : Enc := .full (rWord 0xf2#8 0x0#5 a 0x0#5 0x4#9)
def word.barinit (d : BitVec 5) (a : BitVec 5) (b : BitVec 5) : Enc := .full (rWord 0xf3#8 d a b 0x0#9)
def word.bararr (d : BitVec 5) (a : BitVec 5) : Enc := .full (rWord 0xf3#8 d a 0x0#5 0x1#9)
def word.barwait (d : BitVec 5) (a : BitVec 5) (b : BitVec 5) : Enc := .full (rWord 0xf3#8 d a b 0x2#9)
def word.dcinit (a : BitVec 5) (b : BitVec 5) : Enc := .full (rWord 0xf3#8 0x0#5 a b 0x3#9)
def word.dcdec (d : BitVec 5) (a : BitVec 5) (b : BitVec 5) : Enc := .full (rWord 0xf3#8 d a b 0x4#9)
def word.dcwait (a : BitVec 5) : Enc := .full (rWord 0xf3#8 0x0#5 a 0x0#5 0x5#9)
def word.slopen (d : BitVec 5) (a : BitVec 5) : Enc := .full (rWord 0xf3#8 d a 0x0#5 0x6#9)
def word.slopenClose (d : BitVec 5) (a : BitVec 5) : Enc := .full (rWord 0xf3#8 d a 0x0#5 0x6#9)
def word.slwait (d : BitVec 5) (a : BitVec 5) (b : BitVec 5) : Enc := .full (rWord 0xf3#8 d a b 0x7#9)
def word.slstat (d : BitVec 5) (a : BitVec 5) : Enc := .full (rWord 0xf3#8 d a 0x0#5 0x8#9)
def word.bump (d : BitVec 5) (a : BitVec 5) (b : BitVec 5) : Enc := .full (rWord 0xf3#8 d a b 0x9#9)
def word.rngmap (d : BitVec 5) (a : BitVec 5) : Enc := .full (rWord 0xf4#8 d a 0x0#5 0x0#9)
def word.rngunmap (d : BitVec 5) (a : BitVec 5) : Enc := .full (rWord 0xf4#8 d a 0x0#5 0x1#9)
def word.rngsplit (d : BitVec 5) (a : BitVec 5) (b : BitVec 5) : Enc := .full (rWord 0xf4#8 d a b 0x2#9)
def word.rngmerge (d : BitVec 5) (a : BitVec 5) : Enc := .full (rWord 0xf4#8 d a 0x0#5 0x3#9)
def word.rngprot (d : BitVec 5) (a : BitVec 5) (b : BitVec 5) : Enc := .full (rWord 0xf4#8 d a b 0x4#9)
def word.rngresAdd (d : BitVec 5) (a : BitVec 5) (b : BitVec 5) : Enc := .full (rWord 0xf4#8 d a b 0x5#9)
def word.rngresRemove (d : BitVec 5) (a : BitVec 5) (b : BitVec 5) : Enc := .full (rWord 0xf4#8 d a b 0x5#9)
def word.rnginv (d : BitVec 5) (a : BitVec 5) (b : BitVec 5) : Enc := .full (rWord 0xf4#8 d a b 0x6#9)
def word.rngcmp (d : BitVec 5) (a : BitVec 5) (b : BitVec 5) : Enc := .full (rWord 0xf4#8 d a b 0x7#9)
def word.rngqry (d : BitVec 5) (a : BitVec 5) (b : BitVec 5) : Enc := .full (rWord 0xf4#8 d a b 0x8#9)
def word.lcmremRemove (d : BitVec 5) (a : BitVec 5) (b : BitVec 5) : Enc := .full (rWord 0xf4#8 d a b 0x9#9)
def word.lcmremPlace (d : BitVec 5) (a : BitVec 5) (b : BitVec 5) : Enc := .full (rWord 0xf4#8 d a b 0x9#9)
def word.qtmapMap (d : BitVec 5) (a : BitVec 5) (b : BitVec 5) : Enc := .full (rWord 0xf4#8 d a b 0xa#9)
def word.qtmapUnmap (d : BitVec 5) (a : BitVec 5) (b : BitVec 5) : Enc := .full (rWord 0xf4#8 d a b 0xa#9)
def word.qtpinPin (d : BitVec 5) (a : BitVec 5) (b : BitVec 5) : Enc := .full (rWord 0xf4#8 d a b 0xb#9)
def word.qtpinUnpin (d : BitVec 5) (a : BitVec 5) (b : BitVec 5) : Enc := .full (rWord 0xf4#8 d a b 0xb#9)
def word.snapinitCursor (d : BitVec 5) (a : BitVec 5) (b : BitVec 5) : Enc := .full (rWord 0xf5#8 d a b 0x0#9)
def word.snapinitCreate (d : BitVec 5) (a : BitVec 5) (b : BitVec 5) : Enc := .full (rWord 0xf5#8 d a b 0x0#9)
def word.snapinitDestroy (d : BitVec 5) (a : BitVec 5) (b : BitVec 5) : Enc := .full (rWord 0xf5#8 d a b 0x0#9)
def word.snapinitQuery (d : BitVec 5) (a : BitVec 5) (b : BitVec 5) : Enc := .full (rWord 0xf5#8 d a b 0x0#9)
def word.snaphash (d : BitVec 5) (a : BitVec 5) (b : BitVec 5) : Enc := .full (rWord 0xf5#8 d a b 0x1#9)
def word.snapput (d : BitVec 5) (a : BitVec 5) (b : BitVec 5) : Enc := .full (rWord 0xf5#8 d a b 0x2#9)
def word.snapfind (d : BitVec 5) (a : BitVec 5) : Enc := .full (rWord 0xf5#8 d a 0x0#5 0x3#9)
def word.snapget (d : BitVec 5) (a : BitVec 5) (b : BitVec 5) : Enc := .full (rWord 0xf5#8 d a b 0x4#9)
def word.snaprel (d : BitVec 5) (a : BitVec 5) (b : BitVec 5) : Enc := .full (rWord 0xf5#8 d a b 0x5#9)
def word.snaprelAll (d : BitVec 5) (a : BitVec 5) (b : BitVec 5) : Enc := .full (rWord 0xf5#8 d a b 0x5#9)
def word.monopen : Enc := .full (rWord 0xf6#8 0x0#5 0x0#5 0x0#5 0x0#9)
def word.monput (d : BitVec 5) (a : BitVec 5) (b : BitVec 5) : Enc := .full (rWord 0xf6#8 d a b 0x1#9)
def word.monseal (a : BitVec 5) : Enc := .full (rWord 0xf6#8 0x0#5 a 0x0#5 0x2#9)
def word.monstat (d : BitVec 5) (a : BitVec 5) : Enc := .full (rWord 0xf6#8 d a 0x0#5 0x3#9)
def word.monclose (a : BitVec 5) : Enc := .full (rWord 0xf6#8 0x0#5 a 0x0#5 0x4#9)
def word.rdts (d : BitVec 5) : Enc := .full (rWord 0xf7#8 d 0x0#5 0x0#5 0x0#9)
def word.rdcyc (d : BitVec 5) : Enc := .full (rWord 0xf7#8 d 0x0#5 0x0#5 0x1#9)
def word.rdvc (d : BitVec 5) (a : BitVec 5) : Enc := .full (rWord 0xf7#8 d a 0x0#5 0x2#9)
def word.pmcfg (a : BitVec 5) (b : BitVec 5) : Enc := .full (rWord 0xf7#8 0x0#5 a b 0x3#9)
def word.pmrd (d : BitVec 5) (a : BitVec 5) : Enc := .full (rWord 0xf7#8 d a 0x0#5 0x4#9)
def word.dlyrd (d : BitVec 5) (a : BitVec 5) : Enc := .full (rWord 0xf7#8 d a 0x0#5 0x5#9)
def word.dbgmark (a : BitVec 5) : Enc := .full (rWord 0xf7#8 0x0#5 a 0x0#5 0x6#9)
def word.cMv (d : BitVec 5) (a : BitVec 5) : Enc := .half (cWord 0x0#6 d a)
def word.cAdd (d : BitVec 5) (a : BitVec 5) : Enc := .half (cWord 0x1#6 d a)
def word.cSub (d : BitVec 5) (a : BitVec 5) : Enc := .half (cWord 0x2#6 d a)
def word.cAnd (d : BitVec 5) (a : BitVec 5) : Enc := .half (cWord 0x3#6 d a)
def word.cOr (d : BitVec 5) (a : BitVec 5) : Enc := .half (cWord 0x4#6 d a)
def word.cXor (d : BitVec 5) (a : BitVec 5) : Enc := .half (cWord 0x5#6 d a)
def word.cSll (d : BitVec 5) (a : BitVec 5) : Enc := .half (cWord 0x6#6 d a)
def word.cSrl (d : BitVec 5) (a : BitVec 5) : Enc := .half (cWord 0x7#6 d a)
def word.cSra (d : BitVec 5) (a : BitVec 5) : Enc := .half (cWord 0x8#6 d a)
def word.cMul (d : BitVec 5) (a : BitVec 5) : Enc := .half (cWord 0x9#6 d a)
def word.cSlt (d : BitVec 5) (a : BitVec 5) : Enc := .half (cWord 0xa#6 d a)
def word.cJmpr (a : BitVec 5) : Enc := .half (cWord 0xb#6 0x0#5 a)
def word.cCallr (a : BitVec 5) : Enc := .half (cWord 0xb#6 0x1#5 a)
def word.cLdx (d : BitVec 5) (a : BitVec 5) : Enc := .half (cWord 0xc#6 d a)
def word.cStx (s : BitVec 5) (a : BitVec 5) : Enc := .half (cWord 0xd#6 s a)
def word.cEnd : Enc := .half (cWord 0xf#6 0x0#5 0x0#5)
def word.brk : Enc := .half (cWord 0xf#6 0x0#5 0x1#5)
def word.nop : Enc := .half (cWord 0xf#6 0x0#5 0x2#5)
def word.yield : Enc := .half (cWord 0xf#6 0x0#5 0x3#5)
def word.cAddi (d : BitVec 5) (i : BitVec 5) : Enc := .half (cWord 0x10#6 d i)
def word.cLi (d : BitVec 5) (i : BitVec 5) : Enc := .half (cWord 0x11#6 d i)
def word.cSlli (d : BitVec 5) (n : BitVec 5) : Enc := .half (cWord 0x12#6 d n)
def word.cSrli (d : BitVec 5) (n : BitVec 5) : Enc := .half (cWord 0x13#6 d n)
def word.cSrai (d : BitVec 5) (n : BitVec 5) : Enc := .half (cWord 0x14#6 d n)
def word.cAndi (d : BitVec 5) (i : BitVec 5) : Enc := .half (cWord 0x15#6 d i)
def word.cOri (d : BitVec 5) (i : BitVec 5) : Enc := .half (cWord 0x16#6 d i)
def word.cXori (d : BitVec 5) (i : BitVec 5) : Enc := .half (cWord 0x17#6 d i)
def word.cSpadj (i : BitVec 10) : Enc := .half (cWord 0x18#6 (i.extractLsb' 5 5) (i.extractLsb' 0 5))
def word.cJ (o : BitVec 10) : Enc := .half (cWord 0x20#6 (o.extractLsb' 5 5) (o.extractLsb' 0 5))
def word.cJal (o : BitVec 10) : Enc := .half (cWord 0x21#6 (o.extractLsb' 5 5) (o.extractLsb' 0 5))
def word.cBeqz (a : BitVec 5) (o : BitVec 5) : Enc := .half (cWord 0x22#6 a o)
def word.cBnez (a : BitVec 5) (o : BitVec 5) : Enc := .half (cWord 0x23#6 a o)
def word.cSld (d : BitVec 5) (i : BitVec 5) : Enc := .half (cWord 0x24#6 d i)
def word.cSst (s : BitVec 5) (i : BitVec 5) : Enc := .half (cWord 0x25#6 s i)
def word.cPld (d : BitVec 5) (i : BitVec 5) : Enc := .half (cWord 0x26#6 d i)
def word.cPst (s : BitVec 5) (i : BitVec 5) : Enc := .half (cWord 0x27#6 s i)
def word.cSlw (d : BitVec 5) (i : BitVec 5) : Enc := .half (cWord 0x28#6 d i)
def word.cSsw (s : BitVec 5) (i : BitVec 5) : Enc := .half (cWord 0x29#6 s i)

/-- The word of an instruction, from the formats of R48 and the compact map of R57. -/
def encode (i : Instr) : Enc :=
  match i with
  | .add d a b => word.add d a b
  | .sub d a b => word.sub d a b
  | .addw d a b => word.addw d a b
  | .subw d a b => word.subw d a b
  | .and d a b => word.and d a b
  | .or d a b => word.or d a b
  | .xor d a b => word.xor d a b
  | .andn d a b => word.andn d a b
  | .orn d a b => word.orn d a b
  | .sll d a b => word.sll d a b
  | .srl d a b => word.srl d a b
  | .sra d a b => word.sra d a b
  | .rol d a b => word.rol d a b
  | .ror d a b => word.ror d a b
  | .slt d a b => word.slt d a b
  | .sltu d a b => word.sltu d a b
  | .seq d a b => word.seq d a b
  | .min d a b => word.min d a b
  | .max d a b => word.max d a b
  | .minu d a b => word.minu d a b
  | .maxu d a b => word.maxu d a b
  | .clz d a => word.clz d a
  | .ctz d a => word.ctz d a
  | .popc d a => word.popc d a
  | .brev d a => word.brev d a
  | .bswap d a => word.bswap d a
  | .sextB d a => word.sextB d a
  | .sextH d a => word.sextH d a
  | .sextW d a => word.sextW d a
  | .zextB d a => word.zextB d a
  | .zextH d a => word.zextH d a
  | .zextW d a => word.zextW d a
  | .shadd d a b n => word.shadd d a b n
  | .addi d a i => word.addi d a i
  | .andi d a i => word.andi d a i
  | .ori d a i => word.ori d a i
  | .xori d a i => word.xori d a i
  | .slli d a n => word.slli d a n
  | .srli d a n => word.srli d a n
  | .srai d a n => word.srai d a n
  | .rori d a n => word.rori d a n
  | .slti d a i => word.slti d a i
  | .sltiu d a i => word.sltiu d a i
  | .lui d i => word.lui d i
  | .addpc d i => word.addpc d i
  | .mul d a b => word.mul d a b
  | .mulh d a b => word.mulh d a b
  | .mulhu d a b => word.mulhu d a b
  | .mulhsu d a b => word.mulhsu d a b
  | .mulw d a b => word.mulw d a b
  | .div d a b => word.div d a b
  | .divu d a b => word.divu d a b
  | .rem d a b => word.rem d a b
  | .remu d a b => word.remu d a b
  | .madd d a b => word.madd d a b
  | .ldb d a i => word.ldb d a i
  | .ldbu d a i => word.ldbu d a i
  | .ldh d a i => word.ldh d a i
  | .ldhu d a i => word.ldhu d a i
  | .ldw d a i => word.ldw d a i
  | .ldwu d a i => word.ldwu d a i
  | .ldd d a i => word.ldd d a i
  | .stb s b i => word.stb s b i
  | .sth s b i => word.sth s b i
  | .stw s b i => word.stw s b i
  | .std s b i => word.std s b i
  | .beq a b o => word.beq a b o
  | .bne a b o => word.bne a b o
  | .blt a b o => word.blt a b o
  | .bge a b o => word.bge a b o
  | .bltu a b o => word.bltu a b o
  | .bgeu a b o => word.bgeu a b o
  | .bbs a b o => word.bbs a b o
  | .bbc a b o => word.bbc a b o
  | .jal d o => word.jal d o
  | .jalr d a i => word.jalr d a i
  | .loopI d i => word.loopI d i
  | .fadd d a b r f => word.fadd d a b r f
  | .fsub d a b r f => word.fsub d a b r f
  | .fmul d a b r f => word.fmul d a b r f
  | .fdiv d a b r f => word.fdiv d a b r f
  | .fsqrt d a r f => word.fsqrt d a r f
  | .fma d a b r f => word.fma d a b r f
  | .fms d a b r f => word.fms d a b r f
  | .fnma d a b r f => word.fnma d a b r f
  | .fmin d a b f => word.fmin d a b f
  | .fmax d a b f => word.fmax d a b f
  | .fcmpEq d a b f => word.fcmpEq d a b f
  | .fcmpLt d a b f => word.fcmpLt d a b f
  | .fcmpLe d a b f => word.fcmpLe d a b f
  | .fcmpUn d a b f => word.fcmpUn d a b f
  | .fclass d a f => word.fclass d a f
  | .fcvtS d a r => word.fcvtS d a r
  | .fcvtD d a => word.fcvtD d a
  | .fcvti d a k r f => word.fcvti d a k r f
  | .fcvtf d a k r f => word.fcvtf d a k r f
  | .fmvxf d a f => word.fmvxf d a f
  | .fmvfx d a f => word.fmvfx d a f
  | .fsgn d a b f => word.fsgn d a b f
  | .fsgnn d a b f => word.fsgnn d a b f
  | .fsgnx d a b f => word.fsgnx d a b f
  | .fldw d a i => word.fldw d a i
  | .fldd d a i => word.fldd d a i
  | .fstw s b i => word.fstw s b i
  | .fstd s b i => word.fstd s b i
  | .amoadd d a b o => word.amoadd d a b o
  | .amoand d a b o => word.amoand d a b o
  | .amoor d a b o => word.amoor d a b o
  | .amoxor d a b o => word.amoxor d a b o
  | .amomin d a b o => word.amomin d a b o
  | .amomax d a b o => word.amomax d a b o
  | .amominu d a b o => word.amominu d a b o
  | .amomaxu d a b o => word.amomaxu d a b o
  | .amoswap d a b o => word.amoswap d a b o
  | .cas d a b o => word.cas d a b o
  | .fence k s => word.fence k s
  | .ifence => word.ifence
  | .icinv d a b s => word.icinv d a b s
  | .dcinv d a b s => word.dcinv d a b s
  | .dcwb d a b s => word.dcwb d a b s
  | .dcfl d a b s => word.dcfl d a b s
  | .pref a => word.pref a
  | .mfs d n => word.mfs d n
  | .mts a n => word.mts a n
  | .trap a => word.trap a
  | .eretResume => word.eretResume
  | .eretPreempt => word.eretPreempt
  | .eretPark => word.eretPark
  | .eretRetake => word.eretRetake
  | .eretKill => word.eretKill
  | .eretUnpark => word.eretUnpark
  | .utret => word.utret
  | .waitI a => word.waitI a
  | .halt => word.halt
  | .migrate a => word.migrate a
  | .scanrun d a => word.scanrun d a
  | .sendI d a b => word.sendI d a b
  | .sendl a b => word.sendl a b
  | .sendlRpl a b => word.sendlRpl a b
  | .reduce a b => word.reduce a b
  | .defer a => word.defer a
  | .endAct => word.endAct
  | .rld d a => word.rld d a
  | .rst a b => word.rst a b
  | .rcas d a b => word.rcas d a b
  | .ramo d a b p => word.ramo d a b p
  | .qbind a b => word.qbind a b
  | .qput a b => word.qput a b
  | .qget d a => word.qget d a
  | .qtry d a b => word.qtry d a b
  | .qlen d a => word.qlen d a
  | .oxld d a n => word.oxld d a n
  | .oxst a b n => word.oxst a b n
  | .oxset d a => word.oxset d a
  | .oxget d a => word.oxget d a
  | .vadd d a b p s => word.vadd d a b p s
  | .vsub d a b p s => word.vsub d a b p s
  | .vmul d a b p s => word.vmul d a b p s
  | .vmulh d a b p s => word.vmulh d a b p s
  | .vmadd d a b p s => word.vmadd d a b p s
  | .vand d a b p s => word.vand d a b p s
  | .vor d a b p s => word.vor d a b p s
  | .vxor d a b p s => word.vxor d a b p s
  | .vsll d a b p s => word.vsll d a b p s
  | .vsrl d a b p s => word.vsrl d a b p s
  | .vsra d a b p s => word.vsra d a b p s
  | .vmin d a b p s => word.vmin d a b p s
  | .vmax d a b p s => word.vmax d a b p s
  | .vminu d a b p s => word.vminu d a b p s
  | .vmaxu d a b p s => word.vmaxu d a b p s
  | .vabs d a p s => word.vabs d a p s
  | .vadds d a b p s => word.vadds d a b p s
  | .vsubs d a b p s => word.vsubs d a b p s
  | .vcmp c q a b p s => word.vcmp c q a b p s
  | .vsel d a b p s => word.vsel d a b p s
  | .vdot4 d a b p => word.vdot4 d a b p
  | .vtdot4 d a b p => word.vtdot4 d a b p
  | .vpopc d a p s => word.vpopc d a p s
  | .vmv d a p s => word.vmv d a p s
  | .vfadd d a b p s => word.vfadd d a b p s
  | .vfsub d a b p s => word.vfsub d a b p s
  | .vfmul d a b p s => word.vfmul d a b p s
  | .vfma d a b p s => word.vfma d a b p s
  | .vfms d a b p s => word.vfms d a b p s
  | .vfmin d a b p s => word.vfmin d a b p s
  | .vfmax d a b p s => word.vfmax d a b p s
  | .vfdiv d a b p s => word.vfdiv d a b p s
  | .vfsqrt d a p s => word.vfsqrt d a p s
  | .vfrcp d a p s => word.vfrcp d a p s
  | .vfrsq d a p s => word.vfrsq d a p s
  | .vfcmp c q a b p s => word.vfcmp c q a b p s
  | .vld d a p s => word.vld d a p s
  | .vlds d a b p s => word.vlds d a b p s
  | .vgath d a b p s => word.vgath d a b p s
  | .vst d a p s => word.vst d a p s
  | .vsts d a b p s => word.vsts d a b p s
  | .vscat d a b p s => word.vscat d a b p s
  | .vldb d a b => word.vldb d a b
  | .vredsum d a k p s => word.vredsum d a k p s
  | .vredmin d a k p s => word.vredmin d a k p s
  | .vredmax d a k p s => word.vredmax d a k p s
  | .vscan d a k p s => word.vscan d a k p s
  | .vperm d a b p s => word.vperm d a b p s
  | .vbcast d a p s => word.vbcast d a p s
  | .vslide d a b p s => word.vslide d a b p s
  | .vins d a b s => word.vins d a b s
  | .vext d a b s => word.vext d a b s
  | .vzip d a b p s => word.vzip d a b p s
  | .vcvt d a c p s => word.vcvt d a c p s
  | .vnarrow d a h c p s => word.vnarrow d a h c p s
  | .vwiden d a h c p s => word.vwiden d a h c p s
  | .unpk3 d a b q => word.unpk3 d a b q
  | .unpk4 d a b p s => word.unpk4 d a b p s
  | .vpwl d a b p => word.vpwl d a b p
  | .vsupd d a b p => word.vsupd d a b p
  | .vprune d a q => word.vprune d a q
  | .pand d a b => word.pand d a b
  | .por d a b => word.por d a b
  | .pxor d a b => word.pxor d a b
  | .pnot d a => word.pnot d a
  | .pset d a s => word.pset d a s
  | .pcnt d a s => word.pcnt d a s
  | .pfirst d a s => word.pfirst d a s
  | .mxcfg a => word.mxcfg a
  | .mxzero d => word.mxzero d
  | .mxldb d a => word.mxldb d a
  | .mxldbs d a b => word.mxldbs d a b
  | .mxldbg d a => word.mxldbg d a
  | .mxstg d a => word.mxstg d a
  | .mxmul d a => word.mxmul d a
  | .mxrd d a => word.mxrd d a
  | .mxfence => word.mxfence
  | .forkMs d a b => word.forkMs d a b
  | .forkMi d a b => word.forkMi d a b
  | .forkCs d a b => word.forkCs d a b
  | .join d a => word.join d a
  | .sempost d a => word.sempost d a
  | .semwait d a => word.semwait d a
  | .engstat d a => word.engstat d a
  | .cpy d => word.cpy d
  | .cpym d => word.cpym d
  | .cpycan d a => word.cpycan d a
  | .cpyst d a => word.cpyst d a
  | .stcfg d => word.stcfg d
  | .stend d => word.stend d
  | .ststat d a => word.ststat d a
  | .reelinit a b => word.reelinit a b
  | .reelawait d a => word.reelawait d a
  | .reelrel a => word.reelrel a
  | .reelst d a => word.reelst d a
  | .tenq a b => word.tenq a b
  | .tdeq d a b => word.tdeq d a b
  | .futld d a => word.futld d a
  | .futst d a b => word.futst d a b
  | .launch a => word.launch a
  | .barinit d a b => word.barinit d a b
  | .bararr d a => word.bararr d a
  | .barwait d a b => word.barwait d a b
  | .dcinit a b => word.dcinit a b
  | .dcdec d a b => word.dcdec d a b
  | .dcwait a => word.dcwait a
  | .slopen d a => word.slopen d a
  | .slopenClose d a => word.slopenClose d a
  | .slwait d a b => word.slwait d a b
  | .slstat d a => word.slstat d a
  | .bump d a b => word.bump d a b
  | .rngmap d a => word.rngmap d a
  | .rngunmap d a => word.rngunmap d a
  | .rngsplit d a b => word.rngsplit d a b
  | .rngmerge d a => word.rngmerge d a
  | .rngprot d a b => word.rngprot d a b
  | .rngresAdd d a b => word.rngresAdd d a b
  | .rngresRemove d a b => word.rngresRemove d a b
  | .rnginv d a b => word.rnginv d a b
  | .rngcmp d a b => word.rngcmp d a b
  | .rngqry d a b => word.rngqry d a b
  | .lcmremRemove d a b => word.lcmremRemove d a b
  | .lcmremPlace d a b => word.lcmremPlace d a b
  | .qtmapMap d a b => word.qtmapMap d a b
  | .qtmapUnmap d a b => word.qtmapUnmap d a b
  | .qtpinPin d a b => word.qtpinPin d a b
  | .qtpinUnpin d a b => word.qtpinUnpin d a b
  | .snapinitCursor d a b => word.snapinitCursor d a b
  | .snapinitCreate d a b => word.snapinitCreate d a b
  | .snapinitDestroy d a b => word.snapinitDestroy d a b
  | .snapinitQuery d a b => word.snapinitQuery d a b
  | .snaphash d a b => word.snaphash d a b
  | .snapput d a b => word.snapput d a b
  | .snapfind d a => word.snapfind d a
  | .snapget d a b => word.snapget d a b
  | .snaprel d a b => word.snaprel d a b
  | .snaprelAll d a b => word.snaprelAll d a b
  | .monopen => word.monopen
  | .monput d a b => word.monput d a b
  | .monseal a => word.monseal a
  | .monstat d a => word.monstat d a
  | .monclose a => word.monclose a
  | .rdts d => word.rdts d
  | .rdcyc d => word.rdcyc d
  | .rdvc d a => word.rdvc d a
  | .pmcfg a b => word.pmcfg a b
  | .pmrd d a => word.pmrd d a
  | .dlyrd d a => word.dlyrd d a
  | .dbgmark a => word.dbgmark a
  | .cMv d a => word.cMv d a
  | .cAdd d a => word.cAdd d a
  | .cSub d a => word.cSub d a
  | .cAnd d a => word.cAnd d a
  | .cOr d a => word.cOr d a
  | .cXor d a => word.cXor d a
  | .cSll d a => word.cSll d a
  | .cSrl d a => word.cSrl d a
  | .cSra d a => word.cSra d a
  | .cMul d a => word.cMul d a
  | .cSlt d a => word.cSlt d a
  | .cJmpr a => word.cJmpr a
  | .cCallr a => word.cCallr a
  | .cLdx d a => word.cLdx d a
  | .cStx s a => word.cStx s a
  | .cEnd => word.cEnd
  | .brk => word.brk
  | .nop => word.nop
  | .yield => word.yield
  | .cAddi d i => word.cAddi d i
  | .cLi d i => word.cLi d i
  | .cSlli d n => word.cSlli d n
  | .cSrli d n => word.cSrli d n
  | .cSrai d n => word.cSrai d n
  | .cAndi d i => word.cAndi d i
  | .cOri d i => word.cOri d i
  | .cXori d i => word.cXori d i
  | .cSpadj i => word.cSpadj i
  | .cJ o => word.cJ o
  | .cJal o => word.cJal o
  | .cBeqz a o => word.cBeqz a o
  | .cBnez a o => word.cBnez a o
  | .cSld d i => word.cSld d i
  | .cSst s i => word.cSst s i
  | .cPld d i => word.cPld d i
  | .cPst s i => word.cPst s i
  | .cSlw d i => word.cSlw d i
  | .cSsw s i => word.cSsw s i
  | .messageInject _ => .event
  | .sendBufferGrant _ => .event
  | .messageArrival _ => .event
  | .messageReturnArrival _ => .event
  | .edgeReturn _ => .event
  | .replyArrival _ => .event
  | .handlerEntryChange _ _ => .event
  | .pendingDelivery _ _ => .event
  | .messageTake _ => .event
  | .deferReady _ _ => .event
  | .endCommit _ _ => .event
  | .watchdogExpiry _ _ => .event
  | .activeMessageWatchdog _ => .event
  | .sequencerWatchdog _ _ => .event
  | .uncorrectableError _ => .event
  | .uncorrectableTrap _ _ => .event
  | .preemptRequest _ => .event
  | .saveComplete _ _ => .event
  | .resumptionItem _ _ => .event
  | .restoreComplete _ _ => .event
  | .serviceItemStart _ => .event
  | .activeMessageStart _ => .event
  | .rldServe _ => .event
  | .rstServe _ => .event
  | .rcasServe _ => .event
  | .ramoServe _ => .event
  | .migrateArrival _ => .event
  | .waitTimeReached _ => .event
  | .dcwaitRelease _ => .event
  | .barwaitRelease _ => .event
  | .slwaitRelease _ => .event
  | .reelawaitFill _ => .event
  | .qgetWake _ => .event
  | .qputRoom _ => .event
  | .joinWake _ => .event
  | .semwaitGrant _ => .event
  | .flagToSflags _ => .event
  | .checkerMismatch _ => .event
  | .knownAnswerMismatch _ _ => .event
  | .scanComplete _ _ => .event
  | .scanAbort _ => .event
  | .launchAccept _ => .event
  | .taskEnqueue _ => .event
  | .launchWindowWrite _ _ _ => .event
  | .cpDispatch _ => .event
  | .launchReady _ _ _ => .event
  | .blockedPacketRemoval _ _ _ => .event
  | .threadReport _ _ => .event
  | .stageDispatch _ _ => .event
  | .deadlineMiss _ _ => .event
  | .gafferSample _ => .event
  | .gafferDecision _ => .event
  | .sequencerProgramStart _ _ => .event
  | .engineEntryStart _ => .event
  | .engineEntryComplete _ => .event
  | .weightLoadStart _ => .event
  | .weightLoadComplete _ => .event
  | .weightLoadFault _ => .event
  | .weightLoadSuspend _ => .event
  | .copyStart _ => .event
  | .copySuspend _ => .event
  | .copyComplete _ => .event
  | .copyFault _ => .event
  | .streamReadahead _ _ _ => .event
  | .streamPushWrite _ _ _ => .event
  | .montageRowArrival _ _ => .event
  | .binTimeout _ _ => .event
  | .sealComplete _ _ => .event
  | .ingressEvent _ _ => .event
  | .ingressWatermark _ _ => .event
  | .slateTimeout _ _ => .event
  | .reduceCombine _ _ _ => .event
  | .reduceResult _ _ => .event
  | .residencySpill _ _ => .event
  | .residencyFill _ _ _ => .event
  | .residencyCopyComplete _ _ => .event
  | .rangeWalkComplete _ _ => .event
  | .rnginvComplete _ => .event
  | .lcmremComplete _ => .event
  | .compactionSwitch _ => .event
  | .compactionComplete _ => .event
  | .epochChange _ => .event
  | .clockMessage _ => .event
  | .coreAtRest _ => .event
  | .debugStopRequest _ _ => .event
  | .debugCodeWrite _ _ _ => .event
  | .hgcGo _ _ => .event
  | .cpbrkWrite _ _ => .event
  | .claim _ => .event
  | .offer _ _ => .event
  | .accept _ => .event
  | .release _ => .event
  | .offerTimeout => .event
  | .domainWrite _ => .event
  | .tbslewWrite _ => .event
  | .tbstepWrite _ => .event
  | .msixTrigger _ _ _ => .event
  | .coreReset _ _ => .event
  | .setReset _ _ => .event
  | .queueResetComplete _ _ => .event
  | .scanctlStart _ _ _ => .event
  | .traceOpen _ _ _ => .event
  | .traceClose _ => .event
  | .ingressRouteWrite _ _ _ _ => .event
  | .reductionTreeWrite _ _ _ _ _ => .event
  | .ulmLoadWindowWrite _ _ _ _ => .event
  | .mmioRegisterWrite _ _ _ _ => .event
  | .grantResource _ _ => .event
  | .withdrawResource _ _ => .event
  | .lockInterface _ => .event
  | .startInterface _ => .event
  | .stopInterface _ => .event
  | .partitionError _ => .event
  | .attClear _ => .event
  | .spdmRequest => .event
  | .deviceReset _ _ _ _ => .event
  | .apertureAccess _ _ _ _ _ => .event
  | .eventPageWrite _ _ _ _ => .event
  | .csi2EventPacket _ _ _ => .event
  | .csi2FrameStart _ _ => .event
  | .csi2FrameLine _ _ _ _ => .event
  | .csi2FrameEnd _ _ => .event
  | .bridgeRetrain => .event
  | .bridgeRetrainComplete _ => .event
  | .managementRead _ => .event
  | .illegalInstruction _ _ => .event
  | .correctedError _ => .event
  | .powerOn => .event
  | .copyLineRelease _ => .event
  | .compactionChunkCopy _ => .event
  | .migrateForwardExpiry _ => .event
  | .csi2PacketDrop _ => .event
  | .ingressTypeError _ _ => .event
  | .mctpControlMessage => .event

/-- Decoding of one 32-bit word: the row its major and function code name, accepted only when every other field holds what
the row allows, that is when the row's own word is this word (R59). -/
noncomputable def decode32 (w : BitVec 32) : Option Instr :=
  match candidate32 w with
  | some i => if i.wellFormed && encode i == .full w then some i else none
  | none => none

/-- Decoding of one halfword (R57, R58, R59). -/
noncomputable def decode16 (h : BitVec 16) : Option Instr :=
  match candidate16 h with
  | some i => if i.wellFormed && encode i == .half h then some i else none
  | none => none

/-- Bits [15:14] of the first halfword are 0b11: the instruction is 32 bits long (R45). -/
def isLong (h : BitVec 16) : Bool := h.extractLsb' 14 2 == 3#2

/-- A little-endian halfword from its two bytes (R2). -/
def halfOfBytes (b0 b1 : BitVec 8) : BitVec 16 := b1 ++ b0

/-- Decoding of a byte stream (R45): the first halfword gives the length and, in a long instruction, the upper half. -/
noncomputable def decode (bs : List (BitVec 8)) : Except DecodeError (Instr × List (BitVec 8)) :=
  match bs with
  | b0 :: b1 :: rest =>
    let h := halfOfBytes b0 b1
    if isLong h then
      match rest with
      | b2 :: b3 :: rest' =>
        match decode32 (h ++ halfOfBytes b2 b3) with
        | some i => .ok (i, rest')
        | none => .error .unassigned
      | _ => .error .tooShort
    else
      match decode16 h with
      | some i => .ok (i, rest)
      | none => .error .unassigned
  | _ => .error .tooShort

/-- The bytes of a 32-bit word as the hardware stores them: the halfword with bits [31:16] first (R45). -/
def bytesOfWord (w : BitVec 32) : List (BitVec 8) :=
  [w.extractLsb' 16 8, w.extractLsb' 24 8, w.extractLsb' 0 8, w.extractLsb' 8 8]

def bytesOfHalf (h : BitVec 16) : List (BitVec 8) := [h.extractLsb' 0 8, h.extractLsb' 8 8]

/-- The bytes of an instruction, none for a machine event. -/
def Enc.bytes (e : Enc) : List (BitVec 8) :=
  match e with
  | .full w => bytesOfWord w
  | .half h => bytesOfHalf h
  | .event => []

/-- The instruction word as R59 and R388 put it into TVAL: the 32-bit word, or the halfword zero-extended. -/
def Enc.word (e : Enc) : BitVec 64 :=
  match e with
  | .full w => w.setWidth 64
  | .half h => h.setWidth 64
  | .event => 0

/-- Length in bytes (R112). -/
def Enc.len (e : Enc) : Nat :=
  match e with
  | .full _ => 4
  | .half _ => 2
  | .event => 0

/-- The bytes of the instruction whose bits the opcode table numbers as `w`: a 32-bit row is numbered as the instruction
word of R45, a 16-bit row as its halfword. -/
def tableBytes (nbits w : Nat) : List (BitVec 8) :=
  if nbits = 32 then bytesOfWord (BitVec.ofNat 32 w)
  else if nbits = 16 then bytesOfHalf (BitVec.ofNat 16 w)
  else []

/-- The instruction this decoder reads from a word numbered as the opcode table numbers it. -/
noncomputable def decodeTableWord (nbits w : Nat) : Option Instr :=
  match decode (tableBytes nbits w) with
  | .ok (i, []) => some i
  | _ => none


/-- Rows of the table that share one word (the operand decides between them when the instruction runs) have one
decoded form: the first row of the word. -/
noncomputable def Instr.canon (i : Instr) : Instr :=
  match i with
  | .eretPreempt => .eretResume
  | .eretPark => .eretResume
  | .eretRetake => .eretResume
  | .eretKill => .eretResume
  | .eretUnpark => .eretResume
  | .sendlRpl a b => .sendl a b
  | .slopenClose d a => .slopen d a
  | .rngresRemove d a b => .rngresAdd d a b
  | .lcmremPlace d a b => .lcmremRemove d a b
  | .qtmapUnmap d a b => .qtmapMap d a b
  | .qtpinUnpin d a b => .qtpinPin d a b
  | .snapinitCreate d a b => .snapinitCursor d a b
  | .snapinitDestroy d a b => .snapinitCursor d a b
  | .snapinitQuery d a b => .snapinitCursor d a b
  | .snaprelAll d a b => .snaprel d a b
  | i => i

end Sys2Proof
end

