-- ==== Sys2Proof/Machine/Bits.lean ====
section
/-! DEFINITION. Bit fields, bytes and sign extension: the plain helpers of R2 that every meaning uses. -/

namespace Sys2Proof.Machine

/-- Bit `i` of a word. -/
def bitAt {n : Nat} (w : BitVec n) (i : Nat) : Bool := w.getLsbD i

/-- Bits [lo + width − 1 : lo] of `w`. -/
def field {n : Nat} (w : BitVec n) (lo width : Nat) : Nat := (w.extractLsb' lo width).toNat

/-- `w` with bits [lo + width − 1 : lo] replaced by the low bits of `v`. -/
def setField {n : Nat} (w : BitVec n) (lo width v : Nat) : BitVec n :=
  (w &&& ~~~(BitVec.ofNat n ((2 ^ width - 1) * 2 ^ lo))) ||| BitVec.ofNat n ((v % 2 ^ width) * 2 ^ lo)

/-- 1 for true. -/
def b2n (b : Bool) : Nat := if b then 1 else 0

/-- 1 for true, as a word. -/
def b2w (b : Bool) : Word := if b then 1 else 0

/-- sext to 64 bits (R112). -/
def sext64 {n : Nat} (v : BitVec n) : Word := v.signExtend 64

/-- zext to 64 bits (R112). -/
def zext64 {n : Nat} (v : BitVec n) : Word := v.setWidth 64

/-- The word of a number, modulo 2⁶⁴. -/
def ofN (n : Nat) : Word := BitVec.ofNat 64 n

/-- The word of an integer, modulo 2⁶⁴: Wrap(v, INT64). -/
def ofI (i : Int) : Word := BitVec.ofInt 64 i

/-- The number of a list of bytes, least significant first (R2). -/
def leNat : List Byte → Nat
  | [] => 0
  | b :: t => b.toNat + 256 * leNat t

/-- The `n` low bytes of a number, least significant first (R2). -/
def leBytes : Nat → Nat → List Byte
  | 0, _ => []
  | n + 1, v => BitVec.ofNat 8 v :: leBytes n (v / 256)

/-- The 8 bytes of a word. -/
def wordBytes (w : Word) : List Byte := leBytes 8 w.toNat

/-- The word of (at most) 8 bytes. -/
def bytesWord (l : List Byte) : Word := ofN (leNat l)

/-- Cuts a list into pieces of `n`, at most `k` of them. -/
def chunks {α : Type} (n : Nat) : Nat → List α → List (List α)
  | 0, _ => []
  | _ + 1, [] => []
  | k + 1, a :: t => (a :: t).take n :: chunks n k ((a :: t).drop n)

/-- The words of a list of bytes. -/
def bytesWords (l : List Byte) : List Word := (chunks 8 l.length l).map bytesWord

/-- The bytes of a list of words. -/
def wordsBytes (l : List Word) : List Byte := l.flatMap wordBytes

/-- `l` with its first `n` places, zero beyond its end. -/
def padTo (n : Nat) (l : List Byte) : List Byte := (l ++ List.replicate (n - l.length) 0).take n

/-- Entry `i` of a list of words, 0 beyond its end. -/
def wordAt (l : List Word) (i : Nat) : Word := (l[i]?).getD 0

/-- `a` rounded down to a multiple of `n`. -/
def alignDown (n a : Nat) : Nat := a / n * n

/-- `a` rounded up to a multiple of `n`. -/
def alignUp (n a : Nat) : Nat := (a + n - 1) / n * n

/-- The intervals [a, a + n) and [b, b + m) meet. -/
def overlaps (a n b m : Nat) : Bool := decide (a < b + m) && decide (b < a + n)

/-- The number of set bits of a number below 2^n. -/
def popNat : Nat → Nat → Nat
  | 0, _ => 0
  | n + 1, v => v % 2 + popNat n (v / 2)

/-- The position of the lowest set bit below `n`, or none. -/
def lowBit (n v : Nat) : Option Nat := (List.range n).find? fun i => v.testBit i

/-- The least element of a list of numbers. -/
def minOf : List Nat → Option Nat
  | [] => none
  | a :: t => some (t.foldl min a)

/-- floor(log₂ v), 0 for 0. -/
def ilog2 (v : Nat) : Nat := Nat.log2 v

end Sys2Proof.Machine
end

