-- ==== Sys2Proof/Config.lean ====
section
/-! DEFINITION. What the part fixes, and the free values: constants without a body, so that no proof can rest on what
they are. Each is applied to a plain counter of State (or to operands), as its log entry says. -/

namespace Sys2Proof.Config

/-- The random source that draws the key of a key id at START_INTERFACE (R414), by counter and key id: both halves of an
AES-256-XTS key. Free value, DESIGN CHOICE, log entry 4. -/
opaque freeKey : Nat → Nat → BitVec 512
/-- A byte read from the host window (R202, R430), by counter and host address: the host's memory is no part of the device.
Free value, DESIGN CHOICE, log entry 5. -/
opaque freeHostByte : Nat → Nat → BitVec 8
/-- A word that the spec leaves open where the machine goes on, by counter and place. Free value, DESIGN CHOICE, log entry 6. -/
opaque freeWord : Nat → Nat → BitVec 64

/-- What UNPK4 writes to lane `i` below 32 where it is not active, of a valid block, as a fixed function of its operands V[a], X[b],
the predicate and the size code (R89, R140, R159). Free value, DEDUCED, log entry 17. -/
opaque unpk4Inactive : BitVec 1024 → BitVec 64 → BitVec 128 → Nat → Nat → BitVec 64
/-- The number of the thread that a SERVICE message with this payload names: one from 6 on where it names none (R394 gives no
layout). Free value, DESIGN CHOICE, log entry 66. -/
opaque serviceThread : List (BitVec 64) → Nat

/-- Entry `i` of the clock of a fence point that lies on another device, by counter (R432, R433). Free value, DESIGN CHOICE, log entry 70. -/
opaque peerClock : Nat → Nat → BitVec 32
/-- The time that a PTM dialogue of boot step 13 gives, by counter (R379, R421). Free value, DESIGN CHOICE, log entry 47. -/
opaque ptmTime : Nat → BitVec 64
/-- Version of the boot ROM, certificate chain of the SPDM identity, and its HSS signature over evidence (R425). Free values, DESIGN
CHOICE, log entry 98. -/
opaque romVersion : BitVec 64
opaque certChain : List (BitVec 8)
opaque hssSign : List (BitVec 8) → List (BitVec 8)

/-- Sizes of the device (R11). -/
abbrev nCores : Nat := 128
abbrev nSets : Nat := 16
abbrev nDies : Nat := 2
abbrev nParts : Nat := 8

/-- Core of `die`, `set`, `core` as one index 64·die + 8·Set + core (R342). -/
abbrev coreIndex (die set core : Nat) : Nat := 64 * die + 8 * set + core
/-- The die of a core index. -/
abbrev dieOfCore (c : Nat) : Nat := c / 64
/-- The Set, counted over both dies, of a core index. -/
abbrev setOfCore (c : Nat) : Nat := c / 8
/-- The die of a Set index. -/
abbrev dieOfSet (s : Nat) : Nat := s / 8

end Sys2Proof.Config
end

