-- ==== Sys2Proof/Machine/Tbl.lean ====
section
/-! DEFINITION. Tables: sparse data by number, held as a list of pairs in one canonical form (keys strictly rising, no
entry equal to the default). Every register file, memory and unit table of State is one of these, so that equal machines
are equal data. -/

namespace Sys2Proof.Machine

/-- The entry at `n`, or the default `d` when none is listed. -/
def Tbl.get {α : Type} (d : α) : List (Nat × α) → Nat → α
  | [], _ => d
  | (k, v) :: t, n => if k = n then v else Tbl.get d t n

/-- Removes the entries at `n`. -/
def Tbl.del {α : Type} : List (Nat × α) → Nat → List (Nat × α)
  | [], _ => []
  | (k, v) :: t, n => if k = n then Tbl.del t n else (k, v) :: Tbl.del t n

/-- Places an entry before the first greater key. -/
def Tbl.ins {α : Type} : List (Nat × α) → Nat → α → List (Nat × α)
  | [], n, v => [(n, v)]
  | (k, w) :: t, n, v => if n < k then (n, v) :: (k, w) :: t else (k, w) :: Tbl.ins t n v

/-- Writes the entry at `n`; writing the default removes it. -/
def Tbl.put {α : Type} [DecidableEq α] (d : α) (t : List (Nat × α)) (n : Nat) (v : α) : List (Nat × α) :=
  if v = d then Tbl.del t n else Tbl.ins (Tbl.del t n) n v

/-- Changes the entry at `n`. -/
def Tbl.modify {α : Type} [DecidableEq α] (d : α) (t : List (Nat × α)) (n : Nat) (f : α → α) : List (Nat × α) :=
  Tbl.put d t n (f (Tbl.get d t n))

/-- Every key of `t` is above `n`. -/
def Tbl.above {α : Type} (n : Nat) : List (Nat × α) → Bool
  | [] => true
  | (k, _) :: t => decide (n < k) && Tbl.above n t

/-- The canonical form. -/
def Tbl.wf {α : Type} [DecidableEq α] (d : α) : List (Nat × α) → Bool
  | [] => true
  | (k, v) :: t => decide (v ≠ d) && Tbl.above k t && Tbl.wf d t

end Sys2Proof.Machine
end

