-- ==== Sys2Proof/Machine/State.lean ====
section
/-! DEFINITION. The state of the whole device as plain data: threads and sequencers, cores, Sets, dies, partitions and the
device itself, with the queues and events in flight between them. Units stand in tables keyed by number, whose default is
the unit's reset state. -/

namespace Sys2Proof.Machine

/-! ### Agents -/

/-- Who issues: hardware thread `tid` (0 to 7) of physical core `core` (0 to 127), or sequencer `q` (0 MS, 1 MI, 2 copy
sequencer) of Set `set` (0 to 15, eight to a die) (R17, R18, R34). -/
inductive Agent where
  | thr (core tid : Nat)
  | seq (set q : Nat)
  deriving DecidableEq, Repr, Inhabited

/-- The table key of an agent: 8·core + tid for a thread, 1024 + 3·set + q for a sequencer. -/
def Agent.key : Agent → Nat
  | .thr c t => 8 * c + t
  | .seq s q => 1024 + 3 * s + q

/-- The agent of a table key. -/
def Agent.ofKey (k : Nat) : Agent :=
  if k < 1024 then .thr (k / 8) (k % 8) else .seq ((k - 1024) / 3) ((k - 1024) % 3)

/-- A vector clock: the value of each die's entry (R231). -/
abbrev Clock := List (Nat × BitVec 32)

/-! ### Messages -/

/-- A message (R270): its two header words, payload and, kept by the network, the units it goes from and to. Units: a core
0 to 127, a Set node 128 + set, the CP and queue manager of a die 144 + die, its ingress unit 146 + die, its reduction
root 148 + die. -/
structure Msg where
  hdr0 : Word := 0
  hdr1 : Word := 0
  payload : List Word := []
  src : Nat := 0
  dst : Nat := 0
  /-- partition of the sender, judged by windows (R210) -/
  part : Nat := 0
  /-- it stands in the destination's input buffer (R268) -/
  received : Bool := false
  /-- its number in the order of arrival at its core (R33, R343), and whether the core's windows refused it when its head flit
  reached the NI (R88, R210) -/
  arrNo : Nat := 0
  refused : Bool := false
  /-- partition of its space for queue handles, and whether a host wrote it (R304, R310) -/
  host : Bool := false
  /-- it came through the loop-back port, and carries the mark LAST (R274, R278) -/
  loop : Bool := false
  last : Bool := false
  /-- the message was poisoned by an uncorrectable error (R269) -/
  poisoned : Bool := false
  /-- the vector clock it carries (R231) -/
  clock : Clock := []
  /-- the instant at which it was placed at its destination (R384) -/
  arrival : Word := 0
  /-- of a LAUNCH message: its arrival order at its stage queue, for a packet that goes back (R280, R317) -/
  qorder : Nat := 0
  deriving DecidableEq, Repr, Inhabited

/-- A row that MONPUT sends to the Montage unit (R298). -/
structure RowXfer where
  core : Nat := 0
  tid : Nat := 0
  bin : Nat := 0
  data : List Byte := []
  tag : Word := 0
  /-- operation tag of the status reply -/
  op : BitVec 16 := 0
  gen : BitVec 13 := 0
  deriving DecidableEq, Repr, Inhabited

/-! ### Threads -/

/-- States of a thread (R19). -/
inductive TState where
  | free | run | wait | saved | stopped | off
  deriving DecidableEq, Repr, Inhabited

/-- What a blocked thread waits for. -/
inductive WaitKind where
  /-- WAIT until a time; `anyItem` when T7 also wakes on a service item, `noTime` for WAIT x0 on T7 (R133) -/
  | time (upTo : Word) (anyItem noTime : Bool)
  | dc (die idx : Nat) (word : Word)
  | bar (die idx : Nat) (phase : BitVec 16) (word : Word)
  | slate (die idx : Nat) (gen : BitVec 16) (word : Word)
  | reel (hdr : Nat)
  | qget (unit q : Nat)
  | qput (unit q : Nat) (v : Word)
  | join (set q seq : Nat)
  | sem (set sem n : Nat)
  /-- a send waits for a send-buffer entry (R274, R275) -/
  | send
  /-- held by a trap until its service item ends (R390) -/
  | trapHeld
  /-- END or DEFER has issued and its commit is to complete (R27); DEFER carries its ready time (R276) -/
  | ending (deferTo : Option Word)
  /-- the save engine writes the context (R396); `parked` as the disposition said -/
  | saving (parked : Bool)
  /-- a resident thread waits for its next message (R31) -/
  | resident
  /-- the entry's persistent region is not RESIDENT yet; a migrated context's watchdog counts this wait, another's starts at its
  end (R135, R214) -/
  | residency (preg : Nat) (moved : Bool)
  /-- RNGINV waits for its users (R332) -/
  | rnginv (lo hi : Nat) (all : Bool)
  /-- LCMREM waits for every router, NI and dispatcher (R343) -/
  | lcmrem
  /-- SCANRUN waits for its scan (R136) -/
  | scan
  /-- in RUN, the last instruction of a loop's body waits for the reply that writes the loop's register, before the count of R124 -/
  | reply
  deriving DecidableEq, Repr, Inhabited

/-- A blocked instruction: what it waits for, where its result goes, its length, and whether its release has been made. -/
structure Wait where
  kind : WaitKind
  rd : BitVec 5 := 0
  len : Nat := 4
  released : Bool := false
  /-- what it waits for has been poisoned: it ends in DEPFAULT whatever comes after (R258, R370, R374) -/
  doomed : Bool := false
  /-- the clock that its release carries (R229, R231) -/
  clock : Clock := []
  deriving DecidableEq, Repr, Inhabited

/-- An entry of a thread's journal (R25): a journaled store, a held message, or a held DCDEC or BARARR. A store keeps its
location, key id and virtual address, and for each byte the value or "not written"; `clean` names the 32-byte sectors that its instruction, of which it may be one part, covers whole
(R215), and `unc` says that its range is uncacheable (R202). -/
inductive JEntry where
  | store (loc key : Nat) (va : Word) (bytes : List (Option Byte)) (cost : Nat) (clean : List Nat) (unc : Bool)
  | msg (m : Msg)
  | dcdec (die idx : Nat) (amount : Word)
  | bararr (die idx : Nat)
  deriving DecidableEq, Repr, Inhabited

/-- An operation whose result register waits for a reply (R250, R298). -/
structure Outst where
  tag : BitVec 16 := 0
  rd : BitVec 5 := 0
  addr : Word := 0
  gen : BitVec 13 := 0
  deriving DecidableEq, Repr, Inhabited

/-- A trap that is taken at the next instruction boundary (R255, R279, R388, R395). -/
structure PendTrap where
  code : BitVec 8 := 0
  sub : BitVec 8 := 0
  tval : Word := 0
  /-- TCAUSE.IMP of the trap (R83, R388) -/
  imp : Bool := true
  deriving DecidableEq, Repr, Inhabited

/-- A strip of a read-bound stream that has been read ahead (R264): the position of its first element, its bytes, and a
recorded fault with its address. -/
structure Strip where
  pos : Nat := 0
  data : List Byte := []
  fault : Option (BitVec 8 × Word) := none
  deriving DecidableEq, Repr, Inhabited

/-- A byte group that a push has still to write (R264): the thread and slot it comes from, its number among the core's writes, and
the clock that its value carries (R231). -/
structure PushWrite where
  tid : Nat := 0
  slot : Nat := 0
  no : Nat := 0
  loc : Nat := 0
  key : Nat := 0
  bytes : List Byte := []
  /-- its range is uncacheable (R202) -/
  unc : Bool := false
  clock : Clock := []
  deriving DecidableEq, Repr, Inhabited

/-- A stream slot (R262 to R265). -/
structure Stream where
  bound : Bool := false
  write : Bool := false
  es : Nat := 0
  vfile : Bool := false
  reg : Nat := 0
  base : Word := 0
  strides : List Word := []
  counts : List Nat := []
  pos : Nat := 0
  ahead : List Strip := []
  deriving DecidableEq, Repr, Inhabited

/-- A context hosted by a thread while it is saved (R396 to R398). The registers stand in the save area in memory; the
journal image is kept here, in the device's own layout. -/
structure Hosted where
  parked : Bool := false
  gen : BitVec 13 := 0
  journal : List JEntry := []
  outst : List Outst := []
  actid : Word := 0
  actst : Word := 0
  hid : Nat := 0
  rcb : Word := 0
  preg : Nat := 0
  pregDecl : Bool := false
  slot : Option Nat := none
  slotAt : Option Nat := none
  cctr : Option Nat := none
  launch : Bool := false
  ctxBuf : List Msg := []
  saveMsgs : List Msg := []
  overflowed : Bool := false
  taken : Word := 0
  arrival : Word := 0
  idle : Word := 0
  pend : List PendTrap := []
  jbad : Bool := false
  savedAt : Word := 0
  entryAddr : Word := 0
  missCounted : Bool := false
  lastCopy : Word := 0
  msghdr : BitVec 128 := 0
  deriving DecidableEq, Repr, Inhabited

/-- The registers a resident program keeps from one activation to the next: those of its last commit (R31, R84). -/
structure RegImage where
  hid : Nat := 0
  x : List (Nat × Word) := []
  f : List (Nat × Word) := []
  v : List (Nat × VReg) := []
  p : List (Nat × PReg) := []
  ox : List (Nat × Word) := []
  fcsr : Word := 0
  vcsr : Word := 0
  tcause : Word := 0
  tval : Word := 0
  epc : Word := 0
  utvec : Word := 0
  utepc : Word := 0
  deriving DecidableEq, Repr, Inhabited

/-- A hardware thread or sequencer: the registers of R76 and R165, and what the core keeps about its activation. -/
structure Thread where
  pc : Word := 0
  x : List (Nat × Word) := []
  f : List (Nat × Word) := []
  v : List (Nat × VReg) := []
  p : List (Nat × PReg) := []
  ox : List (Nat × Word) := []
  ss : List (Nat × Stream) := []
  fcsr : Word := 0
  vcsr : Word := 0
  tcause : Word := 0
  tval : Word := 0
  epc : Word := 0
  utvec : Word := 0
  utepc : Word := 0
  actid : Word := 0
  actst : Word := 0
  msghdr : BitVec 128 := 0
  loopStart : Word := 0
  loopLast : Word := 0
  loopReg : BitVec 5 := 0
  loopActive : Bool := false
  st : TState := .free
  /-- the state before a stop (R19, R404) -/
  held : TState := .free
  wait : Option Wait := none
  journal : List JEntry := []
  gen : BitVec 13 := 0
  /-- handler id, priority, deadline (0 for none), persistent region and owning region of the activation -/
  hid : Nat := 0
  prio : Nat := 0
  deadline : Word := 0
  preg : Nat := 0
  pregDecl : Bool := false
  rcb : Word := 0
  entryAddr : Word := 0
  /-- started by a LAUNCH message: its completion counter and the stage's region (R311, R41) -/
  launch : Bool := false
  cctr : Option Nat := none
  missCounted : Bool := false
  resident : Bool := false
  image : Option RegImage := none
  /-- an uncorrectable error stands in the journal (R27) -/
  jbad : Bool := false
  /-- inbox slot of the triggering message, and the core whose inbox it is where the activation has moved away (R38, R268; DEDUCED, log
  entry 89) -/
  slot : Option Nat := none
  slotAt : Option Nat := none
  arrival : Word := 0
  taken : Word := 0
  /-- time SAVED and STOPPED since it was taken (R384), and when its present stop began -/
  idle : Word := 0
  stopAt : Word := 0
  /-- watchdog time left in ns (R29) -/
  wdLeft : Nat := 0
  wdFired : Bool := false
  outst : List Outst := []
  pendTrap : List PendTrap := []
  /-- a returned message waits in the return cell until UTRET or ERET (R279) -/
  cellBusy : Bool := false
  hosted : Option Hosted := none
  /-- KIND 4 item raised for this thread, not yet ended (R398) -/
  resuming : Bool := false
  /-- that item has ended and the restore is under way (R398) -/
  restoring : Bool := false
  /-- disposition of a pre-emption item that waits for the boundary of a thread held by a trap, 0 for none (R395), and 8 times
  the item's SUB -/
  landing : Nat := 0
  /-- fetch buffer: address of its first byte and its 32 bytes (R199, R211), and its stale mark (R212) -/
  fbuf : Option (Nat × List Byte) := none
  /-- the location that the block was filled from, by which ICINV finds it (R212, R244) -/
  fbufLoc : Nat := 0
  fbufStale : Bool := false
  /-- serial number of the activation's entry or last IFENCE, against which stale lines are judged (R212) -/
  fetchEpoch : Nat := 0
  /-- tag of the thread's last operation with a reply (DEDUCED, log entry 8) -/
  opTag : BitVec 16 := 0
  /-- YIELD was its last instruction (R58) -/
  yielded : Bool := false
  /-- its instruction has been waiting on the scoreboard since its last issue (R209, R382) -/
  sbWait : Bool := false
  /-- the clocks carried by the values it has read, and its die's clock at its last release (R226, R231, R232) -/
  seen : Clock := []
  rel : Clock := []
  /-- handle of the agent's last CPY or CPYM, 0 for none (R253) -/
  lastCopy : Word := 0
  deriving DecidableEq, Repr, Inhabited

/-! ### Copies and the range scoreboard -/

/-- A piece of a copy inside one range or one local memory: where it starts in the copy, its location, length, key id,
and for a range the virtual address. -/
structure Seg where
  off : Nat := 0
  loc : Nat := 0
  len : Nat := 0
  key : Nat := 0
  va : Word := 0
  rid : Option Nat := none
  /-- the range is uncacheable (R202) -/
  unc : Bool := false
  deriving DecidableEq, Repr, Inhabited

/-- State of a copy (R260). -/
inductive CState where
  | inFlight | done | cancelled | fault | suspended
  deriving DecidableEq, Repr, Inhabited

/-- What a copy serves besides its own bytes. -/
inductive CopyRole where
  | plain
  /-- the deposit of SNAPPUT (R354): partition, tree and node -/
  | deposit (part tree node : Nat)
  /-- a restore by SNAPGET that waits for PEND of its node (R357) -/
  | restore (part tree node : Nat)
  /-- a spill or fill of the residency engine (R214) -/
  | residency (core preg : Nat) (fill : Bool)
  deriving DecidableEq, Repr, Inhabited

/-- A copy (R251 to R260). -/
structure Copy where
  handle : Word := 0
  issuer : Agent := .thr 0 0
  part : Nat := 0
  secure : Bool := false
  len : Nat := 0
  src : List Seg := []
  dst : List (List Seg) := []
  ck : Nat := 0
  slot : Nat := 0
  idx : Nat := 0
  /-- location of the reel header for CK = 3 -/
  hdrLoc : Nat := 0
  ord : Bool := false
  started : Bool := false
  state : CState := .inFlight
  cause : BitVec 8 := 0
  prog : Nat := 0
  /-- the previous copy of its issuer, for ORD -/
  after : Word := 0
  role : CopyRole := .plain
  deriving DecidableEq, Repr, Inhabited

/-- A copy engine (R251): the sequence number, copies in flight in issue order and the 256 last ended copies. -/
structure CopyEngine where
  seqNo : BitVec 48 := 0
  live : List Copy := []
  ended : List (Word × Word) := []
  deriving DecidableEq, Repr, Inhabited

/-- What owns a scoreboard entry (R209). -/
inductive SbOwner where
  | copy (h : Word)
  | mxrd (set n : Nat)
  | push (core n : Nat)
  deriving DecidableEq, Repr, Inhabited

/-- A scoreboard entry: an interval of ULM in 32-byte sectors, its kind and owner. -/
structure SbEntry where
  lo : Nat := 0
  hi : Nat := 0
  write : Bool := false
  owner : SbOwner := .copy 0
  deriving DecidableEq, Repr, Inhabited

/-! ### Cores -/

/-- A queue register (R287): entries with their poison, binding. -/
structure QReg where
  bound : Bool := false
  producer : Nat := 0
  consumer : Nat := 0
  entries : List (Word × Bool) := []
  deriving DecidableEq, Repr, Inhabited

/-- A message in an inbox slot (R35, R278). -/
structure InMsg where
  slot : Nat := 0
  msg : Msg := {}
  /-- arrival order, rank key of R35 -/
  order : Nat := 0
  arrival : Word := 0
  /-- DEFER: not ready before this time (R276) -/
  notBefore : Option Word := none
  /-- taken by a thread and not yet retired -/
  taken : Bool := false
  /-- retake: goes first, keeps ACTID and count (R28) -/
  retake : Option (Word × Nat) := none
  readySince : Word := 0
  missCounted : Bool := false
  replayed : Bool := false
  deriving DecidableEq, Repr, Inhabited

/-- What a service item refers to beside a thread. -/
inductive ItemRef where
  | nothing
  | copy (h : Word)
  | load (set : Nat)
  deriving DecidableEq, Repr, Inhabited

/-- A service item of T7 (R391): its word, its slot of the handler-table block and what it serves. -/
structure Item where
  word : Word := 0
  slot : Nat := 0
  kind : Nat := 0
  thr : Option Nat := none
  overflow : Bool := false
  /-- ACTID of the served activation -/
  act : Word := 0
  ref : ItemRef := .nothing
  /-- the record that its slot is to take (R391) -/
  record : List Word := []
  /-- an uncorrectable error has struck its entry of the service queue (R269) -/
  bad : Bool := false
  deriving DecidableEq, Repr, Inhabited

/-- What a sector of the I-cache holds: its bytes, the serial of its fill, and the serial at which the memory it was filled from
changed, if it has (R47, R212). -/
structure ICVer where
  data : List Byte := []
  fill : Nat := 0
  changed : Option Nat := none
  deriving DecidableEq, Repr, Inhabited

/-- A 32-byte sector of a line of the I-cache (R201): its bytes, the serial at which it became stale, and the versions that still
serve threads whose activation began before they became stale, oldest first (R212). -/
structure ICLine where
  ver : ICVer := {}
  staleAt : Option Nat := none
  old : List (Nat × ICVer) := []
  deriving DecidableEq, Repr, Inhabited

/-- A 32-byte sector of a line in an L1, an L2 or an RDC (R201, R205). In an L1, of a line homed on the core's own die: `data` is,
while the sector is dirty, what the home holds beneath it. Of a line homed on the other die, in an L1 or in the RDC: `data` is the
copy's bytes, with its stamp and the clocks that its values carry, by 8-byte unit (R231). -/
structure CSec where
  valid : Bool := false
  dirty : Bool := false
  data : List Byte := []
  stamp : BitVec 32 := 0
  clocks : List (Nat × Clock) := []
  deriving DecidableEq, Repr, Inhabited

/-- A range descriptor with its residency list (R322, R323). -/
structure Range where
  vbase : Nat := 0
  size : Nat := 0
  gen : BitVec 16 := 0
  perm : BitVec 3 := 0
  world : Bool := false
  owner : Nat := 0
  home : Nat := 0
  uncached : Bool := false
  key : Nat := 0
  pbase : Nat := 0
  partialRes : Bool := false
  ints : List (Nat × Nat) := []
  poisoned : Bool := false
  moving : Bool := false
  deriving DecidableEq, Repr, Inhabited

/-- A node of a Range Table's index (R324): keys in ascending order, and children: node numbers in an interior node, descriptor
indices in a leaf. -/
structure IdxNode where
  leaf : Bool := false
  keys : List Nat := []
  kids : List Nat := []
  /-- an uncorrectable error has struck it (R325) -/
  poisoned : Bool := false
  deriving DecidableEq, Repr, Inhabited

/-- An RTB entry (R326): the descriptor as it was read, and its lock. -/
structure RtbEntry where
  rid : Nat := 0
  rng : Range := {}
  locked : Bool := false
  valid : Bool := true
  deriving DecidableEq, Repr, Inhabited

/-- A programmable counter (R382). -/
structure PerfCtr where
  event : Nat := 0
  mask : BitVec 8 := 0
  value : Word := 0
  deriving DecidableEq, Repr, Inhabited

/-- A delay-account entry (R384, R385). -/
structure DelayEntry where
  key : Word := 0
  count : Word := 0
  transit : Word := 0
  wait : Word := 0
  run : Word := 0
  deriving DecidableEq, Repr, Inhabited

/-- A stop request that reached a core or Set node (R403). -/
structure StopReq where
  die : Nat := 0
  group : Nat := 0
  source : Nat := 0
  /-- HALT of a core in no group stops this core alone -/
  alone : Bool := false
  atRest : Bool := false
  deriving DecidableEq, Repr, Inhabited

/-- A running in-field scan (R136): its abort priority, the register of SCANRUN or none for SCANCTL. -/
structure Scan where
  abortPrio : Nat := 0
  rd : Option (BitVec 5) := none
  start : Word := 0
  deriving DecidableEq, Repr, Inhabited

/-- A core (R76, R77, R199, R251, R268, R321): its registers, the queues of its NI, T6 and T7, copy engine, I-cache, RTB,
range scoreboard and accounting. -/
structure Core where
  q : List (Nat × QReg) := []
  htab : Word := 0
  win : List (Nat × Word) := []
  /-- the code area that system software has laid out in ULM (R30), as intervals; the handler-table block belongs to it
  besides (DEDUCED, log entry 9) -/
  code : List (Nat × Nat) := []
  asid : BitVec 16 := 0
  assigned : Bool := false
  lcid : Option (BitVec 8) := none
  ckstat : Word := 0
  /-- the core takes messages and items: START_INTERFACE has run and HTABINIT was not 0 (R418) -/
  started : Bool := false
  inbox : List InMsg := []
  overflow : Bool := false
  order : Nat := 0
  t6q : List Msg := []
  t7q : List Item := []
  t7cur : Option Item := none
  /-- items that the core itself raises and that T7's queue has no room for yet, oldest first (DESIGN CHOICE, log entry 14) -/
  itemWait : List Item := []
  sendBuf : List Msg := []
  niWait : List (Nat × Msg) := []
  actCount : BitVec 48 := 0
  rr : Nat := 0
  sb : List SbEntry := []
  ce : CopyEngine := {}
  icache : List (Nat × ICLine) := []
  epoch : Nat := 0
  /-- the L1 data cache by sector (R199, R205) -/
  l1 : List (Nat × CSec) := []
  /-- the writes of pushes that its copy engine has still to perform, oldest first, and the number of the last (R264) -/
  pushQ : List PushWrite := []
  pushNo : Nat := 0
  rtb : List RtbEntry := []
  locks : List Nat := []
  pm : List (Nat × PerfCtr) := []
  /-- issues that no cycle has been counted for yet (R37, R382) -/
  issued : Nat := 0
  fixed : List (Nat × Word) := []
  delay : List (Nat × DelayEntry) := []
  scan : Option Scan := none
  scanCtl : Word := 0
  htabInit : Word := 0
  stop : Option StopReq := none
  /-- time at which the next rank pre-emption request may be raised; none while one is outstanding (R394) -/
  preemptFrom : Word := 0
  preemptOut : Bool := false
  resetting : Bool := false
  /-- a move by the Gaffer that has begun and is not complete: the new stage's queue handle; and when the last move completed, if
  there was one (R39, R317) -/
  stageNext : Option Nat := none
  stageMoved : Option Word := none
  deriving DecidableEq, Repr, Inhabited

/-! ### Sets -/

/-- A Weight Buffer slot (R179, R180): header word, and per column its stored bytes, block mask and element masks. -/
structure WbSlot where
  hdr : Word := 0
  cols : List (Nat × List Byte) := []
  bmask : List (Nat × Nat) := []
  emask : List (Nat × PReg) := []
  deriving DecidableEq, Repr, Inhabited

/-- An A stage (R183). -/
structure AStage where
  hdr : Word := 0
  rows : List (Nat × List Byte) := []
  tags : List (Nat × Word) := []
  deriving DecidableEq, Repr, Inhabited

/-- An engine queue entry with what it latched at issue (R185, R188, R191). -/
inductive EngOp where
  | zero (tile : Nat)
  | mul (tile wb : Nat) (cfg op6 op7 : Word)
  | rd (tile base : Nat) (op5 op4 addr : Word) (rm : Nat) (satm : Bool)
  deriving DecidableEq, Repr, Inhabited

/-- An engine queue entry: its serial (shared with the load queue, so that acceptance order shows), whether it has begun to
stream, and whether it waits in a semaphore's line. -/
structure EngEntry where
  serial : Nat := 0
  op : EngOp := .zero 0
  streaming : Bool := false
  /-- its barrier stands in the line of its semaphore since it became head (R174, R189) -/
  inLine : Bool := false
  /-- the tile buffer it reads while it streams (R190) -/
  buf : Option Nat := none
  /-- sticky flags that its completion raises on MI: TFW of the tile and the flags of the conversion (R191) -/
  flags : BitVec 8 := 0
  deriving DecidableEq, Repr, Inhabited

/-- What a load writes. -/
inductive LoadTarget where
  | wb (i : Nat)
  | stage (i : Nat)
  deriving DecidableEq, Repr, Inhabited

/-- A load queue entry (R181, R183, R184): which columns or rows it loads and from where. -/
structure LoadEntry where
  serial : Nat := 0
  target : LoadTarget := .wb 0
  desc : Word := 0
  /-- clear the target first (MXLDB, MXLDBG, MXLDBS with NEW, MXSTG) -/
  fresh : Bool := true
  /-- the columns or rows: index, source address, bytes, block mask, element masks -/
  parts : List (Nat × Word × Nat × Nat × PReg) := []
  tagAddr : Word := 0
  started : Bool := false
  suspended : Bool := false
  deriving DecidableEq, Repr, Inhabited

/-- A program start in a fork queue (R170). -/
structure ForkEntry where
  entry : Word := 0
  arg : Word := 0
  ox : List (Nat × Word) := []
  p : List (Nat × PReg) := []
  rcb : Word := 0
  seqNo : Nat := 0
  deriving DecidableEq, Repr, Inhabited

/-- A Montage bin (R296, R301). -/
structure Bin where
  /-- 0 CLOSED, 1 OPEN, 2 FILLING, 3 SEALING -/
  state : Nat := 0
  cfg : Word := 0
  hdrLoc : Nat := 0
  rows : Nat := 0
  buf : Option Nat := none
  first : Word := 0
  next : Nat := 0
  sealNo : Nat := 0
  /-- while SEALING: cause, and whether the bin closes afterwards -/
  cause : Nat := 0
  closing : Bool := false
  sealT : Word := 0
  /-- the instant of its last seal, if it has sealed (R299) -/
  lastSeal : Option Word := none
  deriving DecidableEq, Repr, Inhabited

/-- A tile buffer (R300): its rows and tags, and whether it is held. -/
structure TileBuf where
  held : Bool := false
  sealed : Bool := false
  released : Bool := false
  rows : List (Nat × List Byte) := []
  tags : List (Nat × Word) := []
  /-- rows that an uncorrectable error has struck -/
  poisoned : List Nat := []
  deriving DecidableEq, Repr, Inhabited

/-- A Set: the state of R165 and R268, its registers of R77 and the Set node's queues. -/
structure SetSt where
  part : Nat := 0
  /-- granted to its partition (R412) -/
  assigned : Bool := false
  tiles : List (Nat × BitVec 36) := []
  tags : List (Nat × Word) := []
  /-- entries and tags that an uncorrectable error has struck (R195), and that MI takes UNCORRECTABLE at its next MX instruction -/
  tilePoison : List Nat := []
  tagPoison : List Nat := []
  mxUce : Bool := false
  tfw : List (Nat × Word) := []
  wb : List (Nat × WbSlot) := []
  stages : List (Nat × AStage) := []
  mxc : Word := 0
  engQ : List EngEntry := []
  loadQ : List LoadEntry := []
  serial : Nat := 0
  sem : List (Nat × BitVec 16) := []
  /-- lines of the semaphores: semaphore, agent key or none for the engine, count -/
  semLine : List (Nat × Option Nat × Nat) := []
  forkQ : List (Nat × List ForkEntry) := []
  forkSeq : List (Nat × Nat) := []
  exits : List (Nat × List (Nat × Word)) := []
  lastFault : List (Nat × Word × Word) := []
  cur : List (Nat × Option ForkEntry) := []
  lastEnded : List (Nat × Nat) := []
  sflags : Word := 0
  setsup : Word := 0
  flagPend : List Word := []
  bins : List (Nat × Bin) := []
  bufs : List (Nat × TileBuf) := []
  rowXfers : List RowXfer := []
  q : List (Nat × QReg) := []
  ce : CopyEngine := {}
  sendBuf : List Msg := []
  niWait : List (Nat × Msg) := []
  stop : Option StopReq := none
  resetting : Bool := false
  deriving DecidableEq, Repr, Inhabited

/-! ### Dies -/

/-- A dependence counter (R364). -/
structure DepCtr where
  value : BitVec 32 := 0
  poison : Bool := false
  /-- the clock that its decrements carry (R229, R231) -/
  clock : Clock := []
  deriving DecidableEq, Repr, Inhabited

/-- A barrier (R364). -/
structure Barrier where
  n : BitVec 16 := 0
  arrivals : BitVec 16 := 0
  phase : BitVec 16 := 0
  poison : Bool := false
  /-- the clock that its arrivals carry (R229, R231) -/
  clock : Clock := []
  deriving DecidableEq, Repr, Inhabited

/-- A slate (R364, R372 to R374). `state`: 0 CLOSED, 1 OPEN, 2 POISON. -/
structure Slate where
  gen : BitVec 16 := 0
  state : Nat := 0
  cause : Nat := 0
  tOpen : Word := 0
  tClose : Word := 0
  mask : Word := 0
  ctl : Word := 0
  late : BitVec 32 := 0
  marks : List (Nat × Word) := []
  /-- partition that opened it: its late-event queue lies there -/
  part : Nat := 0
  deriving DecidableEq, Repr, Inhabited

/-- A reduction tree (R376): its table entry, and the inputs of the round in progress by router and port: value, flags,
poison. Ports: 0 north, 1 east, 2 south, 3 west, 4 local. -/
structure RedTree where
  dw0 : Word := 0
  members : Word := 0
  round : BitVec 32 := 0
  inputs : List (Nat × Word × BitVec 5 × Bool) := []
  /-- contributions that wait at a local port for the next round: router, value, poison -/
  waiting : List (Nat × Word × Bool) := []
  /-- the combined result at the root, if complete -/
  result : Option (Word × BitVec 5 × Bool) := none
  deriving DecidableEq, Repr, Inhabited

/-- An event packet in a port FIFO (R284). -/
structure EvPkt where
  w0 : Word := 0
  w1 : Word := 0
  deriving DecidableEq, Repr, Inhabited

/-- A launch packet in the CP input FIFO (R295): the function that wrote it and its doublewords. -/
structure CpPkt where
  fn : Nat := 0
  words : List Word := []
  /-- the clock of the release that its write is (R238) -/
  clock : Clock := []
  deriving DecidableEq, Repr, Inhabited

/-- A compaction in progress (R333). -/
structure Compaction where
  part : Nat := 0
  rid : Nat := 0
  newBase : Nat := 0
  newHome : Nat := 0
  prog : Nat := 0
  switched : Bool := false
  word : Word := 0
  issuer : Agent := .thr 0 0
  deriving DecidableEq, Repr, Inhabited

/-- A trace session and its records (R407). Status: 0 CLOSED, 1 OPEN, 2 COMPLETE, 3 INCOMPLETE, 4 FULL. -/
structure Trace where
  status : Nat := 0
  stopMode : Bool := false
  ctlMode : Bool := false
  /-- TRCMASK, and the mask of the session that is open (R208) -/
  mask : Word := 0
  live : Word := 0
  loss : Bool := false
  recs : List (List Word) := []
  deriving DecidableEq, Repr, Inhabited

/-- A Gaffer sample history of one stage queue (R316): partition, handle, last samples, newest first. -/
structure GafSample where
  part : Nat := 0
  qh : Nat := 0
  samples : List Nat := []
  deriving DecidableEq, Repr, Inhabited

/-- A die: counter SRAM, tables and queues of the edge agents (R14, R268, R364). -/
structure Die where
  /-- the L2 and the RDC by sector (R199, R205) -/
  l2 : List (Nat × CSec) := []
  rdc : List (Nat × CSec) := []
  dc : List (Nat × DepCtr) := []
  bar : List (Nat × Barrier) := []
  slate : List (Nat × Slate) := []
  /-- grant map: partition + 1 of a block, 0 ungranted; counters, barriers and slates (R364, R365) -/
  grantDc : List (Nat × Nat) := []
  grantBar : List (Nat × Nat) := []
  grantSlate : List (Nat × Nat) := []
  trees : List (Nat × RedTree) := []
  w : BitVec 32 := 0
  vc : Clock := []
  /-- a home that applied a write since W_h last changed (R231) -/
  wrote : Bool := false
  counters : List (Nat × Word) := []
  routes : List (Nat × Word) := []
  fifos : List (Nat × List EvPkt) := []
  portCtr : List (Nat × Word) := []
  portPart : List (Nat × Nat) := []
  cpFifo : List CpPkt := []
  cpHalted : Bool := false
  /-- the head packet has matched and been let go: it is dispatched without another comparison (R406) -/
  cpPass : Bool := false
  gaf : List GafSample := []
  /-- the index cache of the Continuity Engine: partition, tree and node, the latest used first (R200, R345) -/
  snapIdx : List (Nat × Nat × Nat) := []
  /-- the ingress port that the unit takes from next, in turn (R285) -/
  nextPort : Nat := 0
  compact : Option Compaction := none
  trace : Trace := {}
  hgc : List (Nat × Word) := []
  hgm : List (Nat × BitVec 32) := []
  hgmSet : List (Nat × BitVec 32) := []
  stopRec : List (Nat × List Word) := []
  deriving DecidableEq, Repr, Inhabited

/-! ### Partitions -/

/-- State of a partition (R413). -/
inductive PState where
  | unlocked | locked | running | error
  deriving DecidableEq, Repr, Inhabited

/-- An entry of a task queue (R291, R304). -/
structure QEntry where
  words : List Word := []
  prio : Nat := 0
  deadline : Word := 0
  order : Nat := 0
  blocked : Bool := false
  /-- its counter has been 0, or poisoned, since it was blocked: it becomes ready, or is lost, whatever comes after (R306, R307) -/
  released : Bool := false
  doomed : Bool := false
  poisoned : Bool := false
  host : Bool := false
  /-- the clock of the TENQ that put it there, or of the decrement that released it (R229, R231, R306) -/
  clock : Clock := []
  deriving DecidableEq, Repr, Inhabited

/-- A FREE thread that a core of the stage reported (R309). -/
structure Report where
  core : Nat := 0
  tid : Nat := 0
  /-- the instant of the report (R309) -/
  at_ : Word := 0
  claimed : Bool := false
  /-- the packet that its dispatch sent: what goes back unchanged (R280, R317) -/
  pkt : Option QEntry := none
  deriving DecidableEq, Repr, Inhabited

/-- A queue-table entry (R338) with the queue it maps. `disc`: 0 FIFO, 1 RANKED, 2 LATE. -/
structure TaskQ where
  disc : Nat := 0
  log2d : Nat := 4
  die : Nat := 0
  base : Nat := 0
  pin : Bool := false
  rcb : Word := 0
  entries : List QEntry := []
  order : Nat := 0
  lost : Word := 0
  reports : List Report := []
  deriving DecidableEq, Repr, Inhabited

/-- A tree record (R347). -/
structure TreeRec where
  v : Bool := false
  dw0 : Word := 0
  npool : Word := 0
  cap : Nat := 0
  spool : Word := 0
  collide : Word := 0
  evicts : Word := 0
  nodes : Nat := 0
  hepoch : BitVec 16 := 0
  deriving DecidableEq, Repr, Inhabited

/-- A partition (R412, R413): its state, grants, tables and pending queues. -/
structure Part where
  state : PState := .unlocked
  secure : Bool := false
  dbg : Bool := false
  hostLaunch : Bool := false
  /-- the configuration digest recorded at lock (R413, R418) -/
  digest : List Byte := []
  /-- STOP_INTERFACE waits for the reset of its cores (R408, R413) -/
  stopping : Bool := false
  /-- granted queue-table handles, and memory granted for the tables: first and number (R412) -/
  handles : List (Nat × Nat) := []
  tableMem : List (Nat × Nat) := []
  backing : List (Nat × Nat) := []
  keys : List Nat := []
  ranges : List (Nat × Option Range) := []
  /-- the index over VBASE, by node number; the last node is the root (R324, DESIGN CHOICE, log entry 83) -/
  index : List IdxNode := []
  /-- the descriptors as they stood before a change of what they map, until an RNGINV has covered them: RTBs and caches may hold them
  still (R326, R332) -/
  oldRanges : List Range := []
  queues : List (Nat × Option TaskQ) := []
  trees : List (Nat × TreeRec) := []
  /-- the pending queues by region, and for each the doubleword 5 of the RCB that set it up (R268, R282) -/
  pend : List (Nat × List Msg) := []
  pendSet : List (Nat × Word) := []
  deriving DecidableEq, Repr, Inhabited

/-! ### The device -/

/-- A context on its way to another core by MIGRATE (R38, R135). -/
structure Migrant where
  src : Nat := 0
  srcTid : Nat := 0
  dest : Nat := 0
  th : Thread := {}
  arrived : Bool := false
  /-- arrival order at the destination's inbox, by which it ranks (R35) -/
  order : Nat := 0
  /-- the vector clock of its release (R236) -/
  clock : Clock := []
  deriving DecidableEq, Repr, Inhabited

/-- Late replies of a migrated activation are forwarded (R38): old core and thread, generation, new core, and until when. -/
structure Forward where
  core : Nat := 0
  tid : Nat := 0
  gen : BitVec 13 := 0
  dest : Nat := 0
  destTid : Nat := 0
  destGen : BitVec 13 := 0
  upTo : Word := 0
  deriving DecidableEq, Repr, Inhabited

/-- A camera frame in progress (R435). -/
structure Frame where
  active : Bool := false
  buf : Word := 0
  line : Nat := 0
  bytes : Nat := 0
  status : Nat := 0
  startT : Word := 0
  count : BitVec 32 := 0
  /-- the lines that the receiver holds until no engine owns the memory they go to, oldest first, with whether their CRC is right (R206) -/
  waiting : List (List Byte × Bool) := []
  deriving DecidableEq, Repr, Inhabited

/-- A posted write or message that has arrived over PCI Express (R295, R427, R433): to a launch page of function `fn` of a die, to the
aperture or an event page of a VF, over PF0 into the device MMIO map, or a peer's clock message. Requester 0 is the host, on link A; the
others are peers, on link B. -/
inductive Posted where
  | launch (die fn addr : Nat) (words : List Word)
  | aperture (vf req : Nat) (secure : Bool) (off : Word) (data : List Byte)
  | eventPage (vf die addr : Nat) (data : List Byte)
  | mmio (pa : Nat) (data : List Byte)
  | clock (req : Nat) (k : List (BitVec 32))
  deriving DecidableEq, Repr

/-- A byte sent out through the host window (R202, R430): its host address, the partition whose VF is its requester, and whether it goes in
that VF's selective stream with T set. -/
structure HostByte where
  addr : Nat := 0
  byte : Byte := 0
  vf : Nat := 0
  secure : Bool := false
  deriving DecidableEq, Repr

/-- A read of the device from outside: of `n` bytes of the MMIO map by a master or the debug port, of a launch or event page (R295, R431), or
by the debug port of a captured PC, CKSTAT, a counter of R383, a delay-account entry or a trace record (R75, R383, R385, R407, R417). -/
inductive Outside where
  | mmio (w : Writer) (pa n : Nat)
  | page (n : Nat)
  | debugPc (core tid : Nat)
  | debugCkstat (core : Nat)
  | debugCounter (core sel : Nat)
  | debugDelay (core i : Nat)
  | debugTrace (die i : Nat)
  deriving DecidableEq, Repr

/-- The next move of the machine that another agent or the outside world makes: a machine event, an issue by an agent, the passing of time
in ns, or a read from outside. -/
inductive Turn where
  | event (e : Instr)
  | issue (a : Agent)
  | tick (ns : Nat)
  | read (r : Outside)
  deriving DecidableEq, Repr

/-- The device (R8, R11). -/
structure State where
  /-- the agent whose instruction executes (the model's own, see DESIGN CHOICE, log entry 2) -/
  cur : Agent := .thr 0 7
  /-- the next moves of the other agents and of the outside world (the model's own, DESIGN CHOICE, log entry 2) -/
  agenda : List Turn := []
  thr : List (Nat × Thread) := []
  core : List (Nat × Core) := []
  sets : List (Nat × SetSt) := []
  die : List (Nat × Die) := []
  part : List (Nat × Part) := []
  /-- every addressed byte of the device by location (DESIGN CHOICE, log entry 7): physical addresses, then ULMs, then sequencer memories -/
  mem : List Host.Cell := []
  /-- the clock that a release left with the value of an 8-byte unit of global memory, by unit number (R231) -/
  carried : List (Nat × Clock) := []
  /-- poisoned 32-byte sectors by sector number (R215) -/
  poison : List (Nat × Bool) := []
  timebase : Word := 0
  cycles : Word := 0
  /-- accumulated tenths of a core clock cycle (R9) -/
  cycfrac : Nat := 0
  lcm : List (Nat × Option (BitVec 16)) := []
  owner : Word := 0
  offerAt : Word := 0
  bootrec : Word := 0
  bootEnt : List (Nat × Word) := []
  boots : Nat := 0
  failedBoots : Nat := 0
  recovery : Bool := false
  envelope : Nat := 0
  cpbrk : List (Nat × Word) := []
  domain : Word := 0
  ltp : Word := 0
  tbslew : Word := 0
  /-- accumulated parts of 10⁹ ns of the slewed rate -/
  tbfrac : Int := 0
  /-- loaded keys by key id (R414) -/
  keys : List (Nat × Option (BitVec 512)) := []
  frameTgt : List (Nat × Word) := []
  frames : List (Nat × Frame) := []
  msix : List (Nat × BitVec 32) := []
  mesh : List Msg := []
  migrants : List Migrant := []
  forwards : List Forward := []
  /-- the clock register of the fence point (R228) -/
  fencePoint : Clock := []
  /-- the clocks that peers have sent ahead of their next write, by requester (R433) -/
  heldClocks : List (Nat × Clock) := []
  /-- bytes sent out through the host window, newest first (R202, R430) -/
  hostOut : List HostByte := []
  retraining : Bool := false
  /-- the posted writes that wait behind a launch write for which its CP has no room, or for the die bridge, oldest first (R269, R295, R437) -/
  postedA : List Posted := []
  /-- the same for the writes and clock messages of peers, on link B (R295, R427) -/
  postedB : List Posted := []
  /-- the public-key hash in fuses, and the digest of the firmware that runs (R421, R425) -/
  fuses : BitVec 256 := 0
  fwDigest : List Byte := []
  /-- the security processor's mailbox by doubleword (R207) -/
  mbox : List (Nat × Word) := []
  /-- the bytes of the last answer that the device gave to a reader outside it (R425, R429, R438) -/
  answer : List Byte := []
  /-- the agents whose next instruction has been tried since the machine last moved on and could not issue: they are not ready (R37,
  R115; the model's own, DESIGN CHOICE, log entry 104) -/
  polled : List Agent := []
  /-- the model's own counter of free values (DESIGN CHOICE, log entry 3) -/
  freeCtr : Nat := 0
  deriving DecidableEq, Repr

/-- The machine right after reset (R19, R76, R77, R165, R199, R268, R364): every unit at its reset value, memory with
nothing listed. -/
def State.reset : State := {}

/-- Why a step stops. -/
inductive Fault where
  /-- Raised by the physical-memory operations: an access at a physical address that R202 gives no memory. Safe: R202 says
  that no access ever reaches one, so the hardware has no behaviour there that the model loses. -/
  | noSuchAddress (pa : Nat)
  deriving DecidableEq, Repr

/-- Why an instruction has no meaning. -/
inductive Refusal where
  /-- Raised by an arm of exec whose instruction is not modelled yet. Safe: nothing is claimed of it. -/
  | notModelled (mnemonic : String)
  deriving DecidableEq, Repr

/-- The outcome of a meaning. -/
abbrev Out := Host.Outcome State Fault Refusal

end Sys2Proof.Machine
end

