-- ==== Sys2Proof/Machine/Units.lean ====
section
/-! DEFINITION. Reading and changing the units of State: threads and their registers, cores, Sets, dies, partitions, the
logical core map, and who an agent is (R15, R17, R18, R74, R76, R77, R342). -/

namespace Sys2Proof.Machine

/-! ### Agents -/

/-- The agent is an activation thread, T0 to T5 (R18). -/
def Agent.isAct : Agent → Bool
  | .thr _ t => decide (t < 6)
  | .seq _ _ => false

/-- The agent is T6. -/
def Agent.isT6 : Agent → Bool
  | .thr _ t => decide (t = 6)
  | .seq _ _ => false

/-- The agent is T7, the one with service privilege (R74). -/
def Agent.isT7 : Agent → Bool
  | .thr _ t => decide (t = 7)
  | .seq _ _ => false

/-- The agent is a sequencer. -/
def Agent.isSeq : Agent → Bool
  | .thr _ _ => false
  | .seq _ _ => true

/-- The agent is a thread. -/
def Agent.isThr (a : Agent) : Bool := !a.isSeq

/-- The agent is sequencer `q` (0 MS, 1 MI, 2 copy sequencer). -/
def Agent.isSeqNo (q : Nat) : Agent → Bool
  | .thr _ _ => false
  | .seq _ q' => decide (q' = q)

/-- The Set of an agent, 0 to 15 over both dies. -/
def Agent.setNo : Agent → Nat
  | .thr c _ => c / 8
  | .seq s _ => s

/-- The die of an agent. -/
def Agent.dieNo (a : Agent) : Nat := a.setNo / 8

/-- The core of a thread; core 0 of the Set for a sequencer. -/
def Agent.coreNo : Agent → Nat
  | .thr c _ => c
  | .seq s _ => 8 * s

/-- The thread number; 7 for a sequencer. -/
def Agent.tid : Agent → Nat
  | .thr _ t => t
  | .seq _ _ => 7

/-! ### Registers of a thread (R76) -/

/-- X[r]; x0 reads 0 (R112). -/
def Thread.getX (t : Thread) (r : BitVec 5) : Word := if r = 0 then 0 else Tbl.get 0 t.x r.toNat

/-- Writes X[r]; a write to x0 is discarded (R112). -/
def Thread.setX (t : Thread) (r : BitVec 5) (v : Word) : Thread :=
  if r = 0 then t else { t with x := Tbl.put 0 t.x r.toNat v }

/-- F[r]. -/
def Thread.getF (t : Thread) (r : BitVec 5) : Word := Tbl.get 0 t.f r.toNat

/-- Writes F[r]. -/
def Thread.setF (t : Thread) (r : BitVec 5) (v : Word) : Thread := { t with f := Tbl.put 0 t.f r.toNat v }

/-- V[r]. -/
def Thread.getV (t : Thread) (r : BitVec 5) : VReg := Tbl.get 0 t.v r.toNat

/-- Writes V[r]. -/
def Thread.setV (t : Thread) (r : BitVec 5) (v : VReg) : Thread := { t with v := Tbl.put 0 t.v r.toNat v }

/-- p register `n`; p0 reads all ones (R76). -/
def Thread.getP (t : Thread) (n : Nat) : PReg := if n = 0 then BitVec.allOnes 128 else Tbl.get 0 t.p n

/-- Writes p register `n`; a write to p0 is discarded (R76). -/
def Thread.setP (t : Thread) (n : Nat) (v : PReg) : Thread := if n = 0 then t else { t with p := Tbl.put 0 t.p n v }

/-- ox register `n`. -/
def Thread.getOx (t : Thread) (n : Nat) : Word := Tbl.get 0 t.ox n

/-- Writes ox register `n`. -/
def Thread.setOx (t : Thread) (n : Nat) (v : Word) : Thread := { t with ox := Tbl.put 0 t.ox n v }

/-- Stream slot `n`. -/
def Thread.getSs (t : Thread) (n : Nat) : Stream := Tbl.get {} t.ss n

/-- Writes stream slot `n`. -/
def Thread.setSs (t : Thread) (n : Nat) (v : Stream) : Thread := { t with ss := Tbl.put {} t.ss n v }

/-- ACTST.NR (R82). -/
def Thread.nr (t : Thread) : Bool := bitAt t.actst 2

/-- ACTST.RTK (R82). -/
def Thread.rtk (t : Thread) : Nat := field t.actst 0 2

/-- ACTST.JCNT (R82). -/
def Thread.jcnt (t : Thread) : Nat := field t.actst 16 13

/-- A reply is still to write register `r` of the activation (R115, R250). -/
def Thread.awaits (t : Thread) (r : BitVec 5) : Bool := t.outst.any fun o => decide (o.gen = t.gen) && decide (o.rd = r)

/-- Completion of an instruction of `len` bytes that transfers no control: the loop check of R124, else the next address. -/
def Thread.next (t : Thread) (len : Nat) : Thread :=
  if t.loopActive ∧ t.pc = t.loopLast then
    let t1 := t.setX t.loopReg (t.getX t.loopReg - 1)
    if t1.getX t.loopReg ≠ 0 then { t1 with pc := t.loopStart } else { t1 with pc := t.pc + ofN len, loopActive := false }
  else { t with pc := t.pc + ofN len }

/-- Completion of an operation with a reply: one whose reply is to write the loop's register waits for it before the count (R115, R124,
R250; DEDUCED, log entry 104). -/
def Thread.nextAsk (t : Thread) (len : Nat) : Thread :=
  if t.loopActive ∧ t.pc = t.loopLast ∧ t.awaits t.loopReg = true then { t with wait := some { kind := .reply, len := len } } else t.next len

/-- The reply that a loop's count waited for has come: the pass ends (R124). -/
def Thread.replied (t : Thread) : Thread :=
  match t.wait with
  | some w => if w.kind = .reply ∧ t.awaits t.loopReg = false then ({ t with wait := none } : Thread).next w.len else t
  | none => t

/-- A thread without the registers that its activation used (R84, R87). -/
def Thread.blank (t : Thread) : Thread :=
  { t with
    pc := 0, x := [], f := [], v := [], p := [], ox := [], fcsr := 0, vcsr := 0, tcause := 0, tval := 0, epc := 0, utvec := 0, utepc := 0
    actid := 0, actst := 0, msghdr := 0, loopStart := 0, loopLast := 0, loopReg := 0 }

/-- The activation of a thread is live: it runs or waits, stopped or not, and is no resident program between two messages. -/
def Thread.live (t : Thread) : Bool :=
  match t.st with
  | .run => true
  | .wait => !t.wait.any fun w => decide (w.kind = .resident)
  | .stopped => decide (t.held = .run) || (decide (t.held = .wait) && !t.wait.any fun w => decide (w.kind = .resident))
  | .free => false
  | .saved => false
  | .off => false

namespace State

/-! ### Units -/

/-- The thread or sequencer of an agent. -/
def thread (s : State) (a : Agent) : Thread := Tbl.get {} s.thr a.key

/-- Replaces the thread of an agent. -/
def setThread (s : State) (a : Agent) (t : Thread) : State := { s with thr := Tbl.put {} s.thr a.key t }

/-- Changes the thread of an agent. -/
def modThread (s : State) (a : Agent) (f : Thread → Thread) : State := s.setThread a (f (s.thread a))

/-- The thread that executes. -/
def me (s : State) : Thread := s.thread s.cur

/-- Changes the thread that executes. -/
def modMe (s : State) (f : Thread → Thread) : State := s.modThread s.cur f

/-- Physical core `c`. -/
def getCore (s : State) (c : Nat) : Core := Tbl.get {} s.core c

/-- Changes physical core `c`. -/
def modCore (s : State) (c : Nat) (f : Core → Core) : State := { s with core := Tbl.put {} s.core c (f (s.getCore c)) }

/-- Set `n`, 0 to 15 over both dies. -/
def getSet (s : State) (n : Nat) : SetSt := Tbl.get {} s.sets n

/-- Changes Set `n`. -/
def modSet (s : State) (n : Nat) (f : SetSt → SetSt) : State := { s with sets := Tbl.put {} s.sets n (f (s.getSet n)) }

/-- Die `d`. -/
def getDie (s : State) (d : Nat) : Die := Tbl.get {} s.die d

/-- Changes die `d`. -/
def modDie (s : State) (d : Nat) (f : Die → Die) : State := { s with die := Tbl.put {} s.die d (f (s.getDie d)) }

/-- Partition `p`. -/
def getPart (s : State) (p : Nat) : Part := Tbl.get {} s.part p

/-- Changes partition `p`. -/
def modPart (s : State) (p : Nat) (f : Part → Part) : State := { s with part := Tbl.put {} s.part p (f (s.getPart p)) }

/-- Counts one in die counter `k` (R207, R383). -/
def countDie (s : State) (d k : Nat) : State :=
  s.modDie d fun x => { x with counters := Tbl.put 0 x.counters k (Tbl.get 0 x.counters k + 1) }

/-- Counts one in fixed counter `k` of core `c` (R383). -/
def countCore (s : State) (c k : Nat) : State :=
  s.modCore c fun x => { x with fixed := Tbl.put 0 x.fixed k (Tbl.get 0 x.fixed k + 1) }

/-- Counts event `ev` of R382 on core `c`, thread `t`, `n` times. -/
def countEvents (s : State) (c t ev n : Nat) : State :=
  if (s.getCore c).pm.isEmpty then s else
  s.modCore c fun k =>
    { k with pm := k.pm.map fun e =>
        if e.2.event = ev ∧ (e.2.mask = 0 ∨ bitAt e.2.mask t) then (e.1, { e.2 with value := e.2.value + ofN n }) else e }

/-- Counts event `ev` of R382 on core `c`, thread `t`. -/
def countEvent (s : State) (c t ev : Nat) : State := s.countEvents c t ev 1

/-! ### Registers of the executing thread -/

/-- X[r] of the executing thread. -/
def x (s : State) (r : BitVec 5) : Word := s.me.getX r

/-- Writes X[r] of the executing thread. -/
def wx (s : State) (r : BitVec 5) (v : Word) : State := s.modMe fun t => t.setX r v

/-- F[r] of the executing thread. -/
def f (s : State) (r : BitVec 5) : Word := s.me.getF r

/-- ox register `n` of the executing thread. -/
def ox (s : State) (n : Nat) : Word := s.me.getOx n

/-- The pc of the executing thread. -/
def pc (s : State) : Word := s.me.pc

/-- Completes the executing thread's instruction of `len` bytes (R112, R124). -/
def adv (s : State) (len : Nat) : State := s.modMe fun t => t.next len

/-- The executing thread completes an operation that asked for a reply, of `len` bytes. -/
def advAsk (s : State) (len : Nat) : State := s.modMe fun t => t.nextAsk len

/-- Transfers the executing thread's control to `a`. -/
def jump (s : State) (a : Word) : State := s.modMe fun t => { t with pc := a }

/-! ### Partition, world and place of an agent -/

/-- Partition of a core by its ASID (R43, R77), of a sequencer by its Set (R79). -/
def partOf (s : State) : Agent → Nat
  | .thr c _ => field (s.getCore c).asid 0 3
  | .seq n _ => (s.getSet n).part

/-- Partition of the executing agent. -/
def myPart (s : State) : Nat := s.partOf s.cur

/-- The agent's world is secure: the world of its partition (R411). -/
def secureOf (s : State) (a : Agent) : Bool := (s.getPart (s.partOf a)).secure

/-- The entry of logical index `i` in the logical core map; start-up writes the identity (R342). -/
def lcmEntry (s : State) (i : Nat) : BitVec 16 := (Tbl.get none s.lcm i).getD (BitVec.ofNat 16 (0x8000 + i))

/-- The physical core of a logical index with V = 1 (R342). -/
def physOf (s : State) (l : Nat) : Option Nat :=
  if bitAt (s.lcmEntry l) 15 then some (field (s.lcmEntry l) 0 7) else none

/-- The physical core that is core 0 of Set `n`, counted over both dies: a core's index is its logical one (R15, R343; where no core stands
there, the physical one, DESIGN CHOICE, log entry 85). -/
def coreZero (s : State) (n : Nat) : Nat := (s.physOf (8 * n)).getD (8 * n)

/-- The partition of a logical core, whether V is 1 or 0 (R341, R343). -/
def partOfLogical (s : State) (l : Nat) : Nat := s.partOf (.thr (field (s.lcmEntry l) 0 7) 0)

/-- LCID of a physical core: its logical index, or 0x80 (R342). -/
def lcidOf (s : State) (c : Nat) : BitVec 8 := ((s.getCore c).lcid).getD (BitVec.ofNat 8 c)

/-- The coordinates that an agent writes into SC of a header and into a handle (R251, R270): its logical core, or
(die, Set, 0) for a sequencer. A core without a logical index, whose LCID is 0x80, writes (0, 0, 0) (DESIGN CHOICE, log entry 90). -/
def coordOf (s : State) : Agent → Nat
  | .thr c _ => field (s.lcidOf c) 0 7
  | .seq n _ => 8 * n

/-- The core takes messages: placed in the map and started (R278, R342, R418). -/
def coreServes (s : State) (c : Nat) : Bool := decide (s.lcidOf c ≠ 0x80) && (s.getCore c).started

end State

/-! ### Locations (DESIGN CHOICE, log entry 7) -/

/-- Location of byte `a` of the ULM of physical core `c`. -/
def ulmLoc (c a : Nat) : Nat := 2 ^ 48 + c * 2 ^ 20 + a

/-- Location of byte `a` of the local memory of sequencer `q` of Set `n`. -/
def seqLoc (n q a : Nat) : Nat := 2 ^ 48 + 2 ^ 27 + (3 * n + q) * 2 ^ 17 + a

/-- The core whose ULM holds a location. -/
def locCore (l : Nat) : Option Nat := if 2 ^ 48 ≤ l ∧ l < 2 ^ 48 + 2 ^ 27 then some ((l - 2 ^ 48) / 2 ^ 20) else none

/-- Size of an agent's local window: 1 MiB of ULM, or 128 KiB of sequencer memory (R203). -/
def Agent.window : Agent → Nat
  | .thr _ _ => 0x100000
  | .seq _ _ => 0x20000

/-- Location of address `a` of an agent's local window (R203). -/
def Agent.localLoc : Agent → Nat → Nat
  | .thr c _, a => ulmLoc c a
  | .seq n q, a => seqLoc n q a

/-- Kinds of physical places (R202). -/
inductive Place where
  | hbm (die : Nat)
  | mmio
  | host
  | ulm
  | none
  deriving DecidableEq, Repr

/-- What stands at a location (R202, DESIGN CHOICE, log entry 7). -/
def placeOf (l : Nat) : Place :=
  if l < 0xC00000000 then .hbm 0
  else if 0x1000000000 ≤ l ∧ l < 0x1C00000000 then .hbm 1
  else if 0x4000000000 ≤ l ∧ l < 0x4100000000 then .mmio
  else if 0x800000000000 ≤ l ∧ l < 2 ^ 48 then .host
  else if 2 ^ 48 ≤ l then .ulm
  else .none

end Sys2Proof.Machine
end

