-- ==== Sys2Proof/Machine/Cache.lean ====
section
/-! DEFINITION. Memory by location, the data caches over global memory (R199, R201, R205, R206) and what a change of memory does
to the I-caches (R212). Memory holds the newest value of every byte in its coherence order (R219); an L1 holds, under each of its
dirty sectors, what the home still has, and the L1s and the RDC of the other die hold copies that may be older (DESIGN CHOICE, log
entry 19). -/

namespace Sys2Proof.Machine

/-! ### Bytes -/

/-- What a byte of memory that nothing has written reads as (DESIGN CHOICE, log entry 10). -/
def Memory.unlisted : Byte := 0

/-- The canonical form of memory. -/
def Memory.wf (m : List Host.Cell) : Bool := Tbl.wf Memory.unlisted m

/-- Reads one byte. -/
def Memory.read (m : List Host.Cell) (l : Nat) : Byte := Tbl.get Memory.unlisted m l

/-- Writes one byte. -/
def Memory.write (m : List Host.Cell) (l : Nat) (b : Byte) : List Host.Cell := Tbl.put Memory.unlisted m l b

/-- Reads `n` bytes. -/
def Memory.readN (m : List Host.Cell) (l n : Nat) : List Byte := (List.range n).map fun i => Memory.read m (l + i)

/-- Writes bytes from `l` on. -/
def Memory.writeN (m : List Host.Cell) (l : Nat) : List Byte → List Host.Cell
  | [] => m
  | b :: t => Memory.writeN (Memory.write m l b) (l + 1) t

/-! ### Sectors, lines and homes -/

/-- The numbers of the units of `u` bytes that [l, l + n) touches. -/
def unitsOf (u l n : Nat) : List Nat := if n = 0 then [] else (List.range ((l + n - 1) / u - l / u + 1)).map fun i => l / u + i

/-- The 32-byte sectors that [l, l + n) touches. -/
def sectorsOf (l n : Nat) : List Nat := unitsOf 32 l n

/-- The home die of a location of HBM4E (R202, R205); none elsewhere. -/
def homeDie (l : Nat) : Option Nat :=
  match placeOf l with
  | .hbm d => some d
  | .mmio => none
  | .host => none
  | .ulm => none
  | .none => none

/-- The lines that a cache holds, by its sectors. -/
def linesHeld {α : Type} (t : List (Nat × α)) : List Nat := (t.map fun e => e.1 % 2 ^ 48 / 4 + e.1 / 2 ^ 48 * 2 ^ 48).eraseDups

/-- Puts sector `k` into a cache of `cap` lines; where a new line finds it full, the line that `pick` names leaves (DESIGN CHOICE,
log entry 82: no rule gives the replacement). -/
def putSector {α : Type} [DecidableEq α] (d : α) (cap : Nat) (t : List (Nat × α)) (k : Nat) (v : α) (pick : Nat) : List (Nat × α) :=
  let line := fun (x : Nat) => x % 2 ^ 48 / 4 + x / 2 ^ 48 * 2 ^ 48
  if t.length < cap then Tbl.put d t k v
  else
    let ls := linesHeld t
    if ls.length < cap ∨ ls.contains (line k) then Tbl.put d t k v
    else
      let gone := (ls[pick % ls.length]?).getD 0
      Tbl.put d (t.filter fun e => !decide (line e.1 = gone)) k v

namespace State

/-- A free choice that the spec leaves to the caches: a free value of this step and sector (DESIGN CHOICE, log entry 82). -/
def cacheChoice (s : State) (x : Nat) : Nat := (Config.freeWord s.freeCtr (2 ^ 60 + x)).toNat

/-! ### L1, L2 and RDC (R205) -/

/-- The cores of die `d` whose L1 holds sector `x`. -/
def l1Holders (s : State) (d x : Nat) : List Nat :=
  (s.core.filter fun e => decide (e.1 / 64 = d) && (Tbl.get {} e.2.l1 x).valid).map (·.1)

/-- Sector `x` of the L1 of core `c`. -/
def l1Of (s : State) (c x : Nat) : CSec := Tbl.get {} (s.getCore c).l1 x

/-- Puts sector `x` into the L2 of its home die, of 393,216 lines; a write makes it dirty (R199). -/
def putL2 (s : State) (d x : Nat) (dirty : Bool) : State :=
  s.modDie d fun k =>
    { k with l2 := putSector {} 393216 k.l2 x { valid := true, dirty := dirty || (Tbl.get {} k.l2 x).dirty } (s.cacheChoice x) }

/-- Puts sector `x` into the L1 of core `c`, of 16,384 lines; the dirty sectors of a line that leaves are written back to the L2
(R199, R201). -/
def putL1 (s : State) (c x : Nat) (v : CSec) : State :=
  let old := (s.getCore c).l1
  let new := putSector {} 16384 old x v (s.cacheChoice x)
  let gone := if new.length ≤ old.length then old.filter fun e => e.2.dirty && !(Tbl.get {} new e.1).valid else []
  gone.foldl (fun t e => t.putL2 (c / 64) e.1 true) (s.modCore c fun k => { k with l1 := new })

/-- Sector `x` leaves the L1 of core `c`. -/
def dropL1 (s : State) (c x : Nat) : State := s.modCore c fun k => { k with l1 := Tbl.put {} k.l1 x {} }

/-- The L1 of core `c` is written back and emptied (R136, R216). -/
def emptyL1 (s : State) (c : Nat) : State :=
  ((s.getCore c).l1.filter fun e => e.2.dirty).foldl (fun t e => t.putL2 (c / 64) e.1 true) (s.modCore c fun k => { k with l1 := [] })

/-- Puts sector `x` into the RDC of die `d`, of 131,072 lines (R199). -/
def putRdc (s : State) (d x : Nat) (v : CSec) : State :=
  s.modDie d fun k => { k with rdc := putSector {} 131072 k.rdc x v (s.cacheChoice x) }

/-- Sector `x` leaves the RDC of die `d`. -/
def dropRdc (s : State) (d x : Nat) : State :=
  if (s.getDie d).rdc.isEmpty then s else s.modDie d fun k => { k with rdc := Tbl.put {} k.rdc x {} }

/-- The directory of die `d` invalidates every L1 copy of sector `x` on the die but that of core `keep`; dirty bytes are written
back (R205, R206). -/
def invalidateL1 (s : State) (d x : Nat) (keep : Option Nat) : State :=
  ((s.l1Holders d x).filter fun c => !decide (some c = keep)).foldl (fun t c => t.dropL1 c x) s

/-- The directory of die `d` has every dirty L1 copy of sector `x` but that of core `keep` written back; the copies stay (R205). -/
def recallL1 (s : State) (d x : Nat) (keep : Option Nat) : State :=
  ((s.l1Holders d x).filter fun c => !decide (some c = keep) && (s.l1Of c x).dirty).foldl
    (fun t c => (t.putL1 c x { valid := true }).putL2 d x true) s

/-- The clock that the value of 8-byte unit `u` carries (R231). -/
def clockAt (s : State) (u : Nat) : Clock := Tbl.get [] s.carried u

/-- Sector `x` as its home serves it to the other die: its bytes, the stamp W_h and the clocks of its values (R231). -/
def homeCopy (s : State) (h x : Nat) : CSec :=
  { valid := true
    data := Memory.readN s.mem (32 * x) 32
    stamp := (s.getDie h).w
    clocks := (List.range 4).filterMap fun i =>
      if (s.clockAt (4 * x + i)).isEmpty then none else some (4 * x + i, s.clockAt (4 * x + i)) }

/-- The copy of sector `x`, homed on die `h`, by which core `c` of the other die reads it: its L1's, else its die's RDC's. -/
def farCopy (s : State) (c x : Nat) : Option CSec :=
  let l := s.l1Of c x
  if l.valid then some l
  else
    let r := Tbl.get {} (s.getDie (c / 64)).rdc x
    if r.valid then some r else none

/-- Core `c` reads sector `x` of home `h` through its L1: a hit changes nothing, a miss fills it (R199, R205). A fill on the other
die is visible to all of that die from its arrival on, so no older copy stays in an L1 there (R221). -/
def fillSector (h c : Nat) (s : State) (x : Nat) : State :=
  if (s.l1Of c x).valid then s
  else if h = c / 64 then ((s.recallL1 h x (some c)).putL2 h x false).putL1 c x { valid := true }
  else
    let r := Tbl.get {} (s.getDie (c / 64)).rdc x
    if r.valid then s.putL1 c x r
    else
      let s1 := (s.recallL1 h x none).putL2 h x false
      let v := s1.homeCopy h x
      ((s1.invalidateL1 (c / 64) x none).putRdc (c / 64) x v).putL1 c x v

/-- What a write of sector `x` by core `c` does to the caches, after memory holds it; `old` is what memory held before. On the
home die the L1 is written back: it owns the sector, dirty over what the home holds, which is `old` unless an earlier store is
still dirty and has not reached the home (R244). On the other die it is written through, and the acknowledgement brings this
die's copies to the home's value (R205, R221, R231). -/
def writeSector (h c : Nat) (old : State) (s : State) (x : Nat) : State :=
  if h = c / 64 then
    let l := s.l1Of c x
    let under := if l.dirty && decide (s.cacheChoice x % 2 = 0) then l.data else Memory.readN old.mem (32 * x) 32
    ((s.invalidateL1 h x (some c)).putL2 h x false).putL1 c x { valid := true, dirty := true, data := under }
  else
    let s1 := (s.invalidateL1 h x none).putL2 h x true
    let v := s1.homeCopy h x
    let d := c / 64
    let mine := (s1.l1Of c x).valid
    let s2 := s1.invalidateL1 d x none
    let s3 := if (Tbl.get {} (s2.getDie d).rdc x).valid then s2.putRdc d x v else s2
    if mine then s3.putL1 c x v else s3

/-- A write that an atomic or an engine performs at the home: every L1 copy on the home die leaves (R206, R230). -/
def writeAtHome (h : Nat) (s : State) (x : Nat) : State := (s.invalidateL1 h x none).putL2 h x true

/-- An acknowledgement, or bytes that the home serves, reach die `d`: from then on that die's copies of the sector have the home's value
(R221, R230). -/
def ackSector (h d : Nat) (s : State) (x : Nat) : State :=
  if h = d then s
  else
    let v := s.homeCopy h x
    let s1 := s.invalidateL1 d x none
    if (Tbl.get {} (s1.getDie d).rdc x).valid then s1.putRdc d x v else s1

/-- Memory as core `c` reads [l, l + n) of home `h`: on the other die, with the copies in place of the home's bytes (R205, R227). -/
def seenBy (s : State) (h c l n : Nat) : State :=
  if h = c / 64 ∨ ((s.getCore c).l1.isEmpty ∧ (s.getDie (c / 64)).rdc.isEmpty) then s
  else
    (sectorsOf l n).foldl (fun t x =>
      match s.farCopy c x with
      | some v => { t with mem := Memory.writeN t.mem (32 * x) v.data }
      | none => t) s

/-! ### What a change of memory does to the I-caches (R212) -/

/-- The cores whose I-cache may hold a location: the core itself for ULM, any for global memory. -/
def fetchers (s : State) (l : Nat) : List Nat :=
  match locCore l with
  | some c => [c]
  | none => if l < 2 ^ 48 then (s.core.filter fun e => !e.2.icache.isEmpty).map (·.1) else []

/-- What a change of memory at serial `e` does to one sector of an I-cache: its bytes are no longer those of memory, and a sector of
ULM becomes stale (R212). -/
def changedLine (e : Nat) (ulm : Bool) (i : ICLine) : ICLine :=
  let chg := fun (v : ICVer) => if v.changed.isNone then { v with changed := some e } else v
  { ver := chg i.ver
    staleAt := if ulm && i.staleAt.isNone then some e else i.staleAt
    old := i.old.map fun o => (o.1, chg o.2) }

/-- A write of [l, l + n) reaches the I-caches: they keep their words (R212). -/
def staleLines (s : State) (l n : Nat) : State :=
  (s.fetchers l).foldl (fun t c =>
    let hit := fun (e : Nat × ICLine) => overlaps (32 * (e.1 % 2 ^ 48)) 32 l n
    if (t.getCore c).icache.any hit then
      t.modCore c fun k =>
        { k with
          epoch := k.epoch + 1
          icache := k.icache.map fun e => if hit e then (e.1, changedLine (k.epoch + 1) (decide (2 ^ 48 ≤ l)) e.2) else e }
    else t) s

/-- The units of [l, l + n) carry clock `k` with their new values (R231). -/
def carry (s : State) (l n : Nat) (k : Clock) : State :=
  if (homeDie l).isNone ∨ (s.carried.isEmpty ∧ k.isEmpty) then s
  else { s with carried := (unitsOf 8 l n).foldl (fun t u => Tbl.put [] t u k) s.carried }

/-- A write performed at the home of [l, l + n): the L1s of the home die lose the sectors (R206, R230). -/
def atHome (s : State) (l n : Nat) : State :=
  match homeDie l with
  | none => s
  | some h => (sectorsOf l n).foldl (writeAtHome h) s

/-- The same for every sector of [l, l + n) that has another die as its home (R221, R230). -/
def ackAt (s : State) (d l n : Nat) : State :=
  match homeDie l with
  | none => s
  | some h => if h = d then s else (sectorsOf l n).foldl (ackSector h d) s

/-- A unit reads [l, l + n) at its home: the L1s there write back what is dirty (R205). -/
def readAtHome (s : State) (l n : Nat) : State :=
  match homeDie l with
  | none => s
  | some h => (sectorsOf l n).foldl (fun t x => t.recallL1 h x none) s

/-- An agent of die `d` that has no cache reads [l, l + n) at its home: the value is visible to its whole die from then on (R205, R221). -/
def readFrom (s : State) (d l n : Nat) : State := (s.readAtHome l n).ackAt d l n

end State

end Sys2Proof.Machine
end

