-- ==== Sys2Proof/Machine/Crypto.lean ====
section
/-! DEFINITION. The two ciphers the spec names: AES-256-XTS over 16-byte units with the unit's physical address as tweak
(R414) and SHA-256 (R351, R418). Both are the published standards. -/

namespace Sys2Proof.Machine

/-! ### AES-256 -/

/-- The AES substitution box: entry i in bits [8i+7:8i]. -/
def aesSboxTable : Nat :=
  0xc072a49cafa2d4adf04759fa7dc982ca76abd7fe2b670130c56f6bf27b777c63 +
  0x75b227ebe28012079a059618c323c7041531d871f1e5a534ccf73f362693fdb7 * 2 ^ 256 +
  0xcf584c4a39becb6a5bb1fc20ed00d153842fe329b3d63b52a05a6e1b1a2c8309 * 2 ^ 512 +
  0xd2f3ff1021dab6bcf5389d928f40a351a89f3c507f02f94585334d43fbaaefd0 * 2 ^ 768 +
  0xdb0b5ede14b8ee4688902a22dc4f816073195d643d7ea7c41744975fec130ccd * 2 ^ 1024 +
  0x08ae7a65eaf4566ca94ed58d6d37c8e779e4959162acd3c25c2406490a3a32e0 * 2 ^ 1280 +
  0x9e1dc186b95735610ef6034866b53e708a8bbd4b1f74dde8c6b4a61c2e2578ba * 2 ^ 1536 +
  0x16bb54b00f2d99416842e6bf0d89a18cdf2855cee9871e9b948ed9691198f8e1 * 2 ^ 1792

/-- Its inverse. -/
def aesInvSboxTable : Nat :=
  0xcbe9dec444438e3487ff2f9b8239e37cfbd7f3819ea340bf38a53630d56a0952 +
  0x25d18b6d49a25b76b224d92866a12e084ec3fa420b954cee3d23c2a632947b54 * 2 ^ 256 +
  0x849d8da75746155edab9edfd5048706c92b6655dcc5ca4d41698688664f6f872 * 2 ^ 512 +
  0x6b8a130103bdafc1020f3fca8f1e2cd00645b3b80558e4f70ad3bc8c00abd890 * 2 ^ 768 +
  0x6edf751ce837f9e28535ade72274ac9673e6b4f0cecff297eadc674f4111913a * 2 ^ 1024 +
  0xf45acd78fec0db9a2079d2c64b3e56fc1bbe18aa0e62b76f89c5291d711af147 * 2 ^ 1280 +
  0xef9cc9939f7ae52d0d4ab519a97f51605fec8027591012b131c7078833a8dd1f * 2 ^ 1536 +
  0x7d0c2155631469e126d677ba7e042b17619953833cbbebc8b0f52aae4d3be0a0 * 2 ^ 1792

/-- SubBytes of one byte. -/
def aesSub (b : Byte) : Byte := BitVec.ofNat 8 (aesSboxTable >>> (8 * b.toNat))

/-- InvSubBytes of one byte. -/
def aesInvSub (b : Byte) : Byte := BitVec.ofNat 8 (aesInvSboxTable >>> (8 * b.toNat))

/-- Multiplication by x in GF(2⁸). -/
def aesX2 (b : Byte) : Byte := (b <<< 1) ^^^ (if b.msb then 0x1b else 0)

/-- Multiplication in GF(2⁸) by a small constant. -/
def aesMul (k : Nat) (b : Byte) : Byte :=
  (if k.testBit 0 then b else 0) ^^^ (if k.testBit 1 then aesX2 b else 0) ^^^
  (if k.testBit 2 then aesX2 (aesX2 b) else 0) ^^^ (if k.testBit 3 then aesX2 (aesX2 (aesX2 b)) else 0)

/-- Byte i of a list. -/
def byteAt (l : List Byte) (i : Nat) : Byte := (l[i]?).getD 0

/-- Bytewise exclusive or. -/
def xorBytes (a b : List Byte) : List Byte := List.zipWith (· ^^^ ·) a b

/-- One column of (Inv)MixColumns by the row (c0, c1, c2, c3). -/
def aesMixCol (c0 c1 c2 c3 : Nat) (c : List Byte) : List Byte :=
  (List.range 4).map fun r =>
    aesMul c0 (byteAt c r) ^^^ aesMul c1 (byteAt c ((r + 1) % 4)) ^^^ aesMul c2 (byteAt c ((r + 2) % 4)) ^^^
      aesMul c3 (byteAt c ((r + 3) % 4))

/-- The key schedule of AES-256: `n` further words after the first eight, newest first. -/
def aesExpand : Nat → List (List Byte) → List (List Byte)
  | 0, ws => ws
  | n + 1, ws =>
    let i := ws.length
    let prev := ws.headD []
    let t :=
      if i % 8 = 0 then
        xorBytes ((prev.drop 1 ++ prev.take 1).map aesSub) [BitVec.ofNat 8 (2 ^ (i / 8 - 1)), 0, 0, 0]
      else if i % 8 = 4 then prev.map aesSub else prev
    aesExpand n (xorBytes ((ws[7]?).getD []) t :: ws)

/-- The fifteen round keys of a 32-byte key. -/
def aesRoundKeys (key : List Byte) : List (List Byte) :=
  (chunks 16 15 ((aesExpand 52 (chunks 4 8 key).reverse).reverse.flatten))

/-- ShiftRows of a 16-byte block (column order). -/
def aesShift (s : List Byte) : List Byte := (List.range 16).map fun i => byteAt s ((i + 4 * (i % 4)) % 16)

/-- InvShiftRows. -/
def aesInvShift (s : List Byte) : List Byte := (List.range 16).map fun i => byteAt s ((i + 12 * (i % 4)) % 16)

/-- MixColumns by the row given. -/
def aesMix (c0 c1 c2 c3 : Nat) (s : List Byte) : List Byte := (chunks 4 4 s).flatMap (aesMixCol c0 c1 c2 c3)

/-- AES-256 encryption of one block under round keys. -/
def aesEncrypt (ks : List (List Byte)) (blk : List Byte) : List Byte :=
  let k := fun i => (ks[i]?).getD []
  let mid := (List.range 13).foldl (fun st i => xorBytes (aesMix 2 3 1 1 (aesShift (st.map aesSub))) (k (i + 1)))
    (xorBytes blk (k 0))
  xorBytes (aesShift (mid.map aesSub)) (k 14)

/-- AES-256 decryption of one block under round keys. -/
def aesDecrypt (ks : List (List Byte)) (blk : List Byte) : List Byte :=
  let k := fun i => (ks[i]?).getD []
  let mid := (List.range 13).foldl
    (fun st i => aesMix 14 11 13 9 (xorBytes ((aesInvShift st).map aesInvSub) (k (13 - i)))) (xorBytes blk (k 14))
  xorBytes ((aesInvShift mid).map aesInvSub) (k 0)

/-- The tweak of the unit at a physical address: the address, least significant byte first, under the second key (R414). -/
def xtsTweak (key : BitVec 512) (pa : Nat) : List Byte :=
  aesEncrypt (aesRoundKeys (leBytes 32 (key.toNat / 2 ^ 256))) (leBytes 16 pa)

/-- Encrypt of R240 on one 16-byte unit. -/
def xtsEncrypt (key : BitVec 512) (pa : Nat) (p : List Byte) : List Byte :=
  let t := xtsTweak key pa
  xorBytes (aesEncrypt (aesRoundKeys (leBytes 32 key.toNat)) (xorBytes p t)) t

/-- Decrypt of R240 on one 16-byte unit. -/
def xtsDecrypt (key : BitVec 512) (pa : Nat) (c : List Byte) : List Byte :=
  let t := xtsTweak key pa
  xorBytes (aesDecrypt (aesRoundKeys (leBytes 32 key.toNat)) (xorBytes c t)) t

/-! ### SHA-256 -/

/-- The round constants. -/
def shaK : List (BitVec 32) :=
  [0x428a2f98, 0x71374491, 0xb5c0fbcf, 0xe9b5dba5, 0x3956c25b, 0x59f111f1, 0x923f82a4, 0xab1c5ed5] ++
  [0xd807aa98, 0x12835b01, 0x243185be, 0x550c7dc3, 0x72be5d74, 0x80deb1fe, 0x9bdc06a7, 0xc19bf174] ++
  [0xe49b69c1, 0xefbe4786, 0x0fc19dc6, 0x240ca1cc, 0x2de92c6f, 0x4a7484aa, 0x5cb0a9dc, 0x76f988da] ++
  [0x983e5152, 0xa831c66d, 0xb00327c8, 0xbf597fc7, 0xc6e00bf3, 0xd5a79147, 0x06ca6351, 0x14292967] ++
  [0x27b70a85, 0x2e1b2138, 0x4d2c6dfc, 0x53380d13, 0x650a7354, 0x766a0abb, 0x81c2c92e, 0x92722c85] ++
  [0xa2bfe8a1, 0xa81a664b, 0xc24b8b70, 0xc76c51a3, 0xd192e819, 0xd6990624, 0xf40e3585, 0x106aa070] ++
  [0x19a4c116, 0x1e376c08, 0x2748774c, 0x34b0bcb5, 0x391c0cb3, 0x4ed8aa4a, 0x5b9cca4f, 0x682e6ff3] ++
  [0x748f82ee, 0x78a5636f, 0x84c87814, 0x8cc70208, 0x90befffa, 0xa4506ceb, 0xbef9a3f7, 0xc67178f2]

/-- The initial hash value. -/
def shaH : List (BitVec 32) :=
  [0x6a09e667, 0xbb67ae85, 0x3c6ef372, 0xa54ff53a, 0x510e527f, 0x9b05688c, 0x1f83d9ab, 0x5be0cd19]

/-- Word i of a list. -/
def sw (l : List (BitVec 32)) (i : Nat) : BitVec 32 := (l[i]?).getD 0

/-- The message schedule: `n` more words, newest first. -/
def shaSched : Nat → List (BitVec 32) → List (BitVec 32)
  | 0, w => w
  | n + 1, w =>
    let x := sw w 14
    let y := sw w 1
    let s0 := x.rotateRight 7 ^^^ x.rotateRight 18 ^^^ (x >>> 3)
    let s1 := y.rotateRight 17 ^^^ y.rotateRight 19 ^^^ (y >>> 10)
    shaSched n ((sw w 15 + s0 + sw w 6 + s1) :: w)

/-- One round on the eight working variables. -/
def shaRound (v : List (BitVec 32)) (kw : BitVec 32) : List (BitVec 32) :=
  let a := sw v 0; let b := sw v 1; let c := sw v 2; let d := sw v 3
  let e := sw v 4; let f := sw v 5; let g := sw v 6; let h := sw v 7
  let t1 := h + (e.rotateRight 6 ^^^ e.rotateRight 11 ^^^ e.rotateRight 25) + ((e &&& f) ^^^ (~~~e &&& g)) + kw
  let t2 := (a.rotateRight 2 ^^^ a.rotateRight 13 ^^^ a.rotateRight 22) + ((a &&& b) ^^^ (a &&& c) ^^^ (b &&& c))
  [t1 + t2, a, b, c, d + t1, e, f, g]

/-- One 64-byte block. -/
def shaBlock (h : List (BitVec 32)) (blk : List Byte) : List (BitVec 32) :=
  let w0 := (chunks 4 16 blk).map fun b => BitVec.ofNat 32 (leNat b.reverse)
  let w := (shaSched 48 w0.reverse).reverse
  List.zipWith (· + ·) h ((List.zipWith (· + ·) shaK w).foldl shaRound h)

/-- SHA-256 of a list of bytes, as 32 bytes. -/
def sha256 (m : List Byte) : List Byte :=
  let z := (119 - m.length % 64) % 64
  let p := m ++ [0x80] ++ List.replicate z 0 ++ (leBytes 8 (8 * m.length)).reverse
  ((chunks 64 p.length p).foldl shaBlock shaH).flatMap fun x => (leBytes 4 x.toNat).reverse

/-! ### LMS (R421): SHA-256, height 10, Winternitz parameter 4 -/

/-- `n` bytes of a number, the most significant first. -/
def beBytes (n x : Nat) : List Byte := (leBytes n x).reverse

/-- `n` applications of the chain function of position `i`, from step `j` on. -/
def lmsChain (id : List Byte) (q i : Nat) : Nat → Nat → List Byte → List Byte
  | 0, _, v => v
  | n + 1, j, v => lmsChain id q i n (j + 1) (sha256 (id ++ beBytes 4 q ++ beBytes 2 i ++ [BitVec.ofNat 8 j] ++ v))

/-- The node above `v` at number `m`, along a path to the root. -/
def lmsPath (id : List Byte) : List (List Byte) → Nat → List Byte → List Byte
  | [], _, v => v
  | p :: rest, m, v =>
    lmsPath id rest (m / 2)
      (sha256 (id ++ beBytes 4 (m / 2) ++ [0x83, 0x83] ++ (if m % 2 = 1 then p ++ v else v ++ p)))

/-- The root that a signature of `msg` leads to: identifier, one-time key `q`, randomizer, 67 chain values and path. -/
def lmsRoot (id : List Byte) (q : Nat) (c : List Byte) (y path : List (List Byte)) (msg : List Byte) : List Byte :=
  let h := sha256 (id ++ beBytes 4 q ++ [0x81, 0x81] ++ c ++ msg)
  let nib := h.flatMap fun b => [b.toNat / 16, b.toNat % 16]
  let sum := (nib.map fun d => 15 - d).foldl (· + ·) 0 * 16
  let ds := nib ++ [sum / 4096 % 16, sum / 256 % 16, sum / 16 % 16]
  let zs := ((List.zipIdx ds).zip y).flatMap fun e => lmsChain id q e.1.2 (15 - e.1.1) e.1.1 e.2
  lmsPath id path (1024 + q) (sha256 (id ++ beBytes 4 (1024 + q) ++ [0x82, 0x82] ++ sha256 (id ++ beBytes 4 q ++ [0x80, 0x80] ++ zs)))

/-- An LMS public key: its types, identifier and root. -/
def lmsKey (id root : List Byte) : List Byte := beBytes 4 6 ++ beBytes 4 3 ++ id ++ root

end Sys2Proof.Machine
end

