-- ==== Sys2Proof/Machine/Mem.lean ====
section
/-! DEFINITION. Memory: bytes and poison at a location, the ciphers, the MMIO map as it reads, the translated access of R240
and the load of R120 and R240. -/

namespace Sys2Proof.Machine

/-! ### Causes and stops -/

/-- A trap an instruction takes: TCAUSE.CODE and SUB and TVAL of R388. -/
structure Trap where
  code : BitVec 8
  tval : Word := 0
  sub : BitVec 8 := 0
  deriving DecidableEq, Repr

/-- What keeps an instruction from completing: a trap, a wait in RUN (the instruction is tried again), on the scoreboard (R209) or
on something else, or a fault of the model. -/
inductive Stop where
  | trap (t : Trap)
  | stall
  | scoreboard
  | fault (f : Fault)
  deriving DecidableEq, Repr

/-- A value, or what stops the instruction. -/
abbrev Res := Except Stop

namespace Cause
def illegalInstruction : BitVec 8 := 0x01
def illegalIssuer : BitVec 8 := 0x02
def misaligned : BitVec 8 := 0x03
def noRange : BitVec 8 := 0x04
def permission : BitVec 8 := 0x05
def partialResidency : BitVec 8 := 0x06
def worldViolation : BitVec 8 := 0x07
def nack : BitVec 8 := 0x08
def futureEmpty : BitVec 8 := 0x09
def metadataMalformed : BitVec 8 := 0x0A
def fpTrap : BitVec 8 := 0x0B
def ternaryInvalid : BitVec 8 := 0x0C
def qpoison : BitVec 8 := 0x0D
def depfault : BitVec 8 := 0x0E
def breakpoint : BitVec 8 := 0x0F
def syscall : BitVec 8 := 0x10
def uncorrectable : BitVec 8 := 0x11
def checkerMismatch : BitVec 8 := 0x12
def snapBudget : BitVec 8 := 0x13
def reelMisuse : BitVec 8 := 0x14
def watchdog : BitVec 8 := 0x15
def preempt : BitVec 8 := 0x16
def deadlineMiss : BitVec 8 := 0x17
def copyFault : BitVec 8 := 0x18
def privilege : BitVec 8 := 0x19
def streamFault : BitVec 8 := 0x1A
end Cause

/-- Stops with a trap. -/
def trapR {α : Type} (code : BitVec 8) (tval : Word) (sub : BitVec 8 := 0) : Res α := .error (.trap ⟨code, tval, sub⟩)

/-- Goes on when `c` holds, else stops with a trap. -/
def check (c : Bool) (code : BitVec 8) (tval : Word) : Res Unit := if c then .ok () else trapR code tval

/-- Goes on when `c` holds, else waits in RUN. -/
def waitFor (c : Bool) : Res Unit := if c then .ok () else .error .stall

/-! ### Bytes and poison -/

namespace State

/-- Some byte of [l, l + n) lies in a poisoned sector (R215). -/
def poisoned (s : State) (l n : Nat) : Bool :=
  s.poison.any fun e => e.2 && decide (0 < n) && decide (l / 32 ≤ e.1) && decide (e.1 ≤ (l + n - 1) / 32)

/-- A clean write of [l, l + n) clears the poison of the sectors it covers whole (R215). -/
def cleanse (s : State) (l n : Nat) : State :=
  { s with poison := s.poison.filter fun e => !(decide (l ≤ 32 * e.1) && decide (32 * e.1 + 32 ≤ l + n)) }

/-- Poisons every sector that [l, l + n) touches; a clean copy of it that a cache holds is discarded (R215). -/
def poisonSectors (s : State) (l n : Nat) : State :=
  if n = 0 then s else
  let xs := sectorsOf l n
  let s1 : State := { s with poison := xs.foldl (fun p x => Tbl.put false p x true) s.poison }
  let s2 := xs.foldl (fun t x => (t.l1Holders 0 x ++ t.l1Holders 1 x).foldl (fun t c => t.dropL1 c x) ((t.dropRdc 0 x).dropRdc 1 x)) s1
  (s2.fetchers l).foldl (fun t c => t.modCore c fun k => { k with icache := k.icache.filter fun e => !xs.contains (e.1 % 2 ^ 48) }) s2

/-- A write of plain bytes at a location, in memory alone: poison, the clocks of its values and the fetch path follow (R212, R215,
R231). -/
def putRaw (s : State) (l : Nat) (bs : List Byte) : State :=
  ((({ s with mem := Memory.writeN s.mem l bs } : State).cleanse l bs.length).carry l bs.length []).staleLines l bs.length

/-- A write of plain bytes at a location by an engine or a unit, performed at the home (R206). -/
def putBytes (s : State) (l : Nat) (bs : List Byte) : State := (s.putRaw l bs).atHome l bs.length

/-! ### Ciphers (R240, R414) -/

/-- The key of a key id, if it is loaded. -/
def keyOf (s : State) (k : Nat) : Option (BitVec 512) := Tbl.get none s.keys k

/-- The plain bytes of [l, l + n) under key id `k`; 0 is plaintext, and a key that is not loaded opens nothing. -/
def plain (s : State) (l n k : Nat) : List Byte :=
  if k = 0 ∨ (s.keyOf k).isNone then Memory.readN s.mem l n
  else
    let lo := alignDown 16 l
    let units := (l + n - lo + 15) / 16
    let key := (s.keyOf k).getD 0
    let all := (List.range units).flatMap fun i => xtsDecrypt key (lo + 16 * i) (Memory.readN s.mem (lo + 16 * i) 16)
    (all.drop (l - lo)).take n

/-- Writes plain bytes under key id `k`, in memory alone; without its key nothing is written (R414). -/
def putPlainRaw (s : State) (l k : Nat) (bs : List Byte) : State :=
  if k = 0 then s.putRaw l bs
  else if (s.keyOf k).isNone then s
  else
    let lo := alignDown 16 l
    let units := (l + bs.length - lo + 15) / 16
    let key := (s.keyOf k).getD 0
    let old := s.plain lo (16 * units) k
    let new := old.take (l - lo) ++ bs ++ old.drop (l - lo + bs.length)
    let enc := (List.range units).flatMap fun i => xtsEncrypt key (lo + 16 * i) ((new.drop (16 * i)).take 16)
    ((({ s with mem := Memory.writeN s.mem lo enc } : State).cleanse l bs.length).carry l bs.length []).staleLines l bs.length

/-- Writes plain bytes under key id `k` at their home (R206); a write to an uncacheable range bypasses the caches (R199, R202). -/
def putPlain (s : State) (l k : Nat) (bs : List Byte) (unc : Bool := false) : State :=
  if unc then s.putPlainRaw l k bs else (s.putPlainRaw l k bs).atHome l bs.length

/-- `n` bytes of the ULM of core `c`. -/
def ulm (s : State) (c a n : Nat) : List Byte := Memory.readN s.mem (ulmLoc c a) n

/-- The doubleword at ULM address `a` of core `c`. -/
def ulmWord (s : State) (c a : Nat) : Word := bytesWord (s.ulm c a 8)

/-- Writes bytes into the ULM of core `c`. -/
def putUlm (s : State) (c a : Nat) (bs : List Byte) : State := s.putBytes (ulmLoc c a) bs

/-- Writes a doubleword into the ULM of core `c`. -/
def putUlmWord (s : State) (c a : Nat) (w : Word) : State := s.putUlm c a (wordBytes w)

end State

/-! ### Ranges and Translate (R240, R322, R326) -/

/-- The letters of an access kind. -/
structure Kind where
  r : Bool := false
  w : Bool := false
  x : Bool := false
  deriving DecidableEq, Repr

def kindR : Kind := { r := true }
def kindW : Kind := { w := true }
def kindX : Kind := { x := true }
def kindRW : Kind := { r := true, w := true }

/-- The range covers the virtual bytes [va, va + n). -/
def Range.covers (r : Range) (va n : Nat) : Bool := decide (r.vbase ≤ va) && decide (va + n ≤ r.vbase + r.size)

/-- The number of resident bytes from offset `off` of the range on (R323). -/
def Range.residentFrom (r : Range) (off : Nat) : Nat :=
  if r.partialRes then
    match r.ints.find? fun i => decide (i.1 ≤ off / 128) && decide (off / 128 < i.2) with
    | some i => i.2 * 128 - off
    | none => 0
  else r.size - off

/-- PERM holds every letter of the kind: PERM is R, W, X from high to low (R322). -/
def Range.permits (r : Range) (k : Kind) : Bool :=
  (!k.r || bitAt r.perm 2) && (!k.w || bitAt r.perm 1) && (!k.x || bitAt r.perm 0)

/-- A valid range of a partition that covers the bytes, with its index. -/
def Part.find (p : Part) (va n : Nat) : Option (Nat × Range) :=
  p.ranges.findSome? fun e => e.2.bind fun r => if r.covers va n then some (e.1, r) else none

/-- The nodes of an index that a search for `va` reads, from node `n` on (R324). -/
def pathNodes (idx : List IdxNode) (va : Nat) : Nat → Nat → List IdxNode
  | 0, _ => []
  | f + 1, n =>
    match idx[n]? with
    | none => []
    | some x => if x.leaf then [x] else x :: pathNodes idx va f ((x.kids[(x.keys.filter fun k => decide (k ≤ va)).length]?).getD idx.length)

/-- An error stands in an index node that a search for `va` reads (R325). -/
def Part.walkBad (p : Part) (va : Nat) : Bool := (pathNodes p.index va 8 (p.index.length - 1)).any (·.poisoned)

/-- A resolved access: location, key id, range index and descriptor. -/
structure Acc where
  loc : Nat
  key : Nat := 0
  rid : Option Nat := none
  rng : Range := {}
  deriving DecidableEq, Repr

namespace State

/-- The checks of Translate on one descriptor, in order; none when all pass (R240, R414). -/
def rangeFault (s : State) (r : Range) (secure : Bool) (part va n : Nat) (k : Kind) (residency : Bool) : Option (BitVec 8) :=
  if r.world && !secure then some Cause.worldViolation
  else if k.x && (r.world != secure) then some Cause.worldViolation
  else if r.owner ≠ part then some Cause.permission
  else if !r.permits k then some Cause.permission
  else if r.key ≠ 0 ∧ (s.keyOf r.key).isNone then some Cause.permission
  else if residency && decide (r.residentFrom (va - r.vbase) < n) then some Cause.partialResidency
  else none

/-- Translate of R240 for a partition and world, through the RTB of core `c` when it holds a passing entry, else by the
table as it stands (R326). -/
def translateFor (s : State) (secure : Bool) (part : Nat) (rtb : List RtbEntry) (va n : Nat) (k : Kind)
    (residency : Bool := true) : Except (BitVec 8) Acc :=
  let hit := rtb.find? fun e =>
    e.valid && e.rng.covers va n && (s.rangeFault e.rng secure part va n k residency).isNone
  match hit with
  | some e => .ok { loc := e.rng.pbase + (va - e.rng.vbase), key := e.rng.key, rid := some e.rid, rng := e.rng }
  | none =>
    if (s.getPart part).walkBad va then .error Cause.uncorrectable else
    match (s.getPart part).find va n with
    | none => .error Cause.noRange
    | some (i, r) =>
      if r.poisoned then .error Cause.uncorrectable else
      match s.rangeFault r secure part va n k residency with
      | some c => .error c
      | none => .ok { loc := r.pbase + (va - r.vbase), key := r.key, rid := some i, rng := r }

/-- Translate of R240 for an agent. -/
def translate (s : State) (a : Agent) (va n : Nat) (k : Kind) (residency : Bool := true) : Except (BitVec 8) Acc :=
  s.translateFor (s.secureOf a) (s.partOf a) (if a.isThr then (s.getCore a.coreNo).rtb else []) va n k residency

/-- The location of an access of R120 and R240: steps 2 and 3 of R120, the local window, then Translate. Every trap names
the first byte. -/
def resolve (s : State) (a : Agent) (va : Word) (n : Nat) (k : Kind) : Res Acc :=
  if va.toNat / 2 ^ 56 ≠ 0 then trapR Cause.noRange va
  else if va.toNat + n ≤ a.window then .ok { loc := a.localLoc va.toNat }
  else if va.toNat < 0x100000 then trapR Cause.noRange va
  else
    match s.translate a va.toNat n k with
    | .error c => trapR c va
    | .ok acc =>
      match placeOf acc.loc with
      | .mmio => if n = 1 ∨ n = 2 ∨ n = 4 ∨ n = 8 then .ok acc else trapR Cause.permission va
      | .host => if (s.getPart (s.partOf a)).state = .running then .ok acc else trapR Cause.permission va
      | .none => .error (.fault (.noSuchAddress acc.loc))
      | .hbm _ => .ok acc
      | .ulm => .ok acc

/-! ### Who an access waits for (R206, R209) -/

/-- A scoreboard entry of core `c` makes a thread's access to ULM [a, a + n) wait (R209). -/
def sbBlocks (s : State) (c a n : Nat) (write : Bool) : Bool :=
  (s.getCore c).sb.any fun e => overlaps e.lo (e.hi - e.lo) a n && (e.write || write)

/-- What a copy has still to write of a destination segment overlaps [l, l + n), to whole lines (R206). -/
def segOwns (prog l n : Nat) (g : Seg) : Bool :=
  let done := if prog ≤ g.off then 0 else min g.len (prog - g.off)
  decide (done < g.len) && overlaps (alignDown 128 (g.loc + done)) (alignUp 128 (g.loc + g.len) - alignDown 128 (g.loc + done)) l n

/-- A copy owns a line of [l, l + n). -/
def copyOwns (l n : Nat) (c : Copy) : Bool := c.dst.any fun d => d.any (segOwns c.prog l n)

/-- The write of a push owns a line of [l, l + n). -/
def pushOwns (l n : Nat) (w : PushWrite) : Bool :=
  decide (w.loc < 2 ^ 48) && overlaps (alignDown 128 w.loc) (alignUp 128 (w.loc + w.bytes.length) - alignDown 128 w.loc) l n

/-- An engine owns a line of global memory that [l, l + n) touches: a copy or a stream push (R206, R264). -/
def engineOwns (s : State) (l n : Nat) : Bool :=
  s.core.any (fun e => e.2.ce.live.any (copyOwns l n)) ||
  s.sets.any (fun e => e.2.ce.live.any (copyOwns l n)) ||
  s.core.any fun e => e.2.pushQ.any (pushOwns l n)

/-- The die that an access to a location goes to: the home of HBM4E, the half of the MMIO map, die 0 for the host window, and the die of a
core's ULM (R14, R202, R207). -/
def locDie (l : Nat) : Option Nat :=
  match placeOf l with
  | .hbm d => some d
  | .mmio => some ((l - 0x4000000000) / 0x80000000)
  | .host => some 0
  | .ulm => (locCore l).map (· / 64)
  | .none => none

/-- An access from die `d` to the other die's places waits while the die bridge retrains (R437). -/
def acrossBridge (s : State) (d l : Nat) : Bool := s.retraining && (locDie l).any fun h => decide (h ≠ d)

/-- What an agent sends to the other die waits while the die bridge retrains (R437). -/
def bridgeHolds (s : State) (a : Agent) (d : Nat) : Bool := s.retraining && decide (d ≠ a.dieNo)

/-- An access to a location has to wait for an engine. -/
def blocked (s : State) (l n : Nat) (write : Bool) : Bool :=
  match locCore l with
  | some c => s.sbBlocks c (l - ulmLoc c 0) n write
  | none => decide (l < 2 ^ 48) && s.engineOwns l n

/-- The wait of an access to a location that is blocked. -/
def stopAt (l : Nat) : Stop := if (locCore l).isSome then .scoreboard else .stall

/-- Goes on when no engine, nor a retrain of the bridge that it crosses, holds up the executing agent's access (R206, R209, R437). -/
def waitClear (s : State) (l n : Nat) (write : Bool) : Res Unit :=
  if s.blocked l n write then .error (stopAt l) else waitFor (!s.acrossBridge s.cur.dieNo l)

/-- The executing instruction waits in RUN: on the scoreboard or not (R209, R382). -/
def stallOn (s : State) (sb : Bool) : State := if sb then s.modMe fun t => { t with sbWait := true } else s

/-! ### The MMIO map as it reads (R207, R208) -/

/-- The doubleword at offset `o` of die `d`'s half of the MMIO map; every offset not listed reads 0. -/
def mmioDword (s : State) (d o : Nat) : Word :=
  let D := s.getDie d
  let i := o % 8
  if i ≠ 0 then 0
  else if o < 0x1000 then
    if d ≠ 0 then 0
    else if o = 0 then s.owner else if o = 8 then s.domain else if o = 0x10 then s.ltp
    else if o = 0x18 then s.timebase else if o = 0x20 then s.tbslew else 0
  else if o < 0x2000 then
    if d ≠ 0 then 0 else if o = 0x1000 then s.bootrec
    else if 0x1100 ≤ o ∧ o < 0x1180 then Tbl.get 0 s.bootEnt ((o - 0x1100) / 8) else 0
  else if o < 0x2040 then if d ≠ 0 then 0 else Tbl.get 0 s.cpbrk ((o - 0x2000) / 8)
  else if 0x10000 ≤ o ∧ o < 0x10100 then
    if d ≠ 0 then 0 else
      let k := (o - 0x10000) / 2
      s.lcmEntry (k + 3) ++ s.lcmEntry (k + 2) ++ s.lcmEntry (k + 1) ++ s.lcmEntry k
  else if 0x20000 ≤ o ∧ o < 0x20800 then Tbl.get 0 D.routes ((o - 0x20000) / 8)
  else if 0x21000 ≤ o ∧ o < 0x210A0 then Tbl.get 0 D.portCtr ((o - 0x21000) / 8)
  else if 0x22000 ≤ o ∧ o < 0x22200 then if d ≠ 0 then 0 else Tbl.get 0 s.frameTgt ((o - 0x22000) / 8)
  else if 0x30000 ≤ o ∧ o < 0x30800 then
    let t := Tbl.get {} D.trees ((o - 0x30000) / 32)
    match (o - 0x30000) / 8 % 4 with
    | 0 => t.dw0
    | 1 => t.members
    | 2 => zext64 t.round
    | _ => 0
  else if 0x40000 ≤ o ∧ o < 0x40100 then Tbl.get 0 D.hgc ((o - 0x40000) / 8)
  else if 0x40200 ≤ o ∧ o < 0x40400 then zext64 (Tbl.get 0 D.hgm ((o - 0x40200) / 8))
  else if 0x40400 ≤ o ∧ o < 0x40440 then zext64 (Tbl.get 0 D.hgmSet ((o - 0x40400) / 8))
  else if 0x50000 ≤ o ∧ o < 0x52000 then wordAt (Tbl.get [] D.stopRec ((o - 0x50000) / 128)) ((o - 0x50000) % 128 / 8)
  else if 0x60000 ≤ o ∧ o < 0x60800 then
    let k := s.getCore (64 * d + (o - 0x60000) / 32)
    match (o - 0x60000) / 8 % 4 with
    | 0 => b2w k.resetting <<< 63
    | 1 => k.scanCtl
    | 2 => k.htabInit
    | _ => 0
  else if 0x61000 ≤ o ∧ o < 0x61040 then b2w (s.getSet (8 * d + (o - 0x61000) / 8)).resetting <<< 63
  else if o = 0x70000 then ofN (2 * b2n D.trace.ctlMode)
  else if o = 0x70008 then D.trace.mask
  else if o = 0x70010 then ofN (D.trace.recs.length % 65536 * 65536 + 8 * b2n D.trace.loss + D.trace.status)
  else if 0x80000 ≤ o ∧ o < 0x80058 then Tbl.get 0 D.counters ((o - 0x80000) / 8)
  else if 0x100000 ≤ o ∧ o < 0x101000 then if d ≠ 0 then 0 else Tbl.get 0 s.mbox ((o - 0x100000) / 8)
  else if 0x40000000 ≤ o ∧ o < 0x44000000 then BitVec.allOnes 64
  else 0

/-- R207 names the agent among the readers of offset `o` of die `d`: every agent for the logical core map and the load
windows, T7 for its own partition's ports, trees, cores and Sets. -/
def mmioReader (s : State) (a : Agent) (d o : Nat) : Bool :=
  let port := fun p => decide (Tbl.get 0 (s.getDie d).portPart p = s.partOf a + 1)
  if 0x10000 ≤ o ∧ o < 0x10100 then true
  else if 0x40000000 ≤ o ∧ o < 0x44000000 then true
  else if !a.isT7 then false
  else if 0x20000 ≤ o ∧ o < 0x20800 then port (field (Tbl.get 0 (s.getDie d).routes ((o - 0x20000) / 8)) 51 3)
  else if 0x21000 ≤ o ∧ o < 0x210A0 then port ((o - 0x21000) / 32)
  else if 0x22000 ≤ o ∧ o < 0x22200 then port ((o - 0x22000) / 128)
  else if 0x30000 ≤ o ∧ o < 0x30800 then decide (field (Tbl.get {} (s.getDie d).trees ((o - 0x30000) / 32)).dw0 60 3 = s.partOf a)
  else if 0x60000 ≤ o ∧ o < 0x60800 then decide (s.partOf (.thr (64 * d + (o - 0x60000) / 32) 7) = s.partOf a)
  else if 0x61000 ≤ o ∧ o < 0x61040 then decide ((s.getSet (8 * d + (o - 0x61000) / 8)).part = s.partOf a)
  else false

/-- The intervals of offsets that R207 lists in both halves of the map. -/
def listedBoth : List (Nat × Nat) :=
  [(0x20000, 0x20800), (0x21000, 0x210A0), (0x30000, 0x30800), (0x40000, 0x40100), (0x40200, 0x40400), (0x40400, 0x40440),
   (0x50000, 0x52000), (0x60000, 0x60800), (0x61000, 0x61040), (0x70000, 0x70018), (0x80000, 0x80050), (0x40000000, 0x44000000)]

/-- The intervals that stand in die 0's half alone. -/
def listedDie0 : List (Nat × Nat) :=
  [(0, 0x30), (0x400, 0x448), (0x1000, 0x1008), (0x1100, 0x1180), (0x2000, 0x2040), (0x10000, 0x10100), (0x22000, 0x22200),
   (0x80050, 0x80058), (0x100000, 0x101000)]

/-- The offset of die `d`'s half holds a register, entry, record or word of R207; every other one is reserved. -/
def mmioListed (d o : Nat) : Bool :=
  let inside := fun (l : List (Nat × Nat)) => l.any fun i => decide (i.1 ≤ o) && decide (o < i.2)
  (inside listedBoth && !(decide (0x60000 ≤ o) && decide (o < 0x60800) && decide (0x18 ≤ o % 0x20)) &&
    !(decide (0x30000 ≤ o) && decide (o < 0x30800) && decide (0x18 ≤ o % 0x20))) ||
  (decide (d = 0) && inside listedDie0)

/-- `n` bytes of MMIO as a reader reads them that R207 names where `may` says so; a register that R207 lets only others read reads as a
free value (DESIGN CHOICE, log entry 11), and a reserved offset reads 0. -/
def mmioReadIf (s : State) (may : Nat → Nat → Bool) (pa n : Nat) : List Byte :=
  let o := pa - 0x4000000000
  let d := o / 0x80000000
  let q := o % 0x80000000
  let w := if mmioListed d q && !may d q then Config.freeWord s.freeCtr pa else s.mmioDword d (alignDown 8 q)
  ((wordBytes w).drop (q % 8)).take n

/-- `n` bytes of MMIO as an agent reads them. -/
def mmioRead (s : State) (a : Agent) (pa n : Nat) : List Byte := s.mmioReadIf (s.mmioReader a) pa n

/-- What every agent that reaches it reads: the logical core map, and the load windows, which read all ones (R207). -/
def mmioOpen (_ o : Nat) : Bool :=
  (decide (0x10000 ≤ o) && decide (o < 0x10100)) || (decide (0x40000000 ≤ o) && decide (o < 0x44000000))

/-! ### Loads -/

end State

/-- The youngest value that a journal gives for the byte at a location (R24). -/
def journalByte (j : List JEntry) (l : Nat) : Option Byte :=
  j.foldl (fun acc e =>
    match e with
    | .store loc _ _ bs _ _ _ => if loc ≤ l ∧ l < loc + bs.length then ((bs[l - loc]?).getD none).or acc else acc
    | .msg _ => acc
    | .dcdec _ _ _ => acc
    | .bararr _ _ => acc) none

namespace State

/-- Memory as the agent reads it at a resolved access: a thread through its core's caches (R205). -/
def viewOf (s : State) (a : Agent) (acc : Acc) (n : Nat) : State :=
  match a, homeDie acc.loc with
  | .thr c _, some h => if acc.rng.uncached then s else s.seenBy h c acc.loc n
  | .thr _ _, none => s
  | .seq _ _, _ => s

/-- Its core and its die hold copies of every sector of an access to the other die's memory, which it reads without crossing the bridge
(R205, R437). -/
def copiesHeld (s : State) (a : Agent) (acc : Acc) (n : Nat) : Bool :=
  match a with
  | .thr c _ => !acc.rng.uncached && (sectorsOf acc.loc n).all fun x => (s.farCopy c x).isSome
  | .seq _ _ => false

/-- The `n` bytes an agent reads at a resolved access, with memory as `v` shows it: engines awaited, its own journal seen, poison
consumed, MMIO and host window by their own rules (R24, R202, R206, R209, R215, R240). -/
def readVia (s v : State) (a : Agent) (acc : Acc) (va : Word) (n : Nat) : Res (List Byte) :=
  match placeOf acc.loc with
  | .mmio => if s.acrossBridge a.dieNo acc.loc then .error .stall else .ok (s.mmioRead a acc.loc n)
  | .host =>
    if s.acrossBridge a.dieNo acc.loc then .error .stall
    else .ok ((List.range n).map fun i => Config.freeHostByte s.freeCtr (acc.loc + i - 0x800000000000))
  | .none => .error (.fault (.noSuchAddress acc.loc))
  | .hbm _ | .ulm =>
    let j := (s.thread a).journal
    if s.blocked acc.loc n false then .error (stopAt acc.loc)
    else if s.acrossBridge a.dieNo acc.loc && decide (placeOf acc.loc ≠ .ulm) && !s.copiesHeld a acc n then .error .stall
    else if (List.range n).any fun i => s.poisoned (acc.loc + i) 1 && (journalByte j (acc.loc + i)).isNone then
      trapR Cause.uncorrectable va
    else
      let bs := v.plain acc.loc n acc.key
      if j.isEmpty then .ok bs
      else .ok ((List.range n).map fun i => (journalByte j (acc.loc + i)).getD ((bs[i]?).getD 0))

/-- The `n` bytes an agent reads at a resolved access, through the caches of its core (R205). -/
def readAcc (s : State) (a : Agent) (acc : Acc) (va : Word) (n : Nat) : Res (List Byte) := s.readVia (s.viewOf a acc n) a acc va n

/-- The clock that an agent takes with the value of 8-byte unit `u`: its core's copy's on the other die, else the home's (R231). -/
def clockSeen (s : State) (a : Agent) (h u : Nat) : Clock :=
  match a with
  | .seq _ _ => s.clockAt u
  | .thr c _ =>
    if h = c / 64 then s.clockAt u
    else match s.farCopy c (u / 4) with
      | some v => Tbl.get [] v.clocks u
      | none => s.clockAt u

/-- The entrywise maximum of two clocks (R231). -/
def joinClock (a b : Clock) : Clock := b.foldl (fun t e => if Tbl.get 0 t e.1 < e.2 then Tbl.put 0 t e.1 e.2 else t) a

/-- The clock that the value at [l, l + n) carries at its home (R231). -/
def homeClock (s : State) (l n : Nat) : Clock := (unitsOf 8 l n).foldl (fun t u => joinClock t (s.clockAt u)) []

/-- The agent takes the clocks of the values that it reads at [l, l + n) of home `h` (R226, R232). -/
def observe (s : State) (a : Agent) (h l n : Nat) : State :=
  let k := (unitsOf 8 l n).foldl (fun t u => joinClock t (s.clockSeen a h u)) []
  if k.isEmpty then s else s.modThread a fun t => { t with seen := joinClock t.seen k }

/-- An entry of the RTB of the agent's core that covers the bytes and fails a check is dropped (one that is locked keeps its lock);
the one that serves the access becomes the most recently used (R326). An access that finds none is a miss (R382); one below 2^20 is
of the local window or of no range. -/
def useRtb (s : State) (a : Agent) (va n : Nat) (k : Kind) (residency : Bool := true) : State :=
  match a with
  | .seq _ _ => s
  | .thr c _ =>
    let rtb := (s.getCore c).rtb
    if va < 0x100000 then s
    else if rtb.any fun e => e.valid && e.rng.covers va n then
      let bad := fun (e : RtbEntry) => e.valid && e.rng.covers va n && (s.rangeFault e.rng (s.secureOf a) (s.partOf a) va n k residency).isSome
      let kept := rtb.filterMap fun e => if bad e then (if e.locked then some { e with valid := false } else none) else some e
      let hit := kept.filter fun e => e.valid && e.rng.covers va n
      let rest := kept.filter fun e => !(e.valid && e.rng.covers va n)
      s.modCore c fun x => { x with rtb := hit ++ rest }
    else s.countEvent c a.tid 0x05

/-- The sectors of an access that the L1 of the agent's core does not hold are misses (R382). -/
def countMisses (s : State) (a : Agent) (xs : List Nat) : State :=
  if (s.getCore a.coreNo).pm.isEmpty then s
  else s.countEvents a.coreNo a.tid 0x04 (xs.filter fun x => !(s.l1Of a.coreNo x).valid).length

/-- An access at `va` has taken a fault of Translate: the entries of the RTB of the agent's core that cover it, and do not pass for
every kind, have been dropped before the walker read the descriptor again (R326); an access that no entry covers has missed (R382). -/
def dropFailed (s : State) (a : Agent) (va : Nat) : State :=
  match a with
  | .seq _ _ => s
  | .thr c _ =>
    let bad := fun (e : RtbEntry) => e.valid && e.rng.covers va 1 &&
      (s.rangeFault e.rng (s.secureOf a) (s.partOf a) va 1 { r := true, w := true, x := true } true).isSome
    if va < 0x100000 then s
    else if !(s.getCore c).rtb.any fun e => e.valid && e.rng.covers va 1 then s.countEvent c a.tid 0x05
    else if (s.getCore c).rtb.any bad then
      s.modCore c fun x =>
        { x with rtb := x.rtb.filterMap fun e => if bad e then (if e.locked then some { e with valid := false } else none) else some e }
    else s

/-- What a read at a resolved access leaves in the caches of its core (R199, R205, R231). -/
def touchAcc (s : State) (a : Agent) (acc : Acc) (n : Nat) : State :=
  match homeDie acc.loc with
  | none => s
  | some h =>
    let s1 := s.observe a h acc.loc n
    match a with
    | .seq _ _ => if acc.rng.uncached then s1 else s1.readFrom a.dieNo acc.loc n
    | .thr c _ =>
      if acc.rng.uncached then s1
      else (sectorsOf acc.loc n).foldl (fillSector h c) (s1.countMisses a (sectorsOf acc.loc n))

/-- What a read of `n` bytes at `va` that passes its checks leaves in the RTB and the caches of its core (R205, R326). -/
def touchBy (s : State) (a : Agent) (va : Word) (n : Nat) : State :=
  match s.resolve a va n kindR with
  | .ok acc => (s.useRtb a va.toNat n kindR).touchAcc a acc n
  | .error _ => s

/-- The same for the executing agent. -/
def touch (s : State) (va : Word) (n : Nat) : State := s.touchBy s.cur va n

/-- MemLoad of R240 for an agent, after steps 2 and 3 of R120. -/
def loadBytes (s : State) (a : Agent) (va : Word) (n : Nat) : Res (List Byte) := do
  let acc ← s.resolve a va n kindR
  s.readAcc a acc va n

/-- A load of R120 by the executing agent: alignment first. -/
def load (s : State) (ea : Word) (n : Nat) : Res (List Byte) := do
  check (decide (ea.toNat % n = 0)) Cause.misaligned ea
  s.loadBytes s.cur ea n

end State

end Sys2Proof.Machine
end

