-- ==== Sys2Proof/Machine/Clock.lean ====
section
/-! DEFINITION. The write counters and vector clocks of the dies (R228, R231 to R233), as RDVC reads them, with the copies of the
other die's lines that an acquire discards (R232). -/

namespace Sys2Proof.Machine

/-- The clock with entry `i` at 0 (R233). -/
def Clock.forget (i : Nat) (k : Clock) : Clock := Tbl.put 0 k i 0

/-- The message with entry `i` of its clock at 0 (R233). -/
def Msg.forget (i : Nat) (m : Msg) : Msg := { m with clock := m.clock.forget i }

/-- A clock message with entry `i` at 0 (R233). -/
def Posted.forget (i : Nat) : Posted → Posted
  | .clock r k => .clock r (k.set i 0)
  | .launch d f a w => .launch d f a w
  | .aperture v r x o b => .aperture v r x o b
  | .eventPage v d a b => .eventPage v d a b
  | .mmio a b => .mmio a b

namespace State

/-- The entry of die `d` of this device in the vector clocks of the causal domain (R432). -/
def clockIndex (s : State) (d : Nat) : Nat := 2 * field s.domain 0 2 + d

/-- The number of dies of the causal domain (R208, R432). -/
def domainDies (s : State) : Nat := 2 * (field s.domain 2 2 + 1)

/-- VC_d[i]; a die's own entry is its write counter, and a die outside the causal domain has none (R231, R380). -/
def vcEntry (s : State) (d i : Nat) : BitVec 32 :=
  if s.domainDies ≤ i then 0 else if i = s.clockIndex d then (s.getDie d).w else Tbl.get 0 (s.getDie d).vc i

/-- The entries of VC_d. -/
def vcOf (s : State) (d : Nat) : Clock := joinClock [] ((List.range 8).map fun i => (i, s.vcEntry d i))

/-- Merges a clock into VC_d: the entrywise maximum (R231). -/
def mergeClock (s : State) (d : Nat) (c : Clock) : State :=
  if c.isEmpty then s else
  let me := s.clockIndex d
  s.modDie d fun x =>
    { x with vc := c.foldl (fun t e => if e.1 ≠ me ∧ Tbl.get 0 t e.1 < e.2 then Tbl.put 0 t e.1 e.2 else t) x.vc }

/-- A home of die `d` has applied a write (R231). -/
def markWrote (s : State) (d : Nat) : State := if (s.getDie d).wrote then s else s.modDie d fun x => { x with wrote := true }

/-- The sectors that a cache holds of the lines of [l, l + n). -/
def sectorsHeld (t : List (Nat × CSec)) (l n : Nat) : List Nat :=
  (t.map (·.1)).filter fun x => decide (alignDown 128 l ≤ 32 * x) && decide (32 * x < alignUp 128 (l + n))

/-- An engine of die `d` takes ownership of the lines of [l, l + n): the directory of their home recalls and invalidates every L1 copy
there and counts a write; with the acknowledgement the copies on the engine's own die leave, so that no load there returns the old
value from then on (R206, R221, R231, R234). -/
def takeLines (s : State) (d l n : Nat) : State :=
  match homeDie l with
  | none => s
  | some h =>
    if n = 0 then s
    else
      let held := fun (e : Nat) => (s.core.flatMap fun k => if k.1 / 64 = e then sectorsHeld k.2.l1 l n else []).eraseDups
      let s1 := (held h).foldl (fun t x => (t.recallL1 h x none).invalidateL1 h x none) s
      let s2 := if h = d then s1
        else (held d ++ sectorsHeld (s.getDie d).rdc l n).foldl (fun t x => (t.invalidateL1 d x none).dropRdc d x) s1
      s2.markWrote h

/-! ### Copies that an acquire discards (R232, R233) -/

/-- The sectors of a cache but those of lines homed on die `h` whose stamp lies below `v`. -/
def dropBelow (h : Nat) (v : BitVec 32) (t : List (Nat × CSec)) : List (Nat × CSec) :=
  t.filter fun e => !(decide (homeDie (32 * e.1) = some h) && decide (e.2.stamp < v))

/-- The copies of the other die's lines that are older than VC_d leave the RDC of die `d` and the L1 of core `c` (R232). -/
def dropOld (s : State) (d : Nat) (c : Option Nat) : State :=
  let h := 1 - d
  let v := s.vcEntry d (s.clockIndex h)
  let s1 := if (s.getDie d).rdc.isEmpty then s else s.modDie d fun x => { x with rdc := dropBelow h v x.rdc }
  match c with
  | none => s1
  | some n => if (s1.getCore n).l1.isEmpty then s1 else s1.modCore n fun k => { k with l1 := dropBelow h v k.l1 }

/-- Every copy of a line homed on die `h` leaves the caches of the other die (R233). -/
def dropCopies (s : State) (h : Nat) : State :=
  let d := 1 - h
  let keep := fun (e : Nat × CSec) => !decide (homeDie (32 * e.1) = some h)
  let s1 := s.modDie d fun x => { x with rdc := x.rdc.filter keep }
  { s1 with core := s1.core.map fun e => if e.1 / 64 = d then (e.1, { e.2 with l1 := e.2.l1.filter keep }) else e }

/-! ### Releases and acquires -/

/-- The epoch change of die `h`: the other die's copies of its lines leave, every clock entry for it becomes 0, wherever a clock is
held, and W_h becomes 1 (R233). -/
def epochChange (s : State) (h : Nat) : State :=
  let i := s.clockIndex h
  let z : Clock → Clock := Clock.forget i
  let msgs := List.map (Msg.forget i)
  let line := List.map fun (e : Nat × Msg) => (e.1, e.2.forget i)
  let secs := List.map fun (e : Nat × CSec) => (e.1, { e.2 with clocks := e.2.clocks.map fun u => (u.1, z u.2) })
  let thr := fun (t : Thread) => { t with seen := z t.seen, rel := z t.rel, wait := t.wait.map fun w => { w with clock := z w.clock } }
  let s1 := s.dropCopies h
  let s2 : State :=
    { s1 with
      thr := s1.thr.map fun e => (e.1, thr e.2)
      core := s1.core.map fun e =>
        (e.1, { e.2 with sendBuf := msgs e.2.sendBuf, niWait := line e.2.niWait, t6q := msgs e.2.t6q, l1 := secs e.2.l1
                         pushQ := e.2.pushQ.map fun w => { w with clock := z w.clock }
                         inbox := e.2.inbox.map fun m => { m with msg := m.msg.forget i } })
      sets := s1.sets.map fun e => (e.1, { e.2 with sendBuf := msgs e.2.sendBuf, niWait := line e.2.niWait })
      die := s1.die.map fun e =>
        (e.1, { e.2 with vc := z e.2.vc, rdc := secs e.2.rdc
                         cpFifo := e.2.cpFifo.map fun k => { k with clock := z k.clock }
                         dc := e.2.dc.map fun c => (c.1, { c.2 with clock := z c.2.clock })
                         bar := e.2.bar.map fun c => (c.1, { c.2 with clock := z c.2.clock }) })
      part := s1.part.map fun e =>
        (e.1, { e.2 with
          queues := e.2.queues.map fun q =>
            (q.1, q.2.map fun k =>
              { k with
                entries := k.entries.map fun x => { x with clock := z x.clock }
                reports := k.reports.map fun r => { r with pkt := r.pkt.map fun x => { x with clock := z x.clock } } })
          pend := e.2.pend.map fun p => (p.1, msgs p.2) })
      mesh := msgs s1.mesh
      migrants := s1.migrants.map fun g => { g with clock := z g.clock, th := thr g.th }
      carried := (s1.carried.map fun c => (c.1, z c.2)).filter fun c => !c.2.isEmpty
      fencePoint := z s1.fencePoint
      heldClocks := s1.heldClocks.map fun e => (e.1, z e.2)
      postedA := s1.postedA.map (Posted.forget i)
      postedB := s1.postedB.map (Posted.forget i) }
  s2.modDie h fun x => { x with w := 1, wrote := false }

/-- Home `h` counts its writes at a release (R231); a counter that would pass its end starts a new epoch (R233). -/
def countWrites (s : State) (h : Nat) : State :=
  if (s.getDie h).wrote then
    if (s.getDie h).w = 0xFFFFFFFF then s.epochChange h else s.modDie h fun x => { x with w := x.w + 1, wrote := false }
  else s

/-- The steps of a release at DEVICE or SYSTEM scope on die `d` (R231). -/
def releaseOn (s : State) (d : Nat) : State :=
  let s1 := (s.countWrites 0).countWrites 1
  s1.mergeClock d [(s1.clockIndex 0, (s1.getDie 0).w), (s1.clockIndex 1, (s1.getDie 1).w)]

/-- A release by an agent: its later writes and messages carry its die's clock (R226, R231). -/
def release (s : State) (a : Agent) : State :=
  let s1 := s.releaseOn a.dieNo
  s1.modThread a fun t => { t with rel := s1.vcOf a.dieNo }

/-- An acquire at DEVICE or SYSTEM scope by an agent from a value or message that carries clock `k`: the clock is merged and older
copies are discarded (R232). -/
def acquire (s : State) (a : Agent) (k : Clock) : State :=
  (s.mergeClock a.dieNo k).dropOld a.dieNo (if a.isThr then some a.coreNo else none)

/-- The exchange with the fence point: both end with the entrywise maximum (R228). The fence point of a domain is die 0 of device 0: on
another device the reply's clock comes from outside (R432, R433). -/
def exchangeFence (s : State) (d : Nat) : State :=
  if field s.domain 0 2 = 0 then
    let s1 := s.mergeClock d s.fencePoint
    { s1 with fencePoint := joinClock s1.fencePoint (s1.vcOf d) }
  else s.mergeClock d ((List.range 8).map fun i => (i, Config.peerClock s.freeCtr i))

/-- Kinds of fence: 1 ACQ, 2 REL, 3 ACQREL, 4 SC; scopes: 0 THREAD to 5 SYSTEM (R224, R225, R241). The release of a fence at DEVICE
or SYSTEM scope by an agent. -/
def fenceRelease (s : State) (a : Agent) (kind scope : Nat) : State :=
  if scope < 4 ∨ kind < 2 then s
  else
    let s1 := s.release a
    if kind = 4 then s1.exchangeFence a.dieNo else s1

/-- Its acquire: from the values that the agent has read (R226, R232). -/
def fenceAcquire (s : State) (a : Agent) (kind scope : Nat) : State :=
  if scope < 4 ∨ kind = 0 ∨ kind = 2 then s else s.acquire a (s.thread a).seen

/-- A fence at DEVICE or SYSTEM scope acts on the clocks. -/
def fenceClock (s : State) (a : Agent) (kind scope : Nat) : State := (s.fenceRelease a kind scope).fenceAcquire a kind scope

end State

end Sys2Proof.Machine
end

