-- ==== Sys2Proof/Machine/Counters.lean ====
section
/-! DEFINITION. Dependence counters and barriers at their home, and who waits on them (R365 to R371). -/

namespace Sys2Proof.Machine

/-- WCTR's or CCTR's word of a launch packet: enabled, and its die and counter (R303). -/
def launchCtr (w : Word) : Option (Nat × Nat) := if bitAt w 63 then some (field w 12 1, field w 0 12) else none

namespace State

/-- Marks every blocked agent whose wait satisfies `p` as released, with the clock that its release carries; the first release counts. -/
def releaseWaiters (s : State) (p : WaitKind → Bool) (k : Clock := []) : State :=
  { s with thr := s.thr.map fun e =>
      match e.2.wait with
      | some w => if p w.kind && !w.released then (e.1, { e.2 with wait := some { w with released := true, clock := k } }) else e
      | none => e }

/-- Some agent is blocked on a wait that satisfies `p`. -/
def someWaits (s : State) (p : WaitKind → Bool) : Bool :=
  s.thr.any fun e => match e.2.wait with
    | some w => p w.kind
    | none => false

/-- Partition `p` holds dependence counter `i` of die `d` (R364, R365). -/
def holdsDc (s : State) (p d i : Nat) : Bool := decide (Tbl.get 0 (s.getDie d).grantDc (i / 64) = p + 1)
/-- Partition `p` holds barrier `i` of die `d`. -/
def holdsBar (s : State) (p d i : Nat) : Bool := decide (Tbl.get 0 (s.getDie d).grantBar (i / 64) = p + 1)
/-- Partition `p` holds slate `i` of die `d`. -/
def holdsSlate (s : State) (p d i : Nat) : Bool := decide (Tbl.get 0 (s.getDie d).grantSlate (i / 16) = p + 1)

/-- Dependence counter `i` of die `d`. -/
def dc (s : State) (d i : Nat) : DepCtr := Tbl.get {} (s.getDie d).dc i

/-- Changes a dependence counter. -/
def setDc (s : State) (d i : Nat) (c : DepCtr) : State := s.modDie d fun x => { x with dc := Tbl.put {} x.dc i c }

/-- Barrier `i` of die `d`. -/
def bar (s : State) (d i : Nat) : Barrier := Tbl.get {} (s.getDie d).bar i

/-- Changes a barrier. -/
def setBar (s : State) (d i : Nat) (b : Barrier) : State := s.modDie d fun x => { x with bar := Tbl.put {} x.bar i b }

/-- The wait is on dependence counter `i` of die `d`. -/
def onDc (d i : Nat) : WaitKind → Bool
  | .dc d' i' _ => decide (d' = d ∧ i' = i)
  | _ => false

/-- The wait is on barrier `i` of die `d`. -/
def onBar (d i : Nat) : WaitKind → Bool
  | .bar d' i' _ _ => decide (d' = d ∧ i' = i)
  | _ => false

/-- What an agent waits for is poisoned: every agent whose wait satisfies `p` and has not been released is to take DEPFAULT (R258,
R370, R374). -/
def doomWaiters (s : State) (p : WaitKind → Bool) : State :=
  { s with thr := s.thr.map fun e =>
      match e.2.wait with
      | some w => if p w.kind && !w.released then (e.1, { e.2 with wait := some { w with doomed := true } }) else e
      | none => e }

/-- Changes the blocked packets that wait on counter `i` of die `d` and that nothing has decided yet (R306, R307). -/
def onPackets (s : State) (d i : Nat) (f : QEntry → QEntry) : State :=
  let g := fun (e : QEntry) =>
    if e.blocked && !e.released && !e.doomed && decide (launchCtr (wordAt e.words 2) = some (d, i)) then f e else e
  { s with part := s.part.map fun p =>
      (p.1, { p.2 with queues := p.2.queues.map fun q => (q.1, q.2.map fun k => { k with entries := k.entries.map g }) }) }

/-- Counter `i` of die `d` has come to 0: its waiters and the packets blocked on it are released, with the clock it carries (R306,
R368). -/
def releaseDc (s : State) (d i : Nat) : State :=
  (s.releaseWaiters (onDc d i) (s.dc d i).clock).onPackets d i fun e => { e with released := true, clock := joinClock e.clock (s.dc d i).clock }

/-- Poisons a dependence counter; each poisoning is counted, its waiters are to take DEPFAULT, and the packets blocked on it are lost (R307,
R370). -/
def poisonDc (s : State) (d i : Nat) : State :=
  if (s.dc d i).poison then s
  else
    (((s.setDc d i { s.dc d i with poison := true }).countDie d 3).doomWaiters (onDc d i)).onPackets d i fun e => { e with doomed := true }

/-- Poisons a barrier; each poisoning is counted, and its waiters are to take DEPFAULT (R370). -/
def poisonBar (s : State) (d i : Nat) : State :=
  if (s.bar d i).poison then s else ((s.setBar d i { s.bar d i with poison := true }).countDie d 3).doomWaiters (onBar d i)

/-- DCDEC of R368 at the counter's home, by an amount word, with the clock `k` that the decrement carries (R231, R371): the state
after, and the status. -/
def decDc (s0 : State) (d i : Nat) (amount : Word) (k : Clock) : State × Nat :=
  let s := (s0.mergeClock d k).setDc d i { s0.dc d i with clock := joinClock (s0.dc d i).clock k }
  let c := s.dc d i
  let n := field amount 0 32
  if c.poison then (s, 3)
  else if bitAt amount 63 then (s.poisonDc d i, 3)
  else if n > c.value.toNat then ((s.setDc d i { c with value := 0 }).releaseDc d i, 2)
  else
    let v := c.value - BitVec.ofNat 32 n
    let s1 := s.setDc d i { c with value := v }
    if v = 0 then (s1.releaseDc d i, 1) else (s1, 0)

/-- BARARR of R369 at the barrier's home, with the clock `k` that the arrival carries (R231, R371). -/
def arriveBar (s0 : State) (d i : Nat) (k : Clock) : State :=
  let s := (s0.mergeClock d k).setBar d i { s0.bar d i with clock := joinClock (s0.bar d i).clock k }
  let b := s.bar d i
  if b.poison then s
  else if b.n = 0 then s.poisonBar d i
  else if b.arrivals + 1 = b.n then
    (s.setBar d i { b with arrivals := 0, phase := b.phase + 1 }).releaseWaiters (onBar d i) b.clock
  else s.setBar d i { b with arrivals := b.arrivals + 1 }

/-- A decrement by an agent: a release at DEVICE scope (R371). -/
def decDcBy (s : State) (a : Agent) (d i : Nat) (amount : Word) : State × Nat :=
  let s1 := s.release a
  s1.decDc d i amount (s1.vcOf a.dieNo)

/-- An arrival by an agent: a release at DEVICE scope (R371). -/
def arriveBarBy (s : State) (a : Agent) (d i : Nat) : State :=
  let s1 := s.release a
  s1.arriveBar d i (s1.vcOf a.dieNo)

/-- A completion decrement by a unit of die `e`: a release at DEVICE scope (R258, R371). -/
def decDcOn (s : State) (e d i : Nat) (amount : Word) : State :=
  let s1 := s.releaseOn e
  (s1.decDc d i amount (s1.vcOf e)).1

/-- A completion arrival by a unit of die `e`: a release at DEVICE scope (R258, R371). -/
def arriveBarOn (s : State) (e d i : Nat) : State :=
  let s1 := s.releaseOn e
  s1.arriveBar d i (s1.vcOf e)

end State

end Sys2Proof.Machine
end

