-- ==== Sys2Proof/Machine/Regions.lean ====
section
/-! DEFINITION. The handler table and its block (R335, R336), the RCBs with their inheritance (R313, R339, R340), and the
windows (R337), as the hardware reads them. -/

namespace Sys2Proof.Machine

namespace State

/-! ### Handler table and block -/

/-- ULM address of the handler table of core `c`: HTAB bits [19:7] (R335). -/
def htabBase (s : State) (c : Nat) : Nat := 128 * field (s.getCore c).htab 7 13

/-- The doubleword at offset `o` from HTAB of core `c` (R336). -/
def block (s : State) (c o : Nat) : Word := s.ulmWord c ((s.htabBase c + o) % 0x100000)

/-- ULM address of offset `o` of the block. -/
def blockAddr (s : State) (c o : Nat) : Nat := (s.htabBase c + o) % 0x100000

/-- Doubleword 0 of handler entry `h` (R335). -/
def handler0 (s : State) (c h : Nat) : Word := s.block c (16 * h)

/-- RCB field of handler entry `h` (R335). -/
def handlerRcb (s : State) (c h : Nat) : Word := s.block c (16 * h + 8)

end State

/-- States of a handler entry (R20, R335). -/
inductive HState where
  | unbound | bound | exited
  deriving DecidableEq, Repr

/-- MASK of an entry (R335). -/
def hMask (w : Word) : Nat := field w 44 6
/-- PRIO of an entry. -/
def hPrio (w : Word) : Nat := field w 50 6
/-- PREG of an entry. -/
def hPreg (w : Word) : Nat := field w 56 4
/-- REMOTE of an entry. -/
def hRemote (w : Word) : Bool := bitAt w 60
/-- RESIDENT of an entry. -/
def hResident (w : Word) : Bool := bitAt w 61
/-- ENTRY of an entry. -/
def hEntry (w : Word) : Word := ofN (field w 0 20)

/-- The state of an entry as delivery treats it: 0b11, and RESIDENT with other than one thread, count as EXITED (R335). -/
def hState (w : Word) : HState :=
  match field w 62 2 with
  | 0 => .unbound
  | 1 => if hResident w && decide (popNat 6 (hMask w) ≠ 1) then .exited else .bound
  | _ => .exited

namespace State

/-- Persistent-region record `i`, doubleword 0 (R336). -/
def pregRec (s : State) (c i : Nat) : Word := s.block c (0x1040 + 16 * i)
/-- Base of persistent region `i`. -/
def pregBase (s : State) (c i : Nat) : Nat := field (s.pregRec c i) 0 20
/-- Size of persistent region `i`. -/
def pregSize (s : State) (c i : Nat) : Nat := field (s.pregRec c i) 21 21
/-- Persistent region `i` is declared. -/
def pregV (s : State) (c i : Nat) : Bool := decide ((s.getCore c).htab ≠ 0) && bitAt (s.pregRec c i) 61
/-- RSTATE of persistent region `i`: 0 RESIDENT, 1 SPILLING, 2 SPILLED, 3 FILLING (R214, R336). -/
def pregState (s : State) (c i : Nat) : Nat := field (s.pregRec c i) 62 2

/-- The declared persistent region that holds ULM byte `a`, if any. -/
def pregAt (s : State) (c a : Nat) : Option Nat :=
  (List.range 16).find? fun i => s.pregV c i && decide (s.pregBase c i ≤ a) && decide (a < s.pregBase c i + s.pregSize c i)

/-- ULM byte `a` lies in the code area: the intervals system software has laid out, and the handler-table block (R30, R335,
DEDUCED, log entry 9). -/
def inCode (s : State) (c a : Nat) : Bool :=
  ((s.getCore c).code.any fun i => decide (i.1 ≤ a) && decide (a < i.2)) ||
  (decide ((s.getCore c).htab ≠ 0) && decide (s.htabBase c ≤ a) && decide (a < s.htabBase c + 7728))

/-- Inbox pool: base and slot count (R336). -/
def poolBase (s : State) (c : Nat) : Nat := field (s.block c 0x1008) 0 20
def poolSlots (s : State) (c : Nat) : Nat := 2 ^ field (s.block c 0x1008) 32 4
/-- Address of inbox slot `i`. -/
def slotAddr (s : State) (c i : Nat) : Nat := s.poolBase c + 80 * i
/-- Service slot `i` (R336). -/
def serviceSlot (s : State) (c i : Nat) : Nat := s.blockAddr c (0x1380 + 80 * i)
/-- Return cell of thread `t`, T0 to T6 (R336). -/
def returnCell (s : State) (c t : Nat) : Nat := s.blockAddr c (if t = 6 then 0x1DD0 else 0x11A0 + 80 * t)
/-- Stack top of thread `t`, T0 to T6 (R336). -/
def stackTop (s : State) (c t : Nat) : Word := if t = 6 then s.block c 0x1E20 else s.block c (0x1010 + 8 * t)
/-- Virtual address of the message save area of thread `t` (R336). -/
def saveArea (s : State) (c t : Nat) : Word := s.block c (0x1170 + 8 * t)
/-- The core region (R336). -/
def coreRegion (s : State) (c : Nat) : Word := if (s.getCore c).htab = 0 then 0 else s.block c 0x1E28

/-! ### RCBs -/

/-- Where doubleword `i` of the RCB at a virtual address of partition `p` lies, and its key (R339); none where no range of the
partition holds the RCB, or only one of another world (R411; DEDUCED, log entry 12). -/
def rcbLoc (s : State) (p : Nat) (rcb : Word) : Option (Nat × Nat) :=
  match (s.getPart p).find rcb.toNat 128 with
  | some (_, r) =>
    if (r.key ≠ 0 ∧ (s.keyOf r.key).isNone) ∨ (r.world ∧ !(s.getPart p).secure) then none
    else
      match placeOf (r.pbase + (rcb.toNat - r.vbase)) with
      | .hbm _ => some (r.pbase + (rcb.toNat - r.vbase), r.key)
      | _ => none
  | none => none

/-- Doubleword `i` of an RCB; 0 where none stands. -/
def rcbWord (s : State) (p : Nat) (rcb : Word) (i : Nat) : Word :=
  match s.rcbLoc p rcb with
  | some (l, k) => bytesWord (s.plain (l + 8 * i) 8 k)
  | none => 0

/-- Writes doubleword `i` of an RCB, a field that the device keeps; both dies see it at once (R221, R339). -/
def putRcbWord (s : State) (p : Nat) (rcb : Word) (i : Nat) (v : Word) : State :=
  match s.rcbLoc p rcb with
  | some (l, k) => ((s.putPlain (l + 8 * i) k (wordBytes v)).ackAt 0 (l + 8 * i) 8).ackAt 1 (l + 8 * i) 8
  | none => s

/-- The RCBs from a region to its root, at most `n` of them; none where the chain does not end within them. -/
def rcbChain (s : State) (p : Nat) : Nat → Word → Option (List Word)
  | 0, _ => none
  | n + 1, r =>
    let par := s.rcbWord p r 0
    if par = 0 then some [r] else (s.rcbChain p n par).map (r :: ·)

/-- The region at `rcb` is valid (R340). -/
def regionValid (s : State) (p : Nat) (rcb : Word) : Bool :=
  match s.rcbChain p 16 rcb with
  | none => false
  | some l =>
    l.all fun r =>
      let w1 := s.rcbWord p r 1
      bitAt w1 63 && decide (field w1 59 3 = field (s.rcbWord p rcb 1) 59 3) &&
      (!bitAt w1 43 || (decide (1 ≤ field (s.rcbWord p r 3) 0 20) && decide (field (s.rcbWord p r 3) 0 20 ≤ 1000000)))

/-- The nearest RCB of the chain that overrides bit `b`: the effective value's RCB, none beyond the root (R313, R340). -/
def overrider (s : State) (p : Nat) (rcb : Word) (b : Nat) : Option Word :=
  match s.rcbChain p 16 rcb with
  | none => none
  | some l => l.find? fun r => bitAt (s.rcbWord p r 1) b

/-- An effective field: doubleword `i` bits from `lo`, with override bit `b` and its root default (R313). -/
def effField (s : State) (p : Nat) (rcb : Word) (b i lo width dflt : Nat) : Nat :=
  match s.overrider p rcb b with
  | some r => field (s.rcbWord p r i) lo width
  | none => dflt

/-- Effective priority. -/
def effPrio (s : State) (p : Nat) (rcb : Word) : Nat := s.effField p rcb 47 2 58 6 0
/-- Effective ceiling: a child's never exceeds its parent's (R313). -/
def effCeil (s : State) (p : Nat) (rcb : Word) : Nat :=
  match s.rcbChain p 16 rcb with
  | none => 63
  | some l => l.foldl (fun m r => if bitAt (s.rcbWord p r 1) 46 then min m (field (s.rcbWord p r 2) 52 6) else m) 63
/-- Effective default relative deadline in ns. -/
def effDl (s : State) (p : Nat) (rcb : Word) : Nat := s.effField p rcb 45 2 0 40 0
/-- Effective launch budget. -/
def effBudget (s : State) (p : Nat) (rcb : Word) : Nat := s.effField p rcb 44 3 48 16 65535
/-- Effective miss-event enable. -/
def effMiss (s : State) (p : Nat) (rcb : Word) : Nat := s.effField p rcb 42 2 51 1 0
/-- Effective pin. -/
def effPin (s : State) (p : Nat) (rcb : Word) : Nat := s.effField p rcb 41 2 50 1 0
/-- Effective watchdog in ns; the root default for no region or an invalid one (R29, R41). -/
def effWatchdog (s : State) (p : Nat) (rcb : Word) : Nat :=
  if rcb = 0 ∨ !s.regionValid p rcb then 1000000 else 1000 * s.effField p rcb 43 3 0 20 1000

/-- The fault domain of a region: logical core and handler id (R41, R313, R340). -/
def faultDomain (s : State) (p : Nat) (rcb : Word) : Option (Nat × Nat) :=
  if rcb = 0 ∨ !s.regionValid p rcb then none
  else
    match s.overrider p rcb 40 with
    | none => none
    | some r =>
      let w := s.rcbWord p r 4
      if bitAt w 15 then some (field w 8 7, field w 0 8) else none

/-- Pending queue depth of a region, or none where it has no pending queue (R282, R339). -/
def pendDepth (s : State) (p : Nat) (rcb : Word) : Option Nat :=
  if rcb = 0 ∨ !s.regionValid p rcb then none
  else
    let w := s.rcbWord p rcb 5
    if field w 7 57 = 0 then none else some (2 ^ field w 0 5)

/-! ### Windows -/

/-- Some open window of core `c` admits partition `p` with every needed kind, and covers the bytes [a, a + n) (R337). -/
def windowBytes (s : State) (c p : Nat) (rd wr : Bool) (a n : Nat) : Bool :=
  (List.range 8).any fun i =>
    let w := Tbl.get 0 (s.getCore c).win i
    bitAt w 63 && decide (field w 60 3 = p) && (!rd || bitAt w 58) && (!wr || bitAt w 57) &&
    decide (field w 0 20 ≤ a) && decide (a + n ≤ field w 0 20 + field w 20 21)

/-- Some open window admits a message from partition `p` to handler `h` (R337). -/
def windowMsg (s : State) (c p h : Nat) : Bool :=
  (List.range 8).any fun i =>
    let w := Tbl.get 0 (s.getCore c).win i
    bitAt w 63 && decide (field w 60 3 = p) && bitAt w 59 && decide (field w 48 8 = h)

end State

end Sys2Proof.Machine
end

