-- ==== Sys2Proof/Machine/Ni.lean ====
section
/-! DEFINITION. Messages and the NI: headers (R270, R271), the send buffer (R274, R275), service items (R390, R391), FAULT
messages (R393), trace records (R407) and the delay account (R384). -/

namespace Sys2Proof.Machine

/-! ### Headers (R270) -/

/-- Header word 0 from its fields; LATE, NACK and REPLAY clear. -/
def mkHdr0 (tag dh dc sh sc kind len sub : Nat) : Word :=
  ofN (tag % 65536 * 2 ^ 48 + dh % 256 * 2 ^ 40 + dc % 128 * 2 ^ 33 + sh % 256 * 2 ^ 25 + sc % 128 * 2 ^ 18 +
    kind % 16 * 2 ^ 14 + len % 16 * 2 ^ 10 + sub % 128)

def Msg.tag (m : Msg) : Nat := field m.hdr0 48 16
def Msg.dh (m : Msg) : Nat := field m.hdr0 40 8
def Msg.dc (m : Msg) : Nat := field m.hdr0 33 7
def Msg.sh (m : Msg) : Nat := field m.hdr0 25 8
def Msg.sc (m : Msg) : Nat := field m.hdr0 18 7
def Msg.kind (m : Msg) : Nat := field m.hdr0 14 4
def Msg.len (m : Msg) : Nat := field m.hdr0 10 4
def Msg.late (m : Msg) : Bool := bitAt m.hdr0 9
def Msg.nack (m : Msg) : Bool := bitAt m.hdr0 8
def Msg.replay (m : Msg) : Bool := bitAt m.hdr0 7
def Msg.sub (m : Msg) : Nat := field m.hdr0 0 7
/-- CTX kind: 0 to 6 a thread, 7 other (R270). -/
def Msg.ctxKind (m : Msg) : Nat := field m.hdr1 61 3
/-- CTX low bits: a generation, or the code of kind 7 (R270). -/
def Msg.ctxLow (m : Msg) : Nat := field m.hdr1 48 13
/-- The low 48 bits of the time of acceptance. -/
def Msg.ts (m : Msg) : Nat := field m.hdr1 0 48
/-- Payload doubleword `i`, 0 where the message has none. -/
def Msg.word (m : Msg) (i : Nat) : Word := if i < m.len then wordAt m.payload i else 0

/-- The virtual channel: 0 request, 1 reply, 2 reduction, 3 system (R271). -/
def Msg.channel (m : Msg) : Nat :=
  if m.nack then 1
  else match m.kind with
    | 4 => 1
    | 6 => 2
    | 7 => 3
    | 8 => 3
    | _ => 0

/-- The bytes of a message as the NI writes them: header and LEN payload doublewords (R268, PRESUMED, log entry 13). -/
def Msg.bytes (m : Msg) : List Byte :=
  wordBytes m.hdr0 ++ wordBytes m.hdr1 ++ (List.range m.len).flatMap fun i => wordBytes (wordAt m.payload i)

/-- The message of an 80-byte image (R278). -/
def Msg.ofBytes (b : List Byte) : Msg :=
  let w := bytesWords (b.take 80)
  { hdr0 := wordAt w 0, hdr1 := wordAt w 1, payload := (w.drop 2).take (field (wordAt w 0) 10 4) }

/-- A time of 48 bits extended against the timebase (R270). -/
def extendTs (now : Word) (ts : Nat) : Word :=
  let d := (now.toNat + 2 ^ 48 - ts % 2 ^ 48) % 2 ^ 48
  if d < 2 ^ 47 then now - ofN d else now - ofN d + ofN (2 ^ 48)

/-- The unit of an agent in the network (R14): its core, or its Set node. -/
def Agent.unit : Agent → Nat
  | .thr c _ => c
  | .seq n _ => 128 + n

namespace State

/-- CTX of an agent in the high bits of header word 1 (R270). -/
def ctxOf (s : State) (a : Agent) : Word :=
  match a with
  | .thr _ 7 => ofN (7 * 2 ^ 61)
  | .thr _ t => ofN (t * 2 ^ 61 + (s.thread a).gen.toNat * 2 ^ 48)
  | .seq _ q => ofN (7 * 2 ^ 61 + (q + 1) * 2 ^ 48)

/-- SH of an agent: the handler that started its activation or active message; 0 for T7 and sequencers (R270). -/
def shOf (s : State) (a : Agent) : Nat := if a.isAct || a.isT6 then (s.thread a).hid else 0

/-- A message of an agent with destination word fields, before the NI accepts it (R274). -/
def mkMsg (s : State) (a : Agent) (tag dh dc kind sub : Nat) (payload : List Word) : Msg :=
  { hdr0 := mkHdr0 tag dh dc (s.shOf a) (s.coordOf a) kind payload.length sub
    hdr1 := s.ctxOf a
    payload := payload
    src := a.unit
    part := s.partOf a }

/-! ### Send buffer (R274, R275) -/

/-- The send buffer and the line of requests of a unit. -/
def sendQ (s : State) (u : Nat) : List Msg × List (Nat × Msg) :=
  if u < 128 then ((s.getCore u).sendBuf, (s.getCore u).niWait) else ((s.getSet (u - 128)).sendBuf, (s.getSet (u - 128)).niWait)

/-- Replaces them. -/
def setSendQ (s : State) (u : Nat) (b : List Msg) (w : List (Nat × Msg)) : State :=
  if u < 128 then s.modCore u fun k => { k with sendBuf := b, niWait := w }
  else s.modSet (u - 128) fun k => { k with sendBuf := b, niWait := w }

/-- Die of a unit of the network. -/
def unitDie (u : Nat) : Nat := if u < 128 then u / 64 else if u < 144 then (u - 128) / 8
  else if u < 160 then (u - 144) % 2 else (u - 160) / 64

/-- The message as the NI accepts it: TS is the timebase then (R274). -/
def stamp (s : State) (m : Msg) : Msg := { m with hdr1 := setField m.hdr1 0 48 s.timebase.toNat }

/-- The NI accepts a message into the send buffer for the agent of key `key`, or of its own accord (a key from 4096 on): sending is
a release, whose clock the message carries (R229, R231). -/
def placeSend (s : State) (u key : Nat) (m : Msg) : State :=
  let s1 := if key < 4096 then s.release (Agent.ofKey key) else s.releaseOn (unitDie u)
  let q := s1.sendQ u
  s1.setSendQ u (q.1 ++ [{ s1.stamp m with clock := s1.vcOf (unitDie u) }]) q.2

/-- Pushes of the agent's write-bound streams that are still to be performed (R242). -/
def pushesPending (s : State) (a : Agent) : Bool :=
  match a with
  | .thr c t => (s.getCore c).pushQ.any fun w => decide (w.tid = t)
  | .seq _ _ => false

/-- A message of the agent with this key is a release and waits for the pushes before it (R229, R231). -/
def sendHeld (s : State) (key : Nat) : Bool := decide (key < 4096) && s.pushesPending (Agent.ofKey key)

/-- A request of the agent with this key for a send-buffer entry: granted at once when there is room, nobody waits and its message waits for
no push, else it takes its place in the line (R275). -/
def requestSend (s : State) (u key : Nat) (m : Msg) : State :=
  let q := s.sendQ u
  if q.1.length < 4 ∧ q.2.isEmpty ∧ s.sendHeld key = false then s.placeSend u key m else s.setSendQ u q.1 (q.2 ++ [(key, m)])

/-- Requests of an agent still wait in the line. (A FAULT message waits there under no agent's key: it holds up no thread.) -/
def sendPending (s : State) (a : Agent) : Bool := (s.sendQ a.unit).2.any fun e => decide (e.1 = a.key)

/-- Edge agents send straight into the mesh: a release on their die, to the core that DC names (R16, R229). -/
def edgeSend (s : State) (m : Msg) : State :=
  let s1 := s.releaseOn (unitDie m.src)
  let d := if m.kind = 4 then m.dst else (s.physOf m.dc).getD m.dc
  { s1 with mesh := s1.mesh ++ [{ s1.stamp m with dst := d, clock := s1.vcOf (unitDie m.src) }] }

/-! ### Service items (R390, R391) -/

/-- T7's queue of core `c` holds 32 items. -/
def t7Full (s : State) (c : Nat) : Bool :=
  decide (32 ≤ (s.getCore c).t7q.length + b2n (s.getCore c).t7cur.isSome)

/-- The lowest service slot that no item holds (DESIGN CHOICE, log entry 14). -/
def freeServiceSlot (s : State) (c : Nat) : Nat :=
  let k := s.getCore c
  let used := k.t7q.map (·.slot) ++ (match k.t7cur with
    | some i => [i.slot]
    | none => [])
  ((List.range 32).find? fun i => !used.contains i).getD 0

/-- The item word (R391). -/
def itemWord (code sub : BitVec 8) (kind thr : Nat) : Word :=
  ofN (code.toNat * 2 ^ 56 + sub.toNat * 2 ^ 48 + kind % 16 * 2 ^ 44 + thr % 8 * 2 ^ 40)

/-- An item of the core itself enters T7's queue with its record in its slot (R391). -/
def enterItem (s : State) (c : Nat) (it : Item) : State :=
  let slot := s.freeServiceSlot c
  (s.putUlm c (s.serviceSlot c slot) (wordsBytes it.record)).modCore c fun k => { k with t7q := k.t7q ++ [{ it with slot := slot }] }

/-- Raises an item with the record of R391; where T7's queue has no room it waits for it (DESIGN CHOICE, log entry 14). -/
def appendItem (s : State) (c : Nat) (code sub : BitVec 8) (kind : Nat) (thr : Option Nat) (tval epc actid actst : Word)
    (ref : ItemRef := .nothing) : State :=
  let w := itemWord code sub kind (thr.getD 0)
  let it : Item := { word := w, kind := kind, thr := thr, act := actid, ref := ref
                     record := [w, 0, tval, epc, actid, actst, s.timebase, 0, 0, 0] }
  if s.t7Full c then s.modCore c fun k => { k with itemWait := k.itemWait ++ [it] } else s.enterItem c it

/-- The items that wait for room enter T7's queue, oldest first, as far as it has room. -/
def admitItems (s : State) (c : Nat) : State :=
  (List.range 32).foldl (fun t _ =>
    match (t.getCore c).itemWait with
    | [] => t
    | it :: rest => if t.t7Full c then t else (t.enterItem c it).modCore c fun k => { k with itemWait := rest }) s

/-- Appends a message item: KIND 1, or 5 for FAULT and SERVICE messages; the slot holds the message (R391). -/
def appendMsgItem (s : State) (c kind : Nat) (m : Msg) (overflow : Bool) : State :=
  let slot := s.freeServiceSlot c
  let w := itemWord 0 0 kind 0
  let s1 := s.putUlm c (s.serviceSlot c slot) m.bytes
  s1.modCore c fun k => { k with t7q := k.t7q ++ [{ word := w, slot := slot, kind := kind, overflow := overflow }] }

/-! ### FAULT messages (R393) -/

/-- Word 3 of a FAULT message. -/
def faultWord3 (s : State) (c tid rtk hid : Nat) (code sub : BitVec 8) : Word :=
  ofN (code.toNat * 2 ^ 56 + sub.toNat * 2 ^ 48 + field (s.lcidOf c) 0 7 * 2 ^ 41 + tid % 8 * 2 ^ 38 + rtk % 4 * 2 ^ 8 + hid % 256)

/-- A FAULT message from T7 of core `c` (or from the die's CP) to a region's fault domain; without one nothing is sent, an
invalid region is counted, and the fault is counted as an escalation of core `c` unless it has been (`told`) (R340, R393; log entry
84: the core of a fault that no core took). -/
def sendFault (s : State) (c part : Nat) (rcb : Word) (byCp : Bool) (code : BitVec 8) (payload : List Word) (told : Bool := false) :
    State :=
  match s.faultDomain part rcb with
  | some (dc, dh) =>
    if byCp then
      s.edgeSend { hdr0 := mkHdr0 0 dh dc 0 (64 * (c / 64)) 7 payload.length code.toNat, hdr1 := ofN (7 * 2 ^ 61 + 5 * 2 ^ 48),
                   payload := payload, src := 144 + c / 64, part := part }
    else s.requestSend c (4096 + c) (s.mkMsg (.thr c 7) 0 dh dc 7 code.toNat payload)
  | none =>
    let s1 := if told then s else s.countCore c 0x14
    if rcb ≠ 0 ∧ !s.regionValid part rcb then s1.countDie (c / 64) 4 else s1

/-- The FAULT message for the activation of a thread, whose escalation is counted already (R393). -/
def sendThreadFault (s : State) (c tid : Nat) (t : Thread) (byCp : Bool) (code sub : BitVec 8) (tval epc : Word) : State :=
  s.sendFault c (s.partOf (.thr c tid)) t.rcb byCp code
    [t.actid, tval, epc, s.faultWord3 c tid t.rtk t.hid code sub] true

/-! ### Trace (R407) -/

/-- A trace session covers core `c`: TRCMASK, like the per-core MMIO blocks, names physical cores (DESIGN CHOICE, log entry 85). -/
def traced (s : State) (c : Nat) : Bool :=
  decide ((s.getDie (c / 64)).trace.status = 1) && bitAt (s.getDie (c / 64)).trace.live (c % 64)

/-- Writes a trace record: WRAP overwrites the oldest, STOP ends the session with status FULL (R407). -/
def traceRecord (s : State) (c : Nat) (rec : List Word) : State :=
  if !s.traced c then s else
  s.modDie (c / 64) fun d =>
    let t := d.trace
    if t.recs.length < 16384 then
      { d with trace := { t with recs := t.recs ++ [rec], status := if t.stopMode ∧ t.recs.length + 1 = 16384 then 4 else 1 } }
    else { d with trace := { t with recs := t.recs.drop 1 ++ [rec] } }

/-- Doubleword 0 of a record: TYPE, the coordinates of core `c` or of the Set of a sequencer, TAG and entry address (R15, R407). -/
def traceWord0 (s : State) (a : Agent) (ty tid tag entry : Nat) : Word :=
  ofN (ty * 2 ^ 60 + s.coordOf a * 2 ^ 53 + tid % 8 * 2 ^ 50 + tag % 65536 * 2 ^ 32 + entry % 2 ^ 20)

/-- The record of a retiring activation; `kind` 0 END, 1 DEFER, 2 retake, 3 escalation or kill (R407). -/
def traceRetire (s : State) (c tid : Nat) (t : Thread) (kind : Nat) : State :=
  s.traceRecord c [s.traceWord0 (.thr c tid) 0 tid (field t.msghdr 48 16) t.entryAddr.toNat, t.taken, s.timebase,
    ofN (kind * 2 ^ 62 + b2n (bitAt t.actst 5) * 2 ^ 61 + field t.actid 0 48)]

/-! ### Delay account (R384, R385) -/

/-- KEY of a sender (R385). -/
def delayKey (hdr0 hdr1 : Word) : Word :=
  let code := field hdr1 48 13
  let edge := decide (field hdr1 61 3 = 7) && decide (4 ≤ code) && decide (code ≤ 7)
  ofN (2 ^ 63 + (if edge then 2 ^ 61 + code * 2 ^ 16 else 0) + field hdr0 18 7 * 2 ^ 8 + field hdr0 25 8)

/-- Accounts a message of KIND DATA, EVENT, LAUNCH or RREQ at its retirement (R384). -/
def accountDelay (s : State) (c : Nat) (hdr0 hdr1 arrival taken idle : Word) : State :=
  if 4 ≤ field hdr0 14 4 then s else
  let k := s.getCore c
  let key := delayKey hdr0 hdr1
  let at' := fun i => Tbl.get ({} : DelayEntry) k.delay i
  let e := match (List.range 191).find? fun i => decide ((at' i).key = key) with
    | some i => (i, key)
    | none => match (List.range 191).find? fun i => decide ((at' i).key = 0) with
      | some i => (i, key)
      | none => (191, ofN (2 ^ 63 + 2 ^ 62))
  let ts := extendTs s.timebase (field hdr1 0 48)
  let x := at' e.1
  let y : DelayEntry :=
    { key := e.2, count := x.count + 1
      transit := x.transit + (if ts.toNat ≤ arrival.toNat then arrival - ts else 0)
      wait := x.wait + (taken - arrival)
      run := x.run + (s.timebase - taken - idle) }
  s.modCore c fun k => { k with delay := Tbl.put {} k.delay e.1 y }

end State

end Sys2Proof.Machine
end

