-- ==== Sys2Proof/Machine/Ops.lean ====
section
/-! DEFINITION. The named operations that many meanings share: stores in their place (R24, R121), the journal and its
commits (R25 to R27), taking a trap at user and supervisor level and in a sequencer (R388 to R390, R171, R172), retake and
escalation (R28), a core going OFF (R33, R400), and the return from a trap (R392). -/

namespace Sys2Proof.Machine

namespace State

/-! ### Stores -/

/-- A write of plain bytes at a resolved location by an engine or a unit: memory at its home, or the host window with the requester `src`
(partition, and whether it is secure; R430), or MMIO, where R207 lets no such agent write and the write is discarded and counted. -/
def storeAt (s : State) (l k : Nat) (bs : List Byte) (unc : Bool := false) (src : Nat × Bool := (0, false)) : State :=
  match placeOf l with
  | .mmio =>
    let d := (l - 0x4000000000) / 0x80000000
    if mmioListed d ((l - 0x4000000000) % 0x80000000) then s.countDie d 8 else s
  | .host => 
    { s with hostOut := (List.zipIdx bs).foldl (fun o e => { addr := l + e.2 - 0x800000000000, byte := e.1, vf := src.1, secure := src.2 } :: o) s.hostOut }
  | .hbm d => (s.putPlain l k bs unc).markWrote d
  | .ulm => s.putPlain l k bs
  | .none => s

/-- The values that an agent has written at [l, l + n) carry the clock of its last release, which their home takes (R226, R231). -/
def carryFrom (s : State) (k : Clock) (l n : Nat) : State :=
  match homeDie l with
  | none => s
  | some h => if k.isEmpty then s else (s.carry l n k).mergeClock h k

/-- A store of plain bytes at a resolved location by a thread or sequencer that is not T7 writing MMIO: a thread's goes through the
caches of its core, a sequencer's is acknowledged to its die (R205, R221); a store to an uncacheable range bypasses them (R202). -/
def storeAs (s : State) (a : Agent) (l k : Nat) (bs : List Byte) (unc : Bool := false) : State :=
  match a, placeOf l with
  | .thr c _, .hbm h =>
    let s1 := (s.putPlainRaw l k bs).carryFrom (s.thread a).rel l bs.length
    let s2 := if unc then s1
      else (sectorsOf l bs.length).foldl (writeSector h c s) (s1.countMisses a (if h = c / 64 then sectorsOf l bs.length else []))
    s2.markWrote h
  | .thr _ _, _ => s.storeAt l k bs false (s.partOf a, s.secureOf a)
  | .seq _ _, _ =>
    let s1 := (s.storeAt l k bs unc (s.partOf a, s.secureOf a)).carryFrom (s.thread a).rel l bs.length
    if unc then s1 else s1.ackAt a.dieNo l bs.length

/-- Writes the bytes of a store that its instruction wrote. -/
def storeSome (s : State) (a : Agent) (l k : Nat) (bs : List (Option Byte)) (unc : Bool := false) : State :=
  if bs.all Option.isSome then s.storeAs a l k (bs.map fun b => b.getD 0) unc
  else (List.zipIdx bs).foldl (fun s e => match e.1 with
    | some b => s.storeAs a (l + e.2) k [b] unc
    | none => s) s

/-- Sectors that one store has covered whole lose their poison (R215). -/
def cleanSectors (s : State) (xs : List Nat) : State :=
  if xs.isEmpty then s else { s with poison := s.poison.filter fun e => !xs.contains e.1 }

/-! ### Journal and commits (R25 to R27) -/

/-- Rows 3 and 4 of R24 are still held for this agent: an activation with NR clear. -/
def holds (s : State) (a : Agent) : Bool := a.isAct && !(s.thread a).nr

/-- Performs one journal entry at its commit; a held decrement or arrival is a release then (R229, R371). -/
def performEntry (a : Agent) (s : State) : JEntry → State
  | .store l k _ bs _ xs u => (s.storeSome a l k bs u).cleanSectors xs
  | .msg m => s.requestSend a.unit a.key m
  | .dcdec d i n => (s.decDcBy a d i n).1
  | .bararr d i => s.arriveBarBy a d i

/-- The entry is a journaled store. -/
def isStore : JEntry → Bool
  | .store _ _ _ _ _ _ _ => true
  | .msg _ => false
  | .dcdec _ _ _ => false
  | .bararr _ _ => false

/-- A release of an agent toward die `d` has to wait: for a push of the agent, or for the bridge (R231, R437). -/
def releaseHeld (s : State) (a : Agent) (d : Nat) : Bool := s.pushesPending a || s.bridgeHolds a d

/-- A journaled store still has to wait for an engine, or an entry for the bridge, or a decrement or arrival for a push (R206, R209, R231,
R437). -/
def commitBlocked (s : State) (a : Agent) : Bool :=
  (s.thread a).journal.any fun e => match e with
    | .store l _ _ bs _ _ _ => s.blocked l bs.length true || s.acrossBridge a.dieNo l
    | .msg _ => false
    | .dcdec d _ _ => s.releaseHeld a d
    | .bararr d _ => s.releaseHeld a d

/-- Commits the journaled stores in program order, then passes the held messages in issue order (R26, R27). -/
def commit (s : State) (a : Agent) : State :=
  let j := (s.thread a).journal
  let s1 := s.modThread a fun t => { t with journal := [], actst := setField t.actst 16 13 0 }
  (j.filter fun e => !isStore e).foldl (performEntry a) ((j.filter isStore).foldl (performEntry a) s1)

/-- The partial commit of R26, with its cause: 1 JOURNAL, 2 ACTION, 3 MIGRATE. It commits a journal that an error has struck as it stands:
the error counts at END (DESIGN CHOICE, log entry 93). -/
def partialCommit (s : State) (a : Agent) (cause : Nat) : State :=
  ((s.commit a).modThread a fun t => { t with actst := setField (t.actst ||| 4) 3 2 cause }).countEvent a.coreNo a.tid 0x0C

/-- Adds a journal entry of the given cost (R25). -/
def addJournal (s : State) (a : Agent) (e : JEntry) (cost : Nat) : State :=
  s.modThread a fun t => { t with journal := t.journal ++ [e], actst := setField t.actst 16 13 (t.jcnt + cost) }

/-- An action of the last row of R24 that has passed its checks, with the cause of its partial commit: on an activation with NR
clear the partial commit comes first, and while its messages wait for the NI so does the action (R26, R275). -/
def actAs (s : State) (cause : Nat) (k : State → Out) : Out :=
  if s.holds s.cur then
    if s.commitBlocked s.cur then .next s
    else
      let s1 := s.partialCommit s.cur cause
      if s1.sendPending s.cur then .next s1 else k s1
  else if s.sendPending s.cur then .next s
  else k s

/-- The same with cause ACTION. -/
def act (s : State) (k : State → Out) : Out := s.actAs 2 k

/-- An action that is a release waits for the pushes of its agent (R229, R231). -/
def actRelease (s : State) (k : State → Out) : Out := s.act fun s1 => if s1.pushesPending s1.cur then .next s1 else k s1

/-- An action of rows 3 and 4 of R24: into the journal while NR is clear and it fits, after a partial commit when it does not,
and at issue once NR is set. -/
def held (s : State) (cost : Nat) (record : State → State) (now : State → Out) (done : State → State) : Out :=
  if s.holds s.cur then
    if s.me.jcnt + cost ≤ 4096 then .next (done (record s))
    else if s.commitBlocked s.cur then .next s
    else
      let s1 := s.partialCommit s.cur 1
      if s1.sendPending s.cur then .next s1 else now s1
  else if s.sendPending s.cur then .next s
  else now s

/-! ### Ends of activations -/

/-- The obligations of a launch packet at its activation's end (R311): the completion counter, by a release (R371), and the region's
budget. -/
def completeLaunch (s : State) (c : Nat) (t : Thread) (bad : Bool) : State :=
  if !t.launch then s else
  let p := s.partOf (.thr c 0)
  let s1 := match t.cctr with
    | some k => s.decDcOn (c / 64) (k / 4096) (k % 4096) (if bad then 1 <<< 63 else 1)
    | none => s
  let w := s1.rcbWord p t.rcb 12
  s1.putRcbWord p t.rcb 12 (setField w 0 16 (field w 0 16 - 1))

/-- A core whose last activation of its old stage has retired belongs to its new stage (R39). One that was retaken and waits in the inbox
counts as retired and still runs later: R384 calls a retake a retirement, R17 no end (DESIGN CHOICE, log entry 106). -/
def settleStage (s : State) (c : Nat) : State :=
  match (s.getCore c).stageNext with
  | none => s
  | some _ =>
    let busy := (List.range 6).any fun i =>
      let t := s.thread (.thr c i)
      (t.launch && (decide (t.st = .run) || decide (t.st = .wait) || decide (t.st = .stopped))) ||
      (match t.hosted with
        | some h => h.launch
        | none => false)
    if busy then s else s.modCore c fun k => { k with stageNext := none, stageMoved := some s.timebase }

/-- Removes an agent from the lines of the semaphores, and the request of its waiting send, the last of its requests, from that of
the NI: a waiter that is pre-empted or trapped leaves them. Messages that a commit has passed to the NI stay (R26, R174, R275). -/
def leaveLines (s : State) (a : Agent) : State :=
  let s1 := if (s.getSet a.setNo).semLine.isEmpty then s else
    s.modSet a.setNo fun k => { k with semLine := k.semLine.filter fun e => !decide (e.2.1 = some a.key) }
  if (s.thread a).wait.any fun w => decide (w.kind = .send) then
    s1.setSendQ a.unit (s1.sendQ a.unit).1 ((s1.sendQ a.unit).2.reverse.eraseP fun e => decide (e.1 = a.key)).reverse
  else s1

/-- Frees the inbox slot of a retired activation (R268). -/
def freeSlot (s : State) (c : Nat) (slot : Option Nat) : State :=
  match slot with
  | none => s
  | some i => s.modCore c fun k => { k with inbox := k.inbox.filter fun m => !decide (m.slot = i) }

/-- Frees the slot of an activation on core `c`, or of the core it came from (R38, R268). -/
def freeSlotOf (s : State) (c : Nat) (t : Thread) : State := s.freeSlot (t.slotAt.getD c) t.slot

/-- Accounts the retirement of an activation, or of an active message on T6: a trace record for an activation, and the delay
account (R384, R407). -/
def accountEnd (s : State) (c tid : Nat) (t : Thread) (kind : Nat) : State :=
  (if tid < 6 then s.traceRetire c tid t kind else s).accountDelay c (t.msghdr.extractLsb' 0 64) (t.msghdr.extractLsb' 64 64)
    t.arrival t.taken t.idle

/-- The same for the activation on a thread. -/
def accountRetire (s : State) (c tid : Nat) (kind : Nat) : State := s.accountEnd c tid (s.thread (.thr c tid)) kind

/-- The thread after its activation: FREE, or SAVED when it hosts a context (R19), and on T0 to T5 with no register value left
(R87). Pushes that have been made stay with the copy engine (R265). T6 of a core that is OFF is OFF after its operation (R33). -/
def freeThread (s : State) (c tid : Nat) : State :=
  (s.modThread (.thr c tid) fun t =>
    { (if tid < 6 then Thread.blank t else t) with
      st := if t.hosted.isSome then .saved else if tid = 6 ∧ bitAt (s.getCore c).ckstat 16 then .off else .free
      held := .free
      wait := none, journal := [], jbad := false, pendTrap := [], launch := false, cctr := none, slot := none, slotAt := none
      loopActive := false, resident := false, ss := [], cellBusy := false, yielded := false, landing := 0 }).settleStage c

/-- Escalation of R28 (and KILL of R392): the journal and held messages are discarded, the thread becomes FREE and the FAULT
message of R393 goes to the fault domain, from the core or, for a core going OFF, from the die's CP. `tell` is false for the
queue-level reset, which sends none (R408). -/
def escalate (s : State) (c tid : Nat) (byCp tell : Bool) (code sub : BitVec 8) (tval epc : Word) : State :=
  let t := s.thread (.thr c tid)
  let s1 := (s.leaveLines (.thr c tid)).countCore c 0x14
  let s2 := if tell then s1.sendThreadFault c tid t byCp code sub tval epc else s1
  if tid = 6 then (s2.accountRetire c tid 3).freeThread c tid
  else (((s2.accountRetire c tid 3).completeLaunch c t true).freeSlotOf c t).freeThread c tid

/-- Retake of R28: the triggering message goes back to the head of its queue, keeping its ACTID, with the count one higher. -/
def retake (s : State) (c tid : Nat) : State :=
  let t := s.thread (.thr c tid)
  let s1 := ((s.leaveLines (.thr c tid)).countCore c 0x13).accountRetire c tid 2
  let s2 := s1.modCore c fun k =>
    { k with inbox := k.inbox.map fun m =>
        if some m.slot = t.slot then
          { m with taken := false, retake := some (t.actid, t.rtk + 1), readySince := s.timebase, missCounted := t.missCounted }
        else m }
  (s2.freeThread c tid).modThread (.thr c tid) fun t => { t with gen := t.gen + 1 }

/-- An uncorrectable error consumed by the activation of a thread, or a RETAKE disposition: R28 decides. -/
def retakeOrKill (s : State) (c tid : Nat) (code sub : BitVec 8) (tval epc : Word) : State :=
  let t := s.thread (.thr c tid)
  if decide (tid < 6) && !t.nr && decide (t.rtk < 2) && !t.resident then s.retake c tid
  else s.escalate c tid false true code sub tval epc

/-- What the core keeps about the activation of a hosted context, as a thread would hold it; time SAVED is no time of its run. -/
def hostedThread (s : State) (h : Hosted) : Thread :=
  { slot := h.slot, slotAt := h.slotAt, actid := h.actid, actst := h.actst, hid := h.hid, rcb := h.rcb, launch := h.launch, cctr := h.cctr, msghdr := h.msghdr
    arrival := h.arrival, taken := h.taken, idle := h.idle + (s.timebase - h.savedAt), entryAddr := h.entryAddr }

/-- Thread `tid` of core `c` hosts no context any more. -/
def unhost (s : State) (c tid : Nat) : State :=
  (s.modThread (.thr c tid) fun t =>
    if t.st = .saved then { t.blank with hosted := none, resuming := false, restoring := false, st := .free }
    else if t.st = .stopped ∧ t.held = .saved then { t.blank with hosted := none, resuming := false, restoring := false, held := .free }
    else { t with hosted := none, resuming := false, restoring := false }).settleStage c

/-- A hosted context is discarded (R19, R384, R400, R407, R408). -/
def dropHosted (s : State) (c tid : Nat) (byCp tell : Bool) (code sub : BitVec 8) (tval : Word) : State :=
  match (s.thread (.thr c tid)).hosted with
  | none => s
  | some h =>
    let ht := s.hostedThread h
    let s1 := ((s.countCore c 0x14).accountEnd c tid ht 3).freeSlotOf c ht
    let s2 := if tell then s1.sendThreadFault c tid ht byCp code sub tval 0 else s1
    (s2.completeLaunch c ht true).unhost c tid

/-! ### A core goes OFF (R33, R400) -/

/-- The unit that a message came from: for one that was replayed, the core, Set node or edge agent that its SC and CTX name (R270,
R279). -/
def senderUnit (s : State) (m : Msg) : Nat :=
  if !m.loop then m.src
  else if m.ctxKind = 7 ∧ 1 ≤ m.ctxLow ∧ m.ctxLow ≤ 3 then 128 + m.sc / 8
  else if m.ctxKind = 7 ∧ m.ctxLow = 4 then 146 + m.sc / 64
  else if m.ctxKind = 7 ∧ m.ctxLow = 6 then 148 + m.sc / 64
  else if m.ctxKind = 7 ∧ (m.ctxLow = 5 ∨ m.ctxLow = 7) then 144 + m.sc / 64
  else (s.physOf m.sc).getD m.sc

/-- Returns a message to its sender with a NACK code; one that is itself a return, or is a reply, whose CTX names no context of
the core that sent it, is dropped and counted (R279). A message that the NI had received enters the mesh again (R383), uncounted
where a window refused it, of which the core's owner sees nothing (R210). -/
def returnMsg (s : State) (m : Msg) (code : Nat) : State :=
  if m.nack || decide (m.kind = 4) then s.countDie (unitDie m.dst) 1
  else
    let s1 := if m.received && decide (m.dst < 128) && decide (code ≠ 3) then s.countCore m.dst 0x10 else s
    { s1 with mesh := s1.mesh ++
      [{ m with hdr0 := setField (m.hdr0 ||| 0x100) 0 7 code, src := m.dst, dst := s.senderUnit m, received := false, refused := false
                loop := false, last := false }] }

/-- Places a message among others by its number of arrival. -/
def byArrival (m : Msg) : List Msg → List Msg
  | [] => [m]
  | x :: t => if x.arrNo ≤ m.arrNo then x :: byArrival m t else m :: x :: t

/-- Inbox, T6 queue and input buffers of a core that leaves the map return with NOCORE, in arrival order (R33, R343, R400). A DEFERred
message has that of its arrival, not the one it took when it became ready again (DESIGN CHOICE, log entry 105). -/
def returnAll (s : State) (c : Nat) : State :=
  let k := s.getCore c
  let waiting := (k.inbox.filter fun m => !m.taken).map (·.msg)
  let inBuf := s.mesh.filter fun m => m.received && decide (m.dst = c)
  let s1 : State := { s with mesh := s.mesh.filter fun m => !(m.received && decide (m.dst = c)) }
  let s2 := s1.modCore c fun k => { k with inbox := k.inbox.filter (·.taken), t6q := [] }
  ((waiting ++ k.t6q ++ inBuf).foldl (fun l m => byArrival m l) []).foldl (fun s m => s.returnMsg m 2) s2

/-- V of the logical entry that places a physical core is cleared, and the core's LCID reads 0x80 (R342). -/
def leaveMap (s : State) (c : Nat) : State :=
  let l := s.lcidOf c
  if l = 0x80 then s
  else
    ({ s with lcm := Tbl.put none s.lcm l.toNat (some (s.lcmEntry l.toNat &&& 0x7FFF)) } : State).modCore c fun k =>
      { k with lcid := some 0x80 }

/-- T6 is in the middle of an active message that it can go on with: running, or stopped while it ran. -/
def t6Runs (t : Thread) : Bool := decide (t.st = .run) || (decide (t.st = .stopped) && decide (t.held = .run))

/-- A core becomes OFF: by a fault of T7 or a second checker strike. An active message that T6 runs goes on to its end, and T6 is OFF
then; one that a trap of T6 holds ends there, since T7 abandons its item (R33, R400, DEDUCED, log entry 15). A scan that the scan
control started goes on. -/
def coreOff (s : State) (c : Nat) (code sub : BitVec 8) (tval : Word) : State :=
  let s0 := s.modCore c fun k =>
    { k with
      ckstat := setField (k.ckstat ||| 0x10000) 17 1 0, t7q := [], itemWait := [], t7cur := none
      scan := if k.scan.any fun x => x.rd.isNone then k.scan else none }
  let s1 := (List.range 6).foldl (fun s i =>
    let t := s.thread (.thr c i)
    let s' := if t.live then s.escalate c i true true code sub tval t.pc else s
    s'.dropHosted c i true true code sub tval) s0
  let s2 := (s1.leaveMap c).returnAll c
  let t6 := s2.thread (.thr c 6)
  let s3 := if t6Runs t6 then s2 else if t6.live then (s2.accountRetire c 6 3).freeThread c 6 else s2
  (List.range 8).foldl (fun s i =>
    if i = 6 ∧ t6Runs t6 then s else s.modThread (.thr c i) fun t => { t with st := .off, wait := none, pendTrap := [] }) s3

/-- A fault of T7 (R33): the core goes OFF and the CP tells the fault domain of the activation T7 was serving, or of the core
region. -/
def t7Fault (s : State) (c : Nat) (code sub : BitVec 8) (tval epc : Word) : State :=
  let k := s.getCore c
  let served := k.t7cur.bind (·.thr)
  let rcb := match served with
    | some i => (s.thread (.thr c i)).rcb
    | none => s.coreRegion c
  let t7 := s.thread (.thr c 7)
  let w3 := s.faultWord3 c 7 0 0 code sub
  (s.sendFault c (s.partOf (.thr c 7)) rcb true code [t7.actid, tval, epc, w3]).coreOff c code sub tval

/-! ### Sequencer programs end (R171, R172) -/

/-- The sequencer's program ends with an exit value; a trap also records EPC and TVAL. -/
def seqEnd (s : State) (n q : Nat) (exit : Word) (fault : Option (Word × Word)) : State :=
  let s1 := s.leaveLines (.seq n q)
  let s2 := s1.modSet n fun k =>
    let sq := match Tbl.get none k.cur q with
      | some e => e.seqNo
      | none => 0
    { k with
      exits := Tbl.put [] k.exits q (((sq, exit) :: Tbl.get [] k.exits q).take 32)
      lastEnded := Tbl.put 0 k.lastEnded q sq
      cur := Tbl.put none k.cur q none
      lastFault := match fault with
        | some f => Tbl.put (0, 0) k.lastFault q f
        | none => k.lastFault }
  s2.modThread (.seq n q) fun t => { t with st := .free, wait := none, pendTrap := [], loopActive := false }

/-- A trap in a sequencer program (R171, R172): an uncorrectable error also goes to the forker's fault domain (R34). -/
def seqTrap (s : State) (n q : Nat) (code sub : BitVec 8) (tval epc : Word) : State :=
  let rcb := match Tbl.get none (s.getSet n).cur q with
    | some e => e.rcb
    | none => 0
  let s1 := if code = Cause.uncorrectable then
      s.sendFault (8 * n) (s.getSet n).part rcb true code
        [0, tval, epc, ofN (code.toNat * 2 ^ 56 + sub.toNat * 2 ^ 48 + 8 * n * 2 ^ 41)]
    else s
  s1.seqEnd n q (ofN (2 ^ 63 + code.toNat)) (some (epc, tval))

/-! ### Taking a trap (R388 to R390) -/

/-- The TCAUSE word (R83). -/
def causeWord (user imp : Bool) (code sub : BitVec 8) : Word :=
  ofN (b2n user * 2 ^ 63 + b2n imp * 2 ^ 62 + sub.toNat * 2 ^ 8 + code.toNat)

/-- The cause is taken at user level on this thread (R388, R389). -/
def userLevel (t : Thread) (code : BitVec 8) : Bool :=
  decide (code = Cause.futureEmpty) ||
  (decide (t.utvec ≠ 0) && (decide (code = Cause.nack) || decide (code = Cause.fpTrap) ||
    decide (code = Cause.ternaryInvalid) || decide (code = Cause.streamFault)))

/-- A user-level trap: UTEPC, TVAL and TCAUSE are written and control goes to UTVEC (R389). -/
def userTrap (s : State) (a : Agent) (imp : Bool) (code sub : BitVec 8) (tval epc : Word) : State :=
  s.modThread a fun t =>
    { t with utepc := epc, tval := tval, tcause := causeWord true imp code sub, pc := t.utvec, st := .run, wait := none }

/-- A supervisor-level trap on T0 to T6: TCAUSE, TVAL and EPC are written, the thread is held in WAIT and T7's queue takes the
item (R390). -/
def supervisorTrap (s : State) (c tid : Nat) (imp : Bool) (code sub : BitVec 8) (tval epc : Word) : State :=
  let s1 := s.modThread (.thr c tid) fun t =>
    { t with tcause := causeWord false imp code sub, tval := tval, epc := epc, st := .wait, wait := some { kind := .trapHeld } }
  let t := s1.thread (.thr c tid)
  s1.appendItem c code sub 0 (some tid) tval epc t.actid t.actst

/-- TAKING A TRAP: the one operation by which every trap of an instruction or of a boundary is taken (R388 to R390, R33, R172).
A supervisor-level trap that finds T7's queue full leaves the thread where it is, with nothing written. On a core that is OFF only T6
still runs, and no T7 serves it: its operation ends with its FAULT message (DEDUCED, log entry 15). -/
def takeTrap (s : State) (a : Agent) (imp : Bool) (code sub : BitVec 8) (tval epc : Word) : State :=
  match a with
  | .seq n q => s.seqTrap n q code sub tval epc
  | .thr c tid =>
    if userLevel (s.thread a) code then (s.leaveLines a).userTrap a imp code sub tval epc
    else if tid = 7 then s.t7Fault c code sub tval epc
    else if bitAt (s.getCore c).ckstat 16 then s.escalate c tid true true code sub tval epc
    else if s.t7Full c then s
    else (s.leaveLines a).supervisorTrap c tid imp code sub tval epc

/-- The executing instruction of `len` bytes takes a precise trap: EPC is its address. UNCORRECTABLE is imprecise: it is taken
at the next boundary, with EPC at the next instruction (R388, R395). A fault of Translate has dropped the RTB entry that failed
(R326). -/
def raise (s : State) (t : Trap) (len : Nat := 4) : State :=
  if t.code = Cause.uncorrectable then
    s.modMe fun m =>
      { (if len = 0 then m else m.next len) with pendTrap := m.pendTrap ++ [{ code := t.code, sub := t.sub, tval := t.tval }] }
  else
    let s1 := if t.code = Cause.permission ∨ t.code = Cause.partialResidency ∨ t.code = Cause.worldViolation then
        s.dropFailed s.cur t.tval.toNat
      else s
    s1.takeTrap s.cur false t.code t.sub t.tval s.pc

/-- A trap waits to be taken at the agent's boundary, and nothing but an ordinary wait holds it there (R388). -/
def trapReady (s : State) (a : Agent) : Bool :=
  let t := s.thread a
  !t.pendTrap.isEmpty &&
  (decide (t.st = .run) || decide (t.st = .wait)) &&
  match t.wait with
  | none => true
  | some w =>
    match w.kind with
    | .trapHeld => false
    | .ending _ => false
    | .saving _ => false
    | .resident => false
    | .residency _ _ => false
    | .reply => false
    | _ => true

/-- Takes the first pending trap of an agent at its instruction boundary: UNCORRECTABLE by R28 and R395, others imprecisely. -/
def takePending (s : State) (a : Agent) : State :=
  match (s.thread a).pendTrap with
  | [] => s
  | p :: rest =>
    let s1 := s.modThread a fun t => { t with pendTrap := rest }
    let t := s1.thread a
    match a with
    | .seq n q => s1.seqTrap n q p.code p.sub p.tval t.pc
    | .thr c tid =>
      if p.code = Cause.uncorrectable ∧ tid < 7 then s1.retakeOrKill c tid p.code p.sub p.tval t.pc
      else if !userLevel t p.code && decide (tid < 7) && s1.t7Full c then s
      else s1.takeTrap a p.imp p.code p.sub p.tval t.pc

end State

/-- The outcome of a meaning that may stop: a trap is taken, a wait in RUN leaves the instruction to be tried again. -/
def finish (s : State) (r : Res State) (len : Nat := 4) : Out :=
  match r with
  | .ok s' => .next s'
  | .error (.trap t) => .next (s.raise t len)
  | .error .stall => .next s
  | .error .scoreboard => .next (s.stallOn true)
  | .error (.fault f) => .fault f

/-- The same for a meaning whose last part is an outcome. -/
def finishOut (s : State) (r : Res Out) : Out :=
  match r with
  | .ok o => o
  | .error (.trap t) => .next (s.raise t)
  | .error .stall => .next s
  | .error .scoreboard => .next (s.stallOn true)
  | .error (.fault f) => .fault f

/-- The executing instruction takes a trap. -/
def trapOut (s : State) (code : BitVec 8) (tval : Word) (sub : BitVec 8 := 0) : Out := .next (s.raise ⟨code, tval, sub⟩)

/-- ILLEGAL_ISSUER: TVAL is the instruction word (R59, R60, R388). -/
def illegalIssuer (s : State) (e : Enc) : Out := trapOut s Cause.illegalIssuer e.word

/-- PRIVILEGE: TVAL is the instruction word. -/
def privileged (s : State) (e : Enc) : Out := trapOut s Cause.privilege e.word

end Sys2Proof.Machine
end

