-- ==== Sys2Proof/Machine/Mmio.lean ====
section
/-! DEFINITION. Writes into the device MMIO map (R207, R208, R341, R376, R402, R406, R418 to R420, R435), by a master over PF0
or MCTP, by T7 and by the debug port. -/

namespace Sys2Proof.Machine

namespace State

/-- A discarded write, counted in the die's MMIO refusals counter (R207). -/
def refuse (s : State) (d : Nat) : State := s.countDie d 8

/-- Master `m` owns the device (R419). -/
def isOwner (s : State) (m : Nat) : Bool := bitAt s.owner 63 && decide (field s.owner 60 2 = m)

/-- The writer is the owner over PF0: the one master that reaches registers beside OWNCTL (R207). -/
def byOwner (s : State) : Writer → Bool
  | .master m => decide (m = 0) && s.isOwner 0
  | .t7 _ => false
  | .debug => false

/-- The writer is the debug port. -/
def byDebug : Writer → Bool
  | .debug => true
  | .master _ => false
  | .t7 _ => false

/-- The writer is T7 of a core of partition `p`. -/
def byT7Of (s : State) (p : Nat) : Writer → Bool
  | .t7 c => decide (s.partOf (.thr c 7) = p)
  | .master _ => false
  | .debug => false

/-- The writer reaches the device over PF0 while the device is in recovery: PF0 then presents the mailbox alone (R423). -/
def inRecovery (s : State) : Writer → Bool
  | .master m => s.recovery && decide (m = 0)
  | .t7 _ => false
  | .debug => false

/-- Some partition is in RUN. -/
def someRunning (s : State) : Bool := (List.range 8).any fun p => decide ((s.getPart p).state = .running)

/-! ### Ownership (R419, R420) -/

/-- CLAIM by master `m`: it wins only on an unowned device. -/
def claim (s : State) (m : Nat) : State :=
  if bitAt s.owner 63 then s.refuse 0 else { s with owner := ofN (2 ^ 63 + m % 4 * 2 ^ 60) }

/-- OFFER by the owner to master `n`. -/
def offer (s : State) (m n : Nat) : State :=
  if s.isOwner m then { s with owner := setField (setField s.owner 62 1 1) 58 2 n, offerAt := s.timebase } else s.refuse 0

/-- ACCEPT by the master that the offer names, within 100 ms. -/
def accept (s : State) (m : Nat) : State :=
  if bitAt s.owner 63 ∧ bitAt s.owner 62 ∧ field s.owner 58 2 = m ∧ (s.timebase - s.offerAt).toNat ≤ 100000000 then
    { s with owner := ofN (2 ^ 63 + m % 4 * 2 ^ 60) }
  else s.refuse 0

/-- RELEASE by the owner clears OWNED. -/
def ownerRelease (s : State) (m : Nat) : State :=
  if s.isOwner m then { s with owner := setField s.owner 63 1 0 } else s.refuse 0

/-- A write of OWNCTL by master `m` (R208). -/
def writeOwnctl (s : State) (m : Nat) (v : Word) : State :=
  match field v 56 8 with
  | 1 => s.claim m
  | 2 => s.offer m (field v 0 2)
  | 3 => s.accept m
  | 4 => s.ownerRelease m
  | _ => s

/-! ### Device control (R208, R379, R428, R432) -/

/-- DOMAIN: only while no partition is in RUN. -/
def writeDomain (s : State) (v : Word) : State :=
  if s.someRunning then s.refuse 0 else { s with domain := ofN (field v 0 4) }

/-- LTP. -/
def writeLtp (s : State) (v : Word) : State := { s with ltp := ofN (field v 0 3) }

/-- TBSLEW: a rate beyond ±100,000 is clamped. -/
def writeTbslew (s : State) (v : Word) : State :=
  let r := (v.extractLsb' 0 32).toInt
  { s with tbslew := zext64 (BitVec.ofInt 32 (max (-100000) (min 100000 r))) }

/-- TBSTEP: a forward step of the timebase, only while no partition is in RUN. -/
def writeTbstep (s : State) (v : Word) : State :=
  if s.someRunning then s.refuse 0 else { s with timebase := s.timebase + ofN (field v 0 48) }

/-- The MSI-X trigger of function `f`: the vector is raised; one out of range is discarded (R208, R427). -/
def triggerMsix (s : State) (w : Writer) (f : Nat) (v : Word) : State :=
  let n := field v 0 5
  let may := match w with
    | .t7 c => decide (f = 0) || decide (s.partOf (.thr c 7) + 1 = f)
    | .master _ => decide (f = 0) && s.byOwner w
    | .debug => false
  if !may || decide (0 < f ∧ 8 ≤ n) then s.refuse 0
  else { s with msix := Tbl.put 0 s.msix f (Tbl.get 0 s.msix f ||| BitVec.ofNat 32 (2 ^ n)) }

/-- CPBRKn: the owner writes the S fields; a debug-port write may also clear HIT, which resumes the CP (R406). -/
def writeCpbrk (s : State) (w : Writer) (n : Nat) (v : Word) : State :=
  let old := Tbl.get 0 s.cpbrk n
  let hit := bitAt old 61 && !(byDebug w && !bitAt v 61)
  let new := setField (v &&& 0xDFC00000000FFFFF) 61 1 (b2n hit)
  let s1 : State := { s with cpbrk := Tbl.put 0 s.cpbrk n new }
  if bitAt old 61 && !hit then
    s1.modDie (field old 54 1) fun d => { d with cpHalted := false, cpPass := d.cpHalted || d.cpPass }
  else s1

/-! ### Ingress, trees and frames (R341, R376, R435) -/

/-- The partition of an ingress port, 0 to 3 CSI-2 of die 0's numbering and 4 the die's event port; none where not granted. -/
def portOwner (s : State) (d p : Nat) : Option Nat :=
  match Tbl.get 0 (s.getDie d).portPart p with
  | 0 => none
  | n + 1 => some n

/-- The cores of a mask of die `d` all lie in partition `p` (R376). -/
def maskInside (s : State) (d : Nat) (mask : Word) (p : Nat) : Bool :=
  (List.range 64).all fun i => !bitAt mask i || decide (s.partOfLogical (64 * d + i) = p)

/-- The member cores of a slate of die `d`, to which the valid routing entries of its member sources lead, all lie in partition `p` (R341,
R372; DEDUCED, log entry 99). -/
def slateInside (s : State) (d : Nat) (k : Slate) (p : Nat) : Bool :=
  (List.range 64).all fun i =>
    let e := Tbl.get 0 (s.getDie d).routes (64 * field k.ctl 20 2 + i)
    !bitAt k.mask i || !bitAt e 63 || decide (s.partOfLogical (field e 36 7) = p)

/-- An entry of the ingress routing table (R341): refused for another partition's port, ignored and counted when its core or
its slate's members lie outside the port's partition. -/
def writeRoute (s : State) (w : Writer) (d i : Nat) (v : Word) : State :=
  let old := Tbl.get 0 (s.getDie d).routes i
  let mine := fun (e : Word) => match w with
    | .t7 c => decide (s.portOwner d (field e 51 3) = some (s.partOf (.thr c 7)))
    | .master _ => s.byOwner w
    | .debug => false
  if !mine v || (bitAt old 63 && !mine old) then s.refuse d
  else
    let ok := match s.portOwner d (field v 51 3) with
      | none => false
      | some p =>
        decide (s.partOfLogical (field v 36 7) = p) &&
        (!bitAt v 62 || s.slateInside d (Tbl.get {} (s.getDie d).slate (field v 54 8)) p)
    if ok then s.modDie d fun x => { x with routes := Tbl.put 0 x.routes i (v &&& 0xFFFFFFFFFFF00000) } else s.countDie d 6

/-- A doubleword of a reduction tree's entry (R376). -/
def writeTree (s : State) (w : Writer) (d t j : Nat) (v : Word) : State :=
  let old := Tbl.get {} (s.getDie d).trees t
  let mine := fun (e : Word) => s.byOwner w || s.byT7Of (field e 60 3) w
  let new : RedTree := if j = 0 then { old with dw0 := v &&& 0xFFFFFFFFFE000000, round := 0 } else { old with members := v }
  if !mine new.dw0 || (bitAt old.dw0 63 && !mine old.dw0) then s.refuse d
  else if 2 ≤ j then s
  else
    let p := field new.dw0 60 3
    let root := field new.dw0 49 7
    if decide (11 ≤ field new.dw0 56 4) || decide (root / 64 ≠ d) || decide (s.partOfLogical root ≠ p) ||
        !s.maskInside d new.members p then s.countDie d 7
    else
      let lost := old.inputs.length + b2n old.result.isSome
      let s1 := s.modDie d fun x => { x with trees := Tbl.put {} x.trees t { new with inputs := [], result := none } }
      (List.range lost).foldl (fun s _ => s.countDie d 7) s1

/-- Doubleword `j` of the frame target of port `p` and virtual channel `v` (R435). -/
def writeFrameTarget (s : State) (w : Writer) (i : Nat) (v : Word) : State :=
  let p := i / 16
  let mine := s.byOwner w || (match s.portOwner 0 p with
    | some n => s.byT7Of n w
    | none => false)
  if !mine then s.refuse 0
  else
    let old := Tbl.get 0 s.frameTgt i
    let new := match i % 4 with
      | 1 => v &&& 0x8FFFFFFFFFFF0000
      | 3 => (old &&& 0xFFFFFFFF00000000) ||| (v &&& 0xFF)
      | _ => v
    { s with frameTgt := Tbl.put 0 s.frameTgt i new }

/-! ### Halt groups (R402 to R404) -/

/-- A core or Set node is a member of group `g` of die `d`, or of the linked group of the other die. -/
def inGroup (s : State) (d g die : Nat) (hgm : BitVec 32) : Bool :=
  bitAt hgm g &&
  (decide (die = d) ||
    (bitAt (Tbl.get 0 (s.getDie 0).hgc g) 0 && bitAt (Tbl.get 0 (s.getDie 1).hgc g) 0))

/-- Membership word of core `c`. -/
def coreHgm (s : State) (c : Nat) : BitVec 32 := Tbl.get 0 (s.getDie (c / 64)).hgm (c % 64)
/-- Membership word of the node of Set `n`. -/
def setHgm (s : State) (n : Nat) : BitVec 32 := Tbl.get 0 (s.getDie (n / 8)).hgmSet (n % 8)

/-- Every thread of core `c` is STOPPED, or OFF with its core. -/
def coreAtRest (s : State) (c : Nat) : Bool :=
  (s.getCore c).stop.isSome &&
  (List.range 8).all fun i =>
    decide ((s.thread (.thr c i)).st = .stopped) || decide ((s.thread (.thr c i)).st = .off)

/-- The Set node is at rest: no entry streams and no load has started (R196). -/
def setAtRest (s : State) (n : Nat) : Bool :=
  (s.getSet n).stop.isSome && !((s.getSet n).engQ.any (·.streaming)) && !((s.getSet n).loadQ.any (·.started))

/-- Group `g` of die `d` has members, and each has come to rest with its record written (R402, R404). -/
def groupAtRest (s : State) (d g : Nat) : Bool :=
  let cs := (List.range 128).filter fun c => s.inGroup d g (c / 64) (s.coreHgm c)
  let ns := (List.range 16).filter fun n => s.inGroup d g (n / 8) (s.setHgm n)
  (!cs.isEmpty || !ns.isEmpty) &&
  cs.all (fun c => s.coreAtRest c && (s.getCore c).stop.any (·.atRest)) && ns.all fun n => s.setAtRest n

/-- A stopped thread returns to the state it held; time STOPPED is no time of its run (R19, R384). -/
def resumeThread (s : State) (a : Agent) : State :=
  s.modThread a fun t =>
    if t.st = .stopped then { t with st := t.held, held := .free, idle := t.idle + (s.timebase - t.stopAt) } else t

/-- Core `c` resumes. -/
def resumeCore (s : State) (c : Nat) : State :=
  let s1 := (List.range 8).foldl (fun s i => s.resumeThread (.thr c i)) s
  s1.modCore c fun k => { k with stop := none }

/-- The node of Set `n` resumes. -/
def resumeSet (s : State) (n : Nat) : State :=
  let s1 := (List.range 3).foldl (fun s q => s.resumeThread (.seq n q)) s
  s1.modSet n fun k => { k with stop := none }

/-- STOPPED reads 0 of every group of which a member is not at rest (R402). -/
def unmarkGroups (s : State) : State :=
  (List.range 64).foldl (fun t i =>
    if bitAt (Tbl.get 0 (t.getDie (i / 32)).hgc (i % 32)) 2 && !s.groupAtRest (i / 32) (i % 32) then
      t.modDie (i / 32) fun x => { x with hgc := Tbl.put 0 x.hgc (i % 32) (setField (Tbl.get 0 x.hgc (i % 32)) 2 1 0) }
    else t) s

/-- STOPPED of every group as its members stand, once the membership has changed (R402). -/
def remarkGroups (s : State) : State :=
  (List.range 64).foldl (fun t i =>
    t.modDie (i / 32) fun x =>
      { x with hgc := Tbl.put 0 x.hgc (i % 32) (setField (Tbl.get 0 x.hgc (i % 32)) 2 1 (b2n (s.groupAtRest (i / 32) (i % 32)))) }) s

/-- GO of a group: every member resumes, and STOPPED reads 0 of every group that has one of them. -/
def groupGo (s : State) (d g : Nat) : State :=
  let s1 := (List.range 128).foldl (fun t c => if s.inGroup d g (c / 64) (s.coreHgm c) then t.resumeCore c else t) s
  ((List.range 16).foldl (fun t n => if s.inGroup d g (n / 8) (s.setHgm n) then t.resumeSet n else t) s1).unmarkGroups

/-- HGC of group `g` (R402). -/
def writeHgc (s : State) (d g : Nat) (v : Word) : State :=
  let s0 := s.modDie d fun x => { x with hgc := Tbl.put 0 x.hgc g (setField (Tbl.get 0 x.hgc g) 0 2 (field v 0 2)) }
  let s1 := if bitAt (Tbl.get 0 (s.getDie d).hgc g) 0 = bitAt v 0 then s0 else s0.remarkGroups
  if bitAt v 3 then s1.groupGo d g else s1

/-! ### Core, Set and trace controls (R136, R208, R407, R408, R418) -/

/-- Core `c` is granted to a partition that is in CONFIG_UNLOCKED (R208, R418). -/
def coreUnlocked (s : State) (c : Nat) : Bool :=
  (s.getCore c).assigned && decide ((s.getPart (s.partOf (.thr c 7))).state = .unlocked)

/-- The preconditions of a scan: T0 to T6 are FREE or SAVED and the copy engine is idle (R136). -/
def scanReady (s : State) (c : Nat) : Bool :=
  ((List.range 7).all fun i =>
    let t := s.thread (.thr c i)
    decide (t.st = .free) || decide (t.st = .saved)) &&
  (s.getCore c).ce.live.isEmpty && (s.getCore c).pushQ.isEmpty

/-- SCANCTL of core `c` (R208): START runs a scan on an OFF core or when the preconditions hold; otherwise the write is
counted. -/
def writeScanctl (s : State) (c : Nat) (v : Word) : State :=
  let k := s.getCore c
  if bitAt v 0 then
    if k.scan.isNone ∧ (bitAt k.ckstat 16 ∨ s.scanReady c) then
      (s.emptyL1 c).modCore c fun k =>
        { k with
          scanCtl := setField (setField k.scanCtl 8 6 (field v 8 6)) 63 1 1
          scan := some { abortPrio := field v 8 6, rd := none, start := s.timebase } }
    else s.refuse (c / 64)
  else s.modCore c fun k => { k with scanCtl := setField k.scanCtl 8 6 (field v 8 6) }

/-- Starts the queue-level reset of core `c` (R408). -/
def startCoreReset (s : State) (c : Nat) : State := s.modCore c fun k => { k with resetting := true }
/-- Starts the reset of Set `n` (R408). -/
def startSetReset (s : State) (n : Nat) : State := s.modSet n fun k => { k with resetting := true }

/-- TRCCTL: OPEN starts a session over TRCMASK, 0 closes it COMPLETE (R208, R407). -/
def writeTrcctl (s : State) (d : Nat) (v : Word) : State :=
  s.modDie d fun x =>
    let t := x.trace
    if bitAt v 0 then
      { x with trace := { t with status := 1, ctlMode := bitAt v 1, stopMode := bitAt v 1, live := t.mask, loss := false, recs := [] } }
    else { x with trace := { t with status := if t.status = 1 then 2 else t.status, ctlMode := bitAt v 1 } }

/-! ### The map (R207) -/

/-- An aligned 8-byte write of `v` at offset `q` of die `d`'s half. -/
def mmioWrite8 (s : State) (w : Writer) (d q : Nat) (v : Word) : State :=
  let own := s.byOwner w
  let debug := byDebug w
  if s.inRecovery w && (decide (d ≠ 0) || decide (q < 0x100000) || decide (0x101000 ≤ q)) then s.refuse d
  else if !mmioListed d q then s
  else if q < 0x1000 then
    if d ≠ 0 then s
    else if q = 0 then
      match w with
      | .master m => s.writeOwnctl m v
      | .t7 _ => s.refuse 0
      | .debug => s.refuse 0
    else if q = 8 then (if own then s.writeDomain v else s.refuse 0)
    else if q = 0x10 then (if own then s.writeLtp v else s.refuse 0)
    else if q = 0x18 then s.refuse 0
    else if q = 0x20 then (if own then s.writeTbslew v else s.refuse 0)
    else if q = 0x28 then (if own then s.writeTbstep v else s.refuse 0)
    else if 0x400 ≤ q ∧ q < 0x448 then s.triggerMsix w ((q - 0x400) / 8) v
    else s
  else if q < 0x2000 then (if d ≠ 0 then s else s.refuse 0)
  else if q < 0x2040 then
    if d ≠ 0 then s else if own || debug then s.writeCpbrk w ((q - 0x2000) / 8) v else s.refuse 0
  else if 0x10000 ≤ q ∧ q < 0x10100 then (if d ≠ 0 then s else s.refuse 0)
  else if 0x20000 ≤ q ∧ q < 0x20800 then s.writeRoute w d ((q - 0x20000) / 8) v
  else if 0x21000 ≤ q ∧ q < 0x210A0 then s.refuse d
  else if 0x22000 ≤ q ∧ q < 0x22200 then (if d ≠ 0 then s else s.writeFrameTarget w ((q - 0x22000) / 8) v)
  else if 0x30000 ≤ q ∧ q < 0x30800 then s.writeTree w d ((q - 0x30000) / 32) ((q - 0x30000) / 8 % 4) v
  else if 0x40000 ≤ q ∧ q < 0x40100 then (if own || debug then s.writeHgc d ((q - 0x40000) / 8) v else s.refuse d)
  else if 0x40200 ≤ q ∧ q < 0x40400 then
    if own || debug then (s.modDie d fun x => { x with hgm := Tbl.put 0 x.hgm ((q - 0x40200) / 8) (v.setWidth 32) }).remarkGroups
    else s.refuse d
  else if 0x40400 ≤ q ∧ q < 0x40440 then
    if own || debug then (s.modDie d fun x => { x with hgmSet := Tbl.put 0 x.hgmSet ((q - 0x40400) / 8) (v.setWidth 32) }).remarkGroups
    else s.refuse d
  else if 0x50000 ≤ q ∧ q < 0x52000 then s.refuse d
  else if 0x60000 ≤ q ∧ q < 0x60800 then
    let c := 64 * d + (q - 0x60000) / 32
    let mine := own || s.byT7Of (s.partOf (.thr c 7)) w
    match (q - 0x60000) / 8 % 4 with
    | 0 => if mine then (if bitAt v 0 then s.startCoreReset c else s) else s.refuse d
    | 1 => if mine then s.writeScanctl c v else s.refuse d
    | 2 =>
      if own && s.coreUnlocked c then s.modCore c fun k => { k with htabInit := v &&& 0xFFF80 } else s.refuse d
    | _ => s
  else if 0x61000 ≤ q ∧ q < 0x61040 then
    let n := 8 * d + (q - 0x61000) / 8
    if own || s.byT7Of (s.getSet n).part w then (if bitAt v 0 then s.startSetReset n else s) else s.refuse d
  else if q = 0x70000 then (if debug then s.writeTrcctl d v else s.refuse d)
  else if q = 0x70008 then
    if debug then s.modDie d fun x => { x with trace := { x.trace with mask := v } } else s.refuse d
  else if q = 0x70010 then s.refuse d
  else if 0x80000 ≤ q ∧ q < 0x80058 then s.refuse d
  else if 0x100000 ≤ q ∧ q < 0x101000 then
    if d ≠ 0 then s else if own || s.inRecovery w then { s with mbox := Tbl.put 0 s.mbox ((q - 0x100000) / 8) v } else s.refuse 0
  else s

/-- A write into the ULM load window of core `c` at byte `a`: by the owner, of any length that stays in the window, while the
core is granted to a partition in CONFIG_UNLOCKED (R418). -/
def loadWindowWrite (s : State) (w : Writer) (c a : Nat) (bs : List Byte) : State :=
  if s.byOwner w && s.coreUnlocked c && decide (a + bs.length ≤ 0x100000) then s.putUlm c a bs else s.refuse (c / 64)

/-- A write of bytes at a physical address of the map (R207): an aligned doubleword reaches the register, a narrower write to
one changes nothing and is counted. -/
def mmioWrite (s : State) (w : Writer) (pa : Nat) (bs : List Byte) : State :=
  let o := pa - 0x4000000000
  let d := o / 0x80000000
  let q := o % 0x80000000
  if 0x40000000 ≤ q ∧ q < 0x44000000 then s.loadWindowWrite w (64 * d + (q - 0x40000000) / 0x100000) (q % 0x100000) bs
  else if bs.length = 8 ∧ q % 8 = 0 then s.mmioWrite8 w d q (bytesWord bs)
  else if mmioListed d q then s.refuse d
  else s

/-- What the owner over PF0, another master, or the debug port reads of the map, by the column "Read by" of R207; T7 reads as an agent.
In recovery PF0 presents the mailbox alone (R423). The debug port reads the blocks whose column names it, but no register of R77 beside BOOTREC, so no CPBRK (R75, R207, R417; DEDUCED, log
entry 97). -/
def mmioReads (s : State) (w : Writer) (d o : Nat) : Bool :=
  let inside := fun (a b : Nat) => decide (a ≤ o) && decide (o < b)
  let boot := inside 0x1000 0x2000
  if s.inRecovery w then inside 0x100000 0x101000
  else match w with
    | .t7 c => s.mmioReader (.thr c 7) d o
    | .master m => mmioOpen d o || decide (o < 8) || (decide (m = 0) && boot) || (s.byOwner w && !boot)
    | .debug =>
      mmioOpen d o || boot || inside 0x21000 0x210A0 || inside 0x40000 0x40440 || inside 0x50000 0x52000 ||
        inside 0x70000 0x70018 || inside 0x80000 0x80058

/-- `n` bytes of the map at a physical address as a master over PF0, T7 or the debug port reads them (R75, R207, R428). -/
def mmioReadBy (s : State) (w : Writer) (pa n : Nat) : List Byte := s.mmioReadIf (s.mmioReads w) pa n

/-- The registers of R75 that the debug port reads: the PC that a stop record captures for thread `t` of core `c`, CKSTAT of core `c`, and
BOOTREC. -/
def debugPc (s : State) (c t : Nat) : Word :=
  bytesWord (s.mmioReadBy .debug (0x4000050000 + c / 64 * 0x80000000 + 128 * (c % 64) + 8 * (4 + t)) 8) &&& 0x00FFFFFFFFFFFFFF
def debugCkstat (s : State) (c : Nat) : Word := (s.getCore c).ckstat
def debugBootrec (s : State) : Word := bytesWord (s.mmioReadBy .debug 0x4000001000 8)

/-- A store of an agent at a resolved location: T7 writes MMIO registers, every other agent's write there is discarded. -/
def storeBy (s : State) (a : Agent) (l k : Nat) (bs : List Byte) (unc : Bool := false) : State :=
  match a, placeOf l with
  | .thr c 7, .mmio => s.mmioWrite (.t7 c) l bs
  | _, _ => s.storeAs a l k bs unc

end State

end Sys2Proof.Machine
end

