-- ==== Sys2Proof/Machine/Access.lean ====
section
/-! DEFINITION. Stores in the place of R121: the checks, what goes through the journal (R24, R25) and what is performed at
issue; and reads that do not see the journal (R264). -/

namespace Sys2Proof.Machine

/-- A store that has passed its checks: its address, where it lies, its bytes (none: not written) and its journal cost. -/
structure StoreReq where
  va : Word
  acc : Acc
  bs : List (Option Byte)
  cost : Nat
  /-- the sectors that the instruction's stores, of which this is the last, cover whole (R215) -/
  clean : List Nat := []
  deriving DecidableEq, Repr

/-- The sectors that the stores of one instruction cover whole (R215). -/
def wholeSectors (reqs : List StoreReq) : List Nat :=
  let bytes := reqs.flatMap fun r => (List.zipIdx r.bs).filterMap fun b => if b.1.isSome then some (r.acc.loc + b.2) else none
  if bytes.length < 32 then []
  else ((bytes.map fun b => b / 32).eraseDups).filter fun x => (List.range 32).all fun i => bytes.contains (32 * x + i)

/-- The stores of one instruction, with what they cover whole noted on the last. -/
def noteWhole (reqs : List StoreReq) : List StoreReq :=
  match reqs.reverse with
  | [] => []
  | r :: t => (({ r with clean := wholeSectors reqs } : StoreReq) :: t).reverse

namespace State

/-- The declared persistent region of a resolved location in the agent's own ULM, if any. -/
def ownPregAt (s : State) (a : Agent) (loc : Nat) : Option Nat :=
  match a with
  | .thr c _ => if locCore loc = some c then s.pregAt c (loc - ulmLoc c 0) else none
  | .seq _ _ => none

/-- R121 refuses a store of the agent at a resolved location: the code area for all but T7, a persistent region other than
the activation's own for T0 to T5. -/
def storeRefused (s : State) (a : Agent) (loc : Nat) : Bool :=
  match a with
  | .seq _ _ => false
  | .thr c t =>
    if locCore loc ≠ some c then false
    else
      (decide (t < 7) && s.inCode c (loc - ulmLoc c 0)) ||
      (decide (t < 6) && (match s.pregAt c (loc - ulmLoc c 0) with
        | some i => !((s.thread a).pregDecl && decide (i = (s.thread a).preg))
        | none => false))

/-- The checks of R120, MemStore and R121 for a store of `n` bytes. -/
def storeCheck (s : State) (a : Agent) (va : Word) (n : Nat) : Res Acc := do
  let acc ← s.resolve a va n kindW
  check (!s.storeRefused a acc.loc) Cause.permission va
  .ok acc

/-- The location is scratch ULM of the agent's own core, or a sequencer's local memory (R24, R168). -/
def isScratch (s : State) (a : Agent) (loc : Nat) : Bool :=
  match a with
  | .seq n q => decide (seqLoc n q 0 ≤ loc) && decide (loc < seqLoc n q 0x20000)
  | .thr c _ => decide (locCore loc = some c) && (s.pregAt c (loc - ulmLoc c 0)).isNone && !s.inCode c (loc - ulmLoc c 0)

/-- A store of the agent at the location goes through the journal (R24, R121): an activation with NR clear, into global memory
or its own persistent region. -/
def journaled (s : State) (a : Agent) (loc : Nat) : Bool :=
  s.holds a && (decide (loc < 2 ^ 48) || (s.ownPregAt a loc).isSome)

/-- Performs a checked store at issue. -/
def storeNow (a : Agent) (s : State) (r : StoreReq) : State :=
  let s1 := s.useRtb a r.va.toNat r.bs.length kindW
  let s2 := if r.bs.all Option.isSome then s1.storeBy a r.acc.loc r.acc.key (r.bs.map fun b => b.getD 0) r.acc.rng.uncached
    else s1.storeSome a r.acc.loc r.acc.key r.bs r.acc.rng.uncached
  s2.cleanSectors r.clean

/-- Records a checked store in the journal. -/
def storeJournal (a : Agent) (s : State) (r : StoreReq) : State :=
  (s.useRtb a r.va.toNat r.bs.length kindW).addJournal a (.store r.acc.loc r.acc.key r.va r.bs r.cost r.clean r.acc.rng.uncached) r.cost

/-- The stores of one instruction of the executing agent, all checked: each is performed at issue or journaled by its place,
and the whole waits, before anything is performed or recorded, while an engine owns a line that one of them writes (R26, R121, R153, R206,
R209, R240) or the bridge that it crosses retrains (R437). -/
def storeAll (s : State) (stores : List StoreReq) (done : State → State) : Out :=
  let a := s.cur
  let reqs := noteWhole stores
  let js := noteWhole (stores.filter fun r => s.journaled a r.acc.loc)
  let ns := noteWhole (stores.filter fun r => !s.journaled a r.acc.loc)
  let waits := reqs.any fun r => s.blocked r.acc.loc r.bs.length true || s.acrossBridge a.dieNo r.acc.loc
  if waits then .next (s.stallOn (reqs.any fun r => (locCore r.acc.loc).isSome && s.blocked r.acc.loc r.bs.length true))
  else if js.isEmpty then .next (done (ns.foldl (storeNow a) s))
  else
    s.held ((js.map (·.cost)).sum) (fun s => js.foldl (storeJournal a) (ns.foldl (storeNow a) s))
      (fun s1 => .next (done (reqs.foldl (storeNow a) s1))) done

/-- A scalar store of R120 by the executing agent: alignment, then the checks, then its place; it uses 8 bytes of journal and
its size rounded up to 8. -/
def storeScalar (s : State) (ea : Word) (bs : List Byte) (len : Nat := 4) : Out :=
  match (do
    check (decide (ea.toNat % bs.length = 0)) Cause.misaligned ea
    let acc ← s.storeCheck s.cur ea bs.length
    .ok acc : Res Acc) with
  | .ok acc => s.storeAll [{ va := ea, acc := acc, bs := bs.map some, cost := 8 + alignUp 8 bs.length }] fun t => t.adv len
  | .error e => finish s (.error e) len

/-- Bytes at an address as an engine of the agent reads them: at their home, its journal not seen (R256, R264). -/
def loadRaw (s : State) (a : Agent) (va : Word) (n : Nat) : Res (List Byte) := do
  let acc ← s.resolve a va n kindR
  (s.modThread a fun t => { t with journal := [] }).readVia s a acc va n

/-- What such a read leaves in the caches of the home die and of its own (R205, R221). -/
def readBack (s : State) (a : Agent) (va : Word) (n : Nat) : State :=
  match s.resolve a va n kindR with
  | .ok acc => if acc.rng.uncached then s else (s.useRtb a va.toNat n kindR).readFrom a.dieNo acc.loc n
  | .error _ => s

/-! ### The range scoreboard (R209) -/

/-- A new scoreboard entry, rounded out to sectors (R209). -/
def sbEntry (a n : Nat) (w : Bool) (o : SbOwner) : SbEntry := { lo := alignDown 32 a, hi := alignUp 32 (a + n), write := w, owner := o }

/-- Registers an interval in the scoreboard of core `c`. -/
def addSb (s : State) (c : Nat) (e : SbEntry) : State := s.modCore c fun k => { k with sb := k.sb ++ [e] }

/-- Retires an owner's entries in every scoreboard. -/
def retireSb (s : State) (o : SbOwner) : State :=
  { s with core := s.core.map fun e =>
      if e.2.sb.any fun x => decide (x.owner = o) then (e.1, { e.2 with sb := e.2.sb.filter fun x => !decide (x.owner = o) }) else e }


end State

end Sys2Proof.Machine
end

