-- ==== Sys2Proof/Machine/Flags.lean ====
section
/-! DEFINITION. Number formats, rounding and the flags they raise (R89 to R109): every floating-point value is decoded to an
exact number, computed on exactly and rounded once. Flags are a byte in the order of SFLAGS[7:0]. -/

namespace Sys2Proof.Machine

/-! ### Flags (R80, R81, R85) -/

/-- The sticky flags NV, DZ, OF, UF, NX, SATF, TERNBAD and BLKINV in bits 0 to 7, as SFLAGS places them (R85). -/
abbrev FFlags := BitVec 8

namespace Flag
def none : FFlags := 0
def nv : FFlags := 0x01
def dz : FFlags := 0x02
def of : FFlags := 0x04
def uf : FFlags := 0x08
def nx : FFlags := 0x10
def satf : FFlags := 0x20
def ternbad : FFlags := 0x40
def blkinv : FFlags := 0x80
end Flag

/-- The flag when the condition holds. -/
def flagIf (c : Bool) (f : FFlags) : FFlags := if c then f else 0

/-! ### Formats (R92) -/

/-- A floating-point format: exponent bits, fraction bits, bias, and whether it is E4M3, which has no infinity. -/
structure Fmt where
  eb : Nat
  fb : Nat
  bias : Nat
  e4m3 : Bool := false
  e5m2 : Bool := false
  deriving DecidableEq, Repr

def fp64 : Fmt := { eb := 11, fb := 52, bias := 1023 }
def fp32 : Fmt := { eb := 8, fb := 23, bias := 127 }
def fp36 : Fmt := { eb := 8, fb := 27, bias := 127 }
def fp16 : Fmt := { eb := 5, fb := 10, bias := 15 }
def bf16 : Fmt := { eb := 8, fb := 7, bias := 127 }
def fpE5m2 : Fmt := { eb := 5, fb := 2, bias := 15, e5m2 := true }
def fpE4m3 : Fmt := { eb := 4, fb := 3, bias := 7, e4m3 := true }

/-- Width in bits. -/
def Fmt.width (f : Fmt) : Nat := 1 + f.eb + f.fb
/-- Exponent of the smallest normal. -/
def Fmt.emin (f : Fmt) : Int := 1 - f.bias
/-- The code of the largest finite value, sign clear. -/
def Fmt.maxCode (f : Fmt) : Nat := if f.e4m3 then 0x7E else (2 ^ f.eb - 1) * 2 ^ f.fb - 1
/-- The code of infinity, sign clear. -/
def Fmt.infCode (f : Fmt) : Nat := (2 ^ f.eb - 1) * 2 ^ f.fb
/-- The canonical NaN. -/
def Fmt.qnan (f : Fmt) : Nat := if f.e4m3 then 0x7F else f.infCode + 2 ^ (f.fb - 1)
/-- A code with its sign. -/
def Fmt.signed (f : Fmt) (neg : Bool) (code : Nat) : Nat := b2n neg * 2 ^ (f.eb + f.fb) + code

/-- A number that a format holds or an operation computes: a NaN, an infinity, or the real (−1)^neg · m · 2^e; with `more`
the real lies strictly between m and m + 1 times 2^e. -/
inductive Num where
  | nan (signalling : Bool)
  | inf (neg : Bool)
  | real (neg : Bool) (m : Nat) (e : Int) (more : Bool)
  deriving DecidableEq, Repr

/-- The value of a code of a format (R92, R93). -/
def Fmt.decode (f : Fmt) (v : Nat) : Num :=
  let neg := v.testBit (f.eb + f.fb)
  let e := v / 2 ^ f.fb % 2 ^ f.eb
  let m := v % 2 ^ f.fb
  if f.e4m3 then
    if e = 15 ∧ m = 7 then .nan false
    else if e = 0 then .real neg m (f.emin - f.fb) false
    else .real neg (m + 2 ^ f.fb) (e - f.bias - f.fb) false
  else if e = 2 ^ f.eb - 1 then (if m = 0 then .inf neg else .nan (m / 2 ^ (f.fb - 1) = 0))
  else if e = 0 then .real neg m (f.emin - f.fb) false
  else .real neg (m + 2 ^ f.fb) (e - f.bias - f.fb) false

/-- An integer as a number. -/
def Num.ofInt (i : Int) : Num := .real (decide (i < 0)) i.natAbs 0 false

/-- The sign of a number; a NaN counts as positive. -/
def Num.neg : Num → Bool
  | .nan _ => false
  | .inf s => s
  | .real s _ _ _ => s

/-- The number is a NaN. -/
def Num.isNan : Num → Bool
  | .nan _ => true
  | _ => false

/-- NV for a signalling NaN (R93). -/
def Num.snan : Num → FFlags
  | .nan true => Flag.nv
  | _ => 0

/-- The number is zero. -/
def Num.isZero : Num → Bool
  | .real _ 0 _ false => true
  | _ => false

/-- The number with its sign inverted (R93). -/
def Num.negate : Num → Num
  | .nan s => .nan s
  | .inf s => .inf !s
  | .real s m e x => .real (!s) m e x

/-! ### Rounding (R94 to R96) -/

/-- RoundInt of m / 2^d under a mode (R94): the integer, and whether anything was lost. `more` says that the real lies a little
above m; it comes only with d > 0. -/
def roundShift (mode : Nat) (neg : Bool) (m d : Nat) (more : Bool) : Nat × Bool :=
  let q := m / 2 ^ d
  let r := m % 2 ^ d
  let inexact := decide (r ≠ 0) || more
  let above := decide (2 ^ d < 2 * r) || (decide (2 * r = 2 ^ d) && more)
  let tie := decide (2 * r = 2 ^ d) && !more
  let up := match mode with
    | 0 => above || (tie && decide (q % 2 = 1))
    | 1 => false
    | 2 => inexact && neg
    | 3 => inexact && !neg
    | _ => above || tie
  (if up then q + 1 else q, inexact)

/-- The integer nearest to m · 2^e by mode, and whether anything was lost. -/
def roundAt (mode : Nat) (neg : Bool) (m : Nat) (e : Int) (more : Bool) : Nat × Bool :=
  if 0 ≤ e then (m * 2 ^ e.toNat, more) else roundShift mode neg m (-e).toNat more

/-- OverflowResult of R95. -/
def Fmt.overflow (f : Fmt) (neg : Bool) (mode : Nat) : Nat :=
  f.signed neg (match mode with
    | 1 => f.maxCode
    | 2 => if neg then f.infCode else f.maxCode
    | 3 => if neg then f.maxCode else f.infCode
    | _ => f.infCode)

/-- RoundFP of R95: the code, and the flags it raises. -/
def roundFP (f : Fmt) (mode : Nat) (satm : Bool) (x : Num) : Nat × FFlags :=
  match x with
  | .nan _ => (f.qnan, 0)
  | .inf neg => if f.e4m3 then (f.signed neg f.maxCode, Flag.of ||| Flag.nx) else (f.signed neg f.infCode, 0)
  | .real neg m e more =>
    if m = 0 then (f.signed neg 0, 0) else
    let ex : Int := e + Nat.log2 m
    let E : Int := max ex f.emin
    let r := roundAt mode neg m (e - (E - f.fb)) more
    let code := (E + f.bias - 1).toNat * 2 ^ f.fb + r.1
    if f.maxCode < code then
      if f.e4m3 || (f.e5m2 && satm) then (f.signed neg f.maxCode, Flag.of ||| Flag.nx)
      else (f.overflow neg mode, Flag.of ||| Flag.nx)
    else
      let u := roundAt mode neg m (e - (ex - f.fb)) more
      let tiny := decide (ex + 1 < f.emin) || (decide (ex < f.emin) && decide (u.1 < 2 ^ (f.fb + 1)))
      (f.signed neg code, flagIf r.2 Flag.nx ||| flagIf (r.2 && tiny) Flag.uf)

/-- ConvInt of R96 into the integers from lo to hi: the value, its flags, and whether it was clamped. An infinity counts as clamped,
though the pseudocode clamps finite values alone (DEDUCED, log entry 88). -/
def convInt (mode : Nat) (lo hi : Int) (x : Num) : Int × FFlags × Bool :=
  match x with
  | .nan _ => (0, Flag.nv, false)
  | .inf neg => (if neg then lo else hi, Flag.nv, true)
  | .real neg m e more =>
    let r := roundAt mode neg m e more
    let n : Int := if neg then -(r.1 : Int) else r.1
    if hi < n then (hi, Flag.nv, true)
    else if n < lo then (lo, Flag.nv, true)
    else (n, flagIf r.2 Flag.nx, false)

/-- Sat of R91 into the integers from lo to hi. -/
def satInt (lo hi v : Int) : Int × FFlags :=
  if hi < v then (hi, Flag.satf) else if v < lo then (lo, Flag.satf) else (v, 0)

/-! ### Exact arithmetic (R93) -/

/-- The exact sum of two numbers, its zero signed by R93, with NV of the NaNs and of ∞ − ∞. -/
def addNum (mode : Nat) (a b : Num) : Num × FFlags :=
  let nv := a.snan ||| b.snan
  match a, b with
  | .nan _, _ => (.nan false, nv)
  | _, .nan _ => (.nan false, nv)
  | .inf s, .inf t => if s = t then (.inf s, nv) else (.nan false, Flag.nv)
  | .inf s, .real _ _ _ _ => (.inf s, nv)
  | .real _ _ _ _, .inf t => (.inf t, nv)
  | .real s m e _, .real t n g _ =>
    let k := min e g
    let p : Int := m * 2 ^ (e - k).toNat
    let q : Int := n * 2 ^ (g - k).toNat
    let v := (if s then -p else p) + (if t then -q else q)
    if v = 0 then (.real (if m = 0 ∧ n = 0 ∧ s = t then s else decide (mode = 2)) 0 0 false, nv)
    else (.real (decide (v < 0)) v.natAbs k false, nv)

/-- The exact product. -/
def mulNum (a b : Num) : Num × FFlags :=
  let nv := a.snan ||| b.snan
  let s := a.neg != b.neg
  match a, b with
  | .nan _, _ => (.nan false, nv)
  | _, .nan _ => (.nan false, nv)
  | .inf _, .inf _ => (.inf s, nv)
  | .inf _, .real _ m _ _ => if m = 0 then (.nan false, Flag.nv) else (.inf s, nv)
  | .real _ m _ _, .inf _ => if m = 0 then (.nan false, Flag.nv) else (.inf s, nv)
  | .real _ m e _, .real _ n g _ => (.real s (m * n) (e + g) false, nv)

/-- a × b + c, exact (R106, R127). -/
def fmaNum (mode : Nat) (a b c : Num) : Num × FFlags :=
  let p := mulNum a b
  let r := addNum mode p.1 c
  (r.1, p.2 ||| r.2)

/-- The quotient, to enough places that rounding is exact; DZ for a finite non-zero value over zero (R127). -/
def divNum (a b : Num) : Num × FFlags :=
  let nv := a.snan ||| b.snan
  let s := a.neg != b.neg
  match a, b with
  | .nan _, _ => (.nan false, nv)
  | _, .nan _ => (.nan false, nv)
  | .inf _, .inf _ => (.nan false, Flag.nv)
  | .inf _, .real _ _ _ _ => (.inf s, nv)
  | .real _ _ _ _, .inf _ => (.real s 0 0 false, nv)
  | .real _ m e _, .real _ n g _ =>
    if n = 0 then (if m = 0 then (.nan false, Flag.nv) else (.inf s, Flag.dz))
    else
      let k := 70 + Nat.log2 n
      (.real s (m * 2 ^ k / n) (e - g - k) (decide (m * 2 ^ k % n ≠ 0)), nv)

/-- The integer square root of m below 2^n, found bit by bit. -/
def sqrtBits : Nat → Nat → Nat → Nat
  | 0, r, _ => r
  | n + 1, r, m => sqrtBits n (if (r + 2 ^ n) * (r + 2 ^ n) ≤ m then r + 2 ^ n else r) m

/-- floor(√m). -/
def isqrt (m : Nat) : Nat := sqrtBits (Nat.log2 m / 2 + 1) 0 m

/-- The square root (R127). -/
def sqrtNum (a : Num) : Num × FFlags :=
  match a with
  | .nan _ => (.nan false, a.snan)
  | .inf true => (.nan false, Flag.nv)
  | .inf false => (a, 0)
  | .real s m e _ =>
    if m = 0 then (a, 0)
    else if s then (.nan false, Flag.nv)
    else
      let odd := decide (e % 2 ≠ 0)
      let v := m * 2 ^ (140 + b2n odd)
      let q := isqrt v
      (.real false q ((e - b2n odd - 140) / 2) (decide (q * q ≠ v)), 0)

/-- 1 / √a (R150). -/
def rsqrtNum (a : Num) : Num × FFlags :=
  match a with
  | .nan _ => (.nan false, a.snan)
  | .inf true => (.nan false, Flag.nv)
  | .inf false => (.real false 0 0 false, 0)
  | .real s m e _ =>
    if m = 0 then (.inf s, Flag.dz)
    else if s then (.nan false, Flag.nv)
    else
      let odd := decide (e % 2 ≠ 0)
      let k := 300 + b2n odd
      let q := isqrt (2 ^ k / m)
      (.real false q ((-e - k) / 2) (decide (q * q * m ≠ 2 ^ k)), 0)

/-! ### Comparison (R128) -/

/-- a < b on numbers that are not NaNs; −0 = +0. -/
def Num.lt (a b : Num) : Bool :=
  match a, b with
  | .nan _, _ => false
  | _, .nan _ => false
  | .inf s, .inf t => s && !t
  | .inf s, .real _ _ _ _ => s
  | .real _ _ _ _, .inf t => !t
  | .real s m e _, .real t n g _ =>
    let k := min e g
    let p : Int := m * 2 ^ (e - k).toNat
    let q : Int := n * 2 ^ (g - k).toNat
    decide ((if s then -p else p) < (if t then -q else q))

/-- a = b on numbers; false with a NaN, and +0 = −0. -/
def Num.eqv (a b : Num) : Bool := !a.isNan && !b.isNan && !a.lt b && !b.lt a

/-- FMIN or FMAX of two codes of a format (R104, R128): −0 is below +0. -/
def Fmt.minMax (f : Fmt) (max : Bool) (va vb : Nat) : Nat × FFlags :=
  let a := f.decode va
  let b := f.decode vb
  let nv := a.snan ||| b.snan
  if a.isNan then (if b.isNan then f.qnan else vb, nv)
  else if b.isNan then (va, nv)
  else
    let aLess := a.lt b || (a.eqv b && a.neg && !b.neg)
    (if aLess != max then va else vb, nv)

/-- Conditions of FCMP: 0 eq, 1 lt, 2 le, 3 un (R128, R147). -/
def fcmp (c : Nat) (a b : Num) : Bool × FFlags :=
  let anyNan := a.isNan || b.isNan
  let nv := a.snan ||| b.snan
  match c with
  | 0 => (a.eqv b, nv)
  | 1 => (a.lt b, nv ||| flagIf anyNan Flag.nv)
  | 2 => (a.lt b || a.eqv b, nv ||| flagIf anyNan Flag.nv)
  | _ => (anyNan, nv)

/-- The class word of FCLASS (R128). -/
def Fmt.classWord (f : Fmt) (v : Nat) : Word :=
  let neg := v.testBit (f.eb + f.fb)
  let sgn := 8 * b2n neg
  match f.decode v with
  | .nan s => ofN (sgn + if s then 5 else 4)
  | .inf _ => ofN (sgn + 3)
  | .real _ m e _ =>
    if m = 0 then ofN sgn
    else
      let x : Int := e + Nat.log2 m
      ofI (x * 65536) ||| ofN (sgn + if x < f.emin then 1 else 2)

/-! ### Arithmetic on codes -/

/-- Rounds an exact result and gathers the flags. -/
def Fmt.fin (f : Fmt) (mode : Nat) (r : Num × FFlags) : Nat × FFlags :=
  let q := roundFP f mode false r.1
  (q.1, r.2 ||| q.2)

def Fmt.add (f : Fmt) (mode a b : Nat) : Nat × FFlags := f.fin mode (addNum mode (f.decode a) (f.decode b))
def Fmt.sub (f : Fmt) (mode a b : Nat) : Nat × FFlags := f.fin mode (addNum mode (f.decode a) (f.decode b).negate)
def Fmt.mul (f : Fmt) (mode a b : Nat) : Nat × FFlags := f.fin mode (mulNum (f.decode a) (f.decode b))
def Fmt.div (f : Fmt) (mode a b : Nat) : Nat × FFlags := f.fin mode (divNum (f.decode a) (f.decode b))
def Fmt.sqrt (f : Fmt) (mode a : Nat) : Nat × FFlags := f.fin mode (sqrtNum (f.decode a))
def Fmt.rsqrt (f : Fmt) (mode a : Nat) : Nat × FFlags := f.fin mode (rsqrtNum (f.decode a))
def Fmt.rcp (f : Fmt) (mode a : Nat) : Nat × FFlags := f.fin mode (divNum (Num.ofInt 1) (f.decode a))
/-- a × b + c. -/
def Fmt.fma (f : Fmt) (mode a b c : Nat) : Nat × FFlags := f.fin mode (fmaNum mode (f.decode a) (f.decode b) (f.decode c))
/-- a × b − c. -/
def Fmt.fms (f : Fmt) (mode a b c : Nat) : Nat × FFlags :=
  f.fin mode (fmaNum mode (f.decode a) (f.decode b) (f.decode c).negate)
/-- c − a × b. -/
def Fmt.fnma (f : Fmt) (mode a b c : Nat) : Nat × FFlags :=
  f.fin mode (fmaNum mode (f.decode a).negate (f.decode b) (f.decode c))

/-! ### Integer ranges and lane conversions (R90, R156) -/

/-- Least and greatest value of a signed or unsigned width (R90). -/
def intLo (signed : Bool) (w : Nat) : Int := if signed then -(2 ^ (w - 1) : Int) else 0
def intHi (signed : Bool) (w : Nat) : Int := if signed then (2 ^ (w - 1) : Int) - 1 else (2 ^ w : Int) - 1

/-- A width's bits read as signed. -/
def sxN (w v : Nat) : Int := if v % 2 ^ w < 2 ^ (w - 1) then ((v % 2 ^ w : Nat) : Int) else ((v % 2 ^ w : Nat) : Int) - 2 ^ w

/-- The bits of an integer at a width: Wrap (R91). -/
def wrapN (w : Nat) (i : Int) : Nat := (i % 2 ^ w).toNat

/-- A lane format of R156 by width and id: an integer, signed or not, or floating point. -/
inductive LaneFmt where
  | int (signed : Bool) (w : Nat)
  | fp (f : Fmt)
  deriving DecidableEq, Repr

/-- Format id of a width of 8·2^s bits (R156). -/
def laneFmt (s id : Nat) : LaneFmt :=
  if id = 0 then .int true (8 * 2 ^ s)
  else if id = 1 then .int false (8 * 2 ^ s)
  else match s with
    | 0 => .fp (if id = 2 then fpE4m3 else fpE5m2)
    | 1 => .fp (if id = 2 then fp16 else bf16)
    | 2 => .fp fp32
    | _ => .fp fp64

/-- The integer that a lane of `w` bits holds. -/
def laneInt (signed : Bool) (w v : Nat) : Int := if signed then sxN w v else ((v % 2 ^ w : Nat) : Int)

/-- A lane value converted between formats (R156). -/
def convLane (src dst : LaneFmt) (mode : Nat) (satm : Bool) (v : Nat) : Nat × FFlags :=
  if src = dst then (v, 0) else
  match src, dst with
  | .fp f, .fp g =>
    let x := f.decode v
    let r := roundFP g mode satm x
    (r.1, x.snan ||| r.2)
  | .int sg w, .fp g => roundFP g mode satm (Num.ofInt (laneInt sg w v))
  | .fp f, .int sg w =>
    let r := convInt mode (intLo sg w) (intHi sg w) (f.decode v)
    (wrapN w r.1, r.2.1 ||| flagIf r.2.2 Flag.satf)
  | .int sg w, .int tg x =>
    let r := satInt (intLo tg x) (intHi tg x) (laneInt sg w v)
    (wrapN x r.1, r.2)

/-! ### Q4 blocks (R98 to R100) and ternary bytes (R101, R102) -/

/-- Eight times the value of a 4-bit code of type T (R99). -/
def q4Eighths (t c : Nat) : Int :=
  if t = 0 then 8 * sxN 4 c
  else
    let mag : Int := match t, c % 8 with
      | _, 0 => 0
      | 1, 1 => 4
      | 1, 2 => 8
      | 1, 3 => 12
      | 1, 4 => 16
      | 1, 5 => 24
      | 1, 6 => 32
      | 1, _ => 48
      | 2, n => 2 ^ (n - 1)
      | _, 1 => 8
      | _, 2 => 16
      | _, 3 => 24
      | _, 4 => 32
      | _, 5 => 48
      | _, 6 => 64
      | _, _ => 96
    if c < 8 then mag else -mag

/-- The exact block value of code `c` in a block with this scale byte (R100). -/
def q4Value (scale c : Nat) : Num :=
  let v := q4Eighths (scale / 64) c
  .real (decide (v < 0)) v.natAbs ((scale % 64 : Nat) - 35) false

/-- Code i of a block of 17 bytes (R98). -/
def q4Code (block : List Byte) (i : Nat) : Nat := ((block[i / 2]?).getD 0).toNat / 16 ^ (i % 2) % 16

/-- The constants of R102. -/
def ternC (i : Nat) : Nat := match i with
  | 0 => 65536
  | 1 => 21846
  | 2 => 7282
  | 3 => 2428
  | 4 => 810
  | _ => 270

/-- q[i] of R102. -/
def ternQ (b i : Nat) : Nat := b * ternC i / 65536

/-- Weight i of a valid ternary byte, −1, 0 or +1 (R102). -/
def ternT (b i : Nat) : Int := (ternQ b i : Int) - 3 * (ternQ b (i + 1) : Int) - 1

/-! ### Reductions (R104, R105) -/

/-- One level of the pairwise tree of R104. An input without a partner passes unchanged, a signalling NaN too, which then raises nothing
(DESIGN CHOICE, log entry 107). -/
def treeLevel {α : Type} (f : α → α → α × FFlags) : List (Option α) → List (Option α) × FFlags
  | a :: b :: t =>
    let r := treeLevel f t
    match a, b with
    | some x, some y => let z := f x y; (some z.1 :: r.1, z.2 ||| r.2)
    | some x, none => (some x :: r.1, r.2)
    | none, y => (y :: r.1, r.2)
  | l => (l, 0)

/-- The tree of R104 over 2^n inputs. -/
def treeFold {α : Type} (f : α → α → α × FFlags) : Nat → List (Option α) → Option α × FFlags
  | 0, l => ((l.head?).join, 0)
  | n + 1, l =>
    let r := treeLevel f l
    let q := treeFold f n r.1
    (q.1, r.2 ||| q.2)

/-- The running sum of R105: each active lane receives f of the last written value and its own; the first active lane, be it lane 0 or a
later one, keeps its element (DESIGN CHOICE, log entry 107). -/
def scanLanes {α : Type} (f : α → α → α × FFlags) : Option α → List (Option α) → List (Option α) × FFlags
  | _, [] => ([], 0)
  | acc, none :: t =>
    let r := scanLanes f acc t
    (none :: r.1, r.2)
  | none, some x :: t =>
    let r := scanLanes f (some x) t
    (some x :: r.1, r.2)
  | some a, some x :: t =>
    let z := f a x
    let r := scanLanes f (some z.1) t
    (some z.1 :: r.1, z.2 ||| r.2)

end Sys2Proof.Machine
end

