-- ==== Sys2Proof/Machine/Operands.lean ====
section
/-! DEFINITION. Operand forms: lanes and predicates (R139, R140), registers bound to streams (R143, R262 to R265), rounding
modes (R126), and the completion of instructions that raise flags (R97, R114). -/

namespace Sys2Proof.Machine

/-! ### Lanes (R139) -/

/-- Element size in bytes of a size code (R55). -/
def esz (s : BitVec 2) : Nat := 2 ^ s.toNat

/-- The elements of a v register. -/
def lanesOf (e : Nat) (v : VReg) : List Nat := (List.range (128 / e)).map fun i => v.toNat / 2 ^ (8 * e * i) % 2 ^ (8 * e)

/-- The register of a list of elements; lanes beyond the list are 0. -/
def ofLanes (e : Nat) (l : List Nat) : VReg :=
  BitVec.ofNat 1024 (l.foldr (fun x r => x % 2 ^ (8 * e) + 2 ^ (8 * e) * r) 0)

/-- Element `i` of a list of lanes, 0 beyond it. -/
def laneAt (l : List Nat) (i : Nat) : Nat := (l[i]?).getD 0

/-- Active(p, i, e): the predicate bit of the lane's lowest byte. -/
def active (p : PReg) (e i : Nat) : Bool := bitAt p (e * i)

/-- SetLane over a whole predicate: lane i takes the i-th truth value (R139). -/
def predOf (e : Nat) (l : List Bool) : PReg :=
  BitVec.ofNat 128 (l.foldr (fun b r => (if b then 2 ^ e - 1 else 0) + 2 ^ e * r) 0)

/-- The bytes of the active lanes, as a byte mask. -/
def activeBytes (p : PReg) (e : Nat) : PReg := predOf e ((List.range (128 / e)).map fun i => active p e i)

/-- The bytes of `old`, with those that the mask selects taken from `new`. -/
def mergeBytes (old new : VReg) (mask : PReg) : VReg :=
  let m : VReg := BitVec.ofNat 1024 ((List.range 128).foldl (fun r i => if bitAt mask i then r + 255 * 256 ^ i else r) 0)
  (old &&& ~~~m) ||| (new &&& m)

/-- The bytes of a v register. -/
def vBytes (v : VReg) : List Byte := leBytes 128 v.toNat

/-! ### Stream slots (R262 to R265) -/

/-- The number of elements. -/
def Stream.total (st : Stream) : Nat := st.counts.foldl (· * ·) 1

/-- addr(p) of R263. -/
def Stream.addr (st : Stream) (p : Nat) : Word :=
  let c := fun i => (st.counts[i]?).getD 0
  let k := fun i => (st.strides[i]?).getD 0
  st.base + ofN (p % c 0) * k 0 + ofN (p / c 0 % c 1) * k 1 + ofN (p / (c 0 * c 1) % c 2) * k 2 + ofN (p / (c 0 * c 1 * c 2)) * k 3

/-- Elements in one access: a strip for a v register, one for an f register. -/
def Stream.width (st : Stream) : Nat := if st.vfile then 128 / st.es else 1

/-- The slot that binds a register of the f or the v file, if any. -/
def Thread.slotOf (t : Thread) (vfile : Bool) (r : BitVec 5) : Option Nat :=
  if r.toNat < 28 then none
  else (List.range 4).find? fun k => (t.getSs k).bound && decide ((t.getSs k).vfile = vfile) && decide ((t.getSs k).reg = r.toNat)

namespace State

/-- The element at position `p` of a stream: its bytes, or zero at or beyond the end; the second component is its address. -/
def elemAt (s : State) (a : Agent) (st : Stream) (p : Nat) : Res (List Byte) × Word :=
  if p < st.total then (s.loadRaw a (st.addr p) st.es, st.addr p) else (.ok (List.replicate st.es 0), 0)

/-- Of two stops of the elements of one access, the one that is taken: a wait before a trap, and the trap with the lower address
(R264). -/
def stopFirst (a b : Stop) : Stop :=
  match a, b with
  | .trap x, .trap y => if y.tval.toNat < x.tval.toNat then b else a
  | .trap _, .stall => b
  | .trap _, .scoreboard => b
  | .trap _, .fault _ => b
  | .stall, _ => a
  | .scoreboard, _ => a
  | .fault _, _ => a

/-- The elements of one access from position `pos`; of several faults, the one with the lowest address is taken (R263, R264). -/
def readElems (s : State) (a : Agent) (st : Stream) (pos n : Nat) : Res (List Byte) :=
  let es := (List.range n).map fun i => (s.elemAt a st (pos + i)).1
  let bad := es.foldl (fun (m : Option Stop) e => match e with
    | .ok _ => m
    | .error x => some (match m with
      | some y => stopFirst y x
      | none => x)) none
  match bad with
  | some x => .error x
  | none => .ok (es.flatMap fun e => match e with
    | .ok b => b
    | .error _ => [])

/-- SUB of a fault that a stream's pop takes: 2 for PARTIAL_RESIDENCY (R327). -/
def popSub (c : BitVec 8) : BitVec 8 := if c = Cause.partialResidency then 2 else 0

/-- The next strip of a read slot: read ahead, with its recorded fault, or read at the pop itself (R264). -/
def stripAt (s : State) (a : Agent) (st : Stream) : Res (List Byte) :=
  match st.ahead with
  | e :: _ =>
    match e.fault with
    | some (c, ad) => trapR c ad (popSub c)
    | none => .ok e.data
  | [] =>
    match s.readElems a st st.pos st.width with
    | .error (.trap t) => trapR t.code t.tval (popSub t.code)
    | r => r

/-- What the reading of one access from position `pos` leaves in the caches of the homes (R205). -/
def readBackElems (s : State) (a : Agent) (st : Stream) (pos : Nat) : State :=
  (List.range st.width).foldl (fun t i => if pos + i < st.total then t.readBack a (st.addr (pos + i)) st.es else t) s

/-- Moves a slot past one access, setting its SE bit when the access reaches the end (R263). -/
def advanceSlot (s0 : State) (a : Agent) (k : Nat) : State :=
  let s := if ((s0.thread a).getSs k).write || !((s0.thread a).getSs k).ahead.isEmpty then s0
    else s0.readBackElems a ((s0.thread a).getSs k) ((s0.thread a).getSs k).pos
  s.modThread a fun t =>
    let st := t.getSs k
    let ended := decide (st.total < st.pos + st.width)
    let t1 := t.setSs k { st with pos := min st.total (st.pos + st.width), ahead := st.ahead.drop 1 }
    if ended then { t1 with vcsr := t1.vcsr ||| ofN (2 ^ (4 + k)) } else t1

/-- Slots that the named registers are bound to, each once. -/
def slotsOf (s : State) (vfile : Bool) (rs : List (BitVec 5)) : List Nat :=
  (rs.filterMap fun r => s.me.slotOf vfile r).eraseDups

/-- Pops each slot once (R143). -/
def popAll (s : State) (ks : List Nat) : State := ks.foldl (fun s k => s.advanceSlot s.cur k) s

/-- A v register as a source: its value, or the next strip of a read slot (R143). -/
def vSrc (s : State) (r : BitVec 5) : Res VReg :=
  match s.me.slotOf true r with
  | none => .ok (s.me.getV r)
  | some k =>
    let st := s.me.getSs k
    if st.write then trapR Cause.streamFault (ofN k)
    else do
      let b ← s.stripAt s.cur st
      .ok (BitVec.ofNat 1024 (leNat b))

/-- An f register as a source: its value, or the next element of a read slot (R143, R263). -/
def fSrc (s : State) (r : BitVec 5) : Res Word :=
  match s.me.slotOf false r with
  | none => .ok (s.me.getF r)
  | some k =>
    let st := s.me.getSs k
    if st.write then trapR Cause.streamFault (ofN k)
    else do
      let b ← s.stripAt s.cur st
      .ok (bytesWord b)

/-- A recorded read-ahead fault that has been taken is dropped, so that the retry reads again (R264). -/
def dropFault (s : State) (tval : Word) : State :=
  s.modMe fun t => { t with ss := t.ss.map fun e =>
    match e.2.ahead with
    | p :: _ => if p.fault.any (fun f => decide (f.2 = tval)) then (e.1, { e.2 with ahead := [] }) else e
    | [] => e }

/-! ### Flags (R97, R114) -/

/-- Rounding mode of an FP instruction's field, FCSR.RM for 0b111 (R126). -/
def roundMode (s : State) (r : BitVec 3) : Nat := if r = 7 then field s.me.fcsr 0 3 else r.toNat

/-- FCSR.RM. -/
def rm (s : State) : Nat := field s.me.fcsr 0 3

/-- VCSR.SATM. -/
def satm (s : State) : Bool := bitAt s.me.vcsr 9

/-- The bit of SFLAGS that says who raised a flag: CORE0 to CORE7, MS or MI (R85). -/
def flagBitOf : Agent → Nat
  | .thr c _ => 2 ^ (8 + c % 8)
  | .seq _ q => if q = 0 then 2 ^ 16 else if q = 1 then 2 ^ 17 else 0

/-- Raises sticky flags of the executing thread; a raise is on its way to SFLAGS (R80, R81, R85). -/
def raiseFlags (s : State) (fl : FFlags) : State :=
  if fl = 0 then s else
  let s1 := s.modMe fun t =>
    { t with
      fcsr := t.fcsr ||| ofN (field fl 0 5 * 256)
      vcsr := t.vcsr ||| ofN (field fl 5 1 * 2 + field fl 6 1 + field fl 7 1 * 4) }
  s1.modSet s.cur.setNo fun k => { k with flagPend := k.flagPend ++ [ofN (fl.toNat + State.flagBitOf s.cur)] }

/-- A raised flag has its enable set in FCSR (R97). -/
def fpTraps (s : State) (fl : FFlags) : Bool := decide (field fl 0 5 &&& field s.me.fcsr 16 5 ≠ 0)

/-- Completes an instruction that may raise flags: its result is written by `upd`, the slots it read are popped, the flags are
raised, and an enabled flag takes FP_TRAP once, with EPC the next instruction and TVAL this one (R97, R114, R142). While T7's
queue has no room for that trap, the instruction waits. -/
def complete (s : State) (pops : List Nat) (fl : FFlags) (upd : State → State) : Out :=
  if s.fpTraps fl then
    if !userLevel s.me Cause.fpTrap && decide (s.cur.tid < 7) && s.t7Full s.cur.coreNo then .next s
    else
      let s1 := (upd (s.popAll pops)).raiseFlags fl
      .next ((s1.modMe fun t => { t with pc := t.pc + 4 }).takeTrap s.cur false Cause.fpTrap 0 s.pc (s.pc + 4))
  else .next (((upd (s.popAll pops)).raiseFlags fl).adv 4)

/-! ### Destinations that may be bound to a write slot -/

/-- Every element of the stream lies in scratch ULM (R262). -/
def allScratch (s : State) (a : Agent) (st : Stream) : Bool :=
  let ok := fun (p : Nat) => decide ((st.addr p).toNat < 0x100000) && s.isScratch a (a.localLoc (st.addr p).toNat)
  decide (st.total = 0) || (ok 0 && (List.range st.total).all ok)

/-- The writes of a push: every element with a byte to write is checked in ascending order (R152, R264). -/
def pushPlan (s : State) (a : Agent) (st : Stream) (pos : Nat) : List (List (Option Byte)) → Res (List PushWrite)
  | [] => .ok []
  | e :: t =>
    if st.total ≤ pos then .ok []
    else if e.all Option.isNone then s.pushPlan a st (pos + 1) t
    else do
      let acc ← s.storeCheck a (st.addr pos) st.es
      let r ← s.pushPlan a st (pos + 1) t
      let w : List PushWrite :=
        if e.all Option.isSome then [{ loc := acc.loc, key := acc.key, bytes := e.map fun b => b.getD 0, unc := acc.rng.uncached }]
        else (List.zipIdx e).filterMap fun b => b.1.map fun x => { loc := acc.loc + b.2, key := acc.key, bytes := [x], unc := acc.rng.uncached }
      .ok (w ++ r)

/-- Adjacent writes joined: each is one interval (R209). -/
def joinWrites : List PushWrite → List PushWrite
  | [] => []
  | w :: t =>
    match joinWrites t with
    | x :: r => if w.loc + w.bytes.length = x.loc ∧ w.key = x.key ∧ w.unc = x.unc then { w with bytes := w.bytes ++ x.bytes } :: r else w :: x :: r
    | [] => [w]

/-- An engine but slot `k` of thread `tid` of core `c` owns a line of [l, l + n) (R206, R264). -/
def ownedByOther (s : State) (c tid k l n : Nat) : Bool :=
  s.core.any (fun e => e.2.ce.live.any (copyOwns l n)) ||
  s.sets.any (fun e => e.2.ce.live.any (copyOwns l n)) ||
  s.core.any fun e => e.2.pushQ.any fun w => pushOwns l n w && !(decide (e.1 = c) && decide (w.tid = tid) && decide (w.slot = k))

/-- The writes of a push can enter the copy engine: the scoreboard has room for those into ULM, and no other engine owns a line that
one writes, nor crosses a bridge that retrains (R206, R209, R264, R437). -/
def pushReady (s : State) (c tid k : Nat) (ws : List PushWrite) : Bool :=
  decide ((s.getCore c).sb.length + (ws.filter fun w => (locCore w.loc).isSome).length ≤ 256) &&
  ws.all fun w => decide (2 ^ 48 ≤ w.loc) || (!s.ownedByOther c tid k w.loc w.bytes.length && !s.acrossBridge (c / 64) w.loc)

/-- The writes of a push enter the copy engine: those into ULM with an entry of the scoreboard each, those into global memory with
ownership of their lines, by which a later release counts them (R206, R209, R231, R264). -/
def enterPush (s : State) (c tid k : Nat) (ws : List PushWrite) : State :=
  ws.foldl (fun t w =>
    (t.takeLines (c / 64) w.loc w.bytes.length).modCore c fun x =>
      let n := x.pushNo + 1
      { x with
        pushNo := n
        pushQ := x.pushQ ++ [{ w with tid := tid, slot := k, no := n, clock := (t.thread (.thr c tid)).rel }]
        sb := if (locCore w.loc).isSome then x.sb ++ [sbEntry (w.loc - ulmLoc c 0) w.bytes.length true (.push c n)] else x.sb }) s

/-- The RTB after the accesses of a push from position `pos` of a stream (R326). -/
def pushTouch (s : State) (a : Agent) (st : Stream) (pos : Nat) : List (List (Option Byte)) → State
  | [] => s
  | e :: t =>
    if st.total ≤ pos then s
    else (if e.all Option.isNone then s else s.useRtb a (st.addr pos).toNat st.es kindW).pushTouch a st (pos + 1) t

/-- Pushes one access into slot `k`, and goes on by `rest`; the first push of a slot that does not lie in scratch ULM alone is
an action that sets NR (R24, R262). -/
def push (s : State) (k : Nat) (data : List (Option Byte)) (rest : State → (State → State) → Out) : Out :=
  let st := s.me.getSs k
  if !st.write then .next (s.raise ⟨Cause.streamFault, ofN k, 0⟩)
  else
    match s.pushPlan s.cur st st.pos (chunks st.es data.length data) with
    | .error e => finish s (.error e)
    | .ok plan =>
      let ws := joinWrites plan
      if !s.pushReady s.cur.coreNo s.cur.tid k ws then .next s
      else
        let upd := fun (t : State) =>
          ((t.pushTouch t.cur st st.pos (chunks st.es data.length data)).enterPush t.cur.coreNo t.cur.tid k ws).advanceSlot t.cur k
        if s.holds s.cur && !s.allScratch s.cur st then s.act fun s1 => rest s1 upd else rest s upd

/-- Completes an instruction with destination V[d] under a byte mask (R140, R143); `also` writes what else it writes. Of several faults
of one instruction those of its source streams come first, in field order, then its lanes', then its destination stream's: R143 gives
no order (DESIGN CHOICE, log entry 108). -/
def vOut (s : State) (srcs : List (BitVec 5)) (d : BitVec 5) (mask : PReg) (v : VReg) (fl : FFlags := 0)
    (also : State → State := id) : Out :=
  let pops := s.slotsOf true srcs
  match s.me.slotOf true d with
  | none => s.complete pops fl fun t => also (t.modMe fun m => m.setV d (mergeBytes (m.getV d) v mask))
  | some k =>
    s.push k ((List.zipIdx (vBytes v)).map fun b => if bitAt mask b.2 then some b.1 else none) fun s1 upd =>
      s1.complete pops fl fun t => also (upd t)

/-- Completes an instruction with destination F[d] (R126, R143). -/
def fOut (s : State) (srcs : List (BitVec 5)) (d : BitVec 5) (v : Word) (fl : FFlags := 0) : Out :=
  let pops := s.slotsOf false srcs
  match s.me.slotOf false d with
  | none => s.complete pops fl fun t => t.modMe fun m => m.setF d v
  | some k =>
    s.push k ((leBytes (s.me.getSs k).es v.toNat).map some) fun s1 upd => s1.complete pops fl upd

/-- The outcome of an instruction that reads registers which streams may bind: a trap drops the recorded read-ahead fault it
was taken for (R264). -/
def streamOut (s : State) (r : Res Out) : Out :=
  match r with
  | .ok o => o
  | .error (.trap t) => .next ((s.dropFault t.tval).raise t)
  | .error .stall => .next s
  | .error .scoreboard => .next (s.stallOn true)
  | .error (.fault f) => .fault f

end State

end Sys2Proof.Machine
end

