-- ==== Sys2Proof/Machine/Fetch.lean ====
section
/-! DEFINITION. Fetching an instruction (R45 to R47, R199, R211, R212): the fetch buffer of 32 bytes, the I-cache by sector with its
stale lines, and the fetch faults. -/

namespace Sys2Proof.Machine

/-- The sector of the I-cache that holds a location under a key id. -/
def iKey (loc key : Nat) : Nat := loc / 32 + key * 2 ^ 48

/-- The version by which a sector serves a thread whose activation (or last IFENCE) stands at serial `ep`: the oldest one that
became stale later, else the current one; none when it has to be refetched (R212). -/
def ICLine.serves (l : ICLine) (ep : Nat) : Option ICVer :=
  match l.old.find? fun v => decide (ep < v.1) with
  | some v => some v.2
  | none =>
    match l.staleAt with
    | none => some l.ver
    | some e => if ep < e then some l.ver else none

/-- The sector after a refetch; a stale version is kept for the threads it still serves. -/
def ICLine.refill (l : ICLine) (v : ICVer) : ICLine :=
  match l.staleAt with
  | none => { l with ver := v }
  | some e => { ver := v, staleAt := none, old := l.old ++ [(e, l.ver)] }

/-- The versions that a sector holds. -/
def ICLine.versions (l : ICLine) : List ICVer := l.ver :: l.old.map (·.2)

/-- The halfword at byte `o` of a sector. -/
def halfAt (bs : List Byte) (o : Nat) : BitVec 16 := halfOfBytes ((bs[o]?).getD 0) ((bs[o + 1]?).getD 0)

/-- Memory held both versions at one time (R47). -/
def ICVer.meets (v w : ICVer) : Bool :=
  let before := fun (n : Nat) (c : Option Nat) => match c with
    | none => true
    | some e => decide (n < e)
  before (max v.fill w.fill) v.changed && before (max v.fill w.fill) w.changed

namespace State

/-- The access by which an agent fetches at a virtual address (R47, R165, R211): below the window's end from local memory, with no
permission check, else through a range. -/
def fetchPlace (s : State) (a : Agent) (va : Word) : Res Acc :=
  if va.toNat / 2 ^ 56 ≠ 0 then trapR Cause.noRange va
  else if va.toNat + 2 ≤ a.window then .ok { loc := a.localLoc va.toNat }
  else if va.toNat < 0x100000 ∨ a.isSeq then trapR Cause.noRange va
  else
    match s.translate a va.toNat 2 kindX with
    | .error c => trapR c va
    | .ok acc =>
      match placeOf acc.loc with
      | .hbm _ => if acc.rng.uncached then trapR Cause.permission va else .ok acc
      | _ => trapR Cause.permission va

/-- The 32-byte sector of an access as its home gives it to a fetch at `va`, which does not go through the L1 or the RDC (R199, R212, R213):
a poisoned one takes UNCORRECTABLE with SUB 1 (R215, R388). -/
def readSector (s : State) (a : Agent) (acc : Acc) (va : Word) : Res (List Byte) :=
  let l := alignDown 32 acc.loc
  if s.poisoned l 32 then trapR Cause.uncorrectable va 1
  else if s.acrossBridge a.dieNo l && decide (placeOf l ≠ .ulm) then .error .stall
  else .ok (s.plain l 32 acc.key)

/-- The sector of an access as the I-cache gives it to an agent, and the machine after the fill; `again` refetches it. A fetch waits
for an engine that writes there (R206, R209). The I-cache holds 512 lines (R199); sequencers have none. -/
def sectorFor (s : State) (a : Agent) (acc : Acc) (va : Word) (again : Bool) : Res (State × ICVer) :=
  if s.blocked (alignDown 32 acc.loc) 32 false then .error (stopAt acc.loc)
  else
    match a with
    | .seq _ _ => do
      let bs ← s.readSector a acc va
      .ok (s, { data := bs })
    | .thr c _ =>
      let k := iKey acc.loc acc.key
      let l := Tbl.get {} (s.getCore c).icache k
      match (if l.ver.data.isEmpty ∨ again then none else l.serves (s.thread a).fetchEpoch) with
      | some v => .ok (s, v)
      | none => do
        let bs ← s.readSector a acc va
        let v : ICVer := { data := bs, fill := (s.getCore c).epoch }
        .ok ((s.readFrom a.dieNo (alignDown 32 acc.loc) 32).modCore c fun x => { x with icache := putSector {} 512 x.icache k (l.refill v) (s.cacheChoice k) }, v)

/-- The fetch buffer of an agent takes the 32-byte block that holds a virtual address (R199, R211). -/
def fillBuf (s : State) (a : Agent) (va : Word) (again : Bool) : Res (State × ICVer) := do
  let acc ← s.fetchPlace a va
  let r ← (s.useRtb a va.toNat 2 kindX).sectorFor a acc va again
  .ok (r.1.modThread a fun t => { t with fbuf := some (va.toNat / 32 * 32, r.2.data), fbufLoc := alignDown 32 acc.loc }, r.2)

/-- The bytes of the fetch buffer of an agent when it holds the block of a virtual address. -/
def bufAt (s : State) (a : Agent) (va : Word) : Option (List Byte) :=
  (s.thread a).fbuf.bind fun b => if b.1 = va.toNat / 32 * 32 then some b.2 else none

/-- The bytes of the block of a virtual address, from the fetch buffer or through a refill of it. -/
def fetchBlock (s : State) (a : Agent) (va : Word) : Res (State × List Byte) :=
  match s.bufAt a va with
  | some bs => .ok (s, bs)
  | none => do
    let r ← s.fillBuf a va false
    .ok (r.1, r.2.data)

/-- The I-cache holds, under an address, a version with first halfword `h` that memory held at one time with `w` (R47). -/
def pairs (s : State) (a : Agent) (va : Word) (h : BitVec 16) (w : ICVer) : Bool :=
  match a, s.fetchPlace a va with
  | .thr c _, .ok acc =>
    (Tbl.get ({} : ICLine) (s.getCore c).icache (iKey acc.loc acc.key)).versions.any fun v =>
      !v.data.isEmpty && decide (halfAt v.data (va.toNat % 32) = h) && v.meets w
  | .thr _ _, .error _ => false
  | .seq _ _, _ => false

/-- The instruction bytes at the pc of an agent (R45, R47): the machine after the fetch, the first halfword, and the second one
of a long instruction. A stale fetch buffer is discarded first. Where the halves lie in two blocks and memory did not hold both at
one time, both are refetched, so that no instruction is formed across a patch. An odd pc, which only a saved pc or vector can give,
is MISALIGNED (R46). -/
def fetch (s : State) (a : Agent) : Res (State × BitVec 16 × Option (BitVec 16)) := do
  let s0 := if (s.thread a).fbufStale then s.modThread a fun t => { t with fbuf := none, fbufStale := false } else s
  let pc := (s.thread a).pc
  let o := pc.toNat % 32
  check (decide (pc.toNat % 2 = 0)) Cause.misaligned pc
  let r1 ← s0.fetchBlock a pc
  let h := halfAt r1.2 o
  if !isLong h then .ok (r1.1, h, none)
  else if o ≠ 30 then .ok (r1.1, h, some (halfAt r1.2 (o + 2)))
  else do
    let r2 ← r1.1.fillBuf a (pc + 2) false
    if r2.1.pairs a pc h r2.2 then .ok (r2.1, h, some (halfAt r2.2.data 0))
    else do
      let r3 ← r2.1.fillBuf a pc true
      let h' := halfAt r3.2.data 30
      if !isLong h' then .ok (r3.1, h', none)
      else do
        let r4 ← r3.1.fillBuf a (pc + 2) true
        .ok (r4.1, h', some (halfAt r4.2.data 0))

/-- Discards the fetch buffer of an agent (R212). -/
def dropFbuf (s : State) (a : Agent) : State := s.modThread a fun t => { t with fbuf := none, fbufStale := false }

/-- IFENCE of R243: the fetch buffer is discarded and later fetches see every visible write: every line of the core's I-cache
counts as stale for this thread. -/
def ifence (s : State) (a : Agent) : State :=
  match a with
  | .seq _ _ => s.dropFbuf a
  | .thr c _ =>
    let s1 := s.modCore c fun k =>
      { k with
        epoch := k.epoch + 1
        icache := k.icache.map fun e => if e.2.staleAt.isNone then (e.1, { e.2 with staleAt := some (k.epoch + 1) }) else e }
    (s1.dropFbuf a).modThread a fun t => { t with fetchEpoch := (s1.getCore c).epoch }

/-- ICINV of one line of location `base` on core `c`: every version is dropped (R212, R244). -/
def dropLine (s : State) (c base : Nat) : State :=
  if (s.getCore c).icache.isEmpty then s else
  s.modCore c fun k => { k with icache := k.icache.filter fun e => !decide (e.1 % 2 ^ 48 / 4 = base / 128) }

/-- Marks the fetch buffer of an agent stale when it was filled from a place in [l, l + 128), by whatever range (R212, R244). -/
def staleBuf (s : State) (a : Agent) (l : Nat) : State :=
  if (s.thread a).fbuf.isSome && overlaps (s.thread a).fbufLoc 32 l 128 then s.modThread a fun t => { t with fbufStale := true } else s

end State

end Sys2Proof.Machine
end

