-- ==== Sys2Proof/Machine/Int.lean ====
section
/-! DEFINITION. The INT group, the immediates, LUI and ADDPC (R116 to R118). -/

namespace Sys2Proof.Machine

/-- Completes an instruction of `len` bytes whose one effect is X[d] := v. -/
def State.setReg (s : State) (d : BitVec 5) (v : Word) (len : Nat := 4) : Out := .next ((s.wx d v).adv len)

/-- B[5:0] as a shift amount (R116). -/
def shamt (b : Word) : Nat := field b 0 6

/-- Reversal of the bits of a doubleword. -/
def revBits (w : Word) : Word := ofN ((List.range 64).foldl (fun r i => if bitAt w i then r + 2 ^ (63 - i) else r) 0)

/-- Number of leading zeros, 64 for 0. -/
def clz64 (w : Word) : Nat := if w = 0 then 64 else 63 - Nat.log2 w.toNat

/-- Number of trailing zeros, 64 for 0. -/
def ctz64 (w : Word) : Nat := (lowBit 64 w.toNat).getD 64

/-- The low 32 bits, sign-extended. -/
def sextW (w : Word) : Word := sext64 (w.setWidth 32)

/-- I := sext(imm14) (R49, R117). -/
def imm14 (i : BitVec 14) : Word := sext64 i

/-- ADD: Writes the 64-bit wrapped sum of two x registers. (R116) -/
def execAdd (d : BitVec 5) (a : BitVec 5) (b : BitVec 5) (s : State) : Out := s.setReg d (s.x a + s.x b)

/-- SUB: Writes the 64-bit wrapped difference of two x registers. (R116) -/
def execSub (d : BitVec 5) (a : BitVec 5) (b : BitVec 5) (s : State) : Out := s.setReg d (s.x a - s.x b)

/-- ADDW: Writes the sign-extended low 32 bits of the sum. (R116) -/
def execAddw (d : BitVec 5) (a : BitVec 5) (b : BitVec 5) (s : State) : Out := s.setReg d (sextW (s.x a + s.x b))

/-- SUBW: Writes the sign-extended low 32 bits of the difference. (R116) -/
def execSubw (d : BitVec 5) (a : BitVec 5) (b : BitVec 5) (s : State) : Out := s.setReg d (sextW (s.x a - s.x b))

/-- AND: Writes the bitwise AND of two x registers. (R116) -/
def execAnd (d : BitVec 5) (a : BitVec 5) (b : BitVec 5) (s : State) : Out := s.setReg d (s.x a &&& s.x b)

/-- OR: Writes the bitwise OR of two x registers. (R116) -/
def execOr (d : BitVec 5) (a : BitVec 5) (b : BitVec 5) (s : State) : Out := s.setReg d (s.x a ||| s.x b)

/-- XOR: Writes the bitwise XOR of two x registers. (R116) -/
def execXor (d : BitVec 5) (a : BitVec 5) (b : BitVec 5) (s : State) : Out := s.setReg d (s.x a ^^^ s.x b)

/-- ANDN: Writes A AND NOT B. (R116) -/
def execAndn (d : BitVec 5) (a : BitVec 5) (b : BitVec 5) (s : State) : Out := s.setReg d (s.x a &&& ~~~(s.x b))

/-- ORN: Writes A OR NOT B. (R116) -/
def execOrn (d : BitVec 5) (a : BitVec 5) (b : BitVec 5) (s : State) : Out := s.setReg d (s.x a ||| ~~~(s.x b))

/-- SLL: Shifts A left by B[5:0]. (R116) -/
def execSll (d : BitVec 5) (a : BitVec 5) (b : BitVec 5) (s : State) : Out := s.setReg d (s.x a <<< shamt (s.x b))

/-- SRL: Shifts A logically right by B[5:0]. (R116) -/
def execSrl (d : BitVec 5) (a : BitVec 5) (b : BitVec 5) (s : State) : Out := s.setReg d (s.x a >>> shamt (s.x b))

/-- SRA: Shifts A arithmetically right by B[5:0]. (R116) -/
def execSra (d : BitVec 5) (a : BitVec 5) (b : BitVec 5) (s : State) : Out := s.setReg d ((s.x a).sshiftRight (shamt (s.x b)))

/-- ROL: Rotates A left by B[5:0]. (R116) -/
def execRol (d : BitVec 5) (a : BitVec 5) (b : BitVec 5) (s : State) : Out := s.setReg d ((s.x a).rotateLeft (shamt (s.x b)))

/-- ROR: Rotates A right by B[5:0]. (R116) -/
def execRor (d : BitVec 5) (a : BitVec 5) (b : BitVec 5) (s : State) : Out := s.setReg d ((s.x a).rotateRight (shamt (s.x b)))

/-- SLT: Writes 1 if A is less than B, signed. (R116) -/
def execSlt (d : BitVec 5) (a : BitVec 5) (b : BitVec 5) (s : State) : Out := s.setReg d (b2w ((s.x a).slt (s.x b)))

/-- SLTU: Writes 1 if A is less than B, unsigned. (R116) -/
def execSltu (d : BitVec 5) (a : BitVec 5) (b : BitVec 5) (s : State) : Out := s.setReg d (b2w ((s.x a).ult (s.x b)))

/-- SEQ: Writes 1 if A equals B. (R116) -/
def execSeq (d : BitVec 5) (a : BitVec 5) (b : BitVec 5) (s : State) : Out := s.setReg d (b2w (s.x a == s.x b))

/-- MIN: Writes the signed lesser of A and B. (R116) -/
def execMin (d : BitVec 5) (a : BitVec 5) (b : BitVec 5) (s : State) : Out := s.setReg d (if (s.x a).slt (s.x b) then s.x a else s.x b)

/-- MAX: Writes the signed greater of A and B. (R116) -/
def execMax (d : BitVec 5) (a : BitVec 5) (b : BitVec 5) (s : State) : Out := s.setReg d (if (s.x a).slt (s.x b) then s.x b else s.x a)

/-- MINU: Writes the unsigned lesser of A and B. (R116) -/
def execMinu (d : BitVec 5) (a : BitVec 5) (b : BitVec 5) (s : State) : Out := s.setReg d (if (s.x a).ult (s.x b) then s.x a else s.x b)

/-- MAXU: Writes the unsigned greater of A and B. (R116) -/
def execMaxu (d : BitVec 5) (a : BitVec 5) (b : BitVec 5) (s : State) : Out := s.setReg d (if (s.x a).ult (s.x b) then s.x b else s.x a)

/-- CLZ: Counts leading zero bits of A. (R116) -/
def execClz (d : BitVec 5) (a : BitVec 5) (s : State) : Out := s.setReg d (ofN (clz64 (s.x a)))

/-- CTZ: Counts trailing zero bits of A. (R116) -/
def execCtz (d : BitVec 5) (a : BitVec 5) (s : State) : Out := s.setReg d (ofN (ctz64 (s.x a)))

/-- POPC: Counts set bits of A. (R116) -/
def execPopc (d : BitVec 5) (a : BitVec 5) (s : State) : Out := s.setReg d (ofN (popNat 64 (s.x a).toNat))

/-- BREV: Reverses the bits of A. (R116) -/
def execBrev (d : BitVec 5) (a : BitVec 5) (s : State) : Out := s.setReg d (revBits (s.x a))

/-- BSWAP: Reverses the bytes of A. (R116) -/
def execBswap (d : BitVec 5) (a : BitVec 5) (s : State) : Out := s.setReg d (bytesWord (wordBytes (s.x a)).reverse)

/-- SEXT_B: Sign-extends A[7:0]. (R116) -/
def execSextB (d : BitVec 5) (a : BitVec 5) (s : State) : Out := s.setReg d (sext64 ((s.x a).setWidth 8))

/-- SEXT_H: Sign-extends A[15:0]. (R116) -/
def execSextH (d : BitVec 5) (a : BitVec 5) (s : State) : Out := s.setReg d (sext64 ((s.x a).setWidth 16))

/-- SEXT_W: Sign-extends A[31:0]. (R116) -/
def execSextW (d : BitVec 5) (a : BitVec 5) (s : State) : Out := s.setReg d (sextW (s.x a))

/-- ZEXT_B: Zero-extends A[7:0]. (R116) -/
def execZextB (d : BitVec 5) (a : BitVec 5) (s : State) : Out := s.setReg d (zext64 ((s.x a).setWidth 8))

/-- ZEXT_H: Zero-extends A[15:0]. (R116) -/
def execZextH (d : BitVec 5) (a : BitVec 5) (s : State) : Out := s.setReg d (zext64 ((s.x a).setWidth 16))

/-- ZEXT_W: Zero-extends A[31:0]. (R116) -/
def execZextW (d : BitVec 5) (a : BitVec 5) (s : State) : Out := s.setReg d (zext64 ((s.x a).setWidth 32))

/-- SHADD: Writes A shifted left by n (1 to 4) plus B. (R116) -/
def execShadd (d : BitVec 5) (a : BitVec 5) (b : BitVec 5) (n : BitVec 2) (s : State) : Out := s.setReg d (s.x a <<< (n.toNat + 1) + s.x b)

/-- ADDI: Adds a sign-extended 14-bit immediate. (R117) -/
def execAddi (d : BitVec 5) (a : BitVec 5) (i : BitVec 14) (s : State) : Out := s.setReg d (s.x a + imm14 i)

/-- ANDI: ANDs with a sign-extended immediate. (R117) -/
def execAndi (d : BitVec 5) (a : BitVec 5) (i : BitVec 14) (s : State) : Out := s.setReg d (s.x a &&& imm14 i)

/-- ORI: ORs with a sign-extended immediate. (R117) -/
def execOri (d : BitVec 5) (a : BitVec 5) (i : BitVec 14) (s : State) : Out := s.setReg d (s.x a ||| imm14 i)

/-- XORI: XORs with a sign-extended immediate. (R117) -/
def execXori (d : BitVec 5) (a : BitVec 5) (i : BitVec 14) (s : State) : Out := s.setReg d (s.x a ^^^ imm14 i)

/-- SLLI: Shifts left by an immediate amount. (R117) -/
def execSlli (d : BitVec 5) (a : BitVec 5) (n : BitVec 6) (s : State) : Out := s.setReg d (s.x a <<< n.toNat)

/-- SRLI: Shifts logically right by an immediate amount. (R117) -/
def execSrli (d : BitVec 5) (a : BitVec 5) (n : BitVec 6) (s : State) : Out := s.setReg d (s.x a >>> n.toNat)

/-- SRAI: Shifts arithmetically right by an immediate amount. (R117) -/
def execSrai (d : BitVec 5) (a : BitVec 5) (n : BitVec 6) (s : State) : Out := s.setReg d ((s.x a).sshiftRight n.toNat)

/-- RORI: Rotates right by an immediate amount. (R117) -/
def execRori (d : BitVec 5) (a : BitVec 5) (n : BitVec 6) (s : State) : Out := s.setReg d ((s.x a).rotateRight n.toNat)

/-- SLTI: Writes 1 if A is less than the immediate, signed. (R117) -/
def execSlti (d : BitVec 5) (a : BitVec 5) (i : BitVec 14) (s : State) : Out := s.setReg d (b2w ((s.x a).slt (imm14 i)))

/-- SLTIU: Writes 1 if A is less than the sign-extended immediate, unsigned. (R117) -/
def execSltiu (d : BitVec 5) (a : BitVec 5) (i : BitVec 14) (s : State) : Out := s.setReg d (b2w ((s.x a).ult (imm14 i)))

/-- LUI: Writes imm19 times 8,192, sign-extended. (R118) -/
def execLui (d : BitVec 5) (i : BitVec 19) (s : State) : Out := s.setReg d ((i ++ (0 : BitVec 13)).signExtend 64)

/-- ADDPC: Writes PC plus imm19 times 8,192. (R118) -/
def execAddpc (d : BitVec 5) (i : BitVec 19) (s : State) : Out := s.setReg d (s.pc + (i ++ (0 : BitVec 13)).signExtend 64)


end Sys2Proof.Machine
end

