-- ==== Sys2Proof/Machine/MulDiv.lean ====
section
/-! DEFINITION. The MULDIV group (R119). -/

namespace Sys2Proof.Machine

/-- sx(A) / sx(B) as DIV gives it: saturating where no quotient exists or fits (R119). -/
def divS (a b : Word) : Word :=
  if b = 0 then (if a.slt 0 then 0x8000000000000000 else 0x7FFFFFFFFFFFFFFF)
  else if a = 0x8000000000000000 ∧ b = BitVec.allOnes 64 then 0x7FFFFFFFFFFFFFFF
  else ofI (a.toInt.tdiv b.toInt)

/-- The remainder of REM, 0 where DIV saturates (R119). -/
def remS (a b : Word) : Word :=
  if b = 0 ∨ (a = 0x8000000000000000 ∧ b = BitVec.allOnes 64) then 0 else ofI (a.toInt.tmod b.toInt)

/-- The quotient of DIVU (R119). -/
def divU (a b : Word) : Word := if b = 0 then BitVec.allOnes 64 else ofN (a.toNat / b.toNat)

/-- The remainder of REMU (R119). -/
def remU (a b : Word) : Word := if b = 0 then 0 else ofN (a.toNat % b.toNat)

/-- MUL: Writes the low 64 bits of the product. (R119) -/
def execMul (d : BitVec 5) (a : BitVec 5) (b : BitVec 5) (s : State) : Out := s.setReg d (s.x a * s.x b)

/-- MULH: Writes the high 64 bits of the signed product. (R119) -/
def execMulh (d : BitVec 5) (a : BitVec 5) (b : BitVec 5) (s : State) : Out := s.setReg d (ofI ((s.x a).toInt * (s.x b).toInt / 2 ^ 64))

/-- MULHU: Writes the high 64 bits of the unsigned product. (R119) -/
def execMulhu (d : BitVec 5) (a : BitVec 5) (b : BitVec 5) (s : State) : Out := s.setReg d (ofN ((s.x a).toNat * (s.x b).toNat / 2 ^ 64))

/-- MULHSU: Writes the high 64 bits of the signed-by-unsigned product. (R119) -/
def execMulhsu (d : BitVec 5) (a : BitVec 5) (b : BitVec 5) (s : State) : Out := s.setReg d (ofI ((s.x a).toInt * (s.x b).toNat / 2 ^ 64))

/-- MULW: Writes the sign-extended low 32 bits of the product. (R119) -/
def execMulw (d : BitVec 5) (a : BitVec 5) (b : BitVec 5) (s : State) : Out := s.setReg d (sextW (s.x a * s.x b))

/-- DIV: Signed division toward zero, saturating without trap. (R119) -/
def execDiv (d : BitVec 5) (a : BitVec 5) (b : BitVec 5) (s : State) : Out := s.setReg d (divS (s.x a) (s.x b))

/-- DIVU: Unsigned division toward zero, saturating without trap. (R119) -/
def execDivu (d : BitVec 5) (a : BitVec 5) (b : BitVec 5) (s : State) : Out := s.setReg d (divU (s.x a) (s.x b))

/-- REM: Signed remainder of DIV. (R119) -/
def execRem (d : BitVec 5) (a : BitVec 5) (b : BitVec 5) (s : State) : Out := s.setReg d (remS (s.x a) (s.x b))

/-- REMU: Unsigned remainder of DIVU. (R119) -/
def execRemu (d : BitVec 5) (a : BitVec 5) (b : BitVec 5) (s : State) : Out := s.setReg d (remU (s.x a) (s.x b))

/-- MADD: Adds A times B to X[d], wrapped. (R119) -/
def execMadd (d : BitVec 5) (a : BitVec 5) (b : BitVec 5) (s : State) : Out := s.setReg d (s.x d + s.x a * s.x b)


end Sys2Proof.Machine
end

