-- ==== Sys2Proof/Machine/LoadStore.lean ====
section
/-! DEFINITION. Loads and stores (R120, R121). -/

namespace Sys2Proof.Machine

/-- A load of `n` bytes into X[d], sign- or zero-extended; with d = 0 the access is made and its value discarded (R120). -/
def State.loadReg (s : State) (d : BitVec 5) (ea : Word) (n : Nat) (signed : Bool) (len : Nat := 4) : Out :=
  finish s (do
    let b ← s.load ea n
    .ok (((s.touch ea n).wx d (if signed then ofI (sxN (8 * n) (leNat b)) else bytesWord b)).adv len)) len

/-- The address of a load or store (R120). -/
def State.ea (s : State) (a : BitVec 5) (i : BitVec 14) : Word := s.x a + imm14 i

/-- LDB: Loads a sign-extended byte. (R120) -/
def execLdb (d : BitVec 5) (a : BitVec 5) (i : BitVec 14) (s : State) : Out := s.loadReg d (s.ea a i) 1 true

/-- LDBU: Loads a zero-extended byte. (R120) -/
def execLdbu (d : BitVec 5) (a : BitVec 5) (i : BitVec 14) (s : State) : Out := s.loadReg d (s.ea a i) 1 false

/-- LDH: Loads a sign-extended halfword. (R120) -/
def execLdh (d : BitVec 5) (a : BitVec 5) (i : BitVec 14) (s : State) : Out := s.loadReg d (s.ea a i) 2 true

/-- LDHU: Loads a zero-extended halfword. (R120) -/
def execLdhu (d : BitVec 5) (a : BitVec 5) (i : BitVec 14) (s : State) : Out := s.loadReg d (s.ea a i) 2 false

/-- LDW: Loads a sign-extended word. (R120) -/
def execLdw (d : BitVec 5) (a : BitVec 5) (i : BitVec 14) (s : State) : Out := s.loadReg d (s.ea a i) 4 true

/-- LDWU: Loads a zero-extended word. (R120) -/
def execLdwu (d : BitVec 5) (a : BitVec 5) (i : BitVec 14) (s : State) : Out := s.loadReg d (s.ea a i) 4 false

/-- LDD: Loads a doubleword. (R120) -/
def execLdd (d : BitVec 5) (a : BitVec 5) (i : BitVec 14) (s : State) : Out := s.loadReg d (s.ea a i) 8 false

/-- STB: Stores a byte, at issue or journaled by R121. (R120) -/
def execStb (s : BitVec 5) (b : BitVec 5) (i : BitVec 14) (s0 : State) : Out := s0.storeScalar (s0.ea b i) (leBytes 1 (s0.x s).toNat)

/-- STH: Stores a halfword. (R120) -/
def execSth (s : BitVec 5) (b : BitVec 5) (i : BitVec 14) (s0 : State) : Out := s0.storeScalar (s0.ea b i) (leBytes 2 (s0.x s).toNat)

/-- STW: Stores a word. (R120) -/
def execStw (s : BitVec 5) (b : BitVec 5) (i : BitVec 14) (s0 : State) : Out := s0.storeScalar (s0.ea b i) (leBytes 4 (s0.x s).toNat)

/-- STD: Stores a doubleword. (R120) -/
def execStd (s : BitVec 5) (b : BitVec 5) (i : BitVec 14) (s0 : State) : Out := s0.storeScalar (s0.ea b i) (leBytes 8 (s0.x s).toNat)

/-- FLDW: Loads a word into an f register, zero-extended. (R120) -/
def execFldw (d : BitVec 5) (a : BitVec 5) (i : BitVec 14) (s : State) : Out :=
  if s.cur.isSeq then illegalIssuer s (word.fldw d a i)
  else finishOut s (do
    let b ← s.load (s.ea a i) 4
    .ok ((s.touch (s.ea a i) 4).fOut [] d (bytesWord b)))

/-- FLDD: Loads a doubleword into an f register. (R120) -/
def execFldd (d : BitVec 5) (a : BitVec 5) (i : BitVec 14) (s : State) : Out :=
  if s.cur.isSeq then illegalIssuer s (word.fldd d a i)
  else finishOut s (do
    let b ← s.load (s.ea a i) 8
    .ok ((s.touch (s.ea a i) 8).fOut [] d (bytesWord b)))

/-- FSTW: Stores F[data][31:0]. (R120) -/
def execFstw (s : BitVec 5) (b : BitVec 5) (i : BitVec 14) (s0 : State) : Out :=
  if s0.cur.isSeq then illegalIssuer s0 (word.fstw s b i)
  else s0.streamOut (do
    let v ← s0.fSrc s
    let ea := s0.ea b i
    check (decide (ea.toNat % 4 = 0)) Cause.misaligned ea
    let acc ← s0.storeCheck s0.cur ea 4
    .ok (s0.storeAll [{ va := ea, acc := acc, bs := (leBytes 4 v.toNat).map some, cost := 16 }]
      fun t => (t.popAll (s0.slotsOf false [s])).adv 4))

/-- FSTD: Stores an f register doubleword. (R120) -/
def execFstd (s : BitVec 5) (b : BitVec 5) (i : BitVec 14) (s0 : State) : Out :=
  if s0.cur.isSeq then illegalIssuer s0 (word.fstd s b i)
  else s0.streamOut (do
    let v ← s0.fSrc s
    let ea := s0.ea b i
    check (decide (ea.toNat % 8 = 0)) Cause.misaligned ea
    let acc ← s0.storeCheck s0.cur ea 8
    .ok (s0.storeAll [{ va := ea, acc := acc, bs := (leBytes 8 v.toNat).map some, cost := 16 }]
      fun t => (t.popAll (s0.slotsOf false [s])).adv 4))


end Sys2Proof.Machine
end

