-- ==== Sys2Proof/Machine/Control.lean ====
section
/-! DEFINITION. Branches, jumps and LOOP (R122 to R125). -/

namespace Sys2Proof.Machine

/-- A conditional transfer by `off` bytes; not taken, the instruction of `len` bytes completes (R122, R124). -/
def State.branch (s : State) (taken : Bool) (off : Word) (len : Nat := 4) : Out :=
  .next (if taken then s.jump (s.pc + off) else s.adv len)

/-- A transfer that links: X[d] := NextPC, PC := t (R123). -/
def State.link (s : State) (d : BitVec 5) (t : Word) (len : Nat := 4) : Out := .next ((s.wx d (s.pc + ofN len)).jump t)

/-- A register-relative transfer: an odd target takes MISALIGNED and writes nothing (R46, R123). -/
def State.linkReg (s : State) (d : BitVec 5) (t : Word) (len : Nat := 4) : Out :=
  if bitAt t 0 then trapOut s Cause.misaligned t else s.link d t len

/-- A halfword count as a byte offset (R49). -/
def halfwords {n : Nat} (o : BitVec n) : Word := (sext64 o) <<< 1

/-- BEQ: Branches if A equals B. (R122) -/
def execBeq (a : BitVec 5) (b : BitVec 5) (o : BitVec 11) (s : State) : Out := s.branch (s.x a == s.x b) (halfwords o)

/-- BNE: Branches if A differs from B. (R122) -/
def execBne (a : BitVec 5) (b : BitVec 5) (o : BitVec 11) (s : State) : Out := s.branch (s.x a != s.x b) (halfwords o)

/-- BLT: Branches if A is less than B, signed. (R122) -/
def execBlt (a : BitVec 5) (b : BitVec 5) (o : BitVec 11) (s : State) : Out := s.branch ((s.x a).slt (s.x b)) (halfwords o)

/-- BGE: Branches if A is at least B, signed. (R122) -/
def execBge (a : BitVec 5) (b : BitVec 5) (o : BitVec 11) (s : State) : Out := s.branch (!(s.x a).slt (s.x b)) (halfwords o)

/-- BLTU: Branches if A is less than B, unsigned. (R122) -/
def execBltu (a : BitVec 5) (b : BitVec 5) (o : BitVec 11) (s : State) : Out := s.branch ((s.x a).ult (s.x b)) (halfwords o)

/-- BGEU: Branches if A is at least B, unsigned. (R122) -/
def execBgeu (a : BitVec 5) (b : BitVec 5) (o : BitVec 11) (s : State) : Out := s.branch (!(s.x a).ult (s.x b)) (halfwords o)

/-- BBS: Branches if bit B[5:0] of A is set. (R122) -/
def execBbs (a : BitVec 5) (b : BitVec 5) (o : BitVec 11) (s : State) : Out := s.branch (bitAt (s.x a) (shamt (s.x b))) (halfwords o)

/-- BBC: Branches if bit B[5:0] of A is clear. (R122) -/
def execBbc (a : BitVec 5) (b : BitVec 5) (o : BitVec 11) (s : State) : Out := s.branch (!bitAt (s.x a) (shamt (s.x b))) (halfwords o)

/-- JAL: Writes the return address and jumps by a halfword offset. (R123) -/
def execJal (d : BitVec 5) (o : BitVec 19) (s : State) : Out := s.link d (s.pc + halfwords o)

/-- JALR: Writes the return address and jumps to a register plus offset. (R123) -/
def execJalr (d : BitVec 5) (a : BitVec 5) (i : BitVec 14) (s : State) : Out := s.linkReg d (s.x a + imm14 i)

/-- LOOP: Opens a hardware loop counted in X[d]. A fault on the fetch at its last instruction is taken with EPC at the LOOP. (R124) -/
def execLoopI (d : BitVec 5) (i : BitVec 14) (s : State) : Out :=
  let last := s.pc + halfwords i
  if s.x d = 0 then
    match s.fetchBlock s.cur last with
    | .error e => finish s (.error e) 0
    | .ok (s1, bs) =>
      .next (s1.modMe fun t => { t with loopActive := false, pc := last + (if isLong (halfAt bs (last.toNat % 32)) then 4 else 2) })
  else
    .next (s.modMe fun t =>
      { t with loopStart := t.pc + 4, loopLast := last, loopReg := d, loopActive := true, pc := t.pc + 4 })


end Sys2Proof.Machine
end

