-- ==== Sys2Proof/Machine/Fp.lean ====
section
/-! DEFINITION. The FP group (R126 to R129). -/

namespace Sys2Proof.Machine

/-- The format of an FP instruction: FP32 with the format bit, else FP64 (R126). -/
def fpFmt (f : BitVec 1) : Fmt := if f = 1 then fp32 else fp64

/-- The code that an f register holds for a format: an FP32 operation reads bits [31:0] (R126). -/
def fpCode (f : BitVec 1) (v : Word) : Nat := if f = 1 then v.toNat % 2 ^ 32 else v.toNat

/-- An FP instruction of two sources into F[d]. -/
def State.fp2 (s : State) (e : Enc) (d a b : BitVec 5) (f : BitVec 1) (op : Nat → Nat → Nat × FFlags) : Out :=
  if s.cur.isSeq then illegalIssuer s e
  else s.streamOut (do
    let x ← s.fSrc a
    let y ← s.fSrc b
    let r := op (fpCode f x) (fpCode f y)
    .ok (s.fOut [a, b] d (ofN r.1) r.2))

/-- An FP instruction of three sources, F[d] being the third, into F[d]. -/
def State.fp3 (s : State) (e : Enc) (d a b : BitVec 5) (f : BitVec 1) (op : Nat → Nat → Nat → Nat × FFlags) : Out :=
  if s.cur.isSeq then illegalIssuer s e
  else s.streamOut (do
    let x ← s.fSrc a
    let y ← s.fSrc b
    let z ← s.fSrc d
    let r := op (fpCode f x) (fpCode f y) (fpCode f z)
    .ok (s.fOut [a, b, d] d (ofN r.1) r.2))

/-- An FP instruction of one source into F[d]. -/
def State.fp1 (s : State) (e : Enc) (d a : BitVec 5) (f : BitVec 1) (op : Nat → Nat × FFlags) : Out :=
  if s.cur.isSeq then illegalIssuer s e
  else s.streamOut (do
    let x ← s.fSrc a
    let r := op (fpCode f x)
    .ok (s.fOut [a] d (ofN r.1) r.2))

/-- An FP instruction of one source into X[d]. -/
def State.fpX1 (s : State) (e : Enc) (d a : BitVec 5) (f : BitVec 1) (op : Nat → Word × FFlags) : Out :=
  if s.cur.isSeq then illegalIssuer s e
  else s.streamOut (do
    let x ← s.fSrc a
    let r := op (fpCode f x)
    .ok (s.complete (s.slotsOf false [a]) r.2 fun t => t.wx d r.1))

/-- FCMP with condition `c` (R128). -/
def State.fpCmp (s : State) (e : Enc) (c : Nat) (d a b : BitVec 5) (f : BitVec 1) : Out :=
  if s.cur.isSeq then illegalIssuer s e
  else s.streamOut (do
    let x ← s.fSrc a
    let y ← s.fSrc b
    let r := fcmp c ((fpFmt f).decode (fpCode f x)) ((fpFmt f).decode (fpCode f y))
    .ok (s.complete (s.slotsOf false [a, b]) r.2 fun t => t.wx d (b2w r.1)))

/-- The bits of `a` with the sign bit of the format replaced (R129). -/
def fsgnBits (f : BitVec 1) (sign : Bool → Bool → Bool) (x y : Nat) : Nat × FFlags :=
  let k := if f = 1 then 31 else 63
  ((x % 2 ^ k) + b2n (sign (x.testBit k) (y.testBit k)) * 2 ^ k, 0)

/-- Least and greatest value of an integer kind: i64, u64, i32, u32 (R126). -/
def kindLo (k : Nat) : Int := if k = 0 then intLo true 64 else if k = 2 then intLo true 32 else 0
def kindHi (k : Nat) : Int :=
  if k = 0 then intHi true 64 else if k = 1 then intHi false 64 else if k = 2 then intHi true 32 else intHi false 32

/-- X[a] read as an integer kind (R129). -/
def kindValue (k : Nat) (v : Word) : Int :=
  if k = 0 then v.toInt else if k = 1 then v.toNat else if k = 2 then sxN 32 v.toNat else (v.toNat % 2 ^ 32 : Nat)

/-- FADD: Floating-point add, rounded once. (R127) -/
def execFadd (d : BitVec 5) (a : BitVec 5) (b : BitVec 5) (r : BitVec 3) (f : BitVec 1) (s : State) : Out := s.fp2 (word.fadd d a b r f) d a b f ((fpFmt f).add (s.roundMode r))

/-- FSUB: Floating-point subtract. (R127) -/
def execFsub (d : BitVec 5) (a : BitVec 5) (b : BitVec 5) (r : BitVec 3) (f : BitVec 1) (s : State) : Out := s.fp2 (word.fsub d a b r f) d a b f ((fpFmt f).sub (s.roundMode r))

/-- FMUL: Floating-point multiply. (R127) -/
def execFmul (d : BitVec 5) (a : BitVec 5) (b : BitVec 5) (r : BitVec 3) (f : BitVec 1) (s : State) : Out := s.fp2 (word.fmul d a b r f) d a b f ((fpFmt f).mul (s.roundMode r))

/-- FDIV: Floating-point divide. (R127) -/
def execFdiv (d : BitVec 5) (a : BitVec 5) (b : BitVec 5) (r : BitVec 3) (f : BitVec 1) (s : State) : Out := s.fp2 (word.fdiv d a b r f) d a b f ((fpFmt f).div (s.roundMode r))

/-- FSQRT: Floating-point square root. (R127) -/
def execFsqrt (d : BitVec 5) (a : BitVec 5) (r : BitVec 3) (f : BitVec 1) (s : State) : Out := s.fp1 (word.fsqrt d a r f) d a f ((fpFmt f).sqrt (s.roundMode r))

/-- FMA: Fused a times b plus F[d]. (R127) -/
def execFma (d : BitVec 5) (a : BitVec 5) (b : BitVec 5) (r : BitVec 3) (f : BitVec 1) (s : State) : Out := s.fp3 (word.fma d a b r f) d a b f ((fpFmt f).fma (s.roundMode r))

/-- FMS: Fused a times b minus F[d]. (R127) -/
def execFms (d : BitVec 5) (a : BitVec 5) (b : BitVec 5) (r : BitVec 3) (f : BitVec 1) (s : State) : Out := s.fp3 (word.fms d a b r f) d a b f ((fpFmt f).fms (s.roundMode r))

/-- FNMA: Fused F[d] minus a times b. (R127) -/
def execFnma (d : BitVec 5) (a : BitVec 5) (b : BitVec 5) (r : BitVec 3) (f : BitVec 1) (s : State) : Out := s.fp3 (word.fnma d a b r f) d a b f ((fpFmt f).fnma (s.roundMode r))

/-- FMIN: Floating-point minimum with -0 below +0. (R128) -/
def execFmin (d : BitVec 5) (a : BitVec 5) (b : BitVec 5) (f : BitVec 1) (s : State) : Out := s.fp2 (word.fmin d a b f) d a b f ((fpFmt f).minMax false)

/-- FMAX: Floating-point maximum. (R128) -/
def execFmax (d : BitVec 5) (a : BitVec 5) (b : BitVec 5) (f : BitVec 1) (s : State) : Out := s.fp2 (word.fmax d a b f) d a b f ((fpFmt f).minMax true)

/-- FCMP_EQ: Writes 1 to X[d] if a equals b. (R128) -/
def execFcmpEq (d : BitVec 5) (a : BitVec 5) (b : BitVec 5) (f : BitVec 1) (s : State) : Out := s.fpCmp (word.fcmpEq d a b f) 0 d a b f

/-- FCMP_LT: Writes 1 to X[d] if a is less than b. (R128) -/
def execFcmpLt (d : BitVec 5) (a : BitVec 5) (b : BitVec 5) (f : BitVec 1) (s : State) : Out := s.fpCmp (word.fcmpLt d a b f) 1 d a b f

/-- FCMP_LE: Writes 1 to X[d] if a is at most b. (R128) -/
def execFcmpLe (d : BitVec 5) (a : BitVec 5) (b : BitVec 5) (f : BitVec 1) (s : State) : Out := s.fpCmp (word.fcmpLe d a b f) 2 d a b f

/-- FCMP_UN: Writes 1 to X[d] if either operand is NaN. (R128) -/
def execFcmpUn (d : BitVec 5) (a : BitVec 5) (b : BitVec 5) (f : BitVec 1) (s : State) : Out := s.fpCmp (word.fcmpUn d a b f) 3 d a b f

/-- FCLASS: Writes the class word of a floating-point value. (R128) -/
def execFclass (d : BitVec 5) (a : BitVec 5) (f : BitVec 1) (s : State) : Out := s.fpX1 (word.fclass d a f) d a f fun x => ((fpFmt f).classWord x, 0)

/-- FCVT_S: Rounds an FP64 value to FP32. (R129) -/
def execFcvtS (d : BitVec 5) (a : BitVec 5) (r : BitVec 3) (s : State) : Out :=
  s.fp1 (word.fcvtS d a r) d a 0 fun x =>
    let q := roundFP fp32 (s.roundMode r) false (fp64.decode x)
    (q.1, (fp64.decode x).snan ||| q.2)

/-- FCVT_D: Widens an FP32 value to FP64 exactly. (R129) -/
def execFcvtD (d : BitVec 5) (a : BitVec 5) (s : State) : Out :=   s.fp1 (word.fcvtD d a) d a 1 fun x => ((roundFP fp64 0 false (fp32.decode x)).1, (fp32.decode x).snan)

/-- FCVTI: Converts a floating-point value to an integer kind by ConvInt. (R129) -/
def execFcvti (d : BitVec 5) (a : BitVec 5) (k : BitVec 5) (r : BitVec 3) (f : BitVec 1) (s : State) : Out :=
  s.fpX1 (word.fcvti d a k r f) d a f fun x =>
    let q := convInt (s.roundMode r) (kindLo k.toNat) (kindHi k.toNat) ((fpFmt f).decode x)
    (ofI q.1, q.2.1)

/-- FCVTF: Converts an integer kind to floating point. (R129) -/
def execFcvtf (d : BitVec 5) (a : BitVec 5) (k : BitVec 5) (r : BitVec 3) (f : BitVec 1) (s : State) : Out :=
  if s.cur.isSeq then illegalIssuer s (word.fcvtf d a k r f)
  else
    let q := roundFP (fpFmt f) (s.roundMode r) false (Num.ofInt (kindValue k.toNat (s.x a)))
    s.fOut [] d (ofN q.1) q.2

/-- FMVXF: Copies f register bits to an x register. (R129) -/
def execFmvxf (d : BitVec 5) (a : BitVec 5) (f : BitVec 1) (s : State) : Out := s.fpX1 (word.fmvxf d a f) d a f fun x => (if f = 1 then ofI (sxN 32 x) else ofN x, 0)

/-- FMVFX: Copies x register bits to an f register. (R129) -/
def execFmvfx (d : BitVec 5) (a : BitVec 5) (f : BitVec 1) (s : State) : Out :=
  if s.cur.isSeq then illegalIssuer s (word.fmvfx d a f)
  else s.fOut [] d (ofN (fpCode f (s.x a)))

/-- FSGN: Copies a with the sign of b. (R129) -/
def execFsgn (d : BitVec 5) (a : BitVec 5) (b : BitVec 5) (f : BitVec 1) (s : State) : Out := s.fp2 (word.fsgn d a b f) d a b f (fsgnBits f (fun _ y => y))

/-- FSGNN: Copies a with the inverted sign of b. (R129) -/
def execFsgnn (d : BitVec 5) (a : BitVec 5) (b : BitVec 5) (f : BitVec 1) (s : State) : Out := s.fp2 (word.fsgnn d a b f) d a b f (fsgnBits f (fun _ y => !y))

/-- FSGNX: Copies a with the XOR of both signs. (R129) -/
def execFsgnx (d : BitVec 5) (a : BitVec 5) (b : BitVec 5) (f : BitVec 1) (s : State) : Out := s.fp2 (word.fsgnx d a b f) d a b f (fsgnBits f (fun x y => x != y))


end Sys2Proof.Machine
end

