-- ==== Sys2Proof/Machine/Compact.lean ====
section
/-! DEFINITION. The compact forms (R56 to R58), each with the effect of its expansion and a length of 2. -/

namespace Sys2Proof.Machine

/-- C_MV: Compact move. (R57) -/
def execCMv (d : BitVec 5) (a : BitVec 5) (s : State) : Out := s.setReg d (s.x a + 0) 2

/-- C_ADD: Compact add. (R57) -/
def execCAdd (d : BitVec 5) (a : BitVec 5) (s : State) : Out := s.setReg d (s.x d + s.x a) 2

/-- C_SUB: Compact subtract. (R57) -/
def execCSub (d : BitVec 5) (a : BitVec 5) (s : State) : Out := s.setReg d (s.x d - s.x a) 2

/-- C_AND: Compact AND. (R57) -/
def execCAnd (d : BitVec 5) (a : BitVec 5) (s : State) : Out := s.setReg d (s.x d &&& s.x a) 2

/-- C_OR: Compact OR. (R57) -/
def execCOr (d : BitVec 5) (a : BitVec 5) (s : State) : Out := s.setReg d (s.x d ||| s.x a) 2

/-- C_XOR: Compact XOR. (R57) -/
def execCXor (d : BitVec 5) (a : BitVec 5) (s : State) : Out := s.setReg d (s.x d ^^^ s.x a) 2

/-- C_SLL: Compact shift left. (R57) -/
def execCSll (d : BitVec 5) (a : BitVec 5) (s : State) : Out := s.setReg d (s.x d <<< shamt (s.x a)) 2

/-- C_SRL: Compact logical shift right. (R57) -/
def execCSrl (d : BitVec 5) (a : BitVec 5) (s : State) : Out := s.setReg d (s.x d >>> shamt (s.x a)) 2

/-- C_SRA: Compact arithmetic shift right. (R57) -/
def execCSra (d : BitVec 5) (a : BitVec 5) (s : State) : Out := s.setReg d ((s.x d).sshiftRight (shamt (s.x a))) 2

/-- C_MUL: Compact multiply. (R57) -/
def execCMul (d : BitVec 5) (a : BitVec 5) (s : State) : Out := s.setReg d (s.x d * s.x a) 2

/-- C_SLT: Compact signed set-less-than. (R57) -/
def execCSlt (d : BitVec 5) (a : BitVec 5) (s : State) : Out := s.setReg d (b2w ((s.x d).slt (s.x a))) 2

/-- C_ADDI: Compact add immediate. (R57) -/
def execCAddi (d : BitVec 5) (i : BitVec 5) (s : State) : Out := s.setReg d (s.x d + sext64 i) 2

/-- C_LI: Compact load immediate. (R57) -/
def execCLi (d : BitVec 5) (i : BitVec 5) (s : State) : Out := s.setReg d (sext64 i) 2

/-- C_SLLI: Compact shift left immediate. (R57) -/
def execCSlli (d : BitVec 5) (n : BitVec 5) (s : State) : Out := s.setReg d (s.x d <<< n.toNat) 2

/-- C_SRLI: Compact logical shift right immediate. (R57) -/
def execCSrli (d : BitVec 5) (n : BitVec 5) (s : State) : Out := s.setReg d (s.x d >>> n.toNat) 2

/-- C_SRAI: Compact arithmetic shift right immediate. (R57) -/
def execCSrai (d : BitVec 5) (n : BitVec 5) (s : State) : Out := s.setReg d ((s.x d).sshiftRight n.toNat) 2

/-- C_ANDI: Compact AND immediate. (R57) -/
def execCAndi (d : BitVec 5) (i : BitVec 5) (s : State) : Out := s.setReg d (s.x d &&& sext64 i) 2

/-- C_ORI: Compact OR immediate. (R57) -/
def execCOri (d : BitVec 5) (i : BitVec 5) (s : State) : Out := s.setReg d (s.x d ||| sext64 i) 2

/-- C_XORI: Compact XOR immediate. (R57) -/
def execCXori (d : BitVec 5) (i : BitVec 5) (s : State) : Out := s.setReg d (s.x d ^^^ sext64 i) 2

/-- C_SPADJ: Compact stack-pointer adjust by multiples of 8. (R57) -/
def execCSpadj (i : BitVec 10) (s : State) : Out := s.setReg 2 (s.x 2 + (sext64 i) <<< 3) 2

/-- C_JMPR: Compact jump to register. (R57) -/
def execCJmpr (a : BitVec 5) (s : State) : Out := s.linkReg 0 (s.x a) 2

/-- C_CALLR: Compact call through register. (R57) -/
def execCCallr (a : BitVec 5) (s : State) : Out := s.linkReg 1 (s.x a) 2

/-- C_LDX: Compact doubleword load at offset 0. (R57) -/
def execCLdx (d : BitVec 5) (a : BitVec 5) (s : State) : Out := s.loadReg d (s.x a) 8 false 2

/-- C_STX: Compact doubleword store at offset 0. (R57) -/
def execCStx (s : BitVec 5) (a : BitVec 5) (s0 : State) : Out := s0.storeScalar (s0.x a) (leBytes 8 (s0.x s).toNat) 2

/-- C_J: Compact jump. (R57) -/
def execCJ (o : BitVec 10) (s : State) : Out := s.link 0 (s.pc + halfwords o) 2

/-- C_JAL: Compact jump and link. (R57) -/
def execCJal (o : BitVec 10) (s : State) : Out := s.link 1 (s.pc + halfwords o) 2

/-- C_BEQZ: Compact branch if zero. (R57) -/
def execCBeqz (a : BitVec 5) (o : BitVec 5) (s : State) : Out := s.branch (s.x a == 0) (halfwords o) 2

/-- C_BNEZ: Compact branch if not zero. (R57) -/
def execCBnez (a : BitVec 5) (o : BitVec 5) (s : State) : Out := s.branch (s.x a != 0) (halfwords o) 2

/-- C_SLD: Compact stack doubleword load. (R57) -/
def execCSld (d : BitVec 5) (i : BitVec 5) (s : State) : Out := s.loadReg d (s.x 2 + ofN (8 * i.toNat)) 8 false 2

/-- C_PLD: Compact persistent-region doubleword load. (R57) -/
def execCPld (d : BitVec 5) (i : BitVec 5) (s : State) : Out := s.loadReg d (s.x 3 + ofN (8 * i.toNat)) 8 false 2

/-- C_SLW: Compact stack word load. (R57) -/
def execCSlw (d : BitVec 5) (i : BitVec 5) (s : State) : Out := s.loadReg d (s.x 2 + ofN (4 * i.toNat)) 4 true 2

/-- C_SST: Compact stack doubleword store. (R57) -/
def execCSst (s : BitVec 5) (i : BitVec 5) (s0 : State) : Out := s0.storeScalar (s0.x 2 + ofN (8 * i.toNat)) (leBytes 8 (s0.x s).toNat) 2

/-- C_PST: Compact persistent-region doubleword store. (R57) -/
def execCPst (s : BitVec 5) (i : BitVec 5) (s0 : State) : Out := s0.storeScalar (s0.x 3 + ofN (8 * i.toNat)) (leBytes 8 (s0.x s).toNat) 2

/-- C_SSW: Compact stack word store. (R57) -/
def execCSsw (s : BitVec 5) (i : BitVec 5) (s0 : State) : Out := s0.storeScalar (s0.x 2 + ofN (4 * i.toNat)) (leBytes 4 (s0.x s).toNat) 2

/-- NOP: Advances the PC only. (R58) -/
def execNop (s : State) : Out := .next (s.adv 2)

/-- YIELD: Steps back in the next issue choice. (R58) -/
def execYield (s : State) : Out := .next ((s.modMe fun t => { t with yielded := decide (s.cur.tid < 6) && s.cur.isThr }).adv 2)


end Sys2Proof.Machine
end

