-- ==== Sys2Proof/Machine/Vint.lean ====
section
/-! DEFINITION. Vector integer instructions (R145 to R148). -/

namespace Sys2Proof.Machine

/-- The lanes of a result with the flags of the active ones (R97). -/
def laneFlags (p : PReg) (e : Nat) (rs : List (Nat × FFlags)) : FFlags :=
  (List.zipIdx rs).foldl (fun fl r => if active p e r.2 then fl ||| r.1.2 else fl) 0

/-- A lane instruction of one source (R140, R145). -/
def State.v1 (s : State) (enc : Enc) (d a : BitVec 5) (p : BitVec 3) (e : Nat) (op : Nat → Nat × FFlags) : Out :=
  if s.cur.isSeq then illegalIssuer s enc
  else s.streamOut (do
    let x ← s.vSrc a
    let g := s.me.getP p.toNat
    let rs := (lanesOf e x).map op
    .ok (s.vOut [a] d (activeBytes g e) (ofLanes e (rs.map (·.1))) (laneFlags g e rs)))

/-- A lane instruction of two sources. -/
def State.v2 (s : State) (enc : Enc) (d a b : BitVec 5) (p : BitVec 3) (e : Nat) (op : Nat → Nat → Nat × FFlags) : Out :=
  if s.cur.isSeq then illegalIssuer s enc
  else s.streamOut (do
    let x ← s.vSrc a
    let y ← s.vSrc b
    let g := s.me.getP p.toNat
    let rs := (lanesOf e x).zipWith op (lanesOf e y)
    .ok (s.vOut [a, b] d (activeBytes g e) (ofLanes e (rs.map (·.1))) (laneFlags g e rs)))

/-- A lane instruction of three sources, V[d] being the third. -/
def State.v3 (s : State) (enc : Enc) (d a b : BitVec 5) (p : BitVec 3) (e : Nat) (op : Nat → Nat → Nat → Nat × FFlags) : Out :=
  if s.cur.isSeq then illegalIssuer s enc
  else s.streamOut (do
    let x ← s.vSrc a
    let y ← s.vSrc b
    let z ← s.vSrc d
    let g := s.me.getP p.toNat
    let rs := ((lanesOf e x).zip (lanesOf e y)).zipWith (fun u w => op u.1 u.2 w) (lanesOf e z)
    .ok (s.vOut [a, b, d] d (activeBytes g e) (ofLanes e (rs.map (·.1))) (laneFlags g e rs)))

/-- A comparison into predicate `q`: every lane is written, inactive ones false (R147). -/
def State.vCompare (s : State) (enc : Enc) (q : BitVec 3) (a b : BitVec 5) (p : BitVec 3) (e : Nat)
    (op : Nat → Nat → Bool × FFlags) : Out :=
  if s.cur.isSeq then illegalIssuer s enc
  else s.streamOut (do
    let x ← s.vSrc a
    let y ← s.vSrc b
    let g := s.me.getP p.toNat
    let rs := (lanesOf e x).zipWith op (lanesOf e y)
    let z := (List.zipIdx rs).map fun r => active g e r.2 && r.1.1
    .ok (s.complete (s.slotsOf true [a, b]) (laneFlags g e (rs.map fun r => (0, r.2)))
      fun t => t.modMe fun m => m.setP q.toNat (predOf e z)))

/-- An integer lane value that raises nothing, by the exact integer it wraps (R91). -/
def wrapLane (e : Nat) (v : Int) : Nat × FFlags := (wrapN (8 * e) v, 0)

/-- sx of a lane. -/
def sxL (e v : Nat) : Int := sxN (8 * e) v

/-- A saturating signed lane value (R146). -/
def satLane (e : Nat) (v : Int) : Nat × FFlags :=
  let r := satInt (intLo true (8 * e)) (intHi true (8 * e)) v
  (wrapN (8 * e) r.1, r.2)

/-- The sum of the four products of a VDOT4 or VTDOT4 lane with its accumulator (R148). -/
def dot4 (ternary : Bool) (x y : List Nat) (i : Nat) (acc : Int) : Int :=
  (List.range 4).foldl (fun s j =>
    let a := sxL 1 (laneAt x (4 * i + j))
    let w := sxL 1 (laneAt y (4 * i + j))
    if ternary then (if 0 < w then s + a else if w < 0 then s - a else s) else s + a * w) acc

/-- VDOT4 and VTDOT4 (R148). -/
def State.vDot (s : State) (enc : Enc) (ternary : Bool) (d a b : BitVec 5) (p : BitVec 3) : Out :=
  if s.cur.isSeq then illegalIssuer s enc
  else s.streamOut (do
    let x ← s.vSrc a
    let y ← s.vSrc b
    let z ← s.vSrc d
    let g := s.me.getP p.toNat
    let rs := (List.zipIdx (lanesOf 4 z)).map fun c => satLane 4 (dot4 ternary (lanesOf 1 x) (lanesOf 1 y) c.2 (sxL 4 c.1))
    .ok (s.vOut [a, b, d] d (activeBytes g 4) (ofLanes 4 (rs.map (·.1))) (laneFlags g 4 rs)))

/-- VADD: Lane-wise wrapped add. (R145) -/
def execVadd (d : BitVec 5) (a : BitVec 5) (b : BitVec 5) (p : BitVec 3) (s : BitVec 2) (s0 : State) : Out := s0.v2 (word.vadd d a b p s) d a b p (esz s) fun x y => wrapLane (esz s) (x + y)

/-- VSUB: Lane-wise wrapped subtract. (R145) -/
def execVsub (d : BitVec 5) (a : BitVec 5) (b : BitVec 5) (p : BitVec 3) (s : BitVec 2) (s0 : State) : Out := s0.v2 (word.vsub d a b p s) d a b p (esz s) fun x y => wrapLane (esz s) (x - y)

/-- VMUL: Lane-wise low product. (R145) -/
def execVmul (d : BitVec 5) (a : BitVec 5) (b : BitVec 5) (p : BitVec 3) (s : BitVec 2) (s0 : State) : Out := s0.v2 (word.vmul d a b p s) d a b p (esz s) fun x y => wrapLane (esz s) (x * y)

/-- VMULH: Lane-wise signed high product. (R145) -/
def execVmulh (d : BitVec 5) (a : BitVec 5) (b : BitVec 5) (p : BitVec 3) (s : BitVec 2) (s0 : State) : Out := s0.v2 (word.vmulh d a b p s) d a b p (esz s) fun x y => wrapLane (esz s) (sxL (esz s) x * sxL (esz s) y / 2 ^ (8 * esz s))

/-- VMADD: Lane-wise multiply-add into vd. (R145) -/
def execVmadd (d : BitVec 5) (a : BitVec 5) (b : BitVec 5) (p : BitVec 3) (s : BitVec 2) (s0 : State) : Out := s0.v3 (word.vmadd d a b p s) d a b p (esz s) fun x y z => wrapLane (esz s) (z + x * y)

/-- VAND: Lane-wise AND. (R145) -/
def execVand (d : BitVec 5) (a : BitVec 5) (b : BitVec 5) (p : BitVec 3) (s : BitVec 2) (s0 : State) : Out := s0.v2 (word.vand d a b p s) d a b p (esz s) fun x y => (x &&& y, 0)

/-- VOR: Lane-wise OR. (R145) -/
def execVor (d : BitVec 5) (a : BitVec 5) (b : BitVec 5) (p : BitVec 3) (s : BitVec 2) (s0 : State) : Out := s0.v2 (word.vor d a b p s) d a b p (esz s) fun x y => (x ||| y, 0)

/-- VXOR: Lane-wise XOR. (R145) -/
def execVxor (d : BitVec 5) (a : BitVec 5) (b : BitVec 5) (p : BitVec 3) (s : BitVec 2) (s0 : State) : Out := s0.v2 (word.vxor d a b p s) d a b p (esz s) fun x y => (x ^^^ y, 0)

/-- VSLL: Lane-wise shift left. (R145) -/
def execVsll (d : BitVec 5) (a : BitVec 5) (b : BitVec 5) (p : BitVec 3) (s : BitVec 2) (s0 : State) : Out := s0.v2 (word.vsll d a b p s) d a b p (esz s) fun x y => wrapLane (esz s) (x * 2 ^ (y % (8 * esz s)))

/-- VSRL: Lane-wise logical shift right. (R145) -/
def execVsrl (d : BitVec 5) (a : BitVec 5) (b : BitVec 5) (p : BitVec 3) (s : BitVec 2) (s0 : State) : Out := s0.v2 (word.vsrl d a b p s) d a b p (esz s) fun x y => (x / 2 ^ (y % (8 * esz s)), 0)

/-- VSRA: Lane-wise arithmetic shift right. (R145) -/
def execVsra (d : BitVec 5) (a : BitVec 5) (b : BitVec 5) (p : BitVec 3) (s : BitVec 2) (s0 : State) : Out := s0.v2 (word.vsra d a b p s) d a b p (esz s) fun x y => wrapLane (esz s) (sxL (esz s) x / 2 ^ (y % (8 * esz s)))

/-- VMIN: Lane-wise signed minimum. (R145) -/
def execVmin (d : BitVec 5) (a : BitVec 5) (b : BitVec 5) (p : BitVec 3) (s : BitVec 2) (s0 : State) : Out := s0.v2 (word.vmin d a b p s) d a b p (esz s) fun x y => (if sxL (esz s) x ≤ sxL (esz s) y then x else y, 0)

/-- VMAX: Lane-wise signed maximum. (R145) -/
def execVmax (d : BitVec 5) (a : BitVec 5) (b : BitVec 5) (p : BitVec 3) (s : BitVec 2) (s0 : State) : Out := s0.v2 (word.vmax d a b p s) d a b p (esz s) fun x y => (if sxL (esz s) x ≤ sxL (esz s) y then y else x, 0)

/-- VMINU: Lane-wise unsigned minimum. (R145) -/
def execVminu (d : BitVec 5) (a : BitVec 5) (b : BitVec 5) (p : BitVec 3) (s : BitVec 2) (s0 : State) : Out := s0.v2 (word.vminu d a b p s) d a b p (esz s) fun x y => (min x y, 0)

/-- VMAXU: Lane-wise unsigned maximum. (R145) -/
def execVmaxu (d : BitVec 5) (a : BitVec 5) (b : BitVec 5) (p : BitVec 3) (s : BitVec 2) (s0 : State) : Out := s0.v2 (word.vmaxu d a b p s) d a b p (esz s) fun x y => (max x y, 0)

/-- VABS: Lane-wise wrapped absolute value. (R145) -/
def execVabs (d : BitVec 5) (a : BitVec 5) (p : BitVec 3) (s : BitVec 2) (s0 : State) : Out := s0.v1 (word.vabs d a p s) d a p (esz s) fun x => wrapLane (esz s) (sxL (esz s) x).natAbs

/-- VADDS: Lane-wise saturating signed add. (R146) -/
def execVadds (d : BitVec 5) (a : BitVec 5) (b : BitVec 5) (p : BitVec 3) (s : BitVec 2) (s0 : State) : Out := s0.v2 (word.vadds d a b p s) d a b p (esz s) fun x y => satLane (esz s) (sxL (esz s) x + sxL (esz s) y)

/-- VSUBS: Lane-wise saturating signed subtract. (R146) -/
def execVsubs (d : BitVec 5) (a : BitVec 5) (b : BitVec 5) (p : BitVec 3) (s : BitVec 2) (s0 : State) : Out := s0.v2 (word.vsubs d a b p s) d a b p (esz s) fun x y => satLane (esz s) (sxL (esz s) x - sxL (esz s) y)

/-- VCMP: Writes a predicate from an integer lane comparison. (R147) -/
def execVcmp (c : BitVec 2) (q : BitVec 3) (a : BitVec 5) (b : BitVec 5) (p : BitVec 3) (s : BitVec 2) (s0 : State) : Out :=
  s0.vCompare (word.vcmp c q a b p s) q a b p (esz s) fun x y =>
    (match c.toNat with
      | 0 => x == y
      | 1 => x != y
      | 2 => decide (sxL (esz s) x < sxL (esz s) y)
      | _ => decide (x < y), 0)

/-- VSEL: Selects lanes of va or vb by predicate. (R146) -/
def execVsel (d : BitVec 5) (a : BitVec 5) (b : BitVec 5) (p : BitVec 3) (s : BitVec 2) (s0 : State) : Out :=
  if s0.cur.isSeq then illegalIssuer s0 (word.vsel d a b p s)
  else s0.streamOut (do
    let x ← s0.vSrc a
    let y ← s0.vSrc b
    .ok (s0.vOut [a, b] d (BitVec.allOnes 128) (mergeBytes y x (activeBytes (s0.me.getP p.toNat) (esz s)))))

/-- VDOT4: Four-way INT8 dot product into INT32 lanes. (R148) -/
def execVdot4 (d : BitVec 5) (a : BitVec 5) (b : BitVec 5) (p : BitVec 3) (s : State) : Out := s.vDot (word.vdot4 d a b p) false d a b p

/-- VTDOT4: Four-way ternary-sign dot product into INT32 lanes. (R148) -/
def execVtdot4 (d : BitVec 5) (a : BitVec 5) (b : BitVec 5) (p : BitVec 3) (s : State) : Out := s.vDot (word.vtdot4 d a b p) true d a b p

/-- VPOPC: Lane-wise population count. (R146) -/
def execVpopc (d : BitVec 5) (a : BitVec 5) (p : BitVec 3) (s : BitVec 2) (s0 : State) : Out := s0.v1 (word.vpopc d a p s) d a p (esz s) fun x => (popNat (8 * esz s) x, 0)

/-- VMV: Lane-wise move. (R146) -/
def execVmv (d : BitVec 5) (a : BitVec 5) (p : BitVec 3) (s : BitVec 2) (s0 : State) : Out := s0.v1 (word.vmv d a p s) d a p (esz s) fun x => (x, 0)


end Sys2Proof.Machine
end

