-- ==== Sys2Proof/Machine/Vfp.lean ====
section
/-! DEFINITION. Vector floating point (R149, R150). -/

namespace Sys2Proof.Machine

/-- Format of a VFP size code (R149). -/
def vfpFmt (s : BitVec 2) : Fmt := match s.toNat with
  | 0 => bf16
  | 1 => fp16
  | 2 => fp32
  | _ => fp64

/-- Bytes of an element of a VFP size code (R149). -/
def vfpSize (s : BitVec 2) : Nat := (vfpFmt s).width / 8

/-- VFADD: Lane-wise floating-point add. (R149) -/
def execVfadd (d : BitVec 5) (a : BitVec 5) (b : BitVec 5) (p : BitVec 3) (s : BitVec 2) (s0 : State) : Out := s0.v2 (word.vfadd d a b p s) d a b p (vfpSize s) fun x y => (vfpFmt s).add s0.rm x y

/-- VFSUB: Lane-wise floating-point subtract. (R149) -/
def execVfsub (d : BitVec 5) (a : BitVec 5) (b : BitVec 5) (p : BitVec 3) (s : BitVec 2) (s0 : State) : Out := s0.v2 (word.vfsub d a b p s) d a b p (vfpSize s) fun x y => (vfpFmt s).sub s0.rm x y

/-- VFMUL: Lane-wise floating-point multiply. (R149) -/
def execVfmul (d : BitVec 5) (a : BitVec 5) (b : BitVec 5) (p : BitVec 3) (s : BitVec 2) (s0 : State) : Out := s0.v2 (word.vfmul d a b p s) d a b p (vfpSize s) fun x y => (vfpFmt s).mul s0.rm x y

/-- VFMA: Lane-wise fused multiply-add. (R149) -/
def execVfma (d : BitVec 5) (a : BitVec 5) (b : BitVec 5) (p : BitVec 3) (s : BitVec 2) (s0 : State) : Out := s0.v3 (word.vfma d a b p s) d a b p (vfpSize s) fun x y z => (vfpFmt s).fma s0.rm x y z

/-- VFMS: Lane-wise fused multiply-subtract. (R149) -/
def execVfms (d : BitVec 5) (a : BitVec 5) (b : BitVec 5) (p : BitVec 3) (s : BitVec 2) (s0 : State) : Out := s0.v3 (word.vfms d a b p s) d a b p (vfpSize s) fun x y z => (vfpFmt s).fms s0.rm x y z

/-- VFMIN: Lane-wise floating-point minimum. (R149) -/
def execVfmin (d : BitVec 5) (a : BitVec 5) (b : BitVec 5) (p : BitVec 3) (s : BitVec 2) (s0 : State) : Out := s0.v2 (word.vfmin d a b p s) d a b p (vfpSize s) fun x y => (vfpFmt s).minMax false x y

/-- VFMAX: Lane-wise floating-point maximum. (R149) -/
def execVfmax (d : BitVec 5) (a : BitVec 5) (b : BitVec 5) (p : BitVec 3) (s : BitVec 2) (s0 : State) : Out := s0.v2 (word.vfmax d a b p s) d a b p (vfpSize s) fun x y => (vfpFmt s).minMax true x y

/-- VFDIV: Lane-wise floating-point divide. (R149) -/
def execVfdiv (d : BitVec 5) (a : BitVec 5) (b : BitVec 5) (p : BitVec 3) (s : BitVec 2) (s0 : State) : Out := s0.v2 (word.vfdiv d a b p s) d a b p (vfpSize s) fun x y => (vfpFmt s).div s0.rm x y

/-- VFSQRT: Lane-wise square root. (R149) -/
def execVfsqrt (d : BitVec 5) (a : BitVec 5) (p : BitVec 3) (s : BitVec 2) (s0 : State) : Out := s0.v1 (word.vfsqrt d a p s) d a p (vfpSize s) fun x => (vfpFmt s).sqrt s0.rm x

/-- VFRCP: Lane-wise correctly rounded reciprocal. (R150) -/
def execVfrcp (d : BitVec 5) (a : BitVec 5) (p : BitVec 3) (s : BitVec 2) (s0 : State) : Out := s0.v1 (word.vfrcp d a p s) d a p (vfpSize s) fun x => (vfpFmt s).rcp s0.rm x

/-- VFRSQ: Lane-wise correctly rounded reciprocal square root. (R150) -/
def execVfrsq (d : BitVec 5) (a : BitVec 5) (p : BitVec 3) (s : BitVec 2) (s0 : State) : Out := s0.v1 (word.vfrsq d a p s) d a p (vfpSize s) fun x => (vfpFmt s).rsqrt s0.rm x

/-- VFCMP: Writes a predicate from a floating-point lane comparison. (R147) -/
def execVfcmp (c : BitVec 2) (q : BitVec 3) (a : BitVec 5) (b : BitVec 5) (p : BitVec 3) (s : BitVec 2) (s0 : State) : Out :=   s0.vCompare (word.vfcmp c q a b p s) q a b p (vfpSize s) fun x y => fcmp c.toNat ((vfpFmt s).decode x) ((vfpFmt s).decode y)


end Sys2Proof.Machine
end

