-- ==== Sys2Proof/Machine/Vmem.lean ====
section
/-! DEFINITION. Vector memory (R151 to R153). -/

namespace Sys2Proof.Machine

namespace State

/-- The checks of a vector access on the active lanes, in ascending order (R152): each lane that is active with its address and
resolved place; MMIO takes no vector access (R202). -/
def laneChecks (s : State) (e : Nat) (write : Bool) (addrs : List Word) (g : PReg) : Nat → Res (List (Nat × Word × Acc))
  | 0 => .ok []
  | n + 1 => do
    let prev ← s.laneChecks e write addrs g n
    if active g e n then
      let ea := (addrs[n]?).getD 0
      check (decide (ea.toNat % e = 0)) Cause.misaligned ea
      let acc ← if write then s.storeCheck s.cur ea e else s.resolve s.cur ea e kindR
      check (decide (placeOf acc.loc ≠ .mmio)) Cause.permission ea
      .ok (prev ++ [(n, ea, acc)])
    else .ok prev

/-- The lane values of a vector load: inactive lanes read as 0 and are not written. -/
def laneReads (s : State) (e : Nat) (ls : List (Nat × Word × Acc)) : Res (List (Nat × Nat)) :=
  ls.mapM fun l => do
    let b ← s.readAcc s.cur l.2.2 l.2.1 e
    .ok (l.1, leNat b)

/-- What the reads of a vector load leave in the caches of its core (R205). -/
def touchLanes (s : State) (e : Nat) (ls : List (Nat × Word × Acc)) : State := ls.foldl (fun t l => t.touch l.2.1 e) s

/-- A vector load into V[d] from lane addresses (R151, R152). -/
def vLoad (s : State) (srcs : List (BitVec 5)) (d : BitVec 5) (p : BitVec 3) (e : Nat) (addrs : List Word) : Res Out := do
  let g := s.me.getP p.toNat
  let ls ← s.laneChecks e false addrs g (128 / e)
  let vs ← s.laneReads e ls
  let lanes := (List.range (128 / e)).map fun i => ((vs.find? fun v => decide (v.1 = i)).map (·.2)).getD 0
  .ok ((s.touchLanes e ls).vOut srcs d (activeBytes g e) (ofLanes e lanes))

/-- A vector store of V[d] at lane addresses (R151 to R153); `one` says that the journaled lanes share one entry of 136 bytes. -/
def vStore (s : State) (srcs : List (BitVec 5)) (d : BitVec 5) (p : BitVec 3) (e : Nat) (one : Bool) (addrs : List Word) : Res Out := do
  let g := s.me.getP p.toNat
  let v ← s.vSrc d
  let ls ← s.laneChecks e true addrs g (128 / e)
  let first := ((ls.find? fun l => s.journaled s.cur l.2.2.loc).map (·.1)).getD 0
  let cost := fun (i : Nat) => if one then (if i = first then 136 else 0) else 8 + max 8 e
  let reqs : List StoreReq := ls.map fun l =>
    { va := l.2.1, acc := l.2.2, bs := (leBytes e (laneAt (lanesOf e v) l.1)).map some, cost := cost l.1 }
  .ok (s.storeAll reqs fun t => (t.popAll (s.slotsOf true (d :: srcs))).adv 4)

/-- Unit-stride lane addresses (R151). -/
def unitAddrs (s : State) (a : BitVec 5) (e : Nat) : List Word := (List.range (128 / e)).map fun i => s.x a + ofN (e * i)
/-- Strided lane addresses. -/
def strideAddrs (s : State) (a b : BitVec 5) (e : Nat) : List Word := (List.range (128 / e)).map fun i => s.x a + ofN i * s.x b
/-- Indexed lane addresses. -/
def indexAddrs (s : State) (a : BitVec 5) (y : VReg) (e : Nat) : List Word := (lanesOf e y).map fun o => s.x a + ofI (sxL e o)

end State

/-- VLD: Loads contiguous lanes. (R151) -/
def execVld (d : BitVec 5) (a : BitVec 5) (p : BitVec 3) (s : BitVec 2) (s0 : State) : Out :=
  if s0.cur.isSeq then illegalIssuer s0 (word.vld d a p s)
  else s0.streamOut (s0.vLoad [] d p (esz s) (s0.unitAddrs a (esz s)))

/-- VLDS: Loads strided lanes. (R151) -/
def execVlds (d : BitVec 5) (a : BitVec 5) (b : BitVec 5) (p : BitVec 3) (s : BitVec 2) (s0 : State) : Out :=
  if s0.cur.isSeq then illegalIssuer s0 (word.vlds d a b p s)
  else s0.streamOut (s0.vLoad [] d p (esz s) (s0.strideAddrs a b (esz s)))

/-- VGATH: Gathers lanes by vector offsets. (R151) -/
def execVgath (d : BitVec 5) (a : BitVec 5) (b : BitVec 5) (p : BitVec 3) (s : BitVec 2) (s0 : State) : Out :=
  if s0.cur.isSeq then illegalIssuer s0 (word.vgath d a b p s)
  else s0.streamOut (do
    let y ← s0.vSrc b
    s0.vLoad [b] d p (esz s) (s0.indexAddrs a y (esz s)))

/-- VST: Stores contiguous lanes. (R151) -/
def execVst (d : BitVec 5) (a : BitVec 5) (p : BitVec 3) (s : BitVec 2) (s0 : State) : Out :=
  if s0.cur.isSeq then illegalIssuer s0 (word.vst d a p s)
  else s0.streamOut (s0.vStore [] d p (esz s) true (s0.unitAddrs a (esz s)))

/-- VSTS: Stores strided lanes. (R151) -/
def execVsts (d : BitVec 5) (a : BitVec 5) (b : BitVec 5) (p : BitVec 3) (s : BitVec 2) (s0 : State) : Out :=
  if s0.cur.isSeq then illegalIssuer s0 (word.vsts d a b p s)
  else s0.streamOut (s0.vStore [] d p (esz s) false (s0.strideAddrs a b (esz s)))

/-- VSCAT: Scatters lanes by vector offsets. (R151) -/
def execVscat (d : BitVec 5) (a : BitVec 5) (b : BitVec 5) (p : BitVec 3) (s : BitVec 2) (s0 : State) : Out :=
  if s0.cur.isSeq then illegalIssuer s0 (word.vscat d a b p s)
  else s0.streamOut (do
    let y ← s0.vSrc b
    s0.vStore [b] d p (esz s) false (s0.indexAddrs a y (esz s)))

/-- VLDB: Loads up to 128 bytes, zeroing the rest. (R151) -/
def execVldb (d : BitVec 5) (a : BitVec 5) (b : BitVec 5) (s : State) : Out :=
  if s.cur.isSeq then illegalIssuer s (word.vldb d a b)
  else s.streamOut (do
    let n := min (s.x b).toNat 128
    let ls ← s.laneChecks 1 false (s.unitAddrs a 1) (BitVec.ofNat 128 (2 ^ n - 1)) 128
    let vs ← s.laneReads 1 ls
    .ok ((s.touchLanes 1 ls).vOut [] d (BitVec.allOnes 128) (ofLanes 1 (vs.map (·.2)))))


end Sys2Proof.Machine
end

