-- ==== Sys2Proof/Machine/Vperm.lean ====
section
/-! DEFINITION. Vector permutation and reduction (R104, R105, R154, R155). -/

namespace Sys2Proof.Machine

/-- Format of a floating-point kind at an element size (R154). -/
def kindFmt (k : BitVec 5) (e : Nat) : Fmt := if k = 3 then bf16 else if e = 2 then fp16 else if e = 4 then fp32 else fp64

/-- The sum of two lanes of a kind (R104, R105): rounded for floating point, wrapped for integers. -/
def sumLanes (k : BitVec 5) (e rm : Nat) (x y : Nat) : Nat × FFlags :=
  if 2 ≤ k.toNat then (kindFmt k e).add rm x y else wrapLane e (x + y)

/-- The lesser or greater of two lanes of a kind (R104). -/
def pickLanes (k : BitVec 5) (e : Nat) (max : Bool) (x y : Nat) : Nat × FFlags :=
  if 2 ≤ k.toNat then (kindFmt k e).minMax max x y
  else
    let less := if k = 1 then decide (x < y) else decide (sxL e x < sxL e y)
    (if less != max then x else y, 0)

/-- A reduction by the tree of R104: lane 0 receives the result, every other lane 0. -/
def State.vReduce (s : State) (enc : Enc) (d a : BitVec 5) (p : BitVec 3) (e : Nat) (f : Nat → Nat → Nat × FFlags) : Out :=
  if s.cur.isSeq then illegalIssuer s enc
  else s.streamOut (do
    let x ← s.vSrc a
    let g := s.me.getP p.toNat
    let ins := (List.zipIdx (lanesOf e x)).map fun l => if active g e l.2 then some l.1 else none
    let r := treeFold f (Nat.log2 (128 / e)) ins
    .ok (s.vOut [a] d (BitVec.allOnes 128) (ofLanes e [r.1.getD 0]) r.2))

/-- VREDSUM: Sums active lanes by the fixed pairwise tree into lane 0. (R155) -/
def execVredsum (d : BitVec 5) (a : BitVec 5) (k : BitVec 5) (p : BitVec 3) (s : BitVec 2) (s0 : State) : Out := s0.vReduce (word.vredsum d a k p s) d a p (esz s) (sumLanes k (esz s) s0.rm)

/-- VREDMIN: Minimum of active lanes by the fixed tree. (R155) -/
def execVredmin (d : BitVec 5) (a : BitVec 5) (k : BitVec 5) (p : BitVec 3) (s : BitVec 2) (s0 : State) : Out := s0.vReduce (word.vredmin d a k p s) d a p (esz s) (pickLanes k (esz s) false)

/-- VREDMAX: Maximum of active lanes by the fixed tree. (R155) -/
def execVredmax (d : BitVec 5) (a : BitVec 5) (k : BitVec 5) (p : BitVec 3) (s : BitVec 2) (s0 : State) : Out := s0.vReduce (word.vredmax d a k p s) d a p (esz s) (pickLanes k (esz s) true)

/-- VSCAN: Inclusive running sum in lane order. (R155) -/
def execVscan (d : BitVec 5) (a : BitVec 5) (k : BitVec 5) (p : BitVec 3) (s : BitVec 2) (s0 : State) : Out :=
  if s0.cur.isSeq then illegalIssuer s0 (word.vscan d a k p s)
  else s0.streamOut (do
    let x ← s0.vSrc a
    let g := s0.me.getP p.toNat
    let ins := (List.zipIdx (lanesOf (esz s) x)).map fun l => if active g (esz s) l.2 then some l.1 else none
    let r := scanLanes (sumLanes k (esz s) s0.rm) none ins
    .ok (s0.vOut [a] d (activeBytes g (esz s)) (ofLanes (esz s) (r.1.map fun v => v.getD 0)) r.2))

/-- VPERM: Permutes lanes by index. (R155) -/
def execVperm (d : BitVec 5) (a : BitVec 5) (b : BitVec 5) (p : BitVec 3) (s : BitVec 2) (s0 : State) : Out :=
  if s0.cur.isSeq then illegalIssuer s0 (word.vperm d a b p s)
  else s0.streamOut (do
    let x ← s0.vSrc a
    let y ← s0.vSrc b
    let l := (lanesOf (esz s) y).map fun i => laneAt (lanesOf (esz s) x) (i % (128 / esz s))
    .ok (s0.vOut [a, b] d (activeBytes (s0.me.getP p.toNat) (esz s)) (ofLanes (esz s) l)))

/-- VBCAST: Broadcasts an x register to active lanes. (R155) -/
def execVbcast (d : BitVec 5) (a : BitVec 5) (p : BitVec 3) (s : BitVec 2) (s0 : State) : Out :=
  if s0.cur.isSeq then illegalIssuer s0 (word.vbcast d a p s)
  else s0.vOut [] d (activeBytes (s0.me.getP p.toNat) (esz s))
    (ofLanes (esz s) (List.replicate (128 / esz s) (s0.x a).toNat))

/-- VSLIDE: Slides lanes by a signed amount. (R155) -/
def execVslide (d : BitVec 5) (a : BitVec 5) (b : BitVec 5) (p : BitVec 3) (s : BitVec 2) (s0 : State) : Out :=
  if s0.cur.isSeq then illegalIssuer s0 (word.vslide d a b p s)
  else s0.streamOut (do
    let x ← s0.vSrc a
    let l := (List.range (128 / esz s)).map fun (i : Nat) =>
      let j : Int := (i : Int) + (s0.x b).toInt
      if 0 ≤ j then laneAt (lanesOf (esz s) x) j.toNat else 0
    .ok (s0.vOut [a] d (activeBytes (s0.me.getP p.toNat) (esz s)) (ofLanes (esz s) l)))

/-- VINS: Inserts an x register into one lane. With its index out of range and `vd` bound to a stream, a strip of which nothing is
written is still pushed (DESIGN CHOICE, log entry 108). (R155) -/
def execVins (d : BitVec 5) (a : BitVec 5) (b : BitVec 5) (s : BitVec 2) (s0 : State) : Out :=
  if s0.cur.isSeq then illegalIssuer s0 (word.vins d a b s)
  else
    let i := (s0.x b).toNat
    let l := (List.range (128 / esz s)).map fun j => decide (j = i)
    s0.vOut [] d (predOf (esz s) l) (ofLanes (esz s) (List.replicate (128 / esz s) (s0.x a).toNat))

/-- VEXT: Extracts one lane into an x register. (R155) -/
def execVext (d : BitVec 5) (a : BitVec 5) (b : BitVec 5) (s : BitVec 2) (s0 : State) : Out :=
  if s0.cur.isSeq then illegalIssuer s0 (word.vext d a b s)
  else s0.streamOut (do
    let x ← s0.vSrc a
    let i := (s0.x b).toNat
    let v := if i < 128 / esz s then ofI (sxL (esz s) (laneAt (lanesOf (esz s) x) i)) else 0
    .ok (s0.complete (s0.slotsOf true [a]) 0 fun t => t.wx d v))

/-- VZIP: Interleaves the low halves of two registers. (R155) -/
def execVzip (d : BitVec 5) (a : BitVec 5) (b : BitVec 5) (p : BitVec 3) (s : BitVec 2) (s0 : State) : Out :=
  if s0.cur.isSeq then illegalIssuer s0 (word.vzip d a b p s)
  else s0.streamOut (do
    let x ← s0.vSrc a
    let y ← s0.vSrc b
    let l := (List.range (128 / esz s)).map fun i => laneAt (lanesOf (esz s) (if i % 2 = 0 then x else y)) (i / 2)
    .ok (s0.vOut [a, b] d (activeBytes (s0.me.getP p.toNat) (esz s)) (ofLanes (esz s) l)))


end Sys2Proof.Machine
end

