-- ==== Sys2Proof/Machine/Vcvt.lean ====
section
/-! DEFINITION. Vector conversion and unpacking (R156 to R159). -/

namespace Sys2Proof.Machine

/-- A conversion instruction: lane j of width `eo` receives the conversion of the lane that `src` names, where active (R157). -/
def State.vConv (s : State) (enc : Enc) (d a : BitVec 5) (p : BitVec 3) (ei eo si so : Nat) (c : BitVec 4) (src : Nat → Option Nat) : Out :=
  if s.cur.isSeq then illegalIssuer s enc
  else s.streamOut (do
    let x ← s.vSrc a
    let g := s.me.getP p.toNat
    let conv := convLane (laneFmt si (c.extractLsb' 2 2).toNat) (laneFmt so (c.extractLsb' 0 2).toNat) s.rm s.satm
    let rs := (List.range (128 / eo)).map fun j => match src j with
      | some i => some (conv (laneAt (lanesOf ei x) i))
      | none => none
    let live := (List.zipIdx rs).map fun r => r.1.isSome && active g eo r.2
    let vals := rs.map fun r => r.getD (0, 0)
    .ok (s.vOut [a] d (predOf eo live) (ofLanes eo (vals.map (·.1)))
      ((live.zip vals).foldl (fun fl r => if r.1 then fl ||| r.2.2 else fl) 0)))

/-- VCVT: Converts lanes between formats of one width. (R157) -/
def execVcvt (d : BitVec 5) (a : BitVec 5) (c : BitVec 4) (p : BitVec 3) (s : BitVec 2) (s0 : State) : Out := s0.vConv (word.vcvt d a c p s) d a p (esz s) (esz s) s.toNat s.toNat c fun j => some j

/-- VNARROW: Converts lanes to half width into one half of vd. (R157) -/
def execVnarrow (d : BitVec 5) (a : BitVec 5) (h : BitVec 1) (c : BitVec 4) (p : BitVec 3) (s : BitVec 2) (s0 : State) : Out :=
  let n := 64 / esz s
  s0.vConv (word.vnarrow d a h c p s) d a p (2 * esz s) (esz s) (s.toNat + 1) s.toNat c fun j =>
    if h.toNat * n ≤ j ∧ j < h.toNat * n + n then some (j - h.toNat * n) else none

/-- VWIDEN: Converts one half of va to double width. (R157) -/
def execVwiden (d : BitVec 5) (a : BitVec 5) (h : BitVec 1) (c : BitVec 4) (p : BitVec 3) (s : BitVec 2) (s0 : State) : Out :=   s0.vConv (word.vwiden d a h c p s) d a p (esz s) (2 * esz s) s.toNat (s.toNat + 1) c fun j => some (h.toNat * (64 / esz s) + j)

/-- UNPK3: Decodes 25 ternary bytes into 125 INT8 lanes with an invalid-lane predicate. (R158) -/
def execUnpk3 (d : BitVec 5) (a : BitVec 5) (b : BitVec 5) (q : BitVec 3) (s : State) : Out :=
  if s.cur.isSeq then illegalIssuer s (word.unpk3 d a b q)
  else s.streamOut (do
    let x ← s.vSrc a
    let at' := fun (j : Nat) => ((s.x b).toNat % 128 + j) % 128
    let byte := fun (j : Nat) => laneAt (lanesOf 1 x) (at' j)
    let bad := (List.range 25).find? fun j => decide (243 ≤ byte j)
    let lane := fun (k : Nat) => if k < 125 ∧ byte (k / 5) < 243 then wrapN 8 (ternT (byte (k / 5)) (k % 5)) else 0
    let m := (List.range 128).map fun k => decide (k < 125) && decide (243 ≤ byte (k / 5))
    match bad with
    | some j =>
      if bitAt s.me.vcsr 8 then trapR Cause.ternaryInvalid (ofN (at' j))
      else .ok (s.vOut [a] d (BitVec.allOnes 128) (ofLanes 1 ((List.range 128).map lane)) Flag.ternbad
        fun t => t.modMe fun r => r.setP q.toNat (predOf 1 m))
    | none => .ok (s.vOut [a] d (BitVec.allOnes 128) (ofLanes 1 ((List.range 128).map lane)) 0
        fun t => t.modMe fun r => r.setP q.toNat (predOf 1 m)))

/-- Element size of the target of UNPK4 (R159). -/
def unpk4Size (s : BitVec 2) : Nat := match s.toNat with
  | 0 => 1
  | 2 => 4
  | _ => 2

/-- Code `c` of a block with this scale byte, decoded to the target of UNPK4 with RNE (R100, R159). -/
def unpk4Lane (s : BitVec 2) (scale c : Nat) : Nat × FFlags :=
  let f := match s.toNat with
    | 1 => fp16
    | 2 => fp32
    | _ => bf16
  if scale % 64 = 63 then (if s = 0 then 0 else f.qnan, Flag.blkinv)
  else if s = 0 then
    let v := convInt 0 (-(2 ^ 200)) (2 ^ 200) (q4Value scale c)
    let r := satInt (-128) 127 v.1
    (wrapN 8 r.1, r.2)
  else roundFP f 0 false (q4Value scale c)

/-- UNPK4: Decodes one Q4 block into 32 lanes. An invalid block gives the same to all 32 (R100). Lanes below 32 that are not active take, of a valid block, a free value that the operands fix: R140 says that every lane is written, R159 gives them none (DEDUCED, log entry 17). (R159) -/
def execUnpk4 (d : BitVec 5) (a : BitVec 5) (b : BitVec 5) (p : BitVec 3) (s : BitVec 2) (s0 : State) : Out :=
  if s0.cur.isSeq then illegalIssuer s0 (word.unpk4 d a b p s)
  else s0.streamOut (do
    let x ← s0.vSrc a
    let e := unpk4Size s
    let o := (s0.x b).toNat % 128
    let block := (List.range 17).map fun k => BitVec.ofNat 8 (laneAt (lanesOf 1 x) ((o + k) % 128))
    let scale := ((block[16]?).getD 0).toNat
    let g := s0.me.getP p.toNat
    let rs := (List.range (128 / e)).map fun i =>
      if 32 ≤ i then (0, 0)
      else if active g e i ∨ scale % 64 = 63 then unpk4Lane s scale (q4Code block i)
      else ((Config.unpk4Inactive x (s0.x b) g s.toNat i).toNat, 0)
    let fl := laneFlags g e rs ||| flagIf (decide (scale % 64 = 63)) Flag.blkinv
    .ok (s0.vOut [a] d (BitVec.allOnes 128) (ofLanes e (rs.map (·.1))) fl))


end Sys2Proof.Machine
end

