-- ==== Sys2Proof/Machine/Vspec.lean ====
section
/-! DEFINITION. Special functions (R160 to R162). -/

namespace Sys2Proof.Machine

/-- VPWL: Evaluates a 16-segment piecewise-linear curve on FP32 lanes. (R160) -/
def execVpwl (d : BitVec 5) (a : BitVec 5) (b : BitVec 5) (p : BitVec 3) (s : State) : Out :=
  s.v1 (word.vpwl d a b p) d a p 4 fun x =>
    let tab := lanesOf 4 (s.me.getV b)
    let brk := lanesOf 4 (s.me.getV (b + 1))
    let le := fun (j : Nat) => (fcmp 2 (fp32.decode (laneAt brk j)) (fp32.decode x)).1
    let k := ((List.range 15).filter le).length
    fp32.fma s.rm (laneAt tab k) x (laneAt tab (16 + k))

/-- One compensated step of R109 on a state S and a compensation C with increment x: the new S and C and the flags. -/
def supdStep (S C x : Nat) : Nat × Nat × FFlags :=
  let y := fp32.sub 0 x C
  let t := fp32.add 0 S y.1
  let u := fp32.sub 0 t.1 S
  let c := fp32.sub 0 u.1 y.1
  (t.1, c.1, y.2 ||| t.2 ||| u.2 ||| c.2)

/-- VSUPD: Compensated FP32 state update. (R161) -/
def execVsupd (d : BitVec 5) (a : BitVec 5) (b : BitVec 5) (p : BitVec 3) (s : State) : Out :=
  if s.cur.isSeq then illegalIssuer s (word.vsupd d a b p)
  else s.streamOut (do
    let x ← s.vSrc a
    let y ← s.vSrc b
    let g := s.me.getP p.toNat
    let rs := (List.range 32).map fun i =>
      let inc := fp32.mul 0 (laneAt (lanesOf 4 x) i) (laneAt (lanesOf 4 y) i)
      let r := supdStep (laneAt (lanesOf 4 (s.me.getV d)) i) (laneAt (lanesOf 4 (s.me.getV (d + 1))) i) inc.1
      (r.1, r.2.1, inc.2 ||| r.2.2)
    let m := activeBytes g 4
    .ok (s.complete (s.slotsOf true [a, b]) (laneFlags g 4 (rs.map fun r => (r.1, r.2.2))) fun t =>
      t.modMe fun q => (q.setV d (mergeBytes (q.getV d) (ofLanes 4 (rs.map (·.1))) m)).setV (d + 1)
        (mergeBytes (q.getV (d + 1)) (ofLanes 4 (rs.map (·.2.1))) m)))

/-- The lanes of a group of eight that VPRUNE keeps: fewer than four come before it by magnitude, then by index (R162). -/
def pruneKeeps (g : List Nat) (j : Nat) : Bool :=
  let mag := fun (i : Nat) => (sxL 1 (laneAt g i)).natAbs
  decide (((List.range 8).filter fun i => decide (mag j < mag i) || (decide (mag i = mag j) && decide (i < j))).length < 4)

/-- VPRUNE: Prunes INT8 lanes to 4:8 and writes the masks. (R162) -/
def execVprune (d : BitVec 5) (a : BitVec 5) (q : BitVec 3) (s : State) : Out :=
  if s.cur.isSeq then illegalIssuer s (word.vprune d a q)
  else s.streamOut (do
    let x ← s.vSrc a
    let groups := chunks 8 16 (lanesOf 1 x)
    let keep := groups.flatMap fun g => (List.range 8).map (pruneKeeps g)
    let kept := groups.flatMap fun g => ((List.range 8).filter (pruneKeeps g)).map (laneAt g)
    .ok (s.vOut [a] d (BitVec.allOnes 128) (ofLanes 1 kept) 0 fun t => t.modMe fun r => r.setP q.toNat (predOf 1 keep)))


end Sys2Proof.Machine
end

