-- ==== Sys2Proof/Machine/Pred.lean ====
section
/-! DEFINITION. Predicate instructions (R163). -/

namespace Sys2Proof.Machine

/-- A predicate instruction: P[d] := v (R163). -/
def State.setPred (s : State) (enc : Enc) (d : BitVec 5) (v : PReg) : Out :=
  if s.cur.isSeq then illegalIssuer s enc else .next ((s.modMe fun t => t.setP d.toNat v).adv 4)

/-- P[n] of the executing thread, by a register field. -/
def State.p (s : State) (n : BitVec 5) : PReg := s.me.getP n.toNat

/-- PAND: Predicate AND. (R163) -/
def execPand (d : BitVec 5) (a : BitVec 5) (b : BitVec 5) (s : State) : Out := s.setPred (word.pand d a b) d (s.p a &&& s.p b)

/-- POR: Predicate OR. (R163) -/
def execPor (d : BitVec 5) (a : BitVec 5) (b : BitVec 5) (s : State) : Out := s.setPred (word.por d a b) d (s.p a ||| s.p b)

/-- PXOR: Predicate XOR. (R163) -/
def execPxor (d : BitVec 5) (a : BitVec 5) (b : BitVec 5) (s : State) : Out := s.setPred (word.pxor d a b) d (s.p a ^^^ s.p b)

/-- PNOT: Predicate NOT. (R163) -/
def execPnot (d : BitVec 5) (a : BitVec 5) (s : State) : Out := s.setPred (word.pnot d a) d (~~~(s.p a))

/-- PSET: Activates the first n lanes. (R163) -/
def execPset (d : BitVec 5) (a : BitVec 5) (s : BitVec 2) (s0 : State) : Out := s0.setPred (word.pset d a s) d (predOf (esz s) ((List.range (128 / esz s)).map fun i => decide (i < (s0.x a).toNat)))

/-- PCNT: Counts active lanes. (R163) -/
def execPcnt (d : BitVec 5) (a : BitVec 5) (s : BitVec 2) (s0 : State) : Out :=
  if s0.cur.isSeq then illegalIssuer s0 (word.pcnt d a s)
  else s0.setReg d (ofN ((List.range (128 / esz s)).filter fun i => active (s0.p a) (esz s) i).length)

/-- PFIRST: Finds the first active lane. (R163) -/
def execPfirst (d : BitVec 5) (a : BitVec 5) (s : BitVec 2) (s0 : State) : Out :=
  if s0.cur.isSeq then illegalIssuer s0 (word.pfirst d a s)
  else s0.setReg d (ofN (((List.range (128 / esz s)).find? fun i => active (s0.p a) (esz s) i).getD (128 / esz s)))


end Sys2Proof.Machine
end

