-- ==== Sys2Proof/Machine/Atom.lean ====
section
/-! DEFINITION. Atomics (R246, R247). -/

namespace Sys2Proof.Machine

namespace State

/-- The agent's earlier accesses that a fence of this kind and scope orders are not all performed: an operation that a T6 performs for
it, or, for a release, a push (R225, R230, R242); or it exchanges clocks with a fence point beyond a bridge that retrains (R228, R437). -/
def fenceWaits (s : State) (a : Agent) (kind scope : Nat) : Bool :=
  let t := s.thread a
  (decide (1 ≤ kind) && decide (1 ≤ scope) && t.outst.any fun o => decide (o.gen = t.gen)) ||
  (decide (2 ≤ kind) && s.pushesPending a) ||
  (decide (kind = 4) && decide (4 ≤ scope) && s.bridgeHolds a 0)

/-- Kind of an ordering code o of R246: 0 none, 1 ACQ, 2 REL, 3 ACQREL, 4 SC. -/
def ordKind (o : BitVec 5) : Nat := if o = 0 then 0 else (o.toNat - 1) / 5 + 1
/-- Scope of an ordering code, as FENCE codes scopes: 1 CORE to 5 SYSTEM. -/
def ordScope (o : BitVec 5) : Nat := if o = 0 then 0 else (o.toNat - 1) % 5 + 1

/-- The location of an atomic of R247 (and of BUMP): its checks in order. -/
def atomPlace (s : State) (ea : Word) (n align : Nat) : Res Acc := do
  check (decide (ea.toNat % align = 0)) Cause.misaligned ea
  let acc ← s.resolve s.cur ea n kindRW
  check (!s.storeRefused s.cur acc.loc) Cause.permission ea
  check (decide (placeOf acc.loc ≠ .mmio) && decide (placeOf acc.loc ≠ .host)) Cause.permission ea
  .ok acc



/-- The agent reads bytes at their home, in the step of an atomic, and takes the clock that the value carries; the reply brings the
copies of its die to the home's value, of a compare that fails as of any other (R230, R231). -/
def atomRead (s : State) (a : Agent) (acc : Acc) (n : Nat := 8) : State :=
  if (homeDie acc.loc).isNone then s
  else
    let k := s.homeClock acc.loc n
    let s1 := if k.isEmpty then s else s.modThread a fun t => { t with seen := joinClock t.seen k }
    if acc.rng.uncached then s1 else s1.readFrom a.dieNo acc.loc n

/-- The agent writes bytes at their home, in the step of an atomic; the reply updates the copies of its die (R230). -/
def atomWrite (s : State) (a : Agent) (acc : Acc) (bs : List Byte) : State :=
  let s1 := (s.storeAt acc.loc acc.key bs acc.rng.uncached (s.partOf a, s.secureOf a)).carryFrom (s.thread a).rel acc.loc bs.length
  if acc.rng.uncached then s1 else s1.ackAt a.dieNo acc.loc bs.length

/-- An atomic of R247 with result register `d` and the new value `f old`, if it writes one: checks, the wait for an engine, the
partial commit of R26, then one step at the home. Its ordering acts as a fence: the release before its write, the acquire after its
read (R230). -/
def atomic (s : State) (d a : BitVec 5) (o : BitVec 5) (f : Word → Option Word) : Out :=
  let ea := s.x a
  finishOut s (do
    let acc ← s.atomPlace ea 8 8
    s.waitClear acc.loc 8 true
    waitFor (!s.fenceWaits s.cur (ordKind o) (ordScope o))
    .ok (s.act fun s1 => finish s1 (do
      let b ← s1.readVia s1 s1.cur acc ea 8
      let old := bytesWord b
      let s2 := ((s1.useRtb s1.cur ea.toNat 8 kindRW).fenceRelease s1.cur (ordKind o) (ordScope o)).atomRead s1.cur acc
      let s3 := match f old with
        | some v => s2.atomWrite s2.cur acc (wordBytes v)
        | none => s2
      .ok (((s3.fenceAcquire s3.cur (ordKind o) (ordScope o)).wx d old).adv 4))))

end State

/-- AMOADD: Atomically adds to a doubleword at its home and returns the old value. (R247) -/
def execAmoadd (d : BitVec 5) (a : BitVec 5) (b : BitVec 5) (o : BitVec 5) (s : State) : Out := s.atomic d a o fun old => some (old + s.x b)

/-- AMOAND: Atomic AND. (R247) -/
def execAmoand (d : BitVec 5) (a : BitVec 5) (b : BitVec 5) (o : BitVec 5) (s : State) : Out := s.atomic d a o fun old => some (old &&& s.x b)

/-- AMOOR: Atomic OR. (R247) -/
def execAmoor (d : BitVec 5) (a : BitVec 5) (b : BitVec 5) (o : BitVec 5) (s : State) : Out := s.atomic d a o fun old => some (old ||| s.x b)

/-- AMOXOR: Atomic XOR. (R247) -/
def execAmoxor (d : BitVec 5) (a : BitVec 5) (b : BitVec 5) (o : BitVec 5) (s : State) : Out := s.atomic d a o fun old => some (old ^^^ s.x b)

/-- AMOMIN: Atomic signed minimum. (R247) -/
def execAmomin (d : BitVec 5) (a : BitVec 5) (b : BitVec 5) (o : BitVec 5) (s : State) : Out := s.atomic d a o fun old => some (if old.slt (s.x b) then old else s.x b)

/-- AMOMAX: Atomic signed maximum. (R247) -/
def execAmomax (d : BitVec 5) (a : BitVec 5) (b : BitVec 5) (o : BitVec 5) (s : State) : Out := s.atomic d a o fun old => some (if old.slt (s.x b) then s.x b else old)

/-- AMOMINU: Atomic unsigned minimum. (R247) -/
def execAmominu (d : BitVec 5) (a : BitVec 5) (b : BitVec 5) (o : BitVec 5) (s : State) : Out := s.atomic d a o fun old => some (if old.ult (s.x b) then old else s.x b)

/-- AMOMAXU: Atomic unsigned maximum. (R247) -/
def execAmomaxu (d : BitVec 5) (a : BitVec 5) (b : BitVec 5) (o : BitVec 5) (s : State) : Out := s.atomic d a o fun old => some (if old.ult (s.x b) then s.x b else old)

/-- AMOSWAP: Atomic swap. (R247) -/
def execAmoswap (d : BitVec 5) (a : BitVec 5) (b : BitVec 5) (o : BitVec 5) (s : State) : Out := s.atomic d a o fun _ => some (s.x b)

/-- CAS: Atomic compare-and-swap against X[d]. (R247) -/
def execCas (d : BitVec 5) (a : BitVec 5) (b : BitVec 5) (o : BitVec 5) (s : State) : Out := s.atomic d a o fun old => if old = s.x d then some (s.x b) else none


end Sys2Proof.Machine
end

