-- ==== Sys2Proof/Machine/Reels.lean ====
section
/-! DEFINITION. Reels: the header in memory, free slots, fills and releases (R288, R289). A header stands at a location. -/

namespace Sys2Proof.Machine

/-- Location of byte 0 of the memory that a location lies in: a ULM or a sequencer's local memory. -/
def memBase (l : Nat) : Nat :=
  if l < 2 ^ 48 + 2 ^ 27 then 2 ^ 48 + alignDown (2 ^ 20) (l - 2 ^ 48)
  else 2 ^ 48 + 2 ^ 27 + alignDown (2 ^ 17) (l - (2 ^ 48 + 2 ^ 27))

/-- The size of that memory. -/
def memSize (l : Nat) : Nat := if l < 2 ^ 48 + 2 ^ 27 then 2 ^ 20 else 2 ^ 17

namespace State

/-- Doubleword `i` of a reel header. -/
def reelWord (s : State) (h i : Nat) : Word := bytesWord (Memory.readN s.mem (h + 8 * i) 8)

/-- VALID. -/
def reelValid (s : State) (h : Nat) : Bool := bitAt (s.reelWord h 1) 63
/-- TILE. -/
def reelTile (s : State) (h : Nat) : Bool := bitAt (s.reelWord h 0) 40
/-- Slot count N. -/
def reelN (s : State) (h : Nat) : Nat := 2 ^ field (s.reelWord h 0) 36 4
/-- Slot size. -/
def reelSize (s : State) (h : Nat) : Nat := field (s.reelWord h 0) 20 16
/-- Address of slot 0 in the header's memory. -/
def reelBase (s : State) (h : Nat) : Nat := field (s.reelWord h 0) 0 20
/-- Read pointer. -/
def reelRp (s : State) (h : Nat) : Nat := field (s.reelWord h 1) 0 11
/-- FILL, bit i for slot (RP + i) mod N. -/
def reelFill (s : State) (h : Nat) : BitVec 128 := s.reelWord h 3 ++ s.reelWord h 2
/-- PSN. -/
def reelPsn (s : State) (h : Nat) : BitVec 128 := s.reelWord h 5 ++ s.reelWord h 4
/-- The place of slot `i` in FILL: (i − RP) mod N. -/
def reelPos (s : State) (h i : Nat) : Nat := (i + s.reelN h - s.reelRp h % s.reelN h) % s.reelN h

/-- Consecutive set bits of FILL from bit 0. -/
def runLength : Nat → BitVec 128 → Nat
  | 0, _ => 0
  | n + 1, f => if bitAt f 0 then 1 + runLength n (f >>> 1) else 0

/-- Address of slot `i` in the header's memory (R288). -/
def reelSlot (s : State) (h i : Nat) : Nat := s.reelBase h + i * s.reelSize h

/-- The first `n` bytes of slot `i`; a header that a program has stored to leads to no other memory: bytes beyond its own read 0 (R7). -/
def readSlot (s : State) (h i n : Nat) : List Byte :=
  if s.reelSlot h i + n ≤ memSize h then Memory.readN s.mem (memBase h + s.reelSlot h i) n else List.replicate n 0

/-- Writes the first bytes of slot `i`, inside the header's own memory alone (R7). -/
def putSlot (s : State) (h i : Nat) (bs : List Byte) : State :=
  if s.reelSlot h i + bs.length ≤ memSize h then s.putBytes (memBase h + s.reelSlot h i) bs else s

/-- Writes doublewords 1 to 7 of a header, with WP by its rule (R288). -/
def putReel (s : State) (h rp : Nat) (fill psn : BitVec 128) : State :=
  let n := s.reelN h
  let wp := (rp + runLength (min n 128) fill) % n
  s.putBytes (h + 8) (wordsBytes [ofN (2 ^ 63 + wp * 2 ^ 16 + rp), fill.extractLsb' 0 64, fill.extractLsb' 64 64,
    psn.extractLsb' 0 64, psn.extractLsb' 64 64, 0, 0])

/-- A copy in flight names a slot of this header (R289), or the header at all when no slot is given. -/
def copyNames (h : Nat) (slot : Option Nat) (c : Copy) : Bool :=
  decide (c.ck = 3) && decide (c.hdrLoc = h) && (match slot with
    | some i => decide (c.slot = i)
    | none => true)

/-- A copy in flight targets slot `slot` of the reel at `h`, or the reel. -/
def reelTargeted (s : State) (h : Nat) (slot : Option Nat) : Bool :=
  s.core.any (fun e => e.2.ce.live.any (copyNames h slot)) || s.sets.any fun e => e.2.ce.live.any (copyNames h slot)

/-- Slot `i` is within the reach of FILL and clear (R289). -/
def reelClear (s : State) (h i : Nat) : Bool :=
  s.reelValid h && decide (i < s.reelN h) && decide (s.reelPos h i < min (s.reelN h) 128) &&
  !bitAt (s.reelFill h) (s.reelPos h i)

/-- Slot `i` is free (R289). -/
def reelFree (s : State) (h i : Nat) : Bool := s.reelClear h i && !s.reelTargeted h (some i)

/-- A fill of slot `i`, poisoned or not, in one step (R289). -/
def fillSlot (s : State) (h i : Nat) (bad : Bool) : State :=
  if s.reelClear h i then
    let b : BitVec 128 := BitVec.ofNat 128 (2 ^ s.reelPos h i)
    s.putReel h (s.reelRp h) (s.reelFill h ||| b) (if bad then s.reelPsn h ||| b else s.reelPsn h)
  else s

/-- The clock that the fills of the reel at `h` carry (`k` = 0), and the one that its releases carry (`k` = 1), stand with the
doublewords of its header that the hardware maintains (R229, R231; DESIGN CHOICE, log entry 18). -/
def reelClock (s : State) (h k : Nat) : Clock := s.clockAt (h / 8 + 2 + k)

/-- Joins a clock to one of a reel's. -/
def joinReelClock (s : State) (h k : Nat) (c : Clock) : State :=
  { s with carried := Tbl.put [] s.carried (h / 8 + 2 + k) (joinClock (s.reelClock h k) c) }

/-- A fill by a unit of die `d`: it acquires from the slot's last release, and is a release (R229, R289). -/
def fillSlotOn (s : State) (d h i : Nat) (bad : Bool) : State :=
  let s1 := ((s.mergeClock d (s.reelClock h 1)).dropOld d none).releaseOn d
  (s1.fillSlot h i bad).joinReelClock h 0 (s1.vcOf d)

/-- Releases the read slot: RP advances, FILL and PSN shift down (R290). -/
def releaseSlot (s : State) (h : Nat) : State :=
  s.putReel h ((s.reelRp h + 1) % s.reelN h) (s.reelFill h >>> 1) (s.reelPsn h >>> 1)

/-- REELREL of an agent releases the read slot: a release toward the next fill (R229, R290). -/
def releaseSlotBy (s : State) (a : Agent) (h : Nat) : State :=
  let s1 := s.release a
  (s1.releaseSlot h).joinReelClock h 1 (s1.vcOf a.dieNo)

end State

end Sys2Proof.Machine
end

