-- ==== Sys2Proof/Machine/Tree.lean ====
section
/-! DEFINITION. The Continuity Tree's records (R345 to R349): tree records, node records in their pool, cursors, and the end of
a deposit (R354). -/

namespace Sys2Proof.Machine

/-- A node record (R348). -/
structure Node where
  key : Word := 0
  digest : List Word := [0, 0, 0, 0]
  v : Bool := false
  pend : Bool := false
  bad : Bool := false
  depth : Nat := 0
  holders : Nat := 0
  children : Nat := 0
  parent : Nat := 0xFFFFFFFF
  lastUse : Word := 0
  ssize : Nat := 0
  srid : Nat := 0
  deriving DecidableEq, Repr

/-- The 16 doublewords of a node record. -/
def Node.words (n : Node) : List Word :=
  [n.key] ++ n.digest ++
  [ofN (b2n n.v * 2 ^ 63 + b2n n.pend * 2 ^ 62 + b2n n.bad * 2 ^ 61 + n.depth % 2 ^ 48),
   ofN (n.holders % 65536 * 2 ^ 48 + n.children % 65536 * 2 ^ 32 + n.parent % 2 ^ 32), n.lastUse,
   ofN (n.ssize % 2 ^ 21 * 2 ^ 32 + n.srid % 65536), 0, 0, 0, 0, 0, 0, 0]

/-- The node of a record's doublewords. -/
def Node.ofWords (w : List Word) : Node :=
  let a := fun i => wordAt w i
  { key := a 0, digest := [a 1, a 2, a 3, a 4], v := bitAt (a 5) 63, pend := bitAt (a 5) 62, bad := bitAt (a 5) 61
    depth := field (a 5) 0 48, holders := field (a 6) 48 16, children := field (a 6) 32 16, parent := field (a 6) 0 32
    lastUse := a 7, ssize := field (a 8) 32 21, srid := field (a 8) 0 16 }

namespace State

/-- Tree record `i` of partition `p`. -/
def tree (s : State) (p i : Nat) : TreeRec := Tbl.get {} (s.getPart p).trees i

/-- Changes a tree record. -/
def setTree (s : State) (p i : Nat) (t : TreeRec) : State := s.modPart p fun x => { x with trees := Tbl.put {} x.trees i t }

/-- The range of partition `p` whose VBASE is `base`, with its descriptor index. -/
def rangeAt (s : State) (p base : Nat) : Option (Nat × Range) :=
  (s.getPart p).ranges.findSome? fun e => e.2.bind fun r => if r.vbase = base then some (e.1, r) else none

/-- A pool is granted: it names a range of the partition of at least `n` bytes that the partition may read and write: its world, owner,
letters and key (R351, R411, R414). -/
def pool (s : State) (p : Nat) (base : Word) (n : Nat) : Option (Nat × Range) :=
  match s.rangeAt p base.toNat with
  | some (i, r) => if n ≤ r.size ∧ s.rangeFault r (s.getPart p).secure p r.vbase n kindRW false = none then some (i, r) else none
  | none => none

/-- An error stands where the walker finds a pool: in its descriptor or on the path through the index (R325). -/
def poolBad (s : State) (p : Nat) (base : Word) : Bool :=
  (s.getPart p).walkBad base.toNat || (match s.rangeAt p base.toNat with
    | some (_, r) => r.poisoned
    | none => false)

/-- Home die of a tree. -/
def TreeRec.die (t : TreeRec) : Nat := field t.dw0 56 1
/-- SSIZE of a tree. -/
def TreeRec.ssize (t : TreeRec) : Nat := field t.dw0 0 21
/-- LOG2G of a tree. -/
def TreeRec.log2g (t : TreeRec) : Nat := field t.dw0 48 4

/-- The node pool of a tree, if granted. -/
def nodePool (s : State) (p : Nat) (t : TreeRec) : Option (Nat × Range) := s.pool p t.npool (192 * t.cap)
/-- The state pool of a tree, if granted. -/
def statePool (s : State) (p : Nat) (t : TreeRec) : Option (Nat × Range) := s.pool p t.spool (TreeRec.ssize t * t.cap)

/-- What CREATE asks of a pool besides: cacheable, which the host window never is, with its home on the tree's die (R202, R352). -/
def TreeRec.hosts (t : TreeRec) (r : Range) : Bool :=
  !r.uncached && decide (r.home = TreeRec.die t) && decide (placeOf r.pbase = .hbm (TreeRec.die t))

/-- The Continuity Engine of a tree's die has looked a node up: its index cache holds it (R200, R345; DESIGN CHOICE, log entry 40:
which entries it keeps). -/
def noteNode (s : State) (p tr i : Nat) : State :=
  s.modDie (TreeRec.die (s.tree p tr)) fun x => { x with snapIdx := ((p, tr, i) :: x.snapIdx.erase (p, tr, i)).take 16384 }

/-- A copy that serves a node of a tree goes on as a plain one: the node is gone, and one that takes its index later is another
(R354, R360). -/
def Copy.detach (p tr : Nat) (i : Option Nat) (c : Copy) : Copy :=
  let gone := fun (q t n : Nat) => decide (q = p) && decide (t = tr) && (match i with
    | some k => decide (n = k)
    | none => true)
  match c.role with
  | .deposit q t n => if gone q t n then { c with role := .plain } else c
  | .restore q t n => if gone q t n then { c with role := .plain } else c
  | .plain => c
  | .residency _ _ _ => c

/-- The copies of every engine that serve a node of a tree, or any of its nodes, no longer do. -/
def detachCopies (s : State) (p tr : Nat) (i : Option Nat) : State :=
  let f := fun (k : CopyEngine) => { k with live := k.live.map (Copy.detach p tr i) }
  { s with core := s.core.map fun e => (e.1, { e.2 with ce := f e.2.ce }), sets := s.sets.map fun e => (e.1, { e.2 with ce := f e.2.ce }) }

/-- The index cache of a tree's die loses a node, or all nodes of the tree (R345, R352). -/
def forgetNodes (s : State) (p tr : Nat) (i : Option Nat) : State :=
  (s.detachCopies p tr i).modDie (TreeRec.die (s.tree p tr)) fun x =>
    { x with snapIdx := x.snapIdx.filter fun e =>
        !(decide (e.1 = p) && decide (e.2.1 = tr) && (match i with
          | some n => decide (e.2.2 = n)
          | none => true)) }

/-- The clock of the last deposit that a node's record carries (R231, R360). -/
def nodeClock (s : State) (r : Range) (i : Nat) : Clock := s.homeClock (r.pbase + 128 * i) 128

/-- Node `i` of a pool; a record with an uncorrectable error reads BAD (R361). -/
def node (s : State) (r : Range) (i : Nat) : Node :=
  let l := r.pbase + 128 * i
  let n := Node.ofWords (bytesWords (s.plain l 128 r.key))
  { n with bad := n.bad || s.poisoned l 128 }

/-- Writes node `i` of a pool, which carries clock `k`. -/
def putNodeFrom (s : State) (r : Range) (i : Nat) (n : Node) (k : Clock) : State :=
  match placeOf (r.pbase + 128 * i) with
  | .hbm d => ((s.putPlain (r.pbase + 128 * i) r.key (wordsBytes n.words)).carry (r.pbase + 128 * i) 128 k).markWrote d
  | _ => s

/-- Writes node `i` of a pool, whose clock stays. -/
def putNode (s : State) (r : Range) (i : Nat) (n : Node) : State := s.putNodeFrom r i n (s.nodeClock r i)

/-- The end of a deposit copy, a release with clock `k`: PEND := 0, and BAD := 1 unless it ended DONE (R354, R360). -/
def depositEnd (s : State) (p tree i : Nat) (good : Bool) (k : Clock) : State :=
  let t := s.tree p tree
  match s.nodePool p t with
  | none => s
  | some (_, r) =>
    let n := s.node r i
    if t.v ∧ n.v ∧ n.pend ∧ i < t.cap then s.putNodeFrom r i { n with pend := false, bad := n.bad || !good } k else s

end State

end Sys2Proof.Machine
end

