-- ==== Sys2Proof/Machine/Copies.lean ====
section
/-! DEFINITION. The copy engine (R251 to R261): issuing a copy whose checks have passed, its progress by destination lines, and
its end with the completion action. -/

namespace Sys2Proof.Machine

/-- A copy that has passed its checks and is to be issued. -/
structure CopyReq where
  src : List Seg := []
  dst : List (List Seg) := []
  len : Nat := 0
  ck : Nat := 0
  slot : Nat := 0
  idx : Nat := 0
  hdrLoc : Nat := 0
  ord : Bool := false
  /-- NACK code of the first place that refuses the copy (R255) -/
  refused : Option Nat := none
  /-- a destination is no ULM of the issuer's own core, or is refused (R261) -/
  outside : Bool := false
  role : CopyRole := .plain
  deriving DecidableEq, Repr

/-- Bytes of an interval inside [off, …) of a segment list: the segment that holds offset `p`. -/
def segAt (l : List Seg) (p : Nat) : Option Seg := l.find? fun g => decide (g.off ≤ p) && decide (p < g.off + g.len)

namespace State

/-! ### The engine of an agent -/

/-- The copy engine that an agent issues to: its core's, or its Set's copy sequencer's (R251). -/
def ceOf (s : State) (a : Agent) : CopyEngine :=
  match a with
  | .thr c _ => (s.getCore c).ce
  | .seq n _ => (s.getSet n).ce

/-- Changes the copy engine of an agent. -/
def modCe (s : State) (a : Agent) (f : CopyEngine → CopyEngine) : State :=
  match a with
  | .thr c _ => s.modCore c fun k => { k with ce := f k.ce }
  | .seq n _ => s.modSet n fun k => { k with ce := f k.ce }

/-- The engine, as an agent of it, that has the live copy with a handle. -/
def engineWith (s : State) (h : Word) : Option Agent :=
  match s.core.find? fun e => e.2.ce.live.any fun c => decide (c.handle = h) with
  | some e => some (.thr e.1 0)
  | none =>
    match s.sets.find? fun e => e.2.ce.live.any fun c => decide (c.handle = h) with
    | some e => some (.seq e.1 2)
    | none => none

/-- The live copy with a handle, and its engine. -/
def copyWith (s : State) (h : Word) : Option (Agent × Copy) :=
  (s.engineWith h).bind fun e => ((s.ceOf e).live.find? fun c => decide (c.handle = h)).map fun c => (e, c)

/-- Changes the live copy with a handle. -/
def modCopy (s : State) (e : Agent) (h : Word) (f : Copy → Copy) : State :=
  s.modCe e fun k => { k with live := k.live.map fun c => if c.handle = h then f c else c }

/-- The core whose T7 serves an engine: its core, or core 0 of the Set (R257). -/
def t7CoreOf (s : State) : Agent → Nat
  | .thr c _ => c
  | .seq n _ => s.coreZero n

/-! ### Issue (R251, R255, R256) -/

/-- Coordinates of a handle: bits [63:57], with bit 48 for a copy sequencer (R251). -/
def handleBase (s : State) (a : Agent) : Word := ofN (s.coordOf a * 2 ^ 57 + b2n a.isSeq * 2 ^ 48)

/-- The next sequence number of an engine: 1 after 2⁴⁸ − 1 (R251). -/
def nextSeq (q : BitVec 48) : BitVec 48 := if q + 1 = 0 then 1 else q + 1

/-- The ULM intervals of a request: core, first byte, length, kind W. -/
def ulmIntervals (r : CopyReq) : List (Nat × Nat × Nat × Bool) :=
  let of := fun (w : Bool) (l : List Seg) => l.filterMap fun g => (locCore g.loc).map fun c => (c, g.loc - ulmLoc c 0, g.len, w)
  of false r.src ++ r.dst.flatMap (of true)

/-- The scoreboards have room for the intervals: 256 entries each (R209). -/
def sbRoom (s : State) (l : List (Nat × Nat × Nat × Bool)) : Bool :=
  l.all fun i => decide ((s.getCore i.1).sb.length + (l.filter fun j => decide (j.1 = i.1)).length ≤ 256)

/-- A copy that passed its checks can issue: a copy slot is free, the scoreboards have room, and no other engine owns one of its
global destination lines, which no retraining bridge lies before (R206, R209, R234, R255, R437). -/
def copyReady (s : State) (a : Agent) (r : CopyReq) : Bool :=
  decide ((s.ceOf a).live.length < 1024) &&
  (r.refused.isSome || (s.sbRoom (ulmIntervals r) &&
    r.dst.all fun d => d.all fun g => decide (2 ^ 48 ≤ g.loc) || (!s.acrossBridge a.dieNo g.loc &&
      !s.engineOwns (alignDown 128 g.loc) (alignUp 128 (g.loc + g.len) - alignDown 128 g.loc))))

/-- The completion action of a copy, a release (R229, R258): `good` for DONE. -/
def completeCopy (s : State) (a : Agent) (c : Copy) (good : Bool) : State :=
  let d := c.idx / 4096 % 2
  let i := c.idx % 4096
  let s2 := match c.ck with
    | 1 => s.decDcOn a.dieNo d i (if good then 1 else 1 <<< 63)
    | 2 => if good then s.arriveBarOn a.dieNo d (i % 1024) else (s.releaseOn a.dieNo).poisonBar d (i % 1024)
    | 3 => s.fillSlotOn a.dieNo c.hdrLoc c.slot (!good)
    | _ => s
  match c.role with
  | .plain => s2
  | .deposit p t n =>
    let s3 := s2.releaseOn a.dieNo
    s3.depositEnd p t n good (s3.vcOf a.dieNo)
  | .restore _ _ _ => s2
  | .residency k i fill =>
    let w := s2.pregRec k i
    if good then s2.putUlmWord k (s2.blockAddr k (0x1040 + 16 * i)) (setField w 62 2 (if fill then 0 else 2)) else s2

/-- The status word of a copy (R260). -/
def copyStatus (c : Copy) : Word :=
  let st := match c.state with
    | .inFlight => 0
    | .done => 1
    | .cancelled => 2
    | .fault => 3
    | .suspended => 4
  let cause := match c.state with
    | .fault => c.cause.toNat
    | .suspended => c.cause.toNat
    | .inFlight => 0
    | .done => 0
    | .cancelled => 0
  ofN (st * 2 ^ 61 + cause * 2 ^ 32 + c.prog % 2 ^ 32)

/-- The copy is one of the residency engine's, which has no handle that software knows. -/
def isResidency (c : Copy) : Bool :=
  match c.role with
  | .residency _ _ _ => true
  | .plain => false
  | .deposit _ _ _ => false
  | .restore _ _ _ => false

/-- Ends a live copy with a state and cause: its lines and scoreboard entries are released, it enters the status history, and
its completion action follows (R258, R260). -/
def endCopy (s : State) (e : Agent) (c : Copy) (st : CState) (cause : BitVec 8) : State :=
  let c1 := { c with state := st, cause := cause }
  let s1 := s.modCe e fun k =>
    { k with
      live := k.live.filter fun x => !decide (x.handle = c.handle)
      ended := if isResidency c then k.ended else ((c.handle, copyStatus c1) :: k.ended).take 256 }
  (s1.retireSb (.copy c.handle)).completeCopy e c1 (decide (st = .done))

/-- The issue of a copy, once it can issue: the machine after it, and the handle (R206, R251, R253, R255, R256). -/
def issueCopy (s0 : State) (a : Agent) (r : CopyReq) : State × Word :=
  let used := fun (k : Kind) (t : State) (g : Seg) => if g.rid.isSome then t.useRtb a g.va.toNat 1 k false else t
  let u := r.dst.foldl (fun t d => d.foldl (used kindW) t) (r.src.foldl (used kindR) s0)
  let s := if r.refused.isSome then u else r.dst.foldl (fun t d => d.foldl (fun t g => t.takeLines a.dieNo g.loc g.len) t) u
  let q := nextSeq (s.ceOf a).seqNo
  let h := s.handleBase a + zext64 q
  let prev := (s.thread a).lastCopy
  let waits := r.ord && decide (prev ≠ 0) && (s.engineWith prev).isSome
  let c : Copy :=
    { handle := h, issuer := a, part := s.partOf a, secure := s.secureOf a, len := r.len, src := r.src, dst := r.dst
      ck := r.ck, slot := r.slot, idx := r.idx, hdrLoc := r.hdrLoc, ord := r.ord, started := !waits, after := prev
      role := r.role }
  let s1 := (s.modCe a fun k => { k with seqNo := q, live := k.live ++ [c] }).modThread a fun t => { t with lastCopy := h }
  let s2 := if a.isThr then s1.countEvent a.coreNo a.tid 0x0B else s1
  match r.refused with
  | some code =>
    let s3 := s2.endCopy a c .fault Cause.nack
    (s3.modThread a fun t =>
      { t with pendTrap := t.pendTrap ++ [{ code := Cause.nack, sub := BitVec.ofNat 8 code, tval := h }] }, h)
  | none =>
    if r.len = 0 ∧ !waits then (s2.endCopy a c .done 0, h)
    else ((ulmIntervals r).foldl (fun t i => t.addSb i.1 (sbEntry i.2.1 i.2.2.1 i.2.2.2 (.copy h))) s2, h)

/-! ### Progress (R206, R256, R257) -/

/-- The number of bytes of a segment that are resident from offset `p` of the copy on, by a fresh walk (R257, R344). -/
def segResident (s : State) (part : Nat) (g : Seg) (p : Nat) : Nat :=
  let rest := g.off + g.len - p
  let va := g.va.toNat + (p - g.off)
  if g.rid.isNone then rest
  else
    match (s.getPart part).find va 1 with
    | none => rest
    | some (_, r) => min rest (r.residentFrom (va - r.vbase))

/-- The end of the next piece of a copy from its progress point: the next destination line boundary, or a segment's end. -/
def pieceEnd (c : Copy) : Nat :=
  let p := c.prog
  let srcEnd := match segAt c.src p with
    | some g => g.off + g.len
    | none => c.len
  let dstEnd := match c.dst.head?.bind fun d => segAt d p with
    | some g => min (g.off + g.len) (p + (128 - (g.loc + (p - g.off)) % 128))
    | none => c.len
  min c.len (min srcEnd dstEnd)

/-- The first byte of [prog, q) that is not resident, with its virtual address: the source is looked at first (R257). -/
def copyHole (s : State) (c : Copy) (q : Nat) : Option (Nat × Word) :=
  let hole := fun (g : Option Seg) => g.bind fun g =>
    let n := s.segResident c.part g c.prog
    if c.prog + n < q then some (c.prog + n, g.va + ofN (c.prog + n - g.off)) else none
  let hs := (hole (segAt c.src c.prog)).toList ++ c.dst.filterMap fun d => hole (segAt d c.prog)
  hs.foldl (fun m h => match m with
    | none => some h
    | some x => if h.1 < x.1 then some h else some x) none

/-- The end of the first poisoned source sector that [prog, q) touches. -/
def copyBad (s : State) (c : Copy) (q : Nat) : Option Nat :=
  (segAt c.src c.prog).bind fun g =>
    let l := g.loc + (c.prog - g.off)
    ((List.range (q - c.prog)).find? fun i => s.poisoned (l + i) 1).map fun i =>
      min q (c.prog + (alignDown 32 (l + i) + 32 - l))

/-- The bytes of a source segment from offset `p` on. -/
def readSeg (s : State) (g : Seg) (p n : Nat) : List Byte :=
  let l := g.loc + (p - g.off)
  match placeOf l with
  | .host => (List.range n).map fun i => Config.freeHostByte s.freeCtr (l + i - 0x800000000000)
  | _ => s.plain l n g.key

/-- Writes bytes at offset `p` of a destination. -/
def writeSeg (s : State) (d : List Seg) (p : Nat) (bs : List Byte) : State :=
  match segAt d p with
  | none => s
  | some g => s.storeAt (g.loc + (p - g.off)) g.key bs g.unc

/-- Poisons the destination sectors of [p, q). -/
def poisonSeg (s : State) (d : List Seg) (p q : Nat) : State :=
  match segAt d p with
  | none => s
  | some g => s.poisonSectors (g.loc + (p - g.off)) (q - p)

/-- Performs bytes [prog, q) of a copy, all of one piece. -/
def copyPiece (s : State) (c : Copy) (q : Nat) : State :=
  match segAt c.src c.prog with
  | none => s
  | some g =>
    let bs := s.readSeg g c.prog (q - c.prog)
    let s1 := if g.unc then s else s.readFrom c.issuer.dieNo (g.loc + (c.prog - g.off)) (q - c.prog)
    c.dst.foldl (fun t d => t.writeSeg d c.prog bs) s1

/-- The next piece of a copy crosses the die bridge while it retrains (R437). -/
def copyAtBridge (s : State) (c : Copy) : Bool :=
  ((segAt c.src c.prog).toList ++ c.dst.filterMap fun d => segAt d c.prog).any fun g => s.acrossBridge c.issuer.dieNo g.loc

/-- What stops the next piece of a copy. -/
inductive Next where
  | go (q : Nat)
  | hole (at_ : Nat) (va : Word)
  | bad (q : Nat)
  /-- the bridge that it crosses retrains -/
  | held
  | ended
  deriving DecidableEq, Repr

/-- What the next piece of a copy meets: its end, a retrain of the bridge, a hole, or a poisoned source sector. -/
def copyNext (s : State) (c : Copy) : Next :=
  if c.len ≤ c.prog then .ended
  else if s.copyAtBridge c then .held
  else
    let q := pieceEnd c
    match s.copyHole c q with
    | some (o, va) => if o = c.prog then .hole o va else (match s.copyBad c o with
      | some b => .bad b
      | none => .go o)
    | none => match s.copyBad c q with
      | some b => .bad b
      | none => .go q

/-- Performs clean resident pieces of a copy, at most `n`: the machine and the copy's progress point after them. -/
def runCopy (c : Copy) : Nat → State → State × Nat
  | 0, s => (s, c.prog)
  | n + 1, s =>
    match s.copyNext c with
    | .go q => runCopy { c with prog := q } n (s.copyPiece c q)
    | _ => (s, c.prog)

/-- The copy stands at a boundary of its destination's lines, or has begun none (R260). -/
def atLine (c : Copy) : Bool :=
  decide (c.prog = 0) || decide (c.len ≤ c.prog) ||
  match c.dst.head?.bind fun d => segAt d c.prog with
  | some g => decide ((g.loc + (c.prog - g.off)) % 128 = 0)
  | none => true

/-- The copy goes on to the next boundary of its destination's lines, in at most `n` pieces (R260). -/
def toLine (c : Copy) : Nat → State → State × Nat
  | 0, s => (s, c.prog)
  | n + 1, s =>
    if atLine c then (s, c.prog)
    else
      match s.copyNext c with
      | .go q => toLine { c with prog := q } n (s.copyPiece c q)
      | _ => (s, c.prog)

/-- The copy may move bytes: in flight, started, and a restore only once its node is no longer PEND (R253, R357). -/
def copyRuns (s : State) (c : Copy) : Bool :=
  decide (c.state = .inFlight) && c.started &&
  match c.role with
  | .restore p t n =>
    (match s.nodePool p (s.tree p t) with
    | some (_, r) => !(s.node r n).pend && !(s.node r n).bad
    | none => true)
  | _ => true

/-- The node of a restore is BAD: the copy ends in FAULT (R357). -/
def restoreBad (s : State) (c : Copy) : Bool :=
  match c.role with
  | .restore p t n =>
    (match s.nodePool p (s.tree p t) with
    | some (_, r) => (s.node r n).bad
    | none => false)
  | _ => false

/-- A copy ends in FAULT with its item for T7 (R258). -/
def faultCopy (s : State) (e : Agent) (c : Copy) (cause : BitVec 8) : State :=
  let s1 := s.endCopy e c .fault cause
  s1.appendItem (s1.t7CoreOf e) Cause.copyFault cause 2 none c.handle 0 0 0

/-- A suspended copy resumes: the checks of its segments are repeated for what is left of them (R257). -/
def resumeCopy (s : State) (h : Word) : State :=
  match s.copyWith h with
  | none => s
  | some (e, c) =>
    if c.state ≠ .suspended then s
    else
      let again := fun (k : Kind) (g : Option Seg) => g.bind fun g => g.rid.bind fun _ =>
        match s.translateFor c.secure c.part [] (g.va.toNat + (c.prog - g.off)) 1 k false with
        | .error x => some x
        | .ok _ => none
      let bad := match again kindR (segAt c.src c.prog) with
        | some x => some x
        | none => c.dst.findSome? fun d => again kindW (segAt d c.prog)
      match bad with
      | some x => s.modCopy e h fun c => { c with state := .fault, cause := x }
      | none => s.modCopy e h fun c => { c with state := .inFlight }

/-! ### Segments (R254) -/

/-- The segments of [va, va + n) in an agent's ranges, checked with kind `k` without residency; MMIO always, and the host window
as a destination and outside RUN, are refused (R202, R254, R430). -/
def rangeSegs (s : State) (a : Agent) (k : Kind) : Nat → Nat → Nat → Nat → Res (List Seg)
  | _, _, 0, _ => .ok []
  | off, va, n, fuel =>
    match fuel with
    | 0 => trapR Cause.noRange (ofN va)
    | fuel + 1 =>
      if 2 ^ 56 ≤ va then trapR Cause.noRange (ofN va)
      else match s.translate a va 1 k false with
        | .error x => trapR x (ofN va)
        | .ok acc =>
          let len := min n (acc.rng.vbase + acc.rng.size - va)
          let g : Seg := { off := off, loc := acc.loc, len := len, key := acc.key, va := ofN va, rid := acc.rid, unc := acc.rng.uncached }
          let ok := match placeOf acc.loc with
            | .mmio => false
            | .host => !k.w && decide ((s.getPart (s.partOf a)).state = .running)
            | .hbm _ => true
            | .ulm => true
            | .none => false
          if !ok then trapR Cause.permission (ofN va)
          else do
            let r ← s.rangeSegs a k (off + len) (va + len) (n - len) fuel
            .ok (g :: r)

/-- Steps that the walk over ranges can need. -/
def segFuel (s : State) (a : Agent) : Nat := (s.getPart (s.partOf a)).ranges.length + (s.getCore a.coreNo).rtb.length + 1

end State

end Sys2Proof.Machine
end

