-- ==== Sys2Proof/Machine/Montage.lean ====
section
/-! DEFINITION. The Montage unit of a Set: bins, tile buffers, seals and tile descriptors (R296 to R301). -/

namespace Sys2Proof.Machine

/-- Rows per tile (R296). -/
def Bin.cap (b : Bin) : Nat := field b.cfg 4 9
/-- Bytes per row. -/
def Bin.len (b : Bin) : Nat := field b.cfg 13 9
/-- Timeout in 10 ns units. -/
def Bin.tmo (b : Bin) : Nat := field b.cfg 25 17

namespace State

/-- Bin `i` of Set `n`. -/
def bin (s : State) (n i : Nat) : Bin := Tbl.get {} (s.getSet n).bins i

/-- Changes bin `i` of Set `n`. -/
def setBin (s : State) (n i : Nat) (b : Bin) : State := s.modSet n fun k => { k with bins := Tbl.put {} k.bins i b }

/-- Tile buffer `i` of Set `n`. -/
def tileBuf (s : State) (n i : Nat) : TileBuf := Tbl.get {} (s.getSet n).bufs i

/-- Changes tile buffer `i` of Set `n`. -/
def setTileBuf (s : State) (n i : Nat) (b : TileBuf) : State := s.modSet n fun k => { k with bufs := Tbl.put {} k.bufs i b }

/-- The lowest free tile buffer of a Set. -/
def freeBuf (s : State) (n : Nat) : Option Nat := (List.range 32).find? fun i => !(s.tileBuf n i).held

/-- Number of free tile buffers. -/
def freeBufs (s : State) (n : Nat) : Nat := ((List.range 32).filter fun i => !(s.tileBuf n i).held).length

/-- An MXMUL of Set `n` reads tile buffer `i` (R190). -/
def bufRead (s : State) (n i : Nat) : Bool := (s.getSet n).engQ.any fun e => decide (e.buf = some i)

/-- The slot that carries the descriptor of a tile buffer has been released: the buffer is free once no MXMUL reads it
(R300). -/
def releaseBuf (s : State) (n i : Nat) : State :=
  if (s.tileBuf n i).sealed then
    if s.bufRead n i then s.setTileBuf n i { s.tileBuf n i with released := true } else s.setTileBuf n i {}
  else s

/-- The tile descriptor of a sealed bin (R299). -/
def tileDesc (i : Nat) (b : Bin) : List Word :=
  [ofN (b.sealNo % 2 ^ 24 * 2 ^ 40 + (if b.rows = 0 then 0 else b.buf.getD 0) % 32 * 2 ^ 28 + b.cause % 8 * 2 ^ 25 +
      i % 16 * 2 ^ 21 + field b.cfg 22 3 * 2 ^ 18 + b.len * 2 ^ 9 + b.rows),
   if b.rows = 0 then 0 else b.first, b.sealT, ofN (field b.cfg 50 1 * 256 + field b.cfg 42 8)]

/-- A SEALING bin completes its seal: the descriptor goes into its next slot, whose FILL bit is set as a release, and the bin
is OPEN again, or CLOSED after MONCLOSE (R229, R299). -/
def placeSeal (s : State) (n i : Nat) : State :=
  let b := s.bin n i
  let h := b.hdrLoc
  let s1 := s.putSlot h b.next (wordsBytes (tileDesc i b))
  let s2 := s1.fillSlotOn (n / 8) h b.next false
  let s3 := match b.buf with
    | some k => s2.setTileBuf n k { s2.tileBuf n k with sealed := true }
    | none => s2
  s3.setBin n i
    { b with
      state := if b.closing then 0 else 1
      next := (b.next + 1) % s.reelN h, sealNo := (b.sealNo + 1) % 2 ^ 24, rows := 0, buf := none, first := 0, closing := false }

/-- A SEALING bin whose next slot is free by R289 completes its seal. -/
def trySeal (s : State) (n i : Nat) : State :=
  let b := s.bin n i
  if b.state = 3 ∧ s.reelFree b.hdrLoc b.next then s.placeSeal n i else s

/-- Bin `i` of Set `n` seals with a cause: 0 FULL, 1 TIMEOUT, 2 SLATE, 3 EXPLICIT, 4 CLOSE; `closing` where it closes afterwards
(R299). -/
def sealBin (s : State) (n i cause : Nat) (closing : Bool := false) : State :=
  (s.setBin n i
    { s.bin n i with
      state := 3, cause := cause, closing := closing, sealT := s.timebase, lastSeal := some s.timebase }).trySeal n i

/-- The instant of the timeout of a FILLING bin (R299). -/
def dueAt (b : Bin) : Nat := b.first.toNat + 10 * b.tmo

/-- The cause of a seal that cause `cause` asks for now: TIMEOUT where the timeout came first, or comes first among causes that
coincide (R299). -/
def firstCause (s : State) (b : Bin) (cause : Nat) : Nat :=
  if b.state ≠ 2 ∨ cause = 0 then cause
  else if dueAt b < s.timebase.toNat ∨ (dueAt b = s.timebase.toNat ∧ 3 ≤ cause) then 1 else cause

/-- The slot that bin `b` has sealed into last. -/
def lastSlot (s : State) (b : Bin) : Nat := (b.next + s.reelN b.hdrLoc - 1) % s.reelN b.hdrLoc

/-- A cause that coincides with the seal that bin `i` of Set `n` has just made: there is one seal, with the first of FULL, SLATE,
TIMEOUT, EXPLICIT and CLOSE as its cause; so only SLATE changes what the seal has noted, in the bin while it is SEALING, else in its
descriptor (R299). -/
def recause (s : State) (n i cause : Nat) : State :=
  let b := s.bin n i
  if cause ≠ 2 ∨ b.cause = 0 ∨ b.cause = 2 then s
  else if b.state = 3 then s.setBin n i { b with cause := 2 }
  else
    (s.putSlot b.hdrLoc (s.lastSlot b) (wordBytes (setField (bytesWord (s.readSlot b.hdrLoc (s.lastSlot b) 8)) 25 3 2))).setBin n i
      { b with cause := 2 }

/-- A seal of cause SLATE or EXPLICIT: a FILLING bin seals its tile, an OPEN one an empty tile; a SEALING or CLOSED bin is left; and
causes that coincide make one seal, after which a row of that instant stands in the next tile (R299, R301). A MONSEAL follows a seal that a
MONSEAL before it has made. -/
def sealNow (s : State) (n i cause : Nat) : State :=
  let b := s.bin n i
  if b.lastSeal = some s.timebase ∧ (cause ≠ 3 ∨ b.cause ≠ 3) then s.recause n i cause
  else if b.state = 1 ∨ b.state = 2 then s.sealBin n i (s.firstCause b cause) else s

/-- Some bin that is not CLOSED, of any Set, names the reel at `h`. -/
def binNames (s : State) (h : Nat) : Bool :=
  s.sets.any fun e => e.2.bins.any fun b => decide (b.2.state ≠ 0) && decide (b.2.hdrLoc = h)

/-- The Set whose Montage unit serves the reel at `h`: the one with a bin on it, else the Set of the memory (R296). -/
def reelSet (s : State) (h : Nat) : Nat :=
  match s.sets.find? fun e => e.2.bins.any fun b => decide (b.2.state ≠ 0) && decide (b.2.hdrLoc = h) with
  | some e => e.1
  | none => match locCore h with
    | some c => c / 8
    | none => (h - (2 ^ 48 + 2 ^ 27)) / 2 ^ 17 / 3

/-- REELREL releases the tile buffer that the descriptor of the read slot names; one with M = 0 names none (R290, R300). -/
def releaseTile (s : State) (h : Nat) : State :=
  let w := bytesWord (s.readSlot h (s.reelRp h % s.reelN h) 8)
  if field w 0 9 = 0 then s else s.releaseBuf (s.reelSet h) (field w 28 5)

/-- A place code and header address of a Set: the location of the header, or none where R188 and R297 refuse the place or the
alignment. 0 to 7 name that core of the Set, 8 MI's local memory. -/
def reelPlace (s : State) (n : Nat) (w : Word) : Option Nat :=
  let ad := field w 0 20
  let pl := field w 20 4
  if ad % 64 ≠ 0 then none
  else if pl < 8 then
    match s.physOf (8 * n + pl) with
    | some c => if s.partOf (.thr c 0) = (s.getSet n).part then some (ulmLoc c ad) else none
    | none => none
  else if pl = 8 ∧ ad < 0x20000 then some (seqLoc n 1 ad) else none

end State

end Sys2Proof.Machine
end

