-- ==== Sys2Proof/Machine/Service.lean ====
section
/-! DEFINITION. The service side of a core: stops and halt groups (R44, R196, R402 to R404), T7's items (R391), the save and
restore of contexts (R396 to R398), dispositions (R392, R395), and in-field scans (R136, R401). -/

namespace Sys2Proof.Machine

namespace State

/-! ### Stops (R44, R403, R404) -/

/-- A waiting thread that a stop reaches at its wait: NR clear or between two activations, with no END, save or restore under
way (R27, R44); with NR set, held by a trap once its watchdog has expired (R29, R44). -/
def stopsInWait (t : Thread) (w : Wait) : Bool :=
  match w.kind with
  | .ending _ => false
  | .saving _ => false
  | .resident => true
  | .trapHeld => !t.nr || t.wdFired
  | _ => !t.nr

/-- A stop that has been delivered takes hold of thread `i` at this point: FREE and SAVED threads and those in a wait with NR
clear (R44); T6 between operations or in a trap of its own (R32); T7 at its boundary; and, while T7's queue is `full`, one whose
expired watchdog cannot be taken (R390). -/
def stopsHere (full : Bool) (i : Nat) (t : Thread) : Bool :=
  let late := full && decide (i < 6) && t.wdFired
  match t.st with
  | .stopped => false
  | .off => false
  | .free => true
  | .saved => !t.restoring
  | .run => decide (i = 7) || late
  | .wait => decide (6 ≤ i) || t.wait.any (stopsInWait t) || (late && t.wait.any fun w => match w.kind with
    | .ending _ => false
    | .saving _ => false
    | _ => true)

/-- Stops a thread or sequencer where it stands. -/
def stopThread (s : State) (a : Agent) : State :=
  s.modThread a fun t => { t with st := .stopped, held := t.st, stopAt := s.timebase }

/-- Stops the threads of core `c` that a delivered stop takes hold of now. -/
def settleStops (s : State) (c : Nat) : State :=
  (List.range 8).foldl (fun t i => if stopsHere (s.t7Full c) i (t.thread (.thr c i)) then t.stopThread (.thr c i) else t) s

/-- A stop request reaches core `c`. -/
def stopCore (s : State) (c : Nat) (r : StopReq) : State :=
  if (s.getCore c).stop.isSome then s else (s.modCore c fun k => { k with stop := some r }).settleStops c

/-- A stop request reaches the node of Set `n`: MS and MI stop at their boundaries (R196). -/
def stopSet (s : State) (n : Nat) (r : StopReq) : State :=
  if (s.getSet n).stop.isSome then s
  else
    (List.range 2).foldl (fun t q => if (t.thread (.seq n q)).st = .stopped then t else t.stopThread (.seq n q))
      (s.modSet n fun k => { k with stop := some r })

/-- HGC.STOPPED of every group whose members are all at rest (R402). -/
def markGroups (s : State) : State :=
  (List.range 64).foldl (fun t i =>
    if t.groupAtRest (i / 32) (i % 32) then
      t.modDie (i / 32) fun x => { x with hgc := Tbl.put 0 x.hgc (i % 32) (setField (Tbl.get 0 x.hgc (i % 32)) 2 1 1) }
    else t) s

/-- A stop of group `g` of die `d` through the cut network, with its source: 0 HALT, 1 debug port, 2 command-packet breakpoint,
3 BRK (R403, R404). -/
def stopGroup (s : State) (d g src : Nat) : State :=
  let r : StopReq := { die := d, group := g, source := src }
  let s1 := (List.range 128).foldl (fun t c => if s.inGroup d g (c / 64) (s.coreHgm c) then t.stopCore c r else t) s
  markGroups ((List.range 16).foldl (fun t n => if s.inGroup d g (n / 8) (s.setHgm n) then t.stopSet n r else t) s1)

/-- The groups of which core `c` is a member. -/
def groupsOf (s : State) (c : Nat) : List Nat := (List.range 32).filter fun g => bitAt (s.coreHgm c) g

/-- The doubleword of a stop record for a thread (R404). -/
def stopWord (t : Thread) (hostPc : Word) : Word :=
  let code := fun (x : TState) => match x with
    | .free => 0
    | .run => 1
    | .wait => 2
    | .saved => 3
    | .stopped => 0
    | .off => 5
  let st := if t.st = .stopped then t.held else t.st
  let pc : Nat := match st with
    | .run => t.pc.toNat
    | .wait => t.pc.toNat
    | .saved => hostPc.toNat
    | .free => 0
    | .stopped => 0
    | .off => 0
  ofN (code st * 2 ^ 60 + b2n t.hosted.isSome * 2 ^ 59 + pc % 2 ^ 56)

/-! ### The context area in memory (R396, R397) -/

/-- Writes bytes at virtual addresses of core `c`'s partition, line by line; a line that no longer translates is left. -/
def putVirt (s : State) (c : Nat) (va : Nat) (bs : List Byte) : State :=
  (List.zipIdx (chunks 64 bs.length bs)).foldl (fun t e =>
    match t.translate (.thr c 7) (va + 64 * e.2) e.1.length kindW with
    | .ok acc => (match placeOf acc.loc with
      | .hbm d => ((t.putPlain acc.loc acc.key e.1 acc.rng.uncached).markWrote d).ackAt (c / 64) acc.loc e.1.length
      | _ => t)
    | .error _ => t) s

/-- Reads a doubleword at a virtual address of core `c`'s partition, 0 where it does not translate. -/
def virtWord (s : State) (c va : Nat) : Word :=
  match s.translate (.thr c 7) va 8 kindR with
  | .ok acc => bytesWord (s.plain acc.loc 8 acc.key)
  | .error _ => 0

/-- Some byte of [va, va + n) is poisoned. -/
def virtPoisoned (s : State) (c va n : Nat) : Bool :=
  (List.range ((n + 31) / 32)).any fun i =>
    match s.translate (.thr c 7) (va + 32 * i) (min 32 (n - 32 * i)) kindR with
    | .ok acc => s.poisoned acc.loc (min 32 (n - 32 * i))
    | .error _ => false

/-- The first address of the context area that fails Translate with kind W, and its cause (R396). -/
def areaFault (s : State) (c tid : Nat) : Option (BitVec 8 × Word) :=
  let va := s.saveArea c tid
  (List.range 115).findSome? fun i =>
    let a := va + ofN (128 * i)
    if a.toNat / 2 ^ 56 ≠ 0 then some (Cause.noRange, a)
    else match s.translate (.thr c 7) a.toNat 128 kindW with
      | .error e => some (e, a)
      | .ok _ => none

/-- The 64 bytes of a stream slot in the save area, pattern and position (R86, R397): base, strides and counts as STCFG takes them,
then a word with bound [63], DIR [62], FILE [61], ES [60:59], REG [58:57] and the position [48:0]. The order within the 64 bytes is
the model's own (DESIGN CHOICE, log entry 87). -/
def streamWords (st : Stream) : List Word :=
  let k := fun (i : Nat) => (st.strides[i]?).getD 0
  let c := fun (i : Nat) => (st.counts[i]?).getD 0
  if st.bound then
    [st.base, k 0, k 1, k 2, k 3, ofN (c 1 % 2 ^ 32 * 2 ^ 32 + c 0 % 2 ^ 32), ofN (c 3 % 2 ^ 32 * 2 ^ 32 + c 2 % 2 ^ 32),
     ofN (2 ^ 63 + b2n st.write * 2 ^ 62 + b2n st.vfile * 2 ^ 61 + Nat.log2 st.es % 4 * 2 ^ 59 + st.reg % 4 * 2 ^ 57 + st.pos % 2 ^ 49)]
  else List.replicate 8 0

/-- The stream slot that the save area gives back, with nothing read ahead. -/
def streamOfWords (w : List Word) : Stream :=
  let x := wordAt w 7
  let counts := [field (wordAt w 5) 0 32, field (wordAt w 5) 32 32, field (wordAt w 6) 0 32, field (wordAt w 6) 32 32]
  let st : Stream :=
    { bound := true, write := bitAt x 62, es := 2 ^ field x 59 2, vfile := bitAt x 61, reg := 28 + field x 57 2, base := wordAt w 0
      strides := [wordAt w 1, wordAt w 2, wordAt w 3, wordAt w 4], counts := counts }
  if bitAt x 63 && (st.vfile || decide (2 ≤ field x 59 2)) then { st with pos := min (field x 0 49) (counts.foldl (· * ·) 1) } else {}

/-- The doublewords of the register save area that R397 gives up to the streams, 0 to 631. -/
def regArea (t : Thread) : List Word :=
  let r5 := fun (i : Nat) => BitVec.ofNat 5 i
  let vw := fun (i : Nat) => bytesWords (vBytes (t.getV (r5 i)))
  let pw := fun (i : Nat) => [(t.getP i).extractLsb' 0 64, (t.getP i).extractLsb' 64 64]
  ((List.range 32).map fun i => t.getX (r5 i)) ++ ((List.range 32).map fun i => t.getF (r5 i)) ++
  ((List.range 32).flatMap vw) ++ ((List.range 8).flatMap pw) ++ ((List.range 8).map t.getOx) ++
  (List.range 4).flatMap fun i => streamWords (t.getSs i)

/-- The system registers of the save area, doublewords 0 to 63 of offset 0x13C0 (R397). -/
def sysArea (t : Thread) : List Word :=
  [t.pc, t.fcsr, t.vcsr, t.tcause, t.tval, t.epc, t.utvec, t.utepc, t.actid, t.actst,
   t.msghdr.extractLsb' 0 64, t.msghdr.extractLsb' 64 64, t.loopStart, t.loopLast,
   ofN (b2n t.loopActive * 2 ^ 63 + t.loopReg.toNat), ofN t.gen.toNat, ofN t.wdLeft,
   ofN (t.preg % 16 * 2 ^ 16 + t.prio % 64 * 2 ^ 8 + t.hid % 256), t.deadline,
   ofN (t.outst.foldl (fun m o => m ||| 2 ^ o.rd.toNat) 0)] ++ List.replicate 44 0

/-- The thread's registers as the save area gives them back (R397). -/
def readArea (s : State) (c : Nat) (va : Nat) (t : Thread) : Thread :=
  let w := fun (o : Nat) => s.virtWord c (va + o)
  let r5 := fun (i : Nat) => BitVec.ofNat 5 i
  let sysw := fun (i : Nat) => w (0x13C0 + 8 * i)
  let t1 := (List.range 32).foldl (fun t i => (t.setX (r5 i) (w (8 * i))).setF (r5 i) (w (0x100 + 8 * i))) t
  let t2 := (List.range 32).foldl (fun t i =>
    t.setV (r5 i) (BitVec.ofNat 1024 (leNat (wordsBytes ((List.range 16).map fun j => w (0x200 + 128 * i + 8 * j)))))) t1
  let t3 := (List.range 8).foldl (fun t i =>
    (t.setP i (w (0x1200 + 16 * i + 8) ++ w (0x1200 + 16 * i))).setOx i (w (0x1280 + 8 * i))) t2
  let t4 := (List.range 4).foldl (fun t i => t.setSs i (streamOfWords ((List.range 8).map fun j => w (0x12C0 + 64 * i + 8 * j)))) t3
  let fc := sysw 1
  let rm := if field fc 0 3 ≤ 4 then field fc 0 3 else field t.fcsr 0 3
  { t4 with
    pc := sysw 0, fcsr := (fc &&& 0x1F1F00) ||| ofN rm, vcsr := sysw 2 &&& 0x3F7, tcause := sysw 3 &&& 0xC00000000000FFFF
    tval := sysw 4, epc := sysw 5, utvec := sysw 6, utepc := sysw 7, actid := sysw 8 &&& 0xFE00FFFFFFFFFFFF
    actst := sysw 9 &&& 0x1FFF003F, msghdr := sysw 11 ++ sysw 10, loopStart := sysw 12, loopLast := sysw 13
    loopReg := (sysw 14).extractLsb' 0 5, loopActive := bitAt (sysw 14) 63, gen := (sysw 15).extractLsb' 0 13
    wdLeft := (sysw 16).toNat, hid := field (sysw 17) 0 8, prio := field (sysw 17) 8 6, preg := field (sysw 17) 16 4
    deadline := sysw 18, outst := t.outst.filter fun o => bitAt (sysw 19) o.rd.toNat }

/-! ### Dispositions (R392, R394, R395) -/

/-- A thread held by a trap resumes at EPC (R132, R392); a disposition that waited for this boundary is left to the caller. -/
def resumeHeld (s : State) (c tid : Nat) : State :=
  s.modThread (.thr c tid) fun t =>
    if t.wait.any (fun w => decide (w.kind = .trapHeld)) then
      let st := if t.st = .stopped then TState.stopped else .run
      { t with pc := t.epc, st := st, held := if t.st = .stopped then .run else t.held, wait := none, landing := 0, cellBusy := false }
    else t

/-- The thread is held by a trap of its own. -/
def trapHeld (t : Thread) : Bool := t.wait.any fun w => decide (w.kind = .trapHeld)

/-- The thread waits in RUN for the reply that ends a pass of its loop: its instruction has not completed (R114, R124). -/
def replyHeld (t : Thread) : Bool := t.wait.any fun w => decide (w.kind = .reply)

/-- END, a save or a migration is under way, so that no disposition lands (R27, R44, R410). -/
def pastBoundary (t : Thread) : Bool :=
  t.wait.any fun w => match w.kind with
    | .ending _ => true
    | .saving _ => true
    | _ => false

/-- The save of a context begins (R396): the whole area is checked first, and a failure leaves the thread as it was, resumes it
and raises a KIND 2 item with SUB 5. -/
def startSave (s : State) (c tid : Nat) (parked : Bool) : State :=
  let a : Agent := .thr c tid
  match s.areaFault c tid with
  | some (code, va) =>
    let s1 := if trapHeld (s.thread a) then s.resumeHeld c tid else s
    let t := s1.thread a
    s1.appendItem c code 5 2 (some tid) va 0 t.actid t.actst
  | none =>
    (s.leaveLines a).modThread a fun t =>
      { t with
        pc := if trapHeld t then t.epc else t.pc
        st := .wait, landing := 0, wait := some { kind := .saving parked }
        ss := t.ss.map fun e => (e.1, { e.2 with ahead := [] }) }

/-- An uncorrectable error that the thread has consumed and that is due at its boundary (R395). -/
def dueError (t : Thread) : Option PendTrap := t.pendTrap.find? fun p => decide (p.code = Cause.uncorrectable)

/-- Disposition codes 1 to 4 land on a thread at its boundary; `cause` and `sub` are the item's, for the FAULT message. Where an
uncorrectable error is due at the same boundary, nothing is saved: the error is taken (R395). -/
def landDisposition (s : State) (c tid code : Nat) (cause sub : BitVec 8) (tval epc : Word) : State :=
  if code = 1 ∨ code = 2 then
    match dueError (s.thread (.thr c tid)) with
    | some p => s.retakeOrKill c tid p.code p.sub p.tval epc
    | none => s.startSave c tid (decide (code = 2))
  else if code = 3 then s.retakeOrKill c tid cause sub tval epc
  else s.escalate c tid false true cause sub tval epc

/-- A pre-emption request's disposition lands at a boundary of the thread. A trap that is due there is taken first (R410): the
disposition waits while the trap holds the thread, and lands after the entry of one at user level. -/
def landPreempt (s : State) (c tid code : Nat) (sub : BitVec 8) : State :=
  let a : Agent := .thr c tid
  let t := s.thread a
  let land := fun (s : State) => let t := s.thread a; s.landDisposition c tid code Cause.preempt sub t.actid t.pc
  if s.trapReady a then
    let s1 := s.takePending a
    let t1 := s1.thread a
    if trapHeld t1 || decide (t1.pendTrap = t.pendTrap) then s1.modThread a fun t => { t with landing := code + 8 * sub.toNat }
    else if t1.actid = t.actid ∧ t1.st = .run then land s1
    else s1
  else land s

/-- RESUME of the item of a trap, with a disposition that waited for this boundary landing there. -/
def resumeTrap (s : State) (c tid : Nat) : State :=
  let t := s.thread (.thr c tid)
  let s1 := s.resumeHeld c tid
  if t.landing = 0 then s1
  else s1.landPreempt c tid (t.landing % 8) (BitVec.ofNat 8 (t.landing / 8))

/-- The disposition is one that this thread treats as RESUME: T6, resident activations, and contexts hosted already (R392). -/
def actsAsResume (t : Thread) (tid code : Nat) : Bool :=
  decide (code = 0) || decide (5 ≤ code) ||
  (decide (tid = 6) && decide (code ≠ 4)) ||
  (t.resident && decide (code ≠ 4)) || (t.hosted.isSome && decide (code = 1 ∨ code = 2))

/-- Retake or kill of a hosted context (R392). -/
def endHosted (s : State) (c tid code : Nat) : State :=
  match (s.thread (.thr c tid)).hosted with
  | none => s
  | some h =>
    if code = 3 ∧ !bitAt h.actst 2 ∧ field h.actst 0 2 < 2 then
      let s1 := ((s.countCore c 0x13).accountEnd c tid (s.hostedThread h) 2).modCore c fun k =>
        { k with inbox := k.inbox.map fun m =>
            if some m.slot = h.slot then
              { m with taken := false, retake := some (h.actid, field h.actst 0 2 + 1), readySince := s.timebase,
                       missCounted := h.missCounted }
            else m }
      (s1.unhost c tid).modThread (.thr c tid) fun t => { t with gen := t.gen + 1 }
    else
      let w := s.saveArea c tid + 0x1180 + 0x13C0
      let tc := s.virtWord c (w + 24).toNat
      s.dropHosted c tid false true (tc.extractLsb' 0 8) (tc.extractLsb' 8 8) (s.virtWord c (w + 32).toNat)

/-- The disposition of an item lands on the thread it serves (R392, R395, R398). -/
def disposeThread (s : State) (c : Nat) (it : Item) (tid code : Nat) : State :=
  let a : Agent := .thr c tid
  let t := s.thread a
  let sub := it.word.extractLsb' 48 8
  if it.kind = 4 then
    if code = 3 ∨ code = 4 then s.endHosted c tid code
    else s.modThread a fun t => { t with restoring := t.hosted.isSome && t.resuming, resuming := false }
  else if it.kind = 3 then
    let live := decide (t.actid = it.act) && (decide (t.st = .run) || decide (t.st = .wait))
    if !live || actsAsResume t tid code || pastBoundary t then s
    else if trapHeld t || replyHeld t then s.modThread a fun t => { t with landing := code + 8 * sub.toNat }
    else s.landPreempt c tid code sub
  else if !trapHeld t then s
  else if actsAsResume t tid code then s.resumeTrap c tid
  else s.landDisposition c tid code (it.word.extractLsb' 56 8) sub t.tval t.epc

/-- UNPARK: the parked context hosted by a thread becomes resumable. -/
def unpark (s : State) (c tid : Nat) : State :=
  s.modThread (.thr c tid) fun t => { t with hosted := t.hosted.map fun h => { h with parked := false } }

/-- The disposition word of an item: doubleword 1 of its slot; a KIND 7 item has no slot (R392). -/
def dispositionWord (s : State) (c : Nat) (it : Item) : Word :=
  if it.kind = 7 then 0 else s.ulmWord c (s.serviceSlot c it.slot + 8)

/-- The item serves the thread its word names (R391). -/
def itemServes (it : Item) : Option Nat := if it.kind = 0 ∨ it.kind = 3 ∨ it.kind = 4 then it.thr else none

/-! ### T7's items (R391) -/

/-- T7 of core `c` takes its next item at the service entry, when it is FREE and one waits (R132, R391). -/
def startItem (s : State) (c : Nat) : State :=
  let k := s.getCore c
  match k.t7q with
  | [] => s
  | it :: rest =>
    if (s.thread (.thr c 7)).st ≠ .free ∨ k.t7cur.isSome ∨ k.resetting then s
    else
      let slot := if it.kind = 7 then 0 else ofN (s.serviceSlot c it.slot)
      let s1 := s.modCore c fun k => { k with t7q := rest, t7cur := some it }
      s1.modThread (.thr c 7) fun t =>
        let t1 := (t.setX 4 slot).setX 5 it.word
        { t1 with
          pc := ofN (field (s.block c 0x1000) 0 20), st := .run, fbuf := none, fbufStale := false, fetchEpoch := k.epoch
          tval := if it.kind = 1 then slot else t1.tval
          pendTrap := t1.pendTrap ++ (if it.bad then [{ code := Cause.uncorrectable, sub := 3, tval := slot }] else []) }

/-- What an engine item served resumes: a suspended copy, or the suspended load of a Set (R184, R257). -/
def resumeRef (s : State) (r : ItemRef) : State :=
  match r with
  | .nothing => s
  | .copy h => s.resumeCopy h
  | .load n => s.modSet n fun k => { k with loadQ := k.loadQ.map fun e => { e with suspended := false } }

/-- T7's item ends: its slot is free again, its disposition lands, and T7 takes its next item or becomes FREE (R132, R392). A rank
pre-emption request that ends with RESUME is not raised again for 1 µs (R394). -/
def endItem (s : State) (c : Nat) : State :=
  let free := fun (s : State) =>
    ((s.modCore c fun k => { k with t7cur := none }).admitItems c).modThread (.thr c 7) fun t => { t with st := .free, wait := none }
  match (s.getCore c).t7cur with
  | none => (free s).startItem c
  | some it =>
    let w := s.dispositionWord c it
    let code := field w 0 3
    let s1 := free s
    let s2 := if code = 5 then s1.unpark c (field w 8 3) else s1
    let s3 := match itemServes it with
      | some tid => s2.disposeThread c it tid code
      | none => s2
    let s4 := if it.kind = 3 ∧ field it.word 48 8 = 1 then
        s3.modCore c fun k => { k with preemptOut := false, preemptFrom := s.timebase + (if code = 0 ∨ 5 ≤ code then 1000 else 0) }
      else s3
    (s4.resumeRef it.ref).startItem c

/-- The thread whose TCAUSE, TVAL and EPC an agent's MFS and MTS reach: the one that T7's item serves (R132). -/
def trapAgent (s : State) : Agent :=
  match s.cur with
  | .thr c 7 =>
    match (s.getCore c).t7cur.bind itemServes with
    | some t => .thr c t
    | none => s.cur
  | a => a

/-! ### Scans (R136, R401) -/

/-- CKSTAT after a scan: 1 PASS, 2 FAIL, 3 ABORTED. -/
def scanStat (w : Word) (result : Nat) : Word :=
  let w1 := setField w 18 2 result
  if result = 1 then setField (setField (setField (setField w1 17 1 1) 16 1 0) 20 1 0) 0 2 0
  else if result = 2 then setField w1 20 1 1
  else w1

/-- A scan of core `c` ends with a result: 1 PASS, 2 FAIL, 3 ABORTED; SCANRUN then completes with 0, 1 or 2, and the scan
control reads the outcome. -/
def endScan (s : State) (c result : Nat) : State :=
  match (s.getCore c).scan with
  | none => s
  | some sc =>
    let s1 := s.modCore c fun k =>
      { k with
        scan := none, ckstat := scanStat k.ckstat result
        scanCtl := if sc.rd.isNone then setField (setField k.scanCtl 63 1 0) 1 2 result else k.scanCtl }
    match sc.rd with
    | none => s1
    | some d =>
      (s1.countEvent c 7 0x02).modThread (.thr c 7) fun t =>
        if t.wait.any (fun w => decide (w.kind = .scan)) then
          let st := if t.st = .stopped then TState.stopped else TState.run
          (({ t with wait := none, st := st, held := if t.st = .stopped then TState.run else t.held } : Thread).setX d
            (ofN (result - 1))).next 4
        else t

/-! ### Waits -/

/-- The executing agent's blocking instruction waits (R19). -/
def blockOn (s : State) (w : Wait) : Out := .next (s.modMe fun t => { t with st := .wait, wait := some w })

/-- A blocking instruction of a thread retires (R382). -/
def retired (s : State) (a : Agent) : State := if a.isThr then s.countEvent a.coreNo a.tid 0x02 else s

/-- A waiting agent's blocking instruction completes: `f` writes its result, control goes on after it. A stopped thread keeps
its stop. -/
def wake (s : State) (a : Agent) (f : Thread → Thread) : State :=
  (s.retired a).modThread a fun t =>
    let len := match t.wait with
      | some w => w.len
      | none => 4
    let t1 := (f { t with wait := none }).next len
    if t.st = .stopped then { t1 with held := .run } else { t1 with st := .run }

/-- The same for an operation that has now asked for a reply, which waited in RUN. -/
def wakeAsk (s : State) (a : Agent) : State :=
  (s.retired a).modThread a fun t =>
    ({ t with wait := none } : Thread).nextAsk (match t.wait with
      | some w => w.len
      | none => 4)

end State

end Sys2Proof.Machine
end

