-- ==== Sys2Proof/Machine/Matrix.lean ====
section
/-! DEFINITION. The matrix engine: operand elements and the accumulation of R107 (R176 to R180), the Weight Buffer loader
(R181 to R184), the engine queue (R185 to R192), and the semaphores (R174). -/

namespace Sys2Proof.Machine

/-! ### Operand elements (R177 to R180) -/

/-- The floating-point format of an operand format code (R176). -/
def mxFmt (f : Nat) : Option Fmt :=
  match f with
  | 1 => some fpE4m3
  | 2 => some fpE5m2
  | 3 => some bf16
  | 4 => some fp16
  | _ => none

/-- Bytes of an element of an unpacked format. -/
def mxSize (f : Nat) : Nat := if f = 3 ∨ f = 4 then 2 else 1

/-- Depth limit of the path of two formats (R177). -/
def mxDepth (af bf : Nat) : Nat :=
  if mxSize af = 2 ∨ mxSize bf = 2 then 128 else if bf = 5 ∨ bf = 6 then 256 else 128

/-- The value of a code of an unpacked format (R178). -/
def mxPlain (f v : Nat) : Num :=
  match mxFmt f with
  | some g => g.decode v
  | none => Num.ofInt (sxN 8 v)

/-- Element `i` of a Q4 block (R178). -/
def mxQ4 (fp : Bool) (block : List Byte) (i : Nat) : Num × FFlags :=
  let sc := ((block[16]?).getD 0).toNat
  if sc % 64 = 63 then (if fp then .nan false else Num.ofInt 0, Flag.blkinv)
  else
    let v := q4Value sc (q4Code block i)
    if fp then (v, 0)
    else
      let r := convInt 0 (-128) 127 v
      (Num.ofInt r.1, flagIf r.2.2 Flag.satf)

/-- Weight `i` of a ternary byte (R178). -/
def mxTern (b i : Nat) : Num × FFlags := if 242 < b then (Num.ofInt 0, Flag.ternbad) else (Num.ofInt (ternT b i), 0)

/-- Byte `i` of a list, 0 beyond it. -/
def natAt (l : List Byte) (i : Nat) : Nat := ((l[i]?).getD 0).toNat

/-- Element `i` of packed bytes of an unpacked format. -/
def mxAt (f : Nat) (l : List Byte) (i : Nat) : Num :=
  mxPlain f (if mxSize f = 2 then natAt l (2 * i) + 256 * natAt l (2 * i + 1) else natAt l i)

/-- Element `h` of an operand row of A (R178). -/
def rowElem (f : Nat) (fp : Bool) (row : List Byte) (h : Nat) : Num × FFlags :=
  if f = 5 then mxQ4 fp ((row.drop (17 * (h / 32))).take 17) (h % 32) else (mxAt f row h, 0)

/-- Fields of the B load descriptor and of a slot's header (R180). -/
def wbK (d : Word) : Nat := field d 0 9
def wbN (d : Word) : Nat := field d 9 9
def wbF (d : Word) : Nat := field d 18 3
def wbEs (d : Word) : Bool := bitAt d 21
def wbBs (d : Word) : Bool := bitAt d 22

/-- Block `b` of a column is kept. -/
def blockKept (d : Word) (bm b : Nat) : Bool := !wbBs d || bm.testBit b

/-- Number of kept blocks of a column below block `b`. -/
def blocksBelow (d : Word) (bm b : Nat) : Nat := ((List.range b).filter (blockKept d bm)).length

/-- Position `h` of a column is kept. -/
def posKept (d : Word) (bm : Nat) (em : PReg) (h : Nat) : Bool := blockKept d bm (h / 32) && (!wbEs d || bitAt em h)

/-- Bytes of a stored column (R180). -/
def colBytes (d : Word) (bm : Nat) : Nat :=
  let k := wbK d
  if wbF d = 5 then 17 * blocksBelow d bm ((k + 31) / 32)
  else
    let plain := ((List.range k).filter fun h => blockKept d bm (h / 32)).length
    if wbF d = 6 then (plain + 4) / 5
    else if wbEs d then mxSize (wbF d) * (4 * ((List.range ((k + 7) / 8)).filter fun g => blockKept d bm (g / 4)).length)
    else mxSize (wbF d) * plain

/-- Element (h, j) of a slot (R179); a column that no load has written since the slot was cleared is zero (R181). -/
def WbSlot.elem (w : WbSlot) (fp : Bool) (h j : Nat) : Num × FFlags :=
  let d := w.hdr
  let bm := Tbl.get 0 w.bmask j
  let em := Tbl.get 0 w.emask j
  let col := Tbl.get [] w.cols j
  if wbK d ≤ h ∨ wbN d ≤ j ∨ posKept d bm em h = false ∨ col.isEmpty = true then (Num.ofInt 0, 0)
  else
    let before := blocksBelow d bm (h / 32)
    if wbF d = 5 then mxQ4 fp ((col.drop (17 * before)).take 17) (h % 32)
    else
      let i := if wbEs d then 16 * before + 4 * (h / 8 % 4) + popNat (h % 8) (field em (8 * (h / 8)) 8) else 32 * before + h % 32
      if wbF d = 6 then mxTern (natAt col (i / 5)) (i % 5) else (mxAt (wbF d) col i, 0)

/-! ### Accumulation (R107) -/

/-- The exact sum of products of a group, with the flags of the decoding. -/
def groupSum (l : List ((Num × FFlags) × (Num × FFlags))) : Num × FFlags :=
  l.foldl (fun r p => ((addNum 0 r.1 (mulNum p.1.1 p.2.1).1).1, r.2 ||| p.1.2 ||| p.2.2)) (Num.ofInt 0, 0)

/-- The integer that a number of integer products is. -/
def Num.toInt : Num → Int
  | .nan _ => 0
  | .inf _ => 0
  | .real n m e _ => (if n then -(m : Int) else m) * 2 ^ e.toNat

/-- One group's sum enters an accumulator entry. -/
def accGroup (fp : Bool) (acc : BitVec 36) (s : Num) : BitVec 36 × FFlags :=
  if fp then
    let g := roundFP fp36 0 false s
    let r := fp36.add 0 acc.toNat g.1
    (BitVec.ofNat 36 r.1, flagIf s.isNan Flag.nv ||| g.2 ||| r.2)
  else
    let r := satInt (-(2 ^ 35 - 1)) (2 ^ 35 - 1) (acc.toInt + s.toInt)
    (BitVec.ofInt 36 r.1, r.2)

/-- Fields of MXC (R176). -/
def mxM (c : Word) : Nat := field c 0 9
def mxK (c : Word) : Nat := field c 9 9
def mxN (c : Word) : Nat := field c 18 9
def mxAf (c : Word) : Nat := field c 27 3
def mxMode (c : Word) : Bool := bitAt c 30
def mxBf (c : Word) : Nat := field c 32 3

/-- The accumulation of one tile entry over K (R107). -/
def accEntry (cfg : Word) (af : Nat) (row : List Byte) (w : WbSlot) (j : Nat) (acc : BitVec 36) : BitVec 36 × FFlags :=
  let fp := mxMode cfg
  let k := mxK cfg
  (List.range ((k + 31) / 32)).foldl (fun r g =>
    let s := groupSum ((List.range (min 32 (k - 32 * g))).map fun i =>
      (rowElem af fp row (32 * g + i), w.elem fp (32 * g + i) j))
    let q := accGroup fp r.1 s.1
    (q.1, r.2 ||| s.2 ||| q.2)) (acc, 0)

/-- The A operand of an MXMUL: rows that take part, format, rows and tags, and whether a row is struck by an error. -/
structure ASource where
  m : Nat
  fmt : Nat
  rows : List (Nat × List Byte) := []
  tags : List (Nat × Word) := []
  bad : List Nat := []

/-- ORs bits into the flag word of a tile (R197). -/
def SetSt.flagTile (k : SetSt) (t : Nat) (w : Word) : SetSt := { k with tfw := Tbl.put 0 k.tfw t (Tbl.get 0 k.tfw t ||| w) }

/-- Writes a tag of a tile. -/
def SetSt.putTag (k : SetSt) (t i : Nat) (w : Word) : SetSt :=
  { k with tags := Tbl.put 0 k.tags (256 * t + i) w, tagPoison := k.tagPoison.filter fun x => !decide (x = 256 * t + i) }

/-- One entry of a product. -/
def SetSt.mulEntry (cfg : Word) (t : Nat) (a : ASource) (w : WbSlot) (i : Nat) (k : SetSt) (j : Nat) : SetSt :=
  let e := 65536 * t + 256 * i + j
  let row := if a.bad.contains i then [] else Tbl.get [] a.rows i
  let r := accEntry cfg a.fmt row w j (Tbl.get 0 k.tiles e)
  let k1 : SetSt := { k with tiles := Tbl.put 0 k.tiles e r.1 }
  k1.flagTile t (zext64 r.2)

/-- One row of a product. -/
def SetSt.mulRow (cfg : Word) (t : Nat) (tags : Bool) (a : ASource) (w : WbSlot) (k : SetSt) (i : Nat) : SetSt :=
  let k1 := if tags then k.putTag t i (Tbl.get 0 a.tags i) else k
  let k2 := if a.bad.contains i then k1.flagTile t 0x2000 else k1
  (List.range (mxN cfg)).foldl (SetSt.mulEntry cfg t a w i) k2

/-- MXMUL of R189 once its barrier is met: slot `wb`, stage `st` or the Montage tile `tile`. -/
def SetSt.multiply (k : SetSt) (t wb : Nat) (cfg op6 : Word) (tile : Option ASource) (flags : Word) : SetSt :=
  let w := Tbl.get {} k.wb wb
  let g := Tbl.get {} k.stages (field op6 14 2)
  let a : ASource := match tile with
    | some a => a
    | none => { m := mxM cfg, fmt := field g.hdr 9 3, rows := g.rows, tags := g.tags }
  let wst := field w.hdr 62 2
  let empty := decide (wst = 0)
  let uce := decide (wst = 3) || (tile.isNone && decide (field g.hdr 62 2 = 3))
  let fmtx := decide (wbF w.hdr ≠ mxBf cfg) || decide (a.fmt ≠ mxAf cfg)
  let fl := flags ||| ofN (b2n empty * 2 ^ 14 + b2n uce * 2 ^ 13 + b2n fmtx * 2 ^ 15)
  let m := if empty || uce || fmtx || decide (flags ≠ 0) then 0 else min (mxM cfg) a.m
  (List.range m).foldl (SetSt.mulRow cfg t (bitAt op6 12) a w) (k.flagTile t fl)

/-- MXZERO of tile `t` (R187): every entry, tag and flag. -/
def SetSt.zeroTile (k : SetSt) (t : Nat) : SetSt :=
  { k with
    tiles := k.tiles.filter fun e => !decide (e.1 / 65536 = t)
    tags := k.tags.filter fun e => !decide (e.1 / 256 = t)
    tilePoison := k.tilePoison.filter fun e => !decide (e / 65536 = t)
    tagPoison := k.tagPoison.filter fun e => !decide (e / 256 = t)
    tfw := Tbl.put 0 k.tfw t 0 }

/-- Row `i` of tile `t` and its tag become zero (R191). -/
def SetSt.clearRow (k : SetSt) (t i : Nat) : SetSt :=
  { k with
    tiles := k.tiles.filter fun e => !decide (e.1 / 256 = 256 * t + i)
    tags := Tbl.put 0 k.tags (256 * t + i) 0
    tilePoison := k.tilePoison.filter fun e => !decide (e / 256 = 256 * t + i)
    tagPoison := k.tagPoison.filter fun e => !decide (e = 256 * t + i) }

/-! ### Reading out (R191) -/

/-- Size of an element of an output format. -/
def outSize (f : Nat) : Nat :=
  match f with
  | 0 => 1
  | 1 => 2
  | 2 => 4
  | 3 => 1
  | 4 => 1
  | 5 => 2
  | 6 => 2
  | 7 => 4
  | _ => 8

/-- Conv of R191: the bytes of an entry as read out, and the flags. -/
def convOut (mode : Bool) (f rm : Nat) (satm : Bool) (v : BitVec 36) : List Byte × FFlags :=
  let num := if mode then fp36.decode v.toNat else Num.ofInt v.toInt
  let toInt := fun (w : Nat) =>
    if mode then
      let r := convInt rm (intLo true w) (intHi true w) num
      (leBytes (w / 8) (wrapN w r.1), r.2.1)
    else
      let r := satInt (intLo true w) (intHi true w) v.toInt
      (leBytes (w / 8) (wrapN w r.1), r.2)
  let toFp := fun (g : Fmt) =>
    let r := roundFP g rm satm num
    (leBytes (g.width / 8) r.1, num.snan ||| r.2)
  match f with
  | 0 => toInt 8
  | 1 => toInt 16
  | 2 => toInt 32
  | 3 => toFp fpE4m3
  | 4 => toFp fpE5m2
  | 5 => toFp bf16
  | 6 => toFp fp16
  | 7 => toFp fp32
  | _ => (wordBytes (if mode then v.setWidth 64 else v.signExtend 64), 0)

/-- The bytes of row `i` as MXRD writes them, with the flags of the conversions. A poisoned entry reads as the canonical NaN or
0, and a poisoned tag as the free value `bad` (R195, DEDUCED, log entry 20). -/
def SetSt.outRow (k : SetSt) (t i : Nat) (op5 : Word) (rm : Nat) (satm : Bool) (bad : Word) : List Byte × FFlags :=
  let mode := bitAt op5 38
  let tag := if bitAt op5 39 then
      wordBytes (if k.tagPoison.contains (256 * t + i) then bad else Tbl.get 0 k.tags (256 * t + i))
    else []
  (List.range (field op5 18 9)).foldl (fun r j =>
    let e := 65536 * t + 256 * i + j
    let v := if k.tilePoison.contains e then (if mode then BitVec.ofNat 36 fp36.qnan else 0) else Tbl.get 0 k.tiles e
    let c := convOut mode (field op5 27 4) rm satm v
    (r.1 ++ c.1, r.2 ||| c.2)) (tag, 0)

/-- MXRD reads a poisoned entry or tag of row `i`. -/
def SetSt.outBad (k : SetSt) (t i : Nat) (op5 : Word) : Bool :=
  (bitAt op5 39 && k.tagPoison.contains (256 * t + i)) ||
  k.tilePoison.any fun e => decide (e / 256 = 256 * t + i) && decide (e % 256 < field op5 18 9)

namespace State

/-! ### Semaphores (R174) -/

/-- Semaphore `i` of Set `n`. -/
def sem (s : State) (n i : Nat) : BitVec 16 := Tbl.get 0 (s.getSet n).sem i

/-- SEMPOST: adds, saturating. -/
def semPost (s : State) (n i c : Nat) : State :=
  s.modSet n fun k => { k with sem := Tbl.put 0 k.sem i (BitVec.ofNat 16 (min ((Tbl.get 0 k.sem i).toNat + c) 0xFFFF)) }

/-- The first waiter in the line of semaphore `i`, with its count. -/
def semFirst (s : State) (n i : Nat) : Option (Nat × Option Nat × Nat) := (s.getSet n).semLine.find? fun e => decide (e.1 = i)

/-- The waiter is first in its line and the semaphore holds its count. -/
def semGrant (s : State) (n i : Nat) (who : Option Nat) : Option Nat :=
  match s.semFirst n i with
  | some (_, w, c) => if w = who ∧ c ≤ (s.sem n i).toNat then some c else none
  | none => none

/-- A grant: the count is taken and the waiter leaves the line. -/
def semTake (s : State) (n i : Nat) (who : Option Nat) (c : Nat) : State :=
  s.modSet n fun k =>
    { k with
      sem := Tbl.put 0 k.sem i (Tbl.get 0 k.sem i - BitVec.ofNat 16 c)
      semLine := k.semLine.filter fun e => !decide (e.1 = i ∧ e.2.1 = who) }

/-! ### The engine queue -/

/-- The head of the engine queue: its oldest entry that has not begun to stream (R185). -/
def engHead (s : State) (n : Nat) : Option EngEntry := (s.getSet n).engQ.find? fun e => !e.streaming

/-- Changes the engine queue entry with a serial. -/
def modEng (s : State) (n ser : Nat) (f : EngEntry → EngEntry) : State :=
  s.modSet n fun k => { k with engQ := k.engQ.map fun e => if e.serial = ser then f e else e }

/-- The barrier word of an entry: BK and SEMI of its ox6; 0 for entries without one. -/
def engBk (e : EngEntry) : Nat × Nat :=
  match e.op with
  | .mul _ _ _ op6 _ => (field op6 16 2, field op6 18 4)
  | .zero _ => (0, 0)
  | .rd _ _ _ _ _ _ _ => (0, 0)

/-- The barrier of an entry that has become the head takes its place in the line of its semaphore (R174, R189). -/
def settleHead (s : State) (n : Nat) : State :=
  match s.engHead n with
  | none => s
  | some e =>
    if (engBk e).1 = 2 ∧ !e.inLine then
      (s.modEng n e.serial fun e => { e with inLine := true }).modSet n fun k =>
        { k with semLine := k.semLine ++ [((engBk e).2, none, 1)] }
    else s

/-- An entry enters the engine queue of Set `n`. -/
def engPush (s : State) (n : Nat) (op : EngOp) : State :=
  (s.modSet n fun k => { k with serial := k.serial + 1, engQ := k.engQ ++ [{ serial := k.serial, op := op }] }).settleHead n

/-- An entry enters the load queue of Set `n`. -/
def loadPush (s : State) (n : Nat) (e : LoadEntry) : State :=
  s.modSet n fun k => { k with serial := k.serial + 1, loadQ := k.loadQ ++ [{ e with serial := k.serial }] }

/-- The place of the reel header that ox7 names. -/
def mxReel (s : State) (n : Nat) (op7 : Word) : Option Nat := s.reelPlace n (ofN (field op7 0 24))

/-- A load that was accepted earlier and that writes slot `wb` or stage `st` is not complete (R184). -/
def loadPending (s : State) (n ser : Nat) (t : LoadTarget) : Bool :=
  (s.getSet n).loadQ.any fun e => decide (e.serial < ser) && decide (e.target = t)

/-- The barrier and the slot and stage rule of R184 and R189 let an MXMUL start. The grant of BK = 2 is taken with the start, once the
slot and stage rule is met too (DESIGN CHOICE, log entry 109). -/
def mulMet (s : State) (n : Nat) (e : EngEntry) (wb : Nat) (op6 op7 : Word) : Bool :=
  !s.loadPending n e.serial (.wb wb) && (bitAt op6 13 || !s.loadPending n e.serial (.stage (field op6 14 2))) &&
  match field op6 16 2 with
  | 0 => true
  | 1 => (match s.mxReel n op7 with
    | some h =>
      s.reelValid h && decide (s.reelPos h (field op6 22 10) < min (s.reelN h) 128) &&
      bitAt (s.reelFill h) (s.reelPos h (field op6 22 10))
    | none => false)
  | _ => (s.semGrant n (field op6 18 4) none).isSome

/-- The Montage tile that the descriptor in a reel slot names (R189, R299): its buffer and operand, and the flags it raises. A
poisoned descriptor is read as M = 0 and sets UCE. -/
def mxTile (s : State) (n : Nat) (op6 op7 : Word) : Option Nat × ASource × Word :=
  match s.mxReel n op7 with
  | none => (none, { m := 0, fmt := 0 }, 0)
  | some h =>
    let l := memBase h + s.reelSlot h (field op6 22 10)
    let w := bytesWord (s.readSlot h (field op6 22 10) 8)
    let b := s.tileBuf n (field w 28 5)
    let m := field w 0 9
    if s.poisoned l 32 then (none, { m := 0, fmt := field w 18 3 }, 0x2000)
    else if m = 0 then (none, { m := 0, fmt := field w 18 3 }, 0)
    else if !b.sealed then (none, { m := 0, fmt := field w 18 3 }, 0x8000)
    else (some (field w 28 5), { m := m, fmt := field w 18 3, rows := b.rows, tags := b.tags, bad := b.poisoned }, 0)

/-- The interval of ULM that an MXRD writes, with its core; none for MI's local memory. -/
def rdInterval (base : Nat) (op5 op4 addr : Word) : Option (Nat × Nat × Nat) :=
  (locCore base).map fun c => (c, addr.toNat, field op5 0 9 * field op4 0 20)

/-- The scoreboard entry of an MXRD is registered, or can be now (R209). -/
def rdRoom (s : State) (n : Nat) (e : EngEntry) : Bool :=
  match e.op with
  | .rd _ base op5 op4 addr _ _ =>
    (match rdInterval base op5 op4 addr with
    | some (c, _, _) =>
      (s.getCore c).sb.any (fun x => decide (x.owner = .mxrd n e.serial)) || decide ((s.getCore c).sb.length < 256)
    | none => true)
  | .zero _ => true
  | .mul _ _ _ _ _ => true

/-- Registers the interval of an MXRD in the scoreboard, when there is room and it is not there yet (R194, R209). -/
def rdRegister (s : State) (n ser base : Nat) (op5 op4 addr : Word) : State :=
  match rdInterval base op5 op4 addr with
  | some (c, a, len) =>
    if (s.getCore c).sb.any (fun x => decide (x.owner = .mxrd n ser)) ∨ 256 ≤ (s.getCore c).sb.length then s
    else s.addSb c (sbEntry a len true (.mxrd n ser))
  | none => s

/-- One row of an MXRD: written, and cleared with CLR. -/
def rdRow (n t base : Nat) (op5 op4 addr : Word) (rm : Nat) (satm : Bool) (r : State × FFlags) (x : Nat) : State × FFlags :=
  let s := r.1
  let i := field op5 9 9 + x
  let o := (s.getSet n).outRow t i op5 rm satm (Config.freeWord s.freeCtr (256 * t + i))
  let bad := (s.getSet n).outBad t i op5
  let s1 := s.putBytes (base + addr.toNat + x * field op4 0 20) o.1
  (s1.modSet n fun k =>
    let k1 : SetSt := { k with mxUce := k.mxUce || bad }
    if bitAt op5 40 then k1.clearRow t i else k1, r.2 ||| o.2)

/-- The head of the engine queue starts (R189 to R191): its whole effect on tiles and memory. -/
def engStart (s : State) (n : Nat) (e : EngEntry) : State :=
  let go := fun (s : State) (buf : Option Nat) (fl : FFlags) =>
    (s.modEng n e.serial fun e => { e with streaming := true, inLine := false, buf := buf, flags := fl }).settleHead n
  match e.op with
  | .zero t => go (s.modSet n fun k => k.zeroTile t) none 0
  | .mul t wb cfg op6 op7 =>
    let s1 := if field op6 16 2 = 2 then s.semTake n (field op6 18 4) none 1 else s
    if bitAt op6 13 then
      let x := s1.mxTile n op6 op7
      go (s1.modSet n fun k => k.multiply t wb cfg op6 (some x.2.1) x.2.2) x.1 0
    else go (s1.modSet n fun k => k.multiply t wb cfg op6 none 0) none 0
  | .rd t base op5 op4 addr rm satm =>
    let s1 := s.rdRegister n e.serial base op5 op4 addr
    let r := (List.range (field op5 0 9)).foldl (rdRow n t base op5 op4 addr rm satm) (s1, 0)
    let fl := r.2 ||| (Tbl.get 0 (r.1.getSet n).tfw t).setWidth 8
    go (r.1.modSet n fun k => { k with tfw := Tbl.put 0 k.tfw t 0 }) none fl

/-- Sticky flags raised on an agent other than the executing one (R85, R191). -/
def raiseOn (s : State) (a : Agent) (fl : FFlags) : State := { ({ s with cur := a } : State).raiseFlags fl with cur := s.cur }

/-- The completion post of an entry: the semaphore, if it posts. -/
def engPost (e : EngEntry) : Option Nat :=
  match e.op with
  | .mul _ _ _ op6 _ => if bitAt op6 7 then some (field op6 8 4) else none
  | .rd _ _ op5 _ _ _ _ => if bitAt op5 45 then some (field op5 41 4) else none
  | .zero _ => none

/-- The completion of the oldest entry (R190, R191, R194): its flags reach MI, its scoreboard entry and tile buffer are let go,
and its post is made. -/
def engComplete (s : State) (n : Nat) (e : EngEntry) : State :=
  let s1 := s.modSet n fun k => { k with engQ := k.engQ.filter fun x => !decide (x.serial = e.serial) }
  let s2 := (s1.retireSb (.mxrd n e.serial)).raiseOn (.seq n 1) e.flags
  let s3 := match e.buf with
    | some b => if (s2.tileBuf n b).released ∧ !s2.bufRead n b then s2.setTileBuf n b {} else s2
    | none => s2
  match engPost e with
  | some i => s3.semPost n i 1
  | none => s3

/-! ### The loader (R181 to R184) -/

/-- The interval [va, va + n) of a load's source passes the checks of R120 and MemLoad on each byte, without residency. -/
def loadCheck (s : State) (a : Agent) (va : Word) (n : Nat) : Res Unit :=
  if n = 0 then .ok ()
  else if va.toNat < a.window then
    if va.toNat + n ≤ a.window then .ok () else trapR Cause.noRange (ofN a.window)
  else if va.toNat < 0x100000 then trapR Cause.noRange va
  else do
    let _ ← s.rangeSegs a kindR 0 va.toNat n (s.segFuel a)
    .ok ()

/-- All source intervals of a load, in their order. -/
def loadChecks (s : State) (a : Agent) : List (Word × Nat) → Res Unit
  | [] => .ok ()
  | p :: t => do
    s.loadCheck a p.1 p.2
    s.loadChecks a t

/-- The source intervals of a load: its columns or rows, then its tags. -/
def loadSpans (e : LoadEntry) : List (Word × Nat) :=
  e.parts.map (fun p => (p.2.1, p.2.2.1)) ++
  (match e.target with
  | .stage _ => if e.tagAddr = 0 then [] else (List.range (field e.desc 0 9)).map fun i => (e.tagAddr + ofN (8 * i), 8)
  | .wb _ => [])

/-- A source byte of a load of Set `n`: its value, or the cause that meets it (R184). -/
def loadByte (s : State) (n va : Nat) : Except (BitVec 8) Byte :=
  if va < 0x20000 then
    if s.poisoned (seqLoc n 0 va) 1 then .error Cause.uncorrectable else .ok (Memory.read s.mem (seqLoc n 0 va))
  else if va < 0x100000 ∨ 2 ^ 56 ≤ va then .error Cause.noRange
  else
    match s.translate (.seq n 0) va 1 kindR true with
    | .error c => .error c
    | .ok acc =>
      match placeOf acc.loc with
      | .mmio => .error Cause.permission
      | .none => .error Cause.permission
      | .host => .ok (Config.freeHostByte s.freeCtr (acc.loc - 0x800000000000))
      | .ulm => .error Cause.permission
      | .hbm _ => if s.poisoned acc.loc 1 then .error Cause.uncorrectable else .ok (((s.plain acc.loc 1 acc.key)[0]?).getD 0)

/-- The first byte of the intervals that meets a cause, in order. -/
def loadStop (s : State) (n : Nat) (l : List (Word × Nat)) : Option (BitVec 8 × Word) :=
  l.findSome? fun p => (List.range p.2).findSome? fun i =>
    match s.loadByte n (p.1.toNat + i) with
    | .error c => some (c, p.1 + ofN i)
    | .ok _ => none

/-- The bytes of an interval that meets no cause. -/
def loadSpan (s : State) (n : Nat) (va : Word) (len : Nat) : List Byte :=
  (List.range len).map fun i => match s.loadByte n (va.toNat + i) with
    | .ok b => b
    | .error _ => 0

/-- The header of a load's target in a state: 0 EMPTY, 1 LOADING, 2 READY, 3 POISON (R180, R183). -/
def setLoadState (s : State) (n : Nat) (t : LoadTarget) (st : Nat) : State :=
  s.modSet n fun k => match t with
    | .wb i => let w := Tbl.get {} k.wb i; { k with wb := Tbl.put {} k.wb i { w with hdr := setField w.hdr 62 2 st } }
    | .stage i => let w := Tbl.get {} k.stages i; { k with stages := Tbl.put {} k.stages i { w with hdr := setField w.hdr 62 2 st } }

/-- A load starts: its target becomes LOADING, and a fresh one takes its descriptor and loses its contents (R181, R184). -/
def loadStart (s : State) (n : Nat) (e : LoadEntry) : State :=
  let s1 := s.modSet n fun k =>
    { k with
      loadQ := k.loadQ.map fun x => if x.serial = e.serial then { x with started := true } else x
      wb := match e.target with
        | .wb i => if e.fresh then Tbl.put {} k.wb i { hdr := ofN (field e.desc 0 23) } else k.wb
        | .stage _ => k.wb
      stages := match e.target with
        | .stage i => Tbl.put {} k.stages i { hdr := ofN (field e.desc 0 26) }
        | .wb _ => k.stages }
  s1.setLoadState n e.target 1

/-- A load leaves its queue, and makes its post (R180, R183, R184). -/
def loadEnd (s : State) (n : Nat) (e : LoadEntry) : State :=
  let s1 := s.modSet n fun k => { k with loadQ := k.loadQ.filter fun x => !decide (x.serial = e.serial) }
  match e.target with
  | .wb _ => if bitAt e.desc 27 then s1.semPost n (field e.desc 23 4) 1 else s1
  | .stage _ => if bitAt e.desc 16 then s1.semPost n (field e.desc 12 4) 1 else s1

/-- A load writes one column, or one row. -/
def loadPart (n : Nat) (e : LoadEntry) (s : State) (p : Nat × Word × Nat × Nat × PReg) : State :=
  let bs := s.loadSpan n p.2.1 p.2.2.1
  s.modSet n fun k => match e.target with
    | .wb i =>
      let w := Tbl.get {} k.wb i
      let w1 : WbSlot :=
        { w with
          cols := Tbl.put [] w.cols p.1 bs, bmask := Tbl.put 0 w.bmask p.1 p.2.2.2.1
          emask := Tbl.put 0 w.emask p.1 p.2.2.2.2 }
      { k with wb := Tbl.put {} k.wb i w1 }
    | .stage i =>
      let w := Tbl.get {} k.stages i
      { k with stages := Tbl.put {} k.stages i { w with rows := Tbl.put [] w.rows p.1 bs } }

/-- A load writes its tags (R183). -/
def loadTags (s : State) (n : Nat) (e : LoadEntry) : State :=
  match e.target with
  | .wb _ => s
  | .stage i =>
    if e.tagAddr = 0 then s
    else
      (List.range (field e.desc 0 9)).foldl (fun s r =>
        let v := bytesWord (s.loadSpan n (e.tagAddr + ofN (8 * r)) 8)
        s.modSet n fun k =>
          let w := Tbl.get {} k.stages i
          { k with stages := Tbl.put {} k.stages i { w with tags := Tbl.put 0 w.tags r v } }) s

/-- A load writes its last byte: the target is READY and the post follows (R184), also where a slot became POISON after the load of one of
its columns was accepted (R195; DESIGN CHOICE, log entry 109). -/
def loadFinish (s : State) (n : Nat) (e : LoadEntry) : State :=
  (((e.parts.foldl (loadPart n e) s).loadTags n e).setLoadState n e.target 2).loadEnd n e

/-- A load meets an uncorrectable sector or another fault: its target is POISON, the post follows, and T7 of core 0 of the Set
takes the item (R184). -/
def loadFault (s : State) (n : Nat) (e : LoadEntry) (code : BitVec 8) (va : Word) : State :=
  ((s.setLoadState n e.target 3).loadEnd n e).appendItem (s.coreZero n) code 3 2 none va 0 0 0

/-! ### Masks of MXLDBG (R182) -/

end State

/-- Step8. -/
def lfsrStep8 (w : Word) : Word :=
  (List.range 8).foldl (fun s _ => (s <<< 1) ||| b2w (bitAt s 63 ^^ bitAt s 62 ^^ bitAt s 60 ^^ bitAt s 59)) w

/-- Comb4: the byte values with four bits set, ascending. -/
def comb4 (i : Nat) : Nat := ((((List.range 256).filter fun v => decide (popNat 8 v = 4)))[i]?).getD 0

/-- Comb2. -/
def comb2 (i : Nat) : Nat := (([0x3, 0x5, 0x6, 0x9, 0xA, 0xC] : List Nat)[i]?).getD 0

/-- The masks of one column, and the register after them. -/
def lfsrColumn (d s : Word) : Word × Nat × PReg :=
  let b := if wbBs d then
      (List.range ((wbK d + 127) / 128)).foldl (fun (r : Word × Nat) q =>
        let w := lfsrStep8 r.1
        (w, r.2 + comb2 (field w 0 16 % 6) * 2 ^ (4 * q))) (s, 0)
    else (s, 0)
  let e := if wbEs d then
      (List.range ((wbK d + 7) / 8)).foldl (fun (r : Word × Nat) g =>
        if blockKept d b.2 (g / 4) then
          let w := lfsrStep8 r.1
          (w, r.2 + comb4 (field w 0 16 % 70) * 256 ^ g)
        else r) (b.1, 0)
    else (b.1, 0)
  (e.1, b.2, BitVec.ofNat 128 e.2)

/-- The masks of `n` columns from `j` on. -/
def lfsrMasks (d : Word) : Nat → Word → List (Nat × PReg)
  | 0, _ => []
  | n + 1, s => ((lfsrColumn d s).2.1, (lfsrColumn d s).2.2) :: lfsrMasks d n (lfsrColumn d s).1

end Sys2Proof.Machine
end

