-- ==== Sys2Proof/Machine/Mx.lean ====
section
/-! DEFINITION. The MX group (R176 to R192). -/

namespace Sys2Proof.Machine

namespace State

/-- An MX instruction of MI; an uncorrectable tile entry that an MXRD has read is taken here, be the program a later one (R167, R195;
DESIGN CHOICE, log entry 109). -/
def onMi (s : State) (e : Enc) (k : Out) : Out :=
  if !s.cur.isSeqNo 1 then illegalIssuer s e
  else if (s.getSet s.cur.setNo).mxUce then
    .next ((s.modSet s.cur.setNo fun k => { k with mxUce := false }).takeTrap s.cur true Cause.uncorrectable 0 0 s.pc)
  else k

/-- MI queues an engine entry, waiting in RUN while 32 are held (R185). -/
def enqueue (s : State) (op : EngOp) (after : State → State := id) : Out :=
  if 32 ≤ (s.getSet s.cur.setNo).engQ.length then .next s else .next ((after (s.engPush s.cur.setNo op)).adv 4)

/-- The checks of R186 on a configuration word. -/
def mxcOk (c : Word) : Bool :=
  decide (field c 35 29 = 0) && !bitAt c 31 && decide (mxAf c ≤ 5) && decide (mxBf c ≤ 6) && decide (mxM c ≤ 256) && decide (mxN c ≤ 256) &&
  (mxMode c || (decide (mxAf c = 0 ∨ mxAf c = 5) && decide (mxBf c = 0 ∨ mxBf c = 5 ∨ mxBf c = 6))) &&
  decide (mxK c ≤ mxDepth (mxAf c) (mxBf c))

/-- The checks of MXMUL at issue (R188). -/
def mulCheck (s : State) (op6 op7 : Word) : Res Unit := do
  check (decide (field op6 32 32 = 0) && decide (field op6 0 7 = 0) && decide (field op6 16 2 ≠ 3) &&
    (!bitAt op6 13 || decide (field op6 16 2 = 1))) Cause.metadataMalformed op6
  if field op6 16 2 = 1 then do
    check (decide (field op7 24 40 = 0)) Cause.metadataMalformed op7
    check (match s.mxReel s.cur.setNo op7 with
      | some h => s.reelValid h && decide (field op6 22 10 < s.reelN h)
      | none => false) Cause.reelMisuse op7
  else .ok ()

/-- The code area of core `c` meets [a, a + n) (R30). -/
def codeMeets (s : State) (c a n : Nat) : Bool :=
  ((s.getCore c).code.any fun i => overlaps i.1 (i.2 - i.1) a n) ||
  (decide ((s.getCore c).htab ≠ 0) && overlaps (s.htabBase c) 7728 a n)

/-- Location of byte 0 of the destination memory of an MXRD, its size, and whether PERMISSION refuses it (R191). -/
def rdDest (s : State) (n : Nat) (dest a len : Nat) : Nat × Nat × Bool :=
  if dest = 8 then (seqLoc n 1 0, 0x20000, false)
  else
    match s.physOf (8 * n + dest) with
    | some c => (ulmLoc c 0, 0x100000, decide (s.partOf (.thr c 0) ≠ (s.getSet n).part) || s.codeMeets c a len)
    | none => (ulmLoc (8 * n + dest) 0, 0x100000, true)

/-- The checks of MXRD at issue (R191): where it writes. -/
def rdCheck (s : State) (op5 op4 addr : Word) : Res Nat := do
  let rows := field op5 0 9
  let pitch := field op4 0 20
  check (decide (field op5 46 18 = 0) && decide (field op5 34 4 ≤ 8) && decide (field op5 27 4 ≤ 8) &&
    decide (field op5 31 3 ≠ 5 ∧ field op5 31 3 ≠ 6) && decide (field op5 18 9 ≤ 256) && decide (field op5 9 9 + rows ≤ 256))
    Cause.metadataMalformed op5
  check (decide (field op4 20 44 = 0)) Cause.metadataMalformed op4
  check (decide (addr.toNat % 8 = 0) && decide (pitch % 8 = 0) &&
    decide (8 * b2n (bitAt op5 39) + field op5 18 9 * outSize (field op5 27 4) ≤ pitch)) Cause.misaligned addr
  let d := s.rdDest s.cur.setNo (field op5 34 4) addr.toNat (rows * pitch)
  check (decide (addr.toNat + rows * pitch ≤ d.2.1)) Cause.noRange (ofN d.2.1)
  check (!d.2.2) Cause.permission op5
  .ok d.1

/-- The B load descriptor is well-formed (R180). -/
def wbOk (d : Word) : Bool :=
  decide (field d 28 36 = 0) && decide (wbF d ≤ 6) && decide (wbN d ≤ 256) &&
  decide (wbK d ≤ if wbF d = 5 ∨ wbF d = 6 then 256 else 128) && !(wbEs d && decide (wbF d = 5 ∨ wbF d = 6))

/-- MS queues a load that has passed its own checks: the range checks, then a place in the load queue of 8 (R181, R184). -/
def enqueueLoad (s : State) (e : LoadEntry) : Res Out := do
  s.loadChecks s.cur (State.loadSpans e)
  .ok (if 8 ≤ (s.getSet s.cur.setNo).loadQ.length then .next s else .next ((s.loadPush s.cur.setNo e).adv 4))

/-- The block mask obeys R180: exactly two bits in each nibble that covers a block below k_b, none above. -/
def blockMaskOk (d : Word) (bm : Nat) : Bool :=
  (List.range 2).all fun q => decide (popNat 4 (bm / 16 ^ q) = if 128 * q < wbK d then 2 else 0)

/-- The first of the 16 element masks that has not exactly four bits set. -/
def badMask (em : PReg) : Option Nat := (List.range 16).find? fun g => decide (popNat 8 (field em (8 * g) 8) ≠ 4)

/-- MXLDBS without NEW finds the slot READY with the header of its descriptor (R181). -/
def slotMatches (s : State) (n wb : Nat) (d : Word) : Bool :=
  decide ((Tbl.get ({} : WbSlot) (s.getSet n).wb wb).hdr = ofN (2 ^ 63 + field d 0 23))

/-- The element masks of MXLDBS: those of P[b], or the 16 bytes at X[a] (R181). -/
def elemMasks (s : State) (a b : BitVec 5) : Res PReg :=
  if b = 0 then do
    let bs ← s.loadBytes s.cur (s.x a) 16
    .ok (BitVec.ofNat 128 (leNat bs))
  else .ok (s.me.getP b.toNat)

/-- TVAL of an element mask of the wrong popcount (R181). -/
def maskTval (s : State) (a b : BitVec 5) (g : Nat) : Word :=
  if b = 0 then s.x a + ofN g else if g < 8 then (s.me.getP b.toNat).extractLsb' 0 64 else (s.me.getP b.toNat).extractLsb' 64 64

/-- The parts of a load of columns j of a slot, a stride apart. -/
def colParts (d base stride : Word) (masks : List (Nat × PReg)) : List (Nat × Word × Nat × Nat × PReg) :=
  (List.zipIdx masks).map fun e => (e.2, base + ofN e.2 * stride, colBytes d e.1.1, e.1.1, e.1.2)

end State

/-- MXCFG: Checks and writes the matrix configuration MXC. (R186) -/
def execMxcfg (a : BitVec 5) (s : State) : Out :=
  s.onMi (word.mxcfg a) (
    let c := s.ox a.toNat
    if State.mxcOk c then .next ((s.modSet s.cur.setNo fun k => { k with mxc := c }).adv 4)
    else trapOut s Cause.metadataMalformed c)

/-- MXZERO: Queues zeroing of a tile, its tags and flags. (R187) -/
def execMxzero (d : BitVec 5) (s : State) : Out := s.onMi (word.mxzero d) (s.enqueue (.zero d.toNat))

/-- MXLDB: Queues a dense weight load into a Weight Buffer slot. (R181) -/
def execMxldb (d : BitVec 5) (a : BitVec 5) (s : State) : Out :=
  let w := s.ox 0
  if !s.cur.isSeqNo 0 then illegalIssuer s (word.mxldb d a)
  else
    finishOut s (do
      check (State.wbOk w) Cause.metadataMalformed w
      check (!wbEs w && !wbBs w) Cause.metadataMalformed w
      s.enqueueLoad { target := .wb d.toNat, desc := w, parts := State.colParts w (s.x a) (s.ox 1) (List.replicate (wbN w) (0, 0)) })

/-- MXLDBS: Queues a load of one sparse column with explicit masks. (R181) -/
def execMxldbs (d : BitVec 5) (a : BitVec 5) (b : BitVec 5) (s : State) : Out :=
  let w := s.ox 0
  let o1 := s.ox 1
  let o2 := s.ox 2
  if !s.cur.isSeqNo 0 then illegalIssuer s (word.mxldbs d a b)
  else
    finishOut s (do
      check (State.wbOk w) Cause.metadataMalformed w
      check (decide (field o1 10 54 = 0) && decide (field o1 0 9 < wbN w)) Cause.metadataMalformed o1
      check (decide (field o2 8 56 = 0)) Cause.metadataMalformed o2
      check (bitAt o1 9 || s.slotMatches s.cur.setNo d.toNat w) Cause.metadataMalformed w
      let em ← s.elemMasks a b
      let _ ← (match if wbEs w then State.badMask em else none with
        | some g => trapR Cause.metadataMalformed (s.maskTval a b g)
        | none => .ok () : Res Unit)
      check (!wbBs w || State.blockMaskOk w (field o2 0 8)) Cause.metadataMalformed o2
      let bm := if wbBs w then field o2 0 8 else 0
      let src := s.x a + if b = 0 then 16 else 0
      (if b = 0 then s.touch (s.x a) 16 else s).enqueueLoad
        { target := .wb d.toNat, desc := w, fresh := bitAt o1 9
          parts := [(field o1 0 9, src, colBytes w bm, bm, if wbEs w then em else 0)] })

/-- MXLDBG: Queues a sparse weight load with LFSR-generated masks. (R181) -/
def execMxldbg (d : BitVec 5) (a : BitVec 5) (s : State) : Out :=
  let w := s.ox 0
  if !s.cur.isSeqNo 0 then illegalIssuer s (word.mxldbg d a)
  else
    finishOut s (do
      check (State.wbOk w) Cause.metadataMalformed w
      check (wbEs w || wbBs w) Cause.metadataMalformed w
      check (decide (s.ox 2 ≠ 0)) Cause.metadataMalformed (s.ox 2)
      s.enqueueLoad { target := .wb d.toNat, desc := w, parts := State.colParts w (s.x a) (s.ox 1) (lfsrMasks w (wbN w) (s.ox 2)) })

/-- MXSTG: Queues the filling of an A stage. (R183) -/
def execMxstg (d : BitVec 5) (a : BitVec 5) (s : State) : Out :=
  let w := s.ox 0
  let o2 := s.ox 2
  if !s.cur.isSeqNo 0 then illegalIssuer s (word.mxstg d a)
  else
    finishOut s (do
      check (decide (field w 26 38 = 0) && decide (field w 9 3 ≤ 5) && decide (field w 17 9 ≤ 256) && decide (field w 0 9 ≤ 256))
        Cause.metadataMalformed w
      check (decide (o2.toNat % 8 = 0)) Cause.metadataMalformed o2
      s.enqueueLoad
        { target := .stage d.toNat, desc := w, tagAddr := o2
          parts := (List.range (field w 0 9)).map fun i => (i, s.x a + ofN i * s.ox 1, field w 17 9, 0, 0) })

/-- MXMUL: Checks and queues a matrix product into a tile. (R188) -/
def execMxmul (d : BitVec 5) (a : BitVec 5) (s : State) : Out :=
  s.onMi (word.mxmul d a) (
    finishOut s (do
      s.mulCheck (s.ox 6) (s.ox 7)
      .ok (s.enqueue (.mul d.toNat a.toNat (s.getSet s.cur.setNo).mxc (s.ox 6) (s.ox 7)))))

/-- MXRD: Checks and queues a readout of tile rows to memory. (R191) -/
def execMxrd (d : BitVec 5) (a : BitVec 5) (s : State) : Out :=
  s.onMi (word.mxrd d a) (
    let op5 := s.ox 5
    let op4 := s.ox 4
    let ad := s.x a
    let n := s.cur.setNo
    finishOut s (do
      let base ← s.rdCheck op5 op4 ad
      let rm := if field op5 31 3 = 7 then s.rm else field op5 31 3
      .ok (s.enqueue (.rd d.toNat base op5 op4 ad rm s.satm) fun t => t.rdRegister n (s.getSet n).serial base op5 op4 ad)))

/-- MXFENCE: Stalls MI until its earlier engine entries complete. (R192) -/
def execMxfence (s : State) : Out :=   s.onMi word.mxfence (if (s.getSet s.cur.setNo).engQ.isEmpty then .next (s.adv 4) else .next s)


end Sys2Proof.Machine
end

