-- ==== Sys2Proof/Machine/Eng.lean ====
section
/-! DEFINITION. The ENG group: sequencer programs and semaphores (R169 to R175). -/

namespace Sys2Proof.Machine

namespace State

/-- A core whose ASID names another partition than its Set's takes PERMISSION (R166). -/
def setOwned (s : State) : Bool := s.cur.isSeq || decide (s.myPart = (s.getSet s.cur.setNo).part)

/-- The region of the issuer of a FORK (R170): of the activation, T7's core region, or of MI's own forker. -/
def forkRegion (s : State) : Word :=
  match s.cur with
  | .thr c 7 => s.coreRegion c
  | .thr _ _ => s.me.rcb
  | .seq n q => (match Tbl.get none (s.getSet n).cur q with
    | some e => e.rcb
    | none => 0)

/-- FORK of R170 into the queue of sequencer `q`. -/
def forkTo (s : State) (q : Nat) (d a b : BitVec 5) : Out :=
  if !s.setOwned then trapOut s Cause.permission 0
  else
    s.act fun s1 =>
      let n := s1.cur.setNo
      let k := s1.getSet n
      let l := Tbl.get [] k.forkQ q
      if 16 ≤ l.length then .next ((s1.wx d 0).adv 4)
      else
        let sq := (Tbl.get 0 k.forkSeq q + 1) % 2 ^ 48
        let e : ForkEntry := { entry := s1.x a, arg := s1.x b, ox := s1.me.ox, p := s1.me.p, rcb := s1.forkRegion, seqNo := sq }
        let s2 := s1.modSet n fun k => { k with forkQ := Tbl.put [] k.forkQ q (l ++ [e]), forkSeq := Tbl.put 0 k.forkSeq q sq }
        .next ((s2.wx d (ofN (q * 2 ^ 62 + sq))).adv 4)

/-- FORK may be issued by T0 to T5, T7, and MI for another sequencer (R167). -/
def mayFork (s : State) (q : Nat) : Bool := s.cur.isAct || s.cur.isT7 || (s.cur.isSeqNo 1 && decide (q ≠ 1))

/-- The program of a ticket has ended (R173). -/
def joined (s : State) (n q sq : Nat) : Bool := decide (sq ≤ Tbl.get 0 (s.getSet n).lastEnded q)

/-- The exit value that JOIN returns: 0 when the record is gone (R173). -/
def joinValue (s : State) (n q sq : Nat) : Word :=
  match (Tbl.get [] (s.getSet n).exits q).find? fun e => decide (e.1 = sq) with
  | some e => e.2
  | none => 0

/-- ENGSTAT by selector (R175). -/
def engStat (s : State) (n sel : Nat) : Word :=
  let k := s.getSet n
  let occ := fun (q : Nat) => (Tbl.get [] k.forkQ q).length
  let flt := fun (q : Nat) => Tbl.get (0, 0) k.lastFault q
  if sel < 0x10 then zext64 (s.sem n sel)
  else if sel = 0x10 then ofN (k.loadQ.length * 256 + k.engQ.length)
  else if sel = 0x11 then ofN (occ 2 * 65536 + occ 1 * 256 + occ 0)
  else if 0x12 ≤ sel ∧ sel ≤ 0x14 then ofN (Tbl.get 0 k.lastEnded (sel - 0x12))
  else if 0x18 ≤ sel ∧ sel ≤ 0x1A then (flt (sel - 0x18)).1
  else if 0x1C ≤ sel ∧ sel ≤ 0x1E then (flt (sel - 0x1C)).2
  else if 0x20 ≤ sel ∧ sel ≤ 0x27 then Tbl.get 0 k.tfw (sel - 0x20)
  else if 0x30 ≤ sel ∧ sel ≤ 0x3F then (Tbl.get ({} : WbSlot) k.wb (sel - 0x30)).hdr
  else if 0x40 ≤ sel ∧ sel ≤ 0x43 then (Tbl.get ({} : AStage) k.stages (sel - 0x40)).hdr
  else 0

end State

/-- FORK_MS: Queues a program start on MS and returns a ticket. (R170) -/
def execForkMs (d : BitVec 5) (a : BitVec 5) (b : BitVec 5) (s : State) : Out := if s.mayFork 0 then s.forkTo 0 d a b else illegalIssuer s (word.forkMs d a b)

/-- FORK_MI: Queues a program start on MI. (R170) -/
def execForkMi (d : BitVec 5) (a : BitVec 5) (b : BitVec 5) (s : State) : Out := if s.mayFork 1 then s.forkTo 1 d a b else illegalIssuer s (word.forkMi d a b)

/-- FORK_CS: Queues a program start on the copy sequencer. (R170) -/
def execForkCs (d : BitVec 5) (a : BitVec 5) (b : BitVec 5) (s : State) : Out := if s.mayFork 2 then s.forkTo 2 d a b else illegalIssuer s (word.forkCs d a b)

/-- JOIN: Waits for a forked program to end and returns its exit value. (R173) -/
def execJoin (d : BitVec 5) (a : BitVec 5) (s : State) : Out :=
  let w := s.x a
  let n := s.cur.setNo
  let q := field w 62 2
  let sq := field w 0 48
  if s.cur.isT6 then illegalIssuer s (word.join d a)
  else if q = 3 ∨ sq = 0 ∨ Tbl.get 0 (s.getSet n).forkSeq q < sq then s.setReg d (BitVec.allOnes 64)
  else if s.joined n q sq then s.setReg d (s.joinValue n q sq)
  else s.blockOn { kind := .join n q sq, rd := d }

/-- SEMPOST: Adds to a Set semaphore, saturating, as a release. Running cores reach the semaphores and fork queues of a Set node that is
stopped, which itself takes nothing from them (R196; DESIGN CHOICE, log entry 109). (R174) -/
def execSempost (d : BitVec 5) (a : BitVec 5) (s : State) : Out :=
  if !s.setOwned then trapOut s Cause.permission 0
  else s.actRelease fun s1 => .next ((s1.semPost s1.cur.setNo d.toNat (field (s1.x a) 0 16)).adv 4)

/-- SEMWAIT: Waits in order for a semaphore count and takes it. (R174) -/
def execSemwait (d : BitVec 5) (a : BitVec 5) (s : State) : Out :=
  if s.cur.isT6 then illegalIssuer s (word.semwait d a)
  else if !s.setOwned then trapOut s Cause.permission 0
  else
    s.act fun s1 =>
      let n := s1.cur.setNo
      let c := field (s1.x a) 0 16
      if c = 0 then .next (s1.adv 4)
      else if (s1.semFirst n d.toNat).isNone && decide (c ≤ (s1.sem n d.toNat).toNat) then
        .next ((s1.semTake n d.toNat (some s1.cur.key) c).adv 4)
      else
        (s1.modSet n fun k => { k with semLine := k.semLine ++ [(d.toNat, some s1.cur.key, c)] }).blockOn { kind := .sem n d.toNat c }

/-- ENGSTAT: Reads engine status by selector. (R175) -/
def execEngstat (d : BitVec 5) (a : BitVec 5) (s : State) : Out :=   if !s.setOwned then trapOut s Cause.permission 0 else s.setReg d (s.engStat s.cur.setNo (field (s.x a) 0 8))


end Sys2Proof.Machine
end

