-- ==== Sys2Proof/Machine/Cnt.lean ====
section
/-! DEFINITION. The CNT group: time and accounting (R380 to R386). -/

namespace Sys2Proof.Machine

namespace State

/-- A counter as PMRD reads it (R383). -/
def perfRead (s : State) (c sel : Nat) : Word :=
  if sel < 16 then (Tbl.get ({} : PerfCtr) (s.getCore c).pm sel).value
  else if sel < 0x18 then Tbl.get 0 (s.getCore c).fixed sel
  else if 0x20 ≤ sel ∧ sel ≤ 0x27 then Tbl.get 0 (s.getDie (c / 64)).counters (sel - 0x20)
  else 0

/-- A field of the delay account (R385). -/
def delayField (s : State) (c e f : Nat) : Word :=
  if 191 < e then 0
  else
    let x := Tbl.get ({} : DelayEntry) (s.getCore c).delay e
    match f with
    | 0 => x.key
    | 1 => x.count
    | 2 => x.transit
    | 3 => x.wait
    | 4 => x.run
    | _ => 0

/-- The marker record of DBGMARK (R386, R407); the thread field of a sequencer's is a free value (DESIGN CHOICE, log entry 21). -/
def markRecord (s : State) (v : Word) : List Word :=
  let w0 := match s.cur with
    | .thr _ t => s.traceWord0 s.cur 1 t (field s.me.msghdr 48 16) s.me.entryAddr.toNat
    | .seq n q => s.traceWord0 s.cur 1 (field (Config.freeWord s.freeCtr 0) 0 3) 0 (match Tbl.get none (s.getSet n).cur q with
      | some e => e.entry.toNat
      | none => 0)
  [w0, s.timebase, v, ofN (field s.me.actid 0 48)]

end State

/-- RDTS: Reads the timebase. (R380) -/
def execRdts (d : BitVec 5) (s : State) : Out := s.setReg d s.timebase

/-- RDCYC: Reads the cycle counter. (R380) -/
def execRdcyc (d : BitVec 5) (s : State) : Out := s.setReg d s.cycles

/-- RDVC: Reads an entry of the die's vector clock. (R380) -/
def execRdvc (d : BitVec 5) (a : BitVec 5) (s : State) : Out :=
  let w := s.x a
  if w.toNat / 8 ≠ 0 then trapOut s Cause.metadataMalformed w else s.setReg d (zext64 (s.vcEntry s.cur.dieNo w.toNat))

/-- PMCFG: Programs a performance counter and zeroes it. (R382) -/
def execPmcfg (a : BitVec 5) (b : BitVec 5) (s : State) : Out :=
  let w := s.x a
  let e := s.x b
  if s.cur.isSeq then illegalIssuer s (word.pmcfg a b)
  else if !s.cur.isT7 then privileged s (word.pmcfg a b)
  else
    finishOut s (do
      check (decide (w.toNat / 16 = 0)) Cause.metadataMalformed w
      check (decide (e.toNat / 65536 = 0) && decide (field e 0 8 ≤ 0x0D)) Cause.metadataMalformed e
      .ok (.next ((s.modCore s.cur.coreNo fun k =>
        { k with pm := Tbl.put {} k.pm w.toNat { event := field e 0 8, mask := e.extractLsb' 8 8 } }).adv 4)))

/-- PMRD: Reads a performance or fixed counter. (R383) -/
def execPmrd (d : BitVec 5) (a : BitVec 5) (s : State) : Out :=
  let w := s.x a
  if s.cur.isSeq then illegalIssuer s (word.pmrd d a)
  else if w.toNat / 256 ≠ 0 then trapOut s Cause.metadataMalformed w
  else s.setReg d (s.perfRead s.cur.coreNo w.toNat)

/-- DLYRD: Reads a delay-account field, optionally clearing all entries. (R385) -/
def execDlyrd (d : BitVec 5) (a : BitVec 5) (s : State) : Out :=
  let w := s.x a
  let c := s.cur.coreNo
  if s.cur.isSeq then illegalIssuer s (word.dlyrd d a)
  else if bitAt w 63 && !s.cur.isT7 then privileged s (word.dlyrd d a)
  else if field w 11 52 ≠ 0 then trapOut s Cause.metadataMalformed w
  else
    let s1 := s.wx d (s.delayField c (field w 0 8) (field w 8 3))
    .next ((if bitAt w 63 then s1.modCore c fun k => { k with delay := [] } else s1).adv 4)

/-- DBGMARK: Writes a marker record into trace SRAM when a session is open. (R386) -/
def execDbgmark (a : BitVec 5) (s : State) : Out :=   .next ((s.traceRecord s.cur.coreNo (s.markRecord (s.x a))).adv 4)


end Sys2Proof.Machine
end

