-- ==== Sys2Proof/Machine/Fence.lean ====
section
/-! DEFINITION. Fences and cache maintenance (R241 to R245). -/

namespace Sys2Proof.Machine

namespace State

/-- The cores whose caches a scope of cache maintenance covers: 1 CORE, 2 SET, 3 DIE, 4 DEVICE (R244). -/
def scopeCores (a : Agent) (scope : Nat) : List Nat :=
  match scope with
  | 1 => (match a with
    | .thr c _ => [c]
    | .seq _ _ => [])
  | 2 => (List.range 8).map fun i => 8 * a.setNo + i
  | 3 => (List.range 64).map fun i => 64 * a.dieNo + i
  | _ => List.range 128

/-- The sequencers whose fetch buffers the scope covers. -/
def scopeSeqs (a : Agent) (scope : Nat) : List Agent :=
  match scope with
  | 1 => if a.isSeq then [a] else []
  | 2 => (List.range 3).map fun q => .seq a.setNo q
  | 3 => (List.range 8).flatMap fun n => (List.range 3).map fun q => .seq (8 * a.dieNo + n) q
  | _ => (List.range 16).flatMap fun n => (List.range 3).map fun q => .seq n q

/-- c := min(ux(X[b]), 0x10_0000) (R244). -/
def lineCount (n : Word) : Nat := min n.toNat 0x100000

/-- The lines of the interval, rounded out to 128 bytes. -/
def linesOf (base : Word) (c : Nat) : List Word :=
  if c = 0 then [] else
  let lo := alignDown 128 base.toNat
  (List.range ((base.toNat + c - lo + 127) / 128)).map fun i => ofN (lo + 128 * i)

/-- Translates the global lines of an interval with a kind; a line outside the resident intervals is skipped (R244). -/
def lineAccs (s : State) (k : Kind) : List Word → Res (List (Word × Option Nat))
  | [] => .ok []
  | l :: t => do
    if l.toNat < 0x100000 then
      let r ← s.lineAccs k t
      .ok ((l, none) :: r)
    else if l.toNat / 2 ^ 56 ≠ 0 then trapR Cause.noRange l
    else
      match s.translate s.cur l.toNat 128 k false with
      | .error c => trapR c l
      | .ok acc =>
        let r ← s.lineAccs k t
        if acc.rng.residentFrom (l.toNat - acc.rng.vbase) = 0 then .ok r else .ok ((l, some acc.loc) :: r)

/-- ICINV of one line for every covered core and sequencer. -/
def invalidateLine (a : Agent) (scope : Nat) (s : State) (l : Word × Option Nat) : State :=
  let s1 := (scopeCores a scope).foldl (fun s c =>
    let s2 := s.dropLine c (l.2.getD (ulmLoc c l.1.toNat))
    (List.range 8).foldl (fun s i => s.staleBuf (.thr c i) (l.2.getD (ulmLoc c l.1.toNat))) s2) s
  (scopeSeqs a scope).foldl (fun s q => s.staleBuf q (l.2.getD (q.localLoc l.1.toNat))) s1

/-- The dies whose RDC a scope covers (R244). -/
def scopeRdcs (a : Agent) (scope : Nat) : List Nat :=
  match scope with
  | 3 => [a.dieNo]
  | 4 => [0, 1]
  | _ => []

/-- DCWB of sector `x` of home `h` in the L1 of core `c`: written to the home L2, and clean (R244). -/
def writeBack (h x : Nat) (s : State) (c : Nat) : State :=
  if (s.l1Of c x).dirty then (s.putL1 c x { valid := true }).putL2 h x true else s

/-- DCINV of sector `x` in the L1 of core `c`: dirty bytes are lost, and memory holds what the home has beneath them, unless they had
reached it before, a free choice for each sector (R244, DESIGN CHOICE, log entry 82). -/
def discard (x : Nat) (s : State) (c : Nat) : State :=
  let l := s.l1Of c x
  if !l.valid then s
  else
    let s1 := s.dropL1 c x
    if l.dirty && decide (s.cacheChoice x % 2 = 1) then
      (({ s1 with mem := Memory.writeN s1.mem (32 * x) l.data } : State).carry (32 * x) 32 []).staleLines (32 * x) 32
    else s1

/-- What an operation does to one sector. -/
inductive CacheOp where
  | inv | wb | fl
  deriving DecidableEq, Repr

/-- One sector of home `h` under an operation of cache maintenance, in every cache that the scope covers (R244). -/
def maintain (op : CacheOp) (a : Agent) (scope h : Nat) (s : State) (x : Nat) : State :=
  let cs := scopeCores a scope
  let rdc := fun (t : State) => (scopeRdcs a scope).foldl (fun t d => t.dropRdc d x) t
  match op with
  | .wb => cs.foldl (writeBack h x) s
  | .fl => rdc (cs.foldl (fun t c => t.dropL1 c x) (cs.foldl (writeBack h x) s))
  | .inv => rdc (cs.foldl (discard x) s)

/-- The pending queues of the RCBs of partition `p` that have V = 0 are empty (R268, R314). -/
def emptyPends (s : State) (p : Nat) : State :=
  if (s.getPart p).pend.all fun e => bitAt (s.rcbWord p (ofN e.1) 1) 63 then s
  else s.modPart p fun x => { x with pend := x.pend.filter fun e => bitAt (s.rcbWord p (ofN e.1) 1) 63 }

/-- Cache write-back and invalidation of data lines (R244). -/
def cacheOp (s : State) (op : CacheOp) (d a b : BitVec 5) (scope : Nat) (k : Kind) : Out :=
  let c := lineCount (s.x b)
  finish s (do
    let ls ← s.lineAccs k (linesOf (s.x a) c)
    waitFor (!(s.retraining && decide (scope = 4)))
    let line := fun (t : State) (l : Word × Option Nat) => match l.2.bind fun p => (homeDie p).map fun h => (p, h) with
      | some (p, h) => (sectorsOf (alignDown 128 p) 128).foldl (maintain op s.cur scope h) t
      | none => t
    .ok (((ls.foldl line s).wx d (ofN c)).adv 4))

/-- PREF fills the line of an address into the L1 of a thread's core, where that takes no trap and no wait (R245). -/
def prefetch (s : State) (va : Word) : State :=
  match s.cur, s.resolve s.cur va 1 kindR with
  | .thr c _, .ok acc =>
    (match homeDie acc.loc with
    | some h =>
      let l := alignDown 128 acc.loc
      if acc.rng.uncached || s.poisoned l 128 || s.blocked l 128 false || s.acrossBridge s.cur.dieNo l then s
      else (sectorsOf l 128).foldl (fillSector h c) (s.useRtb s.cur va.toNat 1 kindR)
    | none => s)
  | .thr _ _, .error _ => s
  | .seq _ _, _ => s

end State

/-- FENCE: Orders the agent's accesses by kind and scope, with partial commit for releases. (R242) -/
def execFence (k : BitVec 3) (s : BitVec 3) (s0 : State) : Out :=
  let kind := k.toNat
  let scope := s.toNat
  let rel := decide (2 ≤ kind)
  let commits := rel && decide (1 ≤ scope) && s0.holds s0.cur && s0.me.journal.any State.isStore
  if commits && s0.commitBlocked s0.cur then .next s0
  else
    let s1 := if commits then s0.partialCommit s0.cur 2 else s0
    if (rel && s1.sendPending s1.cur) || s1.fenceWaits s1.cur kind scope then .next s1
    else .next ((s1.fenceClock s1.cur kind scope).adv 4)

/-- IFENCE: Discards the thread's fetch buffer. (R243) -/
def execIfence (s : State) : Out := .next ((s.ifence s.cur).adv 4)

/-- ICINV: Invalidates I-cache lines over an interval in every covered cache and marks fetch buffers stale. (R244) -/
def execIcinv (d : BitVec 5) (a : BitVec 5) (b : BitVec 5) (s : BitVec 3) (s0 : State) : Out :=
  let c := State.lineCount (s0.x b)
  finish s0 (do
    let ls ← s0.lineAccs kindX (State.linesOf (s0.x a) c)
    waitFor (!(s0.retraining && decide (s.toNat = 4)))
    .ok (((ls.foldl (State.invalidateLine s0.cur s.toNat) s0).wx d (ofN c)).adv 4))

/-- DCINV: Invalidates data lines without write-back; service only. (R244) -/
def execDcinv (d : BitVec 5) (a : BitVec 5) (b : BitVec 5) (s : BitVec 3) (s0 : State) : Out :=
  if s0.cur.isT7 then s0.cacheOp .inv d a b s.toNat kindW else privileged s0 (word.dcinv d a b s)

/-- DCWB: Writes back dirty sectors over an interval. (R244) -/
def execDcwb (d : BitVec 5) (a : BitVec 5) (b : BitVec 5) (s : BitVec 3) (s0 : State) : Out := s0.cacheOp .wb d a b s.toNat kindR

/-- DCFL: Writes back and invalidates lines over an interval. After it, stores to an RCB apply: one found with V = 0 is no region, and
its pending queue is empty when it is set up again (R244, R268, R314). -/
def execDcfl (d : BitVec 5) (a : BitVec 5) (b : BitVec 5) (s : BitVec 3) (s0 : State) : Out :=
  match s0.cacheOp .fl d a b s.toNat kindR with
  | .next t => .next (t.emptyPends s0.myPart)
  | o => o

/-- PREF: Prefetches a line into L1 or acts as NOP. (R245) -/
def execPref (a : BitVec 5) (s : State) : Out := .next ((s.prefetch (s.x a)).adv 4)


end Sys2Proof.Machine
end

