-- ==== Sys2Proof/Machine/Sys.lean ====
section
/-! DEFINITION. System instructions (R130 to R136), the system registers (R74 to R85) and BRK (R58, R403). -/

namespace Sys2Proof.Machine

namespace State

/-! ### System registers (R74 to R85) -/

/-- The system registers of R78. -/
inductive SysReg where
  | fcsr | vcsr | actid | actst | msghdr0 | msghdr1 | utvec | utepc | pc | tcause | tval | epc | htab | win (i : Nat) | asid | lcid
  | ckstat | sflags | setsup | owner | bootrec | cpbrk (i : Nat)
  deriving DecidableEq, Repr

/-- Who reads and writes a register (R74). -/
inductive SysAccess where
  | rw | r | svc | ro | svcRo | flags
  deriving DecidableEq, Repr

/-- The register of a number, and its access; none for an unassigned number (R78). -/
def sysReg (n : Nat) : Option (SysReg × SysAccess) :=
  match n with
  | 0x001 => some (.fcsr, .rw)
  | 0x002 => some (.vcsr, .rw)
  | 0x003 => some (.actid, .ro)
  | 0x004 => some (.actst, .ro)
  | 0x005 => some (.msghdr0, .ro)
  | 0x006 => some (.msghdr1, .ro)
  | 0x008 => some (.utvec, .rw)
  | 0x009 => some (.utepc, .rw)
  | 0x00A => some (.pc, .ro)
  | 0x100 => some (.tcause, .r)
  | 0x101 => some (.tval, .r)
  | 0x102 => some (.epc, .svc)
  | 0x200 => some (.htab, .svc)
  | 0x210 => some (.asid, .ro)
  | 0x211 => some (.lcid, .ro)
  | 0x212 => some (.ckstat, .svc)
  | 0x300 => some (.sflags, .flags)
  | 0x301 => some (.setsup, .r)
  | 0x400 => some (.owner, .ro)
  | 0x401 => some (.bootrec, .ro)
  | _ =>
    if 0x208 ≤ n ∧ n ≤ 0x20F then some (.win (n - 0x208), .svc)
    else if 0x408 ≤ n ∧ n ≤ 0x40F then some (.cpbrk (n - 0x408), .svcRo)
    else none

/-- SETSUP names the agent's core, by its physical place in the Set (R79, R85; DESIGN CHOICE, log entry 85). -/
def supervises (s : State) (a : Agent) : Bool :=
  match a with
  | .thr c _ => decide (c % 8 = field (s.getSet (c / 8)).setsup 0 3)
  | .seq _ _ => false

/-- The agent may read (or, with `write`, write) a register of this access (R74, R79). -/
def mayAccess (s : State) (a : Agent) (acc : SysAccess) (write : Bool) : Bool :=
  match acc with
  | .rw => true
  | .r => !write || a.isT7
  | .svc => a.isT7
  | .ro => !write
  | .svcRo => a.isT7 && !write
  | .flags => s.supervises a

/-- The value of a system register as the executing agent reads it (R77, R79, R132). A sequencer reads those of R76 from a record of its
own, though R165 gives it none of ACTID, ACTST, MSGHDR, UTVEC, UTEPC, TCAUSE and TVAL (DESIGN CHOICE, log entry 95). -/
def readSys (s : State) (r : SysReg) : Word :=
  let t := s.me
  let held := s.thread s.trapAgent
  let c := s.cur.coreNo
  match r with
  | .fcsr => t.fcsr
  | .vcsr => t.vcsr
  | .actid => t.actid
  | .actst => t.actst
  | .msghdr0 => t.msghdr.extractLsb' 0 64
  | .msghdr1 => t.msghdr.extractLsb' 64 64
  | .utvec => t.utvec
  | .utepc => t.utepc
  | .pc => t.pc
  | .tcause => held.tcause
  | .tval => held.tval
  | .epc => held.epc
  | .htab => (s.getCore c).htab
  | .win i => Tbl.get 0 (s.getCore c).win i
  | .asid => if s.cur.isSeq then ofN (s.partOf s.cur) else zext64 (s.getCore c).asid
  | .lcid => if s.cur.isSeq then 0x80 else zext64 (s.lcidOf c)
  | .ckstat => (s.getCore c).ckstat
  | .sflags => (s.getSet s.cur.setNo).sflags
  | .setsup => (s.getSet s.cur.setNo).setsup
  | .owner => s.owner
  | .bootrec => s.bootrec
  | .cpbrk i => Tbl.get 0 s.cpbrk i

/-- `old` with the bits of the mask taken from `v` (R6, R79). -/
def maskIn (old v mask : Word) : Word := (old &&& ~~~mask) ||| (v &&& mask)

/-- Writes a thread's own system register, or a sequencer's in a record of its own (DESIGN CHOICE, log entry 95); RM takes only the codes of R53 that are assigned (R80, R81, R83). -/
def writeOwnSys (s : State) (r : SysReg) (v : Word) : State :=
  match r with
  | .fcsr => s.modMe fun t => { t with fcsr := maskIn t.fcsr v (if field v 0 3 ≤ 4 then 0x1F1F07 else 0x1F1F00) }
  | .vcsr => s.modMe fun t => { t with vcsr := maskIn t.vcsr v 0x3F7 }
  | .utvec => s.modMe fun t => { t with utvec := v }
  | .utepc => s.modMe fun t => { t with utepc := v }
  | .tcause => s.modThread s.trapAgent fun t => { t with tcause := maskIn t.tcause v 0xC00000000000FFFF }
  | .tval => s.modThread s.trapAgent fun t => { t with tval := v }
  | .epc => s.modThread s.trapAgent fun t => { t with epc := v }
  | _ => s

/-- Writes a register of the core or the Set (R79, R85, R335, R337, R401). -/
def writeShared (s : State) (r : SysReg) (v : Word) : State :=
  let c := s.cur.coreNo
  match r with
  | .htab => s.modCore c fun k => { k with htab := maskIn k.htab v 0xFFF80 }
  | .win i => s.modCore c fun k => { k with win := Tbl.put 0 k.win i (maskIn (Tbl.get 0 k.win i) v 0xFEFF01FFF80FFF80) }
  | .ckstat => s.modCore c fun k => { k with ckstat := maskIn k.ckstat v 0x0000FFFFFF0000C0 }
  | .sflags => s.modSet s.cur.setNo fun k => { k with sflags := k.sflags &&& ~~~(v &&& 0x3FFFF) }
  | .setsup => s.modSet s.cur.setNo fun k => { k with setsup := maskIn k.setsup v 7 }
  | _ => s

/-- The register belongs to a core, a Set or the device (R77). -/
def sharedReg : SysReg → Bool
  | .htab => true
  | .win _ => true
  | .ckstat => true
  | .sflags => true
  | .setsup => true
  | _ => false

/-! ### ERET, WAIT, HALT and MIGRATE -/

/-- ERET by T7 (R132, R392); with no item T7 only becomes FREE. -/
def eret (s : State) (e : Enc) : Out :=
  if s.cur.isSeq then illegalIssuer s e
  else if !s.cur.isT7 then privileged s e
  else .next ((s.adv 4).endItem s.cur.coreNo)

/-- WAIT is met: the time has come, or on T7 a service item waits (R133). -/
def timeMet (s : State) (a : Agent) (upTo : Word) (anyItem noTime : Bool) : Bool :=
  (!noTime && decide (upTo.toNat ≤ s.timebase.toNat)) || (anyItem && !(s.getCore a.coreNo).t7q.isEmpty)

/-- HALT's requests from core `c`: its groups, or this core alone (R134). -/
def haltFrom (s : State) (c : Nat) : State :=
  match s.groupsOf c with
  | [] => s.stopCore c { die := c / 64, group := field (Config.freeWord s.freeCtr c) 0 5, source := 0, alone := true }
  | gs => gs.foldl (fun t g => t.stopGroup (c / 64) g 0) s

/-- The context of the executing activation leaves for physical core `dest` (R38, R135, R236): a release, and the thread
becomes FREE. Its triggering message keeps its slot in the inbox that it came to (R268; DEDUCED, log entry 89). -/
def departs (s : State) (dest : Nat) : State :=
  match s.cur with
  | .seq _ _ => s
  | .thr c tid =>
    let s0 := (s.adv 4).release s.cur
    let t := s0.me
    let th : Thread :=
      { t with hosted := none, resuming := false, restoring := false, fbuf := none, image := none
               slotAt := some (t.slotAt.getD c)
               ss := t.ss.map fun e => (e.1, { e.2 with ahead := [] }) }
    let m : Migrant := { src := c, srcTid := tid, dest := dest, th := th, clock := s0.vcOf (c / 64) }
    let fw : Forward := { core := c, tid := tid, gen := t.gen, dest := dest, upTo := s0.timebase + 64000 }
    let s1 : State := { s0 with migrants := s0.migrants ++ [m], forwards := s0.forwards ++ [fw] }
    (s1.modThread s.cur fun t => { t with launch := false, cctr := none, outst := [] }).freeThread c tid

/-- A BRK of a member stops those of its groups of die `d` whose BRK is set, in place of its trap (R402, R403). -/
def brkGroups (s : State) (d : Nat) (hgm : BitVec 32) : List Nat :=
  (List.range 32).filter fun g => bitAt hgm g && bitAt (Tbl.get 0 (s.getDie d).hgc g) 1

end State

/-- MFS: Reads a system register by number. (R79) -/
def execMfs (d : BitVec 5) (n : BitVec 12) (s : State) : Out :=
  match State.sysReg n.toNat with
  | none => trapOut s Cause.illegalInstruction (word.mfs d n).word
  | some (reg, acc) => if s.mayAccess s.cur acc false then s.setReg d (s.readSys reg) else privileged s (word.mfs d n)

/-- MTS: Writes a system register field by field. (R79) -/
def execMts (a : BitVec 5) (n : BitVec 12) (s : State) : Out :=
  match State.sysReg n.toNat with
  | none => trapOut s Cause.illegalInstruction (word.mts a n).word
  | some (reg, acc) =>
    if !s.mayAccess s.cur acc true then privileged s (word.mts a n)
    else if State.sharedReg reg then s.act fun s1 => .next ((s1.writeShared reg (s1.x a)).adv 4)
    else .next ((s.writeOwnSys reg (s.x a)).adv 4)

/-- TRAP: Takes SYSCALL with TVAL from X[a]. (R131) -/
def execTrap (a : BitVec 5) (s : State) : Out := if s.cur.isT7 || s.cur.isSeq then illegalIssuer s (word.trap a) else trapOut s Cause.syscall (s.x a)

/-- ERET_RESUME: Ends T7's item and resumes the served thread at EPC, or restores a hosted context for KIND 4. (R392) -/
def execEretResume (s : State) : Out := s.eret (word.eretResume)

/-- ERET_PREEMPT: Ends the item and saves the served context so that the thread hosts it. (R392) -/
def execEretPreempt (s : State) : Out := s.eret (word.eretPreempt)

/-- ERET_PARK: As PREEMPT, with resumption held for an UNPARK. (R392) -/
def execEretPark (s : State) : Out := s.eret (word.eretPark)

/-- ERET_RETAKE: Retakes the served activation by R28, or kills it if not retakeable. (R392) -/
def execEretRetake (s : State) : Out := s.eret (word.eretRetake)

/-- ERET_KILL: Escalates the served activation, discarding its journal and held messages. (R392) -/
def execEretKill (s : State) : Out := s.eret (word.eretKill)

/-- ERET_UNPARK: Makes the parked context of a named thread resumable. (R392) -/
def execEretUnpark (s : State) : Out := s.eret (word.eretUnpark)

/-- UTRET: Sets PC to UTEPC. (R132) -/
def execUtret (s : State) : Out :=
  if s.cur.isT7 || s.cur.isSeq then illegalIssuer s (word.utret)
  else if bitAt s.me.utepc 0 then trapOut s Cause.misaligned s.me.utepc
  else .next ((s.jump s.me.utepc).modMe fun t => { t with cellBusy := false })

/-- WAIT: Waits until the timebase reaches X[a], or on T7 until a service item waits. (R133) -/
def execWaitI (a : BitVec 5) (s : State) : Out :=
  if s.cur.isT6 || s.cur.isSeq then illegalIssuer s (word.waitI a)
  else
    let v := s.x a
    let noTime := s.cur.isT7 && decide (a = 0)
    if s.timeMet s.cur v s.cur.isT7 noTime then .next (s.adv 4)
    else s.blockOn { kind := .time v s.cur.isT7 noTime }

/-- HALT: Requests a stop of every halt group of the core through the cut network. (R134) -/
def execHalt (s : State) : Out :=
  if s.cur.isSeq then illegalIssuer s (word.halt)
  else if !s.cur.isT7 then privileged s (word.halt)
  else .next (((s.adv 4).haltFrom s.cur.coreNo).markGroups)

/-- MIGRATE: Moves the running activation to another core of the partition. (R135) -/
def execMigrate (a : BitVec 5) (s : State) : Out :=
  if !s.cur.isAct || s.me.resident then illegalIssuer s (word.migrate a)
  else
    match s.physOf (field (s.x a) 0 7) with
    | none =>
      .next ((s.adv 4).modMe fun t =>
        { t with pendTrap := t.pendTrap ++ [{ code := Cause.nack, sub := 2, tval := ofN (s.returnCell s.cur.coreNo s.cur.tid) }] })
    | some p =>
      if s.partOf (.thr p 0) ≠ s.myPart then trapOut s Cause.permission (s.x a)
      else if p = s.cur.coreNo then s.actAs 3 fun s1 => .next (s1.adv 4)
      else s.actAs 3 fun s1 => if s1.pushesPending s1.cur then .next s1 else .next (s1.departs p)

/-- SCANRUN: Starts the core's 200 us in-field scan, with its L1 written back and emptied, or reports BUSY; BUSY is recorded in
CKSTAT.SCAN, for which R401 gives no code: a free value (DESIGN CHOICE, log entry 61). (R136) -/
def execScanrun (d : BitVec 5) (a : BitVec 5) (s : State) : Out :=
  if s.cur.isSeq then illegalIssuer s (word.scanrun d a)
  else if !s.cur.isT7 then privileged s (word.scanrun d a)
  else if !s.scanReady s.cur.coreNo || (s.getCore s.cur.coreNo).scan.isSome then
    (s.modCore s.cur.coreNo fun k =>
      { k with ckstat := setField k.ckstat 18 2 (field (Config.freeWord s.freeCtr s.cur.coreNo) 0 2) }).setReg d 3
  else
    let prio := field (s.x a) 0 6
    ((s.emptyL1 s.cur.coreNo).modCore s.cur.coreNo fun k => { k with scan := some { abortPrio := prio, rd := some d, start := s.timebase } }).blockOn
      { kind := .scan, rd := d }

/-- BRK: Takes BREAKPOINT at its own address, or stops the groups of its core or Set node. (R58, R403) -/
def execBrk (s : State) : Out :=
  let d := s.cur.dieNo
  let gs := s.brkGroups d (match s.cur with
    | .thr c _ => s.coreHgm c
    | .seq n _ => s.setHgm n)
  if gs.isEmpty then .next (s.raise ⟨Cause.breakpoint, s.pc, 0⟩ 2)
  else
    let s1 := s.modMe fun t => { t with epc := t.pc }
    let s2 := gs.foldl (fun t g => t.stopGroup d g 3) s1
    let s3 := if (s2.thread s2.cur).st = .stopped then s2 else s2.stopThread s2.cur
    .next s3.markGroups


end Sys2Proof.Machine
end

