-- ==== Sys2Proof/Machine/Ox.lean ====
section
/-! DEFINITION. The OX group (R137). -/

namespace Sys2Proof.Machine

/-- The n doublewords of OXLD, in ascending order (R137). -/
def State.loadWords (s : State) (ea : Word) : Nat → Res (List Word)
  | 0 => .ok []
  | n + 1 => do
    let b ← s.loadBytes s.cur ea 8
    let r ← s.loadWords (ea + 8) n
    .ok (bytesWord b :: r)

/-- What the reading of `n` doublewords leaves in the RTB and the caches of the core (R205, R326). -/
def State.touchWords (s : State) (ea : Word) (n : Nat) : State :=
  (List.range n).foldl (fun t i => t.touch (ea + ofN (8 * i)) 8) s

/-- The checked stores of OXST, in ascending order (R137). -/
def State.storeWords (s : State) (ea : Word) : List Word → Res (List StoreReq)
  | [] => .ok []
  | w :: t => do
    let acc ← s.storeCheck s.cur ea 8
    let r ← s.storeWords (ea + 8) t
    .ok ({ va := ea, acc := acc, bs := (wordBytes w).map some, cost := 16 } :: r)

/-- OXLD: Loads n doublewords into ox registers. (R137) -/
def execOxld (d : BitVec 5) (a : BitVec 5) (n : BitVec 3) (s : State) : Out :=
  let ea := s.x a
  finish s (do
    check (decide (ea.toNat % 8 = 0)) Cause.misaligned ea
    let ws ← s.loadWords ea (n.toNat + 1)
    .ok (((s.touchWords ea (n.toNat + 1)).modMe fun t => (List.zipIdx ws).foldl (fun t w => t.setOx (d.toNat + w.2) w.1) t).adv 4))

/-- OXST: Stores n ox registers to memory. (R137) -/
def execOxst (a : BitVec 5) (b : BitVec 5) (n : BitVec 3) (s : State) : Out :=
  let ea := s.x b
  finishOut s (do
    check (decide (ea.toNat % 8 = 0)) Cause.misaligned ea
    let rs ← s.storeWords ea ((List.range (n.toNat + 1)).map fun i => s.ox (a.toNat + i))
    .ok (s.storeAll rs fun t => t.adv 4))

/-- OXSET: Copies an x register to an ox register. (R137) -/
def execOxset (d : BitVec 5) (a : BitVec 5) (s : State) : Out := .next ((s.modMe fun t => t.setOx d.toNat (s.x a)).adv 4)

/-- OXGET: Copies an ox register to an x register. (R137) -/
def execOxget (d : BitVec 5) (a : BitVec 5) (s : State) : Out := s.setReg d (s.ox a.toNat)


end Sys2Proof.Machine
end

