-- ==== Sys2Proof/Machine/Msg.lean ====
section
/-! DEFINITION. The MSG group: sending, reductions, the end of an activation (R272 to R277), and remote operations (R248 to R250). -/

namespace Sys2Proof.Machine

namespace State

/-- A request for a remote operation asks for a reply (R248). -/
def wantsReply (m : Msg) : Bool :=
  decide (m.kind = 3) && (decide (m.sub = 0x08) || decide (m.sub = 0x0A) || (decide (0x10 ≤ m.sub) && decide (m.word 2 ≠ 0)))

/-- The NI has accepted a message of the agent: an operation with a reply is outstanding from now on (R250). -/
def sent (s : State) (a : Agent) (m : Msg) (rd : BitVec 5) : State :=
  if wantsReply m then
    s.modThread a fun t =>
      { t with outst := t.outst ++ [{ tag := BitVec.ofNat 16 m.tag, rd := rd, addr := m.word 0, gen := t.gen }] }
  else s

/-- Send at issue (R274, R275): the message takes an entry, or the agent waits in RUN in the line for one, and for the pushes before it
(R231). -/
def sendNow (s : State) (m : Msg) (rd : BitVec 5 := 0) (len : Nat := 4) : Out :=
  let u := s.cur.unit
  let q := s.sendQ u
  if q.1.length < 4 ∧ q.2.isEmpty ∧ s.pushesPending s.cur = false then 
    let t := (s.placeSend u s.cur.key m).sent s.cur m rd
    .next (if wantsReply m then t.advAsk len else t.adv len)
  else
    .next ((s.setSendQ u q.1 (q.2 ++ [(s.cur.key, m)])).modMe fun t =>
      { t with wait := some { kind := .send, rd := rd, len := len } })

/-- A message that R24 holds until END on an activation with NR clear, and sends at issue otherwise. -/
def heldSend (s : State) (m : Msg) : Out :=
  s.held 80 (fun t => t.addJournal t.cur (.msg m) 80) (fun t => t.sendNow m) fun t => t.adv 4

/-- The checks of SEND and SENDL on the destination word (R274). -/
def checkDest (s : State) (w : Word) (long : Bool) : Res Unit := do
  check (decide (field w 6 27 = 0) && (long || (decide (field w 4 2 = 0) && decide (field w 0 4 ≤ 2))) &&
    decide (field w 0 4 ≤ 8)) Cause.metadataMalformed w
  check (decide (field w 4 2 = 0) || s.cur.isT7) Cause.privilege w

/-- The message of a destination word (R273, R274). -/
def destMsg (s : State) (w : Word) (payload : List Word) : Msg :=
  s.mkMsg s.cur (field w 48 16) (field w 40 8) (field w 33 7) 0 0 (payload.take (field w 0 4))

/-- The queue handle of a LAUNCH message. -/
def launchHandle (m : Msg) : Nat := field (m.word 4) 0 12

/-- The packet of a LAUNCH message with its resolved values, rank and arrival order (R310). -/
def packetOf (m : Msg) : QEntry :=
  { words := [m.word 4, m.word 5, m.word 6, m.word 7, m.word 0, m.word 1, m.word 2, m.word 3]
    prio := field (m.word 4) 34 6, deadline := m.word 5, order := m.qorder, poisoned := m.poisoned, host := decide (m.ctxLow = 5) }

/-- The packets that queue `h` has dispatched to core `c` and that hold a claim there (R309). -/
def claimedBy (s : State) (p h c : Nat) : List QEntry :=
  match Tbl.get none (s.getPart p).queues h with
  | some q => q.reports.filterMap fun r => if r.claimed ∧ r.core = c then r.pkt else none
  | none => []

/-- A LAUNCH message of core `c` with arrival order `n` in its queue is still on its way there or in its inbox, or pends. -/
def standsOn (s : State) (c : Nat) (m : Msg) (n : Nat) : Bool :=
  let same := fun (x : Msg) => decide (x.kind = 2) && decide (x.part = m.part) && decide (launchHandle x = launchHandle m) &&
    decide (x.qorder = n)
  ((s.getCore c).inbox.any fun x => same x.msg) || (s.mesh.any fun x => same x && decide (x.dst = c)) ||
  (s.getPart m.part).pend.any fun e => e.2.any same

/-- A LAUNCH message rebuilt from its image on core `c` has the arrival order that its queue knows it by: of like packets, one of
those that have left their places here (R280, R317). -/
def reordered (s : State) (c : Nat) (m : Msg) : Msg :=
  if m.kind ≠ 2 then m
  else
    let like := (s.claimedBy m.part (launchHandle m) c).filter fun e => decide (e.words = (packetOf m).words)
    match (like.filter fun e => !s.standsOn c m e.order) ++ like with
    | e :: _ => { m with qorder := e.order }
    | [] => m

/-- SENDL: the payload is read at issue, or with RPL an 80-byte image goes through the loop-back port (R274, R278). -/
def sendLong (s : State) (w ad : Word) : Out :=
  finishOut s (do
    s.checkDest w true
    let len := field w 0 4
    let rpl := bitAt w 5
    check (decide (ad.toNat % 8 = 0)) Cause.misaligned ad
    check (decide (ad.toNat + 8 * max len (if rpl then 10 else 0) ≤ 0x100000)) Cause.noRange ad
    if rpl then
      let b ← s.loadBytes s.cur ad 80
      let m := Msg.ofBytes b
      check (decide (m.dc = s.coordOf s.cur)) Cause.metadataMalformed m.hdr0
      let m1 : Msg :=
        { m with hdr0 := m.hdr0 ||| 0x80, src := 160 + s.cur.coreNo, dst := s.cur.coreNo, part := s.myPart, loop := true
                 last := bitAt w 4 }
      .ok (.next (({ s with mesh := s.mesh ++ [s.reordered s.cur.coreNo m1] } : State).adv 4))
    else
      let ws ← s.loadWords ad len
      .ok (s.heldSend (s.destMsg w ws)))

/-- A remote operation with its own function code: the address word is checked, then the request is held, sent, or sent as an
action that sets NR (R248 to R250, DEDUCED, log entry 8). -/
def remote (s : State) (a : BitVec 5) (code : Nat) (payload : List Word) (rd : BitVec 5) (mode : Nat) : Out :=
  let w := s.x a
  finishOut s (do
    check (decide (w.toNat / 2 ^ 27 = 0)) Cause.noRange w
    check (decide (w.toNat % 8 = 0)) Cause.misaligned w
    let m := fun (s : State) =>
      s.mkMsg s.cur ((s.me.opTag + 1).toNat) 0 (field w 20 7) 3 code (w :: payload)
    let tagged := fun (s1 : State) => s1.modMe fun t => { t with opTag := t.opTag + 1 }
    let go := fun (s1 : State) => (tagged s1).sendNow (m s1) rd
    .ok (match mode with
      | 0 => s.held 80 (fun t => (tagged t).addJournal t.cur (.msg (m t)) 80) go fun t => t.adv 4
      | 1 => go s
      | _ => s.act go))

/-- END (R27, R276): an activation begins its commit, an active message and a sequencer program end. -/
def endProgram (s : State) (e : Enc) : Out :=
  match s.cur with
  | .seq n q => .next (s.seqEnd n q (s.x 10) none)
  | .thr c tid =>
    if tid = 7 then illegalIssuer s e
    else if tid = 6 then .next ((s.accountRetire c 6 0).freeThread c 6)
    else .next (s.modMe fun t => { t with wait := some { kind := .ending none } })

/-- The issuer's core is a member of a tree (R377). -/
def inTree (s : State) (d t : Nat) : Bool :=
  let l := (s.lcidOf s.cur.coreNo).toNat
  let r := Tbl.get ({} : RedTree) (s.getDie d).trees t
  bitAt r.dw0 63 && decide (l / 64 = d) && bitAt r.members (l % 64)

end State

/-- SEND: Sends a message with up to two payload words from registers. (R274) -/
def execSendI (d : BitVec 5) (a : BitVec 5) (b : BitVec 5) (s : State) : Out :=
  let w := s.x a
  finishOut s (do
    s.checkDest w false
    .ok (s.heldSend (s.destMsg w [s.x b, s.x d])))

/-- SENDL: Sends a message whose payload is read from ULM. (R274) -/
def execSendl (a : BitVec 5) (b : BitVec 5) (s : State) : Out := s.sendLong (s.x a) (s.x b)

/-- SENDL_RPL: T7 replays an 80-byte message image into its own inbox through the loop-back port. (R278) -/
def execSendlRpl (a : BitVec 5) (b : BitVec 5) (s : State) : Out := s.sendLong (s.x a) (s.x b)

/-- REDUCE: Sends a contribution into an in-network reduction tree. (R277) -/
def execReduce (a : BitVec 5) (b : BitVec 5) (s : State) : Out :=
  let w := s.x a
  if s.cur.isSeq then illegalIssuer s (word.reduce a b)
  else
    finishOut s (do
      check (decide (w.toNat / 128 = 0)) Cause.metadataMalformed w
      check (s.inTree (field w 6 1) (field w 0 6)) Cause.permission w
      let op := field (Tbl.get ({} : RedTree) (s.getDie (field w 6 1)).trees (field w 0 6)).dw0 56 4
      let m := { s.mkMsg s.cur (field w 0 6) 0 (s.coordOf s.cur) 6 op [s.x b] with dst := 148 + s.cur.dieNo }
      .ok (s.act fun s1 => s1.sendNow m))

/-- DEFER: Commits and retires the activation and re-readies its message at a given time. (R276) -/
def execDefer (a : BitVec 5) (s : State) : Out :=
  if !s.cur.isAct then illegalIssuer s (word.defer a)
  else .next (s.modMe fun t => { t with wait := some { kind := .ending (some (s.x a)) } })

/-- END: Ends the activation, active message or sequencer program, starting the commit. (R27) -/
def execEndAct (s : State) : Out := s.endProgram (word.endAct)

/-- C_END: Compact END. (R57) -/
def execCEnd (s : State) : Out := s.endProgram (word.cEnd)

/-- RLD: Requests a remote ULM doubleword load served by T6. (R248) -/
def execRld (d : BitVec 5) (a : BitVec 5) (s : State) : Out := s.remote a 0x08 [] d 1

/-- RST: Requests a remote ULM doubleword store. (R248) -/
def execRst (a : BitVec 5) (b : BitVec 5) (s : State) : Out := s.remote a 0x09 [s.x b] 0 0

/-- RCAS: Requests a remote compare-and-swap. (R248) -/
def execRcas (d : BitVec 5) (a : BitVec 5) (b : BitVec 5) (s : State) : Out := s.remote a 0x0A [s.x b, s.x d] d 2

/-- RAMO: Requests a remote atomic operation. (R248) -/
def execRamo (d : BitVec 5) (a : BitVec 5) (b : BitVec 5) (p : BitVec 4) (s : State) : Out :=   if d = 0 then s.remote a (0x10 + p.toNat) [s.x b, 0] 0 0 else s.remote a (0x10 + p.toNat) [s.x b, 1] d 2


end Sys2Proof.Machine
end

