-- ==== Sys2Proof/Machine/Qreg.lean ====
section
/-! DEFINITION. The QREG group (R287). -/

namespace Sys2Proof.Machine

namespace State

/-- Queue register `q` of a core (unit below 128) or of a Set node (unit 128 + Set) (R287). -/
def qreg (s : State) (u q : Nat) : QReg :=
  if u < 128 then Tbl.get {} (s.getCore u).q q else Tbl.get {} (s.getSet (u - 128)).q q

/-- Changes a queue register. -/
def setQreg (s : State) (u q : Nat) (v : QReg) : State :=
  if u < 128 then s.modCore u fun k => { k with q := Tbl.put {} k.q q v }
  else s.modSet (u - 128) fun k => { k with q := Tbl.put {} k.q q v }

/-- An agent's code in a binding word: its thread number, or 0 MS, 1 MI, 2 copy sequencer. -/
def qCode : Agent → Nat
  | .thr _ t => t
  | .seq _ q => q

/-- The agent may put to (or get from) a queue register (R287). -/
def qMay (s : State) (a : Agent) (q : Nat) (put : Bool) : Bool :=
  let r := s.qreg a.unit q
  r.bound && decide ((if put then r.producer else r.consumer) = qCode a)

/-- Removes the head of a queue register for an agent whose instruction then completes: X[d] takes the value, or a poisoned
entry is dropped and QPOISON taken with EPC the next instruction (R287, R388). -/
def qTake (s : State) (a : Agent) (q : Nat) (d : BitVec 5) : State :=
  let u := a.unit
  let r := s.qreg u q
  match r.entries with
  | [] => s
  | (v, bad) :: rest =>
    let s1 := s.setQreg u q { r with entries := rest }
    if bad then
      let pc := (s1.thread a).pc + 4
      (s1.modThread a fun t => { t with pc := pc, wait := none, st := .run }).takeTrap a false Cause.qpoison 0 (ofN q) pc
    else s1.wake a fun t => t.setX d v

/-- A QPOISON that this agent would take has to wait for room in T7's queue (R390). -/
def qHeld (s : State) (a : Agent) (q : Nat) : Bool :=
  match (s.qreg a.unit q).entries with
  | (_, true) :: _ => decide (a.tid < 7) && a.isThr && s.t7Full a.coreNo
  | _ => false

end State

/-- QBIND: Empties and binds a queue register to producer and consumer. (R287) -/
def execQbind (a : BitVec 5) (b : BitVec 5) (s : State) : Out :=
  let w := s.x b
  if s.cur.isThr && !s.cur.isT7 then privileged s (word.qbind a b)
  else
    finishOut s (do
      check (decide (w &&& 0xFFFFFFFFFFFFFE88 = 0)) Cause.metadataMalformed w
      .ok (s.act fun s1 =>
        let r : QReg := if bitAt w 8 then { bound := true, producer := field w 0 3, consumer := field w 4 3 } else {}
        .next ((s1.setQreg s1.cur.unit a.toNat r).adv 4)))

/-- QPUT: Appends a value to a queue register, waiting while full. (R287) -/
def execQput (a : BitVec 5) (b : BitVec 5) (s : State) : Out :=
  let q := a.toNat
  let v := s.x b
  finishOut s (do
    check (s.qMay s.cur q true) Cause.permission (ofN q)
    .ok (s.actRelease fun s1 =>
      let u := s1.cur.unit
      let r := s1.qreg u q
      if 16 ≤ r.entries.length then .next (s1.modMe fun t => { t with wait := some { kind := .qput u q v } })
      else .next ((s1.setQreg u q { r with entries := r.entries ++ [(v, false)] }).adv 4)))

/-- QGET: Removes the head of a queue register, waiting while empty. (R287) -/
def execQget (d : BitVec 5) (a : BitVec 5) (s : State) : Out :=
  let q := a.toNat
  if s.cur.isT6 then illegalIssuer s (word.qget d a)
  else
    finishOut s (do
      check (s.qMay s.cur q false) Cause.permission (ofN q)
      .ok (s.act fun s1 =>
        if (s1.qreg s1.cur.unit q).entries.isEmpty then s1.blockOn { kind := .qget s1.cur.unit q, rd := d }
        else if s1.qHeld s1.cur q then .next s1
        else .next (s1.qTake s1.cur q d)))

/-- QTRY: Removes the head or returns the sentinel. (R287) -/
def execQtry (d : BitVec 5) (a : BitVec 5) (b : BitVec 5) (s : State) : Out :=
  let q := a.toNat
  finishOut s (do
    check (s.qMay s.cur q false) Cause.permission (ofN q)
    .ok (s.act fun s1 =>
      if (s1.qreg s1.cur.unit q).entries.isEmpty then .next ((s1.wx d (s.x b)).adv 4)
      else if s1.qHeld s1.cur q then .next s1
      else .next (s1.qTake s1.cur q d)))

/-- QLEN: Returns the number of entries held. (R287) -/
def execQlen (d : BitVec 5) (a : BitVec 5) (s : State) : Out := s.setReg d (ofN (s.qreg s.cur.unit a.toNat).entries.length)


end Sys2Proof.Machine
end

