-- ==== Sys2Proof/Machine/Cpy.lean ====
section
/-! DEFINITION. The copies of the CPY group (R252 to R261). -/

namespace Sys2Proof.Machine

/-- One end of a copy (R253): a local memory with the location of its byte 0 and its size, and the core if it is a ULM; the
issuer's ranges; or a core absent from the map. -/
inductive CopyPlace where
  | mem (base limit : Nat) (core : Option Nat)
  | ranges
  | absent
  deriving DecidableEq, Repr

namespace State

/-- The end of a copy that a place code and an address name (R253). -/
def copyPlace (s : State) (a : Agent) (place : Nat) (addr : Word) : CopyPlace :=
  if place = 0 then
    if addr.toNat < 0x100000 then .mem (a.localLoc 0) a.window (match a with
      | .thr c _ => some c
      | .seq _ _ => none)
    else .ranges
  else if place < 0x80 then .mem (seqLoc a.setNo (place - 0x40) 0) 0x20000 none
  else match s.physOf (place % 128) with
    | some c => .mem (ulmLoc c 0) 0x100000 (some c)
    | none => .absent

/-- A place code that R253 gives. -/
def placeValid (p : Nat) : Bool := decide (p = 0) || (decide (0x40 ≤ p) && decide (p ≤ 0x42)) || decide (0x80 ≤ p)

/-- Check 2 of R254. -/
def checkPlace (e : CopyPlace) (addr : Word) (len : Nat) : Res Unit :=
  let go := fun (limit : Nat) =>
    if 0 < len ∧ limit < addr.toNat + len then trapR Cause.noRange (ofN (max addr.toNat limit)) else .ok ()
  match e with
  | .mem _ limit _ => go limit
  | .absent => go 0x100000
  | .ranges => .ok ()

/-- The segments of an end of a copy; ranges are walked by check 3 of R254. -/
def placeSegs (s : State) (a : Agent) (e : CopyPlace) (addr : Word) (len : Nat) (k : Kind) : Res (List Seg) :=
  match e with
  | .mem base _ _ => .ok (if len = 0 then [] else [{ loc := base + addr.toNat, len := len, va := addr }])
  | .absent => .ok []
  | .ranges => s.rangeSegs a k 0 addr.toNat len (s.segFuel a)

/-- The NACK code with which a place refuses the copy: NOCORE, or WINDOW for another partition's ULM without an open window
(R210, R255). -/
def placeRefuses (s : State) (a : Agent) (e : CopyPlace) (addr len : Nat) (w : Bool) : Option Nat :=
  match e with
  | .absent => some 2
  | .mem _ _ (some c) =>
    if s.partOf (.thr c 0) = s.partOf a ∨ s.windowBytes c (s.partOf a) (!w) w addr len then none else some 3
  | .mem _ _ none => none
  | .ranges => none

/-- The interval of ULM is scratch: neither code area nor declared persistent region (R24, R30). -/
def scratchInterval (s : State) (c a n : Nat) : Bool :=
  ((List.range 16).all fun i => !(s.pregV c i && overlaps (s.pregBase c i) (s.pregSize c i) a n)) &&
  ((s.getCore c).code.all fun i => !overlaps i.1 (i.2 - i.1) a n) &&
  !(decide ((s.getCore c).htab ≠ 0) && overlaps (s.htabBase c) 7728 a n)

/-- The end of a copy is the ULM of the agent's own core. -/
def ownUlm (a : Agent) (e : CopyPlace) : Bool :=
  match e, a with
  | .mem _ _ (some c), .thr k _ => decide (c = k)
  | _, _ => false

/-- Every destination is scratch ULM of the agent's own core, also one that takes no byte (R261). -/
def copyIntoScratch (s : State) (a : Agent) (r : CopyReq) : Bool :=
  match a with
  | .seq _ _ => true
  | .thr c _ => !r.outside && r.dst.all fun d => d.all fun g => decide (locCore g.loc = some c) && s.scratchInterval c (g.loc - ulmLoc c 0) g.len

/-- The completion word ox3: its reserved fields, its index, and the grant of what it names (R253, R254, R365). -/
def checkCompletion (s : State) (a : Agent) (c3 : Word) : Res Unit := do
  let ck := field c3 62 2
  check (decide (field c3 42 20 = 0) && decide (field c3 20 12 = 0) &&
    !((decide (ck = 1) || decide (ck = 2)) && decide (field c3 13 7 ≠ 0)) &&
    !(decide (ck = 2) && decide (field c3 10 2 ≠ 0))) Cause.metadataMalformed c3
  check (!(decide (ck = 1) && !s.holdsDc (s.partOf a) (field c3 12 1) (field c3 0 12)) &&
    !(decide (ck = 2) && !s.holdsBar (s.partOf a) (field c3 12 1) (field c3 0 10))) Cause.permission c3

/-- The checks of CPY (R254). -/
def cpyCheck (s : State) : Res CopyReq := do
  let a := s.cur
  let c2 := s.ox 2
  let c3 := s.ox 3
  let spl := field c2 40 8
  let dpl := field c2 48 8
  let len := field c2 0 32
  let ck := field c3 62 2
  let slot := field c3 32 10
  let idx := field c3 0 20
  check (decide (field c2 56 8 = 0) && decide (field c2 32 7 = 0) && placeValid spl && placeValid dpl)
    Cause.metadataMalformed c2
  s.checkCompletion a c3
  let se := s.copyPlace a spl (s.ox 0)
  let de := s.copyPlace a dpl (if ck = 3 then 0 else s.ox 1)
  let hdr := match de with
    | .mem base limit _ => if idx % 64 = 0 ∧ idx + 64 ≤ limit then some (base + idx) else none
    | _ => none
  let hdrOk := hdr.any fun h => s.reelValid h && decide (slot < s.reelN h)
  let h := hdr.getD 0
  let daddr := if ck = 3 then (if hdrOk then ofN (s.reelBase h + slot * s.reelSize h) else 0) else s.ox 1
  let dlen := if ck = 3 ∧ !hdrOk then 0 else len
  checkPlace se (s.ox 0) len
  checkPlace de daddr dlen
  let src ← s.placeSegs a se (s.ox 0) len kindR
  let dst ← s.placeSegs a de daddr dlen kindW
  let r1 := s.placeRefuses a se (s.ox 0).toNat len false
  let r2 := s.placeRefuses a de daddr.toNat dlen true
  let r3 := if ck = 3 then s.placeRefuses a de idx 64 true else none
  let refused := (r1.or r2).or r3
  let slotOk := match de with
    | .absent => decide (idx % 64 = 0)
    | _ => hdrOk && decide (len ≤ s.reelSize h) && s.reelFree h slot
  check (decide (ck ≠ 3) || slotOk) Cause.reelMisuse c3
  .ok { src := src, dst := [dst], len := len, ck := ck, slot := slot, idx := idx, hdrLoc := h, ord := bitAt c2 39
        refused := refused, outside := !ownUlm a de }

/-- The checks of CPYM (R259). -/
def cpymCheck (s : State) : Res CopyReq := do
  let a := s.cur
  let c2 := s.ox 2
  let c3 := s.ox 3
  let spl := field c2 40 8
  let len := field c2 0 32
  let masks := (s.ox 5 ++ s.ox 4 : BitVec 128)
  check (decide (field c2 56 8 = 0) && decide (field c2 32 7 = 0) && placeValid spl && decide (field c2 48 8 = 0) &&
    decide (len ≤ 0x100000)) Cause.metadataMalformed c2
  check (decide (field c3 62 2 ≠ 3)) Cause.metadataMalformed c3
  s.checkCompletion a c3
  check (decide (field (s.ox 1) 20 44 = 0) && decide ((s.ox 1).toNat + len ≤ 0x100000)) Cause.metadataMalformed (s.ox 1)
  check (decide (masks ≠ 0)) Cause.metadataMalformed (s.ox 4)
  let se := s.copyPlace a spl (s.ox 0)
  checkPlace se (s.ox 0) len
  let src ← s.placeSegs a se (s.ox 0) len kindR
  let named := (List.range 128).filter fun i => bitAt masks i
  let ends := named.map fun l => s.copyPlace a (0x80 + l) (s.ox 1)
  let refusals := ends.filterMap fun e => s.placeRefuses a e (s.ox 1).toNat len true
  let dst := ends.filterMap fun e => match e with
    | .mem base _ _ => some (if len = 0 then [] else [({ loc := base + (s.ox 1).toNat, len := len, va := s.ox 1 } : Seg)])
    | _ => none
  .ok { src := src, dst := dst, len := len, ck := field c3 62 2, idx := field c3 0 20, ord := bitAt c2 39
        outside := ends.any fun e => !ownUlm a e
        refused := (s.placeRefuses a se (s.ox 0).toNat len false).or refusals.head? }

/-- Issues a checked copy: an action that sets NR unless it goes from scratch rules of R261. -/
def copyOut (s : State) (d : BitVec 5) (r : Res CopyReq) : Out :=
  finishOut s (do
    let q ← r
    waitFor (s.copyReady s.cur q)
    let go := fun (s1 : State) => let t := s1.issueCopy s1.cur q; Host.Outcome.next ((t.1.wx d t.2).adv 4)
    .ok (if q.ck = 0 ∧ s.copyIntoScratch s.cur q then go s else s.act go))

/-- T0 to T7 and the copy sequencer issue copies (R252). -/
def mayCopy (a : Agent) : Bool := a.isThr || a.isSeqNo 2

/-- The status word of a handle as the agent's engine gives it (R260). -/
def statusOf (s : State) (a : Agent) (h : Word) : Word :=
  if h &&& 0xFFFF000000000000 ≠ s.handleBase a then 5 <<< 61
  else match (s.ceOf a).live.find? fun c => decide (c.handle = h) with
    | some c => copyStatus c
    | none =>
      match (s.ceOf a).ended.find? fun e => decide (e.1 = h) with
      | some e => e.2
      | none => 5 <<< 61

/-- A copy that is moving bytes cannot reach its next destination boundary while the bridge retrains (R260, R437). -/
def cancelHeld (s : State) (a : Agent) (h : Word) : Bool :=
  h &&& 0xFFFF000000000000 = s.handleBase a &&
  ((s.ceOf a).live.find? fun c => decide (c.handle = h)).any fun c =>
    s.copyRuns c && (let r := toLine c 129 s; !atLine { c with prog := r.2 } && r.1.copyAtBridge { c with prog := r.2 })

/-- Cancels a live copy that is in flight or suspended: one that is moving bytes stops at its next destination boundary (R260). -/
def cancel (s : State) (a : Agent) (h : Word) : State :=
  if h &&& 0xFFFF000000000000 ≠ s.handleBase a then s
  else match (s.ceOf a).live.find? fun c => decide (c.handle = h) with
    | some c =>
      if c.state = .inFlight ∨ c.state = .suspended then
        let r := if s.copyRuns c then toLine c 129 s else (s, c.prog)
        r.1.endCopy a { c with prog := r.2 } .cancelled 0
      else s
    | none => s

end State

/-- CPY: Checks and issues a copy, returning its handle. (R253) -/
def execCpy (d : BitVec 5) (s : State) : Out := if !State.mayCopy s.cur then illegalIssuer s (word.cpy d) else s.copyOut d s.cpyCheck

/-- CPYM: Issues a copy of one source to the same ULM address of many cores. (R259) -/
def execCpym (d : BitVec 5) (s : State) : Out := if !State.mayCopy s.cur then illegalIssuer s (word.cpym d) else s.copyOut d s.cpymCheck

/-- CPYCAN: Cancels a copy and returns its prior status. (R260) -/
def execCpycan (d : BitVec 5) (a : BitVec 5) (s : State) : Out :=
if !State.mayCopy s.cur then illegalIssuer s (word.cpycan d a) else s.act fun s1 =>
    if s1.cancelHeld s1.cur (s1.x a) then .next s1 else
    .next (((s1.cancel s1.cur (s1.x a)).wx d (s1.statusOf s1.cur (s1.x a))).adv 4)

/-- CPYST: Returns a copy's status word. (R260) -/
def execCpyst (d : BitVec 5) (a : BitVec 5) (s : State) : Out := if !State.mayCopy s.cur then illegalIssuer s (word.cpyst d a) else s.setReg d (s.statusOf s.cur (s.x a))


end Sys2Proof.Machine
end

