-- ==== Sys2Proof/Machine/TaskQueues.lean ====
section
/-! DEFINITION. Task queues and stage input queues: the queue table, ranking, acceptance of launch packets and their removal
(R291 to R293, R303 to R308). -/

namespace Sys2Proof.Machine

/-- A ready entry ranks before another: priority, then deadline (none last), then arrival order (R308). -/
def QEntry.before (a b : QEntry) : Bool :=
  if a.prio ≠ b.prio then decide (b.prio < a.prio)
  else if a.deadline ≠ b.deadline then
    decide (b.deadline = 0) || (decide (a.deadline ≠ 0) && decide (a.deadline.toNat < b.deadline.toNat))
  else decide (a.order < b.order)

/-- The highest-ranked ready entry. -/
def topReady (l : List QEntry) : Option QEntry :=
  (l.filter fun e => !e.blocked).foldl (fun m e => match m with
    | none => some e
    | some x => if e.before x then some e else some x) none

/-- Depth of a queue. -/
def TaskQ.depth (q : TaskQ) : Nat := 2 ^ q.log2d

/-- The head of a queue by its discipline (R291): arrival order, or the ranking of a RANKED queue. -/
def TaskQ.head (q : TaskQ) : Option QEntry := if q.disc = 1 then topReady q.entries else q.entries.head?

/-- The queue without an entry. -/
def TaskQ.without (q : TaskQ) (e : QEntry) : TaskQ := { q with entries := q.entries.filter fun x => !decide (x.order = e.order) }



/-- No reserved bit is set in doublewords 0, 2 and 3 of a launch packet (R303, R304). -/
def launchWellFormed (w : List Word) : Bool :=
  decide (wordAt w 0 &&& 0x0000FF01FFFFF000 = 0) && decide (wordAt w 2 &&& 0x7FFFFFFFFFFFE000 = 0) &&
  decide (wordAt w 3 &&& 0x7FFFFFFFFFFFE000 = 0)

/-- QH of a launch packet. -/
def launchQh (w : List Word) : Nat := field (wordAt w 0) 0 12

namespace State

/-- The queue that handle `h` maps in partition `p`. -/
def taskQ (s : State) (p h : Nat) : Option TaskQ := Tbl.get none (s.getPart p).queues h

/-- Changes a queue-table entry. -/
def setTaskQ (s : State) (p h : Nat) (q : Option TaskQ) : State :=
  s.modPart p fun x => { x with queues := Tbl.put none x.queues h q }

/-- Appends an entry to a queue, in arrival order. -/
def appendTask (s : State) (p h : Nat) (q : TaskQ) (e : QEntry) : State :=
  s.setTaskQ p h (some { q with entries := q.entries ++ [{ e with order := q.order }], order := q.order + 1 })

/-- The partition holds the counters that a launch packet names (R365). -/
def launchGranted (s : State) (p : Nat) (w : Word) : Bool :=
  match launchCtr w with
  | some (d, i) => s.holdsDc p d i
  | none => true

/-- The die's queue manager (its CP) tells a region's fault domain of a lost entry: QPOISON or DEPFAULT with the queue handle
(R293, R307, R393). -/
def tellQueue (s : State) (p h : Nat) (q : TaskQ) (code : BitVec 8) : State :=
  s.sendFault (64 * q.die) p q.rcb true code [0, ofN h, 0, ofN (code.toNat * 2 ^ 56 + 64 * q.die * 2 ^ 41)]

/-- One packet fewer counts against the region's budget (R311). -/
def budgetLess (s : State) (p : Nat) (rcb : Word) : State :=
  let w := s.rcbWord p rcb 12
  s.putRcbWord p rcb 12 (setField w 0 16 (field w 0 16 - 1))

/-- CCTR of a packet that never ends takes a poisoned decrement by the queue manager of die `e` (R307, R311). -/
def poisonCctr (s : State) (e : Nat) (w : List Word) : State :=
  match launchCtr (wordAt w 3) with
  | some (d, i) => s.decDcOn e d i (1 <<< 63)
  | none => s

/-- A launch packet is lost: counted, told to the fault domain, its completion counter poisoned, its budget returned. -/
def loseLaunch (s : State) (p h : Nat) (q : TaskQ) (e : QEntry) (code : BitVec 8) : State :=
  let s1 := s.setTaskQ p h (some { q.without e with lost := q.lost + 1 })
  ((s1.tellQueue p h q code).poisonCctr q.die e.words).budgetLess p q.rcb

/-- The wait of a packet with WEN = 1: the counter is not 0, or is poisoned (R306, R307). -/
def launchBlocked (s : State) (w : List Word) : Bool :=
  match launchCtr (wordAt w 2) with
  | some (d, i) => (s.dc d i).poison || decide ((s.dc d i).value ≠ 0)
  | none => false

/-- The counter that a packet waits on is poisoned (R307). -/
def launchDoomed (s : State) (w : List Word) : Bool :=
  match launchCtr (wordAt w 2) with
  | some (d, i) => (s.dc d i).poison
  | none => false

/-- A packet that its counter lets go at once takes the counter's clock to the queue's die (R229, R306). -/
def launchAcquire (s : State) (e : Nat) (w : List Word) : State :=
  match launchCtr (wordAt w 2) with
  | some (d, i) => if s.launchBlocked w then s else s.mergeClock e (s.dc d i).clock
  | none => s

/-- Acceptance of a launch packet into the stage queue `h` of partition `p` (R304), or the NACK code that refuses it: 6 NOQUEUE,
7 QKIND, 5 QFULL. A region that is invalid refuses with QFULL and is counted (R340). -/
def acceptLaunch (s : State) (p h : Nat) (w : List Word) (host poisoned : Bool) : Except (Nat × State) State :=
  match s.taskQ p h with
  | none => .error (6, s)
  | some q =>
    if q.disc ≠ 1 then .error (7, s)
    else if !s.regionValid p q.rcb then .error (5, s.countDie q.die 4)
    else if s.effBudget p q.rcb ≤ field (s.rcbWord p q.rcb 12) 0 16 ∨ q.depth ≤ q.entries.length then .error (5, s)
    else
      let w0 := wordAt w 0
      let pr := min (if bitAt w0 33 then s.effPrio p q.rcb else field w0 34 6) (s.effCeil p q.rcb)
      let dl := if wordAt w 1 ≠ 0 then wordAt w 1
        else if s.effDl p q.rcb ≠ 0 then s.timebase + ofN (s.effDl p q.rcb) else 0
      let u := s.rcbWord p q.rcb 12
      let s1 := (s.launchAcquire q.die w).putRcbWord p q.rcb 12 (setField u 0 16 (field u 0 16 + 1))
      .ok (s1.appendTask p h q
        { words := w, prio := pr, deadline := dl, blocked := s.launchBlocked w, doomed := s.launchDoomed w, host := host
          poisoned := poisoned })

end State

end Sys2Proof.Machine
end

