-- ==== Sys2Proof/Machine/Deliver.lean ====
section
/-! DEFINITION. Delivery of messages by the destination NI (R21, R22, R268, R278, R282), packets that go back to their stage
queue (R280, R317), and the taking of messages onto threads (R23, R35, R36, R270, R309, R312). -/

namespace Sys2Proof.Machine

namespace State

/-! ### Handler entries as delivery sees them (R21, R22) -/

/-- State of handler entry `h` of core `c`. -/
def entryState (s : State) (c h : Nat) : HState := hState (s.handler0 c h)

/-- Messages for the entry become ready: BOUND with REMOTE clear (R35). -/
def entryReady (s : State) (c h : Nat) : Bool := decide (s.entryState c h = .bound) && !hRemote (s.handler0 c h)

/-- The region whose pending queue serves an UNBOUND entry: its RCB field, or the core region when that is 0 (R282). -/
def pendRegion (s : State) (c h : Nat) : Word :=
  if s.handlerRcb c h ≠ 0 then s.handlerRcb c h else s.coreRegion c

/-- The pending message is for handler `h` of core `c`. -/
def pendFor (c h : Nat) (m : Msg) : Bool := decide (m.dst = c) && decide (m.dh = h)

/-- The messages of the pending queue of a region: one that its RCB has set up anew since, with another doubleword 5 or through V = 0
(`emptyPends`), is empty (R268; DESIGN CHOICE, log entry 55). -/
def pendList (s : State) (p : Nat) (rcb : Word) : List Msg :=
  if Tbl.get 0 (s.getPart p).pendSet rcb.toNat = s.rcbWord p rcb 5 then Tbl.get [] (s.getPart p).pend rcb.toNat else []

/-- The pending queues of a partition. -/
def pendQueues (s : State) (p : Nat) : List (Word × List Msg) := (s.getPart p).pend.map fun e => (ofN e.1, s.pendList p (ofN e.1))

/-- Replaces a pending queue; its entries stand from PQBASE on, 80 bytes each, in arrival order (R268, R282, R339; DESIGN CHOICE, log
entry 55). Core `c` reaches them for the NI. -/
def setPend (s : State) (c p : Nat) (rcb : Word) (l : List Msg) : State :=
  let w := s.rcbWord p rcb 5
  let s1 := s.modPart p fun x => { x with pend := Tbl.put [] x.pend rcb.toNat l, pendSet := Tbl.put 0 x.pendSet rcb.toNat w }
  (List.zipIdx l).foldl (fun t e => t.putVirt c ((alignDown 128 w.toNat) + 80 * e.2) (wordsBytes ((bytesWords e.1.bytes ++ List.replicate 10 0).take 10))) s1

/-- Some message for handler `h` of core `c` still waits in a pending queue. -/
def somePending (s : State) (c h : Nat) : Bool := (s.pendQueues (s.partOf (.thr c 0))).any fun e => e.2.any (pendFor c h)

/-- Appends a message to the pending queue of a region (R282). -/
def pendPush (s : State) (p : Nat) (rcb : Word) (m : Msg) : State := s.setPend m.dst p rcb (s.pendList p rcb ++ [m])

/-- The pending queues without the first message for handler `h` of core `c`, and that message. Where messages for it stand in the
queues of several regions, the one of the region with the lowest address is taken (DESIGN CHOICE, log entry 92). -/
def pendPop (s : State) (c h : Nat) : Option (State × Msg) :=
  let p := s.partOf (.thr c 0)
  (s.pendQueues p).findSome? fun e =>
    (e.2.find? (pendFor c h)).map fun m => (s.setPend c p e.1 (e.2.eraseP (pendFor c h)), m)

/-! ### Placing a message (R278) -/

/-- The lowest free inbox slot of core `c`. -/
def freeInbox (s : State) (c : Nat) : Option Nat :=
  (List.range (s.poolSlots c)).find? fun i => !(s.getCore c).inbox.any fun m => decide (m.slot = i)

/-- Writes a message into inbox slot `i`; it is ready at once when its entry is (R35). -/
def putInbox (s : State) (c i : Nat) (m : Msg) : State :=
  let s1 := s.putUlm c (s.slotAddr c i) m.bytes
  let now := if s.entryReady c m.dh then s.timebase else 0
  s1.modCore c fun k =>
    { k with
      order := k.order + 1
      inbox := k.inbox ++ [{ slot := i, msg := { m with arrival := s.timebase }, order := k.order, arrival := s.timebase, readySince := now }] }

/-- T7's queue of core `c` holds an overflow item. -/
def overflowQueued (s : State) (c : Nat) : Bool := (s.getCore c).t7q.any (·.overflow)

/-- A message that belongs into the inbox: the free slot with the lowest address, or T7 in the overflow state; none while its
place has no room (R278). -/
def intoInbox (s : State) (c : Nat) (m : Msg) : Option State :=
  let toT7 := fun (s : State) => if s.t7Full c then none else some (s.appendMsgItem c 1 m true)
  if m.loop then
    (s.freeInbox c).map fun i =>
      let s1 := (s.putInbox c i m).countCore c 0x12
      if m.last && !s.overflowQueued c then s1.modCore c fun k => { k with overflow := false } else s1
  else if (s.getCore c).overflow then toT7 s
  else match s.freeInbox c with
    | some i => some (s.putInbox c i m)
    | none => toT7 (s.modCore c fun k => { k with overflow := true })

/-- A message for T6's arrival queue (R268). -/
def intoT6 (s : State) (c : Nat) (m : Msg) : Option State :=
  if 16 ≤ (s.getCore c).t6q.length then none
  else some (s.modCore c fun k => { k with t6q := k.t6q ++ [{ m with arrival := s.timebase }] })

/-- A message for an UNBOUND entry: its region's pending queue, or PENDFULL (R282). -/
def intoPending (s : State) (c : Nat) (m : Msg) : State :=
  let p := s.partOf (.thr c 0)
  let r := s.pendRegion c m.dh
  match s.pendDepth p r with
  | none => s.returnMsg m 4
  | some n => if n ≤ (s.pendList p r).length then s.returnMsg m 4 else s.pendPush p r m

/-- Partition `p` is another one than core `c`'s, and no open window of the core admits this message (R210, R337). -/
def windowRefuses (s : State) (c : Nat) (m : Msg) : Bool :=
  if m.loop ∨ m.part = s.partOf (.thr c 0) then false
  else if m.kind = 3 then
    let code := m.sub
    let rd := decide (code ≠ 9)
    let wr := decide (code ≠ 8)
    !s.windowBytes c m.part rd wr (field (m.word 0) 0 20) 8
  else if m.kind = 7 ∨ m.kind = 8 then true
  else !s.windowMsg c m.part m.dh

/-- Delivery of a message that its entry receives, by the entry's state; `behind` when earlier messages for it still wait in a
pending queue (R21, R22, R278). -/
def byEntry (s : State) (c : Nat) (m : Msg) (behind : Bool) : Option State :=
  match s.entryState c m.dh with
  | .exited => some (s.returnMsg m 1)
  | .unbound => some (s.intoPending c m)
  | .bound =>
    if behind then none
    else if hRemote (s.handler0 c m.dh) then s.intoT6 c m
    else s.intoInbox c m

/-- The item that a FAULT or SERVICE message raises on T7: a SERVICE message that names a thread raises a pre-emption request of SUB 2
(R391, R394; DESIGN CHOICE, log entry 66). -/
def serviceItem (s : State) (c : Nat) (m : Msg) : State :=
  let i := Config.serviceThread ((List.range 8).map m.word)
  let t := s.thread (.thr c i)
  if m.kind = 8 ∧ i < 6 ∧ m.poisoned = false then s.appendItem c Cause.preempt 2 3 (some i) t.actid t.epc t.actid t.actst
  else s.appendMsgItem c 5 m false

/-- A SERVICE message names a thread at whose boundary a trap is due, which is taken first (R410). -/
def trapFirst (s : State) (c : Nat) (m : Msg) : Bool :=
  let i := Config.serviceThread ((List.range 8).map m.word)
  decide (m.kind = 8) && decide (i < 6) && !m.poisoned && s.trapReady (.thr c i)

/-- The place of an arriving message of core `c` (not a reply, not a return), or none while that has no room (R278). -/
def deliver (s : State) (c : Nat) (m : Msg) : Option State :=
  if 9 ≤ m.kind ∨ m.kind = 5 then some (s.countCore c 0x16)
  else if m.refused then some (s.returnMsg m 3)
  else if m.kind = 3 then s.intoT6 c m
  else if m.kind = 7 ∨ m.kind = 8 then (if s.t7Full c || s.trapFirst c m then none else some (s.serviceItem c m))
  else s.byEntry c m (s.somePending c m.dh)

/-! ### The network's order (R16, R278) -/

/-- Number of messages that an input buffer of a channel holds (R268). -/
def bufferSize (ch : Nat) : Nat := if ch = 0 then 8 else 4

/-- The messages that stand in the input buffer of a unit and channel, in arrival order. -/
def inBuffer (s : State) (u ch : Nat) : List Msg := s.mesh.filter fun m => m.received && decide (m.dst = u) && decide (m.channel = ch)

/-- A message of the mesh that has not been received comes behind an earlier one of its source, destination and channel. -/
def behindInMesh (s : State) (i : Nat) (m : Msg) : Bool :=
  (s.mesh.take i).any fun e => !e.received && decide (e.src = m.src) && decide (e.dst = m.dst) && decide (e.channel = m.channel)

/-- The mesh without its entry `i`. -/
def dropMesh (s : State) (i : Nat) : State := { s with mesh := s.mesh.eraseIdx i }

/-- A message between dies while the bridge retrains, which holds every channel (R437). -/
def heldAtBridge (s : State) (m : Msg) : Bool := s.retraining && decide (unitDie m.src ≠ unitDie m.dst)

/-- Entry `i` of the mesh can move into its unit's input buffer: the first of its source and channel, with room (R16, R278). -/
def canReceive (s : State) (i : Nat) (m : Msg) : Bool :=
  !m.received && !s.behindInMesh i m && !s.heldAtBridge m &&
  decide ((s.inBuffer m.dst m.channel).length < bufferSize m.channel)

/-- The message enters the input buffer behind those that are there. Its clock is merged into the die's on arrival (R231). On a core it
has a place in the order of arrival, and the windows judge its head flit, by what they hold now (R33, R88, R210); one that they do
not refuse counts as RECEIVED (R383). -/
def receive (s : State) (i : Nat) (m : Msg) : State :=
  let s1 := s.mergeClock (unitDie m.dst) m.clock
  let bad := decide (m.dst < 128) && !m.nack && decide (m.kind ≠ 4) && s.windowRefuses m.dst m
  let n := if m.dst < 128 then (s.getCore m.dst).order else 0
  let s2 : State := { s1 with mesh := s1.mesh.eraseIdx i ++ [{ m with received := true, clock := [], arrNo := n, refused := bad }] }
  let s3 := if m.dst < 128 then s2.modCore m.dst fun k => { k with order := k.order + 1 } else s2
  if m.dst < 128 ∧ !m.loop ∧ !bad then s3.countCore m.dst 0x11 else s3

/-- Message `i` of the mesh is the first of its input buffer. -/
def firstInBuffer (s : State) (i : Nat) (m : Msg) : Bool :=
  m.received && !((s.mesh.take i).any fun e => e.received && decide (e.dst = m.dst) && decide (e.channel = m.channel))

/-- An arrival of message `i` at a unit: received when it is not yet, and then, when it is the first of its buffer, placed by
`f`, unless that has no room. -/
def arriveBy (s : State) (i : Nat) (f : State → Msg → Option State) : State :=
  match s.mesh[i]? with
  | none => s
  | some m =>
    let r : Option (State × Nat) :=
      if m.received then some (s, i)
      else if s.canReceive i m then some (s.receive i m, s.mesh.length - 1)
      else none
    match r with
    | none => s
    | some (s1, j) =>
      match s1.mesh[j]? with
      | none => s1
      | some m1 =>
        if s1.firstInBuffer j m1 then (f (s1.dropMesh j) m1).getD s1 else s1

/-- The NI of core `c` delivers nothing: a stop holds it between messages, or its reset runs (R403, R408). -/
def niHeld (s : State) (c : Nat) : Bool := (s.getCore c).stop.isSome || (s.getCore c).resetting

/-! ### Launch packets that go back (R280, R317) -/



/-- The packet of a LAUNCH message goes back to its stage queue (R280, R317). -/
def packetBack (s : State) (m : Msg) : State :=
  match s.taskQ m.part (launchHandle m) with
  | some q => s.setTaskQ m.part (launchHandle m) (some { q with entries := q.entries ++ [packetOf m] })
  | none => s

/-- The claim of core `c` in a queue by the packet with arrival order `n` ends (R309). -/
def endClaim (s : State) (p h c n : Nat) : State :=
  match s.taskQ p h with
  | some q =>
    let held := fun (r : Report) => r.claimed && decide (r.core = c)
    let exact := fun (r : Report) => held r && r.pkt.any fun e => decide (e.order = n)
    s.setTaskQ p h (some { q with reports := if q.reports.any exact then q.reports.eraseP exact else q.reports.eraseP held })
  | none => s

/-- Reports of thread `tid` of core `c` that no dispatch has claimed are no longer true once it is taken. -/
def dropReports (s : State) (c tid : Nat) : State :=
  let p := s.partOf (.thr c 0)
  if (s.getPart p).queues.all fun e => match e.2 with
    | some q => q.reports.isEmpty
    | none => true
  then s
  else s.modPart p fun x =>
    { x with queues := x.queues.map fun e => (e.1, e.2.map fun q =>
        { q with reports := q.reports.filter fun r => r.claimed || !(decide (r.core = c) && decide (r.tid = tid)) }) }

/-! ### Deadlines (R312) -/

/-- The deadline of the activation on thread `tid` of core `c` has passed: MISS is set, the region counts it, and its fault
domain is told when miss events are on; a continuation after DEFER counts no second miss. -/
def miss (s : State) (c tid : Nat) : State :=
  let a : Agent := .thr c tid
  let t := s.thread a
  let p := s.partOf a
  let s1 := s.modThread a fun t => { t with actst := t.actst ||| 0x20, missCounted := true }
  if t.missCounted then s1
  else
    let s2 := s1.putRcbWord p t.rcb 11 (s1.rcbWord p t.rcb 11 + 1)
    if s.effMiss p t.rcb = 1 then
      s2.sendFault c p t.rcb false Cause.deadlineMiss
        [t.actid, t.deadline, 0, s2.faultWord3 c tid t.rtk t.hid Cause.deadlineMiss 0]
    else s2

/-- The activation's deadline has passed and MISS is clear. -/
def missDue (s : State) (t : Thread) : Bool :=
  t.launch && decide (t.deadline ≠ 0) && decide (t.deadline.toNat ≤ s.timebase.toNat) && !bitAt t.actst 5

/-! ### Taking a message (R23, R35, R36) -/

/-- The first generation after `g` that no outstanding operation of the thread, or of the context it hosts, has; none when there
is no such value (R270). -/
def freeGen (t : Thread) : Option (BitVec 13) :=
  let busy := t.outst.map (·.gen) ++ (match t.hosted with
    | some h => h.gen :: h.outst.map (·.gen)
    | none => [])
  ((List.range (busy.length + 1)).map fun i => t.gen + BitVec.ofNat 13 (i + 1)).find? fun g => !busy.contains g

/-- Thread `tid` of core `c` is named by a RESIDENT entry other than `h`, and serves only that (R31). -/
def reservedFor (s : State) (c tid h : Nat) : Bool :=
  (List.range 256).any fun i =>
    decide (i ≠ h) && hResident (s.handler0 c i) && decide (s.entryState c i = .bound) && decide (hMask (s.handler0 c i) = 2 ^ tid)

/-- Thread `tid` counts as FREE for the taking of a message of handler `h` (R19, R31, R36, R398). -/
def threadFree (s : State) (c tid h : Nat) : Bool :=
  let t := s.thread (.thr c tid)
  (freeGen t).isSome &&
  match t.st with
  | .free => !s.reservedFor c tid h
  | .saved => !t.resuming && !t.restoring && !s.reservedFor c tid h
  | .wait => t.resident && decide (t.hid = h) && t.wait.any (fun w => decide (w.kind = .resident))
  | .run => false
  | .stopped => false
  | .off => false

/-- The lowest-numbered such thread of a mask. -/
def lowestFree (s : State) (c mask h : Nat) : Option Nat :=
  (List.range 6).find? fun i => mask.testBit i && s.threadFree c i h

/-- What a core can take: the rank of R35 (a retake stands at the head of its queue), the thread it goes to, and the message or
the migrated context. -/
structure Cand where
  prio : Nat
  deadline : Word
  again : Bool
  order : Nat
  tid : Nat
  src : InMsg ⊕ Nat
  deriving DecidableEq, Repr

/-- A candidate ranks before another (R35). -/
def Cand.before (a b : Cand) : Bool :=
  if a.prio ≠ b.prio then decide (b.prio < a.prio)
  else if a.deadline ≠ b.deadline then
    decide (b.deadline = 0) || (decide (a.deadline ≠ 0) && decide (a.deadline.toNat < b.deadline.toNat))
  else if a.again ≠ b.again then a.again
  else decide (a.order < b.order)

/-- Priority of an inbox message: a launch packet's, or its entry's (R35). -/
def msgPrio (s : State) (c : Nat) (m : Msg) : Nat := if m.kind = 2 then field (m.word 4) 34 6 else hPrio (s.handler0 c m.dh)

/-- Deadline of an inbox message: a launch packet's, or none. -/
def msgDeadline (m : Msg) : Word := if m.kind = 2 then m.word 5 else 0

/-- The message of the inbox is ready (R22, R35). -/
def msgReady (s : State) (c : Nat) (m : InMsg) : Bool := !m.taken && m.notBefore.isNone && s.entryReady c m.msg.dh

/-- What core `c` can take now, each with the thread it would go to. -/
def candidates (s : State) (c : Nat) : List Cand :=
  ((s.getCore c).inbox.filterMap fun m =>
    if s.msgReady c m then
      (s.lowestFree c (hMask (s.handler0 c m.msg.dh)) m.msg.dh).map fun i =>
        { prio := s.msgPrio c m.msg, deadline := msgDeadline m.msg, again := m.retake.isSome, order := m.order, tid := i, src := .inl m }
    else none) ++
  (List.zipIdx s.migrants).filterMap fun e =>
    if e.1.arrived ∧ e.1.dest = c then
      (s.lowestFree c 63 256).map fun i =>
        { prio := e.1.th.prio, deadline := e.1.th.deadline, again := false, order := e.1.order, tid := i, src := .inr e.2 }
    else none

/-- The highest-ranked candidate (R36). -/
def bestCand (s : State) (c : Nat) : Option Cand :=
  (s.candidates c).foldl (fun m x => match m with
    | none => some x
    | some y => if x.before y then some x else some y) none

/-- The core takes messages now: it serves, and no stop, reset or scan holds it (R136, R403, R408). -/
def takes (s : State) (c : Nat) : Bool :=
  s.coreServes c && (s.getCore c).stop.isNone && !(s.getCore c).resetting && (s.getCore c).scan.isNone

/-- The registers at entry: those of the resident program's last commit, or zero; T6 keeps its system registers (R23, R31, R76, R84). -/
def entryRegs (t : Thread) (tid h : Nat) (resident : Bool) : Thread :=
  if tid = 6 then
    { fcsr := t.fcsr, vcsr := t.vcsr, tcause := t.tcause, tval := t.tval, epc := t.epc, utvec := t.utvec, utepc := t.utepc }
  else
  match t.image with
  | some i =>
    if resident ∧ i.hid = h then
      { x := i.x, f := i.f, v := i.v, p := i.p, ox := i.ox, fcsr := i.fcsr, vcsr := i.vcsr, tcause := i.tcause, tval := i.tval
        epc := i.epc, utvec := i.utvec, utepc := i.utepc }
    else {}
  | none => {}

/-- The entry state of R23 on thread `tid` of core `c` for a message at ULM address `copy`; T6 takes an active message in the
same way (R32). -/
def enterThread (s : State) (c tid : Nat) (m : Msg) (copy : Nat) : State :=
  let a : Agent := .thr c tid
  let w := s.handler0 c m.dh
  let t := s.thread a
  let res := hResident w && decide (tid < 6)
  let preg := hPreg w
  let decl := s.pregV c preg
  let entry := hEntry w
  let k := s.getCore c
  let r0 := entryRegs t tid m.dh res
  let r1 := (((((((r0.setX 1 0).setX 2 (s.stackTop c tid)).setX 3 (if decl then ofN (s.pregBase c preg) else 0)).setX 4 (ofN copy)).setX 5
    (m.word 0)).setX 6 (m.word 1)).setX 7 m.hdr0)
  let n : Thread :=
    { r1 with
      pc := entry &&& ~~~1
      actid := ofN (s.coordOf a * 2 ^ 57) + zext64 (k.actCount + 1)
      actst := 0, msghdr := m.hdr1 ++ m.hdr0, st := .run, wait := none
      gen := (freeGen t).getD (t.gen + 1), hid := m.dh, prio := hPrio w, preg := preg, pregDecl := decl, rcb := s.handlerRcb c m.dh
      entryAddr := entry, resident := res, image := t.image, taken := s.timebase, outst := t.outst, hosted := t.hosted
      fetchEpoch := k.epoch, opTag := t.opTag, lastCopy := t.lastCopy, seen := t.seen, rel := t.rel
      pendTrap := if entry.toNat % 4 = 0 then [] else [{ code := Cause.misaligned, tval := entry, imp := false }] }
  (s.modCore c fun k => { k with actCount := k.actCount + 1 }).setThread a n

/-- Takes an inbox message onto thread `tid`: an acquire of what its clock brought at its arrival (R23, R29, R214, R229, R269). -/
def takeMsg (s : State) (c : Nat) (im : InMsg) (tid : Nat) : State :=
  let a : Agent := .thr c tid
  let m := im.msg
  let p := s.partOf a
  let launch := decide (m.kind = 2)
  let old := (s.getCore c).actCount
  let s1 := ((s.acquire a []).dropReports c tid).enterThread c tid m (s.slotAddr c im.slot)
  let rcb := if launch then (match s.taskQ p (launchHandle m) with
    | some q => q.rcb
    | none => 0) else s.handlerRcb c m.dh
  let preg := hPreg (s.handler0 c m.dh)
  let s2 := s1.modThread a fun t =>
    { t with
      prio := s.msgPrio c m, deadline := msgDeadline m, rcb := rcb, launch := launch
      cctr := if launch then (launchCtr (m.word 7)).map fun e => e.1 * 4096 + e.2 else none
      actid := (match im.retake with
        | some r => r.1
        | none => t.actid)
      actst := (match im.retake with
        | some r => ofN r.2
        | none => 0)
      slot := some im.slot, arrival := im.arrival, missCounted := im.missCounted
      wdLeft := s.effWatchdog p rcb
      pendTrap := t.pendTrap ++
        (if m.poisoned then [{ code := Cause.uncorrectable, sub := 3, tval := ofN (s.slotAddr c im.slot) }] else [])
      st := if t.pregDecl ∧ s.pregState c preg ≠ 0 then .wait else .run
      wait := if t.pregDecl ∧ s.pregState c preg ≠ 0 then some { kind := .residency preg false } else none }
  let s3 := s2.modCore c fun k =>
    { k with
      actCount := if im.retake.isSome then old else k.actCount
      inbox := k.inbox.map fun x => if x.slot = im.slot then { x with taken := true, retake := none } else x }
  let s4 := (if launch then s3.endClaim p (launchHandle m) c m.qorder else s3).countEvent c tid 0x06
  if s4.missDue (s4.thread a) then s4.miss c tid else s4

/-- Places a migrated context on thread `tid` of its new core (R38, R135). -/
def takeMigrant (s : State) (c i tid : Nat) : State :=
  match s.migrants[i]? with
  | none => s
  | some g =>
    let a : Agent := .thr c tid
    let t := s.thread a
    let gen := (freeGen t).getD (t.gen + 1)
    let th := g.th
    let decl := s.pregV c th.preg
    let away := decl && decide (s.pregState c th.preg ≠ 0)
    let n0 := (th.setX 2 (s.stackTop c tid)).setX 3 (if decl then ofN (s.pregBase c th.preg) else 0)
    let n : Thread :=
      { n0 with
        gen := gen, outst := t.outst ++ th.outst.map fun o => { o with gen := gen }
        hosted := t.hosted, image := t.image, fetchEpoch := (s.getCore c).epoch, fbuf := none, fbufStale := false
        pregDecl := decl, st := if away then .wait else .run
        wait := if away then some { kind := .residency th.preg true } else none
        pendTrap := th.pendTrap ++ (if th.pregDecl && !decl then [{ code := Cause.permission, tval := ofN th.preg, imp := false }] else []) }
    let s1 : State :=
      { s with
        migrants := s.migrants.eraseIdx i
        forwards := s.forwards.map fun f =>
          if f.core = g.src ∧ f.tid = g.srcTid ∧ f.gen = th.gen ∧ f.dest = c then { f with destTid := tid, destGen := gen } else f }
    (s1.dropReports c tid).setThread a n

end State

end Sys2Proof.Machine
end

