-- ==== Sys2Proof/Machine/Reduce.lean ====
section
/-! DEFINITION. In-network reduction (R108, R376 to R378): the routers on the paths of the members to the root, the inputs of a
round, and its result. A router is named by its place on the die, 9·column + row (R14). -/

namespace Sys2Proof.Machine

/-- The router of physical core `c`: column s is that of Set s, rows 0 to 3 hold its cores 0 to 3, rows 5 to 8 its cores 4 to 7 (R14). -/
def coreRouter (c : Nat) : Nat := 9 * (c / 8 % 8) + (if c % 8 < 4 then c % 8 else c % 8 + 1)

/-- The edge agents of a die (R14): an HBM4E controller by its channel, a bridge port by its row. -/
inductive EdgeAgent where
  | securityProcessor
  | pciExpress
  | traceSram
  | ingress
  | cp
  | counterSram
  | continuityEngine
  | walker
  | hbm (channel : Nat)
  | bridge (row : Nat)
  deriving DecidableEq, Repr

/-- The router that carries an edge agent, on the port that faces out of the mesh (R14). -/
def EdgeAgent.router : EdgeAgent → Nat
  | .securityProcessor => 0
  | .pciExpress => 1
  | .traceSram => 2
  | .ingress => 3
  | .cp => 4
  | .counterSram => 5
  | .continuityEngine => 6
  | .walker => 7
  | .hbm c => 9 * c
  | .bridge r => 63 + r

/-- That port: 0 north, 1 east, 3 west (R14). -/
def EdgeAgent.port : EdgeAgent → Nat
  | .hbm _ => 0
  | .bridge _ => 1
  | .securityProcessor => 3
  | .pciExpress => 3
  | .traceSram => 3
  | .ingress => 3
  | .cp => 3
  | .counterSram => 3
  | .continuityEngine => 3
  | .walker => 3

/-- The security processor and the PCI Express controller stand on die 0 alone (R14). -/
def EdgeAgent.onDie (e : EdgeAgent) (d : Nat) : Bool := decide (d = 0) || decide (e ≠ .securityProcessor ∧ e ≠ .pciExpress)

/-- The router of a unit of the network (R14): a core's, for its loop-back port too; a Set node's in row 4 of its column; the place of
an edge agent; and for the root of a reduction tree, whose router is `root`, that one (R377). -/
def unitRouter (root u : Nat) : Nat :=
  if u < 128 then coreRouter u
  else if u < 144 then 9 * (u % 8) + 4
  else if u < 146 then EdgeAgent.cp.router
  else if u < 148 then EdgeAgent.ingress.router
  else if u < 160 then root
  else coreRouter (u - 160)

/-- The router after `r` on the dimension-ordered path to `root`: along X, then along Y (R16). -/
def nextRouter (root r : Nat) : Nat :=
  if r / 9 < root / 9 then r + 9
  else if root / 9 < r / 9 then r - 9
  else if r % 9 < root % 9 then r + 1
  else if root % 9 < r % 9 then r - 1
  else r

/-- The routers from `r` to `root`. -/
def pathTo (root : Nat) : Nat → Nat → List Nat
  | 0, r => [r]
  | n + 1, r => if r = root then [r] else r :: pathTo root n (nextRouter root r)

/-- The port at which router `x` takes what its neighbour `y` sends: 0 north (the lower row), 1 east, 2 south, 3 west (the lower
column) (R108, R377). -/
def portFrom (x y : Nat) : Nat :=
  if y / 9 < x / 9 then 3 else if x / 9 < y / 9 then 1 else if y % 9 < x % 9 then 0 else 2

/-- The routers that a message from unit `a` to unit `b` passes, `root` being that of the tree where one of them is a tree's root: one to the other die goes along X to column 7, crosses the bridge in
its row, and goes on from there (R16). Routers of die 1 are numbered from 72 on. -/
def unitPath (root a b : Nat) : List Nat :=
  let x := unitRouter root a
  let y := unitRouter root b
  let on := fun (d : Nat) (l : List Nat) => l.map (72 * d + ·)
  if State.unitDie a = State.unitDie b then on (State.unitDie a) (pathTo y 15 x)
  else on (State.unitDie a) (pathTo (EdgeAgent.bridge (x % 9)).router 15 x) ++ on (State.unitDie b) (pathTo y 15 (EdgeAgent.bridge (x % 9)).router)

/-- One combination of R377: the new value and the flags raised. -/
def reduceOp (op : Nat) (r x : Word) : Word × BitVec 5 :=
  let fl := fun (p : Nat × FFlags) => (ofN p.1, p.2.extractLsb' 0 5)
  let lo := fun (w : Word) => w.toNat % 2 ^ 32
  match op with
  | 0 => (r + x, 0)
  | 1 => fl (fp32.add 0 (lo r) (lo x))
  | 2 => (if x.slt r then x else r, 0)
  | 3 => (if r.slt x then x else r, 0)
  | 4 => (if x.ult r then x else r, 0)
  | 5 => (if r.ult x then x else r, 0)
  | 6 => (r &&& x, 0)
  | 7 => (r ||| x, 0)
  | 8 => (r ^^^ x, 0)
  | 9 => fl (fp32.minMax false (lo r) (lo x))
  | _ => fl (fp32.minMax true (lo r) (lo x))

/-- An FP operation reads only the low half of a contribution. -/
def reduceIn (op : Nat) (v : Word) : Word := if op = 1 ∨ op = 9 ∨ op = 10 then v &&& 0xFFFFFFFF else v

/-- Operation, result handler, tag, owning partition and root of a tree (R376). -/
def RedTree.op (t : RedTree) : Nat := field t.dw0 56 4
def RedTree.handler (t : RedTree) : Nat := field t.dw0 41 8
def RedTree.tag (t : RedTree) : Nat := field t.dw0 25 16
def RedTree.owner (t : RedTree) : Nat := field t.dw0 60 3
def RedTree.root (t : RedTree) : Nat := field t.dw0 49 7

/-- The input at a router's port, if present. Inputs are keyed 8·router + port; port 4 is the local one. -/
def RedTree.input (t : RedTree) (r p : Nat) : Option (Word × BitVec 5 × Bool) :=
  (t.inputs.find? fun e => decide (e.1 = 8 * r + p)).map (·.2)

namespace State

/-- Tree `t` of die `d`. -/
def redTree (s : State) (d t : Nat) : RedTree := Tbl.get {} (s.getDie d).trees t

/-- Changes a tree. -/
def setRedTree (s : State) (d t : Nat) (r : RedTree) : State := s.modDie d fun x => { x with trees := Tbl.put {} x.trees t r }

/-- The router of logical core `l`: that of the physical core which its map entry names (R342). -/
def routerOf (s : State) (l : Nat) : Nat := coreRouter (field (s.lcmEntry l) 0 7)

/-- The routers that a message passes; the result of a reduction, and its return, concern the tree whose root is the core of DC (R16,
R378). -/
def routeTaken (s : State) (m : Msg) : List Nat := unitPath (s.routerOf m.dc) m.src m.dst

/-- The routers of a tree's members. -/
def memberRouters (s : State) (d : Nat) (t : RedTree) : List Nat :=
  ((List.range 64).filter fun i => bitAt t.members i).map fun i => s.routerOf (64 * d + i)

/-- The routers on the union of the members' paths. -/
def treeRouters (s : State) (d : Nat) (t : RedTree) : List Nat :=
  ((s.memberRouters d t).flatMap fun r => pathTo (s.routerOf t.root) 15 r).eraseDups

/-- The ports at which router `x` expects an input in each round, in the order north, east, south, west, local (R108, R377). -/
def expectedPorts (s : State) (d : Nat) (t : RedTree) (x : Nat) : List Nat :=
  let root := s.routerOf t.root
  let from' := ((s.treeRouters d t).filter fun y => decide (y ≠ x) && decide (y ≠ root) && decide (nextRouter root y = x)).map (portFrom x)
  (List.range 5).filter fun p => if p = 4 then (s.memberRouters d t).contains x else from'.contains p

/-- A contribution at the local port of its router: it waits while that port still holds the one before (R377). -/
def contribute (s : State) (d t r : Nat) (v : Word) (bad : Bool) : State :=
  let k := s.redTree d t
  let x := reduceIn k.op v
  if (k.input r 4).isSome ∨ k.waiting.any (fun e => decide (e.1 = r)) then
    s.setRedTree d t { k with waiting := k.waiting ++ [(r, x, bad)] }
  else s.setRedTree d t { k with inputs := k.inputs ++ [(8 * r + 4, x, 0, bad)] }

/-- A contribution of router `r` waits at its local port, which holds the reduction channel of its core (R377). -/
def reduceHeld (s : State) (d r : Nat) : Bool := (s.getDie d).trees.any fun e => e.2.waiting.any fun w => decide (w.1 = r)

/-- The first waiting contribution of router `r` takes the local port that is free. -/
def promote (k : RedTree) (r : Nat) : RedTree :=
  if (k.input r 4).isSome then k
  else match k.waiting.find? fun e => decide (e.1 = r) with
    | some (_, x, bad) =>
      { k with inputs := k.inputs ++ [(8 * r + 4, x, 0, bad)], waiting := k.waiting.eraseP fun e => decide (e.1 = r) }
    | none => k

/-- Router `r` of tree `t` combines the inputs of a round, once all are present and its parent's port is free, and passes the
result on (R108, R377). -/
def combineAt (s : State) (d t r : Nat) : State :=
  let k := promote (s.redTree d t) r
  let root := s.routerOf k.root
  let ports := s.expectedPorts d k r
  let ins := ports.filterMap (k.input r)
  let up := nextRouter root r
  let upKey := 8 * up + portFrom up r
  let room := if r = root then k.result.isNone else !k.inputs.any fun e => decide (e.1 = upKey)
  if !bitAt k.dw0 63 || ins.isEmpty || decide (ins.length ≠ ports.length) || !room then s
  else
    let c := ins.tail.foldl (fun (a : Word × BitVec 5 × Bool) x =>
      let y := reduceOp k.op a.1 x.1
      (y.1, a.2.1 ||| x.2.1 ||| y.2, a.2.2 || x.2.2)) (ins.headD (0, 0, false))
    let k1 := { k with inputs := k.inputs.filter fun e => !decide (e.1 / 8 = r) }
    s.setRedTree d t (promote (if r = root then { k1 with result := some c } else { k1 with inputs := k1.inputs ++ [(upKey, c)] }) r)

/-- The round's result leaves the root router as a message (R378). -/
def sendResult (s : State) (d t : Nat) : State :=
  let k := s.redTree d t
  match k.result with
  | none => s
  | some (v, fl, bad) =>
    let n := k.round + 1
    let w1 := ofN (b2n bad * 2 ^ 63 + n.toNat * 2 ^ 16 + fl.toNat)
    let m : Msg :=
      { hdr0 := mkHdr0 k.tag k.handler k.root 0 (64 * d) 6 2 k.op, hdr1 := ofN (7 * 2 ^ 61 + 6 * 2 ^ 48), payload := [v, w1]
        src := 148 + d, dst := (s.physOf k.root).getD k.root, part := k.owner }
    (s.setRedTree d t { k with result := none, round := n }).edgeSend m

end State

end Sys2Proof.Machine
end

