-- ==== Sys2Proof/Machine/EvMsg.lean ====
section
/-! DEFINITION. Messages in the network: injection, arrival, returns, replies, changes of handler entries, and taking (R16, R21, R22, R36, R274 to R282). -/

namespace Sys2Proof.Machine

namespace State

/-! ### Injection (R16, R274, R275) -/

/-- The unit's NI injects nothing more: a stop has been delivered to it, or its reset runs and, on a core, T6 has completed its
operation (R275, R403, R408). -/
def sendsHeld (s : State) (u : Nat) : Bool :=
  if u < 128 then (s.getCore u).stop.isSome || ((s.getCore u).resetting && !(s.thread (.thr u 6)).live)
  else (s.getSet (u - 128)).stop.isSome || (s.getSet (u - 128)).resetting

/-- A message enters the mesh on its way to the core that its DC names; one that names an absent core stays for the router that
returns it (R278, R342). A reduction's contribution enters its tree at the core's router (R377). -/
def intoMesh (s : State) (u : Nat) (m : Msg) : State :=
  if m.dst = 148 + m.src / 64 ∧ m.kind = 6 then s.contribute (u / 64) m.tag (coreRouter u) (m.word 0) m.poisoned
  else if m.kind = 5 ∨ m.kind = 4 then { s with mesh := s.mesh ++ [m] }
  else { s with mesh := s.mesh ++ [{ m with dst := (s.physOf m.dc).getD m.dc }] }

/-- The head of a send buffer can be injected now. -/
def injectable (s : State) (u : Nat) (m : Msg) : Bool :=
  !s.sendsHeld u && !(decide (m.kind = 6) && decide (u < 128) && s.reduceHeld (u / 64) (coreRouter u))

/-! ### Replies and returns (R279 to R281) -/

/-- An entry of a context buffer chain: the context buffer, then the message save area, then T7, with what each holds written to
its place in memory; none while T7's queue has no room (R281). -/
def toContext (s : State) (c tid : Nat) (m : Msg) : Option State :=
  let a : Agent := .thr c tid
  match (s.thread a).hosted with
  | none => some s
  | some h =>
    let put := fun (s : State) (h : Hosted) => s.modThread a fun t => { t with hosted := some h }
    if m.loop then
      let h1 := { h with saveMsgs := h.saveMsgs ++ [m], overflowed := h.overflowed && !m.last }
      some ((put s h1).countCore c 0x12)
    else if h.overflowed then
      if s.t7Full c then none else some (s.appendMsgItem c 1 m false)
    else if h.ctxBuf.length < 8 then
      let at_ := field (s.block c (0x1140 + 8 * tid)) 0 20 + 80 * h.ctxBuf.length
      some ((put s { h with ctxBuf := h.ctxBuf ++ [m] }).putUlm c at_ m.bytes)
    else if h.saveMsgs.length < 56 then
      let at_ := (s.saveArea c tid).toNat + 80 * h.saveMsgs.length
      some ((put s { h with saveMsgs := h.saveMsgs ++ [m] }).putVirt c at_ m.bytes)
    else if s.t7Full c then none
    else some ((put s { h with overflowed := true }).appendMsgItem c 1 m false)

/-- The outstanding operation of an agent that a message answers, by tag and, for a thread of T0 to T6, by generation. -/
def answered (t : Thread) (m : Msg) : Option Outst :=
  t.outst.find? fun o => decide (o.tag.toNat = m.tag) && (decide (m.ctxKind = 7) || decide (o.gen.toNat = m.ctxLow))

/-- The agent's operation is no longer outstanding: `f` writes its result, and a pass of a loop that waited for it ends (R124), with a
disposition that waited for this boundary landing there (R395). -/
def settle (s : State) (a : Agent) (o : Outst) (f : Thread → Thread := id) : State :=
  let s1 := s.modThread a fun t => (f { t with outst := t.outst.erase o }).replied
  let t := s1.thread a
  match a with
  | .thr c tid =>
    if replyHeld (s.thread a) && !replyHeld t && decide (t.landing ≠ 0) then
      (s1.modThread a fun t => { t with landing := 0 }).landPreempt c tid (t.landing % 8) (BitVec.ofNat 8 (t.landing / 8))
    else s1
  | .seq _ _ => s1

/-- A pending NACK of an agent. -/
def nackTrap (s : State) (a : Agent) (code : Nat) (tval : Word) : State :=
  s.modThread a fun t => { t with pendTrap := t.pendTrap ++ [{ code := Cause.nack, sub := BitVec.ofNat 8 code, tval := tval }] }

/-- A return reaches a live thread of T0 to T6: an operation with a reply loses it, with TVAL the address word (R250); any other
message goes into the return cell, and waits for it while it is in use (R279). -/
def returnLive (s : State) (c tid : Nat) (m : Msg) : Option State :=
  let a : Agent := .thr c tid
  let t := s.thread a
  match if m.kind = 3 then answered t m else none with
  | some o => some ((s.settle a o).nackTrap a m.sub o.addr)
  | none =>
    if t.cellBusy then none
    else
      let cell := s.returnCell c tid
      some (((s.putUlm c cell m.bytes).modThread a fun t => { t with cellBusy := true }).nackTrap a m.sub (ofN cell))

/-- The forwarding entry for a context of core `c` that MIGRATE has moved (R38). -/
def forwardOf (s : State) (c : Nat) (m : Msg) : Option Forward :=
  s.forwards.find? fun f => decide (f.core = c) && decide (f.tid = m.ctxKind) && decide (f.gen.toNat = m.ctxLow) &&
    decide (s.timebase.toNat < f.upTo.toNat)

/-- The context on its new core is still on its way or waits there for a thread. -/
def notPlaced (s : State) (f : Forward) : Bool :=
  s.migrants.any fun g => decide (g.src = f.core) && decide (g.srcTid = f.tid) && decide (g.th.gen = f.gen)

/-- The old core sends an answer on to the context's new core (R38). -/
def forwardOn (s : State) (f : Forward) (m : Msg) : Option State :=
  if s.notPlaced f then none
  else
    some { s.countCore f.core 0x10 with mesh := s.mesh ++
      [{ m with hdr1 := setField m.hdr1 48 16 (f.destTid * 8192 + f.destGen.toNat), src := f.core, dst := f.dest, received := false }] }

/-- A return for a core's context (R279), or none while its place has no room. An operation with a reply that T7 or an ended context
loses is no longer outstanding (R250, R270). -/
def returnToCore (s : State) (c : Nat) (m : Msg) : Option State :=
  let k := m.ctxKind
  let lost := match if m.kind = 3 then answered (s.thread (.thr c k)) m else none with
    | some o => s.settle (.thr c k) o
    | none => s
  let item := if s.t7Full c then none else some (lost.appendMsgItem c 1 m false)
  if k = 7 then item
  else
    let t := s.thread (.thr c k)
    if t.live ∧ t.gen.toNat = m.ctxLow then s.returnLive c k m
    else if t.hosted.any fun h => decide (h.gen.toNat = m.ctxLow) then s.toContext c k m
    else match s.forwardOf c m with
      | some f => s.forwardOn f m
      | none => item

/-- A return for a sequencer: a live program takes NACK and ends; otherwise T7 of core 0 of the Set has the item (R279). -/
def returnToSeq (s : State) (n : Nat) (m : Msg) : Option State :=
  let q := m.ctxLow - 1
  let a : Agent := .seq n q
  let o := answered (s.thread a) m
  let s1 := match o with
    | some o => s.settle a o
    | none => s
  if (s.thread a).st ≠ .free then
    some (s1.nackTrap a m.sub (match o with
      | some o => o.addr
      | none => 0))
  else if s.t7Full (8 * n) then none
  else some (s1.appendMsgItem (8 * n) 1 m false)

/-- A reply writes the register that waits for it, as an acquire (R250, R298). -/
def completeReply (s : State) (a : Agent) (o : Outst) (m : Msg) : State :=
  (s.acquire a m.clock).settle a o fun t => t.setX o.rd (m.word 0)

/-- A reply for a core: its live context, the context that a thread hosts, a migrated one, or nobody, and then it is discarded
(R281). -/
def replyToCore (s : State) (c : Nat) (m : Msg) : Option State :=
  let k := m.ctxKind
  let a : Agent := .thr c k
  let t := s.thread a
  match answered t m with
  | some o =>
    some (if k = 7 ∨ (t.live ∧ t.gen.toNat = m.ctxLow) then s.completeReply a o m else s.settle a o)
  | none =>
    if t.hosted.any fun h => decide (h.gen.toNat = m.ctxLow) then s.toContext c k m
    else match s.forwardOf c m with
      | some f => s.forwardOn f m
      | none => some s

/-- A reply for a sequencer. -/
def replyToSeq (s : State) (n : Nat) (m : Msg) : State :=
  let a : Agent := .seq n (m.ctxLow - 1)
  match answered (s.thread a) m with
  | some o => if (s.thread a).st ≠ .free then s.completeReply a o m else s.settle a o
  | none => s

/-- The router that holds a message of the mesh returns it: its core is absent from the map, or takes no messages (R278). -/
def absent (s : State) (m : Msg) : Bool :=
  !m.received && !m.loop && decide (m.dst < 128) && !(decide (s.physOf m.dc = some m.dst) && s.coreServes m.dst)

/-- The same for a reply, whose requester has left the map. -/
def goneCore (s : State) (m : Msg) : Bool := !m.received && decide (m.dst < 128) && !s.coreServes m.dst

/-- Core `c` takes nothing from its input buffers: a stop has been delivered to it, or its reset runs (R403, R408). -/
def arrivalsHeld (s : State) (c : Nat) : Bool := (s.getCore c).resetting || (s.getCore c).stop.isSome

/-! ### Returns to edge agents (R280) -/

/-- A LAUNCH message returns to the queue manager that dispatched it (R280, R309, R317). -/
def launchReturned (s : State) (m : Msg) : State :=
  let h := launchHandle m
  let s1 := match s.physOf m.dc with
    | some c => s.endClaim m.part h c m.qorder
    | none => s
  if m.sub = 2 then s1.packetBack m
  else
    match s1.taskQ m.part h with
    | none => s1
    | some q =>
      let s2 := s1.setTaskQ m.part h (some { q with lost := q.lost + 1 })
      let s3 := s2.sendFault (64 * q.die) m.part q.rcb true Cause.nack
        [0, ofN h, 0, ofN (Cause.nack.toNat * 2 ^ 56 + m.sub * 2 ^ 48 + 64 * q.die * 2 ^ 41)]
      (s3.poisonCctr q.die (packetOf m).words).budgetLess m.part q.rcb

end State

/-- MESSAGE_INJECT: the NI of a unit injects the message at the head of its send buffer. (R275) -/
def execMessageInject (unit : Nat) (s : State) : Out :=
  match s.sendQ unit with
  | (m :: rest, line) =>
    if !s.injectable unit m then .next s
    else
      let s1 := s.setSendQ unit rest line
      let s2 := if unit < 128 then s1.countCore unit 0x10 else s1
      .next (s2.intoMesh unit m)
  | ([], _) => .next s

/-- SEND_BUFFER_GRANT: the first request in the line of a unit, once the pushes before it are performed, takes a send-buffer entry; a send that
waited in RUN completes. (R231, R275) -/
def execSendBufferGrant (unit : Nat) (s : State) : Out :=
  match s.sendQ unit with
  | (buf, (key, m) :: rest) =>
    if 4 ≤ buf.length ∨ s.sendHeld key then .next s
    else
      let s1 := (s.setSendQ unit buf rest).placeSend unit key m
      let a := Agent.ofKey key
      let t := s.thread a
      let mine := decide (key < 4096) && !rest.any (fun e => decide (e.1 = key)) && t.wait.any fun w => decide (w.kind = .send)
      if mine then
        let rd := match t.wait with
          | some w => w.rd
          | none => 0
        .next (if State.wantsReply m then (s1.sent a m rd).wakeAsk a else s1.wake a id)
      else .next s1
  | (_, []) => .next s

/-- MESSAGE_ARRIVAL: message `i` of the mesh, on its way to a core, is returned by a router, or enters the core's input buffer and, when it is first there, its place. (R278) -/
def execMessageArrival (i : Nat) (s : State) : Out :=
  match s.mesh[i]? with
  | none => .next s
  | some m =>
    if 128 ≤ m.dst ∨ m.nack ∨ m.kind = 4 then .next s
    else if s.absent m then
      if s.behindInMesh i m || s.heldAtBridge m then .next s else .next ((s.dropMesh i).returnMsg m 2)
    else if s.arrivalsHeld m.dst then
      .next (if s.canReceive i m then s.receive i m else s)
    else .next (s.arriveBy i fun t x => t.deliver x.dst x)

/-- MESSAGE_RETURN_ARRIVAL: a returned message reaches its context, by the state of that context. (R279) -/
def execMessageReturnArrival (i : Nat) (s : State) : Out :=
  match s.mesh[i]? with
  | none => .next s
  | some m =>
    if !m.nack || decide (144 ≤ m.dst) then .next s
    else if m.dst < 128 then
      if s.goneCore m then .next ((s.dropMesh i).countDie (State.unitDie m.dst) 1)
      else if s.arrivalsHeld m.dst then .next (if s.canReceive i m then s.receive i m else s)
      else .next (s.arriveBy i fun t x => t.returnToCore x.dst x)
    else .next (s.arriveBy i fun t x => t.returnToSeq (x.dst - 128) x)

/-- EDGE_RETURN: a return reaches the edge agent that its CTX code names. (R280) -/
def execEdgeReturn (i : Nat) (s : State) : Out :=
  match s.mesh[i]? with
  | none => .next s
  | some m =>
    if !m.nack || decide (m.dst < 144) || s.behindInMesh i m || s.heldAtBridge m then .next s
    else
      let s1 := s.dropMesh i
      if m.ctxLow = 6 then .next (s1.countDie (State.unitDie m.dst) 7)
      else if m.kind = 2 then .next (s1.launchReturned m)
      else .next (s1.countDie (State.unitDie m.dst) 1)

/-- REPLY_ARRIVAL: a reply reaches the context that asked for it. (R281) -/
def execReplyArrival (i : Nat) (s : State) : Out :=
  match s.mesh[i]? with
  | none => .next s
  | some m =>
    if m.nack || decide (m.kind ≠ 4) || decide (144 ≤ m.dst) then .next s
    else if m.dst < 128 then
      if s.goneCore m then .next ((s.dropMesh i).returnMsg m 2)
      else if s.arrivalsHeld m.dst then .next (if s.canReceive i m then s.receive i m else s)
      else .next (s.arriveBy i fun t x => t.replyToCore x.dst x)
    else .next (s.arriveBy i fun t x => some (t.replyToSeq (x.dst - 128) x))

/-- HANDLER_ENTRY_CHANGE: a performed change of entry `hid` readies or holds its waiting messages, or returns them, in the order of their
arrival; that of a DEFERred message is its first, not the one it took when it became ready again (DESIGN CHOICE, log entry 105).
(R22) -/
def execHandlerEntryChange (core : Nat) (hid : Nat) (s : State) : Out :=
  if s.entryState core hid = .exited then
    let k := s.getCore core
    let back := k.inbox.filter fun m => !m.taken && decide (m.msg.dh = hid)
    let s1 := s.modCore core fun k => { k with inbox := k.inbox.filter fun m => m.taken || !decide (m.msg.dh = hid) }
    let s2 := back.foldl (fun t m => t.returnMsg m.msg 1) s1
    let p := s.partOf (.thr core 0)
    .next (((s2.pendQueues p).filter fun e => e.2.any (State.pendFor core hid)).foldl (fun t e =>
      (e.2.filter (State.pendFor core hid)).foldl (fun t m => t.returnMsg m 1)
        (t.setPend core p e.1 (e.2.filter fun m => !State.pendFor core hid m))) s2)
  else
    let ready := s.entryReady core hid
    .next (s.modCore core fun k =>
      { k with inbox := k.inbox.map fun m =>
          if m.msg.dh ≠ hid then m
          else { m with readySince := if !ready then 0 else if m.readySince = 0 then s.timebase else m.readySince } })

/-- PENDING_DELIVERY: the first pending message for an entry that is no longer UNBOUND is delivered. (R22) -/
def execPendingDelivery (core : Nat) (hid : Nat) (s : State) : Out :=
  if s.entryState core hid = .unbound ∨ s.arrivalsHeld core then .next s
  else
    match s.pendPop core hid with
    | none => .next s
    | some (s1, m) => .next ((s1.byEntry core m false).getD s)

/-- MESSAGE_TAKE: the core takes its highest-ranked ready message, or migrated context, that has a FREE thread. (R36) -/
def execMessageTake (core : Nat) (s : State) : Out :=
  if !s.takes core then .next s
  else
    match s.bestCand core with
    | none => .next s
    | some c =>
      match c.src with
      | .inl m => .next (s.takeMsg core m c.tid)
      | .inr i => .next (s.takeMigrant core i c.tid)

/-- DEFER_READY: the deferred message of an inbox slot becomes ready again when its time has come, with a new arrival order. (R276) -/
def execDeferReady (core : Nat) (slot : Nat) (s : State) : Out :=
  .next (s.modCore core fun k =>
    if k.inbox.any fun m => decide (m.slot = slot) && m.notBefore.any fun t => decide (t.toNat ≤ s.timebase.toNat) then
      { k with
        order := k.order + 1
        inbox := k.inbox.map fun m =>
          if m.slot = slot then
            { m with notBefore := none, order := k.order, arrival := s.timebase
                     readySince := if s.entryReady core m.msg.dh then s.timebase else 0 }
          else m }
    else k)


end Sys2Proof.Machine
end

