-- ==== Sys2Proof/Machine/Interlock.lean ====
section
/-! DEFINITION. The x registers that an instruction names (R48, R57): the ones on which it waits while a reply is to write
them (R250). -/

namespace Sys2Proof

/-- The x registers that an instruction reads or writes by its fields, and those a compact form implies. -/
def Instr.xregs (i : Instr) : List (BitVec 5) :=
  match i with
  | .add d a b => [d, a, b]
  | .sub d a b => [d, a, b]
  | .addw d a b => [d, a, b]
  | .subw d a b => [d, a, b]
  | .and d a b => [d, a, b]
  | .or d a b => [d, a, b]
  | .xor d a b => [d, a, b]
  | .andn d a b => [d, a, b]
  | .orn d a b => [d, a, b]
  | .sll d a b => [d, a, b]
  | .srl d a b => [d, a, b]
  | .sra d a b => [d, a, b]
  | .rol d a b => [d, a, b]
  | .ror d a b => [d, a, b]
  | .slt d a b => [d, a, b]
  | .sltu d a b => [d, a, b]
  | .seq d a b => [d, a, b]
  | .min d a b => [d, a, b]
  | .max d a b => [d, a, b]
  | .minu d a b => [d, a, b]
  | .maxu d a b => [d, a, b]
  | .clz d a => [d, a]
  | .ctz d a => [d, a]
  | .popc d a => [d, a]
  | .brev d a => [d, a]
  | .bswap d a => [d, a]
  | .sextB d a => [d, a]
  | .sextH d a => [d, a]
  | .sextW d a => [d, a]
  | .zextB d a => [d, a]
  | .zextH d a => [d, a]
  | .zextW d a => [d, a]
  | .shadd d a b _ => [d, a, b]
  | .addi d a _ => [d, a]
  | .andi d a _ => [d, a]
  | .ori d a _ => [d, a]
  | .xori d a _ => [d, a]
  | .slli d a _ => [d, a]
  | .srli d a _ => [d, a]
  | .srai d a _ => [d, a]
  | .rori d a _ => [d, a]
  | .slti d a _ => [d, a]
  | .sltiu d a _ => [d, a]
  | .lui d _ => [d]
  | .addpc d _ => [d]
  | .mul d a b => [d, a, b]
  | .mulh d a b => [d, a, b]
  | .mulhu d a b => [d, a, b]
  | .mulhsu d a b => [d, a, b]
  | .mulw d a b => [d, a, b]
  | .div d a b => [d, a, b]
  | .divu d a b => [d, a, b]
  | .rem d a b => [d, a, b]
  | .remu d a b => [d, a, b]
  | .madd d a b => [d, a, b]
  | .ldb d a _ => [d, a]
  | .ldbu d a _ => [d, a]
  | .ldh d a _ => [d, a]
  | .ldhu d a _ => [d, a]
  | .ldw d a _ => [d, a]
  | .ldwu d a _ => [d, a]
  | .ldd d a _ => [d, a]
  | .stb s b _ => [s, b]
  | .sth s b _ => [s, b]
  | .stw s b _ => [s, b]
  | .std s b _ => [s, b]
  | .beq a b _ => [a, b]
  | .bne a b _ => [a, b]
  | .blt a b _ => [a, b]
  | .bge a b _ => [a, b]
  | .bltu a b _ => [a, b]
  | .bgeu a b _ => [a, b]
  | .bbs a b _ => [a, b]
  | .bbc a b _ => [a, b]
  | .jal d _ => [d]
  | .jalr d a _ => [d, a]
  | .loopI d _ => [d]
  | .fcmpEq d _ _ _ => [d]
  | .fcmpLt d _ _ _ => [d]
  | .fcmpLe d _ _ _ => [d]
  | .fcmpUn d _ _ _ => [d]
  | .fclass d _ _ => [d]
  | .fcvti d _ _ _ _ => [d]
  | .fcvtf _ a _ _ _ => [a]
  | .fmvxf d _ _ => [d]
  | .fmvfx _ a _ => [a]
  | .fldw _ a _ => [a]
  | .fldd _ a _ => [a]
  | .fstw _ b _ => [b]
  | .fstd _ b _ => [b]
  | .amoadd d a b _ => [d, a, b]
  | .amoand d a b _ => [d, a, b]
  | .amoor d a b _ => [d, a, b]
  | .amoxor d a b _ => [d, a, b]
  | .amomin d a b _ => [d, a, b]
  | .amomax d a b _ => [d, a, b]
  | .amominu d a b _ => [d, a, b]
  | .amomaxu d a b _ => [d, a, b]
  | .amoswap d a b _ => [d, a, b]
  | .cas d a b _ => [d, a, b]
  | .icinv d a b _ => [d, a, b]
  | .dcinv d a b _ => [d, a, b]
  | .dcwb d a b _ => [d, a, b]
  | .dcfl d a b _ => [d, a, b]
  | .pref a => [a]
  | .mfs d _ => [d]
  | .mts a _ => [a]
  | .trap a => [a]
  | .waitI a => [a]
  | .migrate a => [a]
  | .scanrun d a => [d, a]
  | .sendI d a b => [d, a, b]
  | .sendl a b => [a, b]
  | .sendlRpl a b => [a, b]
  | .reduce a b => [a, b]
  | .defer a => [a]
  | .rld d a => [d, a]
  | .rst a b => [a, b]
  | .rcas d a b => [d, a, b]
  | .ramo d a b _ => [d, a, b]
  | .qbind _ b => [b]
  | .qput _ b => [b]
  | .qget d _ => [d]
  | .qtry d _ b => [d, b]
  | .qlen d _ => [d]
  | .oxld _ a _ => [a]
  | .oxst _ b _ => [b]
  | .oxset _ a => [a]
  | .oxget d _ => [d]
  | .vld _ a _ _ => [a]
  | .vlds _ a b _ _ => [a, b]
  | .vgath _ a _ _ _ => [a]
  | .vst _ a _ _ => [a]
  | .vsts _ a b _ _ => [a, b]
  | .vscat _ a _ _ _ => [a]
  | .vldb _ a b => [a, b]
  | .vbcast _ a _ _ => [a]
  | .vslide _ _ b _ _ => [b]
  | .vins _ a b _ => [a, b]
  | .vext d _ b _ => [d, b]
  | .unpk3 _ _ b _ => [b]
  | .unpk4 _ _ b _ _ => [b]
  | .pset _ a _ => [a]
  | .pcnt d _ _ => [d]
  | .pfirst d _ _ => [d]
  | .mxldb _ a => [a]
  | .mxldbs _ a _ => [a]
  | .mxldbg _ a => [a]
  | .mxstg _ a => [a]
  | .mxrd _ a => [a]
  | .forkMs d a b => [d, a, b]
  | .forkMi d a b => [d, a, b]
  | .forkCs d a b => [d, a, b]
  | .join d a => [d, a]
  | .sempost _ a => [a]
  | .semwait _ a => [a]
  | .engstat d a => [d, a]
  | .cpy d => [d]
  | .cpym d => [d]
  | .cpycan d a => [d, a]
  | .cpyst d a => [d, a]
  | .ststat d _ => [d]
  | .reelinit a b => [a, b]
  | .reelawait d a => [d, a]
  | .reelrel a => [a]
  | .reelst d a => [d, a]
  | .tenq a b => [a, b]
  | .tdeq d a b => [d, a, b]
  | .futld d a => [d, a]
  | .futst d a b => [d, a, b]
  | .launch a => [a]
  | .barinit d a b => [d, a, b]
  | .bararr d a => [d, a]
  | .barwait d a b => [d, a, b]
  | .dcinit a b => [a, b]
  | .dcdec d a b => [d, a, b]
  | .dcwait a => [a]
  | .slopen d a => [d, a]
  | .slopenClose d a => [d, a]
  | .slwait d a b => [d, a, b]
  | .slstat d a => [d, a]
  | .bump d a b => [d, a, b]
  | .rngmap d a => [d, a]
  | .rngunmap d a => [d, a]
  | .rngsplit d a b => [d, a, b]
  | .rngmerge d a => [d, a]
  | .rngprot d a b => [d, a, b]
  | .rngresAdd d a b => [d, a, b]
  | .rngresRemove d a b => [d, a, b]
  | .rnginv d a b => [d, a, b]
  | .rngcmp d a b => [d, a, b]
  | .rngqry d a b => [d, a, b]
  | .lcmremRemove d a b => [d, a, b]
  | .lcmremPlace d a b => [d, a, b]
  | .qtmapMap d a b => [d, a, b]
  | .qtmapUnmap d a b => [d, a, b]
  | .qtpinPin d a b => [d, a, b]
  | .qtpinUnpin d a b => [d, a, b]
  | .snapinitCursor d a b => [d, a, b]
  | .snapinitCreate d a b => [d, a, b]
  | .snapinitDestroy d a b => [d, a, b]
  | .snapinitQuery d a b => [d, a, b]
  | .snaphash d a b => [d, a, b]
  | .snapput d a b => [d, a, b]
  | .snapfind d a => [d, a]
  | .snapget d a b => [d, a, b]
  | .snaprel d a b => [d, a, b]
  | .snaprelAll d a b => [d, a, b]
  | .monput d a b => [d, a, b]
  | .monseal a => [a]
  | .monstat d a => [d, a]
  | .monclose a => [a]
  | .rdts d => [d]
  | .rdcyc d => [d]
  | .rdvc d a => [d, a]
  | .pmcfg a b => [a, b]
  | .pmrd d a => [d, a]
  | .dlyrd d a => [d, a]
  | .dbgmark a => [a]
  | .cMv d a => [d, a]
  | .cAdd d a => [d, a]
  | .cSub d a => [d, a]
  | .cAnd d a => [d, a]
  | .cOr d a => [d, a]
  | .cXor d a => [d, a]
  | .cSll d a => [d, a]
  | .cSrl d a => [d, a]
  | .cSra d a => [d, a]
  | .cMul d a => [d, a]
  | .cSlt d a => [d, a]
  | .cJmpr a => [a]
  | .cCallr a => [a, 1]
  | .cLdx d a => [d, a]
  | .cStx s a => [s, a]
  | .cAddi d _ => [d]
  | .cLi d _ => [d]
  | .cSlli d _ => [d]
  | .cSrli d _ => [d]
  | .cSrai d _ => [d]
  | .cAndi d _ => [d]
  | .cOri d _ => [d]
  | .cXori d _ => [d]
  | .cSpadj _ => [2]
  | .cJal _ => [1]
  | .cBeqz a _ => [a]
  | .cBnez a _ => [a]
  | .cSld d _ => [d, 2]
  | .cSst s _ => [s, 2]
  | .cPld d _ => [d, 3]
  | .cPst s _ => [s, 3]
  | .cSlw d _ => [d, 2]
  | .cSsw s _ => [s, 2]
  | _ => []

end Sys2Proof
end

