-- ==== Sys2Proof/Machine/Issue.lean ====
section
/-! DEFINITION. Which thread issues (R37), the passing of time, and what a step does around the instruction it executes. -/

namespace Sys2Proof.Machine

namespace State

/-- The agent may issue now: it is RUN and blocked on nothing, its core is not in a scan (R136), has not failed one (R136), and
no stop holds it at its boundary (R403). -/
def canIssue (s : State) (a : Agent) : Bool :=
  let t := s.thread a
  decide (t.st = .run) && t.wait.isNone &&
  match a with
  | .thr c i =>
    let k := s.getCore c
    (decide (i = 7) || (k.scan.isNone && !bitAt k.ckstat 20)) && !(decide (i = 7) && k.stop.isSome)
  | .seq n q => decide (q = 2) || (s.getSet n).stop.isNone

/-- The agent is ready for a step of its own: it may issue or take a trap, and its next instruction has not been found held up by an
interlock, the scoreboard or a fence since the machine last moved on (R37, R115). -/
def ready (s : State) (a : Agent) : Bool := !s.polled.contains a && (s.canIssue a || s.trapReady a)

/-- The issue choice of a core (R37): T7, else T6, else the next ready thread of T0 to T5 in turn; one that has yielded only when no
other of them is ready (R58). -/
def choose (s : State) (c : Nat) : Option Agent :=
  if s.ready (.thr c 7) then some (.thr c 7)
  else if s.ready (.thr c 6) then some (.thr c 6)
  else
    let order := (List.range 6).map fun i => ((s.getCore c).rr + i) % 6
    let ok := order.filter fun i => s.ready (.thr c i)
    match ok.find? fun i => !(s.thread (.thr c i)).yielded with
    | some i => some (.thr c i)
    | none => ok.head?.map fun i => .thr c i

/-- The agent may issue next: the one that its core chooses, or a ready sequencer (R37). -/
def mayIssue (s : State) (a : Agent) : Bool :=
  match a with
  | .thr c _ => decide (s.choose c = some a)
  | .seq _ _ => s.ready a

/-- The agent whose turn it is when nothing else is due: by R37 in the core of the last issuer, or the sequencer itself. -/
def nextIssuer (s : State) : Option Agent :=
  match s.cur with
  | .thr c _ => s.choose c
  | .seq n q => if s.ready (.seq n q) then some (.seq n q) else none

/-- Tenths of a core clock cycle in one ns: 2.9 GHz, 2.4 GHz or 1.6 GHz by the envelope (R9). The numbers of the envelopes, 0 for
350 W, 1 for 250 W and every other for 150 W, are the model's own (DESIGN CHOICE, log entry 86). -/
def tenths (s : State) : Nat := if s.envelope = 0 then 29 else if s.envelope = 1 then 24 else 16

/-- The programmable counters of core `c` over `cyc` core cycles: cycles, cycles without an issue, and the cycles its threads spend in
WAIT and waiting on the scoreboard (R382). -/
def countCycles (s : State) (c cyc : Nat) : State :=
  let k := s.getCore c
  if k.pm.isEmpty then s
  else
    let idle := cyc - k.issued
    let s1 := s.modCore c fun x =>
      { x with
        issued := k.issued - cyc
        pm := x.pm.map fun e =>
          if e.2.event = 0x01 then (e.1, { e.2 with value := e.2.value + ofN cyc })
          else if e.2.event = 0x03 then (e.1, { e.2 with value := e.2.value + ofN idle }) else e }
    (List.range 8).foldl (fun t i =>
      let th := t.thread (.thr c i)
      let t1 := if th.st = .wait then t.countEvents c i 0x07 cyc else t
      if th.st = .run ∧ th.sbWait then t1.countEvents c i 0x08 cyc else t1) s1

/-- `ns` of time pass: the timebase with its slewing (R379), the core cycles of the envelope with no fraction lost (R9), and the
watchdogs of the threads in RUN and WAIT (R29). -/
def passTime (s : State) (ns : Nat) : State :=
  let rate := (s.tbslew.extractLsb' 0 32).toInt
  let acc := s.tbfrac + rate * ns
  let whole := acc.fdiv 1000000000
  let ten := s.cycfrac + ns * s.tenths
  let s1 : State :=
    { s with
      timebase := s.timebase + ofI (ns + whole)
      tbfrac := acc - whole * 1000000000
      cycles := s.cycles + ofN (ten / 10)
      cycfrac := ten % 10
      thr := s.thr.map fun e =>
        if e.2.st = .run ∨ e.2.st = .wait then (e.1, { e.2 with wdLeft := e.2.wdLeft - ns }) else e }
  (s.core.map (·.1)).foldl (fun t c => t.countCycles c (ten / 10)) s1

/-- The choice has been made. -/
def select (s : State) (a : Agent) : State :=
  let s1 : State := { s with cur := a }
  if (s.thread a).sbWait then s1.modThread a fun t => { t with sbWait := false } else s1

/-- The agent has issued: the round-robin pointer moves past a thread of T0 to T5, and every YIELD but its own is spent (R37, R58).
The machine has moved on. -/
def moveOn (s : State) (a : Agent) (yield : Bool) : State :=
  let s1 : State := { s with polled := [] }
  match a with
  | .thr c i =>
    let s2 := (List.range 6).foldl (fun t j =>
      if (t.thread (.thr c j)).yielded && !(yield && decide (j = i)) then
        t.modThread (.thr c j) fun x => { x with yielded := false }
      else t) s1
    s2.modCore c fun k =>
      { k with rr := if i < 6 then (i + 1) % 6 else k.rr, issued := if k.pm.isEmpty then 0 else k.issued + 1 }
  | .seq _ _ => s1

/-- The agent could not issue: it is not ready until the machine moves on (R37, R115). -/
def unissued (s : State) (a : Agent) : State := { s with polled := a :: s.polled }

/-- The attempt left the agent at its instruction: it waits in RUN, for the scoreboard, a fence, a place or a reply, and has not issued
(R37). -/
def heldBack (s : State) (a : Agent) (s' : State) : Bool :=
  let old := s.thread a
  let new := s'.thread a
  decide (new.pc = old.pc) && decide (new.st = old.st) && decide (new.wait = old.wait) && decide (new.tcause = old.tcause) &&
  decide (new.utepc = old.utepc) && decide (new.x = old.x) && decide (new.pendTrap = old.pendTrap)

/-- The instruction names a register that a reply is still to write (R250), or ends the body of a loop whose register one is to
write (R115, R124). -/
def interlocked (s : State) (a : Agent) (i : Instr) : Bool :=
  let t := s.thread a
  (t.outst.any fun o => decide (o.gen = t.gen) && i.xregs.contains o.rd) ||
  (t.loopActive && decide (t.pc = t.loopLast) && t.awaits t.loopReg)

/-- Instructions that can retire and leave the thread as it was: a transfer of control to itself. -/
def selfTransfer : Instr → Bool
  | .beq _ _ _ => true
  | .bne _ _ _ => true
  | .blt _ _ _ => true
  | .bge _ _ _ => true
  | .bltu _ _ _ => true
  | .bgeu _ _ _ => true
  | .bbs _ _ _ => true
  | .bbc _ _ _ => true
  | .jal _ _ => true
  | .jalr _ _ _ => true
  | .cJ _ => true
  | .cJal _ => true
  | .cJmpr _ => true
  | .cCallr _ => true
  | .cBeqz _ _ => true
  | .cBnez _ _ => true
  | _ => false

/-- The instruction is YIELD. -/
def isYield : Instr → Bool
  | .yield => true
  | _ => false

/-- The first byte of a vector instruction (R51): majors 0x26 to 0x2C. -/
def isVector (e : Enc) : Bool :=
  match e with
  | .full w => decide (0xE6 ≤ (w.extractLsb' 24 8).toNat) && decide ((w.extractLsb' 24 8).toNat ≤ 0xEC)
  | .half _ => false
  | .event => false

/-- Counts a retired instruction in the performance counters 0x02 and 0x0A (R382): one that changed its thread without a
precise trap. A blocking instruction is counted at its completion (`wake`, `endScan`, `retire`). -/
def countRetired (s : State) (a : Agent) (i : Instr) (s' : State) : State :=
  match a with
  | .seq _ _ => s'
  | .thr c t =>
    if (s'.getCore c).pm.isEmpty then s' else
    let old := s.thread a
    let new := s'.thread a
    let trapped := (decide (new.st = .wait) && decide (new.epc = old.pc) && new.wait.any (fun w => decide (w.kind = .trapHeld))) ||
      (decide (new.pc = old.utvec) && decide (new.utepc = old.pc) && bitAt new.tcause 63 && !selfTransfer i)
    let blocks := decide (new.pc = old.pc) && new.wait.any fun w => decide (w.kind ≠ .trapHeld) && decide (w.kind ≠ .reply)
    if trapped || blocks || new.sbWait || (decide (new = old) && !selfTransfer i) then s'
    else
      let s1 := s'.countEvent c t 0x02
      if isVector (encode i) then s1.countEvent c t 0x0A else s1

/-- What follows an attempt to execute an instruction: it is counted and the machine moves on, or it has not issued (R37, R382). -/
def settleIssue (s : State) (a : Agent) (i : Instr) (s' : State) : State :=
  if !selfTransfer i && s.heldBack a s' then s'.unissued a else (s.countRetired a i s').moveOn a (isYield i)

/-- What follows an attempt to take a trap at the agent's boundary (R388, R390). -/
def settleTrap (s : State) (a : Agent) (s' : State) : State := if s.heldBack a s' then s'.unissued a else s'.moveOn a false

end State

end Sys2Proof.Machine
end

