-- ==== Sys2Proof/Machine/Slates.lean ====
section
/-! DEFINITION. Slates: their watermarks, status word and closing (R372 to R375). -/

namespace Sys2Proof.Machine

/-- GRACE of a slate, in 100 ns units (R372). -/
def Slate.grace (k : Slate) : Nat := field k.ctl 0 16

/-- The watermark of member position `i`. -/
def Slate.mark (k : Slate) (i : Nat) : Word := Tbl.get 0 k.marks i

/-- Members whose watermark is below t_close. -/
def Slate.pend (k : Slate) : Nat := ((List.range 64).filter fun i => bitAt k.mask i && decide ((k.mark i).toNat < k.tClose.toNat)).length

/-- The status word of R374. -/
def Slate.word (k : Slate) : Word :=
  ofN (k.gen.toNat * 2 ^ 48 + k.state % 4 * 2 ^ 46 + k.cause % 4 * 2 ^ 44 + k.pend * 2 ^ 32 + k.late.toNat)

namespace State

/-- Slate `i` of die `d`. -/
def getSlate (s : State) (d i : Nat) : Slate := Tbl.get {} (s.getDie d).slate i

/-- Changes slate `i` of die `d`. -/
def setSlate (s : State) (d i : Nat) (k : Slate) : State := s.modDie d fun x => { x with slate := Tbl.put {} x.slate i k }

/-- The wait is on slate `i` of die `d`. -/
def onSlate (d i : Nat) : WaitKind → Bool
  | .slate d' i' _ _ => decide (d' = d ∧ i' = i)
  | _ => false

/-- Every Montage bin of die `d` that is bound to slate `i` seals with cause SLATE (R373). -/
def sealBound (s : State) (d i : Nat) : State :=
  (List.range 8).foldl (fun t m =>
    (t.getSet (8 * d + m)).bins.foldl (fun t e =>
      if bitAt e.2.cfg 50 ∧ field e.2.cfg 42 8 = i then t.sealNow (8 * d + m) e.1 2 else t) t) s

/-- The close of an open slate with its cause: 1 WATERMARK, 2 TIMEOUT, 3 EXPLICIT (R373). -/
def closeSlate (s : State) (d i cause : Nat) : State :=
  ((s.setSlate d i { s.getSlate d i with state := 0, cause := cause }).releaseWaiters (onSlate d i)).sealBound d i

/-- Evaluates the closing conditions of R373 of an open slate at this instant. -/
def evalSlate (s : State) (d i : Nat) : State :=
  let k := s.getSlate d i
  if k.state ≠ 1 then s
  else if k.pend = 0 then s.closeSlate d i 1
  else if k.tClose.toNat + 100 * k.grace ≤ s.timebase.toNat then s.closeSlate d i 2
  else s

/-- The slate is open and its timeout was reached before this instant: it has closed with TIMEOUT before anything that happens now (R373). -/
def closeOverdue (s : State) (d i : Nat) : State :=
  let k := s.getSlate d i
  if k.state = 1 ∧ k.tClose.toNat + 100 * k.grace < s.timebase.toNat ∧ k.pend ≠ 0 then s.closeSlate d i 2 else s

/-- An uncorrectable error in a slate's entry: its waiters are to take DEPFAULT (R374). -/
def poisonSlate (s : State) (d i : Nat) : State :=
  ((s.setSlate d i { s.getSlate d i with state := 2 }).doomWaiters (onSlate d i)).sealBound d i

end State

end Sys2Proof.Machine
end

