-- ==== Sys2Proof/Machine/EvThread.lean ====
section
/-! DEFINITION. Activations, saves and restores, T6 and T7, the checker and scans, and the errors of the memories (R19, R27 to R38, R136, R195, R215, R269, R390 to R404). -/

namespace Sys2Proof.Machine

namespace State

/-! ### END and DEFER (R26, R27, R31, R276, R311) -/

/-- The registers of a resident program at its commit (R31). -/
def imageOf (t : Thread) : RegImage :=
  { hid := t.hid, x := t.x, f := t.f, v := t.v, p := t.p, ox := t.ox, fcsr := t.fcsr, vcsr := t.vcsr, tcause := t.tcause
    tval := t.tval, epc := t.epc, utvec := t.utvec, utepc := t.utepc }

/-- The retired activation of a thread leaves it: FREE or SAVED, or in WAIT on its own handler id when it is resident, hosting a context
or not (R19, R31; DEDUCED, log entry 91). The registers that a resident program keeps are those of its last END. -/
def leaveThread (s : State) (c tid : Nat) : State :=
  let a : Agent := .thr c tid
  let t := s.thread a
  let s1 := s.freeThread c tid
  if t.resident then
    s1.modThread a fun n => { n with image := some (imageOf t), st := .wait, wait := some { kind := .resident }, resident := true }
  else s1

/-- The deferred message keeps its slot, gains REPLAY and waits for its time, on the core whose inbox holds it; a launch packet's
completion counter and budget stay with it (R276, R311). -/
def redefer (s : State) (c0 tid : Nat) (upTo : Word) : State :=
  let t := s.thread (.thr c0 tid)
  let c := t.slotAt.getD c0
  match t.slot with
  | none => s
  | some i =>
    let hdr0 := t.msghdr.extractLsb' 0 64 ||| 0x80
    (s.putUlm c (s.slotAddr c i) (wordBytes hdr0)).modCore c fun k =>
      { k with inbox := k.inbox.map fun m =>
          if m.slot = i then
            { m with taken := false, notBefore := some upTo, retake := none, replayed := true, missCounted := t.missCounted
                     msg := { m.msg with hdr0 := m.msg.hdr0 ||| 0x80 } }
          else m }

/-- The last step of END and DEFER: the activation retires (R27, R276, R311). -/
def retire (s : State) (c tid : Nat) (deferTo : Option Word) : State :=
  let t := s.thread (.thr c tid)
  let s := s.countEvent c tid 0x02
  match deferTo with
  | none => (((s.accountRetire c tid 0).completeLaunch c t false).freeSlotOf c t).leaveThread c tid
  | some w => ((s.accountRetire c tid 1).redefer c tid w).leaveThread c tid

/-- The steps of END (R27): the journal is checked, its stores are committed, its messages pass to the NI, and once the NI has
them all the activation retires, a launch with a completion counter after its pushes (R231). Once the stores are committed the journal is empty, and no error is found in it any more. -/
def endStep (s : State) (c tid : Nat) (deferTo : Option Word) : State :=
  let a : Agent := .thr c tid
  let t := s.thread a
  if t.jbad then (s.modThread a fun t => { t with wait := none, st := .run, jbad := false }).retakeOrKill c tid Cause.uncorrectable 2 0 t.pc
  else if s.commitBlocked a then s
  else
    let s1 := s.commit a
    if s1.sendPending a || (t.launch && t.cctr.isSome && s1.pushesPending a) then s1 else s1.retire c tid deferTo

/-! ### Watchdogs (R29, R32) -/

/-- The watchdog of an activation has run out and is not yet recorded: not after END has issued, nor between two messages of a
resident program, nor before an entry's persistent region is RESIDENT. -/
def watchdogDue (t : Thread) : Bool :=
  (decide (t.st = .run) || decide (t.st = .wait)) && decide (t.wdLeft = 0) && !t.wdFired &&
  match t.wait with
  | none => true
  | some w =>
    match w.kind with
    | .ending _ => false
    | .saving _ => false
    | .resident => false
    | .residency _ moved => moved
    | _ => true

/-- The expiry is recorded; WATCHDOG is taken at the next boundary. -/
def watchdogTrap (s : State) (a : Agent) (sub : BitVec 8) : State :=
  s.modThread a fun t => { t with wdFired := true, pendTrap := t.pendTrap ++ [{ code := Cause.watchdog, sub := sub }] }

/-- 4,096 core cycles in ns, rounded up, at the envelope's clock (R9, R32). -/
def activeNs (s : State) : Nat := (40960 + s.tenths - 1) / s.tenths

/-! ### Errors (R195, R215, R269, R325, R370, R374, R377) -/

/-- Changes element `i` of a list. -/
def atIdx {α : Type} (l : List α) (i : Nat) (f : α → α) : List α := (List.zipIdx l).map fun e => if e.2 = i then f e.1 else e.1

/-- A message of a unit's send buffer is dropped: the activation that sent it consumes the error, if it has not ended; T6's reply names
the context that asked, which has sent nothing (R269, R281). -/
def dropSend (s : State) (u i : Nat) : State :=
  let q := s.sendQ u
  match q.1[i]? with
  | none => s
  | some m =>
    let s1 := s.setSendQ u (q.1.eraseIdx i) q.2
    let a : Agent := .thr u m.ctxKind
    let t := s.thread a
    let p : PendTrap := { code := Cause.uncorrectable }
    if 128 ≤ u ∨ 7 ≤ m.ctxKind ∨ m.kind = 4 ∨ m.nack then s1
    else if t.live ∧ t.gen.toNat = m.ctxLow then s1.modThread a fun t => { t with pendTrap := t.pendTrap ++ [p] }
    else s1.modThread a fun t =>
      { t with hosted := t.hosted.map fun h => if h.gen.toNat = m.ctxLow then { h with pend := h.pend ++ [p] } else h }

/-- An entry of a pending queue is dropped, and the region's fault domain is told the handler id (R269). -/
def dropPending (s : State) (p rcb i : Nat) : State :=
  match (s.pendList p (ofN rcb))[i]? with
  | none => s
  | some m =>
    let s1 := s.setPend m.dst p (ofN rcb) ((s.pendList p (ofN rcb)).eraseIdx i)
    s1.sendFault m.dst p (ofN rcb) true Cause.uncorrectable [0, 0, 0, s1.faultWord3 m.dst 0 0 m.dh Cause.uncorrectable 3]

/-- A loss record in the place of a trace record; it names the die, and Set and core of a record that cannot be read are 0 (R215, R407;
DESIGN CHOICE, log entry 85). -/
def lossRecord (s : State) (d i : Nat) : State :=
  s.modDie d fun x =>
    if i < x.trace.recs.length then
      { x with trace := { x.trace with
          loss := true
          recs := atIdx x.trace.recs i fun _ => [ofN (3 * 2 ^ 60 + d * 2 ^ 59), s.timebase, 1, 0] } }
    else x

/-- Counts one in word `i` of a port's counters (R207). -/
def countPort (s : State) (d port i : Nat) : State :=
  s.modDie d fun x => { x with portCtr := Tbl.put 0 x.portCtr (4 * port + i) (Tbl.get 0 x.portCtr (4 * port + i) + 1) }

/-- An error in a sector of a cache over global memory: one that holds bytes that memory below does not have is poisoned, another is
discarded (R215). -/
def strikeCached (s : State) (x : Nat) (newest : Bool) (drop : State → State) : State :=
  if newest then s.poisonSectors (32 * x) 32 else drop s

/-- An uncorrectable memory error strikes an object. -/
def strike (s : State) (o : ErrObj) : State :=
  match o with
  | .sector l => s.poisonSectors l 1
  | .slot n w =>
    s.modSet n fun k =>
      { k with wb := Tbl.put {} k.wb w { Tbl.get {} k.wb w with hdr := setField (Tbl.get {} k.wb w).hdr 62 2 3 } }
  | .tile n t r col =>
    s.modSet n fun k =>
      { k with
        tfw := Tbl.put 0 k.tfw t (Tbl.get 0 k.tfw t ||| 0x2000)
        tilePoison := (match col with
          | some j => k.tilePoison ++ [65536 * t + 256 * r + j]
          | none => k.tilePoison)
        tagPoison := (match col with
          | some _ => k.tagPoison
          | none => k.tagPoison ++ [256 * t + r]) }
  | .tileBuf n b r =>
    s.modSet n fun k =>
      { k with bufs := Tbl.put {} k.bufs b { Tbl.get {} k.bufs b with poisoned := (Tbl.get {} k.bufs b).poisoned ++ [r] } }
  | .queueEntry p h i =>
    (match s.taskQ p h with
    | some q => s.setTaskQ p h (some { q with entries := atIdx q.entries i fun e => { e with poisoned := true } })
    | none => s)
  | .queueReg u q i => s.setQreg u q { s.qreg u q with entries := atIdx (s.qreg u q).entries i fun e => (e.1, true) }
  | .counter d i => s.poisonDc d i
  | .barrier d i => s.poisonBar d i
  | .slate d i => s.poisonSlate d i
  | .traceRecord d i => s.lossRecord d i
  | .rangeEntry p i =>
    (match Tbl.get none (s.getPart p).ranges i with
    | some r => (s.modPart p fun x => { x with ranges := Tbl.put none x.ranges i (some { r with poisoned := true }) }).countDie r.home 2
    | none => s)
  | .indexNode p i => (s.modPart p fun x => { x with index := atIdx x.index i fun n => { n with poisoned := true } }).countDie 0 2
  | .l1Sector c x => s.strikeCached x (s.l1Of c x).dirty fun t => t.dropL1 c x
  | .l2Sector d x =>
    s.strikeCached x ((Tbl.get {} (s.getDie d).l2 x).dirty && !(s.l1Holders d x).any fun c => (s.l1Of c x).dirty) fun t =>
      t.modDie d fun k => { k with l2 := Tbl.put {} k.l2 x {} }
  | .rdcSector d x => s.dropRdc d x
  | .icacheSector c k => s.modCore c fun x => { x with icache := x.icache.filter fun e => !decide (e.1 = k) }
  | .fetchBuffer c i => s.dropFbuf (.thr c i)
  | .treeNode p t i =>
    (match s.nodePool p (s.tree p t) with
    | some (_, r) => s.poisonSectors (r.pbase + 128 * i) 1
    | none => s)
  | .reelSlot l i => s.fillSlot l i true
  | .journal c i => s.modThread (.thr c i) fun t => { t with jbad := !t.journal.isEmpty || t.jbad }
  | .inboxSlot c i =>
    s.modCore c fun k => { k with inbox := k.inbox.map fun m => if m.slot = i then { m with msg := { m.msg with poisoned := true } } else m }
  | .sendEntry u i => s.dropSend u i
  | .inputEntry i =>
    (match s.mesh[i]? with
    | some m => if m.received ∧ m.dst < 128 then ({ s with mesh := s.mesh.eraseIdx i } : State).countCore m.dst 0x16 else s
    | none => s)
  | .t6Entry c i => s.modCore c fun k => { k with t6q := atIdx k.t6q i fun m => { m with poisoned := true } }
  | .serviceItem c i => s.modCore c fun k => { k with t7q := atIdx k.t7q i fun e => { e with bad := true } }
  | .saveEntry c tid i =>
    s.modThread (.thr c tid) fun t =>
      { t with hosted := t.hosted.map fun h => { h with saveMsgs := atIdx h.saveMsgs i fun m => { m with poisoned := true } } }
  | .contextEntry c tid i =>
    s.modThread (.thr c tid) fun t =>
      { t with hosted := t.hosted.map fun h => { h with ctxBuf := atIdx h.ctxBuf i fun m => { m with poisoned := true } } }
  | .pendingEntry p r i => s.dropPending p r i
  | .fifoPacket d port i =>
    s.countPort d port 0 |>.modDie d fun x => { x with fifos := Tbl.put [] x.fifos port ((Tbl.get [] x.fifos port).eraseIdx i) }
  | .cpPacket d i => (s.modDie d fun x => { x with cpFifo := x.cpFifo.eraseIdx i }).countDie d 9
  | .reduction d t =>
    let k := s.redTree d t
    s.setRedTree d t { k with inputs := k.inputs.map fun e => (e.1, e.2.1, e.2.2.1, true) }

/-! ### Pre-emption, saving and restoring (R394 to R398) -/

/-- A message that has been ready for 1 µs with no FREE thread in its mask, above an activation there, and the victim it would
displace: the lowest priority, then the latest deadline, then the most recently taken (R394). -/
def victimOf (s : State) (c : Nat) (m : InMsg) : Option Nat :=
  let mask := hMask (s.handler0 c m.msg.dh)
  let acts := (List.range 6).filter fun i => mask.testBit i && Thread.live (s.thread (.thr c i))
  let late := s.msgReady c m && decide (m.readySince ≠ 0) && decide (m.readySince.toNat + 1000 ≤ s.timebase.toNat) &&
    (s.lowestFree c mask m.msg.dh).isNone && acts.any fun i => decide ((s.thread (.thr c i)).prio < s.msgPrio c m.msg)
  let ok := acts.filter fun i =>
    let t := s.thread (.thr c i)
    !t.resident && t.hosted.isNone && !pastBoundary t
  let worse := fun (i j : Nat) =>
    let a := s.thread (.thr c i)
    let b := s.thread (.thr c j)
    if a.prio ≠ b.prio then decide (a.prio < b.prio)
    else if a.deadline ≠ b.deadline then
      decide (a.deadline = 0) || (decide (b.deadline ≠ 0) && decide (b.deadline.toNat < a.deadline.toNat))
    else decide (b.taken.toNat < a.taken.toNat)
  if late then
    ok.foldl (fun m i => match m with
      | none => some i
      | some j => if worse i j then some i else some j) none
  else none

/-- The context of a thread has been written to its area: the thread hosts it and is SAVED (R396 to R398). -/
def saveContext (s : State) (c tid : Nat) (parked : Bool) : State :=
  let a : Agent := .thr c tid
  let t := s.thread a
  let va := (s.saveArea c tid).toNat
  let free := fun (n k : Nat) => (List.range n).map fun i => Config.freeWord s.freeCtr (k + i)
  let regs := regArea t ++ sysArea t ++ List.replicate 72 0
  let journal := (wordsBytes (free ((t.jcnt + 7) / 8) 32)).take t.jcnt
  let h : Hosted :=
    { parked := parked, gen := t.gen, journal := t.journal, outst := t.outst.filter fun o => decide (o.gen = t.gen), actid := t.actid
      actst := t.actst, hid := t.hid, rcb := t.rcb, preg := t.preg, pregDecl := t.pregDecl, slot := t.slot, slotAt := t.slotAt
      cctr := t.cctr, launch := t.launch, taken := t.taken, arrival := t.arrival, idle := t.idle, pend := t.pendTrap, jbad := t.jbad
      savedAt := s.timebase, entryAddr := t.entryAddr, missCounted := t.missCounted, lastCopy := t.lastCopy, msghdr := t.msghdr }
  let s1 := (s.putVirt c (va + 0x1180) (wordsBytes regs)).putVirt c (va + 0x2980) journal
  (s1.countEvent c tid 0x0D).modThread a fun t =>
    { t.blank with
      st := .saved, hosted := some h, wait := none, journal := [], jbad := false, pendTrap := [], launch := false, cctr := none
      slot := none, slotAt := none, ss := [], cellBusy := false, yielded := false, landing := 0, loopActive := false, lastCopy := 0
      outst := t.outst.filter fun o => decide (o.gen ≠ t.gen) }

/-- A buffered reply or return is applied to the context that has resumed; the list holds the returns that wait for its return cell, in
their order (R279, R281). -/
def applyBuffered (c tid : Nat) (r : State × List Msg) (m : Msg) : State × List Msg :=
  let s := r.1
  let a : Agent := .thr c tid
  let s0 := if m.poisoned then
      s.modThread a fun t => { t with pendTrap := t.pendTrap ++ [{ code := Cause.uncorrectable, sub := 3 }] }
    else s
  if m.nack then
    match s0.returnLive c tid m with
    | some s1 => (s1, r.2)
    | none => (s0, r.2 ++ [{ m with received := true, dst := c }])
  else
    match answered (s0.thread a) m with
    | some o => (s0.completeReply a o m, r.2)
    | none => (s0, r.2)

/-- The hosted context is restored and runs again; buffered returns that still wait stand first in the core's input buffer (R281, R397,
R398). -/
def restoreContext (s : State) (c tid : Nat) (h : Hosted) : State :=
  let a : Agent := .thr c tid
  let va := (s.saveArea c tid).toNat
  let bad := s.virtPoisoned c (va + 0x1180) 6144
  let jbad := h.jbad || s.virtPoisoned c (va + 0x2980) (field h.actst 16 13)
  let err := fun (b : Bool) (sub : BitVec 8) => if b then [({ code := Cause.uncorrectable, sub := sub } : PendTrap)] else []
  let t := s.thread a
  let base : Thread := { t with outst := h.outst, actst := h.actst }
  let r := s.readArea c (va + 0x1180) base
  let n : Thread :=
    { r with
      st := .run, wait := none, journal := h.journal, jbad := h.jbad, outst := r.outst ++ t.outst
      rcb := h.rcb, pregDecl := h.pregDecl, slot := h.slot, slotAt := h.slotAt, cctr := h.cctr, launch := h.launch, taken := h.taken
      arrival := h.arrival, idle := h.idle + (s.timebase - h.savedAt), lastCopy := h.lastCopy
      pendTrap := h.pend ++ err bad 0 ++ err jbad 2
      entryAddr := h.entryAddr, missCounted := h.missCounted, hosted := none, resuming := false, restoring := false
      resident := false, fbuf := none, fbufStale := false, fetchEpoch := (s.getCore c).epoch
      wdFired := h.pend.any fun p => decide (p.code = Cause.watchdog) }
  let u := (h.ctxBuf ++ h.saveMsgs).foldl (applyBuffered c tid) (s.setThread a n, [])
  { u.1 with mesh := u.2 ++ u.1.mesh }

/-! ### T6's remote operations (R32, R248, R249) -/

/-- T6 of core `c` can begin its next operation. -/
def t6Ready (s : State) (c : Nat) : Bool :=
  let k := s.getCore c
  decide ((s.thread (.thr c 6)).st = .free) && k.started && k.stop.isNone && !k.resetting && k.scan.isNone

/-- The reply to a request: it goes to the context that asked (R248, R281, DEDUCED, log entry 8). -/
def replyMsg (s : State) (c : Nat) (m : Msg) (v : Word) : Msg :=
  { hdr0 := mkHdr0 m.tag m.sh m.sc 0 (s.coordOf (.thr c 6)) 4 1 m.sub, hdr1 := m.hdr1, payload := [v], src := c
    dst := s.senderUnit m, part := s.partOf (.thr c 6) }

/-- T6 serves the request at the head of its queue, of code `code`: `f` gives the new doubleword, if one is written; a reply carries
the old one. It waits for the range scoreboard and, with a reply, for a send-buffer entry. A poisoned request or sector is
consumed by T6, which tells the core region and performs nothing. -/
def serve (s : State) (c code : Nat) (f : Msg → Word → Option Word) : Out :=
  match (s.getCore c).t6q with
  | [] => .next s
  | m :: rest =>
    let w := m.word 0
    let ad := field w 0 20
    let l := ulmLoc c ad
    let answer := decide (code = 0x08) || decide (code = 0x0A) || (decide (0x10 ≤ code) && decide (m.word 2 ≠ 0))
    let old := s.ulmWord c ad
    let new := f m old
    if !s.t6Ready c || decide (m.kind ≠ 3) || decide (m.sub ≠ code) then .next s
    else if s.sbBlocks c ad 8 (decide (code ≠ 0x08)) then .next s
    else if answer && (decide (4 ≤ (s.getCore c).sendBuf.length) || !(s.getCore c).niWait.isEmpty) then .next s
    else
      let s1 := (s.modCore c fun k => { k with t6q := rest }).acquire (.thr c 6) m.clock
      let done := fun (t : State) => t.accountDelay c m.hdr0 m.hdr1 m.arrival t.timebase 0
      if m.poisoned || (decide (code ≠ 0x09) && s.poisoned l 8) then
        let s2 := s1.countCore c 0x14
        let sub : BitVec 8 := if m.poisoned then 3 else 0
        .next (done (s2.sendFault c (s2.partOf (.thr c 6)) (s2.coreRegion c) false Cause.uncorrectable
          [0, ofN ad, 0, s2.faultWord3 c 6 0 0 Cause.uncorrectable sub]))
      else
        let s2 := match new with
          | some v => s1.putUlmWord c ad v
          | none => s1
        .next (done (if answer then s2.requestSend c (8 * c + 6) (s2.replyMsg c m old) else s2))

/-- The new value of a RAMO: op = code − 0x10, as the AMOs are numbered (R246, R248). -/
def ramoNew (op : Nat) (old b : Word) : Word :=
  match op with
  | 0 => old + b
  | 1 => old &&& b
  | 2 => old ||| b
  | 3 => old ^^^ b
  | 4 => if old.slt b then old else b
  | 5 => if old.slt b then b else old
  | 6 => if old.ult b then old else b
  | 7 => if old.ult b then b else old
  | _ => b

/-! ### The checker (R400, R401) -/

/-- A strike of core `c`: the first raises a KIND 6 item, the second makes the core OFF. -/
def strikeCore (s : State) (c : Nat) (sub : BitVec 8) (tval : Word) (note : Word → Word) : State :=
  let w := note (s.getCore c).ckstat
  let n := field w 0 2
  let s1 := s.modCore c fun k => { k with ckstat := setField w 0 2 (min 2 (n + 1)) }
  if n = 0 then s1.appendItem c Cause.checkerMismatch sub 6 none tval 0 0 0 else s1.coreOff c Cause.checkerMismatch 1 tval

/-- A saturating field one higher. -/
def satField (w : Word) (lo width : Nat) : Word := setField w lo width (min (2 ^ width - 1) (field w lo width + 1))

end State

/-- END_COMMIT: the commit of END or DEFER on a thread of T0 to T5 goes on, and the activation retires when the NI has all its messages. (R27) -/
def execEndCommit (core : Nat) (tid : Nat) (s : State) : Out :=
  match (s.thread (.thr core tid)).wait with
  | some w =>
    match w.kind with
    | .ending d => .next (s.endStep core tid d)
    | _ => .next s
  | none => .next s

/-- WATCHDOG_EXPIRY: the watchdog of an activation expires; WATCHDOG is taken at its next boundary. (R29) -/
def execWatchdogExpiry (core : Nat) (tid : Nat) (s : State) : Out :=
  if tid < 6 ∧ State.watchdogDue (s.thread (.thr core tid)) = true then
    .next ((s.countCore core 0x15).watchdogTrap (.thr core tid) 0)
  else .next s

/-- ACTIVE_MESSAGE_WATCHDOG: an active message has run for more than 4,096 cycles. (R32) -/
def execActiveMessageWatchdog (core : Nat) (s : State) : Out :=   if State.watchdogDue (s.thread (.thr core 6)) then .next (s.watchdogTrap (.thr core 6) 1) else .next s

/-- SEQUENCER_WATCHDOG: the watchdog of the forker's region ends a sequencer program, with EPC the next unissued instruction. (R171) -/
def execSequencerWatchdog (set : Nat) (q : Nat) (s : State) : Out :=
  let a : Agent := .seq set q
  let t := s.thread a
  if (t.st = .run ∨ t.st = .wait) ∧ t.wdLeft = 0 then .next (s.seqEnd set q (ofN (2 ^ 63 + 0x15)) (some (t.pc, 0))) else .next s

/-- UNCORRECTABLE_ERROR: an uncorrectable memory error strikes an object. (R215) -/
def execUncorrectableError (obj : ErrObj) (s : State) : Out :=   .next (s.strike obj)

/-- UNCORRECTABLE_TRAP: a consumed uncorrectable error is taken at the thread's boundary: retake, or escalation. (R395) -/
def execUncorrectableTrap (core : Nat) (tid : Nat) (s : State) : Out :=
  let a : Agent := .thr core tid
  if s.trapReady a && ((s.thread a).pendTrap.head?.any fun p => decide (p.code = Cause.uncorrectable)) then .next (s.takePending a)
  else .next s

/-- PREEMPT_REQUEST: the core raises a KIND 3 item that names a victim; a trap that is due at the victim's boundary is taken first
(R410). (R394) -/
def execPreemptRequest (core : Nat) (s : State) : Out :=
  let k := s.getCore core
  if k.preemptOut || decide (s.timebase.toNat < k.preemptFrom.toNat) || s.t7Full core || !s.takes core then .next s
  else
    match k.inbox.findSome? (s.victimOf core) with
    | none => .next s
    | some i =>
      let t := s.thread (.thr core i)
      if s.trapReady (.thr core i) then .next s
      else .next ((s.appendItem core Cause.preempt 1 3 (some i) t.actid t.epc t.actid t.actst).modCore core fun k => { k with preemptOut := true })

/-- SAVE_COMPLETE: the save engine has written the context, and the thread is SAVED. (R396) -/
def execSaveComplete (core : Nat) (tid : Nat) (s : State) : Out :=
  match (s.thread (.thr core tid)).wait with
  | some w =>
    match w.kind with
    | .saving parked => .next (s.saveContext core tid parked)
    | _ => .next s
  | none => .next s

/-- RESUMPTION_ITEM: a SAVED thread with nothing to take raises a KIND 4 item. (R398) -/
def execResumptionItem (core : Nat) (tid : Nat) (s : State) : Out :=
  let t := s.thread (.thr core tid)
  match t.hosted with
  | none => .next s
  | some h =>
    let busy := (s.candidates core).any fun c => decide (c.tid = tid)
    if t.st ≠ .saved ∨ h.parked ∨ t.resuming ∨ t.restoring ∨ busy ∨ s.t7Full core = true ∨ s.takes core = false then .next s
    else
      let w := (s.saveArea core tid).toNat + 0x1180 + 0x13C0
      let s1 := s.appendItem core 0 0 4 (some tid) (s.virtWord core (w + 32)) (s.virtWord core (w + 40)) h.actid h.actst
      .next (s1.modThread (.thr core tid) fun t => { t with resuming := true })

/-- RESTORE_COMPLETE: the context has been read back, and its buffered replies and returns are applied. (R398) -/
def execRestoreComplete (core : Nat) (tid : Nat) (s : State) : Out :=
  let t := s.thread (.thr core tid)
  match t.hosted with
  | none => .next s
  | some h => if t.restoring ∧ t.st = .saved then .next (s.restoreContext core tid h) else .next s

/-- SERVICE_ITEM_START: T7, FREE, takes its next item. (R391) -/
def execServiceItemStart (core : Nat) (s : State) : Out :=   if (s.getCore core).started then .next (s.startItem core) else .next s

/-- ACTIVE_MESSAGE_START: T6 takes the active message at the head of its queue, under its handler's entry as it stands then (DEDUCED, log
entry 94). (R32) -/
def execActiveMessageStart (core : Nat) (s : State) : Out :=
  match (s.getCore core).t6q with
  | [] => .next s
  | m :: rest =>
    if !s.t6Ready core || decide (m.kind = 3) then .next s
    else
      let copy := s.blockAddr core 0x1D80
      let s1 := ((s.modCore core fun k => { k with t6q := rest }).putUlm core copy m.bytes).acquire (.thr core 6) m.clock
      .next ((s1.enterThread core 6 m copy).modThread (.thr core 6) fun t =>
        { t with
          wdLeft := s.activeNs, arrival := m.arrival
          pendTrap := t.pendTrap ++ (if m.poisoned then [{ code := Cause.uncorrectable, sub := 3, tval := ofN copy }] else []) })

/-- RLD_SERVE: T6 serves a remote load and replies. (R249) -/
def execRldServe (core : Nat) (s : State) : Out :=   s.serve core 0x08 fun _ _ => none

/-- RST_SERVE: T6 serves a remote store. (R249) -/
def execRstServe (core : Nat) (s : State) : Out :=   s.serve core 0x09 fun m _ => some (m.word 1)

/-- RCAS_SERVE: T6 serves a remote compare-and-swap and replies. (R249) -/
def execRcasServe (core : Nat) (s : State) : Out :=   s.serve core 0x0A fun m old => if old = m.word 2 then some (m.word 1) else none

/-- RAMO_SERVE: T6 serves a remote atomic, and replies when a result was asked for. (R249) -/
def execRamoServe (core : Nat) (s : State) : Out :=
  let code := match (s.getCore core).t6q with
    | m :: _ => m.sub
    | [] => 0
  if 0x10 ≤ code ∧ code ≤ 0x18 then s.serve core code fun m old => some (State.ramoNew (code - 0x10) old (m.word 1)) else .next s

/-- MIGRATE_ARRIVAL: a migrated context reaches its new core, an acquire there, and ranks among the core's messages. (R38) -/
def execMigrateArrival (i : Nat) (s : State) : Out :=
  match s.migrants[i]? with
  | none => .next s
  | some g =>
    if g.arrived || (s.retraining && decide (g.src / 64 ≠ g.dest / 64)) then .next s
    else
      let n := (s.getCore g.dest).order
      let s1 : State := { s with migrants := State.atIdx s.migrants i fun g => { g with arrived := true, order := n } }
      .next ((s1.modCore g.dest fun k => { k with order := n + 1 }).acquire (.thr g.dest 0) g.clock)

/-- MIGRATE_FORWARD_EXPIRY: 64 µs after a move its old core stops forwarding. (R38) -/
def execMigrateForwardExpiry (i : Nat) (s : State) : Out :=
  match s.forwards[i]? with
  | none => .next s
  | some f => if s.timebase.toNat < f.upTo.toNat then .next s else .next { s with forwards := s.forwards.eraseIdx i }

/-- DEADLINE_MISS: the timebase has reached the deadline of an activation. (R312) -/
def execDeadlineMiss (core : Nat) (tid : Nat) (s : State) : Out :=
  let t := s.thread (.thr core tid)
  if tid < 6 ∧ Thread.live t = true ∧ s.missDue t = true then .next (s.miss core tid) else .next s

/-- CHECKER_MISMATCH: the checker blocks the commit of the core's next instruction, which is executed again. (R400) -/
def execCheckerMismatch (core : Nat) (s : State) : Out :=
  match s.choose core with
  | none => .next s
  | some a => .next (((s.countCore core 0x17).countEvent core a.tid 0x09).strikeCore core 0 (s.thread a).pc fun w => State.satField w 32 16)

/-- KNOWN_ANSWER_MISMATCH: a known-answer operation mismatches, in the vector unit of a core that is not OFF, or in the ME of its Set,
which is recorded on core 0 of the Set whatever its state. (R400) -/
def execKnownAnswerMismatch (core : Nat) (me : Bool) (s : State) : Out :=
  let n := if me then s.coreZero (core / 8) else core
  let x := Config.freeWord s.freeCtr core
  if me then
    .next ((s.modCore n fun k => { k with ckstat := State.satField (setField k.ckstat 7 1 1) 24 8 }).appendItem n Cause.checkerMismatch 2 6
      none x 0 0 0)
  else if bitAt (s.getCore n).ckstat 16 then .next s
  else .next (s.strikeCore n 3 x fun w => State.satField (setField w 6 1 1) 24 8)

/-- SCAN_COMPLETE: a scan ends after 200 µs with PASS or FAIL. (R136) -/
def execScanComplete (core : Nat) (pass : Bool) (s : State) : Out :=
  match (s.getCore core).scan with
  | none => .next s
  | some k => if s.timebase.toNat < k.start.toNat + 200000 then .next s else .next (s.endScan core (if pass then 1 else 2))

/-- SCAN_ABORT: a scan stops for a ready message at or above its abort priority, or for a pre-emption request. (R136) -/
def execScanAbort (core : Nat) (s : State) : Out :=
  match (s.getCore core).scan with
  | none => .next s
  | some k =>
    let urgent := (s.getCore core).inbox.any fun m => s.msgReady core m && decide (k.abortPrio ≤ s.msgPrio core m.msg)
    if urgent || (s.getCore core).t7q.any (fun i => decide (i.kind = 3)) then .next (s.endScan core 3) else .next s

/-- CORE_AT_REST: every thread of a stopping core has come to rest, and the core writes its stop record. The die in it is the core's; R15
puts its Set and core there too, for which R404 names no place: bits [15:13] and [12:10] of doubleword 3 (DESIGN CHOICE, log entry
85). (R404) -/
def execCoreAtRest (core : Nat) (s : State) : Out :=
  match (s.getCore core).stop with
  | none => .next s
  | some r =>
    let s1 := s.settleStops core
    if r.atRest ∨ s1.coreAtRest core = false then .next s1
    else
      let k := s1.getCore core
      let l := s1.coordOf (.thr core 7) % 128
      let thr := (List.range 8).map fun i =>
        let t := s1.thread (.thr core i)
        let w := (s1.saveArea core i).toNat + 0x1180 + 0x13C0
        State.stopWord t (if t.hosted.isSome then s1.virtWord core w else 0)
      let rec' := [s.timebase, Tbl.get 0 k.fixed 0x10, Tbl.get 0 k.fixed 0x11, ofN (r.group + 32 * (l / 64) + 256 * r.source + 1024 * (l % 8) + 8192 * (l / 8 % 8))] ++ thr ++ [0, 0, 0, 0]
      let s2 := s1.modDie (core / 64) fun d => { d with stopRec := Tbl.put [] d.stopRec (core % 64) rec' }
      .next (s2.modCore core fun k => { k with stop := some { r with atRest := true } }).markGroups

/-- ILLEGAL_INSTRUCTION: issue of a word that no map entry assigns; TVAL holds the word. (R59) -/
def execIllegalInstruction (w : BitVec 32) (compact : Bool) (s : State) : Out :=   trapOut s Cause.illegalInstruction (zext64 w)


end Sys2Proof.Machine
end

