-- ==== Sys2Proof/Machine/Mon.lean ====
section
/-! DEFINITION. The MON group (R296 to R301). -/

namespace Sys2Proof.Machine

namespace State

/-- A bin word: its upper bits are 0 (R297). -/
def binWord (s : State) (e : Enc) (w : Word) (k : Nat → Nat → Res Out) : Out :=
  if s.cur.isSeq && !s.cur.isSeqNo 1 then illegalIssuer s e
  else if !s.setOwned then trapOut s Cause.permission 0
  else
    finishOut s (do
      check (decide (w.toNat / 16 = 0)) Cause.metadataMalformed w
      k s.cur.setNo w.toNat)

/-- The configuration word of MONOPEN is well-formed, and its bin CLOSED (R296, R297). -/
def monCfgOk (s : State) (n : Nat) (w : Word) : Bool :=
  decide (field w 51 13 = 0) && decide (10 ≤ field w 25 17) && decide (field w 25 17 ≤ 100000) && decide (field w 22 3 ≤ 5) &&
  decide (1 ≤ field w 13 9) && decide (field w 13 9 ≤ 256) && decide (1 ≤ field w 4 9) && decide (field w 4 9 ≤ 256) &&
  decide ((s.bin n (field w 0 4)).state = 0)

/-- The reel that MONOPEN names can serve a bin (R297). -/
def monReel (s : State) (n : Nat) (w : Word) : Option Nat :=
  match s.reelPlace n w with
  | some h => if s.reelValid h && s.reelTile h && decide (32 ≤ s.reelSize h) && !s.binNames h then some h else none
  | none => none

end State

/-- MONOPEN: Configures a Montage bin and names its reel. (R297) -/
def execMonopen (s : State) : Out :=
  let n := s.cur.setNo
  let w := s.ox 0
  let r := s.ox 1
  if s.cur.isSeq && !s.cur.isSeqNo 1 then illegalIssuer s word.monopen
  else if !s.setOwned then trapOut s Cause.permission 0
  else
    finishOut s (do
      check (s.monCfgOk n w) Cause.metadataMalformed w
      check (decide (field r 24 40 = 0)) Cause.metadataMalformed r
      match s.monReel n r with
      | none => trapR Cause.reelMisuse r
      | some h =>
        .ok (s.act fun s1 =>
          .next ((s1.setBin n (field w 0 4) { state := 1, cfg := w, hdrLoc := h, next := field (s1.reelWord h 1) 16 11 }).adv 4)))

/-- MONPUT: Sends a feature row to the Montage unit; status returns in X[d]. (R298) -/
def execMonput (d : BitVec 5) (a : BitVec 5) (b : BitVec 5) (s : State) : Out :=
  let n := s.cur.setNo
  let w := s.x d
  let ad := s.x a
  if s.cur.isSeq then illegalIssuer s (word.monput d a b)
  else
    s.binWord (word.monput d a b) w fun _ i => do
      let len := (s.bin n i).len
      check (decide (ad.toNat + len ≤ 0x100000)) Cause.noRange ad
      let bs ← s.loadBytes s.cur ad len
      .ok (s.act fun s1 =>
        let s2 := s1.modMe fun t => { t with opTag := t.opTag + 1 }
        let x : RowXfer :=
          { core := s2.cur.coreNo, tid := s2.cur.tid, bin := i, data := bs, tag := s2.x b, op := s2.me.opTag, gen := s2.me.gen }
        let s3 := s2.modMe fun t => { t with outst := t.outst ++ [{ tag := t.opTag, rd := d, gen := t.gen }] }
        .next ((s3.modSet n fun k => { k with rowXfers := k.rowXfers ++ [x] }).advAsk 4))

/-- MONSEAL: Seals a filling bin explicitly. (R301) -/
def execMonseal (a : BitVec 5) (s : State) : Out :=   s.binWord (word.monseal a) (s.x a) fun n i => .ok (s.act fun s1 => .next ((s1.sealNow n i 3).adv 4))

/-- MONSTAT: Reads a bin's state. (R301) -/
def execMonstat (d : BitVec 5) (a : BitVec 5) (s : State) : Out :=
  s.binWord (word.monstat d a) (s.x a) fun n i =>
    let b := s.bin n i
    .ok (s.setReg d (ofN (b.next * 2 ^ 42 + b.sealNo % 2 ^ 24 * 2 ^ 18 + s.freeBufs n * 4096 + b.rows * 8 + b.state)))

/-- MONCLOSE: Seals and closes a bin. (R299) -/
def execMonclose (a : BitVec 5) (s : State) : Out :=
  s.binWord (word.monclose a) (s.x a) fun n i =>
    .ok (s.act fun s1 =>
      let b := s1.bin n i
      let s2 := match b.state with
        | 1 => s1.setBin n i { b with state := 0 }
        | 2 => s1.sealBin n i (s1.firstCause b 4) true
        | 3 => s1.setBin n i { b with closing := true }
        | _ => s1
      .next (s2.adv 4))


end Sys2Proof.Machine
end

