-- ==== Sys2Proof/Machine/Stream.lean ====
section
/-! DEFINITION. The stream slots of the CPY group (R262 to R265). -/

namespace Sys2Proof.Machine

namespace State

/-- The slot that STCFG would bind, from ox0 to ox7 (R262). -/
def streamOf (s : State) : Stream :=
  let w := s.ox 7
  { bound := true, write := bitAt w 12, es := 2 ^ field w 10 2, vfile := bitAt w 9, reg := 28 + field w 7 2, base := s.ox 0
    strides := [s.ox 1, s.ox 2, s.ox 3, s.ox 4]
    counts := [field (s.ox 5) 0 32, field (s.ox 5) 32 32, field (s.ox 6) 0 32, field (s.ox 6) 32 32] }

/-- The conditions under which STCFG of slot `d` does not take STREAM_FAULT (R262). -/
def streamValid (s : State) (d : Nat) (n : Stream) : Bool :=
  let w := s.ox 7
  decide (field w 13 51 = 0) && decide (field w 0 7 = 0) && (n.vfile || decide (4 ≤ n.es)) &&
  decide (n.base.toNat % n.es = 0) && n.strides.all (fun k => decide (k.toNat % n.es = 0)) && decide (n.total ≤ 2 ^ 48) &&
  (List.range 4).all fun k => decide (k = d) ||
    !((s.me.getSs k).bound && decide ((s.me.getSs k).vfile = n.vfile) && decide ((s.me.getSs k).reg = n.reg))

/-- Slot `d` is bound for writing with pushes that are still to be performed: STEND and STCFG wait (R265). -/
def pushing (s : State) (d : Nat) : Bool :=
  (s.me.getSs d).bound && (s.getCore s.cur.coreNo).pushQ.any fun w => decide (w.tid = s.cur.tid) && decide (w.slot = d)

end State

/-- STCFG: Binds a stream slot to f28-f31 or v28-v31 with an address pattern. (R262) -/
def execStcfg (d : BitVec 5) (s : State) : Out :=
  let k := d.toNat
  if s.cur.isSeq then illegalIssuer s (word.stcfg d)
  else if !s.streamValid k s.streamOf then trapOut s Cause.streamFault (ofN k)
  else if s.pushing k then .next s
  else
    .next ((s.modMe fun t =>
      let t1 := t.setSs k s.streamOf
      { t1 with vcsr := t1.vcsr &&& ~~~(ofN (2 ^ (4 + k))) }).adv 4)

/-- STEND: Unbinds a stream slot after its pushes are performed. (R265) -/
def execStend (d : BitVec 5) (s : State) : Out :=
  let k := d.toNat
  if s.cur.isSeq then illegalIssuer s (word.stend d)
  else if s.pushing k then .next s
  else .next ((s.modMe fun t => t.setSs k {}).adv 4)

/-- STSTAT: Reads a stream slot's status. (R265) -/
def execStstat (d : BitVec 5) (a : BitVec 5) (s : State) : Out :=
  let st := s.me.getSs a.toNat
  if s.cur.isSeq then illegalIssuer s (word.ststat d a)
  else
    s.setReg d (if st.bound then
      ofN (2 ^ 63 + b2n st.write * 2 ^ 62 + b2n (st.ahead.any fun e => e.fault.isSome) * 2 ^ 61 + (st.total - st.pos) % 2 ^ 48)
    else 0)


end Sys2Proof.Machine
end

