-- ==== Sys2Proof/Machine/Reel.lean ====
section
/-! DEFINITION. The REEL group (R290). -/

namespace Sys2Proof.Machine

namespace State

/-- The header of a REEL instruction: its location, with the checks of R290. -/
def reelAt (s : State) (w : Word) : Res Nat := do
  check (decide (w.toNat % 64 = 0)) Cause.misaligned w
  check (decide (w.toNat + 64 ≤ s.cur.window)) Cause.noRange w
  .ok (s.cur.localLoc w.toNat)

/-- The configuration word of REELINIT is legal (R290). -/
def reelConfig (a : Agent) (c : Word) : Bool :=
  decide (field c 41 23 = 0) && decide (field c 36 4 ≤ 10) && decide (field c 20 16 % 8 = 0) && decide (field c 20 16 ≠ 0) &&
  decide (field c 0 20 % 8 = 0) && decide (field c 0 20 + 2 ^ field c 36 4 * field c 20 16 ≤ a.window)

/-- What REELAWAIT returns: the address of the read slot, with PSN[0] in bit 63 (R290). -/
def reelResult (s : State) (h : Nat) : Word :=
  ofN (b2n (bitAt (s.reelPsn h) 0) * 2 ^ 63 + (s.reelBase h + s.reelRp h % s.reelN h * s.reelSize h))

end State

/-- REELINIT: Initialises a reel header. (R290) -/
def execReelinit (a : BitVec 5) (b : BitVec 5) (s : State) : Out :=
  let c := s.x b
  finishOut s (do
    let h ← s.reelAt (s.x a)
    check (State.reelConfig s.cur c) Cause.metadataMalformed c
    check (!s.reelTargeted h none && !s.binNames h) Cause.reelMisuse (s.x a)
    .ok (s.act fun s1 =>
      let s2 := (s1.putBytes h (wordBytes c)).putReel h 0 0 0
      .next (({ s2 with carried := Tbl.put [] (Tbl.put [] s2.carried (h / 8 + 2) []) (h / 8 + 3) [] } : State).adv 4)))

/-- REELAWAIT: Waits until the reel's read slot is filled and returns its address. (R290) -/
def execReelawait (d : BitVec 5) (a : BitVec 5) (s : State) : Out :=
  if s.cur.isT6 then illegalIssuer s (word.reelawait d a)
  else
    finishOut s (do
      let h ← s.reelAt (s.x a)
      check (s.reelValid h) Cause.reelMisuse (s.x a)
      .ok (if bitAt (s.reelFill h) 0 then .next (((s.acquire s.cur (s.reelClock h 0)).wx d (s.reelResult h)).adv 4)
        else s.blockOn { kind := .reel h, rd := d }))

/-- REELREL: Releases the reel's read slot and advances RP. (R290) -/
def execReelrel (a : BitVec 5) (s : State) : Out :=
  finishOut s (do
    let h ← s.reelAt (s.x a)
    check (s.reelValid h && bitAt (s.reelFill h) 0) Cause.reelMisuse (s.x a)
    .ok (s.actRelease fun s1 =>
      let s2 := if s1.reelTile h then s1.releaseTile h else s1
      .next ((s2.releaseSlotBy s2.cur h).adv 4)))

/-- REELST: Reads the reel's state. (R290) -/
def execReelst (d : BitVec 5) (a : BitVec 5) (s : State) : Out :=
  finishOut s (do
    let h ← s.reelAt (s.x a)
    let w := s.reelWord h 1
    .ok (s.setReg d (ofN (field w 63 1 * 2 ^ 63 + popNat 128 (s.reelFill h).toNat * 2 ^ 32 + field w 16 11 * 2 ^ 16 + field w 0 11))))


end Sys2Proof.Machine
end

