-- ==== Sys2Proof/Machine/EvWait.lean ====
section
/-! DEFINITION. Events that end a wait (R85, R133, R173, R174, R287, R290, R371, R374). -/

namespace Sys2Proof.Machine

namespace State

/-- What a waiting agent waits for: none while it runs, is stopped, or is held by nothing. -/
def waiting (s : State) (a : Agent) : Option Wait := if (s.thread a).st = .wait then (s.thread a).wait else none

/-- A wait is over: an acquire of what carries clock `k`, and X[rd] takes the value (R229, R232). -/
def waitDone (s : State) (a : Agent) (rd : BitVec 5) (k : Clock) (v : Word) : Out := .next ((s.acquire a k).wake a fun t => t.setX rd v)

/-- A waiter finds its counter, barrier or slate poisoned: DEPFAULT at its instruction (R370, R374). -/
def waitPoisoned (s : State) (a : Agent) (w : Word) : Out := .next (s.takeTrap a false Cause.depfault 0 w (s.thread a).pc)

end State

/-- A WAIT whose time has come, or on T7 whose queue has an item, resumes. (R133) -/
def execWaitTimeReached (agent : Nat) (s : State) : Out :=

  let a := Agent.ofKey agent
  match s.waiting a with
  | some { kind := .time upTo item noTime, rd := _, len := _, released := _, doomed := _, clock := _ } =>
    if s.timeMet a upTo item noTime then .next (s.wake a id) else .next s
  | _ => .next s


/-- A DCWAIT whose counter is poisoned takes DEPFAULT; one that was released, or whose counter is 0, completes as an acquire. (R371) -/
def execDcwaitRelease (agent : Nat) (s : State) : Out :=

  let a := Agent.ofKey agent
  match s.waiting a with
  | some { kind := .dc d i w, rd := _, len := _, released := r, doomed := bad, clock := k } =>
    if bad ∨ (!r && (s.dc d i).poison) then s.waitPoisoned a w
    else if r ∨ (s.dc d i).value = 0 then .next ((s.acquire a (if r then k else (s.dc d i).clock)).wake a id)
    else .next s
  | _ => .next s


/-- A BARWAIT whose barrier is poisoned takes DEPFAULT; one whose phase has changed returns the phase, as an acquire. (R371) -/
def execBarwaitRelease (agent : Nat) (s : State) : Out :=

  let a := Agent.ofKey agent
  match s.waiting a with
  | some { kind := .bar d i ph w, rd := rd, len := _, released := r, doomed := bad, clock := k } =>
    let b := s.bar d i
    if bad ∨ (!r && b.poison) then s.waitPoisoned a w
    else if r ∨ b.phase ≠ ph then s.waitDone a rd (if r then k else b.clock) (ofN b.phase.toNat)
    else .next s
  | _ => .next s


/-- A SLWAIT whose slate is poisoned takes DEPFAULT; one whose generation has closed returns the status word, as an acquire. (R374) -/
def execSlwaitRelease (agent : Nat) (s : State) : Out :=

  let a := Agent.ofKey agent
  match s.waiting a with
  | some { kind := .slate d i g w, rd := rd, len := _, released := r, doomed := bad, clock := _ } =>
    let k := s.getSlate d i
    if bad ∨ (!r && decide (k.state = 2)) then s.waitPoisoned a w
    else if r ∨ k.gen ≠ g ∨ k.state ≠ 1 then s.waitDone a rd [] k.word
    else .next s
  | _ => .next s


/-- A REELAWAIT whose read slot is filled returns its address, as an acquire. (R290) -/
def execReelawaitFill (agent : Nat) (s : State) : Out :=

  let a := Agent.ofKey agent
  match s.waiting a with
  | some { kind := .reel h, rd := rd, len := _, released := _, doomed := _, clock := _ } =>
    if bitAt (s.reelFill h) 0 then s.waitDone a rd (s.reelClock h 0) (s.reelResult h) else .next s
  | _ => .next s


/-- A QGET takes the head of its queue register; a poisoned one gives QPOISON, which waits for room in the queue of T7. One whose agent
is no longer the register's consumer takes PERMISSION. (R287) -/
def execQgetWake (agent : Nat) (s : State) : Out :=

  let a := Agent.ofKey agent
  match s.waiting a with
  | some { kind := .qget u q, rd := rd, len := _, released := _, doomed := _, clock := _ } =>
    if !s.qMay a q false then .next (s.takeTrap a false Cause.permission 0 (ofN q) (s.thread a).pc)
    else if (s.qreg u q).entries.isEmpty ∨ s.qHeld a q then .next s
    else .next (s.qTake a q rd)
  | _ => .next s


/-- A QPUT that waits in RUN appends its value once fewer than 16 entries are held. One whose agent is no longer the register's producer
takes PERMISSION. (R287) -/
def execQputRoom (agent : Nat) (s : State) : Out :=

  let a := Agent.ofKey agent
  match (s.thread a).wait with
  | some { kind := .qput u q v, rd := _, len := _, released := _, doomed := _, clock := _ } =>
    let r := s.qreg u q
    if (s.thread a).st ≠ .run then .next s
    else if !s.qMay a q true then .next (s.takeTrap a false Cause.permission 0 (ofN q) (s.thread a).pc)
    else if 16 ≤ r.entries.length then .next s
    else .next ((s.setQreg u q { r with entries := r.entries ++ [(v, false)] }).wake a id)
  | _ => .next s


/-- A JOIN whose program has ended returns its exit value. (R173) -/
def execJoinWake (agent : Nat) (s : State) : Out :=

  let a := Agent.ofKey agent
  match s.waiting a with
  | some { kind := .join n q sq, rd := rd, len := _, released := _, doomed := _, clock := _ } =>
    if s.joined n q sq then .next (s.wake a fun t => t.setX rd (s.joinValue n q sq)) else .next s
  | _ => .next s


/-- The first waiter of a semaphore is granted once the count suffices. (R174) -/
def execSemwaitGrant (agent : Nat) (s : State) : Out :=

  let a := Agent.ofKey agent
  match s.waiting a with
  | some { kind := .sem n i _, rd := _, len := _, released := _, doomed := _, clock := _ } =>
    (match s.semGrant n i (some a.key) with
    | some c => .next ((s.semTake n i (some a.key) c).wake a id)
    | none => .next s)
  | _ => .next s


/-- The oldest raise on its way is ORed into SFLAGS. (R85) -/
def execFlagToSflags (set : Nat) (s : State) : Out :=

  match (s.getSet set).flagPend with
  | [] => .next s
  | w :: rest => .next (s.modSet set fun k => { k with flagPend := rest, sflags := k.sflags ||| w })



end Sys2Proof.Machine
end

