-- ==== Sys2Proof/Machine/EvEngine.lean ====
section
/-! DEFINITION. Events of the Set: sequencer programs, the engine queue, the loader and the Montage unit (R171, R184, R189 to R191, R298, R299). -/

namespace Sys2Proof.Machine

namespace State

/-- No stop or reset holds the node of Set `n` (R196, R409). -/
def setRuns (s : State) (n : Nat) : Bool := (s.getSet n).stop.isNone && !(s.getSet n).resetting

/-- HGC.STOPPED follows when a stopped Set node comes to rest (R196, R402). -/
def settleSet (s : State) (n : Nat) : State := if (s.getSet n).stop.isSome then s.markGroups else s

/-- The registers with which a sequencer starts a program (R171). An entry that is no multiple of 4 faults at the first fetch
(R170). -/
def startSeq (s : State) (n q : Nat) (e : ForkEntry) : State :=
  let s1 := s.modSet n fun k =>
    { k with forkQ := Tbl.put [] k.forkQ q ((Tbl.get [] k.forkQ q).drop 1), cur := Tbl.put none k.cur q (some e) }
  s1.modThread (.seq n q) fun t =>
    let u : Thread :=
      { pc := e.entry, p := e.p, ox := e.ox, st := .run, gen := t.gen + 1, opTag := t.opTag, lastCopy := t.lastCopy, rcb := e.rcb
        entryAddr := e.entry, wdLeft := s.effWatchdog (s.getSet n).part e.rcb
        pendTrap := if e.entry.toNat % 4 = 0 then [] else [{ code := Cause.misaligned, tval := e.entry, imp := false }] }
    (u.setX 2 0x20000).setX 10 e.arg

/-- An MXMUL of the engine queue that was accepted before a load names the load's target (R184). -/
def mulBefore (ser : Nat) (t : LoadTarget) (e : EngEntry) : Bool :=
  decide (e.serial < ser) &&
  match e.op with
  | .mul _ wb _ op6 _ =>
    (match t with
    | .wb i => decide (wb = i)
    | .stage i => !bitAt op6 13 && decide (field op6 14 2 = i))
  | .zero _ => false
  | .rd _ _ _ _ _ _ _ => false

/-- The locations in global memory of the source bytes of a load of Set `n` (R184). -/
def loadPlaces (s : State) (n : Nat) (e : LoadEntry) : List Nat :=
  (loadSpans e).flatMap fun p => (List.range p.2).filterMap fun i =>
    if p.1.toNat + i < 0x100000 then none
    else match s.translate (.seq n 0) (p.1.toNat + i) 1 kindR true with
      | .ok acc => some acc.loc
      | .error _ => none

/-- The load at the head of the load queue that has started, is not suspended and waits for no line that an engine owns, nor for the bridge (R206, R234, R437),
and what stops it. -/
def loadRunning (s : State) (n : Nat) : Option (LoadEntry × Option (BitVec 8 × Word)) :=
  match (s.getSet n).loadQ with
  | [] => none
  | e :: _ =>
    if e.started && !e.suspended && !(s.loadPlaces n e).any (fun l => s.engineOwns l 1 || s.acrossBridge (n / 8) l) then some (e, s.loadStop n (loadSpans e))
    else none

/-- A row goes into tile buffer `k` of a FILLING bin: the machine after it, and the status (R298). -/
def fillRow (s : State) (n : Nat) (x : RowXfer) (b : Bin) (k : Nat) : State × Nat :=
  let u := s.tileBuf n k
  let s1 := s.setTileBuf n k { u with rows := Tbl.put [] u.rows b.rows x.data, tags := Tbl.put 0 u.tags b.rows x.tag }
  let s2 := s1.setBin n x.bin { b with rows := b.rows + 1 }
  if b.rows + 1 = b.cap then (s2.sealBin n x.bin 0, 1) else (s2, 0)

/-- The rows of the tile that a bin has sealed at this instant with cause SLATE or EXPLICIT, and its buffer if it has rows. -/
def sealedNow (s : State) (b : Bin) : Option (Nat × Option Nat) :=
  if b.lastSeal ≠ some s.timebase ∨ (b.cause ≠ 2 ∧ b.cause ≠ 3) then none
  else if b.state = 3 then some (b.rows, b.buf)
  else
    let w := bytesWord (s.readSlot b.hdrLoc (s.lastSlot b) 8)
    some (field w 0 9, if field w 0 9 = 0 then none else some (field w 28 5))

/-- The row that makes rows reach CAP coincides with a seal of cause SLATE or EXPLICIT: the one seal is FULL, and the row its last (R299,
R302); none where it does not, or where no tile buffer is free. -/
def lastRow (s : State) (n : Nat) (x : RowXfer) : Option State :=
  let b := s.bin n x.bin
  (s.sealedNow b).bind fun r =>
    if r.1 + 1 ≠ b.cap then none
    else (r.2.or (s.freeBuf n)).map fun k =>
      let u := s.tileBuf n k
      let s1 := s.setTileBuf n k
        { u with held := true, sealed := decide (b.state ≠ 3), rows := Tbl.put [] u.rows r.1 x.data, tags := Tbl.put 0 u.tags r.1 x.tag }
      if b.state = 3 then
        s1.setBin n x.bin { b with cause := 0, rows := r.1 + 1, buf := some k, first := if r.1 = 0 then s.timebase else b.first }
      else
        let w := bytesWord (s.readSlot b.hdrLoc (s.lastSlot b) 8)
        let w1 := setField (setField (setField w 0 9 (r.1 + 1)) 25 3 0) 28 5 k
        (s1.putSlot b.hdrLoc (s.lastSlot b) (wordBytes w1 ++ (if r.1 = 0 then wordBytes s.timebase else []))).setBin n x.bin { b with cause := 0 }

/-- What the Montage unit does with an arriving row that no seal of its instant takes: the machine after it, and the status (R298). A row that
arrives at or after the instant of a timeout goes to the next tile (R299, R302). -/
def enterRow (s0 : State) (n : Nat) (x : RowXfer) : State × Nat :=
  let s := if (s0.bin n x.bin).state = 2 ∧ dueAt (s0.bin n x.bin) ≤ s0.timebase.toNat then s0.sealBin n x.bin 1 else s0
  let b := s.bin n x.bin
  match b.state with
  | 0 => (s, 3)
  | 1 =>
    (match s.freeBuf n with
    | none => (s, 2)
    | some k =>
      (s.setTileBuf n k { held := true }).fillRow n x { b with state := 2, buf := some k, first := s.timebase, rows := 0 } k)
  | 2 => s.fillRow n x b (b.buf.getD 0)
  | _ => (s, 2)

/-- What the Montage unit does with an arriving row: the machine after it, and the status (R298, R302). -/
def placeRow (s : State) (n : Nat) (x : RowXfer) : State × Nat :=
  match s.lastRow n x with
  | some t => (t, 1)
  | none => s.enterRow n x

/-- The status reply of the Montage unit (R271, R298). -/
def rowReply (s : State) (n : Nat) (x : RowXfer) (status : Nat) : Msg :=
  { hdr0 := mkHdr0 x.op.toNat 0 (s.coordOf (.thr x.core 0)) 0 (8 * n) 4 1 0x7F
    hdr1 := ofN (x.tid % 8 * 2 ^ 61 + (if x.tid = 7 then 0 else x.gen.toNat) * 2 ^ 48)
    payload := [ofN status], src := 128 + n, dst := x.core, part := (s.getSet n).part }

end State

/-- A sequencer that is FREE starts the next program of its fork queue. (R171) -/
def execSequencerProgramStart (set : Nat) (q : Nat) (s : State) : Out :=

  match Tbl.get [] (s.getSet set).forkQ q with
  | [] => .next s
  | e :: _ =>
    if q < 3 ∧ (s.thread (.seq set q)).st = .free ∧ (Tbl.get none (s.getSet set).cur q).isNone ∧ s.setRuns set = true then
      .next (s.startSeq set q e)
    else .next s


/-- The head of the engine queue streams once its barrier is met. (R189) -/
def execEngineEntryStart (set : Nat) (s : State) : Out :=

  match s.engHead set with
  | none => .next s
  | some e =>
    let met := match e.op with
      | .mul _ wb _ op6 op7 => s.mulMet set e wb op6 op7
      | .zero _ => true
      | .rd _ _ _ _ _ _ _ => s.rdRoom set e
    if s.setRuns set && met then .next (s.engStart set e) else .next s


/-- The oldest engine entry, which streams, completes and makes its post. (R190) -/
def execEngineEntryComplete (set : Nat) (s : State) : Out :=

  match (s.getSet set).engQ with
  | [] => .next s
  | e :: _ => if e.streaming then .next ((s.engComplete set e).settleSet set) else .next s


/-- The head of the load queue starts once the earlier MXMULs that name its target have completed. (R184) -/
def execWeightLoadStart (set : Nat) (s : State) : Out :=

  match (s.getSet set).loadQ with
  | [] => .next s
  | e :: _ =>
    if e.started || !s.setRuns set || (s.getSet set).engQ.any (State.mulBefore e.serial e.target) then .next s
    else .next (s.loadStart set e)


/-- A load whose bytes can all be read writes them; its target is READY and it posts. (R184) -/
def execWeightLoadComplete (set : Nat) (s : State) : Out :=

  match s.loadRunning set with
  | some (e, none) =>
    .next ((((s.loadPlaces set e).map (· / 32)).eraseDups.foldl (fun t x => t.readFrom (set / 8) (32 * x) 32) s |>.loadFinish set e).settleSet set)
  | _ => .next s


/-- A load that meets a fault other than partial residency ends with its target POISON, and posts. (R184) -/
def execWeightLoadFault (set : Nat) (s : State) : Out :=

  match s.loadRunning set with
  | some (e, some (code, va)) =>
    if code = Cause.partialResidency then .next s
    else .next ((s.loadFault set e code va).settleSet set)
  | _ => .next s


/-- A load that meets a hole waits for T7 of core 0 of the Set. (R184) -/
def execWeightLoadSuspend (set : Nat) (s : State) : Out :=

  match s.loadRunning set with
  | some (e, some (code, va)) =>
    if code ≠ Cause.partialResidency then .next s
    else
      let s1 := s.modSet set fun k =>
        { k with loadQ := k.loadQ.map fun x => if x.serial = e.serial then { x with suspended := true } else x }
      .next (s1.appendItem (s1.coreZero set) code 3 2 none va 0 0 0 (.load set))
  | _ => .next s


/-- The Montage unit places or refuses row `i` on its way, the oldest of its core, and replies with the status. (R298) -/
def execMontageRowArrival (set : Nat) (i : Nat) (s : State) : Out :=

  let l := (s.getSet set).rowXfers
  match l[i]? with
  | none => .next s
  | some x =>
    if (l.take i).any (fun y => decide (y.core = x.core)) then .next s
    else
      let s1 := s.modSet set fun k => { k with rowXfers := k.rowXfers.eraseIdx i }
      let r := s1.placeRow set x
      .next (r.1.edgeSend (s.rowReply set x r.2))


/-- A FILLING bin whose timeout has passed seals its tile. (R299) -/
def execBinTimeout (set : Nat) (bin : Nat) (s : State) : Out :=

  let b := s.bin set bin
  if b.state = 2 ∧ State.dueAt b ≤ s.timebase.toNat then .next (s.sealBin set bin 1) else .next s


/-- A SEALING bin whose next slot is free completes its seal. (R299) -/
def execSealComplete (set : Nat) (bin : Nat) (s : State) : Out := .next (s.trySeal set bin)


end Sys2Proof.Machine
end

