-- ==== Sys2Proof/Machine/EvCopy.lean ====
section
/-! DEFINITION. Events of the copy engines, the residency engine and the streams (R206, R214, R253 to R258, R264). -/

namespace Sys2Proof.Machine

namespace State

/-! ### Copies (R253 to R258) -/

/-- A live copy that may move bytes, advanced over its clean resident pieces. -/
def copyAdvanced (s : State) (h : Word) : Option (State × Agent × Copy) :=
  match s.copyWith h with
  | none => none
  | some (e, c) =>
    if s.copyRuns c then
      let r := State.runCopy c (c.len + 1) s
      some (r.1.modCopy e h fun x => { x with prog := r.2 }, e, { c with prog := r.2 })
    else none

/-- The offset in a copy of the first byte of [prog, q) that lies in a poisoned source sector. -/
def copyBadAt (s : State) (c : Copy) (q : Nat) : Nat :=
  match segAt c.src c.prog with
  | none => c.prog
  | some g =>
    c.prog + ((List.range (q - c.prog)).find? fun i => s.poisoned (g.loc + (c.prog - g.off) + i) 1).getD 0

/-- A copy whose next piece ends in a poisoned source sector writes it, poisoned, and ends in FAULT (R215, R258). -/
def copyStruck (s : State) (e : Agent) (c : Copy) (q : Nat) : State :=
  let b := s.copyBadAt c q
  let s1 := s.copyPiece c q
  let s2 := c.dst.foldl (fun t d => t.poisonSeg d b q) s1
  s2.faultCopy e { c with prog := q } Cause.uncorrectable

/-! ### The residency engine (R214) -/

/-- The handle under which a residency copy stands: that of its engine with bit 49, and the region. -/
def residencyHandle (s : State) (c i : Nat) : Word := s.handleBase (.thr c 7) + ofN (2 ^ 49 + i)

/-- The copy request of a spill or fill of region `i` of core `c` at offset `off` of its backing range. -/
def residencyReq (s : State) (c i : Nat) (fill : Bool) (off : Word) : Res CopyReq := do
  let a : Agent := .thr c 7
  let len := s.pregSize c i
  let va := (s.block c (0x1048 + 16 * i) + off).toNat
  let g ← s.rangeSegs a (if fill then kindR else kindW) 0 va len (s.segFuel a)
  let u : List Seg := if len = 0 then [] else [{ loc := ulmLoc c (s.pregBase c i), len := len, va := ofN (s.pregBase c i) }]
  .ok { src := if fill then g else u, dst := [if fill then u else g], len := len, role := .residency c i fill }

/-- T7 requests a spill or fill: the interval is registered and the copy is under way. -/
def residencyStart (s : State) (c i : Nat) (fill : Bool) (off : Word) : Out :=
  let a : Agent := .thr c 7
  if !s.pregV c i || decide (s.pregState c i ≠ if fill then 2 else 0) || decide (16 ≤ i) then .next s
  else match s.residencyReq c i fill off with
    | .error _ => .next s
    | .ok r =>
      if !s.copyReady a r then .next s
      else
        let h := s.residencyHandle c i
        let k : Copy :=
          { handle := h, issuer := a, part := s.partOf a, secure := s.secureOf a, len := r.len, src := r.src, dst := r.dst
            started := true, role := r.role }
        let s0 := r.dst.foldl (fun t d => d.foldl (fun t g => t.takeLines a.dieNo g.loc g.len) t) s
        let s1 := s0.modCe a fun e => { e with live := e.live ++ [k] }
        let s2 := (ulmIntervals r).foldl (fun t j => t.addSb j.1 (sbEntry j.2.1 j.2.2.1 j.2.2.2 (.copy h))) s1
        .next (s2.putUlmWord c (s2.blockAddr c (0x1040 + 16 * i)) (setField (s2.pregRec c i) 62 2 (if fill then 3 else 1)))

/-- The activations that wait for region `i` of core `c` go on, once it is RESIDENT; their watchdogs start, but a migrated
context's, which has run all along (R135, R214). -/
def residentNow (s : State) (c i : Nat) : State :=
  if s.pregState c i ≠ 0 then s
  else
    (List.range 6).foldl (fun (s : State) tid =>
      let a : Agent := .thr c tid
      s.modThread a fun t =>
        match (t.wait.map Wait.kind : Option WaitKind) with
        | some (.residency j moved) =>
          if j = i then
            { t with
              wait := none, st := if t.st = .stopped then .stopped else .run, held := if t.st = .stopped then .run else t.held
              wdLeft := if moved then t.wdLeft else s.effWatchdog (s.partOf a) t.rcb }
          else t
        | _ => t) s

end State

/-- A copy with ORD starts once the previous copy of its agent has ended. (R253) -/
def execCopyStart (h : BitVec 64) (s : State) : Out :=

  match s.copyWith h with
  | none => .next s
  | some (e, c) =>
    if c.started || (s.engineWith c.after).isSome then .next s
    else
      let s1 := s.modCopy e h fun x => { x with started := true }
      .next (if c.len = 0 then s1.endCopy e { c with started := true } .done 0 else s1)


/-- A copy performs its next piece, up to the end of a destination line, which it releases. (R206) -/
def execCopyLineRelease (h : BitVec 64) (s : State) : Out :=

  match s.copyWith h with
  | none => .next s
  | some (e, c) =>
    if !s.copyRuns c then .next s
    else match s.copyNext c with
      | .go q => .next ((s.copyPiece c q).modCopy e h fun x => { x with prog := q })
      | _ => .next s


/-- A copy that meets a byte outside the resident intervals is SUSPENDED there, and T7 receives PARTIAL_RESIDENCY. (R257) -/
def execCopySuspend (h : BitVec 64) (s : State) : Out :=

  match s.copyAdvanced h with
  | none => .next s
  | some (s1, e, c) =>
    match s1.copyNext c with
    | .hole _ va =>
      .next ((s1.modCopy e h fun x => { x with state := .suspended, cause := Cause.partialResidency }).appendItem
        (s1.t7CoreOf e) Cause.partialResidency (if State.isResidency c then 4 else 1) 2 none va 0 0 0 (.copy h))
    | _ => .next s


/-- A copy whose bytes are all clean and resident writes the last of them and ends DONE, with its completion action. (R258) -/
def execCopyComplete (h : BitVec 64) (s : State) : Out :=

  match s.copyAdvanced h with
  | none => .next s
  | some (s1, e, c) =>
    if c.len ≤ c.prog ∧ State.isResidency c = false then .next (s1.endCopy e c .done 0) else .next s


/-- A copy that meets a poisoned source sector, whose ranges are gone, or whose restored node is BAD, ends in FAULT. (R258) -/
def execCopyFault (h : BitVec 64) (s : State) : Out :=

  match s.copyWith h with
  | none => .next s
  | some (e, c) =>
    if c.state = .fault then .next (s.faultCopy e c c.cause)
    else if s.restoreBad c then .next (s.faultCopy e c Cause.uncorrectable)
    else match s.copyAdvanced h with
      | none => .next s
      | some (s1, e1, c1) =>
        match s1.copyNext c1 with
        | .bad q => .next (s1.copyStruck e1 c1 q)
        | _ => .next s


/-- T7 requests a spill of a RESIDENT region to the start of its backing range. (R214) -/
def execResidencySpill (core : Nat) (preg : Nat) (s : State) : Out := s.residencyStart core preg false 0

/-- T7 requests a fill of a SPILLED region from an offset of its backing range. (R214) -/
def execResidencyFill (core : Nat) (preg : Nat) (off : BitVec 64) (s : State) : Out := s.residencyStart core preg true off

/-- The copy of a spill or fill completes; a region that is RESIDENT lets its waiting activations go on. (R214) -/
def execResidencyCopyComplete (core : Nat) (preg : Nat) (s : State) : Out :=

  let s1 := match s.copyAdvanced (s.residencyHandle core preg) with
    | some (s1, e, c) => if c.len ≤ c.prog then s1.endCopy e c .done 0 else s
    | none => s
  .next (s1.residentNow core preg)


namespace State

/-- The next strip of a read slot that has not been read ahead, with its fault recorded (R264). -/
def nextStrip (s : State) (a : Agent) (st : Stream) : Option Strip :=
  let pos := st.pos + st.width * st.ahead.length
  if st.bound && !st.write && decide (st.ahead.length < 8) && decide (pos < st.total) && st.ahead.all (fun p => p.fault.isNone) then
    match s.readElems a st pos st.width with
    | .ok b => some { pos := pos, data := b }
    | .error (.trap t) => some { pos := pos, fault := some (t.code, t.tval) }
    | .error .stall => none
    | .error .scoreboard => none
    | .error (.fault _) => none
  else none

/-- The engine may read ahead for a thread: it runs or waits, and its context is not being saved (R264, R396). -/
def readsAhead (t : Thread) : Bool :=
  (decide (t.st = .run) || decide (t.st = .wait)) && !t.wait.any fun w => match w.kind with
    | .saving _ => true
    | _ => false

/-- The oldest write of slot `slot` of thread `tid` of core `c` that is still to be performed, when no earlier write overlaps it. -/
def nextPush (s : State) (c tid slot : Nat) : Option PushWrite :=
  let q := (s.getCore c).pushQ
  match q.find? fun w => decide (w.tid = tid) && decide (w.slot = slot) with
  | none => none
  | some w =>
    if q.any fun x => decide (x.no < w.no) && overlaps x.loc x.bytes.length w.loc w.bytes.length then none else some w

/-- Another copy's entry in the scoreboard, registered before that of push `w`, holds up its write (R209). -/
def pushHeld (s : State) (w : PushWrite) : Bool :=
  match locCore w.loc with
  | none => false
  | some c =>
    ((s.getCore c).sb.takeWhile fun e => !decide (e.owner = .push c w.no)).any fun e =>
      overlaps e.lo (e.hi - e.lo) (w.loc - ulmLoc c 0) w.bytes.length && match e.owner with
        | .push _ _ => false
        | .copy _ => true
        | .mxrd _ _ => true

end State

/-- The copy engine reads one more strip of a read slot ahead, at most eight, and records a fault against it. (R264) -/
def execStreamReadahead (core : Nat) (tid : Nat) (slot : Nat) (s : State) : Out :=

  let a : Agent := .thr core tid
  let st := (s.thread a).getSs slot
  if !State.readsAhead (s.thread a) then .next s
  else match s.nextStrip a st with
    | some p =>
      let s1 := match p.fault with
        | some f => s.dropFailed a f.2.toNat
        | none => s.readBackElems a st p.pos
      .next (s1.modThread a fun t => t.setSs slot { st with ahead := st.ahead ++ [p] })
    | none => .next s


/-- The oldest write of a write slot is performed as a write of a copy, and gives up its line or its interval. (R264) -/
def execStreamPushWrite (core : Nat) (tid : Nat) (slot : Nat) (s : State) : Out :=

  match s.nextPush core tid slot with
  | none => .next s
  | some w =>
    if s.pushHeld w || s.acrossBridge (core / 64) w.loc then .next s
    else
      let done := if w.key ≠ 0 ∧ (s.keyOf w.key).isNone then s
        else (s.storeAt w.loc w.key w.bytes w.unc).carryFrom w.clock w.loc w.bytes.length
      let s1 := done.retireSb (.push core w.no)
      .next (s1.modCore core fun k => { k with pushQ := k.pushQ.filter fun x => !decide (x.no = w.no) })



end Sys2Proof.Machine
end

