-- ==== Sys2Proof/Machine/RangeOps.lean ====
section
/-! DEFINITION. Editing the Range Table: descriptors as images, residency intervals, grants of backing, and RNGINV
(R322 to R334). -/

namespace Sys2Proof.Machine

/-! ### Intervals (R323, R331) -/

/-- The intervals with [a, b) added, touching ones coalesced. -/
def addInterval (l : List (Nat × Nat)) (a b : Nat) : List (Nat × Nat) :=
  let lo := l.filter fun i => decide (i.2 < a)
  let hi := l.filter fun i => decide (b < i.1)
  let mid := l.filter fun i => decide (a ≤ i.2) && decide (i.1 ≤ b)
  lo ++ [mid.foldl (fun m i => (min m.1 i.1, max m.2 i.2)) (a, b)] ++ hi

/-- The intervals with [a, b) removed. -/
def subInterval (l : List (Nat × Nat)) (a b : Nat) : List (Nat × Nat) :=
  l.flatMap fun i =>
    (if i.1 < a then [(i.1, min i.2 a)] else []) ++ (if b < i.2 then [(max i.1 b, i.2)] else [])

/-- The resident lines of a range. -/
def Range.lines (r : Range) : List (Nat × Nat) := if r.partialRes then r.ints else [(0, r.size / 128)]

/-- The range with a residency; one that covers it whole clears PARTIAL (R331). -/
def Range.withLines (r : Range) (l : List (Nat × Nat)) : Range :=
  if l = [(0, r.size / 128)] then { r with partialRes := false, ints := [] } else { r with partialRes := true, ints := l }

/-! ### Images (R322, R329) -/

/-- The four doublewords of a descriptor with index `i`. -/
def Range.words (i : Nat) (r : Range) : List Word :=
  [ofN r.vbase, ofN (r.gen.toNat * 2 ^ 48 + r.size),
   ofN (r.perm.toNat * 2 ^ 61 + b2n r.world * 2 ^ 60 + r.owner % 8 * 2 ^ 57 + r.home % 2 * 2 ^ 56 + b2n r.uncached * 2 ^ 54 +
     r.key % 64 * 2 ^ 48 + r.pbase),
   ofN (2 ^ 63 + b2n r.partialRes * 2 ^ 62 + r.ints.length * 2 ^ 16 + i)]

/-- The range of an image. -/
def Range.ofWords (w : List Word) : Range :=
  let w2 := wordAt w 2
  { vbase := field (wordAt w 0) 0 56, size := field (wordAt w 1) 0 38, perm := w2.extractLsb' 61 3, world := bitAt w2 60
    owner := field w2 57 3, home := field w2 56 1, uncached := bitAt w2 54, key := field w2 48 6, pbase := field w2 0 48
    partialRes := bitAt (wordAt w 3) 62 }

/-- The region of R202 that holds the bytes [p, p + n), if one does. -/
def regionOf (p n : Nat) : Option Place :=
  if placeOf p = .none ∨ 2 ^ 48 < p + n ∨ 2 ^ 48 ≤ p then none
  else if placeOf p = placeOf (p + n - 1) then some (placeOf p) else none

/-- Check 1 of R329 on an image. -/
def imageLegal (w : List Word) : Bool :=
  let r := Range.ofWords w
  decide (field (wordAt w 0) 56 8 = 0) && decide (field (wordAt w 1) 38 26 = 0) && decide (field (wordAt w 3) 63 1 = 0) &&
  decide (field (wordAt w 3) 0 62 = 0) && decide (field (wordAt w 2) 55 1 = 0) &&
  decide (r.vbase % 128 = 0) && decide (0x100000 ≤ r.vbase) && decide (r.size % 128 = 0) && decide (128 ≤ r.size) &&
  decide (r.size ≤ 2 ^ 37) && decide (r.pbase % 128 = 0) && decide (r.vbase + r.size ≤ 2 ^ 56) &&
  match regionOf r.pbase r.size with
  | some (.hbm d) => decide (d = r.home)
  | some .mmio => r.uncached
  | some .host => true
  | some .ulm => false
  | some .none => false
  | none => false

namespace State

/-- The granted backing of a partition covers [p, p + n): intervals of HBM4E and MMIO; the host window needs no grant. -/
def coveredBy (l : List (Nat × Nat)) : Nat → Nat → Nat → Bool
  | 0, p, q => decide (q ≤ p)
  | f + 1, p, q =>
    if q ≤ p then true
    else match l.find? fun i => decide (i.1 ≤ p) && decide (p < i.1 + i.2) with
      | some i => coveredBy l f (i.1 + i.2) q
      | none => false

/-- [b, b + n) is granted to partition `p` (R329, R412). -/
def backed (s : State) (p b n : Nat) : Bool :=
  match placeOf b with
  | .host => true
  | _ => let l := (s.getPart p).backing; coveredBy l l.length b (b + n)

/-- The lowest free descriptor index of a partition. -/
def freeRid (s : State) (p : Nat) : Nat :=
  let l := (s.getPart p).ranges
  ((List.range (l.length + 1)).find? fun i => (Tbl.get none l i).isNone).getD 0

/-- Number of ranges of a partition. -/
def rangeCount (s : State) (p : Nat) : Nat := (s.getPart p).ranges.length

end State

/-! ### The index (R324) -/

/-- Inserts an element into a list sorted by an order. -/
def insertBy {α : Type} (le : α → α → Bool) (x : α) : List α → List α
  | [] => [x]
  | y :: t => if le x y then x :: y :: t else y :: insertBy le x t

/-- A list in `k` runs of nearly equal length. -/
def runs {α : Type} : Nat → List α → List (List α)
  | 0, _ => []
  | k + 1, l => l.take (l.length / (k + 1)) :: runs k (l.drop (l.length / (k + 1)))

/-- A list shared out evenly over the fewest runs of at most `n` elements. -/
def shared {α : Type} (n : Nat) (l : List α) : List (List α) := runs ((l.length + n - 1) / n) l

/-- The interior levels over the nodes of one level, each given by its first key and its number: up to 16 children to a node. -/
def indexUp : Nat → List IdxNode → List (Nat × Nat) → List IdxNode
  | 0, acc, _ => acc
  | f + 1, acc, lvl =>
    if lvl.length ≤ 1 then acc
    else
      let gs := shared 16 lvl
      indexUp f (acc ++ gs.map fun g => { keys := (g.drop 1).map (·.1), kids := g.map (·.2) })
        ((List.zipIdx gs).map fun g => ((g.1.headD (0, 0)).1, acc.length + g.2))

/-- The B-tree of order 16 over VBASE (R324): leaves of up to 15 keys in ascending order, then the interior levels, the root last; every
node but the root has at least 7 keys (DESIGN CHOICE, log entry 83: which keys share a node). -/
def buildIndex (l : List (Nat × Option Range)) : List IdxNode :=
  let keys := l.foldl (fun t e => match e.2 with
    | some r => insertBy (fun (a b : Nat × Nat) => decide (a.1 ≤ b.1)) (r.vbase, e.1) t
    | none => t) []
  let gs := shared 15 keys
  let leaves : List IdxNode := gs.map fun g => { leaf := true, keys := g.map (·.1), kids := g.map (·.2) }
  indexUp 8 leaves ((List.zipIdx gs).map fun g => ((g.1.headD (0, 0)).1, g.2))

/-- The index after a change of the table: a node that the change does not rewrite keeps its error (R325). -/
def reindex (old : List IdxNode) (l : List (Nat × Option Range)) : List IdxNode :=
  (List.zipIdx (buildIndex l)).map fun e =>
    { e.1 with poisoned := (old[e.2]?).any fun o => o.poisoned && decide (o.keys = e.1.keys) && decide (o.kids = e.1.kids) }

/-- The 32 doublewords of an index node (R324). -/
def IdxNode.words (n : IdxNode) : List Word :=
  [ofN (16 * b2n n.leaf + n.keys.length)] ++ (List.range 15).map (fun i => ofN ((n.keys[i]?).getD 0)) ++
  (List.range 16).map fun i => ofN ((n.kids[i]?).getD 0)

namespace State

/-- Two descriptors map the same addresses to the same backing. -/
def sameMap (a b : Range) : Bool := decide (a.vbase = b.vbase) && decide (a.size = b.size) && decide (a.pbase = b.pbase)

/-- Writes descriptor `i` of a partition, and the index with it; a rewritten descriptor is no longer poisoned (R324, R325), and what the
old one mapped is kept until an RNGINV covers it (R332). -/
def setRange (s : State) (p i : Nat) (r : Option Range) : State :=
  s.modPart p fun x =>
    let l := Tbl.put none x.ranges i (r.map fun r => { r with poisoned := false })
    let old := (Tbl.get none x.ranges i).toList.filter fun o => !r.any (sameMap o) && !x.oldRanges.any (sameMap o)
    { x with ranges := l, index := reindex x.index l, oldRanges := old ++ x.oldRanges }

/-! ### RNGINV (R332) -/

/-- The virtual interval [lo, hi) meets a range of addresses, or everything does. -/
def meets (lo hi : Nat) (all : Bool) (va n : Nat) : Bool := all || overlaps lo (hi - lo) va n

/-- The descriptors that overlap the interval and that an RTB entry, a cache or an access of partition `p` may have been translated through:
RTB entries of the partition's cores, the table's ranges, and what it held before (R332). -/
def oldMaps (s : State) (p lo hi : Nat) (all : Bool) : List Range :=
  ((s.core.flatMap fun e => if field e.2.asid 0 3 = p then e.2.rtb.map (·.rng) else []) ++
    (s.getPart p).ranges.filterMap (·.2) ++ (s.getPart p).oldRanges).filter fun r => meets lo hi all r.vbase r.size

/-- Bytes at a virtual address were translated through one of the descriptors `l`. -/
def mappedBy (l : List Range) (va n : Nat) : Bool := l.any fun r => overlaps r.vbase r.size va n

/-- A segment of a copy was translated through one of the descriptors. -/
def segMeets (l : List Range) (g : Seg) : Bool := g.rid.isSome && mappedBy l g.va.toNat g.len

/-- A copy holds a translation of partition `p` through one of the descriptors. -/
def copyMeets (p : Nat) (l : List Range) (c : Copy) : Bool :=
  decide (c.part = p) && (c.src.any (segMeets l) || c.dst.any fun d => d.any (segMeets l))

/-- The suspended copies that use a range of the interval end with cause NO_RANGE (R257). -/
def endSuspended (s : State) (p lo hi : Nat) (all : Bool) : State :=
  let l := s.oldMaps p lo hi all
  let f := fun (k : CopyEngine) => { k with live := k.live.map fun c =>
    if c.state = CState.suspended ∧ copyMeets p l c = true then { c with state := .fault, cause := Cause.noRange } else c }
  { s with
    core := s.core.map fun e => if e.2.ce.live.isEmpty then e else (e.1, { e.2 with ce := f e.2.ce })
    sets := s.sets.map fun e => if e.2.ce.live.isEmpty then e else (e.1, { e.2 with ce := f e.2.ce }) }

/-- The backing that those descriptors map: physical base and size. -/
def oldBacking (s : State) (p lo hi : Nat) (all : Bool) : List (Nat × Nat) :=
  (s.oldMaps p lo hi all).map fun r => (r.pbase, r.size)

/-- The backing is written back from, and invalidated in, every L1 and RDC (R332). -/
def flushBacking (s : State) (b : List (Nat × Nat)) : State :=
  let mine := fun (x : Nat) => b.any fun i => decide (i.1 ≤ 32 * x) && decide (32 * x < i.1 + i.2)
  let s1 := s.core.foldl (fun t e => (e.2.l1.filter fun x => mine x.1 && x.2.dirty).foldl (fun t x => t.putL2 (e.1 / 64) x.1 true) t) s
  { s1 with
    core := s1.core.map fun e => if e.2.l1.isEmpty then e else (e.1, { e.2 with l1 := e.2.l1.filter fun x => !mine x.1 })
    die := s1.die.map fun e => if e.2.rdc.isEmpty then e else (e.1, { e.2 with rdc := e.2.rdc.filter fun x => !mine x.1 }) }

/-- What RNGINV takes away: the RTBs of the partition's cores drop every entry that overlaps the interval, locked ones included, and
the caches what those entries mapped (R332). A lock goes on unless its range has been removed (R334, R344). -/
def dropRtb (s : State) (p lo hi : Nat) (all : Bool) : State :=
  let gone := fun (v : Nat) => meets lo hi all v 1 && !(s.getPart p).ranges.any fun e => e.2.any fun r => decide (r.vbase = v)
  let s1 := s.flushBacking (s.oldBacking p lo hi all)
  let s2 : State := { s1 with
    core := s1.core.map fun e =>
      if field e.2.asid 0 3 = p ∧ !(e.2.rtb.isEmpty && e.2.locks.isEmpty) then
        (e.1, { e.2 with
          rtb := e.2.rtb.filter fun x => !meets lo hi all x.rng.vbase x.rng.size
          locks := e.2.locks.filter fun v => !gone v })
      else e }
  s2.modPart p fun x => { x with oldRanges := x.oldRanges.filter fun r => !meets lo hi all r.vbase r.size }

/-- A journal holds a store translated through one of the descriptors. -/
def journalMeets (l : List Range) (j : List JEntry) : Bool :=
  j.any fun e => match e with
    | .store loc _ va bs _ _ _ => decide (loc < 2 ^ 48) && mappedBy l va.toNat bs.length
    | .msg _ => false
    | .dcdec _ _ _ => false
    | .bararr _ _ => false

/-- An agent of partition `p` still holds what RNGINV waits for: a journaled store translated through one of the descriptors, in the
journal of a thread or of a context that it hosts, or pushes that are not performed. -/
def holdsOld (s : State) (p : Nat) (l : List Range) : Bool :=
  s.thr.any (fun e =>
    decide (s.partOf (Agent.ofKey e.1) = p) && (journalMeets l e.2.journal || e.2.hosted.any fun h => journalMeets l h.journal)) ||
  s.core.any fun e => decide (field e.2.asid 0 3 = p) && e.2.pushQ.any fun w => decide (w.loc < 2 ^ 48)

/-- Everything that used the interval's old translations has ended (R332). -/
def invDone (s : State) (p lo hi : Nat) (all : Bool) : Bool :=
  let l := s.oldMaps p lo hi all
  !s.holdsOld p l && s.core.all (fun e => !e.2.ce.live.any (copyMeets p l)) &&
  s.sets.all fun e =>
    !e.2.ce.live.any (copyMeets p l) &&
    !(decide (e.2.part = p) && e.2.loadQ.any fun q => q.started && q.parts.any fun x => mappedBy l x.2.1.toNat (max 1 x.2.2.1))

end State

end Sys2Proof.Machine
end

