-- ==== Sys2Proof/Machine/Task.lean ====
section
/-! DEFINITION. The TASK group (R292 to R294, R304). -/

namespace Sys2Proof.Machine

namespace State

/-- Checks 2 and 3 of R292 on an entry address. -/
def entryAt (s : State) (ad : Word) : Res Unit := do
  check (decide (ad.toNat % 64 = 0)) Cause.misaligned ad
  check (decide (ad.toNat + 64 ≤ s.cur.window)) Cause.noRange ad

/-- A TASK message to the queue manager of the die that holds queue `h`, or of the sender's own die when the handle is unmapped
(R292, R304, PRESUMED, log entry 13). -/
def taskMsg (s : State) (h tag sub : Nat) (ws : List Word) : Msg :=
  let die := match s.taskQ s.myPart h with
    | some q => q.die
    | none => s.cur.dieNo
  { s.mkMsg s.cur tag 0 (64 * die) 5 sub ws with dst := 144 + die }

/-- The queue handle of a handle word: bits [63:12] must be 0 (R292). -/
def checkHandle (w : Word) : Res Unit := check (decide (w.toNat / 4096 = 0)) Cause.metadataMalformed w

/-- The end of TDEQ: the head entry is removed and written, or a poisoned one is dropped with QPOISON (R293). -/
def dequeue (s : State) (p h : Nat) (q : TaskQ) (e : QEntry) (d : BitVec 5) (req : Option StoreReq) (tval : Word) : Out :=
  let a := s.cur
  if e.poisoned then
    if decide (a.tid < 7) && a.isThr && s.t7Full a.coreNo then .next s
    else
      let s1 := (s.setTaskQ p h (some { q.without e with lost := q.lost + 1 })).tellQueue p h q Cause.qpoison
      let s2 := (s1.wx d 2).modMe fun t => { t with pc := t.pc + 4 }
      .next (s2.takeTrap a false Cause.qpoison 0 tval s2.pc)
  else
    match req with
    | none => .next s
    | some req =>
      if s.blocked req.acc.loc 64 true then .next s
      else
        let s1 := (s.acquire a e.clock).setTaskQ p h (some (q.without e))
        .next (((State.storeNow a s1 { req with bs := (wordsBytes e.words).map some }).wx d 0).adv 4)

end State

/-- TENQ: Sends a 64-byte entry to a FIFO task queue. (R292) -/
def execTenq (a : BitVec 5) (b : BitVec 5) (s : State) : Out :=
  finishOut s (do
    State.checkHandle (s.x a)
    s.entryAt (s.x b)
    let bs ← s.loadBytes s.cur (s.x b) 64
    let h := field (s.x a) 0 12
    .ok (s.heldSend (s.taskMsg h h 0 (bytesWords bs))))

/-- TDEQ: Removes the head of a task queue. X[b] is checked only where an entry is written there (R60, R293). -/
def execTdeq (d : BitVec 5) (a : BitVec 5) (b : BitVec 5) (s : State) : Out :=
  let w := s.x a
  let h := field w 0 12
  let p := s.myPart
  finishOut s (do
    State.checkHandle w
    check (s.taskQ p h).isSome Cause.noRange w
    let goes := fun (go : State → TaskQ → QEntry → Out) => Except.ok (s.act fun s1 =>
      match s1.taskQ p h with
      | none => .next s1
      | some q =>
        match q.head with
        | none => .next ((s1.wx d 1).adv 4)
        | some e => go s1 q e)
    if ((s.taskQ p h).bind TaskQ.head).all QEntry.poisoned then goes fun s1 q e => s1.dequeue p h q e d none w
    else do
      s.entryAt (s.x b)
      let acc ← s.storeCheck s.cur (s.x b) 64
      goes fun s1 q e => s1.dequeue p h q e d (some { va := s.x b, acc := acc, bs := [], cost := 0 }) w)

/-- FUTLD: Reads a full future, or takes FUTURE_EMPTY. (R294) -/
def execFutld (d : BitVec 5) (a : BitVec 5) (s : State) : Out :=
  let w := s.x a
  finishOut s (do
    check (decide (w.toNat % 16 = 0)) Cause.misaligned w
    let acc ← s.resolve s.cur w 16 kindR
    let b ← s.readVia s s.cur acc w 16
    let ws := bytesWords b
    let s1 := (s.useRtb s.cur w.toNat 16 kindR).atomRead s.cur acc 16
    .ok (if bitAt (wordAt ws 1) 0 then .next (((s1.acquire s1.cur (s.homeClock acc.loc 16)).wx d (wordAt ws 0)).adv 4)
      else trapOut s1 Cause.futureEmpty w))

/-- FUTST: Fills an empty future. (R294) -/
def execFutst (d : BitVec 5) (a : BitVec 5) (b : BitVec 5) (s : State) : Out :=
  let w := s.x a
  finishOut s (do
    let acc ← s.atomPlace w 16 16
    s.waitClear acc.loc 16 true
    .ok (s.actRelease fun s1 => finish s1 (do
      let o ← s1.readVia s1 s1.cur acc w 16
      let ws := bytesWords o
      let s2 := (s1.useRtb s1.cur w.toNat 16 kindRW).atomRead s1.cur acc 16
      if bitAt (wordAt ws 1) 0 then .ok ((s2.wx d 1).adv 4)
      else
        let s3 := s2.release s2.cur
        .ok (((s3.atomWrite s3.cur acc (wordsBytes [s1.x b, wordAt ws 1 ||| 1])).wx d 0).adv 4))))

/-- LAUNCH: Checks and sends a launch packet to a stage input queue. (R304) -/
def execLaunch (a : BitVec 5) (s : State) : Out :=
  finishOut s (do
    s.entryAt (s.x a)
    let bs ← s.loadBytes s.cur (s.x a) 64
    let ws := bytesWords bs
    check (launchWellFormed ws) Cause.metadataMalformed (s.x a)
    check (s.launchGranted s.myPart (wordAt ws 2)) Cause.permission (wordAt ws 2)
    check (s.launchGranted s.myPart (wordAt ws 3)) Cause.permission (wordAt ws 3)
    .ok (s.heldSend (s.taskMsg (launchQh ws) (field (wordAt ws 0) 48 16) 1 ws)))


end Sys2Proof.Machine
end

