-- ==== Sys2Proof/Machine/EvSched.lean ====
section
/-! DEFINITION. Events of the queue managers, the CP, the dispatcher, the Gaffer, the ingress units and the reduction routers (R285, R295, R304 to R317, R373, R377, R378). -/

namespace Sys2Proof.Machine

namespace State

/-! ### The queue managers and the CP (R292, R304 to R307) -/

/-- Message `i` of the mesh is at the queue manager of its die, as a TASK message with this SUB. -/
def taskAt (s : State) (i sub : Nat) : Option Msg :=
  match s.mesh[i]? with
  | none => none
  | some m =>
    if decide (m.kind = 5) && decide (m.sub = sub) && !m.nack && decide (m.dst / 2 = 72) && !s.behindInMesh i m && !s.heldAtBridge m then
      some m
    else none

/-- The message is at its destination: its clock is merged there (R231). -/
def takenAt (s : State) (i : Nat) (m : Msg) : State := (s.dropMesh i).mergeClock (unitDie m.dst) m.clock

/-- The stage handler of a stage queue, from its RCB (R339). -/
def stageHandler (s : State) (p : Nat) (q : TaskQ) : Nat := field (s.rcbWord p q.rcb 6) 19 8

/-- The partition whose queue table a launch packet written by function `fn` (0 for PF0, n + 1 for VF n) is resolved in: that of
LTP for PF0, if its host-launch bit is set (R428). -/
def launchPart (s : State) (fn : Nat) : Option Nat :=
  if fn = 0 then
    let p := field s.ltp 0 3
    if (s.getPart p).hostLaunch then some p else none
  else if fn ≤ 8 then some (fn - 1) else none

/-- Register `w` of CPBRK0 to CPBRK7 matches a packet for handle `h` and stage handler `hid` at the CP of die `d` (R406). -/
def cpbrkMatches (w : Word) (d h hid : Nat) : Bool :=
  let v := field w 0 20
  bitAt w 63 && decide (field w 54 1 = d) && decide (v = if bitAt w 62 then hid else h)

/-- The comparison before a dispatch: matching registers set HIT and the CP halts; HGEN stops the halt group too (R406). -/
def cpbrkHit (s : State) (d : Nat) (l : List Nat) : State :=
  let s1 : State := { s with cpbrk := l.foldl (fun t n => Tbl.put 0 t n (Tbl.get 0 t n ||| (1 <<< 61))) s.cpbrk }
  let s2 := s1.modDie d fun x => { x with cpHalted := true }
  l.foldl (fun t n =>
    let w := Tbl.get 0 t.cpbrk n
    if bitAt w 60 then t.stopGroup d (field w 55 5) 2 else t) s2

/-- The CP of die `d` discards its head packet and counts it in its error log (R295, R305). -/
def cpDrop (s : State) (d : Nat) : State :=
  (s.modDie d fun x => { x with cpFifo := x.cpFifo.drop 1, cpPass := false }).countDie d 9

/-- The head packet passes the checks of LAUNCH, and its handle maps a RANKED queue of the partition (R305). -/
def cpChecked (s : State) (k : CpPkt) : Option (Nat × TaskQ) :=
  (s.launchPart k.fn).bind fun p =>
    match s.taskQ p (launchQh k.words) with
    | none => none
    | some q =>
      if launchWellFormed k.words && s.launchGranted p (wordAt k.words 2) && s.launchGranted p (wordAt k.words 3) &&
          decide (q.disc = 1) then some (p, q) else none

/-- The best element of a list by a strict order. -/
def bestBy {α : Type} (lt : α → α → Bool) (l : List α) : Option α :=
  l.foldl (fun m e => match m with
    | none => some e
    | some x => if lt e x then some e else some x) none

/-- The CP's dispatch acquires from the release that the packet's write was (R238), for the die of its queue too. -/
def cpAcquire (s : State) (d : Nat) (k : CpPkt) (q : TaskQ) : State :=
  let s1 := (s.mergeClock d k.clock).dropOld d none
  (s1.mergeClock q.die (s1.vcOf d)).dropOld q.die none

/-- The CP of die `d` works on its head packet `k` (R305, R406). -/
def cpHead (s : State) (d : Nat) (k : CpPkt) : State :=
  match s.cpChecked k with
  | none => s.cpDrop d
  | some (p, q) =>
    let h := launchQh k.words
    let hits := (List.range 8).filter fun n => cpbrkMatches (Tbl.get 0 s.cpbrk n) d h (s.stageHandler p q)
    if !(s.getDie d).cpPass && !hits.isEmpty then s.cpbrkHit d hits
    else match (s.cpAcquire d k q).acceptLaunch p h k.words true false with
      | .ok s1 => s1.modDie d fun x => { x with cpFifo := x.cpFifo.drop 1, cpPass := false }
      | .error _ => s

/-! ### Stages (R42, R306 to R311) -/

/-- The stage of a queue: its RCB is valid and declares it with this handle (R42, R339). -/
def isStage (s : State) (p h : Nat) (q : TaskQ) : Bool :=
  decide (q.disc = 1) && s.regionValid p q.rcb && bitAt (s.rcbWord p q.rcb 1) 62 && decide (field (s.rcbWord p q.rcb 6) 27 12 = h)

/-- Logical core `l` is a member of the stage of an RCB: CORES0 and CORES1. -/
def stageHas (s : State) (p : Nat) (rcb : Word) (l : Nat) : Bool := bitAt (s.rcbWord p rcb (8 + l / 64)) (l % 64)

/-- The stage queue that a core of partition `p` belongs to. -/
def stageOf (s : State) (p l : Nat) : Option (Nat × TaskQ) :=
  (s.getPart p).queues.findSome? fun e => match e.2 with
    | some q => if s.isStage p e.1 q && s.stageHas p q.rcb l then some (e.1, q) else none
    | none => none

/-- The LAUNCH message of a packet (R310). -/
def launchMsg (s : State) (p : Nat) (q : TaskQ) (e : QEntry) (c : Nat) : Msg :=
  let w := fun i => wordAt e.words i
  let w0 := setField (setField (w 0) 34 6 e.prio) 33 1 0
  { hdr0 := mkHdr0 (field (w 0) 48 16) (s.stageHandler p q) (field (s.lcidOf c) 0 7) 0 (64 * q.die) 2 8 0
    hdr1 := ofN (7 * 2 ^ 61 + (if e.host then 5 else 7) * 2 ^ 48)
    payload := [w 4, w 5, w 6, w 7, w0, e.deadline, w 2, w 3]
    src := 144 + q.die, dst := c, part := p, clock := s.vcOf q.die, qorder := e.order, host := e.host }

/-- A report comes before another: the older, then the one of the core with the lower logical coordinates (R309). -/
def reportBefore (s : State) (a b : Report) : Bool :=
  decide (a.at_.toNat < b.at_.toNat) ||
  (decide (a.at_ = b.at_) && decide ((s.lcidOf a.core).toNat < (s.lcidOf b.core).toNat))

/-- The oldest report of a stage queue of partition `p` that no dispatch has claimed, of a core of the stage that is in the map and in no
move (R309, R320, R342). -/
def openReport (s : State) (p : Nat) (q : TaskQ) : Option Report :=
  bestBy s.reportBefore (q.reports.filter fun r =>
    !r.claimed && s.coreServes r.core && s.stageHas p q.rcb (field (s.lcidOf r.core) 0 7) && (s.getCore r.core).stageNext.isNone)

/-- The dispatch of the highest-ranked ready packet to a report; a poisoned packet is lost (R309, R311). -/
def dispatch (s : State) (p h : Nat) (q : TaskQ) (e : QEntry) (r : Report) : State :=
  if e.poisoned then s.loseLaunch p h q e Cause.qpoison
  else
    let m := s.launchMsg p q e r.core
    let q1 := { q.without e with
      reports := q.reports.map fun x => if x = r then { x with claimed := true, pkt := some (packetOf m) } else x }
    (s.setTaskQ p h (some q1)).edgeSend m

/-! ### The Gaffer (R39, R315 to R317) -/

/-- The parameters of R315 of a stage. -/
def gafWord (s : State) (p : Nat) (q : TaskQ) : Word := s.rcbWord p q.rcb 6
def gafHigh (s : State) (p : Nat) (q : TaskQ) : Nat := field (s.gafWord p q) 51 12
def gafLow (s : State) (p : Nat) (q : TaskQ) : Nat := field (s.gafWord p q) 39 12
def gafCounts (s : State) (p : Nat) (q : TaskQ) (lo width : Nat) : Nat := field (s.rcbWord p q.rcb 7) lo width

/-- The stages with GEN = 1 of partition `p` whose queues lie on die `d`. -/
def gafStages (s : State) (d p : Nat) : List (Nat × TaskQ) :=
  (s.getPart p).queues.filterMap fun e => match e.2 with
    | some q => if decide (q.die = d) && s.isStage p e.1 q && bitAt (s.gafWord p q) 63 then some (e.1, q) else none
    | none => none

/-- A stage whose thresholds or bounds cross counts as GEN = 0 (R315). -/
def gafCrossed (s : State) (p : Nat) (q : TaskQ) : Bool :=
  decide (s.gafHigh p q < s.gafLow p q) || decide (s.gafCounts p q 48 8 < s.gafCounts p q 56 8)

/-- The average of the last ten samples of a stage (R316). -/
def gafAvg (s : State) (d p h : Nat) : Nat :=
  match (s.getDie d).gaf.find? fun g => decide (g.part = p) && decide (g.qh = h) with
  | some g => (g.samples.take 10).foldl (· + ·) 0 / 10
  | none => 0

/-- Records a sample of a stage. -/
def gafRecord (s : State) (d p h n : Nat) : State :=
  s.modDie d fun x =>
    let old := match x.gaf.find? fun g => decide (g.part = p) && decide (g.qh = h) with
      | some g => g.samples
      | none => []
    { x with gaf := { part := p, qh := h, samples := (n :: old).take 10 } ::
        x.gaf.filter fun g => !(decide (g.part = p) && decide (g.qh = h)) }

/-- The member cores of a stage, by logical index. -/
def stageCores (s : State) (p : Nat) (q : TaskQ) : List Nat := (List.range 128).filter (s.stageHas p q.rcb)

/-- The member MS–MI pairs of a stage, by Set. -/
def stagePairs (s : State) (p : Nat) (q : TaskQ) : List Nat := (List.range 16).filter fun n => bitAt (s.rcbWord p q.rcb 10) n

/-- Activations on core `c` of the stage whose region is at `rcb`, running, waiting, stopped or saved (R316). -/
def launches (s : State) (rcb : Word) (c : Nat) : Nat :=
  ((List.range 6).map fun i =>
    let t := s.thread (.thr c i)
    b2n (t.launch && decide (t.rcb = rcb) && t.live) + b2n (t.hosted.any fun h => h.launch && decide (h.rcb = rcb))).foldl (· + ·) 0

/-- A core that the Gaffer may move out of a stage: in the map and of the stage's partition, whatever CORES0 and CORES1 hold (R7,
R412), with no RESIDENT entry, not pinned, in no other move, its dwell ended (R39, R317). -/
def movable (s : State) (p : Nat) (q : TaskQ) (l : Nat) : Bool :=
  match s.physOf l with
  | none => false
  | some c =>
    let k := s.getCore c
    decide (s.partOf (.thr c 7) = p) && decide (s.effPin p q.rcb = 0) && k.stageNext.isNone &&
    (match k.stageMoved with
    | some t => decide (t.toNat + 50000 ≤ s.timebase.toNat)
    | none => true) &&
    (decide (k.htab = 0) ||
      (List.range 256).all fun h => !(hResident (s.handler0 c h) && decide (field (s.handler0 c h) 62 2 = 1)))

/-- A pair that the Gaffer may move: both fork queues are empty and neither sequencer runs a program (R39). -/
def pairMovable (s : State) (n : Nat) : Bool :=
  (List.range 2).all fun q => (Tbl.get [] (s.getSet n).forkQ q).isEmpty && (Tbl.get none (s.getSet n).cur q).isNone

/-- Sets or clears bit `b` of doubleword `j` of an RCB. -/
def putMember (s : State) (p : Nat) (rcb : Word) (j b : Nat) (v : Bool) : State :=
  s.putRcbWord p rcb j (setField (s.rcbWord p rcb j) b 1 (b2n v))

/-- The untaken LAUNCH messages of queue `h` in the inbox of core `c` go back to the queue with their rank and order (R317). -/
def recallLaunches (s : State) (c h : Nat) : State :=
  let mine := fun (m : InMsg) => !m.taken && !m.replayed && m.retake.isNone && decide (m.msg.kind = 2) && decide (launchHandle m.msg = h)
  let l := (s.getCore c).inbox.filter mine
  let s1 := s.modCore c fun k => { k with inbox := k.inbox.filter fun m => !mine m }
  l.foldl (fun t m => t.packetBack m.msg) s1

/-- The move of logical core `l` from stage `a` to stage `b` begins (R39, R317); with no activation of the old stage it is over
at once. -/
def beginMove (s : State) (p : Nat) (a b : Nat × TaskQ) (l : Nat) : State :=
  match s.physOf l with
  | none => s
  | some c =>
    let s1 := (s.putMember p a.2.rcb (8 + l / 64) (l % 64) false).putMember p b.2.rcb (8 + l / 64) (l % 64) true
    let s2 := (match s1.taskQ p a.1 with
      | some q => s1.setTaskQ p a.1 (some { q with reports := q.reports.filter fun r => !decide (r.core = c) })
      | none => s1)
    ((s2.recallLaunches c a.1).modCore c fun k => { k with stageNext := some b.1 }).settleStage c

/-- The stages that seek a member, most in need first (R316). -/
def recipients (s : State) (d p : Nat) (l : List (Nat × TaskQ)) (count : TaskQ → Nat) (max : TaskQ → Nat) : List (Nat × TaskQ) :=
  (l.filter fun e => decide (s.gafHigh p e.2 < s.gafAvg d p e.1) && decide (count e.2 < max e.2)).foldl (fun r e =>
    insertBy (fun x y =>
      let nx := s.gafAvg d p x.1 - s.gafHigh p x.2
      let ny := s.gafAvg d p y.1 - s.gafHigh p y.2
      decide (ny < nx) || (decide (nx = ny) && decide (x.1 ≤ y.1))) e r) []

/-- The stage that gives a member to stage `r`: of those that may, the one of least average, then of lowest index (R316). -/
def donor (s : State) (d p : Nat) (l : List (Nat × TaskQ)) (used : List Nat) (r : Nat) (can : TaskQ → Bool) : Option (Nat × TaskQ) :=
  bestBy (fun x y =>
    let ax := s.gafAvg d p x.1
    let ay := s.gafAvg d p y.1
    decide (ax < ay) || (decide (ax = ay) && decide (x.1 < y.1)))
    (l.filter fun e => decide (e.1 ≠ r) && !used.contains e.1 && decide (s.gafAvg d p e.1 < s.gafLow p e.2) && can e.2)

/-- One recipient of the core decision: the machine after it and the stages used so far (R316). -/
def decideCore (d p : Nat) (l : List (Nat × TaskQ)) (r : State × List Nat) (b : Nat × TaskQ) : State × List Nat :=
  let s := r.1
  let can := fun (q : TaskQ) =>
    decide (s.gafCounts p q 56 8 < (s.stageCores p q).length) && (s.stageCores p q).any (s.movable p q)
  if r.2.contains b.1 then r
  else match s.donor d p l r.2 b.1 can with
    | none => r
    | some a =>
      let cs := (s.stageCores p a.2).filter (s.movable p a.2)
      let acts : Nat → Nat := fun l => match s.physOf l with
        | some c => s.launches a.2.rcb c
        | none => 0
      (match bestBy (fun (x y : Nat) => decide (acts x < acts y) || (decide (acts x = acts y) && decide (y < x))) cs with
      | some c => (s.beginMove p a b c, a.1 :: b.1 :: r.2)
      | none => r)

/-- One recipient of the pair decision. -/
def decidePair (d p : Nat) (l : List (Nat × TaskQ)) (r : State × List Nat) (b : Nat × TaskQ) : State × List Nat :=
  let s := r.1
  let can := fun (q : TaskQ) =>
    decide (s.gafCounts p q 43 5 < (s.stagePairs p q).length) && (s.stagePairs p q).any s.pairMovable
  if r.2.contains b.1 then r
  else match s.donor d p l r.2 b.1 can with
    | none => r
    | some a =>
      (match bestBy (fun (x y : Nat) => decide (y < x)) ((s.stagePairs p a.2).filter s.pairMovable) with
      | some n => ((s.putMember p a.2.rcb 10 n false).putMember p b.2.rcb 10 n true, a.1 :: b.1 :: r.2)
      | none => r)

/-- The decision of the Gaffer of die `d` within partition `p` (R316). -/
def gafDecide (s : State) (d p : Nat) : State :=
  let all := s.gafStages d p
  let l := all.filter fun e => !s.gafCrossed p e.2
  let s0 := (all.filter fun e => s.gafCrossed p e.2).foldl (fun t _ => t.countDie d 5) s
  let rc := s.recipients d p l (fun q => (s.stageCores p q).length) (fun q => s.gafCounts p q 48 8)
  let r1 := rc.foldl (decideCore d p l) (s0, [])
  let rp := (r1.1.recipients d p l (fun q => (s.stagePairs p q).length) fun q => s.gafCounts p q 38 5).filter fun e => !r1.2.contains e.1
  (rp.foldl (decidePair d p l) r1).1

end State

/-- The queue manager of a die accepts launch packet `i` of the mesh, or returns it. (R304) -/
def execLaunchAccept (i : Nat) (s : State) : Out :=

  match s.taskAt i 1 with
  | none => .next s
  | some m =>
    let s1 := s.takenAt i m
    match s1.acceptLaunch m.part (launchQh m.payload) m.payload false m.poisoned with
    | .ok s2 => .next s2
    | .error (code, s2) => .next (s2.returnMsg m code)


/-- The queue manager of a die appends the entry of TENQ message `i` of the mesh, or returns it. (R292) -/
def execTaskEnqueue (i : Nat) (s : State) : Out :=

  match s.taskAt i 0 with
  | none => .next s
  | some m =>
    let s1 := s.takenAt i m
    match s1.taskQ m.part m.tag with
    | none => .next (s1.returnMsg m 6)
    | some q =>
      if q.disc = 1 then .next (s1.returnMsg m 7)
      else if q.depth ≤ q.entries.length then .next (s1.returnMsg m 5)
      else .next (s1.appendTask m.part m.tag q { words := m.payload, poisoned := m.poisoned, clock := m.clock })


/-- Blocked packet `i` of a stage queue becomes ready once its counter has come to 0, with the clock that the decrement carries. (R306) -/
def execLaunchReady (part : Nat) (qh : Nat) (i : Nat) (s : State) : Out :=

  match s.taskQ part qh with
  | none => .next s
  | some q =>
    match q.entries[i]? with
    | none => .next s
    | some e =>
      if e.blocked && !e.doomed && (e.released || !s.launchBlocked e.words) then
        .next (((s.mergeClock q.die e.clock).launchAcquire q.die e.words).setTaskQ part qh
          (some { q with entries := q.entries.map fun x => if x.order = e.order then { x with blocked := false } else x }))
      else .next s


/-- Blocked packet `i` of a stage queue, whose counter is poisoned, is removed and reported. (R307) -/
def execBlockedPacketRemoval (part : Nat) (qh : Nat) (i : Nat) (s : State) : Out :=

  match s.taskQ part qh with
  | none => .next s
  | some q =>
    match q.entries[i]? with
    | none => .next s
    | some e =>
      if e.blocked && !e.released && (e.doomed || s.launchDoomed e.words) then .next (s.loseLaunch part qh q e Cause.depfault)
      else .next s


/-- A core of a stage reports a FREE thread of its handler's mask to the dispatcher. (R309) -/
def execThreadReport (core : Nat) (tid : Nat) (s : State) : Out :=

  let p := s.partOf (.thr core 0)
  match s.stageOf p (field (s.lcidOf core) 0 7) with
  | none => .next s
  | some (h, q) =>
    let hid := s.stageHandler p q
    if tid < 6 && s.coreServes core && !s.niHeld core && (s.getCore core).stageNext.isNone && s.entryReady core hid &&
        (hMask (s.handler0 core hid)).testBit tid && s.threadFree core tid hid &&
        !(q.reports.any fun r => decide (r.core = core) && decide (r.tid = tid)) then
      .next (s.setTaskQ p h (some { q with reports := q.reports ++ [{ core := core, tid := tid, at_ := s.timebase }] }))
    else .next s


/-- The dispatcher claims the oldest open report of a stage and sends its highest-ranked ready packet there. (R309) -/
def execStageDispatch (part : Nat) (qh : Nat) (s : State) : Out :=

  match s.taskQ part qh with
  | none => .next s
  | some q =>
    if !s.isStage part qh q then .next s
    else match topReady q.entries, s.openReport part q with
      | some e, some r => .next (s.dispatch part qh q e r)
      | _, _ => .next s


/-- The Gaffer of a die samples the ready packets of each of its stages. (R316) -/
def execGafferSample (die : Nat) (s : State) : Out :=

  let d := die % 2
  .next ((List.range 8).foldl (fun t p =>
    (t.gafStages d p).foldl (fun t e =>
      if t.gafCrossed p e.2 then t else t.gafRecord d p e.1 (e.2.entries.filter fun x => !x.blocked).length) t) s)


/-- The Gaffer of a die begins its moves of cores and pairs. (R316) -/
def execGafferDecision (die : Nat) (s : State) : Out := .next ((List.range 8).foldl (fun t p => t.gafDecide (die % 2) p) s)

namespace State

/-! ### Ingress (R284 to R286, R373, R375) -/

/-- TYPE, SRC and TS of an event packet (R284). -/
def evType (k : EvPkt) : Nat := field k.w0 56 8
def evSrc (k : EvPkt) : Nat := field k.w0 48 8

/-- The routing entry of a packet that arrived at a port: valid, naming that port, and leading to a core of the port's partition (R285, R341,
R416). -/
def routeOf (s : State) (d port : Nat) (k : EvPkt) : Option Word :=
  let w := Tbl.get 0 (s.getDie d).routes (evSrc k)
  if bitAt w 63 && decide (field w 51 3 = port) && (s.portOwner d port).all fun p => decide (s.partOfLogical (field w 36 7) = p) then some w
  else none

/-- The packet at the head of a port's FIFO. -/
def portHead (s : State) (d port : Nat) : Option EvPkt := (Tbl.get [] (s.getDie d).fifos port).head?

/-- The ingress unit takes from this port next: round-robin among the ports whose FIFOs hold a packet (R285). -/
def portTurn (s : State) (d port : Nat) : Bool :=
  decide (((List.range 5).map fun i => ((s.getDie d).nextPort + i) % 5).find? (fun q => (s.portHead d q).isSome) = some port)

/-- The port's FIFO without its head; the next port's turn comes. -/
def portPop (s : State) (d port : Nat) : State :=
  s.modDie d fun x => { x with fifos := Tbl.put [] x.fifos port ((Tbl.get [] x.fifos port).drop 1), nextPort := (port + 1) % 5 }

/-- The port's partition is in RUN; else the port drops everything (R416). -/
def portRuns (s : State) (d port : Nat) : Option Nat :=
  (s.portOwner d port).bind fun p => if (s.getPart p).state = .running then some p else none

/-- The member position of a source in a slate: in its group and mask, and the slate not poisoned (R372 to R374). -/
def memberOf (k : Slate) (src : Nat) : Option Nat :=
  if decide (k.state ≠ 2) && decide (src / 64 = field k.ctl 20 2) && bitAt k.mask (src % 64) then some (src % 64) else none

/-- A packet of source `src` advances its watermark in slate `i`, which may close (R373). -/
def advanceMark (s0 : State) (d i src : Nat) (ts : Word) : State :=
  let s := s0.closeOverdue d i
  let k := s.getSlate d i
  match memberOf k src with
  | none => s
  | some j =>
    let m := if (k.mark j).toNat < ts.toNat then ts else k.mark j
    (s.setSlate d i { k with marks := Tbl.put 0 k.marks j m }).evalSlate d i

/-- The event of source `src` is late in slate `i` (R285). -/
def eventLate (k : Slate) (src : Nat) (ts : Word) : Bool :=
  (memberOf k src).isSome &&
  ((decide (k.state = 0) && decide (ts.toNat < k.tClose.toNat)) || (decide (k.state = 1) && decide (ts.toNat < k.tOpen.toNat)))

/-- The EVENT message of a packet (R270, R285). -/
def eventMsg (s : State) (d port part : Nat) (r : Word) (k : EvPkt) (late : Bool) : Msg :=
  let l := field r 36 7
  let h := mkHdr0 (field r 20 16) (field r 43 8) l port (64 * d) 1 2 0
  { hdr0 := if late then h ||| 0x200 else h, hdr1 := ofN (7 * 2 ^ 61 + 4 * 2 ^ 48), payload := [k.w0, k.w1]
    src := 146 + d, dst := field (s.lcmEntry l) 0 7, part := part }

/-- A late event: LATE counts it, and it becomes an entry of the slate's late-event queue, or goes out with LATE set (R375, R291). -/
def lateEvent (s : State) (d i port part : Nat) (r : Word) (k : EvPkt) : State :=
  let x := s.getSlate d i
  let s1 := s.setSlate d i { x with late := x.late + 1 }
  if bitAt x.ctl 34 then
    match s1.taskQ x.part (field x.ctl 22 12) with
    | none => s1
    | some q =>
      if q.depth ≤ q.entries.length then s1
      else s1.appendTask x.part (field x.ctl 22 12) q { words := [k.w0, k.w1, s.timebase, ofN i, 0, 0, 0, 0] }
  else s1.edgeSend (s1.eventMsg d port part r k true)

/-- The ingress unit handles an event packet of a port whose partition is in RUN (R285). -/
def ingest (s : State) (d port part : Nat) (k : EvPkt) : State :=
  match s.routeOf d port k with
  | none => s.countPort d port 2
  | some r =>
    let ts := extendTs s.timebase (field k.w0 0 48)
    if bitAt r 62 then
      let i := field r 54 8
      let s1 := s.advanceMark d i (evSrc k) ts
      if eventLate (s1.getSlate d i) (evSrc k) ts then s1.lateEvent d i port part r k else s1.edgeSend (s1.eventMsg d port part r k false)
    else s.edgeSend (s.eventMsg d port part r k false)

end State

/-- The ingress unit takes an event packet from a port. (R285) -/
def execIngressEvent (die : Nat) (port : Nat) (s : State) : Out :=

  match s.portHead die port with
  | none => .next s
  | some k =>
    if State.evType k ≠ 1 ∨ s.portTurn die port = false then .next s
    else
      let s1 := s.portPop die port
      match s1.portRuns die port with
      | none => .next s1
      | some p => .next (s1.ingest die port p k)


/-- The ingress unit takes a watermark packet from a port. (R285) -/
def execIngressWatermark (die : Nat) (port : Nat) (s : State) : Out :=

  match s.portHead die port with
  | none => .next s
  | some k =>
    if State.evType k ≠ 2 ∨ s.portTurn die port = false then .next s
    else
      let s1 := s.portPop die port
      match s1.portRuns die port, s1.routeOf die port k with
      | none, _ => .next s1
      | some _, none => .next (s1.countPort die port 2)
      | some _, some r =>
        if bitAt r 62 then .next (s1.advanceMark die (field r 54 8) (State.evSrc k) (extendTs s1.timebase (field k.w0 0 48)))
        else .next s1


/-- The ingress unit takes a padding packet, which it ignores, or one of another type, which it counts. (R285) -/
def execIngressTypeError (die : Nat) (port : Nat) (s : State) : Out :=

  match s.portHead die port with
  | none => .next s
  | some k =>
    if State.evType k = 1 ∨ State.evType k = 2 ∨ s.portTurn die port = false then .next s
    else if State.evType k = 0 then .next (s.portPop die port)
    else .next ((s.portPop die port).countPort die port 1)


/-- An open slate whose closing time has passed closes. (R373) -/
def execSlateTimeout (die : Nat) (slate : Nat) (s : State) : Out := .next (s.evalSlate die slate)

/-- A router that has every input of a round combines them and passes the result on. (R377) -/
def execReduceCombine (die : Nat) (tree : Nat) (router : Nat) (s : State) : Out := .next (s.combineAt die tree router)

/-- The result of a round leaves the root router as a message. (R378) -/
def execReduceResult (die : Nat) (tree : Nat) (s : State) : Out := .next (s.sendResult die tree)


end Sys2Proof.Machine
end

