-- ==== Sys2Proof/Machine/Sync.lean ====
section
/-! DEFINITION. The SYNC group: barriers, dependence counters, slates and BUMP (R266, R366 to R374). -/

namespace Sys2Proof.Machine

namespace State

/-- The executing agent's instruction goes to die `d`'s counter SRAM over a bridge that retrains, and does not go into its journal
(R437). -/
def waitsBridge (s : State) (d : Nat) (journaled : Bool := false) : Bool :=
  s.bridgeHolds s.cur d && !(journaled && s.holds s.cur)

/-- A counter word (R367): its reserved bits, then the grant of R365. -/
def counterAt (s : State) (w : Word) (journaled : Bool := false) : Res (Nat × Nat) := do
  check (decide (w.toNat / 8192 = 0)) Cause.metadataMalformed w
  check (s.holdsDc s.myPart (field w 12 1) (field w 0 12)) Cause.permission w
  waitFor (!s.waitsBridge (field w 12 1) journaled)
  .ok (field w 12 1, field w 0 12)

/-- A barrier word (R367). -/
def barrierAt (s : State) (w : Word) (journaled : Bool := false) : Res (Nat × Nat) := do
  check (decide (w &&& 0xFFFFFFFFFFFFEC00 = 0)) Cause.metadataMalformed w
  check (s.holdsBar s.myPart (field w 12 1) (field w 0 10)) Cause.permission w
  waitFor (!s.waitsBridge (field w 12 1) journaled)
  .ok (field w 12 1, field w 0 10)

/-- A slate word (R367). -/
def slateAt (s : State) (w : Word) : Res (Nat × Nat) := do
  check (decide (w.toNat / 512 = 0)) Cause.metadataMalformed w
  check (s.holdsSlate s.myPart (field w 8 1) (field w 0 8)) Cause.permission w
  waitFor (!s.waitsBridge (field w 8 1))
  .ok (field w 8 1, field w 0 8)

/-- The control word of SLOPEN: LQH is mapped with DISC LATE in the issuer's partition (R372). -/
def lateQueue (s : State) (c : Word) : Bool :=
  !bitAt c 34 || (match s.taskQ s.myPart (field c 22 12) with
    | some q => decide (q.disc = 2)
    | none => false)

/-- The operand checks of SLOPEN (R372). -/
def checkSlopen (s : State) : Res Unit := do
  let c := s.ox 3
  check (decide (field c 36 28 = 0) && decide (field c 16 4 = 0)) Cause.metadataMalformed c
  if bitAt c 35 then .ok ()
  else do
    check (decide (s.ox 2 ≠ 0)) Cause.metadataMalformed (s.ox 2)
    check (decide ((s.ox 0).toNat < (s.ox 1).toNat)) Cause.metadataMalformed (s.ox 0)
    check (s.lateQueue c) Cause.metadataMalformed c

/-- The opening of slate `i` of die `d` by SLOPEN: the next generation, with the conditions of R373 evaluated at once (R374). -/
def openSlate (s : State) (d i : Nat) : State :=
  let k := s.getSlate d i
  (s.setSlate d i
    { k with
      gen := k.gen + 1, tOpen := s.ox 0, tClose := s.ox 1, mask := s.ox 2, ctl := s.ox 3, late := 0, cause := 0, state := 1
      marks := if k.state = 2 then [] else k.marks, part := s.myPart }).evalSlate d i

/-- SLOPEN finds slate `i` of die `d` OPEN: it closes, EXPLICIT unless a condition with a lower code holds (R373). -/
def endSlate (s : State) (d i : Nat) : State :=
  let s1 := s.evalSlate d i
  if (s1.getSlate d i).state = 1 then s1.closeSlate d i 3 else s1

/-- SLOPEN of R374: an OPEN slate closes; then, with CLOSE = 0, it opens. -/
def slateOpen (s : State) (d : BitVec 5) (w : Word) : Out :=
  finishOut s (do
    let (die, i) ← s.slateAt w
    s.checkSlopen
    .ok (s.act fun s1 =>
      let s2 := s1.endSlate die i
      let s3 := if bitAt (s1.ox 3) 35 then s2 else s2.openSlate die i
      .next ((s3.wx d (ofN (s3.getSlate die i).gen.toNat)).adv 4)))

/-- A result register that a home writes on its reply: none for d = 0. -/
def reply (s : State) (d : BitVec 5) (v : Word) : State := (s.wx d v).adv 4

end State

/-- BARINIT: Initialises a barrier with its participant count. (R369) -/
def execBarinit (d : BitVec 5) (a : BitVec 5) (b : BitVec 5) (s : State) : Out :=
  finishOut s (do
    let (die, i) ← s.barrierAt (s.x a)
    check (decide (1 ≤ (s.x b).toNat) && decide ((s.x b).toNat ≤ 65535)) Cause.metadataMalformed (s.x b)
    .ok (s.act fun s1 =>
      let k := s1.bar die i
      if k.arrivals ≠ 0 ∨ s1.someWaits (State.onBar die i) then .next (s1.reply d 1)
      else .next ((s1.setBar die i { n := (s1.x b).setWidth 16 }).reply d 0)))

/-- BARARR: Arrives at a barrier. (R369) -/
def execBararr (d : BitVec 5) (a : BitVec 5) (s : State) : Out :=
  finishOut s (do
    let (die, i) ← s.barrierAt (s.x a) (decide (d = 0))
    if d = 0 then
      .ok (s.held 80 (fun t => t.addJournal t.cur (.bararr die i) 80)
        (fun t => if t.releaseHeld t.cur die then .next t else .next ((t.arriveBarBy t.cur die i).adv 4)) fun t => t.adv 4)
    else
      .ok (s.actRelease fun s1 =>
        let k := s1.bar die i
        let v : Word := if k.poison then 1 <<< 63 else ofN k.phase.toNat
        .next ((s1.arriveBarBy s1.cur die i).reply d v)))

/-- BARWAIT: Waits for a barrier's phase to change. (R369) -/
def execBarwait (d : BitVec 5) (a : BitVec 5) (b : BitVec 5) (s : State) : Out :=
  if s.cur.isT6 then illegalIssuer s (word.barwait d a b)
  else
    finishOut s (do
      let (die, i) ← s.barrierAt (s.x a)
      let k := s.bar die i
      check (!k.poison) Cause.depfault (s.x a)
      .ok (if k.phase = (s.x b).setWidth 16 then
          s.blockOn { kind := .bar die i ((s.x b).setWidth 16) (s.x a), rd := d }
        else .next ((s.acquire s.cur k.clock).reply d (ofN k.phase.toNat))))

/-- DCINIT: Sets a dependence counter and clears its poison. (R368) -/
def execDcinit (a : BitVec 5) (b : BitVec 5) (s : State) : Out :=
  finishOut s (do
    let (die, i) ← s.counterAt (s.x a)
    check (decide (field (s.x b) 32 32 = 0)) Cause.metadataMalformed (s.x b)
    .ok (s.act fun s1 =>
      let v : BitVec 32 := (s1.x b).setWidth 32
      let s2 := s1.setDc die i { value := v }
      .next ((if v = 0 then s2.releaseDc die i else s2).adv 4)))

/-- DCDEC: Decrements or poisons a dependence counter. (R368) -/
def execDcdec (d : BitVec 5) (a : BitVec 5) (b : BitVec 5) (s : State) : Out :=
  finishOut s (do
    let (die, i) ← s.counterAt (s.x a) (decide (d = 0))
    let n := s.x b
    check (decide (field n 32 31 = 0)) Cause.metadataMalformed n
    if d = 0 then
      .ok (s.held 80 (fun t => t.addJournal t.cur (.dcdec die i n) 80)
        (fun t => if t.releaseHeld t.cur die then .next t else .next ((t.decDcBy t.cur die i n).1.adv 4)) fun t => t.adv 4)
    else
      .ok (s.actRelease fun s1 =>
        let r := s1.decDcBy s1.cur die i n
        .next (r.1.reply d (ofN (r.2 * 2 ^ 62 + (r.1.dc die i).value.toNat)))))

/-- DCWAIT: Waits until a dependence counter reaches zero. (R368) -/
def execDcwait (a : BitVec 5) (s : State) : Out :=
  if s.cur.isT6 then illegalIssuer s (word.dcwait a)
  else
    finishOut s (do
      let (die, i) ← s.counterAt (s.x a)
      let c := s.dc die i
      check (!c.poison) Cause.depfault (s.x a)
      .ok (if c.value = 0 then .next ((s.acquire s.cur c.clock).adv 4)
        else s.blockOn { kind := .dc die i (s.x a) }))

/-- SLOPEN: Closes an open slate and opens a new window. (R374) -/
def execSlopen (d : BitVec 5) (a : BitVec 5) (s : State) : Out := s.slateOpen d (s.x a)

/-- SLOPEN_CLOSE: With CLOSE set, closes the slate and opens nothing. (R374) -/
def execSlopenClose (d : BitVec 5) (a : BitVec 5) (s : State) : Out := s.slateOpen d (s.x a)

/-- SLWAIT: Waits for a slate generation to close. (R374) -/
def execSlwait (d : BitVec 5) (a : BitVec 5) (b : BitVec 5) (s : State) : Out :=
  if s.cur.isT6 then illegalIssuer s (word.slwait d a b)
  else
    finishOut s (do
      let (die, i) ← s.slateAt (s.x a)
      let k := s.getSlate die i
      let g : BitVec 16 := (s.x b).setWidth 16
      if k.gen = g ∧ k.state = 1 then .ok (s.blockOn { kind := .slate die i g (s.x a), rd := d })
      else do
        check (decide (k.state ≠ 2)) Cause.depfault (s.x a)
        .ok (.next ((s.acquire s.cur []).reply d k.word)))

/-- SLSTAT: Reads a slate's status word. (R374) -/
def execSlstat (d : BitVec 5) (a : BitVec 5) (s : State) : Out :=
  finishOut s (do
    let (die, i) ← s.slateAt (s.x a)
    .ok (s.setReg d (s.getSlate die i).word))

/-- BUMP: Allocates chunks from an allocator descriptor in one step. (R266) -/
def execBump (d : BitVec 5) (a : BitVec 5) (b : BitVec 5) (s : State) : Out :=
  let w := s.x a
  finishOut s (do
    let acc ← s.atomPlace w 32 32
    s.waitClear acc.loc 32 true
    .ok (s.act fun s1 => finish s1 (do
      let o ← s1.readVia s1 s1.cur acc w 32
      let ws := bytesWords o
      let next := (wordAt ws 0).toNat
      let chunk := (wordAt ws 2).toNat
      let n := (s1.x b).toNat * chunk
      let legal := (List.range 18).any fun i => decide (chunk = 2 ^ (i + 3))
      let s2 := (s1.useRtb s1.cur w.toNat 32 kindRW).atomRead s1.cur acc 32
      if !legal || decide ((wordAt ws 1).toNat < next + n) then
        .ok (((s2.atomWrite s2.cur { acc with loc := acc.loc + 24 } (wordBytes (wordAt ws 3 + 1))).wx d 0).adv 4)
      else
        let s3 := if n = 0 then s2 else s2.atomWrite s2.cur acc (wordBytes (ofN (next + n)))
        .ok ((s3.wx d (ofN next)).adv 4))))


end Sys2Proof.Machine
end

