-- ==== Sys2Proof/Machine/Tables.lean ====
section
/-! DEFINITION. The TBL group: ranges, the logical core map and the queue table (R328 to R334, R338, R343). -/

namespace Sys2Proof.Machine

namespace State

/-- The status of a TBL instruction goes to X[d] (R328). -/
def status (s : State) (d : BitVec 5) (n : Nat) : State := (s.wx d (ofN n)).adv 4

/-- RNGMAP of R329: the image at X[a] enters the table. -/
def rangeMap (s : State) (d : BitVec 5) (w : Word) : Res State := do
  check (decide (w.toNat % 32 = 0)) Cause.misaligned w
  check (decide (w.toNat + 32 ≤ 0x100000)) Cause.noRange w
  let bs ← s.loadBytes s.cur w 32
  let ws := bytesWords bs
  let p := s.myPart
  let r := Range.ofWords ws
  check (imageLegal ws) Cause.metadataMalformed w
  check (!r.world || s.secureOf s.cur) Cause.worldViolation w
  check (decide (r.owner = p)) Cause.permission w
  if !s.backed p r.pbase r.size || (decide (r.key ≠ 0) && (!(s.getPart p).keys.contains r.key || (s.keyOf r.key).isNone)) then
    .ok (s.status d 4)
  else if (s.getPart p).ranges.any fun e => e.2.any fun q => overlaps q.vbase q.size r.vbase r.size then .ok (s.status d 2)
  else if 65536 ≤ s.rangeCount p then .ok (s.status d 3)
  else .ok ((s.setRange p (s.freeRid p) (some r)).status d 0)

/-- An operation on the range whose VBASE is X[a]: NONE without one, BUSY while it is in motion (R328, R333). -/
def onRange (s : State) (d : BitVec 5) (w : Word) (f : Nat → Range → State) : State :=
  match s.rangeAt s.myPart w.toNat with
  | none => s.status d 1
  | some (i, r) => if r.moving then s.status d 7 else f i r

/-- RNGSPLIT of R330 at offset `o` of the range `r` with index `i`. -/
def rangeSplit (s : State) (d : BitVec 5) (i : Nat) (r : Range) (o : Nat) : State :=
  let p := s.myPart
  if 65536 ≤ s.rangeCount p then s.status d 3
  else
    let cut := o / 128
    let g := r.gen + 1
    let lower : Range := { r with size := o, gen := g }
    let upper : Range := { r with vbase := r.vbase + o, size := r.size - o, pbase := r.pbase + o, gen := g }
    let lo := subInterval r.lines cut (r.size / 128)
    let hi := (subInterval r.lines 0 cut).map fun x => (x.1 - cut, x.2 - cut)
    let s1 := s.setRange p i (some (if r.partialRes then lower.withLines lo else lower))
    (s1.setRange p (s1.freeRid p) (some (if r.partialRes then upper.withLines hi else upper))).status d 0

/-- RNGMERGE of R330: the range `r` with the one that follows it. -/
def rangeMerge (s : State) (d : BitVec 5) (i : Nat) (r : Range) : State :=
  let p := s.myPart
  match s.rangeAt p (r.vbase + r.size) with
  | none => s.status d 1
  | some (j, q) =>
    if q.moving then s.status d 7
    else if q.pbase ≠ r.pbase + r.size ∨ q.perm ≠ r.perm ∨ q.world ≠ r.world ∨ q.owner ≠ r.owner ∨ q.home ≠ r.home ∨
        q.uncached ≠ r.uncached ∨ q.key ≠ r.key ∨ 2 ^ 37 < r.size + q.size then s.status d 5
    else
      let n := r.size / 128
      let ls := q.lines.foldl (fun l x => addInterval l (x.1 + n) (x.2 + n)) r.lines
      if 8 < ls.length then s.status d 6
      else
        let g := if r.gen < q.gen then q.gen + 1 else r.gen + 1
        let m : Range := { r with size := r.size + q.size, gen := g }
        ((s.setRange p j none).setRange p i (some (m.withLines ls))).status d 0

/-- RNGRES of R331 on the range `r`. -/
def rangeRes (s : State) (d : BitVec 5) (i : Nat) (r : Range) (w : Word) : State :=
  let a := field w 30 30
  let b := field w 0 30
  let ls := if bitAt w 63 then subInterval r.lines a b else addInterval r.lines a b
  if 8 < ls.length then s.status d 6
  else (s.setRange s.myPart i (some { r.withLines ls with gen := r.gen + 1 })).status d 0

/-- RNGRES: its operands in the order of R331, then its effect. -/
def rngres (s : State) (d : BitVec 5) (w iv : Word) : Out :=
  finishOut s (do
    let a := field iv 30 30
    let b := field iv 0 30
    check (decide (field iv 60 3 = 0) && decide (a < b)) Cause.metadataMalformed iv
    check (match s.rangeAt s.myPart w.toNat with
      | none => true
      | some (_, r) => decide (b ≤ r.size / 128)) Cause.metadataMalformed iv
    .ok (s.act fun s1 => .next (s1.onRange d w fun i r => s1.rangeRes d i r iv)))

/-- RNGCMP of R333: the compactor of the old home die takes the move. -/
def rangeMove (s : State) (d : BitVec 5) (i : Nat) (r : Range) (new : Word) : State :=
  let p := s.myPart
  match regionOf new.toNat r.size with
  | some (.hbm h) =>
    if !s.backed p new.toNat r.size then s.status d 4
    else if (s.getDie r.home).compact.isSome then s.status d 7
    else
      ((s.setRange p i (some { r with moving := true })).modDie r.home fun x =>
        { x with compact := some { part := p, rid := i, newBase := new.toNat, newHome := h, word := s.ox 3, issuer := s.cur } }).status d 0
  | _ => s.status d 4

/-- The entries of an RTB without the least recently used one that is not locked (R326). -/
def dropLast : List RtbEntry → List RtbEntry
  | [] => []
  | e :: t => if t.all (·.locked) then (if e.locked then e :: t else t) else e :: dropLast t

/-- RNGQRY of R334: the covering range's descriptor is stored at the named place, and its RTB entry locked or freed. -/
def rangeQuery (s : State) (d : BitVec 5) (w b : Word) : Out :=
  let place := b &&& ~~~31
  finishOut s (do
    check (decide (field b 2 3 = 0) && decide (b &&& 3 ≠ 3)) Cause.metadataMalformed b
    let acc ← if place = 0 then .ok none else (do
      check (decide (place.toNat + 32 ≤ 0x100000)) Cause.noRange place
      let x ← s.storeCheck s.cur place 32
      .ok (some x))
    match (s.getPart s.myPart).find w.toNat 1 with
    | none => .ok (.next (s.status d 1))
    | some (i, r) => do
      check (!r.poisoned && !(s.getPart s.myPart).walkBad w.toNat) Cause.uncorrectable w
      let c := s.cur.coreNo
      let k := s.getCore c
      let full := bitAt b 0 && decide (4 ≤ k.locks.length) && !k.locks.contains r.vbase
      let lock := fun (t : State) =>
        if bitAt b 0 && !full then
          let rest := (t.getCore c).rtb.filter fun e => !decide (e.rid = i)
          t.modCore c fun k =>
            { k with rtb := { rid := i, rng := r, locked := true } :: (if rest.length < 64 then rest else dropLast rest)
                     locks := if k.locks.contains r.vbase then k.locks else k.locks ++ [r.vbase] }
        else if bitAt b 1 then
          t.modCore c fun k =>
            { k with locks := k.locks.filter fun v => !decide (v = r.vbase)
                     rtb := k.rtb.map fun e => if e.rng.vbase = r.vbase then { e with locked := false } else e }
        else t
      let done := fun (t : State) => (lock t).status d (if full then 8 else 0)
      .ok (match acc with
        | none => .next (done s)
        | some x =>
          s.storeAll [{ va := place, acc := x, bs := (wordsBytes (Range.words i r)).map some, cost := 40 }] done))

/-- LCMREM of R343. -/
def mapRemoval (s : State) (d : BitVec 5) (w b : Word) : Res Out := do
  check (decide (w.toNat / 128 = 0)) Cause.metadataMalformed w
  check (decide (b &&& 0xFFFFFFFFFFFF80FE = 0)) Cause.metadataMalformed b
  let l := field w 0 7
  let ph := field b 8 7
  let op := bitAt b 0
  check (decide (s.partOfLogical l = s.myPart)) Cause.permission w
  check (!op || decide (s.partOf (.thr ph 0) = s.myPart)) Cause.permission b
  let blockLcm := fun (t : State) => Host.Outcome.next (t.modMe fun m => { m with wait := some { kind := .lcmrem, rd := d } })
  if !op then
    match s.physOf l with
    | none => .ok (.next (s.status d 1))
    | some c =>
      if (List.range 7).any fun i => let t := s.thread (.thr c i); decide (t.st = .run) || decide (t.st = .wait) || decide (t.st = .saved) then
        .ok (.next (s.status d 7))
      else .ok (blockLcm ((s.leaveMap c).returnAll c))
  else if (s.physOf l).isSome || ((List.range 128).any fun i => decide (s.physOf i = some ph)) then .ok (.next (s.status d 7))
  else if ph / 8 ≠ l / 8 then .ok (.next (s.status d 5))
  else if bitAt (s.getCore ph).ckstat 16 || bitAt (s.getCore ph).ckstat 20 then .ok (.next (s.status d 4))
  else
    let s1 : State := { s with lcm := Tbl.put none s.lcm l (some (BitVec.ofNat 16 (0x8000 + ph))) }
    let s2 := s1.modCore ph fun k => { k with lcid := some (BitVec.ofNat 8 l) }
    let s3 := (List.range 8).foldl (fun t i => t.modThread (.thr ph i) fun m => if m.st = .off then { m with st := .free } else m) s2
    .ok (blockLcm s3)

/-- The lowest place in die `die`'s queue SRAM where `n` contiguous entries are free. -/
def queueRoom (s : State) (die n : Nat) : Option Nat :=
  let used := (List.range 8).flatMap fun p => (s.getPart p).queues.filterMap fun e => e.2.bind fun q =>
    if q.die = die then some (q.base, q.depth) else none
  let free := fun (b : Nat) => decide (b + n ≤ 32768) && used.all fun u => !overlaps u.1 u.2 b n
  minOf ((0 :: used.map fun u => u.1 + u.2).filter free)

/-- QTMAP of R338. -/
def queueMap (s : State) (d : BitVec 5) (w c : Word) : Res State := do
  check (decide (w.toNat / 4096 = 0)) Cause.metadataMalformed w
  check (decide (c &&& 0x40FFFFFFFFFEFFFF = 0)) Cause.metadataMalformed c
  let h := field w 0 12
  let p := s.myPart
  if bitAt c 63 then
    match s.taskQ p h with
    | none => .ok (s.status d 1)
    | some q => .ok (if !q.entries.isEmpty || q.pin then s.status d 7 else (s.setTaskQ p h none).status d 0)
  else do
    check (decide (field c 60 2 ≤ 2) && decide (4 ≤ field c 56 4) && decide (field c 56 4 ≤ 12)) Cause.metadataMalformed c
    if (s.taskQ p h).isSome then .ok (s.status d 2)
    else
      let die := field c 16 1
      match s.queueRoom die (2 ^ field c 56 4) with
      | none => .ok (s.status d 3)
      | some b =>
        let q : TaskQ := { disc := field c 60 2, log2d := field c 56 4, die := die, base := b, rcb := s.ox 0 }
        .ok ((s.setTaskQ p h (some q)).status d 0)

/-- Pinned handles of a die. -/
def pins (s : State) (die : Nat) : Nat :=
  ((List.range 8).flatMap fun p => (s.getPart p).queues.filter fun e => e.2.any fun q => q.pin && decide (q.die = die)).length

/-- QTPIN of R338. -/
def queuePin (s : State) (d : BitVec 5) (w b : Word) : Res State := do
  check (decide (w.toNat / 4096 = 0)) Cause.metadataMalformed w
  check (decide (b.toNat ≤ 1)) Cause.metadataMalformed b
  let h := field w 0 12
  let p := s.myPart
  match s.taskQ p h with
  | none => .ok (s.status d 1)
  | some q =>
    if b = 0 then .ok ((s.setTaskQ p h (some { q with pin := false })).status d 0)
    else if !q.pin && decide (256 ≤ s.pins q.die) then .ok (s.status d 3)
    else .ok ((s.setTaskQ p h (some { q with pin := true })).status d 0)

end State

/-- RNGMAP: Enters a new range from an image. (R329) -/
def execRngmap (d : BitVec 5) (a : BitVec 5) (s : State) : Out :=
  if s.cur.isSeq then illegalIssuer s (word.rngmap d a)
  else if !s.cur.isT7 then privileged s (word.rngmap d a)
  else
    finish s (s.rangeMap d (s.x a))

/-- RNGUNMAP: Removes a range. (R330) -/
def execRngunmap (d : BitVec 5) (a : BitVec 5) (s : State) : Out :=
  if s.cur.isSeq then illegalIssuer s (word.rngunmap d a)
  else if !s.cur.isT7 then privileged s (word.rngunmap d a)
  else
    .next (s.onRange d (s.x a) fun i _ => (s.setRange s.myPart i none).status d 0)

/-- RNGSPLIT: Cuts a range in two. (R330) -/
def execRngsplit (d : BitVec 5) (a : BitVec 5) (b : BitVec 5) (s : State) : Out :=
  if s.cur.isSeq then illegalIssuer s (word.rngsplit d a b)
  else if !s.cur.isT7 then privileged s (word.rngsplit d a b)
  else
    finish s (do
      let o := s.x b
      check (decide (o.toNat % 128 = 0) && decide (o ≠ 0)) Cause.metadataMalformed o
      check (match s.rangeAt s.myPart (s.x a).toNat with
        | none => true
        | some (_, r) => decide (o.toNat < r.size)) Cause.metadataMalformed o
      .ok (s.onRange d (s.x a) fun i r => s.rangeSplit d i r o.toNat))

/-- RNGMERGE: Joins a range with the following range. (R330) -/
def execRngmerge (d : BitVec 5) (a : BitVec 5) (s : State) : Out :=
  if s.cur.isSeq then illegalIssuer s (word.rngmerge d a)
  else if !s.cur.isT7 then privileged s (word.rngmerge d a)
  else
    .next (s.onRange d (s.x a) fun i r => s.rangeMerge d i r)

/-- RNGPROT: Sets a range's permissions. (R331) -/
def execRngprot (d : BitVec 5) (a : BitVec 5) (b : BitVec 5) (s : State) : Out :=
  if s.cur.isSeq then illegalIssuer s (word.rngprot d a b)
  else if !s.cur.isT7 then privileged s (word.rngprot d a b)
  else
    finish s (do
      check (decide ((s.x b).toNat < 8)) Cause.metadataMalformed (s.x b)
      .ok (s.onRange d (s.x a) fun i r =>
        (s.setRange s.myPart i (some { r with perm := (s.x b).setWidth 3, gen := r.gen + 1 })).status d 0))

/-- RNGRES_ADD: Adds a residency interval to a range. (R331) -/
def execRngresAdd (d : BitVec 5) (a : BitVec 5) (b : BitVec 5) (s : State) : Out :=
  if s.cur.isSeq then illegalIssuer s (word.rngresAdd d a b)
  else
    s.rngres d (s.x a) (s.x b)

/-- RNGRES_REMOVE: Removes a residency interval from a range. (R331) -/
def execRngresRemove (d : BitVec 5) (a : BitVec 5) (b : BitVec 5) (s : State) : Out :=
  if s.cur.isSeq then illegalIssuer s (word.rngresRemove d a b)
  else
    s.rngres d (s.x a) (s.x b)

/-- RNGINV: Drops translations of an interval everywhere and waits for their users. (R332) -/
def execRnginv (d : BitVec 5) (a : BitVec 5) (b : BitVec 5) (s : State) : Out :=
  if s.cur.isSeq then illegalIssuer s (word.rnginv d a b)
  else if !s.cur.isT7 then privileged s (word.rnginv d a b)
  else
    let lo := alignDown 128 (s.x a).toNat
    let hi := alignUp 128 ((s.x a).toNat + (s.x b).toNat)
    let all := decide (s.x b = 0)
    let s1 := s.endSuspended s.myPart lo hi all
    .next (s1.modMe fun t => { t with wait := some { kind := .rnginv lo hi all, rd := d } })

/-- RNGCMP: Starts moving a range's backing to a new physical base. (R333) -/
def execRngcmp (d : BitVec 5) (a : BitVec 5) (b : BitVec 5) (s : State) : Out :=
  if s.cur.isSeq then illegalIssuer s (word.rngcmp d a b)
  else if !s.cur.isT7 then privileged s (word.rngcmp d a b)
  else
    finish s (do
      check (decide (field (s.ox 3) 62 2 ≠ 3)) Cause.metadataMalformed (s.ox 3)
      s.checkCompletion s.cur (s.ox 3)
      check (decide ((s.x b).toNat % 128 = 0)) Cause.metadataMalformed (s.x b)
      .ok (s.onRange d (s.x a) fun i r => s.rangeMove d i r (s.x b)))

/-- RNGQRY: Finds the range covering an address, optionally locking its RTB entry. (R334) -/
def execRngqry (d : BitVec 5) (a : BitVec 5) (b : BitVec 5) (s : State) : Out :=
  let lock := decide (s.x b &&& 3 ≠ 0)
  if s.cur.isSeq then illegalIssuer s (word.rngqry d a b)
  else if lock && !s.cur.isT7 then privileged s (word.rngqry d a b)
  else s.rangeQuery d (s.x a) (s.x b)

/-- LCMREM_REMOVE: Removes a logical core from the logical core map. (R343) -/
def execLcmremRemove (d : BitVec 5) (a : BitVec 5) (b : BitVec 5) (s : State) : Out :=
  if s.cur.isSeq then illegalIssuer s (word.lcmremRemove d a b)
  else if !s.cur.isT7 then privileged s (word.lcmremRemove d a b)
  else
    finishOut s (s.mapRemoval d (s.x a) (s.x b))

/-- LCMREM_PLACE: Places a physical core under a logical index. (R343) -/
def execLcmremPlace (d : BitVec 5) (a : BitVec 5) (b : BitVec 5) (s : State) : Out :=
  if s.cur.isSeq then illegalIssuer s (word.lcmremPlace d a b)
  else if !s.cur.isT7 then privileged s (word.lcmremPlace d a b)
  else
    finishOut s (s.mapRemoval d (s.x a) (s.x b))

/-- QTMAP_MAP: Maps a task-queue handle. (R338) -/
def execQtmapMap (d : BitVec 5) (a : BitVec 5) (b : BitVec 5) (s : State) : Out :=
  if s.cur.isSeq then illegalIssuer s (word.qtmapMap d a b)
  else if !s.cur.isT7 then privileged s (word.qtmapMap d a b)
  else
    finish s (s.queueMap d (s.x a) (s.x b))

/-- QTMAP_UNMAP: Unmaps a task-queue handle. (R338) -/
def execQtmapUnmap (d : BitVec 5) (a : BitVec 5) (b : BitVec 5) (s : State) : Out :=
  if s.cur.isSeq then illegalIssuer s (word.qtmapUnmap d a b)
  else if !s.cur.isT7 then privileged s (word.qtmapUnmap d a b)
  else
    finish s (s.queueMap d (s.x a) (s.x b))

/-- QTPIN_PIN: Pins a queue-table entry in the queue manager. (R338) -/
def execQtpinPin (d : BitVec 5) (a : BitVec 5) (b : BitVec 5) (s : State) : Out :=
  if s.cur.isSeq then illegalIssuer s (word.qtpinPin d a b)
  else if !s.cur.isT7 then privileged s (word.qtpinPin d a b)
  else
    finish s (s.queuePin d (s.x a) (s.x b))

/-- QTPIN_UNPIN: Unpins a queue-table entry. (R338) -/
def execQtpinUnpin (d : BitVec 5) (a : BitVec 5) (b : BitVec 5) (s : State) : Out :=
  if s.cur.isSeq then illegalIssuer s (word.qtpinUnpin d a b)
  else if !s.cur.isT7 then privileged s (word.qtpinUnpin d a b)
  else
    finish s (s.queuePin d (s.x a) (s.x b))


end Sys2Proof.Machine
end

