-- ==== Sys2Proof/Machine/EvTable.lean ====
section
/-! DEFINITION. Events of the tables: the Range Walker, RNGINV, the compactor, the logical core map, and the clocks (R233, R326, R332, R333, R343, R433). -/

namespace Sys2Proof.Machine

namespace State

/-! ### The RTB (R326) -/

/-- The walker supplies the descriptor `r` with index `i` to core `c`: it replaces an older copy, or the least recently used entry
that is not locked; a VBASE that is locked refills locked (R326, R334). -/
def fillRtb (s : State) (c i : Nat) (r : Range) : State :=
  s.modCore c fun k =>
    let rest := k.rtb.filter fun e => !decide (e.rid = i)
    let room := if rest.length < 64 then rest else dropLast rest
    { k with rtb := { rid := i, rng := r, locked := k.locks.contains r.vbase } :: room }

/-! ### Compaction (R333) -/

/-- Copies the `n` bytes at location `a` to location `b` under key id `k`, a write at the new home; the poison of a sector and the clocks
of its values go with it (R231). -/
def moveBacking (s : State) (a b n k : Nat) : State :=
  let s0 := s.readAtHome a n
  let s1 := ((s0.storeAt b k (s0.plain a n k)).ackAt 0 b n).ackAt 1 b n
  let s2 := (s.poison.filter fun e => e.2 && decide (a ≤ 32 * e.1) && decide (32 * e.1 < a + n)).foldl
    (fun t e => t.poisonSectors (b + (32 * e.1 - a)) 32) s1
  (s.carried.filter fun e => decide (a ≤ 8 * e.1) && decide (8 * e.1 < a + n)).foldl (fun t e => t.carry (b + (8 * e.1 - a)) 8 e.2) s2

/-- The compaction of die `d` and the descriptor it moves. -/
def moving (s : State) (d : Nat) : Option (Compaction × Range) :=
  (s.getDie d).compact.bind fun m => (Tbl.get none (s.getPart m.part).ranges m.rid).map fun r => (m, r)

/-- A location of the old backing of a range, as one of the new backing. -/
def moved (old size new l : Nat) : Nat := if old ≤ l ∧ l < old + size then new + (l - old) else l

/-- A segment of a copy after the move of range `r`: the part of it that `r` translated goes to the new backing. -/
def movedSeg (r : Range) (new : Nat) (g : Seg) : List Seg :=
  let lo := max g.va.toNat r.vbase
  let hi := min (g.va.toNat + g.len) (r.vbase + r.size)
  if g.rid.isNone || decide (hi ≤ lo) || decide (g.loc + r.vbase ≠ r.pbase + g.va.toNat) then [g]
  else
    let cut := fun (a b : Nat) =>
      { g with off := g.off + (a - g.va.toNat), loc := g.loc + (a - g.va.toNat), va := ofN a, len := b - a }
    [cut g.va.toNat lo, { cut lo hi with loc := new + (lo - r.vbase) }, cut hi (g.va.toNat + g.len)].filter fun x => decide (x.len ≠ 0)

/-- What was translated through the old descriptor follows the bytes to the new backing, so that every access keeps one coherence
order: journaled stores, copies and pushes of partition `p`. -/
def relocate (s : State) (p : Nat) (r : Range) (new : Nat) : State :=
  let mv := moved r.pbase r.size new
  let entry := fun (e : JEntry) => match e with
    | .store l k va bs cost xs u =>
      JEntry.store (mv l) k va bs cost (if mv l = l then xs else xs.map fun x => moved (r.pbase / 32) (r.size / 32) (new / 32) x) u
    | .msg m => .msg m
    | .dcdec a b c => .dcdec a b c
    | .bararr a b => .bararr a b
  let copy := fun (c : Copy) =>
    if c.part = p then { c with src := c.src.flatMap (movedSeg r new), dst := c.dst.map fun d => d.flatMap (movedSeg r new) } else c
  let ce := fun (k : CopyEngine) => { k with live := k.live.map copy }
  let push := fun (c : Nat) (w : PushWrite) => if s.partOf (.thr c 0) = p then { w with loc := mv w.loc } else w
  let thread := fun (t : Thread) =>
    { t with journal := t.journal.map entry, hosted := t.hosted.map fun h => { h with journal := h.journal.map entry } }
  { s with
    thr := s.thr.map fun e => if s.partOf (Agent.ofKey e.1) = p then (e.1, thread e.2) else e
    core := s.core.map fun e =>
      if e.2.ce.live.isEmpty && e.2.pushQ.isEmpty then e else (e.1, { e.2 with ce := ce e.2.ce, pushQ := e.2.pushQ.map (push e.1) })
    sets := s.sets.map fun e => if e.2.ce.live.isEmpty then e else (e.1, { e.2 with ce := ce e.2.ce }) }

/-- The switch of a compaction: what was written since its chunk was copied follows, and PBASE, HOME and GEN change in one step;
the RNGINV over the range begins. -/
def switchRange (s : State) (d : Nat) (m : Compaction) (r : Range) : State :=
  let s1 := s.moveBacking r.pbase m.newBase r.size r.key
  let s2 := s1.setRange m.part m.rid (some { r with pbase := m.newBase, home := m.newHome, gen := r.gen + 1 })
  let s3 := s2.relocate m.part r m.newBase
  let s4 := (s3.dropRtb m.part r.vbase (r.vbase + r.size) false).endSuspended m.part r.vbase (r.vbase + r.size) false
  s4.modDie d fun x => { x with compact := some { m with switched := true } }

/-- The completion action of a compaction by the compactor of die `e`, as a release (R229, R258, R333). -/
def compactionDone (s : State) (e : Nat) (m : Compaction) : State :=
  let ck := field m.word 62 2
  let idx := field m.word 0 20
  if ck = 1 then s.decDcOn e (idx / 4096 % 2) (idx % 4096) 1
  else if ck = 2 then s.arriveBarOn e (idx / 4096 % 2) (idx % 1024)
  else s.releaseOn e

end State

/-- The walker supplies the descriptor that covers an address to an RTB. (R326) -/
def execRangeWalkComplete (core : Nat) (va : BitVec 64) (s : State) : Out :=

  let p := s.getPart (s.partOf (.thr core 7))
  match p.find va.toNat 1 with
  | none => .next s
  | some (i, r) => if r.poisoned || p.walkBad va.toNat then .next s else .next (s.fillRtb core i r)


/-- RNGINV completes with 0 once every user of the interval's old translations has ended. (R332) -/
def execRnginvComplete (agent : Nat) (s : State) : Out :=

  let a := Agent.ofKey agent
  match (s.thread a).wait with
  | some { kind := .rnginv lo hi all, rd := rd, len := _, released := _, doomed := _, clock := _ } =>
    let p := s.partOf a
    let s1 := s.endSuspended p lo hi all
    if s1.invDone p lo hi all then .next ((s1.dropRtb p lo hi all).wake a fun t => t.setX rd 0) else .next s1
  | _ => .next s


/-- LCMREM completes with 0: every router, NI and dispatcher uses the new entry. (R343) -/
def execLcmremComplete (agent : Nat) (s : State) : Out :=

  let a := Agent.ofKey agent
  match (s.thread a).wait with
  | some { kind := .lcmrem, rd := rd, len := _, released := _, doomed := _, clock := _ } => .next (s.wake a fun t => t.setX rd 0)
  | _ => .next s


/-- The compactor of a die copies the next 1 MiB chunk of the backing. (R333) -/
def execCompactionChunkCopy (die : Nat) (s : State) : Out :=

  match s.moving die with
  | none => .next s
  | some (m, r) =>
    if r.size ≤ m.prog then .next s
    else
      let n := min 0x100000 (r.size - m.prog)
      let s1 := s.moveBacking (r.pbase + m.prog) (m.newBase + m.prog) n r.key
      .next (s1.modDie die fun x => { x with compact := some { m with prog := m.prog + n } })


/-- After the last chunk the compactor sets PBASE, HOME and GEN in one step. (R333) -/
def execCompactionSwitch (die : Nat) (s : State) : Out :=

  match s.moving die with
  | none => .next s
  | some (m, r) => if m.prog < r.size ∨ m.switched then .next s else .next (s.switchRange die m r)


/-- The compaction's RNGINV has completed: the move ends and its completion action follows. (R333) -/
def execCompactionComplete (die : Nat) (s : State) : Out :=

  match s.moving die with
  | none => .next s
  | some (m, r) =>
    let s1 := s.endSuspended m.part r.vbase (r.vbase + r.size) false
    if !m.switched || !s1.invDone m.part r.vbase (r.vbase + r.size) false then .next s
    else
      let s2 := s1.dropRtb m.part r.vbase (r.vbase + r.size) false
      let s3 := (s2.setRange m.part m.rid (some { r with moving := false })).modDie die fun x => { x with compact := none }
      .next (s3.compactionDone die m)


/-- The domain starts a new epoch for the write counter of a die. (R233) -/
def execEpochChange (die : Nat) (s : State) : Out := .next (s.epochChange (die % 2))


end Sys2Proof.Machine
end

