-- ==== Sys2Proof/Machine/Parts.lean ====
section
/-! DEFINITION. Queue-level resets, scrubs, the grants and the life of a partition, its configuration digest, and code writes of the debug
port (R166, R199, R213, R216, R408, R409, R412 to R418, R426). -/

namespace Sys2Proof.Machine

namespace State

/-! ### Queue-level reset (R408, R409) -/

/-- Counts `n` dropped messages of core `c` (R383, R408). -/
def countDropped (s : State) (c n : Nat) : State :=
  if n = 0 then s else s.modCore c fun k => { k with fixed := Tbl.put 0 k.fixed 0x16 (Tbl.get 0 k.fixed 0x16 + ofN n) }

/-- An open trace session that covers core `c` gets a TYPE 2 record and is closed INCOMPLETE (R409). -/
def traceReset (s : State) (c : Nat) : State :=
  if !s.traced c then s
  else
    (s.traceRecord c [s.traceWord0 (.thr c 0) 2 0 0 0, s.timebase, 0, 0]).modDie (c / 64) fun x =>
      { x with trace := { x.trace with status := 3 } }

/-- Messages that go with the activations on T0 to T5 of core `c`: those of context buffers, save areas and return cells (R408). -/
def keptBy (s : State) (c : Nat) : Nat :=
  ((List.range 6).map fun i => match (s.thread (.thr c i)).hosted with
    | some h => h.ctxBuf.length + h.saveMsgs.length
    | none => 0).foldl (· + ·) 0 + ((List.range 6).filter fun i => (s.thread (.thr c i)).cellBusy).length

/-- The other messages that the reset of core `c` drops: those of the send buffer and its line, inbox, T6 queue, T6's return cell and input
buffers (R408). -/
def droppedBy (s : State) (c : Nat) : Nat :=
  let k := s.getCore c
  k.sendBuf.length + k.niWait.length + (k.inbox.filter fun m => !m.taken).length + k.t6q.length + b2n (s.thread (.thr c 6)).cellBusy +
    (s.mesh.filter fun m => m.received && decide (m.dst = c)).length

/-- A thread of a core that is reset: FREE without anything of its activation, STOPPED while a stop holds, OFF with its core. -/
def clearThread (s : State) (c i : Nat) : State :=
  let s1 := s.freeThread c i
  s1.modThread (.thr c i) fun t =>
    { t with
      st := if (s.thread (.thr c i)).st = .off then .off else .free
      held := .free, image := none, outst := [], wdFired := false, resuming := false, restoring := false, hosted := none, gen := t.gen + 1 }

/-- Cancels the copies of an engine: one that is moving bytes stops at its next destination boundary (R260, R408). -/
def cancelCopies (s : State) (e : Agent) : State :=
  (s.ceOf e).live.foldl (fun t c =>
    if c.state = .inFlight ∨ c.state = .suspended then
      let r := if t.copyRuns c then toLine c 129 t else (t, c.prog)
      r.1.endCopy e { c with prog := r.2 } .cancelled 0
    else t) s

/-- Every activation and hosted context on T0 to T5 of core `c` is killed, without a FAULT message (R408). -/
def killActs (s : State) (c : Nat) : State :=
  (List.range 6).foldl (fun t i =>
    let u := if (t.thread (.thr c i)).live then t.escalate c i false false 0 0 0 0 else t
    (u.dropHosted c i false false 0 0 0).clearThread c i) (s.countDropped c (s.keptBy c))

/-- The queue-level reset of core `c` (R408). -/
def coreReset (s : State) (c : Nat) : State :=
  let s1 := (s.endScan c 3).countDropped c (s.droppedBy c)
  let s2 := s1.killActs c
  let s3 := (s2.clearThread c 6).clearThread c 7
  let s4 : State := { s3 with mesh := s3.mesh.filter fun m => !(m.received && decide (m.dst = c)) }
  let s5 := (s4.modCore c fun k =>
    { k with
      t7q := [], itemWait := [], t7cur := none, sendBuf := [], niWait := [], inbox := [], overflow := false, t6q := [], preemptOut := false
      q := k.q.map fun e => (e.1, { e.2 with entries := [] }), resetting := false }).cancelCopies (.thr c 7)
  let s6 := s5.modThread (.thr c 7) fun t => { t with pc := ofN (field (s.block c 0x1000) 0 20) }
  let s7 := s6.traceReset c
  if (s7.getCore c).stop.isSome then s7.settleStops c else s7

/-- T6 of core `c` has no operation under way, or one that a trap of its own holds (R408). -/
def t6Done (s : State) (c : Nat) : Bool :=
  let t := s.thread (.thr c 6)
  !decide (t.st = .run) && (!decide (t.st = .wait) || trapHeld t)

/-- The queue-level reset of Set `n` (R408). -/
def setReset (s : State) (n : Nat) : State :=
  let k := s.getSet n
  let s1 := k.engQ.foldl (fun t e => t.retireSb (.mxrd n e.serial)) s
  let s2 := (List.range 3).foldl (fun t q =>
    if ((Tbl.get none (t.getSet n).cur q)).isSome then t.seqEnd n q 0x8000000000000016 none else t) s1
  let s3 := s2.countDropped (8 * n) (k.sendBuf.length + k.niWait.length +
    (s.mesh.filter fun m => m.received && decide (m.dst = 128 + n)).length)
  let s4 : State := { s3 with mesh := s3.mesh.filter fun m => !(m.received && decide (m.dst = 128 + n)) }
  let s5 := s4.modSet n fun k =>
    { k with
      engQ := [], loadQ := [], forkQ := [], sem := [], semLine := k.semLine.filter fun e => e.2.1.any fun a => decide (a < 1024)
      bins := k.bins.map fun e => (e.1, { e.2 with state := 0, rows := 0, buf := none, closing := false })
      bufs := [], wb := [], stages := [], mxUce := false, sendBuf := [], niWait := []
      q := k.q.map fun e => (e.1, { e.2 with entries := [] }), resetting := false }
  let s6 := (List.range 3).foldl (fun t q => t.modThread (.seq n q) fun u => { u with outst := [] }) s5
  (s6.cancelCopies (.seq n 2)).traceReset (8 * n)

/-! ### Scrubs (R166, R199, R216, R413) -/

/-- Memory and poison of [l, l + n) are as after a scrub to zero, which no cache holds older bytes of. -/
def scrub (s : State) (l n : Nat) : State :=
  let s1 : State :=
    { s with
      mem := s.mem.filter fun e => !(decide (l ≤ e.1) && decide (e.1 < l + n))
      poison := s.poison.filter fun e => !(decide (l ≤ 32 * e.1) && decide (32 * e.1 < l + n))
      carried := s.carried.filter fun e => !(decide (l ≤ 8 * e.1) && decide (8 * e.1 < l + n)) }
  (s1.flushBacking [(l, n)]).staleLines l n

/-- The scrub of core `c` at a change of partition: its L1 is written back and emptied, with its I-cache, its fetch buffers, its
scoreboard and its RTB (R216, R321). -/
def scrubCore (s : State) (c : Nat) : State :=
  let s1 := ((s.emptyL1 c).scrub (ulmLoc c 0) 0x100000).modCore c fun k =>
    { k with
      icache := [], sb := [], rtb := [], locks := [], code := [], q := k.q.map fun e => (e.1, { e.2 with entries := [] }) }
  (List.range 8).foldl (fun t i => t.modThread (.thr c i) fun u => { u with fbuf := none, fbufStale := false }) s1

/-- The scrub of Set `n` (R166): the state of R165 with the sequencers' memories; what belongs to the node stays. -/
def scrubSet (s : State) (n : Nat) : State :=
  let s1 := s.scrub (seqLoc n 0 0) (3 * 2 ^ 17)
  let s2 := s1.modSet n fun k =>
    { k with
      tiles := [], tags := [], tilePoison := [], tagPoison := [], tfw := [], wb := [], stages := [], mxc := 0, engQ := [], loadQ := []
      sem := [], semLine := [], forkQ := [], forkSeq := [], exits := [], lastFault := [], cur := [], lastEnded := [], bins := []
      bufs := [], rowXfers := [], mxUce := false }
  (List.range 3).foldl (fun t q => t.setThread (.seq n q) {}) s2

/-! ### Grants (R365, R412, R413) -/

/-- A key id is granted to some partition. -/
def keyGranted (s : State) (k : Nat) : Bool := (List.range 8).any fun p => (s.getPart p).keys.contains k

/-- Memory that some partition holds, as backing or for its tables, overlaps [b, b + n). -/
def backingTaken (s : State) (b n : Nat) : Bool :=
  (List.range 8).any fun p => ((s.getPart p).backing ++ (s.getPart p).tableMem).any fun i => overlaps i.1 i.2 b n

/-- T0 to T5 of core `c` are FREE (R43, R413). -/
def actsFree (s : State) (c : Nat) : Bool := (List.range 6).all fun i => decide ((s.thread (.thr c i)).st = .free)

/-- Sets a block of a grant map, once the objects of the block are back at their reset values (R365). -/
def grantBlock (s : State) (d kind b v : Nat) : State :=
  s.modDie d fun x =>
    match kind with
    | 0 => { x with grantDc := Tbl.put 0 x.grantDc b v, dc := x.dc.filter fun e => !decide (e.1 / 64 = b) }
    | 1 => { x with grantBar := Tbl.put 0 x.grantBar b v, bar := x.bar.filter fun e => !decide (e.1 / 64 = b) }
    | _ => { x with grantSlate := Tbl.put 0 x.grantSlate b v, slate := x.slate.filter fun e => !decide (e.1 / 16 = b) }

/-- The holder of a block of a grant map: partition + 1, or 0. -/
def blockOwner (s : State) (d kind b : Nat) : Nat :=
  let x := s.getDie d
  match kind with
  | 0 => Tbl.get 0 x.grantDc b
  | 1 => Tbl.get 0 x.grantBar b
  | _ => Tbl.get 0 x.grantSlate b

/-- The port exists: 0 to 4 on die 0, 4 on die 1 (R268). -/
def portThere (d p : Nat) : Bool := (decide (d = 0) && decide (p < 5)) || (decide (d = 1) && decide (p = 4))

/-- Grants a resource to partition `p`; none where it is not to be had (R412, R413). -/
def grant (s : State) (p : Nat) (r : Resource) : Option State :=
  let blockOf := fun (d kind b n : Nat) =>
    if d < 2 ∧ b < n ∧ s.blockOwner d kind b = 0 then some (s.grantBlock d kind b (p + 1)) else none
  match r with
  | .core c =>
    if c < 128 ∧ !(s.getCore c).assigned ∧ s.actsFree c then
      some ((s.scrubCore c).modCore c fun k => { k with assigned := true, asid := BitVec.ofNat 16 p })
    else none
  | .set n => if n < 16 ∧ !(s.getSet n).assigned then some ((s.scrubSet n).modSet n fun k => { k with assigned := true, part := p }) else none
  | .backing b n =>
    (match regionOf b n with
    | some (.hbm _) =>
      if n = 0 ∨ b % 128 ≠ 0 ∨ n % 128 ≠ 0 ∨ s.backingTaken b n then none
      else some ((s.scrub b n).modPart p fun x => { x with backing := x.backing ++ [(b, n)] })
    | some .mmio => if n = 0 then none else some (s.modPart p fun x => { x with backing := x.backing ++ [(b, n)] })
    | _ => none)
  | .key k => if 1 ≤ k ∧ k ≤ 63 ∧ !s.keyGranted k then some (s.modPart p fun x => { x with keys := x.keys ++ [k] }) else none
  | .counters d b => blockOf d 0 b 64
  | .barriers d b => blockOf d 1 b 16
  | .slates d b => blockOf d 2 b 16
  | .port d q =>
    if portThere d q ∧ (s.portOwner d q).isNone then some (s.modDie d fun x => { x with portPart := Tbl.put 0 x.portPart q (p + 1) })
    else none
  | .dbg => some (s.modPart p fun x => { x with dbg := true })
  | .hostLaunch => some (s.modPart p fun x => { x with hostLaunch := true })
  | .secureWorld => some (s.modPart p fun x => { x with secure := true })
  | .handles lo n =>
    if n = 0 ∨ 4096 < lo + n ∨ (s.getPart p).handles.any fun i => overlaps i.1 i.2 lo n then none
    else some (s.modPart p fun x => { x with handles := x.handles ++ [(lo, n)] })
  | .tableMemory b n =>
    (match regionOf b n with
    | some (.hbm _) =>
      if n = 0 ∨ b % 128 ≠ 0 ∨ n % 128 ≠ 0 ∨ s.backingTaken b n then none
      else some ((s.scrub b n).modPart p fun x => { x with tableMem := x.tableMem ++ [(b, n)] })
    | _ => none)

/-- Withdraws a resource that partition `p` holds; a core, with T0 to T5 FREE (R43), or a Set is scrubbed (R413). HBM4E backing is scrubbed
before it is granted again (R199). -/
def withdraw (s : State) (p : Nat) (r : Resource) : Option State :=
  let blockOf := fun (d kind b : Nat) => if d < 2 ∧ s.blockOwner d kind b = p + 1 then some (s.grantBlock d kind b 0) else none
  match r with
  | .core c =>
    if c < 128 ∧ (s.getCore c).assigned ∧ s.partOf (.thr c 7) = p ∧ s.actsFree c then
      some ((s.scrubCore c).modCore c fun k => { k with assigned := false })
    else none
  | .set n =>
    if n < 16 ∧ (s.getSet n).assigned ∧ (s.getSet n).part = p then some ((s.scrubSet n).modSet n fun k => { k with assigned := false })
    else none
  | .backing b n =>
    if (s.getPart p).backing.contains (b, n) then some (s.modPart p fun x => { x with backing := x.backing.erase (b, n) }) else none
  | .key k => if (s.getPart p).keys.contains k then some (s.modPart p fun x => { x with keys := x.keys.erase k }) else none
  | .counters d b => blockOf d 0 b
  | .barriers d b => blockOf d 1 b
  | .slates d b => blockOf d 2 b
  | .port d q =>
    if s.portOwner d q = some p then some (s.modDie d fun x => { x with portPart := Tbl.put 0 x.portPart q 0 }) else none
  | .dbg => some (s.modPart p fun x => { x with dbg := false })
  | .hostLaunch => some (s.modPart p fun x => { x with hostLaunch := false })
  | .secureWorld => some (s.modPart p fun x => { x with secure := false })
  | .handles lo n =>
    if (s.getPart p).handles.contains (lo, n) then some (s.modPart p fun x => { x with handles := x.handles.erase (lo, n) }) else none
  | .tableMemory b n =>
    if (s.getPart p).tableMem.contains (b, n) then some (s.modPart p fun x => { x with tableMem := x.tableMem.erase (b, n) }) else none

/-! ### The life of a partition (R413 to R415, R418, R426) -/

/-- The cores and Sets granted to partition `p`. -/
def coresOf (s : State) (p : Nat) : List Nat := (List.range 128).filter fun c => (s.getCore c).assigned && decide (s.partOf (.thr c 7) = p)
def setsOf (s : State) (p : Nat) : List Nat := (List.range 16).filter fun n => (s.getSet n).assigned && decide ((s.getSet n).part = p)

/-- A copy reads or writes through one of the keys, or partition `p` reads the host window by it. -/
def copyKeyed (p : Nat) (keys : List Nat) (c : Copy) : Bool :=
  let bad := fun (g : Seg) => (decide (g.key ≠ 0) && keys.contains g.key) || (decide (c.part = p) && decide (placeOf g.loc = .host))
  c.src.any bad || c.dst.any fun d => d.any bad

/-- The copies through a partition's keys, and those that read the host window, end in FAULT with cause PERMISSION when it leaves RUN (R426,
R430). -/
def faultKeyed (s : State) (p : Nat) : State :=
  let keys := (s.getPart p).keys
  let es := ((List.range 128).map fun c => Agent.thr c 7) ++ (List.range 16).map fun n => Agent.seq n 2
  es.foldl (fun t e => ((t.ceOf e).live.filter (copyKeyed p keys)).foldl (fun u c =>
    u.faultCopy e c Cause.permission) t) s

/-- The keys of a partition are wiped (R414). -/
def wipeKeys (s : State) (p : Nat) : State :=
  { s with keys := (s.getPart p).keys.foldl (fun t k => Tbl.put none t k none) s.keys }

/-- The cores of a partition take no message and are reset: at once, or, where T6 has an operation under way, once that is complete; T0 to
T5 are killed at once (R408). -/
def haltCores (s : State) (p : Nat) : State :=
  (s.coresOf p).foldl (fun t c =>
    let u := t.modCore c fun k => { k with started := false }
    if u.t6Done c then u.coreReset c else (u.killActs c).startCoreReset c) s

/-- What the ports of a partition hold is dropped when it leaves RUN: the rest of the frames in flight, and the packets of their FIFOs (R416,
R426). -/
def dropFrames (s : State) (p : Nat) : State :=
  { s with
    frames := s.frames.filter fun e => !decide (s.portOwner 0 (e.1 / 4) = some p)
    die := s.die.map fun e => (e.1, { e.2 with fifos := e.2.fifos.filter fun q => !decide (s.portOwner e.1 q.1 = some p) }) }

/-- A partition in RUN enters ERROR (R415). -/
def partError (s : State) (p : Nat) : State :=
  if (s.getPart p).state = .running then
    ((((s.faultKeyed p).haltCores p).wipeKeys p).dropFrames p).modPart p fun x => { x with state := .error }
  else s

/-- The tables of a partition are empty at its creation, and its trees are gone with it: teardown leaves none (R321, R345). -/
def dropTables (s : State) (p : Nat) : State :=
  let s1 := s.modPart p fun x => { x with ranges := [], index := [], oldRanges := [], queues := [], trees := [], pend := [], pendSet := [] }
  { s1 with die := s1.die.map fun e =>
      (e.1, { e.2 with
        gaf := e.2.gaf.filter fun g => !decide (g.part = p)
        snapIdx := e.2.snapIdx.filter fun i => !decide (i.1 = p)
        compact := if e.2.compact.any fun m => decide (m.part = p) then none else e.2.compact }) }

/-- The end of a stop, once every core of the partition has been reset: its cores and Sets are scrubbed, its keys wiped, its tables dropped
(R321, R345, R413). -/
def endStop (s : State) (p : Nat) : State :=
  if !(s.getPart p).stopping || (s.coresOf p).any fun c => (s.getCore c).resetting then s
  else
    let s2 := (s.setsOf p).foldl (fun t n => (t.setReset n).scrubSet n) (s.faultKeyed p)
    let s3 := (s.coresOf p).foldl (fun t c => (t.scrubCore c).modCore c fun k => { k with t7q := [], itemWait := [] }) s2
    (((s3.wipeKeys p).dropTables p).dropFrames p).modPart p fun x => { x with state := .unlocked, stopping := false }

/-- A partition stops: its cores and Sets are reset, then scrubbed (R413). -/
def partStop (s : State) (p : Nat) : State :=
  (((s.faultKeyed p).haltCores p).modPart p fun x => { x with stopping := true }).endStop p

/-- The registers with which T7 starts: all 0 (R418). -/
def startCore (s : State) (c : Nat) : State :=
  let h := (s.getCore c).htabInit
  let s1 := s.modCore c fun k => { k with htab := h, started := decide (h ≠ 0) }
  let s2 := s1.modThread (.thr c 7) fun t => { ({} : Thread) with st := t.st, held := t.held, gen := t.gen, opTag := t.opTag, fetchEpoch := t.fetchEpoch }
  if h = 0 then s2 else s2.modCore c fun k => { k with t7q := k.t7q ++ [{ word := itemWord 0 0 7 0, slot := 32, kind := 7 }] }

/-- A partition starts: its keys are drawn, and T7 of each of its cores gets its start item (R414, R418). -/
def partStart (s : State) (p : Nat) : State :=
  let s1 : State := { s with keys := (s.getPart p).keys.foldl (fun t k => Tbl.put none t k (some (Config.freeKey s.freeCtr k))) s.keys }
  (s1.coresOf p).foldl (fun t c => t.startCore c) (s1.modPart p fun x => { x with state := .running })

/-! ### The configuration digest (R412, R413, R418) -/

/-- A list of words with its length before it. -/
def counted (l : List Word) : List Word := ofN l.length :: l

/-- Intervals as words. -/
def pairWords (l : List (Nat × Nat)) : List Word := counted (l.flatMap fun i => [ofN i.1, ofN i.2])

/-- What LOCK_INTERFACE measures of partition `p`: its number, world, DBG and host-launch bits, cores, Sets, backing, keys, counter blocks,
ports, queue handles and table memory, and for each core the hash of its ULM and HTABINIT (DESIGN CHOICE, log entry 100: the layout). -/
def configBytes (s : State) (p : Nat) : List Byte :=
  let x := s.getPart p
  let blocks := (List.range 2).flatMap fun d => (List.range 3).flatMap fun k => (List.range 64).filterMap fun b =>
    if s.blockOwner d k b = p + 1 then some (ofN (1024 * d + 256 * k + b)) else none
  let ports := (List.range 2).flatMap fun d => (List.range 5).filterMap fun q =>
    if s.portOwner d q = some p then some (ofN (8 * d + q)) else none
  wordsBytes ([ofN p, b2w x.secure, b2w x.dbg, b2w x.hostLaunch] ++ counted ((s.coresOf p).map ofN) ++ counted ((s.setsOf p).map ofN) ++
    pairWords x.backing ++ counted (x.keys.map ofN) ++ counted blocks ++ counted ports ++ pairWords x.handles ++ pairWords x.tableMem) ++
  (s.coresOf p).flatMap fun c => sha256 (s.ulm c 0 0x100000 ++ wordBytes (s.getCore c).htabInit)

/-- The configuration digest of partition `p` (R413, R418). -/
def configDigest (s : State) (p : Nat) : List Byte := sha256 (s.configBytes p)

/-! ### The debug port (R213, R417) -/

/-- The debug port writes a halfword of code at an address of core `c`'s partition, if its DBG bit is set: in the core's ULM, or in a range
with X of the non-secure world, whose key is loaded (R411, R414, R417; DEDUCED, log entry 46); it waits for a line that an engine owns
(R206). -/
def debugWrite (s : State) (c : Nat) (va : Nat) (bs : List Byte) : State :=
  let p := s.partOf (.thr c 7)
  if !(s.getCore c).assigned || !(s.getPart p).dbg then s.refuse (c / 64)
  else if va < 0x100000 then s.putUlm c va bs
  else match (s.getPart p).find va bs.length with
    | none => s.refuse (c / 64)
    | some (_, r) =>
      if s.rangeFault r false p va bs.length kindX false ≠ none then s.refuse (c / 64) else
      let l := r.pbase + (va - r.vbase)
      if s.engineOwns l bs.length then s else s.storeAt l r.key bs r.uncached

end State

end Sys2Proof.Machine
end

