-- ==== Sys2Proof/Machine/Posted.lean ====
section
/-! DEFINITION. What reaches the device over PCI Express: the apertures, the launch and event pages, the registers over PF0, and the order
of the posted writes on links A and B (R202, R238, R295, R415, R427 to R433). -/

namespace Sys2Proof.Machine

namespace State

/-! ### The aperture (R429, R430) -/

/-- The pieces of [va, va + n) by 128-byte lines. -/
def linePieces (va n : Nat) : List (Nat × Nat) :=
  (List.range (n / 128 + 2)).filterMap fun i =>
    let a := max va (alignDown 128 va + 128 * i)
    let b := min (va + n) (alignDown 128 va + 128 * (i + 1))
    if a < b then some (a, b - a) else none

/-- Where an inbound request of `n` bytes at `va` lies, by one Translate (R240, R429): none where it is refused. MMIO takes a naturally
aligned request of 1, 2, 4 or 8 bytes (R202). -/
def inbound (s : State) (p : Nat) (secure : Bool) (k : Kind) (va n : Nat) : Option Acc :=
  if va < 0x100000 then none
  else match s.translateFor secure p [] va n k with
    | .error _ => none
    | .ok acc =>
      (match placeOf acc.loc with
      | .hbm _ => some acc
      | .mmio => if (n = 1 ∨ n = 2 ∨ n = 4 ∨ n = 8) ∧ va % n = 0 then some acc else none
      | .host => if (s.getPart p).state = .running then some acc else none
      | .ulm => none
      | .none => none)

/-- The request names a range that the partition does not own, a resource that it does not hold (R415; DEDUCED, log entry 101). -/
def foreign (s : State) (p va : Nat) : Bool := ((s.getPart p).find va 1).any fun r => decide (r.2.owner ≠ p)

/-- The bytes that an inbound read returns. -/
def inboundBytes (s : State) (acc : Acc) (n : Nat) : List Byte :=
  match placeOf acc.loc with
  | .mmio => s.mmioReadIf mmioOpen acc.loc n
  | .host => (List.range n).map fun i => Config.freeHostByte s.freeCtr (acc.loc + i - 0x800000000000)
  | _ => s.plain acc.loc n acc.key

/-- The clock that requester `req` sent ahead of its next write, which no longer waits then (R433). -/
def takeHeld (s : State) (req : Nat) : State × Clock :=
  ({ s with heldClocks := Tbl.put [] s.heldClocks req [] }, Tbl.get [] s.heldClocks req)

/-- An inbound write of partition `p` is applied at its home; with the clock that its requester sent before it, as a release write (R231,
R429, R430, R433). -/
def inboundStore (s : State) (p req : Nat) (secure : Bool) (acc : Acc) (bs : List Byte) : State :=
  let h := s.takeHeld req
  (h.1.storeAt acc.loc acc.key bs acc.rng.uncached (p, secure)).carryFrom h.2 acc.loc bs.length

/-! ### Event packets (R268, R269, R284, R431, R436) -/

/-- A packet arrives at a port's FIFO of 64: a full one drops it and counts. -/
def portPush (s : State) (d port : Nat) (bs : List Byte) : State :=
  let f := Tbl.get [] (s.getDie d).fifos port
  if f.length < 64 then
    s.modDie d fun x =>
      { x with fifos := Tbl.put [] x.fifos port (f ++ [{ w0 := bytesWord (bs.take 8), w1 := bytesWord ((bs.drop 8).take 8) }]) }
  else s.countPort d port 0

/-- The whole event packets of a payload enter the FIFO in order. -/
def portPackets (s : State) (d port : Nat) (bs : List Byte) : State :=
  (List.range (bs.length / 16)).foldl (fun t i => t.portPush d port ((bs.drop (16 * i)).take 16)) s

/-! ### Posted writes in their order (R238, R269, R295, R437) -/

/-- A write through the aperture of partition `p` (R429): applied at its home, or refused and counted; one to a resource that the partition
does not hold puts it in ERROR (R415); none while an engine owns a line of it (R206). -/
def apertureWrite (s : State) (p req : Nat) (secure : Bool) (off : Word) (bs : List Byte) : Option State :=
  if (s.getPart p).state = .error ∨ 2 ^ 40 < off.toNat + bs.length then some s
  else match s.inbound p secure kindW off.toNat bs.length with
    | none => some (if s.foreign p off.toNat then (s.countDie 0 10).partError p else s.countDie 0 10)
    | some acc => if s.engineOwns acc.loc bs.length then none else some (s.inboundStore p req secure acc bs)

/-- A write to an event page becomes event packets of the die's event port, or is discarded and counted; through a VF whose partition does
not hold the port it puts that partition in ERROR besides (R415, R431; DEDUCED, log entry 101). -/
def eventPageWrite (s : State) (vf d addr : Nat) (bs : List Byte) : State :=
  if s.portRuns d 4 = some (vf % 8) ∧ addr % 16 = 0 ∧ bs.length % 16 = 0 ∧ addr + bs.length ≤ 0x1000 then s.portPackets d 4 bs
  else
    let s1 := s.countPort d 4 3
    if s.portOwner d 4 = some (vf % 8) then s1 else s1.partError (vf % 8)

/-- A write to the launch page of die `d` by function `fn`: a whole aligned 64-byte packet enters the CP input FIFO as a release of the
posted writes before it, none while that has no room; a write of another size or alignment, or one in recovery, where PF0 presents the
mailbox alone, is discarded and counted (R238, R295, R423). -/
def launchWrite (s : State) (d fn addr : Nat) (ws : List Word) : Option State :=
  if s.recovery ∨ ws.length ≠ 8 ∨ addr % 64 ≠ 0 ∨ 0x1000 < addr + 64 then some (s.countDie d 9)
  else if 256 ≤ (s.getDie d).cpFifo.length then none
  else
    let s1 := s.releaseOn 0
    some ((s1.mergeClock d (s1.vcOf 0)).modDie d fun x => { x with cpFifo := x.cpFifo ++ [{ fn := fn, words := ws, clock := s1.vcOf 0 }] })

/-- A posted write goes to die 1, over the bridge; a clock message may go to either die. -/
def crosses (s : State) : Posted → Bool
  | .launch die _ _ _ => decide (die % 2 = 1)
  | .aperture vf _ secure off bs => (s.inbound (vf % 8) secure kindW off.toNat bs.length).any fun x => decide (locDie x.loc = some 1)
  | .eventPage _ die _ _ => decide (die % 2 = 1)
  | .mmio pa _ => decide ((pa - 0x4000000000) / 0x80000000 = 1)
  | .clock _ _ => true

/-- A posted write is applied, or has to wait: die 0 holds what goes to die 1 while the bridge retrains (R437, R439). -/
def applyPosted (s : State) (w : Posted) : Option State :=
  if s.retraining && s.crosses w then none
  else match w with
    | .launch die fn addr ws => s.launchWrite (die % 2) fn addr ws
    | .aperture vf req secure off bs => s.apertureWrite (vf % 8) req secure off bs
    | .eventPage vf die addr bs => some (s.eventPageWrite vf (die % 2) addr bs)
    | .mmio pa bs => some (s.mmioWrite (.master 0) pa bs)
    | .clock req k =>
      some { s with heldClocks := Tbl.put [] s.heldClocks req (joinClock (Tbl.get [] s.heldClocks req) ((List.zipIdx k).map fun e => (e.2, e.1))) }

/-- Applies posted writes of one link in their order up to one that has to wait, which holds those behind it: the machine, and what waits. -/
def applyInOrder : List Posted → State → State × List Posted
  | [], s => (s, [])
  | w :: t, s =>
    match s.applyPosted w with
    | some s1 => applyInOrder t s1
    | none => (s, w :: t)

/-- It comes from a peer, over link B (R427, R433). -/
def onLinkB : Posted → Bool
  | .aperture _ req _ _ _ => decide (req ≠ 0)
  | .clock _ _ => true
  | .launch _ _ _ _ => false
  | .eventPage _ _ _ _ => false
  | .mmio _ _ => false

/-- The posted writes `l` of link A or B are applied as far as they can be; the rest waits. -/
def applyLink (s : State) (b : Bool) (l : List Posted) : State :=
  let r := applyInOrder l s
  if b then { r.1 with postedB := r.2 } else { r.1 with postedA := r.2 }

/-- The posted writes that both links hold are applied as far as they can be. -/
def drainPosted (s : State) : State :=
  let s1 := if s.postedA.isEmpty then s else s.applyLink false s.postedA
  if s1.postedB.isEmpty then s1 else s1.applyLink true s1.postedB

/-- A posted write arrives: behind those that wait on its link (R295; DESIGN CHOICE, log entry 96). -/
def postWrite (s : State) (w : Posted) : State :=
  if onLinkB w then s.applyLink true (s.postedB ++ [w]) else s.applyLink false (s.postedA ++ [w])

/-- A write of doubleword `v` at offset `q` of die `d`'s half of the MMIO map; over PF0 it is a posted write on link A. -/
def hostWrite (s : State) (w : Writer) (d q : Nat) (v : Word) : State :=
  if w = .master 0 ∧ !(s.postedA.isEmpty && !(decide (d = 1) && s.retraining)) then
    s.postWrite (.mmio (0x4000000000 + d * 0x80000000 + q) (wordBytes v))
  else s.mmioWrite8 w d q v

/-! ### Reads from outside (R75, R295, R383, R385, R407, R417, R431) -/

/-- What the debug port reads of the counters of R383: a fixed or performance counter of core `c`, or a counter of its die. -/
def debugCounter (s : State) (c sel : Nat) : Word := s.perfRead c sel

/-- A delay-account entry whole, KEY first (R385). -/
def debugDelay (s : State) (c i : Nat) : List Word := (List.range 5).map fun j => s.delayField c i j

/-- Trace record `i` of die `d` (R407). -/
def debugTrace (s : State) (d i : Nat) : List Word := ((s.getDie d).trace.recs[i]?).getD []

/-- The bytes that a read from outside gets: a launch or event page reads all ones. -/
def outsideBytes (s : State) : Outside → List Byte
  | .mmio w pa n => s.mmioReadBy w pa n
  | .page n => List.replicate n 0xFF
  | .debugPc c t => wordBytes (s.debugPc c t)
  | .debugCkstat c => wordBytes (s.debugCkstat c)
  | .debugCounter c sel => wordBytes (s.debugCounter c sel)
  | .debugDelay c i => wordsBytes (s.debugDelay c i)
  | .debugTrace d i => wordsBytes (s.debugTrace d i)

/-- It comes from the host over link A. -/
def overLinkA : Outside → Bool
  | .mmio (.master m) _ _ => decide (m = 0)
  | .page _ => true
  | _ => false

/-- A read from outside is answered; one over link A passes no posted write that the link holds. -/
def readOutside (s : State) (r : Outside) : State :=
  let s1 := if overLinkA r then s.drainPosted else s
  if overLinkA r && !s1.postedA.isEmpty then s1 else { s1 with answer := s1.outsideBytes r }

/-- A write of bytes at a physical address of the MMIO map. -/
def hostBytes (s : State) (w : Writer) (pa : Nat) (bs : List Byte) : State :=
  if w = .master 0 then s.postWrite (.mmio pa bs) else s.mmioWrite w pa bs

end State

end Sys2Proof.Machine
end

