-- ==== Sys2Proof/Machine/EvDevice.lean ====
section
/-! DEFINITION. Events of the debug port, the owner, the MMIO map, queue-level resets and the life of a partition (R136, R207, R208, R213, R341,
R376, R402 to R409, R412 to R420, R426). -/

namespace Sys2Proof.Machine

/-- The debug port stops a halt group. (R403) -/
def execDebugStopRequest (die : Nat) (g : Nat) (s : State) : Out := .next ((s.stopGroup (die % 2) (g % 32) 1).markGroups)

/-- The debug port writes a halfword of code into a partition whose DBG bit is set; elsewhere it is discarded and counted. (R213) -/
def execDebugCodeWrite (core : Nat) (addr : BitVec 64) (data : BitVec 16) (s : State) : Out :=

  if 128 ≤ core ∨ addr.toNat % 2 ≠ 0 then .next s else .next (s.debugWrite core addr.toNat (leBytes 2 data.toNat))


/-- A write of GO resumes every member of a halt group. (R402) -/
def execHgcGo (die : Nat) (g : Nat) (s : State) : Out := .next (s.groupGo (die % 2) (g % 32))

/-- The debug port writes a command-packet breakpoint register; clearing HIT resumes the CP. (R406) -/
def execCpbrkWrite (n : Nat) (v : BitVec 64) (s : State) : Out := .next (s.mmioWrite8 .debug 0 (0x2000 + 8 * (n % 8)) v)

/-- Masters claim the device, in one cycle: the lower index goes first. (R419) -/
def execClaim (m : List Nat) (s : State) : Out :=
  .next (((List.range 3).filter fun i => m.contains i).foldl (fun t i => t.hostWrite (.master i) 0 0 (ofN (1 * 2 ^ 56))) s)

/-- The owner offers the device to a master. (R420) -/
def execOffer (m : Nat) (dest : Nat) (s : State) : Out := .next (s.hostWrite (.master (m % 3)) 0 0 (ofN (2 * 2 ^ 56 + dest % 4)))

/-- Master `m.1` accepts the offer; a RELEASE by master `m.2` that reaches OWNER in the same cycle is applied after it. (R420, R426) -/
def execAccept (m : Nat × Option Nat) (s : State) : Out :=
  let s1 := s.hostWrite (.master (m.1 % 3)) 0 0 (ofN (3 * 2 ^ 56))
  .next (match m.2 with
    | some r => s1.hostWrite (.master (r % 3)) 0 0 (ofN (4 * 2 ^ 56))
    | none => s1)

/-- The owner releases the device. (R420) -/
def execRelease (m : Nat) (s : State) : Out := .next (s.hostWrite (.master (m % 3)) 0 0 (ofN (4 * 2 ^ 56)))

/-- An offer lapses 100 ms after it was made: HO and NEW clear. (R420) -/
def execOfferTimeout (s : State) : Out :=

  if bitAt s.owner 62 ∧ 100000000 < (s.timebase - s.offerAt).toNat then
    .next { s with owner := setField (setField s.owner 62 1 0) 58 2 0 }
  else .next s


/-- The owner writes the causal domain over PF0. (R208) -/
def execDomainWrite (v : BitVec 64) (s : State) : Out := .next (s.hostWrite (.master 0) 0 0x008 v)

/-- The owner writes the rate of the timebase over PF0. (R208) -/
def execTbslewWrite (v : BitVec 64) (s : State) : Out := .next (s.hostWrite (.master 0) 0 0x020 v)

/-- The owner steps the timebase forward over PF0. (R208) -/
def execTbstepWrite (v : BitVec 64) (s : State) : Out := .next (s.hostWrite (.master 0) 0 0x028 v)

/-- A write of an MSI-X trigger register raises a vector. (R208) -/
def execMsixTrigger (w : Writer) (fn : Nat) (v : BitVec 64) (s : State) : Out :=

  if fn < 9 then .next (s.hostWrite w 0 (0x400 + 8 * fn) v) else .next s


/-- A write of CRST.GO starts the queue-level reset of a core. (R408) -/
def execCoreReset (w : Writer) (core : Nat) (s : State) : Out := .next (s.hostWrite w (core / 64 % 2) (0x60000 + 32 * (core % 64)) 1)

/-- A write of SRST.GO starts the queue-level reset of a Set. (R408) -/
def execSetReset (w : Writer) (set : Nat) (s : State) : Out := .next (s.hostWrite w (set / 8 % 2) (0x61000 + 8 * (set % 8)) 1)

/-- The queue-level reset of a core or Set is performed, once T6 has completed its operation. (R408) -/
def execQueueResetComplete (isSet : Bool) (id : Nat) (s : State) : Out :=

  if isSet then (if (s.getSet id).resetting then .next (s.setReset id) else .next s)
  else if (s.getCore id).resetting && s.t6Done id then .next ((s.coreReset id).endStop (s.partOf (.thr id 7))) else .next s


/-- A write of SCANCTL.START runs the in-field scan of a core. (R208) -/
def execScanctlStart (w : Writer) (core : Nat) (v : BitVec 64) (s : State) : Out := .next (s.hostWrite w (core / 64 % 2) (0x60008 + 32 * (core % 64)) (v ||| 1))

/-- The debug port writes TRCMASK and opens a trace session in mode WRAP or STOP. (R407) -/
def execTraceOpen (die : Nat) (mask : BitVec 64) (stop : Bool) (s : State) : Out := .next ((s.mmioWrite8 .debug (die % 2) 0x70008 mask).mmioWrite8 .debug (die % 2) 0x70000 (ofN (1 + 2 * b2n stop)))

/-- The debug port closes the trace session, COMPLETE. (R407) -/
def execTraceClose (die : Nat) (s : State) : Out := .next (s.mmioWrite8 .debug (die % 2) 0x70000 (ofN (2 * b2n (s.getDie (die % 2)).trace.ctlMode)))

/-- A write of an entry of the ingress routing table. (R341) -/
def execIngressRouteWrite (w : Writer) (die : Nat) (src : Nat) (v : BitVec 64) (s : State) : Out := .next (s.hostWrite w (die % 2) (0x20000 + 8 * (src % 256)) v)

/-- A write of a doubleword of a reduction tree entry. (R376) -/
def execReductionTreeWrite (w : Writer) (die : Nat) (tree : Nat) (dw : Nat) (v : BitVec 64) (s : State) : Out := .next (s.hostWrite w (die % 2) (0x30000 + 32 * (tree % 64) + 8 * (dw % 4)) v)

/-- A write into the ULM load window of a core. (R418) -/
def execUlmLoadWindowWrite (w : Writer) (core : Nat) (addr : Nat) (data : List (BitVec 8)) (s : State) : Out :=

  if 128 ≤ core then .next s
  else if 0x100000 ≤ addr then .next (s.refuse (core / 64))
  else .next (s.hostBytes w (0x4040000000 + core / 64 * 0x80000000 + 0x100000 * (core % 64) + addr) data)


/-- A naturally aligned write of 1, 2, 4 or 8 bytes into the device MMIO map. (R207) -/
def execMmioRegisterWrite (w : Writer) (off : Nat) (size : Nat) (v : BitVec 64) (s : State) : Out :=

  if (size = 1 ∨ size = 2 ∨ size = 4 ∨ size = 8) ∧ off % size = 0 ∧ off + size ≤ 0x100000000 then
    .next (s.hostBytes w (0x4000000000 + off) ((wordBytes v).take size))
  else .next s


/-- The owner grants a resource to a partition in CONFIG_UNLOCKED. (R413) -/
def execGrantResource (part : Nat) (r : Resource) (s : State) : Out :=

  if part < 8 ∧ s.isOwner 0 ∧ (s.getPart part).state = .unlocked then .next ((s.grant part r).getD s) else .next s


/-- The owner withdraws a resource from a partition in CONFIG_UNLOCKED. (R413) -/
def execWithdrawResource (part : Nat) (r : Resource) (s : State) : Out :=

  if part < 8 ∧ s.isOwner 0 ∧ (s.getPart part).state = .unlocked then .next ((s.withdraw part r).getD s) else .next s


/-- LOCK_INTERFACE freezes the grants and records the configuration digest. (R413) -/
def execLockInterface (part : Nat) (s : State) : Out :=

  if part < 8 ∧ (s.getPart part).state = .unlocked then
    .next (s.modPart part fun x => { x with state := .locked, digest := s.configDigest part })
  else .next s


/-- START_INTERFACE draws the keys and starts the cores. (R418) -/
def execStartInterface (part : Nat) (s : State) : Out :=

  if part < 8 ∧ (s.getPart part).state = .locked then .next (s.partStart part) else .next s


/-- STOP_INTERFACE resets and scrubs the partition and wipes its keys. (R413) -/
def execStopInterface (part : Nat) (s : State) : Out :=

  if part < 8 ∧ (s.getPart part).state ≠ .unlocked then .next (s.partStop part) else .next s


/-- A violation puts a running partition in ERROR. (R415) -/
def execPartitionError (part : Nat) (s : State) : Out :=

  if part < 8 then .next (s.partError part) else .next s



end Sys2Proof.Machine
end

