-- ==== Sys2Proof/Machine/EvHost.lean ====
section
/-! DEFINITION. Events of start-up, the host, the sensors, the die bridge and management (R215, R421 to R438). -/

namespace Sys2Proof.Machine

namespace State

/-! ### Start-up (R421 to R424) -/

/-- The steps whose failure does not end a boot (R421). -/
def optionalStep (n : Nat) : Bool := decide (12 ≤ n) && decide (n ≤ 14)

/-- The steps with an alternate path (R421). -/
def alternateStep (n : Nat) : Bool := decide (n = 3) || decide (n = 4) || decide (n = 6) || decide (n = 7)

/-- How a step of a boot came out: its MODE, and whether it goes on from here, ends the boot, or leaves the device in recovery. -/
inductive StepEnd where
  | go (mode : Nat)
  | stop
  | recover
  deriving DecidableEq, Repr

/-- A boot-record entry with a MODE. -/
def bootMode (e : Word) (m : Nat) : Word := setField e 44 4 m

/-- An entry of a step that failed on its normal path: ATT counts it, and ERR holds a code that the spec does not give. -/
def bootFailed (s : State) (n : Nat) (e : Word) : Word :=
  setField (setField (setField e 56 8 (min 255 (field e 56 8 + 1))) 48 8 (1 + (Config.freeWord s.freeCtr n).toNat % 255)) 44 4 4

/-- Step `n` of a boot, from its entry: the entry after it and what follows (R421 to R423). -/
def bootStep (s : State) (failNormal failAlt : BitVec 16) (n : Nat) : Word × StepEnd :=
  let e := Tbl.get 0 s.bootEnt n
  let att := field e 56 8
  if optionalStep n then
    if att ≠ 0 then (bootMode e 3, .go 3)
    else if bitAt failNormal n then (s.bootFailed n e, .go 4)
    else (bootMode e 1, .go 1)
  else if alternateStep n ∧ 2 ≤ att then
    if bitAt failAlt n then (setField (bootMode e 4) 48 8 (1 + (Config.freeWord s.freeCtr n).toNat % 255), .recover) else (bootMode e 2, .go 2)
  else if bitAt failNormal n then (s.bootFailed n e, .stop)
  else (setField (bootMode e 1) 56 8 0, .go 1)

/-- The steps of a list in order: the machine with its record, the masks OKM, ALTM and SKM, and how the boot ended. -/
def bootSteps (failNormal failAlt : BitVec 16) : List Nat → State → Nat × Nat × Nat → State × (Nat × Nat × Nat) × StepEnd
  | [], s, m => (s, m, .go 1)
  | n :: rest, s, m =>
    let r := s.bootStep failNormal failAlt n
    let s1 : State := { s with bootEnt := Tbl.put 0 s.bootEnt n r.1 }
    match r.2 with
    | .go mode =>
      let b := 2 ^ n
      let ok := if mode = 1 ∨ mode = 2 then b else 0
      let alt := if mode = 2 then b else 0
      let sk := if mode = 3 ∨ mode = 4 then b else 0
      bootSteps failNormal failAlt rest s1 (m.1 + ok, m.2.1 + alt, m.2.2 + sk)
    | .stop => (s1, m, .stop)
    | .recover => (s1, (m.1, m.2.1 + 2 ^ n, m.2.2), .recover)

/-- What a reset of the device leaves: every unit at its reset value, with the retention SRAM and the fuses, and beside the device the world
outside it and the model's own fields (R422). -/
def cold (s : State) : State :=
  { State.reset with
    agenda := s.agenda, freeCtr := s.freeCtr, hostOut := s.hostOut, bootEnt := s.bootEnt, boots := s.boots
    failedBoots := s.failedBoots, envelope := s.envelope, fuses := s.fuses }

/-- A physical core that failed its start-up test has V = 0 in the map (R342). -/
def failCore (s : State) (c : Nat) : State :=
  ({ s with lcm := Tbl.put none s.lcm c (some (BitVec.ofNat 16 c)) } : State).modCore c fun k => { k with lcid := some 0x80 }

/-- The firmware image verifies against the public-key hash in fuses (R421). -/
def verified (fuses : BitVec 256) (f : Firmware) : Bool :=
  decide (lmsRoot f.id f.q f.c f.y f.path f.image = f.root) && decide (sha256 (lmsKey f.id f.root) = beBytes 32 fuses.toNat)

/-- MODE of the boot-record entry of step `n`: 1 NORMAL, 2 ALTERNATE (R422). -/
def stepMode (s : State) (n : Nat) : Nat := field (Tbl.get 0 s.bootEnt n) 44 4

/-- What steps 3 and 13 leave beside their records: the digest of the image that verified, and the timebase by PTM (R379, R421, R425; the
time is a free value, DESIGN CHOICE, log entry 47). -/
def bootEffects (s : State) (i : BootInput) : State :=
  let s1 : State := match s.stepMode 3 with
    | 1 => { s with fwDigest := sha256 i.primary.image }
    | 2 => { s with fwDigest := sha256 i.secondary.image }
    | _ => s
  if s1.stepMode 13 = 1 then { s1 with timebase := Config.ptmTime s1.freeCtr } else s1

/-- One boot of the device, in which the normal and the alternate paths of the steps of two masks fail (R421 to R424). -/
def bootOnce (s : State) (i : BootInput) (failNormal failAlt : BitVec 16) (badCores : BitVec 128) : State :=
  let s0 := { s.cold with
    envelope := i.envelope, boots := min 255 (s.boots + 1)
    bootEnt := (List.range 16).foldl (fun t n => Tbl.put 0 t n (bootMode (Tbl.get 0 t n) 0)) s.bootEnt }
  let r := bootSteps failNormal failAlt (List.range 16) s0 (0, 0, 0)
  let failed := if r.2.2 = .go 1 then 0 else s.failedBoots + 1
  let recov := decide (r.2.2 = .recover) || decide (4 ≤ failed)
  let s1 : State :=
    { r.1.bootEffects i with
      failedBoots := failed, recovery := recov
      bootrec := ofN (r.2.1.1 * 2 ^ 48 + r.2.1.2.1 * 2 ^ 32 + r.2.1.2.2 * 2 ^ 16 + r.1.boots * 2 ^ 8 + b2n recov * 2 ^ 7) }
  (List.range 128).foldl (fun t c => if bitAt badCores c then t.failCore c else t) s1

/-- Boots one after another, until one passes or leaves the device in recovery: the outside gives each boot its masks of failures, none where
its lists end (R423). -/
def bootFrom (i : BootInput) (badCores : BitVec 128) : Nat → List (BitVec 16) → List (BitVec 16) → State → State
  | 0, _, _, s => s
  | n + 1, fn, fa, s =>
    let s1 := s.bootOnce i (fn.headD 0 ||| (if verified s.fuses i.primary then 0 else 8))
      (fa.headD 0 ||| (if verified s.fuses i.secondary then 0 else 8)) badCores
    if s1.failedBoots = 0 ∨ s1.recovery then s1 else bootFrom i badCores n (fn.drop 1) (fa.drop 1) s1

/-- A boot of the device: at most four boots fail before it is in recovery (R421 to R424). -/
def boot (s : State) (i : BootInput) (failNormal failAlt : List (BitVec 16)) (badCores : BitVec 128) : State :=
  bootFrom i badCores 4 failNormal failAlt s

/-- What the SPDM responder measures: version of the ROM, digest of the firmware, the boot record, the envelope, and the number and the
configuration digest of each partition in CONFIG_LOCKED or RUN (R425). -/
def evidence (s : State) : List Byte :=
  wordBytes Config.romVersion ++ s.fwDigest ++ wordsBytes (((List.range 16).map fun n => Tbl.get 0 s.bootEnt n) ++ [ofN s.envelope]) ++
    (List.range 8).flatMap fun p =>
      let x := s.getPart p
      if x.state = .locked ∨ x.state = .running then wordBytes (ofN p) ++ x.digest else []

/-- The answer of the SPDM responder: the versions 1.2 and 1.3, its certificate chain, and the evidence with its signature (R425; DESIGN CHOICE,
log entry 98: the layout). -/
def spdmAnswer (s : State) : List Byte := [0x12, 0x13] ++ Config.certChain ++ s.evidence ++ Config.hssSign s.evidence

/-! ### Camera frames (R416, R434, R435) -/

/-- Doubleword `j` of the frame target of a port and virtual channel. -/
def frameWord (s : State) (port vc j : Nat) : Word := Tbl.get 0 s.frameTgt (16 * port + 4 * vc + j)

/-- The frame of a port and virtual channel. -/
def frameOf (s : State) (port vc : Nat) : Frame := Tbl.get {} s.frames (4 * port + vc)
def setFrame (s : State) (port vc : Nat) (f : Frame) : State := { s with frames := Tbl.put {} s.frames (4 * port + vc) f }

/-- Where a piece of a frame of partition `p` goes: a secure, encrypted range of the partition in HBM4E, checked as a copy's destination is,
without residency (R254, R416). -/
def frameAt (s : State) (p a n : Nat) : Option Acc :=
  match s.translateFor true p [] a n kindW false with
  | .error _ => none
  | .ok acc =>
    (match placeOf acc.loc with
    | .hbm _ => if acc.rng.world ∧ acc.key ≠ 0 then some acc else none
    | _ => none)

/-- The location of the reel header that a frame target's completion names, in a ULM of the port's partition (R253, R435). -/
def frameReel (s : State) (p port vc : Nat) : Option Nat :=
  let place := field (s.frameWord port vc 3) 0 8
  let idx := field (s.frameWord port vc 2) 0 20
  if place < 0x80 ∨ idx % 64 ≠ 0 ∨ 0x100000 < idx + 64 then none
  else (s.physOf (place % 128)).bind fun c =>
    if s.partOf (.thr c 7) = p ∧ s.reelValid (ulmLoc c idx) then some (ulmLoc c idx) else none

/-- The slot that frame number `f` fills. -/
def frameSlot (s : State) (port vc h f : Nat) : Nat := (field (s.frameWord port vc 2) 32 10 + f) % s.reelN h

/-- A frame of partition `p` begins: its buffer is chosen, or it is dropped and counted. -/
def startFrame (s : State) (p port vc : Nat) : State :=
  let w1 := s.frameWord port vc 1
  if !bitAt w1 63 then s.setFrame port vc {}
  else
    let f := field (s.frameWord port vc 3) 32 32
    let size := alignDown 128 (field w1 32 24)
    let buf := alignDown 128 (s.frameWord port vc 0).toNat + f % 2 ^ field w1 56 4 * size
    let there := (linePieces buf size).all fun x => (s.frameAt p x.1 x.2).isSome
    let reel := decide (field (s.frameWord port vc 2) 62 2 ≠ 3) || (s.frameReel p port vc).any fun h =>
      s.reelFree h (s.frameSlot port vc h f)
    if there && reel then s.setFrame port vc { active := true, buf := ofN buf, startT := s.timebase, count := BitVec.ofNat 32 f }
    else (s.setFrame port vc {}).countPort 0 port 3

/-- Where line `l` of a frame lies in its buffer, and how many of `n` bytes fit PITCH and FSIZE. -/
def frameSpan (s : State) (port vc l n : Nat) : Nat × Nat :=
  let w1 := s.frameWord port vc 1
  let off := l * field w1 16 16
  (off, min n (min (field w1 16 16) (alignDown 128 (field w1 32 24) - off)))

/-- The pieces of the next line of a frame, of `n` bytes. -/
def framePieces (s : State) (port vc n : Nat) : List (Nat × Nat) :=
  let f := s.frameOf port vc
  let w := s.frameSpan port vc f.line n
  linePieces (f.buf.toNat + w.1) w.2

/-- The next line of a frame has to wait: an engine owns a line of the memory that it goes to, that lies beyond a bridge that retrains, or
is not resident (R206, R437; DEDUCED, log entry 48). -/
def frameBlocked (s : State) (p port vc : Nat) (bs : List Byte) : Bool :=
  (s.framePieces port vc bs.length).any fun x => (s.frameAt p x.1 x.2).any fun acc =>
    s.engineOwns acc.loc x.2 || s.acrossBridge 0 acc.loc || decide (acc.rng.residentFrom (x.1 - acc.rng.vbase) < x.2)

/-- A line of a frame is written at its pitch; what passes PITCH or FSIZE is dropped and makes the status TRUNC. A destination that fails its
check drops the frame (R416). -/
def frameLine (s : State) (p port vc : Nat) (bs : List Byte) (crcOk : Bool) : State :=
  let f := s.frameOf port vc
  let off := (s.frameSpan port vc f.line bs.length).1
  let n := (s.frameSpan port vc f.line bs.length).2
  let ps := s.framePieces port vc bs.length
  if ps.any fun x => (s.frameAt p x.1 x.2).isNone then (s.setFrame port vc {}).countPort 0 port 3
  else
    let s1 := ps.foldl (fun t x =>
      match t.frameAt p x.1 x.2 with
      | some acc =>
        let t1 := t.storeAt acc.loc acc.key ((bs.drop (x.1 - (f.buf.toNat + off))).take x.2) acc.rng.uncached
        if acc.rng.uncached then t1 else t1.ackAt 0 acc.loc x.2
      | none => t) s
    let st := if n < bs.length then 2 else if crcOk then f.status else 1
    let s2 := s1.setFrame port vc { f with line := f.line + 1, bytes := f.bytes + n, status := st }
    if crcOk then s2 else s2.countPort 0 port 3

/-- The lines that the receiver holds for a frame are written in their order, up to one that has to wait (R206, R437); with the frame they
are dropped. -/
def frameLines (p port vc : Nat) : List (List Byte × Bool) → State → State
  | [], s => s.setFrame port vc { s.frameOf port vc with waiting := [] }
  | l :: t, s =>
    if !(s.frameOf port vc).active then s.setFrame port vc {}
    else if s.frameBlocked p port vc l.1 then s.setFrame port vc { s.frameOf port vc with waiting := l :: t }
    else frameLines p port vc t (s.frameLine p port vc l.1 l.2)

/-- The completion of a frame (R258, R435). -/
def frameDone (s : State) (p port vc : Nat) : State :=
  let f := s.frameOf port vc
  let w2 := s.frameWord port vc 2
  let w3 := s.frameWord port vc 3
  let d := field w2 12 1
  let s0 := ({ s with frameTgt := Tbl.put 0 s.frameTgt (16 * port + 4 * vc + 3) (setField w3 32 32 (field w3 32 32 + 1)) } : State).setFrame
    port vc {}
  match field w2 62 2 with
  | 1 => if s.holdsDc p d (field w2 0 12) then s0.decDcOn 0 d (field w2 0 12) 1 else s0
  | 2 => if s.holdsBar p d (field w2 0 10) then s0.arriveBarOn 0 d (field w2 0 10) else s0
  | 3 =>
    (match s.frameReel p port vc with
    | none => s0
    | some h =>
      let i := s.frameSlot port vc h f.count.toNat
      let ws := [zext64 f.count, f.buf, f.startT, ofN (f.status * 2 ^ 60 + f.bytes % 2 ^ 32)]
      (s0.putSlot h i ((wordsBytes ws).take (s.reelSize h))).fillSlotOn 0 h i false)
  | _ => s0

end State

/-- A mailbox request over PF0 clears the ATT of a boot step. (R423) -/
def execAttClear (step : Nat) (s : State) : Out :=

  if step < 16 ∧ (s.isOwner 0 ∨ s.recovery) then
    .next { s with bootEnt := Tbl.put 0 s.bootEnt step (setField (Tbl.get 0 s.bootEnt step) 56 8 0) }
  else .next s


/-- The SPDM responder answers a request for measurements. (R425) -/
def execSpdmRequest (s : State) : Out := .next { s with answer := s.spdmAnswer }

/-- Reset is released: the boot ROM verifies the firmware and the start-up steps run, again after a boot that fails. (R421, R423) -/
def execDeviceReset (env : BootInput) (failNormal : List (BitVec 16)) (failAlt : List (BitVec 16)) (badCores : BitVec 128) (s : State) : Out :=
  .next (s.boot env failNormal failAlt badCores)

/-- Power is lost and returns: the retention SRAM is cleared too. (R422) -/
def execPowerOn (s : State) : Out := .next { State.reset with agenda := s.agenda, freeCtr := s.freeCtr, hostOut := s.hostOut, fuses := s.fuses }

/-- An inbound request of a requester, the second of `vf`, at an offset of BAR2 of a VF, the first, reads `n` bytes, or writes the given ones. A
read passes no posted write that its link holds (PCI Express ordering, as R295 has it for the writes). (R415, R429) -/
def execApertureAccess (vf : Nat × Nat) (secure : Bool) (off : BitVec 64) (data : Option (List (BitVec 8))) (n : Nat) (s : State) : Out :=

  let p := vf.1 % 8
  match data with
  | some bs => .next (s.postWrite (.aperture vf.1 vf.2 secure off bs))
  | none =>
    let s1 := s.drainPosted
    if !(if vf.2 = 0 then s1.postedA else s1.postedB).isEmpty then .next s1
    else if (s1.getPart p).state = .error ∨ 2 ^ 40 < off.toNat + n then .next { s1 with answer := [] }
    else match s1.inbound p secure kindR off.toNat n with
      | none => .next { (if s1.foreign p off.toNat then s1.partError p else s1) with answer := [] }
      | some acc =>
        if s1.engineOwns acc.loc n || (s1.retraining && decide (State.locDie acc.loc = some 1)) then .next s1
        else if s1.poisoned acc.loc n then .next { s1 with answer := [] }
        else .next { s1.readAtHome acc.loc n with answer := s1.inboundBytes acc n }


/-- A posted write to an event page becomes event packets of the die's event port, or is discarded and counted. (R431) -/
def execEventPageWrite (vf : Nat) (die : Nat) (addr : Nat) (data : List (BitVec 8)) (s : State) : Out :=

  .next (s.postWrite (.eventPage vf die addr data))


/-- A posted write of doublewords `at_.2` at address `at_.1` of the launch page of function `fn` of a die enters its CP input FIFO, where it is whole and aligned; while that is full,
link A holds it and the posted writes behind it. (R295) -/
def execLaunchWindowWrite (die : Nat) (fn : Nat) (at_ : Nat × List (BitVec 64)) (s : State) : Out :=
  .next (s.postWrite (.launch die fn at_.1 at_.2))


/-- A clock message of a peer, the requester `clock.1`, arrives, and its clock is held for the next write of the same requester. (R433) -/
def execClockMessage (clock : Nat × List (BitVec 32)) (s : State) : Out := .next (s.postWrite (.clock clock.1 clock.2))

/-- The CP of a die discards its head packet, halts on it, dispatches it into its stage queue, or leaves it until it fits; the posted writes
that waited for room follow. (R305) -/
def execCpDispatch (die : Nat) (s : State) : Out :=

  let d := die % 2
  match (s.getDie d).cpFifo with
  | [] => .next s.drainPosted
  | k :: _ => if (s.getDie d).cpHalted then .next s else .next (s.cpHead d k).drainPosted


/-- The payload of an event data type enters the port's FIFO by whole packets; a CRC error drops it, and a trailing part is dropped and counted. (R436) -/
def execCsi2EventPacket (port : Nat) (data : List (BitVec 8)) (crcOk : Bool) (s : State) : Out :=

  if 4 ≤ port ∨ (s.portRuns 0 port).isNone then .next s
  else if !crcOk then .next (s.countPort 0 port 3)
  else
    let s1 := s.portPackets 0 port data
    .next (if data.length % 16 = 0 then s1 else s1.countPort 0 port 3)


/-- A frame starts on a virtual channel: it gets a buffer, or is dropped and counted. (R435) -/
def execCsi2FrameStart (port : Nat) (vc : Nat) (s : State) : Out :=

  if 4 ≤ port ∨ 4 ≤ vc then .next s
  else match s.portRuns 0 port with
    | none => .next s
    | some p => .next (s.startFrame p port vc)


/-- A line of the frame in progress is written into its buffer. (R434) -/
def execCsi2FrameLine (port : Nat) (vc : Nat) (data : List (BitVec 8)) (crcOk : Bool) (s : State) : Out :=

  if 4 ≤ port ∨ 4 ≤ vc ∨ !(s.frameOf port vc).active then .next s
  else match s.portRuns 0 port with
    | none => .next s
    | some p => .next (State.frameLines p port vc ((s.frameOf port vc).waiting ++ [(data, crcOk)]) s)


/-- The frame in progress ends: its completion follows. (R435) -/
def execCsi2FrameEnd (port : Nat) (vc : Nat) (s : State) : Out :=

  if 4 ≤ port ∨ 4 ≤ vc ∨ !(s.frameOf port vc).active then .next s
  else match s.portRuns 0 port with
    | none => .next (s.setFrame port vc {})
    | some p =>
      let s1 := State.frameLines p port vc (s.frameOf port vc).waiting s
      if (s1.frameOf port vc).waiting.isEmpty then .next (s1.frameDone p port vc) else .next s1


/-- A CSI-2 packet of another data type, or with a multi-bit header error, is dropped and counted. (R434) -/
def execCsi2PacketDrop (port : Nat) (s : State) : Out :=

  if 4 ≤ port ∨ (s.portRuns 0 port).isNone then .next s else .next (s.countPort 0 port 1)


/-- The die bridge retrains: nothing passes between the dies. (R437) -/
def execBridgeRetrain (s : State) : Out := .next { s with retraining := true }

/-- The retrain ends; one that fails puts every partition in ERROR, and the bridge stays down until a reset. (R437) -/
def execBridgeRetrainComplete (ok : Bool) (s : State) : Out :=

  if !s.retraining then .next s
  else if ok then .next { s with retraining := false }
  else .next ((List.range 8).foldl (fun t p => t.partError p) s)


/-- The board controller reads BOOTREC, an entry of the boot record, or a temperature or power, which the spec does not give. (R438) -/
def execManagementRead (off : Nat) (s : State) : Out :=

  let w := if off = 0 then s.bootrec
    else if 0x100 ≤ off ∧ off < 0x180 ∧ off % 8 = 0 then Tbl.get 0 s.bootEnt ((off - 0x100) / 8)
    else Config.freeWord s.freeCtr off
  .next { s with answer := wordBytes w }


/-- An MCTP control message is served: its answer is the management standard's, not the device's. (R438) -/
def execMctpControlMessage (s : State) : Out := .next { s with answer := wordBytes (Config.freeWord s.freeCtr 0) }

/-- A corrected error is counted. (R215) -/
def execCorrectedError (die : Nat) (s : State) : Out := .next (s.countDie (die % 2) 0)


end Sys2Proof.Machine
end

