-- ==== Sys2Proof/Machine/Snap.lean ====
section
/-! DEFINITION. The SNAP group: the Continuity Tree (R350 to R358). -/

namespace Sys2Proof.Machine

/-! ### Cursors (R349) -/

/-- Bits of a cursor's doublewords that are reserved. -/
def cursorReserved : List Word :=
  [0x0FF0FFFFFFFFFFC0, 0, 0xFFFF000000000000, 0x7FFF000000000000, 0, 0, 0, 0, 0xFFF00000FFF00000, 0xFFFFFFFFFFF00000,
   0xFFFFFFFFFFFFFFFF, 0xFFFFFFFFFFFFFFFF, 0xFFFFFFFFFFFFFFFF, 0xFFFFFFFFFFFFFFFF, 0xFFFFFFFFFFFFFFFF, 0xFFFFFFFFFFFFFFFF]

/-- A cursor. -/
structure Cursor where
  v : Bool := true
  logFull : Bool := false
  tb : Bool := false
  log : Bool := false
  log2g : Nat := 0
  tree : Nat := 0
  k : Word := 0
  depth : Nat := 0
  hv : Bool := false
  hep : BitVec 16 := 0
  held : Nat := 0
  d : List Word := [0, 0, 0, 0]
  logEnd : Nat := 0
  logPtr : Nat := 0
  logBase : Nat := 0
  deriving DecidableEq, Repr

/-- The 16 doublewords of a cursor. -/
def Cursor.words (c : Cursor) : List Word :=
  [ofN (b2n c.v * 2 ^ 63 + b2n c.logFull * 2 ^ 62 + b2n c.tb * 2 ^ 61 + b2n c.log * 2 ^ 60 + c.log2g % 16 * 2 ^ 48 + c.tree % 64),
   c.k, ofN (c.depth % 2 ^ 48), ofN (b2n c.hv * 2 ^ 63 + c.hep.toNat * 2 ^ 32 + c.held % 2 ^ 32)] ++ c.d ++
  [ofN (c.logEnd % 2 ^ 20 * 2 ^ 32 + c.logPtr % 2 ^ 20), ofN (c.logBase % 2 ^ 20), 0, 0, 0, 0, 0, 0]

/-- The cursor of 16 doublewords. -/
def Cursor.ofWords (w : List Word) : Cursor :=
  let a := fun i => wordAt w i
  { v := bitAt (a 0) 63, logFull := bitAt (a 0) 62, tb := bitAt (a 0) 61, log := bitAt (a 0) 60, log2g := field (a 0) 48 4
    tree := field (a 0) 0 6, k := a 1, depth := field (a 2) 0 48, hv := bitAt (a 3) 63, hep := (a 3).extractLsb' 32 16
    held := field (a 3) 0 32, d := [a 4, a 5, a 6, a 7], logEnd := field (a 8) 32 20, logPtr := field (a 8) 0 20
    logBase := field (a 9) 0 20 }

/-- K₀ of R346. -/
def key0 : Word := 0x243F6A8885A308D3

/-- first8 of R346: digest bytes 0 to 7 as a big-endian integer. -/
def first8 (h : List Byte) : Word := bytesWord (h.take 8).reverse

/-- One step of R346: key and digest over a block of 256 bytes. -/
def hashStep (k : Word) (d : List Word) (block : List Byte) : Word × List Word :=
  let h := sha256 block
  (k.rotateLeft 13 * 0x9E3779B97F4A7C15 + first8 h, bytesWords (sha256 (wordsBytes d ++ h)))

/-- A checkpoint record of 48 bytes (R349). -/
def checkpoint (depth : Nat) (k : Word) (d : List Word) : List Word := [ofN depth, k] ++ d

/-- The cursor after the blocks, with the checkpoints it writes by address (R353). -/
def Cursor.hash (c : Cursor) : List (List Byte) → Cursor × List (Nat × List Word)
  | [] => (c, [])
  | b :: t =>
    let kd := hashStep c.k c.d b
    let c1 := { c with k := kd.1, d := kd.2, depth := (c.depth + 1) % 2 ^ 48 }
    if c1.log && decide (c1.depth % 2 ^ c1.log2g = 0) then
      if c1.logPtr + 48 ≤ c1.logEnd then
        let r := Cursor.hash { c1 with logPtr := c1.logPtr + 48 } t
        (r.1, (c1.logPtr, checkpoint c1.depth c1.k c1.d) :: r.2)
      else Cursor.hash { c1 with logFull := true } t
    else Cursor.hash c1 t

/-- A tree record's 8 doublewords (R347). -/
def TreeRec.words (t : TreeRec) : List Word :=
  [t.dw0 ||| (b2w t.v <<< 63), t.npool, ofN t.cap, t.spool, t.collide, t.evicts, ofN t.nodes, ofN t.hepoch.toNat]

/-- The fields of a tree image are legal (R347, R352). -/
def treeImageLegal (w : List Word) : Bool :=
  let w0 := wordAt w 0
  decide (w0 &&& 0xFEF0FFFFFFE00000 = 0) && decide (field w0 48 4 ≤ 12) && decide (field w0 0 21 % 128 = 0) &&
  decide (128 ≤ field w0 0 21) && decide (field w0 0 21 ≤ 0x100000) &&
  decide (1 ≤ (wordAt w 2).toNat) && decide ((wordAt w 2).toNat ≤ 65536) &&
  decide ((w.drop 4).all fun x => decide (x = 0))

namespace State

/-! ### Checks (R351) -/

/-- Checks 1 and 2 on an operand of `n` bytes in the local window with an alignment. -/
def snapOperand (w : Word) (n : Nat) : Res Unit :=
  check (decide (n = 0) || decide (w.toNat + n ≤ 0x100000)) Cause.noRange (ofN (max w.toNat 0x100000))

/-- Check 1 on an operand. -/
def snapAlign (w : Word) (al : Nat) : Res Unit := check (decide (w.toNat % al = 0)) Cause.misaligned w

/-- The 16 doublewords at a cursor's address. -/
def cursorWords (s : State) (w : Word) : Res (List Word) := do
  let b ← s.loadBytes s.cur w 128
  .ok (bytesWords b)

/-- Check 3 on a cursor. -/
def checkCursor (ws : List Word) : Res Cursor := do
  check (bitAt (wordAt ws 0) 63) Cause.metadataMalformed (wordAt ws 0)
  match (List.zip ws cursorReserved).find? fun e => decide (e.1 &&& e.2 ≠ 0) with
  | some e => trapR Cause.metadataMalformed e.1
  | none => .ok (Cursor.ofWords ws)

/-- The cursor operand of SNAPHASH, SNAPPUT, SNAPFIND, SNAPGET and SNAPREL, with the place it is written to. -/
def cursorAt (s : State) (w : Word) : Res (Cursor × Acc) := do
  let ws ← s.cursorWords w
  let c ← checkCursor ws
  let acc ← s.storeCheck s.cur w 128
  s.waitClear acc.loc 128 true
  .ok (c, acc)

/-- Writes a cursor at its place, at issue. -/
def putCursor (s : State) (acc : Acc) (w : Word) (c : Cursor) : State :=
  State.storeNow s.cur s { va := w, acc := acc, bs := (wordsBytes c.words).map some, cost := 0 }

/-! ### Holds (R349, R354) -/

/-- The cursor's hold is live. -/
def holdLive (t : TreeRec) (c : Cursor) : Bool := t.v && c.hv && decide (c.hep = t.hepoch) && decide (c.held < t.cap)

/-- HOLDERS of a node changes by one. -/
def holders (s : State) (r : Range) (i : Nat) (up : Bool) : State :=
  let n := s.node r i
  s.putNode r i { n with holders := if up then n.holders + 1 else n.holders - 1 }

/-- Releases the cursor's live hold of a node of its tree. -/
def releaseHold (s : State) (p : Nat) (c : Cursor) : State :=
  let t := s.tree p c.tree
  match s.nodePool p t with
  | some (_, r) => if holdLive t c then s.holders r c.held false else s
  | none => s

/-- Hold(c, n) of R354: the machine and the cursor. -/
def hold (s : State) (p : Nat) (r : Range) (c : Cursor) (i : Nat) : State × Cursor :=
  let s1 := (s.releaseHold p c).holders r i true
  (s1.noteNode p c.tree i, { c with hv := true, held := i, hep := (s1.tree p c.tree).hepoch })

/-- The node with V = 1 and BAD = 0 that holds a key: at most one exists (R354). -/
def nodeWithKey (s : State) (r : Range) (cap : Nat) (k : Word) : Option Nat :=
  (List.range cap).find? fun i => let n := s.node r i; n.v && !n.bad && decide (n.key = k)

/-- The lowest index with V = 0 (R354). -/
def freeNode (s : State) (r : Range) (cap : Nat) : Option Nat := (List.range cap).find? fun i => !(s.node r i).v

/-- The node that Evict chooses, if any (R355). -/
def victim (s : State) (r : Range) (cap : Nat) : Option Nat :=
  let ok := (List.range cap).filter fun i =>
    let n := s.node r i
    n.v && !n.pend && decide (n.children = 0) && decide (n.holders = 0)
  let best := fun (l : List Nat) => l.foldl (fun m i => match m with
    | none => some i
    | some j => if (s.node r i).lastUse.toNat < (s.node r j).lastUse.toNat then some i else some j) none
  match best (ok.filter fun i => (s.node r i).bad) with
  | some i => some i
  | none => best ok

/-- Evict(t) of R355 on the chosen node. -/
def evict (s : State) (p tr : Nat) (r : Range) (i : Nat) : State :=
  let n := s.node r i
  let t := s.tree p tr
  let s1 := s.putNode r i { n with v := false }
  let s2 := if n.parent < t.cap then
      s1.putNode r n.parent { s1.node r n.parent with children := (s1.node r n.parent).children - 1 } else s1
  (s2.forgetNodes p tr (some i)).setTree p tr { t with nodes := t.nodes - 1, evicts := t.evicts + 1 }

/-- The location of a state slot in the state pool's range, as a segment of `n` bytes. -/
def slotSeg (rid : Nat) (r : Range) (ssize i : Nat) : Seg :=
  { loc := r.pbase + i * ssize, len := ssize, key := r.key, va := ofN (r.vbase + i * ssize), rid := some rid }

/-- The instruction's cursor is written and its result given. -/
def snapDone (s : State) (acc : Acc) (w : Word) (c : Cursor) (d : BitVec 5) (v : Word) : State := ((s.putCursor acc w c).wx d v).adv 4

/-! ### The operations (R352 to R358) -/

/-- Op word of SNAPINIT: its reserved bits. -/
def checkOpWord (b : Word) : Res Unit := check (decide (b &&& 0xFFFFFFFFFFFCC0FC = 0)) Cause.metadataMalformed b

/-- SNAPINIT CURSOR. -/
def snapCursor (s : State) (d : BitVec 5) (w b : Word) : Out :=
  let p := s.myPart
  let o := s.ox 0
  finishOut s (do
    snapAlign w 128
    snapOperand w 128
    checkOpWord b
    let lb := field o 0 20
    let le := field o 32 20
    check (!bitAt b 16 || (decide (lb % 8 = 0) && decide (le % 8 = 0) && decide (lb ≤ le))) Cause.metadataMalformed o
    let acc ← s.storeCheck s.cur w 128
    s.waitClear acc.loc 128 true
    let t := s.tree p (field b 8 6)
    let none6 := fun (s1 : State) => Host.Outcome.next (s1.status d 6)
    if !t.v then .ok (if s.isScratch s.cur acc.loc then none6 s else s.act none6)
    else do
      let ws ← s.cursorWords w
      let old := Cursor.ofWords ws
      let live := old.v && holdLive (s.tree p old.tree) old
      let log := bitAt b 16
      let c : Cursor :=
        { tb := bitAt b 17, log := log, log2g := TreeRec.log2g t, tree := field b 8 6, k := key0
          logEnd := if log then le else 0, logPtr := if log then lb else 0, logBase := if log then lb else 0 }
      let go := fun (s1 : State) => Host.Outcome.next ((if live then s1.releaseHold p old else s1).snapDone acc w c d 0)
      .ok (if s.isScratch s.cur acc.loc && !live then go s else s.act go))

/-- SNAPINIT CREATE. -/
def snapCreate (s : State) (e : Enc) (d : BitVec 5) (w b : Word) : Out :=
  let p := s.myPart
  finishOut s (do
    snapAlign w 64
    snapOperand w 64
    checkOpWord b
    if !s.cur.isT7 then .ok (privileged s e)
    else do
      let bs ← s.loadBytes s.cur w 64
      let ws := bytesWords bs
      check (treeImageLegal ws) Cause.metadataMalformed w
      let i := field b 8 6
      let old := s.tree p i
      let t : TreeRec :=
        { v := true, dw0 := wordAt ws 0, npool := wordAt ws 1, cap := (wordAt ws 2).toNat, spool := wordAt ws 3
          hepoch := old.hepoch + 1 }
      if old.v then .ok (.next (s.status d 5))
      else match s.nodePool p t, s.statePool p t with
        | some (_, r), some (_, q) =>
          if !(TreeRec.hosts t r && TreeRec.hosts t q) then .ok (.next (s.status d 7)) else
          check (!s.poolBad p t.npool) Cause.uncorrectable t.npool
          check (!s.poolBad p t.spool) Cause.uncorrectable t.spool
          let s1 := s.setTree p i t
          let s2 := (List.range t.cap).foldl (fun x j => x.putNode r j { parent := 0 }) s1
          .ok (.next (s2.status d 0))
        | _, _ => .ok (.next (s.status d 7)))

/-- SNAPINIT DESTROY. -/
def snapDestroy (s : State) (e : Enc) (d : BitVec 5) (b : Word) : Out :=
  let p := s.myPart
  finishOut s (do
    checkOpWord b
    if !s.cur.isT7 then .ok (privileged s e)
    else
      let i := field b 8 6
      let t := s.tree p i
      if !t.v then .ok (.next (s.status d 6))
      else match s.nodePool p t with
        | none => .ok (.next (s.status d 7))
        | some (_, r) =>
          if s.poolBad p t.npool then .ok (trapOut s Cause.uncorrectable t.npool)
          else if (List.range t.cap).any fun j => let n := s.node r j; n.v && decide (n.holders ≠ 0) then .ok (.next (s.status d 5))
          else
            let s1 := (List.range t.cap).foldl (fun x j => if (x.node r j).v then x.putNode r j { x.node r j with v := false } else x) s
            .ok (.next (((s1.forgetNodes p i none).setTree p i { hepoch := t.hepoch }).status d 0)))

/-- SNAPINIT QUERY. -/
def snapQuery (s : State) (d : BitVec 5) (w b : Word) : Out :=
  finishOut s (do
    snapAlign w 64
    snapOperand w 64
    checkOpWord b
    let t := s.tree s.myPart (field b 8 6)
    if !t.v then .ok (.next (s.status d 6))
    else do
      let acc ← s.storeCheck s.cur w 64
      .ok (s.storeAll [{ va := w, acc := acc, bs := (wordsBytes t.words).map some, cost := 72 }] fun x => x.status d 0))

/-- SNAPINIT by its OP. -/
def snapInit (s : State) (e : Enc) (d : BitVec 5) (w b : Word) : Out :=
  if s.cur.isSeq then illegalIssuer s e
  else match field b 0 2 with
    | 0 => s.snapCursor d w b
    | 1 => s.snapCreate e d w b
    | 2 => s.snapDestroy e d b
    | _ => s.snapQuery d w b

/-- The `n` blocks of 256 bytes from `va` on, each read by one MemLoad without the journal (R353). -/
def readBlocks (s : State) (va : Word) : Nat → Res (List (List Byte))
  | 0 => .ok []
  | n + 1 => do
    let b ← s.loadRaw s.cur va 256
    let r ← s.readBlocks (va + 256) n
    .ok (b :: r)

/-- The places of the checkpoints of a SNAPHASH. -/
def logPlaces (s : State) : List (Nat × List Word) → Res (List StoreReq)
  | [] => .ok []
  | (ad, ws) :: t => do
    let acc ← s.storeCheck s.cur (ofN ad) 48
    s.waitClear acc.loc 48 true
    let r ← s.logPlaces t
    .ok ({ va := ofN ad, acc := acc, bs := (wordsBytes ws).map some, cost := 0 } :: r)

/-- The cursor's log lies in scratch ULM. -/
def logScratch (s : State) (c : Cursor) : Bool :=
  !c.log || decide (c.logEnd ≤ c.logBase) ||
  (List.range ((c.logEnd - c.logBase + 7) / 8)).all fun i => s.isScratch s.cur (s.cur.localLoc (c.logBase + 8 * i))

/-- SNAPHASH after its checks: the blocks are read as a copy reads them, after the stores that a partial commit has committed (R26,
R353). -/
def snapHashGo (s : State) (d : BitVec 5) (w b : Word) (c : Cursor) (acc : Acc) (n : Nat) : Out :=
  finish s (do
    let bytes ← s.readBlocks b n
    let r := c.hash bytes
    let ps ← s.logPlaces r.2
    let s1 := (List.range n).foldl (fun t i => t.readBack t.cur (b + ofN (256 * i)) 256) s
    .ok ((ps.foldl (State.storeNow s.cur) s1).snapDone acc w r.1 d (ofN n)))

/-- SNAPHASH of R353. -/
def snapHash (s : State) (d : BitVec 5) (w b : Word) : Out :=
  finishOut s (do
    snapAlign w 128
    snapAlign b 8
    snapOperand w 128
    let (c, acc) ← s.cursorAt w
    let n := min (s.x d).toNat 64
    let bytes ← s.readBlocks b n
    let _ ← s.logPlaces (c.hash bytes).2
    let go := fun (s1 : State) => s1.snapHashGo d w b c acc n
    .ok (if s.isScratch s.cur acc.loc && s.logScratch c then go s else s.act go))

/-- A deposit of R354: the node enters the tree with its hold, and the copy of its state is issued; none while that copy cannot
issue. -/
def deposit (s : State) (p : Nat) (t : TreeRec) (r : Range) (st : Nat × Range) (c : Cursor) (w : Word) (acc : Acc)
    (d : BitVec 5) (b : Word) : Option State :=
  let live := holdLive t c
  match s.freeNode r t.cap with
  | none => none
  | some i =>
    let n : Node :=
      { key := c.k, digest := c.d, depth := c.depth, v := true, pend := true, lastUse := s.timebase
        parent := if live then c.held else 0xFFFFFFFF, ssize := TreeRec.ssize t, srid := st.1 }
    let s1 := s.putNodeFrom r i n []
    let s2 := if live then s1.putNode r c.held { s1.node r c.held with children := (s1.node r c.held).children + 1 } else s1
    let s3 := s2.setTree p c.tree { (s2.tree p c.tree) with nodes := (s2.tree p c.tree).nodes + 1 }
    let h := s3.hold p r c i
    let q : CopyReq :=
      { src := [{ loc := s.cur.localLoc b.toNat, len := TreeRec.ssize t, va := b }]
        dst := [[slotSeg st.1 st.2 (TreeRec.ssize t) i]], len := TreeRec.ssize t, role := .deposit p c.tree i }
    if h.1.copyReady s.cur q then
      let u := (h.1.acquire s.cur []).issueCopy s.cur q
      some (u.1.snapDone acc w h.2 d 0)
    else none

/-- The outcome `t` of a deposit in slot `i`, unless its copy fails check 3 of R254: the state pool has come to lie in the host window,
which a copy does not write (R202, R254, R354). -/
def depositOut (s : State) (sp : Nat × Range) (ssize : Nat) (i : Option Nat) (t : State) : Out :=
  if placeOf sp.2.pbase = .host then trapOut s Cause.permission (slotSeg sp.1 sp.2 ssize (i.getD 0)).va else .next t

/-- SNAPPUT after its checks (R354). -/
def snapPutGo (s : State) (p : Nat) (c : Cursor) (acc : Acc) (d : BitVec 5) (w b : Word) : Out :=
  let t := s.tree p c.tree
  let st := fun (n : Nat) => Host.Outcome.next (s.status d n)
  if !t.v then st 6
  else if s.poolBad p t.npool then trapOut s Cause.uncorrectable t.npool
  else if s.poolBad p t.spool then trapOut s Cause.uncorrectable t.spool
  else match s.nodePool p t, s.statePool p t with
  | some (_, r), some sp =>
    if c.depth = 0 ∨ c.depth % 2 ^ TreeRec.log2g t ≠ 0 then st 4
    else match s.nodeWithKey r t.cap c.k with
      | some i =>
        let n := s.node r i
        if n.depth = c.depth ∧ n.digest = c.d then
          if n.holders = 0xFFFF ∧ !(holdLive t c && decide (c.held = i)) then st 5
          else
            let h := s.hold p r c i
            let s1 := h.1.putNode r i { h.1.node r i with lastUse := s.timebase }
            .next ((s1.acquire s.cur (s.nodeClock r i)).snapDone acc w h.2 d 1)
        else .next ((s.setTree p c.tree { t with collide := t.collide + 1 }).status d 2)
      | none =>
        if t.nodes = t.cap then
          match s.victim r t.cap with
          | none => if c.tb then trapOut s Cause.snapBudget w else st 3
          | some v =>
            let s1 := s.evict p c.tree r v
            s.depositOut sp (TreeRec.ssize t) (some v) ((s1.deposit p (s1.tree p c.tree) r sp c w acc d b).getD s)
        else s.depositOut sp (TreeRec.ssize t) (s.freeNode r t.cap) ((s.deposit p t r sp c w acc d b).getD s)
  | _, _ => st 7

/-- SNAPPUT of R354. -/
def snapPut (s : State) (d : BitVec 5) (w b : Word) : Out :=
  let p := s.myPart
  finishOut s (do
    snapAlign w 128
    snapAlign b 128
    snapOperand w 128
    let ws ← s.cursorWords w
    let t0 := s.tree p (Cursor.ofWords ws).tree
    snapOperand b (if t0.v then TreeRec.ssize t0 else 0)
    let (c, acc) ← s.cursorAt w
    .ok (s.act fun s1 => s1.snapPutGo p c acc d w b))

/-- The checkpoints of a cursor's log, the latest first. -/
def readLog (s : State) (base : Nat) : Nat → Res (List (List Word))
  | 0 => .ok []
  | n + 1 => do
    let b ← s.loadBytes s.cur (ofN (base + 48 * n)) 48
    let r ← s.readLog base n
    .ok (bytesWords b :: r)

/-- The search of R356 over the records, with the collisions it counts: the index of the matching node and its record. -/
def searchLog (s : State) (r : Range) (cap : Nat) : List (List Word) → Nat → Option (Nat × List Word) × Nat
  | [], k => (none, k)
  | e :: t, k =>
    match s.nodeWithKey r cap (wordAt e 1) with
    | none => s.searchLog r cap t k
    | some i =>
      let n := s.node r i
      let same := decide (n.depth = (wordAt e 0).toNat) && decide (n.digest = (e.drop 2).take 4)
      if n.pend then s.searchLog r cap t k
      else if same && decide (n.holders < 0xFFFF) then (some (i, e), k)
      else s.searchLog r cap t (if same then k else k + 1)

/-- SNAPFIND after its checks, over the records of the log (R356). -/
def snapFindGo (s : State) (p : Nat) (c : Cursor) (acc : Acc) (d : BitVec 5) (w : Word) (recs : List (List Word)) : Out :=
  let t := s.tree p c.tree
  if !t.v then .next (s.status d 0)
  else if s.poolBad p t.npool then trapOut s Cause.uncorrectable t.npool
  else match s.nodePool p t with
  | none => .next (s.status d 0)
  | some (_, r) =>
    let s1 := s.releaseHold p c
    let c1 := { c with hv := false, logPtr := c.logBase, logFull := false }
    let f := s1.searchLog r t.cap recs 0
    let s2 := s1.setTree p c.tree { t with collide := t.collide + ofN f.2 }
    match f.1 with
    | none => .next (s2.snapDone acc w { c1 with k := key0, d := [0, 0, 0, 0], depth := 0 } d 0)
    | some (i, e) =>
      let h := s2.hold p r c1 i
      let s3 := h.1.putNode r i { h.1.node r i with lastUse := s.timebase }
      let c2 := { h.2 with k := wordAt e 1, d := (e.drop 2).take 4, depth := field (wordAt e 0) 0 48 }
      .next ((s3.acquire s.cur (s.nodeClock r i)).snapDone acc w c2 d (wordAt e 0))

/-- SNAPFIND of R356. -/
def snapFind (s : State) (d : BitVec 5) (w : Word) : Out :=
  let p := s.myPart
  finishOut s (do
    snapAlign w 128
    snapOperand w 128
    let (c, acc) ← s.cursorAt w
    let recs ← s.readLog c.logBase (if (s.tree p c.tree).v then (c.logPtr - c.logBase) / 48 else 0)
    .ok (s.act fun s1 => s1.snapFindGo p c acc d w recs))

/-- SNAPGET after its checks (R357). -/
def snapGetGo (s : State) (p : Nat) (c : Cursor) (d : BitVec 5) (b : Word) : Out :=
  let t := s.tree p c.tree
  if !t.v then .next (s.status d 0)
  else if s.poolBad p t.npool then trapOut s Cause.uncorrectable t.npool
  else if s.poolBad p t.spool then trapOut s Cause.uncorrectable t.spool
  else match s.nodePool p t, s.statePool p t with
  | some (_, r), some sp =>
    if !holdLive t c then .next (s.status d 0)
    else
      let n := s.node r c.held
      let o := s.ox 3
      let q : CopyReq :=
        { src := [slotSeg sp.1 sp.2 n.ssize c.held]
          dst := [[{ loc := s.cur.localLoc b.toNat, len := n.ssize, va := b }]], len := n.ssize
          ck := field o 62 2, idx := field o 0 20, role := .restore p c.tree c.held }
      let s1 := (s.putNode r c.held { n with lastUse := s.timebase }).noteNode p c.tree c.held
      if s1.copyReady s.cur q then
        let u := s1.issueCopy s.cur q
        .next ((u.1.wx d u.2).adv 4)
      else .next s
  | _, _ => .next (s.status d 0)

/-- SNAPGET of R357. -/
def snapGet (s : State) (d : BitVec 5) (w b : Word) : Out :=
  let p := s.myPart
  finishOut s (do
    snapAlign w 128
    snapAlign b 128
    snapOperand w 128
    let ws ← s.cursorWords w
    let t0 := s.tree p (Cursor.ofWords ws).tree
    snapOperand b (if t0.v then TreeRec.ssize t0 else 0)
    let c ← checkCursor ws
    check (decide (field (s.ox 3) 62 2 ≠ 3)) Cause.metadataMalformed (s.ox 3)
    s.checkCompletion s.cur (s.ox 3)
    .ok (s.act fun s1 => s1.snapGetGo p c d b))

/-- SNAPREL with X[b] = 0 (R358). -/
def snapRelease (s : State) (d : BitVec 5) (w : Word) : Out :=
  let p := s.myPart
  finishOut s (do
    snapAlign w 128
    snapOperand w 128
    let (c, acc) ← s.cursorAt w
    let t := s.tree p c.tree
    .ok (s.act fun s1 =>
        if !t.v then .next (s1.status d 6)
        else if s1.poolBad p t.npool then trapOut s1 Cause.uncorrectable t.npool
        else if (s1.nodePool p t).isNone then .next (s1.status d 7)
        else if !holdLive t c then .next (s1.status d 6)
        else .next ((s1.releaseHold p c).snapDone acc w { c with hv := false } d 0)))

/-- SNAPREL ALL (R358). -/
def snapReleaseAll (s : State) (d : BitVec 5) (w : Word) : Out :=
  let p := s.myPart
  finishOut s (do
    check (decide (w.toNat / 64 = 0)) Cause.metadataMalformed w
    let i := w.toNat % 64
    let t := s.tree p i
    .ok (if !t.v then .next (s.status d 6)
      else if s.poolBad p t.npool then trapOut s Cause.uncorrectable t.npool
      else .next (match s.nodePool p t with
        | none => s.status d 7
        | some (_, r) =>
          let s1 := (List.range t.cap).foldl (fun x j =>
            if (x.node r j).v ∧ (x.node r j).holders ≠ 0 then x.putNode r j { x.node r j with holders := 0 } else x) s
          (s1.setTree p i { t with hepoch := t.hepoch + 1 }).status d 0)))

/-- SNAPREL by its flags word. -/
def snapRel (s : State) (e : Enc) (d : BitVec 5) (w b : Word) : Out :=
  if s.cur.isSeq then illegalIssuer s e
  else if b.toNat / 2 ≠ 0 then
    if !bitAt b 0 ∧ w.toNat % 128 ≠ 0 then trapOut s Cause.misaligned w
    else if !bitAt b 0 ∧ 0x100000 < w.toNat + 128 then trapOut s Cause.noRange (ofN (max w.toNat 0x100000))
    else trapOut s Cause.metadataMalformed b
  else if bitAt b 0 then (if w.toNat / 64 ≠ 0 then trapOut s Cause.metadataMalformed w
    else if !s.cur.isT7 then privileged s e else s.snapReleaseAll d w)
  else s.snapRelease d w

end State

/-- SNAPINIT_CURSOR: Initialises a cursor on a tree. (R352) -/
def execSnapinitCursor (d : BitVec 5) (a : BitVec 5) (b : BitVec 5) (s : State) : Out := s.snapInit (word.snapinitCursor d a b) d (s.x a) (s.x b)

/-- SNAPINIT_CREATE: Creates a Continuity Tree from an image. (R352) -/
def execSnapinitCreate (d : BitVec 5) (a : BitVec 5) (b : BitVec 5) (s : State) : Out := s.snapInit (word.snapinitCreate d a b) d (s.x a) (s.x b)

/-- SNAPINIT_DESTROY: Destroys a tree with no holds. (R352) -/
def execSnapinitDestroy (d : BitVec 5) (a : BitVec 5) (b : BitVec 5) (s : State) : Out := s.snapInit (word.snapinitDestroy d a b) d (s.x a) (s.x b)

/-- SNAPINIT_QUERY: Copies a tree record to the local window. (R352) -/
def execSnapinitQuery (d : BitVec 5) (a : BitVec 5) (b : BitVec 5) (s : State) : Out := s.snapInit (word.snapinitQuery d a b) d (s.x a) (s.x b)

/-- SNAPHASH: Folds input blocks into the cursor's key and digest and logs checkpoints. (R353) -/
def execSnaphash (d : BitVec 5) (a : BitVec 5) (b : BitVec 5) (s : State) : Out := if s.cur.isSeq then illegalIssuer s (word.snaphash d a b) else s.snapHash d (s.x a) (s.x b)

/-- SNAPPUT: Deposits a snapshot at the cursor's depth or holds the existing one. (R354) -/
def execSnapput (d : BitVec 5) (a : BitVec 5) (b : BitVec 5) (s : State) : Out := if s.cur.isSeq then illegalIssuer s (word.snapput d a b) else s.snapPut d (s.x a) (s.x b)

/-- SNAPFIND: Finds the deepest usable snapshot on the cursor's logged prefix. (R356) -/
def execSnapfind (d : BitVec 5) (a : BitVec 5) (s : State) : Out := if s.cur.isSeq then illegalIssuer s (word.snapfind d a) else s.snapFind d (s.x a)

/-- SNAPGET: Issues a copy restoring the held node's state. (R357) -/
def execSnapget (d : BitVec 5) (a : BitVec 5) (b : BitVec 5) (s : State) : Out := if s.cur.isSeq then illegalIssuer s (word.snapget d a b) else s.snapGet d (s.x a) (s.x b)

/-- SNAPREL: Releases the cursor's live hold. (R358) -/
def execSnaprel (d : BitVec 5) (a : BitVec 5) (b : BitVec 5) (s : State) : Out := s.snapRel (word.snaprel d a b) d (s.x a) (s.x b)

/-- SNAPREL_ALL: Clears every hold of a tree and advances HEPOCH. (R358) -/
def execSnaprelAll (d : BitVec 5) (a : BitVec 5) (b : BitVec 5) (s : State) : Out := s.snapRel (word.snaprelAll d a b) d (s.x a) (s.x b)


end Sys2Proof.Machine
end

