-- ==== Sys2Proof/Machine/Dispatch.lean ====
section
/-! DEFINITION. One arm for each constructor of Instr: a direct call of its meaning. -/

namespace Sys2Proof.Machine

/-- The meaning of an instruction or event at a state. -/
def exec (i : Instr) (s : State) : Host.Outcome State Fault Refusal :=
  match i with
  | .add d a b => Sys2Proof.Machine.execAdd d a b s
  | .sub d a b => Sys2Proof.Machine.execSub d a b s
  | .addw d a b => Sys2Proof.Machine.execAddw d a b s
  | .subw d a b => Sys2Proof.Machine.execSubw d a b s
  | .and d a b => Sys2Proof.Machine.execAnd d a b s
  | .or d a b => Sys2Proof.Machine.execOr d a b s
  | .xor d a b => Sys2Proof.Machine.execXor d a b s
  | .andn d a b => Sys2Proof.Machine.execAndn d a b s
  | .orn d a b => Sys2Proof.Machine.execOrn d a b s
  | .sll d a b => Sys2Proof.Machine.execSll d a b s
  | .srl d a b => Sys2Proof.Machine.execSrl d a b s
  | .sra d a b => Sys2Proof.Machine.execSra d a b s
  | .rol d a b => Sys2Proof.Machine.execRol d a b s
  | .ror d a b => Sys2Proof.Machine.execRor d a b s
  | .slt d a b => Sys2Proof.Machine.execSlt d a b s
  | .sltu d a b => Sys2Proof.Machine.execSltu d a b s
  | .seq d a b => Sys2Proof.Machine.execSeq d a b s
  | .min d a b => Sys2Proof.Machine.execMin d a b s
  | .max d a b => Sys2Proof.Machine.execMax d a b s
  | .minu d a b => Sys2Proof.Machine.execMinu d a b s
  | .maxu d a b => Sys2Proof.Machine.execMaxu d a b s
  | .clz d a => Sys2Proof.Machine.execClz d a s
  | .ctz d a => Sys2Proof.Machine.execCtz d a s
  | .popc d a => Sys2Proof.Machine.execPopc d a s
  | .brev d a => Sys2Proof.Machine.execBrev d a s
  | .bswap d a => Sys2Proof.Machine.execBswap d a s
  | .sextB d a => Sys2Proof.Machine.execSextB d a s
  | .sextH d a => Sys2Proof.Machine.execSextH d a s
  | .sextW d a => Sys2Proof.Machine.execSextW d a s
  | .zextB d a => Sys2Proof.Machine.execZextB d a s
  | .zextH d a => Sys2Proof.Machine.execZextH d a s
  | .zextW d a => Sys2Proof.Machine.execZextW d a s
  | .shadd d a b n => Sys2Proof.Machine.execShadd d a b n s
  | .addi d a i0 => Sys2Proof.Machine.execAddi d a i0 s
  | .andi d a i0 => Sys2Proof.Machine.execAndi d a i0 s
  | .ori d a i0 => Sys2Proof.Machine.execOri d a i0 s
  | .xori d a i0 => Sys2Proof.Machine.execXori d a i0 s
  | .slli d a n => Sys2Proof.Machine.execSlli d a n s
  | .srli d a n => Sys2Proof.Machine.execSrli d a n s
  | .srai d a n => Sys2Proof.Machine.execSrai d a n s
  | .rori d a n => Sys2Proof.Machine.execRori d a n s
  | .slti d a i0 => Sys2Proof.Machine.execSlti d a i0 s
  | .sltiu d a i0 => Sys2Proof.Machine.execSltiu d a i0 s
  | .lui d i0 => Sys2Proof.Machine.execLui d i0 s
  | .addpc d i0 => Sys2Proof.Machine.execAddpc d i0 s
  | .mul d a b => Sys2Proof.Machine.execMul d a b s
  | .mulh d a b => Sys2Proof.Machine.execMulh d a b s
  | .mulhu d a b => Sys2Proof.Machine.execMulhu d a b s
  | .mulhsu d a b => Sys2Proof.Machine.execMulhsu d a b s
  | .mulw d a b => Sys2Proof.Machine.execMulw d a b s
  | .div d a b => Sys2Proof.Machine.execDiv d a b s
  | .divu d a b => Sys2Proof.Machine.execDivu d a b s
  | .rem d a b => Sys2Proof.Machine.execRem d a b s
  | .remu d a b => Sys2Proof.Machine.execRemu d a b s
  | .madd d a b => Sys2Proof.Machine.execMadd d a b s
  | .ldb d a i0 => Sys2Proof.Machine.execLdb d a i0 s
  | .ldbu d a i0 => Sys2Proof.Machine.execLdbu d a i0 s
  | .ldh d a i0 => Sys2Proof.Machine.execLdh d a i0 s
  | .ldhu d a i0 => Sys2Proof.Machine.execLdhu d a i0 s
  | .ldw d a i0 => Sys2Proof.Machine.execLdw d a i0 s
  | .ldwu d a i0 => Sys2Proof.Machine.execLdwu d a i0 s
  | .ldd d a i0 => Sys2Proof.Machine.execLdd d a i0 s
  | .stb s0 b i0 => Sys2Proof.Machine.execStb s0 b i0 s
  | .sth s0 b i0 => Sys2Proof.Machine.execSth s0 b i0 s
  | .stw s0 b i0 => Sys2Proof.Machine.execStw s0 b i0 s
  | .std s0 b i0 => Sys2Proof.Machine.execStd s0 b i0 s
  | .beq a b o => Sys2Proof.Machine.execBeq a b o s
  | .bne a b o => Sys2Proof.Machine.execBne a b o s
  | .blt a b o => Sys2Proof.Machine.execBlt a b o s
  | .bge a b o => Sys2Proof.Machine.execBge a b o s
  | .bltu a b o => Sys2Proof.Machine.execBltu a b o s
  | .bgeu a b o => Sys2Proof.Machine.execBgeu a b o s
  | .bbs a b o => Sys2Proof.Machine.execBbs a b o s
  | .bbc a b o => Sys2Proof.Machine.execBbc a b o s
  | .jal d o => Sys2Proof.Machine.execJal d o s
  | .jalr d a i0 => Sys2Proof.Machine.execJalr d a i0 s
  | .loopI d i0 => Sys2Proof.Machine.execLoopI d i0 s
  | .fadd d a b r f => Sys2Proof.Machine.execFadd d a b r f s
  | .fsub d a b r f => Sys2Proof.Machine.execFsub d a b r f s
  | .fmul d a b r f => Sys2Proof.Machine.execFmul d a b r f s
  | .fdiv d a b r f => Sys2Proof.Machine.execFdiv d a b r f s
  | .fsqrt d a r f => Sys2Proof.Machine.execFsqrt d a r f s
  | .fma d a b r f => Sys2Proof.Machine.execFma d a b r f s
  | .fms d a b r f => Sys2Proof.Machine.execFms d a b r f s
  | .fnma d a b r f => Sys2Proof.Machine.execFnma d a b r f s
  | .fmin d a b f => Sys2Proof.Machine.execFmin d a b f s
  | .fmax d a b f => Sys2Proof.Machine.execFmax d a b f s
  | .fcmpEq d a b f => Sys2Proof.Machine.execFcmpEq d a b f s
  | .fcmpLt d a b f => Sys2Proof.Machine.execFcmpLt d a b f s
  | .fcmpLe d a b f => Sys2Proof.Machine.execFcmpLe d a b f s
  | .fcmpUn d a b f => Sys2Proof.Machine.execFcmpUn d a b f s
  | .fclass d a f => Sys2Proof.Machine.execFclass d a f s
  | .fcvtS d a r => Sys2Proof.Machine.execFcvtS d a r s
  | .fcvtD d a => Sys2Proof.Machine.execFcvtD d a s
  | .fcvti d a k r f => Sys2Proof.Machine.execFcvti d a k r f s
  | .fcvtf d a k r f => Sys2Proof.Machine.execFcvtf d a k r f s
  | .fmvxf d a f => Sys2Proof.Machine.execFmvxf d a f s
  | .fmvfx d a f => Sys2Proof.Machine.execFmvfx d a f s
  | .fsgn d a b f => Sys2Proof.Machine.execFsgn d a b f s
  | .fsgnn d a b f => Sys2Proof.Machine.execFsgnn d a b f s
  | .fsgnx d a b f => Sys2Proof.Machine.execFsgnx d a b f s
  | .fldw d a i0 => Sys2Proof.Machine.execFldw d a i0 s
  | .fldd d a i0 => Sys2Proof.Machine.execFldd d a i0 s
  | .fstw s0 b i0 => Sys2Proof.Machine.execFstw s0 b i0 s
  | .fstd s0 b i0 => Sys2Proof.Machine.execFstd s0 b i0 s
  | .amoadd d a b o => Sys2Proof.Machine.execAmoadd d a b o s
  | .amoand d a b o => Sys2Proof.Machine.execAmoand d a b o s
  | .amoor d a b o => Sys2Proof.Machine.execAmoor d a b o s
  | .amoxor d a b o => Sys2Proof.Machine.execAmoxor d a b o s
  | .amomin d a b o => Sys2Proof.Machine.execAmomin d a b o s
  | .amomax d a b o => Sys2Proof.Machine.execAmomax d a b o s
  | .amominu d a b o => Sys2Proof.Machine.execAmominu d a b o s
  | .amomaxu d a b o => Sys2Proof.Machine.execAmomaxu d a b o s
  | .amoswap d a b o => Sys2Proof.Machine.execAmoswap d a b o s
  | .cas d a b o => Sys2Proof.Machine.execCas d a b o s
  | .fence k s0 => Sys2Proof.Machine.execFence k s0 s
  | .ifence => Sys2Proof.Machine.execIfence s
  | .icinv d a b s0 => Sys2Proof.Machine.execIcinv d a b s0 s
  | .dcinv d a b s0 => Sys2Proof.Machine.execDcinv d a b s0 s
  | .dcwb d a b s0 => Sys2Proof.Machine.execDcwb d a b s0 s
  | .dcfl d a b s0 => Sys2Proof.Machine.execDcfl d a b s0 s
  | .pref a => Sys2Proof.Machine.execPref a s
  | .mfs d n => Sys2Proof.Machine.execMfs d n s
  | .mts a n => Sys2Proof.Machine.execMts a n s
  | .trap a => Sys2Proof.Machine.execTrap a s
  | .eretResume => Sys2Proof.Machine.execEretResume s
  | .eretPreempt => Sys2Proof.Machine.execEretPreempt s
  | .eretPark => Sys2Proof.Machine.execEretPark s
  | .eretRetake => Sys2Proof.Machine.execEretRetake s
  | .eretKill => Sys2Proof.Machine.execEretKill s
  | .eretUnpark => Sys2Proof.Machine.execEretUnpark s
  | .utret => Sys2Proof.Machine.execUtret s
  | .waitI a => Sys2Proof.Machine.execWaitI a s
  | .halt => Sys2Proof.Machine.execHalt s
  | .migrate a => Sys2Proof.Machine.execMigrate a s
  | .scanrun d a => Sys2Proof.Machine.execScanrun d a s
  | .sendI d a b => Sys2Proof.Machine.execSendI d a b s
  | .sendl a b => Sys2Proof.Machine.execSendl a b s
  | .sendlRpl a b => Sys2Proof.Machine.execSendlRpl a b s
  | .reduce a b => Sys2Proof.Machine.execReduce a b s
  | .defer a => Sys2Proof.Machine.execDefer a s
  | .endAct => Sys2Proof.Machine.execEndAct s
  | .rld d a => Sys2Proof.Machine.execRld d a s
  | .rst a b => Sys2Proof.Machine.execRst a b s
  | .rcas d a b => Sys2Proof.Machine.execRcas d a b s
  | .ramo d a b p => Sys2Proof.Machine.execRamo d a b p s
  | .qbind a b => Sys2Proof.Machine.execQbind a b s
  | .qput a b => Sys2Proof.Machine.execQput a b s
  | .qget d a => Sys2Proof.Machine.execQget d a s
  | .qtry d a b => Sys2Proof.Machine.execQtry d a b s
  | .qlen d a => Sys2Proof.Machine.execQlen d a s
  | .oxld d a n => Sys2Proof.Machine.execOxld d a n s
  | .oxst a b n => Sys2Proof.Machine.execOxst a b n s
  | .oxset d a => Sys2Proof.Machine.execOxset d a s
  | .oxget d a => Sys2Proof.Machine.execOxget d a s
  | .vadd d a b p s0 => Sys2Proof.Machine.execVadd d a b p s0 s
  | .vsub d a b p s0 => Sys2Proof.Machine.execVsub d a b p s0 s
  | .vmul d a b p s0 => Sys2Proof.Machine.execVmul d a b p s0 s
  | .vmulh d a b p s0 => Sys2Proof.Machine.execVmulh d a b p s0 s
  | .vmadd d a b p s0 => Sys2Proof.Machine.execVmadd d a b p s0 s
  | .vand d a b p s0 => Sys2Proof.Machine.execVand d a b p s0 s
  | .vor d a b p s0 => Sys2Proof.Machine.execVor d a b p s0 s
  | .vxor d a b p s0 => Sys2Proof.Machine.execVxor d a b p s0 s
  | .vsll d a b p s0 => Sys2Proof.Machine.execVsll d a b p s0 s
  | .vsrl d a b p s0 => Sys2Proof.Machine.execVsrl d a b p s0 s
  | .vsra d a b p s0 => Sys2Proof.Machine.execVsra d a b p s0 s
  | .vmin d a b p s0 => Sys2Proof.Machine.execVmin d a b p s0 s
  | .vmax d a b p s0 => Sys2Proof.Machine.execVmax d a b p s0 s
  | .vminu d a b p s0 => Sys2Proof.Machine.execVminu d a b p s0 s
  | .vmaxu d a b p s0 => Sys2Proof.Machine.execVmaxu d a b p s0 s
  | .vabs d a p s0 => Sys2Proof.Machine.execVabs d a p s0 s
  | .vadds d a b p s0 => Sys2Proof.Machine.execVadds d a b p s0 s
  | .vsubs d a b p s0 => Sys2Proof.Machine.execVsubs d a b p s0 s
  | .vcmp c q a b p s0 => Sys2Proof.Machine.execVcmp c q a b p s0 s
  | .vsel d a b p s0 => Sys2Proof.Machine.execVsel d a b p s0 s
  | .vdot4 d a b p => Sys2Proof.Machine.execVdot4 d a b p s
  | .vtdot4 d a b p => Sys2Proof.Machine.execVtdot4 d a b p s
  | .vpopc d a p s0 => Sys2Proof.Machine.execVpopc d a p s0 s
  | .vmv d a p s0 => Sys2Proof.Machine.execVmv d a p s0 s
  | .vfadd d a b p s0 => Sys2Proof.Machine.execVfadd d a b p s0 s
  | .vfsub d a b p s0 => Sys2Proof.Machine.execVfsub d a b p s0 s
  | .vfmul d a b p s0 => Sys2Proof.Machine.execVfmul d a b p s0 s
  | .vfma d a b p s0 => Sys2Proof.Machine.execVfma d a b p s0 s
  | .vfms d a b p s0 => Sys2Proof.Machine.execVfms d a b p s0 s
  | .vfmin d a b p s0 => Sys2Proof.Machine.execVfmin d a b p s0 s
  | .vfmax d a b p s0 => Sys2Proof.Machine.execVfmax d a b p s0 s
  | .vfdiv d a b p s0 => Sys2Proof.Machine.execVfdiv d a b p s0 s
  | .vfsqrt d a p s0 => Sys2Proof.Machine.execVfsqrt d a p s0 s
  | .vfrcp d a p s0 => Sys2Proof.Machine.execVfrcp d a p s0 s
  | .vfrsq d a p s0 => Sys2Proof.Machine.execVfrsq d a p s0 s
  | .vfcmp c q a b p s0 => Sys2Proof.Machine.execVfcmp c q a b p s0 s
  | .vld d a p s0 => Sys2Proof.Machine.execVld d a p s0 s
  | .vlds d a b p s0 => Sys2Proof.Machine.execVlds d a b p s0 s
  | .vgath d a b p s0 => Sys2Proof.Machine.execVgath d a b p s0 s
  | .vst d a p s0 => Sys2Proof.Machine.execVst d a p s0 s
  | .vsts d a b p s0 => Sys2Proof.Machine.execVsts d a b p s0 s
  | .vscat d a b p s0 => Sys2Proof.Machine.execVscat d a b p s0 s
  | .vldb d a b => Sys2Proof.Machine.execVldb d a b s
  | .vredsum d a k p s0 => Sys2Proof.Machine.execVredsum d a k p s0 s
  | .vredmin d a k p s0 => Sys2Proof.Machine.execVredmin d a k p s0 s
  | .vredmax d a k p s0 => Sys2Proof.Machine.execVredmax d a k p s0 s
  | .vscan d a k p s0 => Sys2Proof.Machine.execVscan d a k p s0 s
  | .vperm d a b p s0 => Sys2Proof.Machine.execVperm d a b p s0 s
  | .vbcast d a p s0 => Sys2Proof.Machine.execVbcast d a p s0 s
  | .vslide d a b p s0 => Sys2Proof.Machine.execVslide d a b p s0 s
  | .vins d a b s0 => Sys2Proof.Machine.execVins d a b s0 s
  | .vext d a b s0 => Sys2Proof.Machine.execVext d a b s0 s
  | .vzip d a b p s0 => Sys2Proof.Machine.execVzip d a b p s0 s
  | .vcvt d a c p s0 => Sys2Proof.Machine.execVcvt d a c p s0 s
  | .vnarrow d a h c p s0 => Sys2Proof.Machine.execVnarrow d a h c p s0 s
  | .vwiden d a h c p s0 => Sys2Proof.Machine.execVwiden d a h c p s0 s
  | .unpk3 d a b q => Sys2Proof.Machine.execUnpk3 d a b q s
  | .unpk4 d a b p s0 => Sys2Proof.Machine.execUnpk4 d a b p s0 s
  | .vpwl d a b p => Sys2Proof.Machine.execVpwl d a b p s
  | .vsupd d a b p => Sys2Proof.Machine.execVsupd d a b p s
  | .vprune d a q => Sys2Proof.Machine.execVprune d a q s
  | .pand d a b => Sys2Proof.Machine.execPand d a b s
  | .por d a b => Sys2Proof.Machine.execPor d a b s
  | .pxor d a b => Sys2Proof.Machine.execPxor d a b s
  | .pnot d a => Sys2Proof.Machine.execPnot d a s
  | .pset d a s0 => Sys2Proof.Machine.execPset d a s0 s
  | .pcnt d a s0 => Sys2Proof.Machine.execPcnt d a s0 s
  | .pfirst d a s0 => Sys2Proof.Machine.execPfirst d a s0 s
  | .mxcfg a => Sys2Proof.Machine.execMxcfg a s
  | .mxzero d => Sys2Proof.Machine.execMxzero d s
  | .mxldb d a => Sys2Proof.Machine.execMxldb d a s
  | .mxldbs d a b => Sys2Proof.Machine.execMxldbs d a b s
  | .mxldbg d a => Sys2Proof.Machine.execMxldbg d a s
  | .mxstg d a => Sys2Proof.Machine.execMxstg d a s
  | .mxmul d a => Sys2Proof.Machine.execMxmul d a s
  | .mxrd d a => Sys2Proof.Machine.execMxrd d a s
  | .mxfence => Sys2Proof.Machine.execMxfence s
  | .forkMs d a b => Sys2Proof.Machine.execForkMs d a b s
  | .forkMi d a b => Sys2Proof.Machine.execForkMi d a b s
  | .forkCs d a b => Sys2Proof.Machine.execForkCs d a b s
  | .join d a => Sys2Proof.Machine.execJoin d a s
  | .sempost d a => Sys2Proof.Machine.execSempost d a s
  | .semwait d a => Sys2Proof.Machine.execSemwait d a s
  | .engstat d a => Sys2Proof.Machine.execEngstat d a s
  | .cpy d => Sys2Proof.Machine.execCpy d s
  | .cpym d => Sys2Proof.Machine.execCpym d s
  | .cpycan d a => Sys2Proof.Machine.execCpycan d a s
  | .cpyst d a => Sys2Proof.Machine.execCpyst d a s
  | .stcfg d => Sys2Proof.Machine.execStcfg d s
  | .stend d => Sys2Proof.Machine.execStend d s
  | .ststat d a => Sys2Proof.Machine.execStstat d a s
  | .reelinit a b => Sys2Proof.Machine.execReelinit a b s
  | .reelawait d a => Sys2Proof.Machine.execReelawait d a s
  | .reelrel a => Sys2Proof.Machine.execReelrel a s
  | .reelst d a => Sys2Proof.Machine.execReelst d a s
  | .tenq a b => Sys2Proof.Machine.execTenq a b s
  | .tdeq d a b => Sys2Proof.Machine.execTdeq d a b s
  | .futld d a => Sys2Proof.Machine.execFutld d a s
  | .futst d a b => Sys2Proof.Machine.execFutst d a b s
  | .launch a => Sys2Proof.Machine.execLaunch a s
  | .barinit d a b => Sys2Proof.Machine.execBarinit d a b s
  | .bararr d a => Sys2Proof.Machine.execBararr d a s
  | .barwait d a b => Sys2Proof.Machine.execBarwait d a b s
  | .dcinit a b => Sys2Proof.Machine.execDcinit a b s
  | .dcdec d a b => Sys2Proof.Machine.execDcdec d a b s
  | .dcwait a => Sys2Proof.Machine.execDcwait a s
  | .slopen d a => Sys2Proof.Machine.execSlopen d a s
  | .slopenClose d a => Sys2Proof.Machine.execSlopenClose d a s
  | .slwait d a b => Sys2Proof.Machine.execSlwait d a b s
  | .slstat d a => Sys2Proof.Machine.execSlstat d a s
  | .bump d a b => Sys2Proof.Machine.execBump d a b s
  | .rngmap d a => Sys2Proof.Machine.execRngmap d a s
  | .rngunmap d a => Sys2Proof.Machine.execRngunmap d a s
  | .rngsplit d a b => Sys2Proof.Machine.execRngsplit d a b s
  | .rngmerge d a => Sys2Proof.Machine.execRngmerge d a s
  | .rngprot d a b => Sys2Proof.Machine.execRngprot d a b s
  | .rngresAdd d a b => Sys2Proof.Machine.execRngresAdd d a b s
  | .rngresRemove d a b => Sys2Proof.Machine.execRngresRemove d a b s
  | .rnginv d a b => Sys2Proof.Machine.execRnginv d a b s
  | .rngcmp d a b => Sys2Proof.Machine.execRngcmp d a b s
  | .rngqry d a b => Sys2Proof.Machine.execRngqry d a b s
  | .lcmremRemove d a b => Sys2Proof.Machine.execLcmremRemove d a b s
  | .lcmremPlace d a b => Sys2Proof.Machine.execLcmremPlace d a b s
  | .qtmapMap d a b => Sys2Proof.Machine.execQtmapMap d a b s
  | .qtmapUnmap d a b => Sys2Proof.Machine.execQtmapUnmap d a b s
  | .qtpinPin d a b => Sys2Proof.Machine.execQtpinPin d a b s
  | .qtpinUnpin d a b => Sys2Proof.Machine.execQtpinUnpin d a b s
  | .snapinitCursor d a b => Sys2Proof.Machine.execSnapinitCursor d a b s
  | .snapinitCreate d a b => Sys2Proof.Machine.execSnapinitCreate d a b s
  | .snapinitDestroy d a b => Sys2Proof.Machine.execSnapinitDestroy d a b s
  | .snapinitQuery d a b => Sys2Proof.Machine.execSnapinitQuery d a b s
  | .snaphash d a b => Sys2Proof.Machine.execSnaphash d a b s
  | .snapput d a b => Sys2Proof.Machine.execSnapput d a b s
  | .snapfind d a => Sys2Proof.Machine.execSnapfind d a s
  | .snapget d a b => Sys2Proof.Machine.execSnapget d a b s
  | .snaprel d a b => Sys2Proof.Machine.execSnaprel d a b s
  | .snaprelAll d a b => Sys2Proof.Machine.execSnaprelAll d a b s
  | .monopen => Sys2Proof.Machine.execMonopen s
  | .monput d a b => Sys2Proof.Machine.execMonput d a b s
  | .monseal a => Sys2Proof.Machine.execMonseal a s
  | .monstat d a => Sys2Proof.Machine.execMonstat d a s
  | .monclose a => Sys2Proof.Machine.execMonclose a s
  | .rdts d => Sys2Proof.Machine.execRdts d s
  | .rdcyc d => Sys2Proof.Machine.execRdcyc d s
  | .rdvc d a => Sys2Proof.Machine.execRdvc d a s
  | .pmcfg a b => Sys2Proof.Machine.execPmcfg a b s
  | .pmrd d a => Sys2Proof.Machine.execPmrd d a s
  | .dlyrd d a => Sys2Proof.Machine.execDlyrd d a s
  | .dbgmark a => Sys2Proof.Machine.execDbgmark a s
  | .cMv d a => Sys2Proof.Machine.execCMv d a s
  | .cAdd d a => Sys2Proof.Machine.execCAdd d a s
  | .cSub d a => Sys2Proof.Machine.execCSub d a s
  | .cAnd d a => Sys2Proof.Machine.execCAnd d a s
  | .cOr d a => Sys2Proof.Machine.execCOr d a s
  | .cXor d a => Sys2Proof.Machine.execCXor d a s
  | .cSll d a => Sys2Proof.Machine.execCSll d a s
  | .cSrl d a => Sys2Proof.Machine.execCSrl d a s
  | .cSra d a => Sys2Proof.Machine.execCSra d a s
  | .cMul d a => Sys2Proof.Machine.execCMul d a s
  | .cSlt d a => Sys2Proof.Machine.execCSlt d a s
  | .cJmpr a => Sys2Proof.Machine.execCJmpr a s
  | .cCallr a => Sys2Proof.Machine.execCCallr a s
  | .cLdx d a => Sys2Proof.Machine.execCLdx d a s
  | .cStx s0 a => Sys2Proof.Machine.execCStx s0 a s
  | .cEnd => Sys2Proof.Machine.execCEnd s
  | .brk => Sys2Proof.Machine.execBrk s
  | .nop => Sys2Proof.Machine.execNop s
  | .yield => Sys2Proof.Machine.execYield s
  | .cAddi d i0 => Sys2Proof.Machine.execCAddi d i0 s
  | .cLi d i0 => Sys2Proof.Machine.execCLi d i0 s
  | .cSlli d n => Sys2Proof.Machine.execCSlli d n s
  | .cSrli d n => Sys2Proof.Machine.execCSrli d n s
  | .cSrai d n => Sys2Proof.Machine.execCSrai d n s
  | .cAndi d i0 => Sys2Proof.Machine.execCAndi d i0 s
  | .cOri d i0 => Sys2Proof.Machine.execCOri d i0 s
  | .cXori d i0 => Sys2Proof.Machine.execCXori d i0 s
  | .cSpadj i0 => Sys2Proof.Machine.execCSpadj i0 s
  | .cJ o => Sys2Proof.Machine.execCJ o s
  | .cJal o => Sys2Proof.Machine.execCJal o s
  | .cBeqz a o => Sys2Proof.Machine.execCBeqz a o s
  | .cBnez a o => Sys2Proof.Machine.execCBnez a o s
  | .cSld d i0 => Sys2Proof.Machine.execCSld d i0 s
  | .cSst s0 i0 => Sys2Proof.Machine.execCSst s0 i0 s
  | .cPld d i0 => Sys2Proof.Machine.execCPld d i0 s
  | .cPst s0 i0 => Sys2Proof.Machine.execCPst s0 i0 s
  | .cSlw d i0 => Sys2Proof.Machine.execCSlw d i0 s
  | .cSsw s0 i0 => Sys2Proof.Machine.execCSsw s0 i0 s
  | .messageInject unit => Sys2Proof.Machine.execMessageInject unit s
  | .sendBufferGrant unit => Sys2Proof.Machine.execSendBufferGrant unit s
  | .messageArrival i0 => Sys2Proof.Machine.execMessageArrival i0 s
  | .messageReturnArrival i0 => Sys2Proof.Machine.execMessageReturnArrival i0 s
  | .edgeReturn i0 => Sys2Proof.Machine.execEdgeReturn i0 s
  | .replyArrival i0 => Sys2Proof.Machine.execReplyArrival i0 s
  | .handlerEntryChange core hid => Sys2Proof.Machine.execHandlerEntryChange core hid s
  | .pendingDelivery core hid => Sys2Proof.Machine.execPendingDelivery core hid s
  | .messageTake core => Sys2Proof.Machine.execMessageTake core s
  | .deferReady core slot => Sys2Proof.Machine.execDeferReady core slot s
  | .endCommit core tid => Sys2Proof.Machine.execEndCommit core tid s
  | .watchdogExpiry core tid => Sys2Proof.Machine.execWatchdogExpiry core tid s
  | .activeMessageWatchdog core => Sys2Proof.Machine.execActiveMessageWatchdog core s
  | .sequencerWatchdog set q => Sys2Proof.Machine.execSequencerWatchdog set q s
  | .uncorrectableError obj => Sys2Proof.Machine.execUncorrectableError obj s
  | .uncorrectableTrap core tid => Sys2Proof.Machine.execUncorrectableTrap core tid s
  | .preemptRequest core => Sys2Proof.Machine.execPreemptRequest core s
  | .saveComplete core tid => Sys2Proof.Machine.execSaveComplete core tid s
  | .resumptionItem core tid => Sys2Proof.Machine.execResumptionItem core tid s
  | .restoreComplete core tid => Sys2Proof.Machine.execRestoreComplete core tid s
  | .serviceItemStart core => Sys2Proof.Machine.execServiceItemStart core s
  | .activeMessageStart core => Sys2Proof.Machine.execActiveMessageStart core s
  | .rldServe core => Sys2Proof.Machine.execRldServe core s
  | .rstServe core => Sys2Proof.Machine.execRstServe core s
  | .rcasServe core => Sys2Proof.Machine.execRcasServe core s
  | .ramoServe core => Sys2Proof.Machine.execRamoServe core s
  | .migrateArrival i0 => Sys2Proof.Machine.execMigrateArrival i0 s
  | .waitTimeReached agent => Sys2Proof.Machine.execWaitTimeReached agent s
  | .dcwaitRelease agent => Sys2Proof.Machine.execDcwaitRelease agent s
  | .barwaitRelease agent => Sys2Proof.Machine.execBarwaitRelease agent s
  | .slwaitRelease agent => Sys2Proof.Machine.execSlwaitRelease agent s
  | .reelawaitFill agent => Sys2Proof.Machine.execReelawaitFill agent s
  | .qgetWake agent => Sys2Proof.Machine.execQgetWake agent s
  | .qputRoom agent => Sys2Proof.Machine.execQputRoom agent s
  | .joinWake agent => Sys2Proof.Machine.execJoinWake agent s
  | .semwaitGrant agent => Sys2Proof.Machine.execSemwaitGrant agent s
  | .flagToSflags set => Sys2Proof.Machine.execFlagToSflags set s
  | .checkerMismatch core => Sys2Proof.Machine.execCheckerMismatch core s
  | .knownAnswerMismatch core me => Sys2Proof.Machine.execKnownAnswerMismatch core me s
  | .scanComplete core pass => Sys2Proof.Machine.execScanComplete core pass s
  | .scanAbort core => Sys2Proof.Machine.execScanAbort core s
  | .launchAccept i0 => Sys2Proof.Machine.execLaunchAccept i0 s
  | .taskEnqueue i0 => Sys2Proof.Machine.execTaskEnqueue i0 s
  | .launchWindowWrite die fn at_ => Sys2Proof.Machine.execLaunchWindowWrite die fn at_ s
  | .cpDispatch die => Sys2Proof.Machine.execCpDispatch die s
  | .launchReady part qh i0 => Sys2Proof.Machine.execLaunchReady part qh i0 s
  | .blockedPacketRemoval part qh i0 => Sys2Proof.Machine.execBlockedPacketRemoval part qh i0 s
  | .threadReport core tid => Sys2Proof.Machine.execThreadReport core tid s
  | .stageDispatch part qh => Sys2Proof.Machine.execStageDispatch part qh s
  | .deadlineMiss core tid => Sys2Proof.Machine.execDeadlineMiss core tid s
  | .gafferSample die => Sys2Proof.Machine.execGafferSample die s
  | .gafferDecision die => Sys2Proof.Machine.execGafferDecision die s
  | .sequencerProgramStart set q => Sys2Proof.Machine.execSequencerProgramStart set q s
  | .engineEntryStart set => Sys2Proof.Machine.execEngineEntryStart set s
  | .engineEntryComplete set => Sys2Proof.Machine.execEngineEntryComplete set s
  | .weightLoadStart set => Sys2Proof.Machine.execWeightLoadStart set s
  | .weightLoadComplete set => Sys2Proof.Machine.execWeightLoadComplete set s
  | .weightLoadFault set => Sys2Proof.Machine.execWeightLoadFault set s
  | .weightLoadSuspend set => Sys2Proof.Machine.execWeightLoadSuspend set s
  | .copyStart h => Sys2Proof.Machine.execCopyStart h s
  | .copySuspend h => Sys2Proof.Machine.execCopySuspend h s
  | .copyComplete h => Sys2Proof.Machine.execCopyComplete h s
  | .copyFault h => Sys2Proof.Machine.execCopyFault h s
  | .streamReadahead core tid slot => Sys2Proof.Machine.execStreamReadahead core tid slot s
  | .streamPushWrite core tid slot => Sys2Proof.Machine.execStreamPushWrite core tid slot s
  | .montageRowArrival set i0 => Sys2Proof.Machine.execMontageRowArrival set i0 s
  | .binTimeout set bin => Sys2Proof.Machine.execBinTimeout set bin s
  | .sealComplete set bin => Sys2Proof.Machine.execSealComplete set bin s
  | .ingressEvent die port => Sys2Proof.Machine.execIngressEvent die port s
  | .ingressWatermark die port => Sys2Proof.Machine.execIngressWatermark die port s
  | .slateTimeout die slate => Sys2Proof.Machine.execSlateTimeout die slate s
  | .reduceCombine die tree router => Sys2Proof.Machine.execReduceCombine die tree router s
  | .reduceResult die tree => Sys2Proof.Machine.execReduceResult die tree s
  | .residencySpill core preg => Sys2Proof.Machine.execResidencySpill core preg s
  | .residencyFill core preg off => Sys2Proof.Machine.execResidencyFill core preg off s
  | .residencyCopyComplete core preg => Sys2Proof.Machine.execResidencyCopyComplete core preg s
  | .rangeWalkComplete core va => Sys2Proof.Machine.execRangeWalkComplete core va s
  | .rnginvComplete agent => Sys2Proof.Machine.execRnginvComplete agent s
  | .lcmremComplete agent => Sys2Proof.Machine.execLcmremComplete agent s
  | .compactionSwitch die => Sys2Proof.Machine.execCompactionSwitch die s
  | .compactionComplete die => Sys2Proof.Machine.execCompactionComplete die s
  | .epochChange die => Sys2Proof.Machine.execEpochChange die s
  | .clockMessage clock => Sys2Proof.Machine.execClockMessage clock s
  | .coreAtRest core => Sys2Proof.Machine.execCoreAtRest core s
  | .debugStopRequest die g => Sys2Proof.Machine.execDebugStopRequest die g s
  | .debugCodeWrite core addr data => Sys2Proof.Machine.execDebugCodeWrite core addr data s
  | .hgcGo die g => Sys2Proof.Machine.execHgcGo die g s
  | .cpbrkWrite n v => Sys2Proof.Machine.execCpbrkWrite n v s
  | .claim m => Sys2Proof.Machine.execClaim m s
  | .offer m dest => Sys2Proof.Machine.execOffer m dest s
  | .accept m => Sys2Proof.Machine.execAccept m s
  | .release m => Sys2Proof.Machine.execRelease m s
  | .offerTimeout => Sys2Proof.Machine.execOfferTimeout s
  | .domainWrite v => Sys2Proof.Machine.execDomainWrite v s
  | .tbslewWrite v => Sys2Proof.Machine.execTbslewWrite v s
  | .tbstepWrite v => Sys2Proof.Machine.execTbstepWrite v s
  | .msixTrigger w fn v => Sys2Proof.Machine.execMsixTrigger w fn v s
  | .coreReset w core => Sys2Proof.Machine.execCoreReset w core s
  | .setReset w set => Sys2Proof.Machine.execSetReset w set s
  | .queueResetComplete isSet id => Sys2Proof.Machine.execQueueResetComplete isSet id s
  | .scanctlStart w core v => Sys2Proof.Machine.execScanctlStart w core v s
  | .traceOpen die mask stop => Sys2Proof.Machine.execTraceOpen die mask stop s
  | .traceClose die => Sys2Proof.Machine.execTraceClose die s
  | .ingressRouteWrite w die src v => Sys2Proof.Machine.execIngressRouteWrite w die src v s
  | .reductionTreeWrite w die tree dw v => Sys2Proof.Machine.execReductionTreeWrite w die tree dw v s
  | .ulmLoadWindowWrite w core addr data => Sys2Proof.Machine.execUlmLoadWindowWrite w core addr data s
  | .mmioRegisterWrite w off size v => Sys2Proof.Machine.execMmioRegisterWrite w off size v s
  | .grantResource part r => Sys2Proof.Machine.execGrantResource part r s
  | .withdrawResource part r => Sys2Proof.Machine.execWithdrawResource part r s
  | .lockInterface part => Sys2Proof.Machine.execLockInterface part s
  | .startInterface part => Sys2Proof.Machine.execStartInterface part s
  | .stopInterface part => Sys2Proof.Machine.execStopInterface part s
  | .partitionError part => Sys2Proof.Machine.execPartitionError part s
  | .attClear step => Sys2Proof.Machine.execAttClear step s
  | .spdmRequest => Sys2Proof.Machine.execSpdmRequest s
  | .deviceReset env failNormal failAlt badCores => Sys2Proof.Machine.execDeviceReset env failNormal failAlt badCores s
  | .apertureAccess vf secure off data n => Sys2Proof.Machine.execApertureAccess vf secure off data n s
  | .eventPageWrite vf die addr data => Sys2Proof.Machine.execEventPageWrite vf die addr data s
  | .csi2EventPacket port data crcOk => Sys2Proof.Machine.execCsi2EventPacket port data crcOk s
  | .csi2FrameStart port vc => Sys2Proof.Machine.execCsi2FrameStart port vc s
  | .csi2FrameLine port vc data crcOk => Sys2Proof.Machine.execCsi2FrameLine port vc data crcOk s
  | .csi2FrameEnd port vc => Sys2Proof.Machine.execCsi2FrameEnd port vc s
  | .bridgeRetrain => Sys2Proof.Machine.execBridgeRetrain s
  | .bridgeRetrainComplete ok => Sys2Proof.Machine.execBridgeRetrainComplete ok s
  | .managementRead off => Sys2Proof.Machine.execManagementRead off s
  | .illegalInstruction w compact => Sys2Proof.Machine.execIllegalInstruction w compact s
  | .correctedError die => Sys2Proof.Machine.execCorrectedError die s
  | .powerOn => Sys2Proof.Machine.execPowerOn s
  | .copyLineRelease h => Sys2Proof.Machine.execCopyLineRelease h s
  | .compactionChunkCopy die => Sys2Proof.Machine.execCompactionChunkCopy die s
  | .migrateForwardExpiry i0 => Sys2Proof.Machine.execMigrateForwardExpiry i0 s
  | .csi2PacketDrop port => Sys2Proof.Machine.execCsi2PacketDrop port s
  | .ingressTypeError die port => Sys2Proof.Machine.execIngressTypeError die port s
  | .mctpControlMessage => Sys2Proof.Machine.execMctpControlMessage s

end Sys2Proof.Machine
end

