-- ==== Sys2Proof/Machine/Step.lean ====
section
/-! DEFINITION. One step of the device: the next event or issue of the agenda, or, when it is empty, the issue choice of R37. -/

namespace Sys2Proof.Machine

/-- The instruction that two fetched halfwords form; a pattern that no map entry assigns is the ILLEGAL_INSTRUCTION row (R59). -/
noncomputable def decoded (h0 : BitVec 16) (h1 : Option (BitVec 16)) : Instr :=
  match h1 with
  | some h => (decode32 (h0 ++ h)).getD (.illegalInstruction (h0 ++ h) false)
  | none => (decode16 h0).getD (.illegalInstruction (h0.setWidth 32) true)

/-- Executes the fetched instruction of the agent whose turn it is, unless a pending reply holds it; then counts it. -/
def execIssued (i : Instr) (s : State) : Out :=
  if s.interlocked s.cur i then .next (s.unissued s.cur)
  else
    match exec i s with
    | .next s' => .next (s.settleIssue s.cur i s')
    | .fault f => .fault f
    | .refused r => .refused r

/-- The issue of an agent: a trap pending at its boundary is taken (R388), else one instruction is fetched, decoded and
executed; a fetch fault is taken with EPC at the instruction (R47). -/
noncomputable def issue (a : Agent) (s : State) : Out :=
  let s0 := s.select a
  if !(s0.thread a).pendTrap.isEmpty then .next (s0.settleTrap a (s0.takePending a))
  else
    match s0.fetch a with
    | .error (.trap t) => .next (s0.settleTrap a (s0.raise t 0))
    | .error .stall => .next (s0.unissued a)
    | .error .scoreboard => .next ((s0.stallOn true).unissued a)
    | .error (.fault f) => .fault f
    | .ok (s1, h0, h1) => execIssued (decoded h0 h1) s1

/-- One step. The counter of free values moves on at every step; at an event, and as time passes, every agent is tried afresh. -/
noncomputable def step (s : State) : Host.Outcome State Fault Refusal :=
  let s0 : State := { s with freeCtr := s.freeCtr + 1 }
  match s0.agenda with
  | .event e :: rest => exec e { s0 with agenda := rest, polled := [] }
  | .tick ns :: rest => .next ({ s0 with agenda := rest, polled := [] }.passTime ns)
  | .read r :: rest => .next ({ s0 with agenda := rest }.readOutside r)
  | .issue a :: rest =>
    let s1 : State := { s0 with agenda := rest }
    if s1.mayIssue a then issue a s1 else .next s1
  | [] =>
    match s0.nextIssuer with
    | some a => issue a s0
    | none => .next ({ s0 with polled := [] }.passTime 1)

/-- `s` with the instruction of the opcode table's word `w` stored where T7 of physical core 0 fetches, and T7 of that core the
one whose turn it is: running, with nothing pending, its fetch buffer empty (DESIGN CHOICE, log entry 16). -/
def State.withFetchWord (s : State) (nbits w : Nat) : State :=
  let a : Agent := .thr 0 7
  let pc := (s.thread a).pc.toNat % 0x100000
  let s1 := ({ s with agenda := [], cur := a, polled := [] } : State).putUlm 0 pc (tableBytes nbits w)
  let s2 := s1.modCore 0 fun k => { k with stop := none, scan := none, ckstat := setField k.ckstat 20 1 0, sb := [] }
  s2.modThread a fun t =>
    { t with
      pc := ofN pc, st := .run, wait := none, pendTrap := [], outst := [], fbuf := none, fbufStale := false
      fetchEpoch := (s2.getCore 0).epoch }

end Sys2Proof.Machine
end

