-- ==== Sys2Proof/Safety.lean ====
section
/-! DEFINITION. The terms of the claims: what a step that completes leaves as it was, what a completed instruction does to the
thread that executed it, and the invariant of memory. -/

namespace Sys2Proof.Machine

/-! ### Outcomes -/

/-- `i` completes at `s`: exec answers a next state, and `P` holds of it. -/
def Runs (i : Instr) (s : State) (P : State → Prop) : Prop := ∃ t, exec i s = .next t ∧ P t

/-- The state of an outcome, `s` for a stop. -/
def Out.stateOr (o : Out) (s : State) : State :=
  match o with
  | .next t => t
  | .fault _ => s
  | .refused _ => s

/-! ### Frames -/

/-- Nothing outside the threads and sequencers differs: memory, cores, Sets, dies, partitions and the device are as before. -/
def OnlyThreads (s t : State) : Prop := t = { s with thr := t.thr }

/-- Every thread and sequencer but the executing one is as before. -/
def OthersKeep (s t : State) : Prop := ∀ a : Agent, a.key ≠ s.cur.key → t.thread a = s.thread a

/-- Only the executing thread differs. -/
def OnlyMe (s t : State) : Prop := OnlyThreads s t ∧ OthersKeep s t

/-- Every byte of memory reads as before. -/
def SameBytes (s t : State) : Prop := ∀ l, Memory.read t.mem l = Memory.read s.mem l

/-- Every byte of memory outside [lo, hi) reads as before. -/
def SameBytesOutside (s t : State) (lo hi : Nat) : Prop := ∀ l, l < lo ∨ hi ≤ l → Memory.read t.mem l = Memory.read s.mem l

/-! ### Completion of an instruction (R112, R124) -/

/-- The thread stands at the last instruction of its hardware loop (R124). -/
abbrev Thread.AtLoopEnd (t : Thread) : Prop := t.loopActive = true ∧ t.pc = t.loopLast

/-- The x registers of a thread with `v` written to X[d]; x0 reads 0 (R112). -/
def Thread.withX (t : Thread) (d : BitVec 5) (v : Word) : BitVec 5 → Word :=
  fun r => if r = 0 then 0 else if r = d then v else t.getX r

/-- `new` is `old` after an instruction of `len` bytes that transfers no control and whose own writes leave the x registers
`X`: the pc moves to the next instruction, and at the end of a hardware loop the count goes down by one first, and decides
where the pc goes (R112, R124). -/
def Thread.Completed (old new : Thread) (X : BitVec 5 → Word) (len : Nat) : Prop :=
  (¬ old.AtLoopEnd → (∀ r, new.getX r = X r) ∧ new.pc = old.pc + ofN len ∧ new.loopActive = old.loopActive) ∧
  (old.AtLoopEnd →
    (∀ r, r ≠ old.loopReg → new.getX r = X r) ∧
    (old.loopReg ≠ 0 → new.getX old.loopReg = X old.loopReg - 1) ∧
    (old.loopReg = 0 ∨ X old.loopReg = 1 → new.pc = old.pc + ofN len ∧ new.loopActive = false) ∧
    (old.loopReg ≠ 0 ∧ X old.loopReg ≠ 1 → new.pc = old.loopStart ∧ new.loopActive = true))

/-- The threads agree in everything but the x registers, the pc and the activity of the hardware loop. -/
def Thread.KeepsRest (old new : Thread) : Prop :=
  new = { old with x := new.x, pc := new.pc, loopActive := new.loopActive }

/-- `t` is `s` after the executing thread's instruction of `len` bytes that wrote `v` to X[d] and did nothing else. -/
def RegStep (s : State) (d : BitVec 5) (v : Word) (len : Nat) (t : State) : Prop :=
  OnlyMe s t ∧ s.me.KeepsRest t.me ∧ s.me.Completed t.me (s.me.withX d v) len

/-- `t` is `s` after an instruction of `len` bytes that did nothing else than complete. -/
def Advanced (s : State) (len : Nat) (t : State) : Prop :=
  OnlyMe s t ∧ s.me.KeepsRest t.me ∧ s.me.Completed t.me s.me.getX len

/-- `t` is `s` after a transfer of the executing thread's control to `target`, with `v` in X[d] (R122, R123). -/
def Jumped (s : State) (d : BitVec 5) (v : Word) (target : Word) (t : State) : Prop :=
  OnlyMe s t ∧ s.me.KeepsRest t.me ∧ (∀ r, t.x r = s.me.withX d v r) ∧ t.pc = target ∧ t.me.loopActive = s.me.loopActive

/-- The executing thread is now `w` of what it was, completed by R112 and R124 with `len` bytes, and nothing else differs. -/
def ThreadStep (s : State) (w : Thread → Thread) (len : Nat) (t : State) : Prop :=
  OnlyMe s t ∧ t.me = (w s.me).next len

/-- What a read or write leaves in the caches beside its bytes: the RTB, the L1 and the counted events of a core, the L2 and the RDC
of a die, and the clocks of the values that a thread has seen; no other register and no byte of memory (R205, R231, R326, R382). -/
def CachesOnly (s t : State) : Prop :=
  t = { s with thr := t.thr, core := t.core, die := t.die } ∧
  (∀ a, t.thread a = { s.thread a with seen := (t.thread a).seen }) ∧
  (∀ c, t.getCore c = { s.getCore c with rtb := (t.getCore c).rtb, l1 := (t.getCore c).l1, pm := (t.getCore c).pm }) ∧
  (∀ d, t.getDie d = { s.getDie d with l2 := (t.getDie d).l2, rdc := (t.getDie d).rdc })

/-- As `RegStep` for a load: the caches alone take note of the `n` bytes read at `ea`. -/
def LoadStep (s : State) (ea : Word) (n : Nat) (d : BitVec 5) (v : Word) (len : Nat) (t : State) : Prop :=
  CachesOnly s (s.touch ea n) ∧ RegStep (s.touch ea n) d v len t

/-- The thread without the clocks it carries (R231). -/
def Thread.bare (t : Thread) : Thread := { t with seen := [], rel := [], wait := t.wait.map fun w => { w with clock := [] } }

/-- The thread is `u` but for the clocks it carries (R231). -/
def Thread.Is (t u : Thread) : Prop := t.bare = u.bare

/-- Every thread and sequencer but the executing one is as before, but for its clocks. -/
def OthersIs (s t : State) : Prop := ∀ a : Agent, a.key ≠ s.cur.key → (t.thread a).Is (s.thread a)

/-- Every thread and sequencer is as before, but for its clocks. -/
def ThreadsAre (s t : State) : Prop := ∀ a : Agent, (t.thread a).Is (s.thread a)

/-- The message without its clock (R231). -/
def Msg.bare (m : Msg) : Msg := { m with clock := [] }

/-! ### Flags (R80, R81, R85) -/

/-- The thread with sticky flags raised: NV to NX into FCSR, SATF, TERNBAD and BLKINV into VCSR. -/
def Thread.raised (t : Thread) (fl : FFlags) : Thread :=
  { t with
    fcsr := t.fcsr ||| ofN (field fl 0 5 * 256)
    vcsr := t.vcsr ||| ofN (field fl 5 1 * 2 + field fl 6 1 + field fl 7 1 * 4) }

/-- The Sets after the executing agent raised `fl`: a raise is on its way to SFLAGS of its Set. -/
def FlagsSent (s t : State) (fl : FFlags) : Prop :=
  ∀ n, t.getSet n =
    if n = s.cur.setNo ∧ fl ≠ 0 then
      { s.getSet n with flagPend := (s.getSet n).flagPend ++ [ofN (fl.toNat + State.flagBitOf s.cur)] }
    else s.getSet n

/-- As `ThreadStep` for an instruction that also raised the flags `fl`. -/
def FlagStep (s : State) (w : Thread → Thread) (fl : FFlags) (len : Nat) (t : State) : Prop :=
  t = { s with thr := t.thr, sets := t.sets } ∧ OthersKeep s t ∧ FlagsSent s t fl ∧ t.me = ((w s.me).raised fl).next len

/-! ### Traps (R388 to R390) -/

/-- The executing agent is a thread of a core that is not OFF, and its T7 queue has room. -/
abbrev Servable (s : State) : Prop :=
  s.cur.isThr = true ∧ s.cur.tid < 7 ∧ s.t7Full s.cur.coreNo = false ∧ bitAt (s.getCore s.cur.coreNo).ckstat 16 = false

/-- The executing thread, at the same instruction, is held by a precise supervisor-level trap with this cause and TVAL:
TCAUSE, TVAL and EPC are written, it waits, and no register of it has changed (R114, R388, R390). -/
def HeldByTrap (s : State) (code : BitVec 8) (tval : Word) (t : State) : Prop :=
  t.me = { s.me with
    tcause := State.causeWord false false code 0, tval := tval, epc := s.me.pc
    st := .wait, wait := some { kind := .trapHeld } }

/-- The executing thread, `w` of what it was and with the flags `fl` raised, has taken the FP_TRAP that one of them enables: EPC or UTEPC
is the next instruction, TVAL this one. With a UTVEC it runs on there; else it is held for T7. The flags are on their way to SFLAGS
(R85, R97, R114, R388 to R390). -/
def FpTrapped (s : State) (w : Thread → Thread) (fl : FFlags) (t : State) : Prop :=
  OthersKeep s t ∧
  (∀ n, (t.getSet n).flagPend = (s.getSet n).flagPend ++
    if n = s.cur.setNo ∧ fl ≠ 0 then [ofN (fl.toNat + State.flagBitOf s.cur)] else []) ∧
  t.me = if s.me.utvec ≠ 0 then
      { (w s.me).raised fl with
        utepc := s.pc + 4, tval := s.pc, tcause := State.causeWord true false Cause.fpTrap 0, pc := s.me.utvec, st := .run, wait := none }
    else
      { (w s.me).raised fl with
        epc := s.pc + 4, tval := s.pc, tcause := State.causeWord false false Cause.fpTrap 0, pc := s.pc + 4
        st := .wait, wait := some { kind := .trapHeld } }

/-- `ins` raises the flags `fl` and leaves the thread as `w` says: it completes, or takes FP_TRAP when one of them is enabled and the trap
can be taken; `u` is the machine with what its reads have left in the caches (R97, R114). -/
def FlagRuns (ins : Instr) (s : State) (w : Thread → Thread) (fl : FFlags) (u : State := s) : Prop :=
  (s.fpTraps fl = false → Runs ins s (FlagStep u w fl 4)) ∧
  (s.fpTraps fl = true → s.me.utvec ≠ 0 ∨ Servable s → Runs ins s (FpTrapped u w fl))

/-! ### Stores -/

/-- The bytes of a store at location `l` are in memory, every other byte reads as before. -/
def Stored (s t : State) (l : Nat) (bs : List Byte) : Prop :=
  Memory.readN t.mem l bs.length = bs ∧ SameBytesOutside s t l (l + bs.length)

/-- What a store at issue may touch beside its bytes: the poison marks, the I-caches, the data caches, the RTB and counted events, and
at the homes the clocks of the values and of the die, with the mark that a write was applied; no register of any thread but the
executing one, nothing of the Sets, partitions or the device (R24, R205, R212, R215, R231, R326, R382). -/
def StoreFrame (s t : State) : Prop :=
  t = { s with thr := t.thr, mem := t.mem, carried := t.carried, poison := t.poison, core := t.core, die := t.die } ∧ OthersKeep s t ∧
  (∀ c, t.getCore c =
    { s.getCore c with
      icache := (t.getCore c).icache, epoch := (t.getCore c).epoch, l1 := (t.getCore c).l1, rtb := (t.getCore c).rtb
      pm := (t.getCore c).pm }) ∧
  (∀ d, t.getDie d =
    { s.getDie d with wrote := (t.getDie d).wrote, vc := (t.getDie d).vc, l2 := (t.getDie d).l2, rdc := (t.getDie d).rdc })

/-- A store that passes its checks and is performed at issue: where it lies, in plain memory that no engine owns and no retraining bridge
cuts off. -/
abbrev AtIssue (s : State) (ea : Word) (n : Nat) (acc : Acc) : Prop :=
  ea.toNat % n = 0 ∧ s.storeCheck s.cur ea n = .ok acc ∧ s.journaled s.cur acc.loc = false ∧
  s.blocked acc.loc n true = false ∧ s.acrossBridge s.cur.dieNo acc.loc = false ∧
  (placeOf acc.loc = .ulm ∨ ∃ d, placeOf acc.loc = .hbm d)

/-- A store that goes into the journal: its checks pass, it is journaled, nothing holds it and the journal has room for it (R25, R240). -/
abbrev IntoJournal (s : State) (ea : Word) (n : Nat) (acc : Acc) : Prop :=
  ea.toNat % n = 0 ∧ s.storeCheck s.cur ea n = .ok acc ∧ s.journaled s.cur acc.loc = true ∧
  s.blocked acc.loc n true = false ∧ s.acrossBridge s.cur.dieNo acc.loc = false ∧ s.me.jcnt + (8 + alignUp 8 n) ≤ 4096

/-- The checked stores of one instruction all go into the journal, which has room for them, and nothing holds one (R25, R153, R240). -/
abbrev AllJournaled (s : State) (rs : List StoreReq) : Prop :=
  (∀ r ∈ rs, s.journaled s.cur r.acc.loc = true ∧ s.blocked r.acc.loc r.bs.length true = false ∧
    s.acrossBridge s.cur.dieNo r.acc.loc = false) ∧
  s.me.jcnt + (rs.map (·.cost)).sum ≤ 4096

/-- `t` is `s` after an instruction of 4 bytes that has recorded these stores in the journal of its activation: they stand behind its
earlier entries, JCNT has grown by their cost, and nothing else differs but the RTB and the counted events of a core (R24, R25). -/
def Recorded (s : State) (rs : List StoreReq) (t : State) : Prop :=
  t = { s with thr := t.thr, core := t.core } ∧ OthersKeep s t ∧
  (∀ c, t.getCore c = { s.getCore c with rtb := (t.getCore c).rtb, pm := (t.getCore c).pm }) ∧
  t.me = { s.me.next 4 with
    journal := s.me.journal ++ (noteWhole rs).map fun r => .store r.acc.loc r.acc.key r.va r.bs r.cost r.clean r.acc.rng.uncached
    actst := t.me.actst } ∧
  t.me.jcnt = s.me.jcnt + (rs.map (·.cost)).sum

/-! ### Results that come with an effect elsewhere -/

/-- The executing thread has written `v` to X[d] and completed (R112, R124); no other thread or sequencer differs, but for clocks. -/
def Gives (s : State) (d : BitVec 5) (v : Word) (t : State) : Prop := OthersIs s t ∧ t.me.Is ((s.me.setX d v).next 4)

/-- The executing thread has completed and kept its registers (R112, R124); no other thread or sequencer differs, but for clocks. -/
def Passes (s t : State) : Prop := OthersIs s t ∧ t.me.Is (s.me.next 4)

/-- An action of the last row of R24 is performed at issue: its activation has NR set (or it is T6, T7 or a sequencer), and no
message of it still waits for the NI (R26, R275). -/
abbrev Acts (s : State) : Prop := s.holds s.cur = false ∧ s.sendPending s.cur = false

/-- The executing thread's blocking instruction waits with `w` and has done nothing else (R19). -/
def Waits (s : State) (w : Wait) (t : State) : Prop := OnlyMe s t ∧ t.me = { s.me with st := .wait, wait := some w }

/-- `ins` ends the wait of agent `a`: the instruction of `len` bytes that waited completes with the effect `f` on its thread, which
runs again; no other thread or sequencer and no byte of memory differs, but for clocks (R19, R112). -/
def Wakes (ins : Instr) (s : State) (a : Agent) (len : Nat) (f : Thread → Thread) (also : State → Prop := fun _ => True) : Prop :=
  Runs ins s fun t => (t.thread a).Is { (f { s.thread a with wait := none }).next len with st := .run } ∧
    (∀ b : Agent, b.key ≠ a.key → (t.thread b).Is (s.thread b)) ∧ SameBytes s t ∧ also t

/-! ### Messages (R272 to R275) -/

/-- The send buffer of the executing agent's unit has an entry free, nobody waits for one, and no push of the agent is still to be written,
for which its release would wait (R231, R275). -/
abbrev Room (s : State) : Prop :=
  (s.sendQ s.cur.unit).1.length < 4 ∧ (s.sendQ s.cur.unit).2 = [] ∧ s.pushesPending s.cur = false

/-- The unit's send buffer has taken the message, stamped with the timebase; clocks are left aside. -/
def Accepted (s t : State) (m : Msg) : Prop :=
  (t.sendQ s.cur.unit).1.map Msg.bare = ((s.sendQ s.cur.unit).1 ++ [s.stamp m]).map Msg.bare ∧ (t.sendQ s.cur.unit).2 = []

/-- `ins` hands the message `m` over and completes: an activation with NR clear records it in its journal with the cost of 80
bytes; an agent with NR set, T6, T7 or a sequencer gives it to the NI (R24, R25, R274). `f` is what else changes in its thread. -/
def HandsOver (ins : Instr) (s : State) (m : Msg) (f : Thread → Thread := id) : Prop :=
  (s.holds s.cur = true → s.me.jcnt + 80 ≤ 4096 → Runs ins s (ThreadStep s (fun t =>
    { f t with journal := t.journal ++ [.msg m], actst := setField t.actst 16 13 (t.jcnt + 80) }) 4)) ∧
  (s.holds s.cur = false → Room s → Runs ins s fun t =>
    Accepted s t m ∧ OthersIs s t ∧ t.me.Is ((f s.me).next 4) ∧ SameBytes s t)

/-! ### Vector results (R139, R140) -/

/-- `v` is `old` with every lane of `e` bytes that the predicate `g` makes active replaced by the wrapped result `res` gives it. -/
def LaneResult (e : Nat) (g : PReg) (old v : VReg) (res : Nat → Int) : Prop :=
  ∀ i, i < 128 / e → laneAt (lanesOf e v) i = if active g e i then wrapN (8 * e) (res i) else laneAt (lanesOf e old) i

/-- The flags that lane results raise: those of the active lanes together (R97, R140). -/
def laneRaises (e : Nat) (g : PReg) (fl : Nat → FFlags) : FFlags :=
  laneFlags g e ((List.range (128 / e)).map fun i => (0, fl i))

/-- `ins` writes the lane results `res` to V[d] under P[p] and raises the flags `fl` of the active lanes; it completes, or takes the trap
that one of them enables (R140, R143, R97); `u` is the machine with what its reads have left in the caches. -/
def LanesRun (ins : Instr) (s : State) (d : BitVec 5) (p : BitVec 3) (e : Nat) (res : Nat → Int) (fl : Nat → FFlags)
    (u : State := s) : Prop :=
  let g := s.me.getP p.toNat
  ∃ v, LaneResult e g (s.me.getV d) v res ∧ FlagRuns ins s (fun t => t.setV d v) (laneRaises e g fl) u

/-- `ins` writes the truth values `res` of the active lanes to predicate `q`, false for the inactive lanes, and completes, or takes the trap
that a flag enables (R147, R97). -/
def PredicateRuns (ins : Instr) (s : State) (q p : BitVec 3) (e : Nat) (res : Nat → Bool) (fl : Nat → FFlags) : Prop :=
  let g := s.me.getP p.toNat
  ∃ v : PReg, (∀ j, j < 128 → v.getLsbD j = (active g e (j / e) && res (j / e))) ∧
    FlagRuns ins s (fun t => t.setP q.toNat v) (laneRaises e g fl)

/-- The executing agent is a thread, and no stream binds the v registers named. -/
abbrev PlainV (s : State) (rs : List (BitVec 5)) : Prop := s.cur.isThr = true ∧ ∀ r ∈ rs, s.me.slotOf true r = none

/-! ### The invariant of memory -/

/-- Memory stands in its one canonical form: addresses strictly rising, no entry equal to what an unlisted address reads as. -/
abbrev State.Inv (s : State) : Prop := Memory.wf s.mem = true

end Sys2Proof.Machine
end

