-- ==== Sys2Proof/Certificates/Slice0/Obligations.lean ====
section
/-! DEFINITION. The statements for the provers. -/

set_option linter.unusedVariables false

open Sys2Proof Sys2Proof.Machine

/-! ### Scalar instructions (chapter 6) -/

/-- R116, R112: every INT instruction writes its result to X[d] (nothing for x0), completes by R124 and changes nothing else. -/
def Obligations.IntegerResults : Prop :=
  ∀ (s : State) (d a b : BitVec 5) (n : BitVec 2),
    Runs (.add d a b) s (RegStep s d (s.x a + s.x b) 4) ∧
    Runs (.sub d a b) s (RegStep s d (s.x a - s.x b) 4) ∧
    Runs (.addw d a b) s (RegStep s d (((s.x a + s.x b).extractLsb' 0 32).signExtend 64) 4) ∧
    Runs (.subw d a b) s (RegStep s d (((s.x a - s.x b).extractLsb' 0 32).signExtend 64) 4) ∧
    Runs (.and d a b) s (RegStep s d (s.x a &&& s.x b) 4) ∧
    Runs (.or d a b) s (RegStep s d (s.x a ||| s.x b) 4) ∧
    Runs (.xor d a b) s (RegStep s d (s.x a ^^^ s.x b) 4) ∧
    Runs (.andn d a b) s (RegStep s d (s.x a &&& ~~~ s.x b) 4) ∧
    Runs (.orn d a b) s (RegStep s d (s.x a ||| ~~~ s.x b) 4) ∧
    Runs (.sll d a b) s (RegStep s d (s.x a <<< ((s.x b).toNat % 64)) 4) ∧
    Runs (.srl d a b) s (RegStep s d (s.x a >>> ((s.x b).toNat % 64)) 4) ∧
    Runs (.sra d a b) s (RegStep s d ((s.x a).sshiftRight ((s.x b).toNat % 64)) 4) ∧
    Runs (.rol d a b) s (RegStep s d ((s.x a).rotateLeft ((s.x b).toNat % 64)) 4) ∧
    Runs (.ror d a b) s (RegStep s d ((s.x a).rotateRight ((s.x b).toNat % 64)) 4) ∧
    Runs (.slt d a b) s (RegStep s d (if (s.x a).toInt < (s.x b).toInt then 1 else 0) 4) ∧
    Runs (.sltu d a b) s (RegStep s d (if (s.x a).toNat < (s.x b).toNat then 1 else 0) 4) ∧
    Runs (.seq d a b) s (RegStep s d (if s.x a = s.x b then 1 else 0) 4) ∧
    Runs (.min d a b) s (RegStep s d (if (s.x a).toInt < (s.x b).toInt then s.x a else s.x b) 4) ∧
    Runs (.max d a b) s (RegStep s d (if (s.x a).toInt < (s.x b).toInt then s.x b else s.x a) 4) ∧
    Runs (.minu d a b) s (RegStep s d (if (s.x a).toNat < (s.x b).toNat then s.x a else s.x b) 4) ∧
    Runs (.maxu d a b) s (RegStep s d (if (s.x a).toNat < (s.x b).toNat then s.x b else s.x a) 4) ∧
    Runs (.clz d a) s (RegStep s d (ofN (clz64 (s.x a))) 4) ∧
    Runs (.ctz d a) s (RegStep s d (ofN (ctz64 (s.x a))) 4) ∧
    Runs (.popc d a) s (RegStep s d (ofN (popNat 64 (s.x a).toNat)) 4) ∧
    Runs (.brev d a) s (RegStep s d (revBits (s.x a)) 4) ∧
    Runs (.bswap d a) s (RegStep s d (bytesWord (wordBytes (s.x a)).reverse) 4) ∧
    Runs (.sextB d a) s (RegStep s d (((s.x a).extractLsb' 0 8).signExtend 64) 4) ∧
    Runs (.sextH d a) s (RegStep s d (((s.x a).extractLsb' 0 16).signExtend 64) 4) ∧
    Runs (.sextW d a) s (RegStep s d (((s.x a).extractLsb' 0 32).signExtend 64) 4) ∧
    Runs (.zextB d a) s (RegStep s d (((s.x a).extractLsb' 0 8).setWidth 64) 4) ∧
    Runs (.zextH d a) s (RegStep s d (((s.x a).extractLsb' 0 16).setWidth 64) 4) ∧
    Runs (.zextW d a) s (RegStep s d (((s.x a).extractLsb' 0 32).setWidth 64) 4) ∧
    Runs (.shadd d a b n) s (RegStep s d ((s.x a <<< (n.toNat + 1)) + s.x b) 4)

/-- R117: the immediate forms, with their words. R118: LUI and ADDPC. R116: what CLZ, CTZ, POPC, BREV and BSWAP compute, bit by
bit. -/
def Obligations.ImmediateAndBitResults : Prop :=
  (∀ (s : State) (d a : BitVec 5) (i : BitVec 14) (n : BitVec 6) (u : BitVec 19),
     Runs (.addi d a i) s (RegStep s d (s.x a + i.signExtend 64) 4) ∧
     Runs (.andi d a i) s (RegStep s d (s.x a &&& i.signExtend 64) 4) ∧
     Runs (.ori d a i) s (RegStep s d (s.x a ||| i.signExtend 64) 4) ∧
     Runs (.xori d a i) s (RegStep s d (s.x a ^^^ i.signExtend 64) 4) ∧
     Runs (.slli d a n) s (RegStep s d (s.x a <<< n.toNat) 4) ∧
     Runs (.srli d a n) s (RegStep s d (s.x a >>> n.toNat) 4) ∧
     Runs (.srai d a n) s (RegStep s d ((s.x a).sshiftRight n.toNat) 4) ∧
     Runs (.rori d a n) s (RegStep s d ((s.x a).rotateRight n.toNat) 4) ∧
     Runs (.slti d a i) s (RegStep s d (if (s.x a).toInt < (i.signExtend 64).toInt then 1 else 0) 4) ∧
     Runs (.sltiu d a i) s (RegStep s d (if (s.x a).toNat < (i.signExtend 64).toNat then 1 else 0) 4) ∧
     Runs (.lui d u) s (RegStep s d (u.signExtend 64 * 8192) 4) ∧
     Runs (.addpc d u) s (RegStep s d (s.pc + u.signExtend 64 * 8192) 4) ∧
     (let word := fun (major : BitVec 8) => Enc.full (major ++ d ++ a ++ i)
      let shift := fun (sel : BitVec 2) => Enc.full (0xC6#8 ++ d ++ a ++ sel ++ 0#6 ++ n)
      encode (.addi d a i) = word 0xC2 ∧ encode (.andi d a i) = word 0xC3 ∧ encode (.ori d a i) = word 0xC4 ∧
      encode (.xori d a i) = word 0xC5 ∧ encode (.slti d a i) = word 0xC7 ∧ encode (.sltiu d a i) = word 0xC8 ∧
      encode (.slli d a n) = shift 0 ∧ encode (.srli d a n) = shift 1 ∧ encode (.srai d a n) = shift 2 ∧ encode (.rori d a n) = shift 3)) ∧
  (∀ w : Word,
     (clz64 w ≤ 64 ∧ (∀ i, i < 64 → 64 - clz64 w ≤ i → w.getLsbD i = false) ∧
       (clz64 w < 64 → w.getLsbD (63 - clz64 w) = true)) ∧
     (ctz64 w ≤ 64 ∧ (∀ i, i < ctz64 w → w.getLsbD i = false) ∧ (ctz64 w < 64 → w.getLsbD (ctz64 w) = true)) ∧
     popNat 64 w.toNat = ((List.range 64).filter fun i => w.getLsbD i).length ∧
     (∀ i, i < 64 → (revBits w).getLsbD i = w.getLsbD (63 - i)) ∧
     (∀ j, j < 8 → (bytesWord (wordBytes w).reverse).extractLsb' (8 * j) 8 = w.extractLsb' (8 * (7 - j)) 8))

/-- R119: the MULDIV group with its words: the exact product's halves, division toward zero with the saturating corners, and
MADD. -/
def Obligations.MultiplyDivideResults : Prop :=
  (∀ (s : State) (d a b : BitVec 5),
    let A := s.x a
    let B := s.x b
    Runs (.mul d a b) s (RegStep s d (A * B) 4) ∧
    Runs (.mulh d a b) s (RegStep s d (BitVec.ofInt 64 (A.toInt * B.toInt / 2 ^ 64)) 4) ∧
    Runs (.mulhu d a b) s (RegStep s d (BitVec.ofNat 64 (A.toNat * B.toNat / 2 ^ 64)) 4) ∧
    Runs (.mulhsu d a b) s (RegStep s d (BitVec.ofInt 64 (A.toInt * B.toNat / 2 ^ 64)) 4) ∧
    Runs (.mulw d a b) s (RegStep s d (((A * B).extractLsb' 0 32).signExtend 64) 4) ∧
    Runs (.div d a b) s (RegStep s d (divS A B) 4) ∧
    Runs (.divu d a b) s (RegStep s d (divU A B) 4) ∧
    Runs (.rem d a b) s (RegStep s d (remS A B) 4) ∧
    Runs (.remu d a b) s (RegStep s d (remU A B) 4) ∧
    Runs (.madd d a b) s (RegStep s d (s.x d + A * B) 4) ∧
    (let word := fun (fn9 : BitVec 9) => Enc.full (0xCB#8 ++ d ++ a ++ b ++ fn9)
     encode (.mul d a b) = word 0 ∧ encode (.mulh d a b) = word 1 ∧ encode (.mulhu d a b) = word 2 ∧
     encode (.mulhsu d a b) = word 3 ∧ encode (.mulw d a b) = word 4 ∧ encode (.div d a b) = word 5 ∧
     encode (.divu d a b) = word 6 ∧ encode (.rem d a b) = word 7 ∧ encode (.remu d a b) = word 8 ∧
     encode (.madd d a b) = word 9)) ∧
  ∀ A B : Word,
    (B = 0 → 0 ≤ A.toInt → divS A B = 0x7FFFFFFFFFFFFFFF#64) ∧ (B = 0 → A.toInt < 0 → divS A B = 0x8000000000000000#64) ∧
    (B = 0 → divU A B = 0xFFFFFFFFFFFFFFFF#64 ∧ remS A B = 0 ∧ remU A B = 0) ∧
    (A.toInt = -2 ^ 63 → B.toInt = -1 → divS A B = 0x7FFFFFFFFFFFFFFF#64 ∧ remS A B = 0) ∧
    (B ≠ 0 → ¬(A.toInt = -2 ^ 63 ∧ B.toInt = -1) →
      (divS A B).toInt = A.toInt.tdiv B.toInt ∧ A.toInt = B.toInt * (divS A B).toInt + (remS A B).toInt) ∧
    (B ≠ 0 → (divU A B).toNat = A.toNat / B.toNat ∧ A.toNat = B.toNat * (divU A B).toNat + (remU A B).toNat)

/-- R57, R58: the compact arithmetic forms act as their expansions, with a length of 2; OXGET (R137), the compact no-operation and PREF
(R245) stand beside them: PREF writes no register, takes no trap and changes nothing but caches. That it fills them whenever it meets no
engine, no poison and no retraining bridge is the model's choice (log entry 79). -/
def Obligations.CompactResults : Prop :=
  ∀ (s : State) (d a : BitVec 5) (i : BitVec 5) (k : BitVec 10),
    Runs (.cMv d a) s (RegStep s d (s.x a) 2) ∧
    Runs (.cAdd d a) s (RegStep s d (s.x d + s.x a) 2) ∧
    Runs (.cSub d a) s (RegStep s d (s.x d - s.x a) 2) ∧
    Runs (.cAnd d a) s (RegStep s d (s.x d &&& s.x a) 2) ∧
    Runs (.cOr d a) s (RegStep s d (s.x d ||| s.x a) 2) ∧
    Runs (.cXor d a) s (RegStep s d (s.x d ^^^ s.x a) 2) ∧
    Runs (.cSll d a) s (RegStep s d (s.x d <<< ((s.x a).toNat % 64)) 2) ∧
    Runs (.cSrl d a) s (RegStep s d (s.x d >>> ((s.x a).toNat % 64)) 2) ∧
    Runs (.cSra d a) s (RegStep s d ((s.x d).sshiftRight ((s.x a).toNat % 64)) 2) ∧
    Runs (.cMul d a) s (RegStep s d (s.x d * s.x a) 2) ∧
    Runs (.cSlt d a) s (RegStep s d (if (s.x d).toInt < (s.x a).toInt then 1 else 0) 2) ∧
    Runs (.cAddi d i) s (RegStep s d (s.x d + i.signExtend 64) 2) ∧
    Runs (.cLi d i) s (RegStep s d (i.signExtend 64) 2) ∧
    Runs (.cSlli d i) s (RegStep s d (s.x d <<< i.toNat) 2) ∧
    Runs (.cSrli d i) s (RegStep s d (s.x d >>> i.toNat) 2) ∧
    Runs (.cSrai d i) s (RegStep s d ((s.x d).sshiftRight i.toNat) 2) ∧
    Runs (.cAndi d i) s (RegStep s d (s.x d &&& i.signExtend 64) 2) ∧
    Runs (.cOri d i) s (RegStep s d (s.x d ||| i.signExtend 64) 2) ∧
    Runs (.cXori d i) s (RegStep s d (s.x d ^^^ i.signExtend 64) 2) ∧
    Runs (.cSpadj k) s (RegStep s 2 (s.x 2 + k.signExtend 64 * 8) 2) ∧
    Runs .nop s (Advanced s 2) ∧
    (CachesOnly s (s.prefetch (s.x a)) ∧ Runs (.pref a) s (Advanced (s.prefetch (s.x a)) 4)) ∧
    Runs (.oxget d a) s (RegStep s d (s.ox a.toNat) 4)

/-- R120, R57: a load whose access succeeds with the bytes `bs` writes them to X[d], sign- or zero-extended, and but for the caches
changes nothing else. -/
def Obligations.LoadResults : Prop :=
  ∀ (s : State) (d a : BitVec 5) (i : BitVec 14) (k : BitVec 5) (bs : List Byte),
    let ea := s.x a + i.signExtend 64
    let sp := s.x 2 + ofN (8 * k.toNat)
    let gp := s.x 3 + ofN (8 * k.toNat)
    let spw := s.x 2 + ofN (4 * k.toNat)
    (s.load ea 1 = .ok bs →
      Runs (.ldb d a i) s (LoadStep s ea 1 d ((BitVec.ofNat 8 (leNat bs)).signExtend 64) 4) ∧
      Runs (.ldbu d a i) s (LoadStep s ea 1 d (bytesWord bs) 4)) ∧
    (s.load ea 2 = .ok bs →
      Runs (.ldh d a i) s (LoadStep s ea 2 d ((BitVec.ofNat 16 (leNat bs)).signExtend 64) 4) ∧
      Runs (.ldhu d a i) s (LoadStep s ea 2 d (bytesWord bs) 4)) ∧
    (s.load ea 4 = .ok bs →
      Runs (.ldw d a i) s (LoadStep s ea 4 d ((BitVec.ofNat 32 (leNat bs)).signExtend 64) 4) ∧
      Runs (.ldwu d a i) s (LoadStep s ea 4 d (bytesWord bs) 4)) ∧
    (s.load ea 8 = .ok bs → Runs (.ldd d a i) s (LoadStep s ea 8 d (bytesWord bs) 4)) ∧
    (s.load (s.x a) 8 = .ok bs → Runs (.cLdx d a) s (LoadStep s (s.x a) 8 d (bytesWord bs) 2)) ∧
    (s.load sp 8 = .ok bs → Runs (.cSld d k) s (LoadStep s sp 8 d (bytesWord bs) 2)) ∧
    (s.load gp 8 = .ok bs → Runs (.cPld d k) s (LoadStep s gp 8 d (bytesWord bs) 2)) ∧
    (s.load spw 4 = .ok bs → Runs (.cSlw d k) s (LoadStep s spw 4 d ((BitVec.ofNat 32 (leNat bs)).signExtend 64) 2))

/-- R120, R203, R24: an aligned read of the executing agent's own local memory, which no engine owns and no error has struck,
gives the bytes of memory, in place of which the thread's own journal entries give the youngest of its stores. R120: an address
that is not a multiple of the access size takes MISALIGNED with TVAL := ea, on every load and store of two bytes or more; an
address with a bit of [63:56] set takes NO_RANGE. The thread is held and no register of it changes. -/
def Obligations.AccessRules : Prop :=
  (∀ (s : State) (ea : Word) (n : Nat),
     (n = 1 ∨ n = 2 ∨ n = 4 ∨ n = 8) → ea.toNat % n = 0 → ea.toNat + n ≤ s.cur.window →
     s.blocked (s.cur.localLoc ea.toNat) n false = false → s.poisoned (s.cur.localLoc ea.toNat) n = false →
     ∃ bs, s.load ea n = .ok bs ∧ bs.length = n ∧
       ∀ i, i < n → bs[i]? = some ((journalByte s.me.journal (s.cur.localLoc ea.toNat + i)).getD
         (Memory.read s.mem (s.cur.localLoc ea.toNat + i)))) ∧
  (∀ (s : State) (d a : BitVec 5) (i : BitVec 14),
     let ea := s.x a + i.signExtend 64
     Servable s →
     (ea.toNat % 2 ≠ 0 → ∀ ins ∈ [Instr.ldh d a i, .ldhu d a i, .sth d a i],
       Runs ins s (HeldByTrap s Cause.misaligned ea)) ∧
     (ea.toNat % 4 ≠ 0 → ∀ ins ∈ [Instr.ldw d a i, .ldwu d a i, .stw d a i],
       Runs ins s (HeldByTrap s Cause.misaligned ea)) ∧
     (ea.toNat % 8 ≠ 0 → ∀ ins ∈ [Instr.ldd d a i, .std d a i], Runs ins s (HeldByTrap s Cause.misaligned ea)) ∧
     (ea.toNat % 8 = 0 → 2 ^ 56 ≤ ea.toNat →
       ∀ ins ∈ [Instr.ldb d a i, .ldbu d a i, .ldh d a i, .ldhu d a i, .ldw d a i, .ldwu d a i, .ldd d a i,
         .stb d a i, .sth d a i, .stw d a i, .std d a i],
       Runs ins s (HeldByTrap s Cause.noRange ea)))

/-- R120, R121, R24: a store performed at issue in plaintext memory puts the low bytes of its register at the address `s.ea b i`
resolves to, leaves every other byte of memory, and completes its instruction. R24, R25, R121: a store that goes through the
journal leaves every byte of memory as it was: it appends one journal entry with its location, address and bytes, adds 8 bytes
and its size rounded up to 8 to JCNT, and completes; nothing else differs but the RTB and the counted events of its core. -/
def Obligations.StoreResults : Prop :=
  (∀ (s : State) (x b : BitVec 5) (i : BitVec 14) (k : BitVec 5) (acc : Acc),
     let ea := s.ea b i
     let done := fun (ins : Instr) (n len : Nat) =>
       Runs ins s fun t => Stored s t acc.loc (leBytes n (s.x x).toNat) ∧ StoreFrame s t ∧ t.me = s.me.next len
     acc.key = 0 →
     (AtIssue s ea 1 acc → done (.stb x b i) 1 4) ∧ (AtIssue s ea 2 acc → done (.sth x b i) 2 4) ∧
     (AtIssue s ea 4 acc → done (.stw x b i) 4 4) ∧ (AtIssue s ea 8 acc → done (.std x b i) 8 4) ∧
     (AtIssue s (s.x b) 8 acc → done (.cStx x b) 8 2) ∧
     (AtIssue s (s.x 2 + ofN (8 * k.toNat)) 8 acc → done (.cSst x k) 8 2) ∧
     (AtIssue s (s.x 3 + ofN (8 * k.toNat)) 8 acc → done (.cPst x k) 8 2) ∧
     (AtIssue s (s.x 2 + ofN (4 * k.toNat)) 4 acc → done (.cSsw x k) 4 2)) ∧
  (∀ (s : State) (x b : BitVec 5) (i : BitVec 14) (k : BitVec 5) (acc : Acc),
     let ea := s.ea b i
     let done := fun (ins : Instr) (ea : Word) (n len : Nat) =>
       let s1 := s.useRtb s.cur ea.toNat n kindW
       Runs ins s fun t => SameBytes s t ∧ CachesOnly s s1 ∧ OnlyMe s1 t ∧
         t.me.journal = s.me.journal ++ [.store acc.loc acc.key ea ((leBytes n (s.x x).toNat).map some) (8 + alignUp 8 n) []
           acc.rng.uncached] ∧
         t.me.jcnt = s.me.jcnt + (8 + alignUp 8 n) ∧ t.me.pc = (s.me.next len).pc ∧ (∀ r, t.x r = (s.me.next len).getX r)
     (IntoJournal s ea 1 acc → done (.stb x b i) ea 1 4) ∧ (IntoJournal s ea 2 acc → done (.sth x b i) ea 2 4) ∧
     (IntoJournal s ea 4 acc → done (.stw x b i) ea 4 4) ∧ (IntoJournal s ea 8 acc → done (.std x b i) ea 8 4) ∧
     (IntoJournal s (s.x b) 8 acc → done (.cStx x b) (s.x b) 8 2) ∧
     (IntoJournal s (s.x 2 + ofN (8 * k.toNat)) 8 acc → done (.cSst x k) (s.x 2 + ofN (8 * k.toNat)) 8 2) ∧
     (IntoJournal s (s.x 3 + ofN (8 * k.toNat)) 8 acc → done (.cPst x k) (s.x 3 + ofN (8 * k.toNat)) 8 2) ∧
     (IntoJournal s (s.x 2 + ofN (4 * k.toNat)) 4 acc → done (.cSsw x k) (s.x 2 + ofN (4 * k.toNat)) 4 2))

/-- R24: the journal is read back: the youngest journaled doubleword gives each byte at its location, and no byte outside it.
R26: after a partial commit NR is set with its cause, JCNT is 0, the journal is empty, and memory holds the youngest journaled byte
of each location of plaintext memory and elsewhere what it held. R24, R26, R247: an AMOADD by an activation with NR clear performs
that commit first, with cause ACTION, and then its own effect. -/
def Obligations.JournalRules : Prop :=
  (∀ (j : List JEntry) (loc key : Nat) (va : Word) (v : Word) (cost : Nat) (xs : List Nat) (unc : Bool),
     (∀ i, i < 8 → journalByte (j ++ [.store loc key va ((wordBytes v).map some) cost xs unc]) (loc + i) = (wordBytes v)[i]?) ∧
     (∀ l, l < loc ∨ loc + 8 ≤ l →
       journalByte (j ++ [.store loc key va ((wordBytes v).map some) cost xs unc]) l = journalByte j l)) ∧
  (∀ (s : State) (a : Agent) (cause : Nat), cause < 4 → a.isAct = true → (s.thread a).wait = none →
     let t := (s.partialCommit a cause).thread a
     t.nr = true ∧ t.jcnt = 0 ∧ t.journal = [] ∧ field t.actst 3 2 = cause ∧ field t.actst 0 2 = field (s.thread a).actst 0 2 ∧
     t.x = (s.thread a).x ∧ t.pc = (s.thread a).pc) ∧
  (∀ (s : State) (a : Agent) (cause : Nat),
     (∀ loc key va bs cost xs unc, JEntry.store loc key va bs cost xs unc ∈ (s.thread a).journal →
       key = 0 ∧ ∀ i, i < bs.length → placeOf (loc + i) = .ulm ∨ ∃ h, placeOf (loc + i) = .hbm h) →
     ∀ l, Memory.read (s.partialCommit a cause).mem l = (journalByte (s.thread a).journal l).getD (Memory.read s.mem l)) ∧
  (∀ (s : State) (d a b o : BitVec 5) (acc : Acc) (bs : List Byte),
     let s1 := s.partialCommit s.cur 2
     s.holds s.cur = true → s.commitBlocked s.cur = false → s1.sendPending s.cur = false →
     s.atomPlace (s.x a) 8 8 = .ok acc → s.blocked acc.loc 8 true = false → s.acrossBridge s.cur.dieNo acc.loc = false →
     s.fenceWaits s.cur (State.ordKind o) (State.ordScope o) = false → acc.key = 0 →
     (placeOf acc.loc = .ulm ∨ ∃ h, placeOf acc.loc = .hbm h) → s1.readVia s1 s.cur acc (s.x a) 8 = .ok bs →
     Runs (.amoadd d a b o) s fun t =>
       t.me.nr = true ∧ t.me.journal = [] ∧ Stored s1 t acc.loc (wordBytes (bytesWord bs + s.x b)) ∧
       (∀ r, t.x r = ((s.me.setX d (bytesWord bs)).next 4).getX r) ∧ t.pc = ((s.me.setX d (bytesWord bs)).next 4).pc)

/-- R122, R48, R52: a taken branch goes to its own address plus the offset, one that is not taken completes; neither writes a
register, a flag or memory; the words of the eight branches. R57: the two compact branches. R123, R57: JAL, JALR and the compact
jumps write the address of the next instruction to the link register and go to the target; a register-relative jump to an odd
target takes MISALIGNED with TVAL the target and writes no register. -/
def Obligations.ControlTransfers : Prop :=
  (∀ (s : State) (a b : BitVec 5) (o : BitVec 11) (c : BitVec 5),
     let A := s.x a
     let B := s.x b
     let at4 := s.pc + o.signExtend 64 * 2
     let toC := s.pc + c.signExtend 64 * 2
     let goes := fun (ins : Instr) (cond : Prop) (target : Word) (len : Nat) =>
       (cond → Runs ins s (Jumped s 0 0 target)) ∧ (¬ cond → Runs ins s (Advanced s len))
     goes (.beq a b o) (A = B) at4 4 ∧ goes (.bne a b o) (A ≠ B) at4 4 ∧
     goes (.blt a b o) (A.toInt < B.toInt) at4 4 ∧ goes (.bge a b o) (B.toInt ≤ A.toInt) at4 4 ∧
     goes (.bltu a b o) (A.toNat < B.toNat) at4 4 ∧ goes (.bgeu a b o) (B.toNat ≤ A.toNat) at4 4 ∧
     goes (.bbs a b o) (A.getLsbD (B.toNat % 64) = true) at4 4 ∧ goes (.bbc a b o) (A.getLsbD (B.toNat % 64) = false) at4 4 ∧
     goes (.cBeqz a c) (A = 0) toC 2 ∧ goes (.cBnez a c) (A ≠ 0) toC 2 ∧
     (let word := fun (cond : BitVec 3) => Enc.full (0xD7#8 ++ cond ++ a ++ b ++ o)
      encode (.beq a b o) = word 0 ∧ encode (.bne a b o) = word 1 ∧ encode (.blt a b o) = word 2 ∧ encode (.bge a b o) = word 3 ∧
      encode (.bltu a b o) = word 4 ∧ encode (.bgeu a b o) = word 5 ∧ encode (.bbs a b o) = word 6 ∧ encode (.bbc a b o) = word 7)) ∧
  (∀ (s : State) (d a : BitVec 5) (i : BitVec 14) (o : BitVec 19) (c : BitVec 10),
     let t := s.x a + i.signExtend 64
     Runs (.jal d o) s (Jumped s d (s.pc + 4) (s.pc + o.signExtend 64 * 2)) ∧
     Runs (.cJ c) s (Jumped s 0 (s.pc + 2) (s.pc + c.signExtend 64 * 2)) ∧
     Runs (.cJal c) s (Jumped s 1 (s.pc + 2) (s.pc + c.signExtend 64 * 2)) ∧
     (t.getLsbD 0 = false → Runs (.jalr d a i) s (Jumped s d (s.pc + 4) t)) ∧
     ((s.x a).getLsbD 0 = false → Runs (.cJmpr a) s (Jumped s 0 (s.pc + 2) (s.x a))) ∧
     ((s.x a).getLsbD 0 = false → Runs (.cCallr a) s (Jumped s 1 (s.pc + 2) (s.x a))) ∧
     (Servable s → t.getLsbD 0 = true → Runs (.jalr d a i) s (HeldByTrap s Cause.misaligned t)) ∧
     (Servable s → (s.x a).getLsbD 0 = true →
       ∀ ins ∈ [Instr.cJmpr a, .cCallr a], Runs ins s (HeldByTrap s Cause.misaligned (s.x a))))

/-- R124: LOOP with a count opens the loop frame over PC + 4 to its last instruction; with count 0 it goes past the last
instruction, whose length its first halfword gives, and the frame is inactive. R58, R37: YIELD advances and steps a T0 to T5
thread back in the next issue choice: another ready thread of the six comes first, T7 and T6 before all. -/
def Obligations.LoopAndYield : Prop :=
  (∀ (s : State) (d : BitVec 5) (i : BitVec 14),
     let last := s.pc + i.signExtend 64 * 2
     (s.x d ≠ 0 → Runs (.loopI d i) s fun t => OnlyMe s t ∧
       t.me = { s.me with loopStart := s.pc + 4, loopLast := last, loopReg := d, loopActive := true, pc := s.pc + 4 }) ∧
     (s.x d = 0 → ∀ s1 bs, s.fetchBlock s.cur last = .ok (s1, bs) → Runs (.loopI d i) s fun t =>
       t.pc = last + (if (halfAt bs (last.toNat % 32)).extractLsb' 14 2 = 3 then 4 else 2) ∧ t.me.loopActive = false ∧
       (∀ r, t.x r = s.x r) ∧ SameBytes s t)) ∧
  ((∀ s : State, Runs .yield s fun t => OnlyMe s t ∧ t.me = { s.me with yielded := s.cur.isAct }.next 2) ∧
   ∀ (s : State) (c : Nat),
     (s.ready (.thr c 7) = true → s.choose c = some (.thr c 7)) ∧
     (s.ready (.thr c 7) = false → s.ready (.thr c 6) = true → s.choose c = some (.thr c 6)) ∧
     (∀ i, s.choose c = some (.thr c i) → i < 6 → s.ready (.thr c 7) = false ∧ s.ready (.thr c 6) = false ∧
       s.ready (.thr c i) = true ∧
       ((s.thread (.thr c i)).yielded = true → ∀ k, k < 6 → s.ready (.thr c k) = true → (s.thread (.thr c k)).yielded = true)))

/-! ### Floating point (R126 to R129) -/

/-- R126 to R129, R97, R114: on a thread, with registers that no stream binds, every FP instruction writes its result and raises its
flags; an FP32 result leaves bits [63:32] zero. With no raised flag enabled it completes; with one enabled it takes FP_TRAP once, with EPC
or UTEPC the next instruction and TVAL this one. -/
def Obligations.FloatResults : Prop :=
  ∀ (s : State) (d a b : BitVec 5) (r : BitVec 3) (f : BitVec 1) (k : BitVec 5),
    let F := fpFmt f
    let A := fpCode f (s.f a)
    let B := fpCode f (s.f b)
    let C := fpCode f (s.f d)
    let m := s.roundMode r
    let done := fun (ins : Instr) (q : Nat × FFlags) => FlagRuns ins s (fun t => t.setF d (ofN q.1)) q.2
    let doneX := fun (ins : Instr) (q : Word × FFlags) => FlagRuns ins s (fun t => t.setX d q.1) q.2
    s.cur.isThr = true → s.me.slotOf false a = none → s.me.slotOf false b = none → s.me.slotOf false d = none →
    done (.fadd d a b r f) (F.add m A B) ∧ done (.fsub d a b r f) (F.sub m A B) ∧ done (.fmul d a b r f) (F.mul m A B) ∧
    done (.fdiv d a b r f) (F.div m A B) ∧ done (.fsqrt d a r f) (F.sqrt m A) ∧
    done (.fma d a b r f) (F.fma m A B C) ∧ done (.fms d a b r f) (F.fms m A B C) ∧ done (.fnma d a b r f) (F.fnma m A B C) ∧
    done (.fmin d a b f) (F.minMax false A B) ∧ done (.fmax d a b f) (F.minMax true A B) ∧
    doneX (.fcmpEq d a b f) (b2w (fcmp 0 (F.decode A) (F.decode B)).1, (fcmp 0 (F.decode A) (F.decode B)).2) ∧
    doneX (.fcmpLt d a b f) (b2w (fcmp 1 (F.decode A) (F.decode B)).1, (fcmp 1 (F.decode A) (F.decode B)).2) ∧
    doneX (.fcmpLe d a b f) (b2w (fcmp 2 (F.decode A) (F.decode B)).1, (fcmp 2 (F.decode A) (F.decode B)).2) ∧
    doneX (.fcmpUn d a b f) (b2w (fcmp 3 (F.decode A) (F.decode B)).1, (fcmp 3 (F.decode A) (F.decode B)).2) ∧
    doneX (.fclass d a f) (F.classWord A, 0) ∧
    done (.fcvtS d a r) ((roundFP fp32 m false (fp64.decode (s.f a).toNat)).1,
      (fp64.decode (s.f a).toNat).snan ||| (roundFP fp32 m false (fp64.decode (s.f a).toNat)).2) ∧
    done (.fcvtD d a) ((roundFP fp64 0 false (fp32.decode ((s.f a).toNat % 2 ^ 32))).1, (fp32.decode ((s.f a).toNat % 2 ^ 32)).snan) ∧
    doneX (.fcvti d a k r f) (ofI (convInt m (kindLo k.toNat) (kindHi k.toNat) (F.decode A)).1,
      (convInt m (kindLo k.toNat) (kindHi k.toNat) (F.decode A)).2.1) ∧
    done (.fcvtf d a k r f) (roundFP F m false (Num.ofInt (kindValue k.toNat (s.x a)))) ∧
    doneX (.fmvxf d a f) (if f = 1 then ((s.f a).extractLsb' 0 32).signExtend 64 else s.f a, 0) ∧
    done (.fmvfx d a f) (if f = 1 then (s.x a).toNat % 2 ^ 32 else (s.x a).toNat, 0) ∧
    done (.fsgn d a b f) (fsgnBits f (fun _ y => y) A B) ∧ done (.fsgnn d a b f) (fsgnBits f (fun _ y => !y) A B) ∧
    done (.fsgnx d a b f) (fsgnBits f (fun x y => x != y) A B)

/-- R128: a comparison: on two numbers it compares their values, with -0 equal to +0 and the infinities at the ends; a NaN gives 0, but for
fcmp.un; lt and le raise NV on any NaN, eq and un on a signalling one. FMIN and FMAX order -0 below +0, pass over one NaN, give the
canonical NaN for two, and raise NV on a signalling one. R94: rounding m / 2^d to an integer: to nearest with ties to even, toward zero,
down, up, and to nearest with ties away, on the magnitude of a number with the given sign; and when it is inexact. -/
def Obligations.FloatRules : Prop :=
  ((∀ x y : Sys2Proof.Machine.Num, x.isNan = true ∨ y.isNan = true →
     (fcmp 0 x y).1 = false ∧ (fcmp 1 x y).1 = false ∧ (fcmp 2 x y).1 = false ∧ (fcmp 3 x y).1 = true ∧
     (fcmp 1 x y).2 = Flag.nv ∧ (fcmp 2 x y).2 = Flag.nv) ∧
   (∀ x y : Sys2Proof.Machine.Num,
     let nv := if x = .nan true ∨ y = .nan true then Flag.nv else 0
     (fcmp 0 x y).2 = nv ∧ (fcmp 3 x y).2 = nv) ∧
   (∀ x y : Sys2Proof.Machine.Num, x.isNan = false → y.isNan = false →
     (fcmp 3 x y).1 = false ∧ (∀ c, (fcmp c x y).2 = 0) ∧
     ((fcmp 2 x y).1 = true ↔ (fcmp 1 x y).1 = true ∨ (fcmp 0 x y).1 = true)) ∧
   (∀ (n n' : Bool) (m m' : Nat) (e e' : Int),
     let value := fun (n : Bool) (m : Nat) (e : Int) => (if n then -1 else 1 : ℚ) * (m : ℚ) * (2 : ℚ) ^ e
     let v := value n m e
     let w := value n' m' e'
     let x := Sys2Proof.Machine.Num.real n m e false
     let y := Sys2Proof.Machine.Num.real n' m' e' false
     ((fcmp 0 x y).1 = true ↔ v = w) ∧ ((fcmp 1 x y).1 = true ↔ v < w) ∧ ((fcmp 2 x y).1 = true ↔ v ≤ w)) ∧
   (∀ (n n' : Bool) (m : Nat) (e : Int) (more : Bool),
     let x := Sys2Proof.Machine.Num.real n m e more
     let i := Sys2Proof.Machine.Num.inf n'
     let j := Sys2Proof.Machine.Num.inf n
     (fcmp 0 x i).1 = false ∧ (fcmp 0 i x).1 = false ∧ (fcmp 1 x i).1 = !n' ∧ (fcmp 1 i x).1 = n' ∧
     (fcmp 0 j i).1 = (n == n') ∧ (fcmp 1 j i).1 = (n && !n')) ∧
   (∀ (f : Fmt) (a b : Nat),
     let x := f.decode a
     let y := f.decode b
     let lo := f.minMax false a b
     let hi := f.minMax true a b
     (x.isNan = true → y.isNan = true → lo.1 = f.qnan ∧ hi.1 = f.qnan) ∧
     (x.isNan = true → y.isNan = false → lo.1 = b ∧ hi.1 = b) ∧
     (x.isNan = false → y.isNan = true → lo.1 = a ∧ hi.1 = a) ∧
     ((fcmp 1 x y).1 = true → lo.1 = a ∧ hi.1 = b) ∧ ((fcmp 1 y x).1 = true → lo.1 = b ∧ hi.1 = a) ∧
     ((fcmp 0 x y).1 = true → x.neg = true → y.neg = false → lo.1 = a ∧ hi.1 = b) ∧
     ((fcmp 0 x y).1 = true → x.neg = false → y.neg = true → lo.1 = b ∧ hi.1 = a) ∧
     let nv := if x = .nan true ∨ y = .nan true then Flag.nv else 0
     lo.2 = nv ∧ hi.2 = nv)) ∧
  (∀ (neg : Bool) (m d : Nat),
     let near := fun q : Nat => 2 * (q * 2 ^ d) ≤ 2 * m + 2 ^ d ∧ 2 * m ≤ 2 * (q * 2 ^ d) + 2 ^ d
     let r := fun mode => (roundShift mode neg m d false).1
     (near (r 0) ∧ (m % 2 ^ d * 2 = 2 ^ d → r 0 % 2 = 0)) ∧
     (r 1 * 2 ^ d ≤ m ∧ m < (r 1 + 1) * 2 ^ d) ∧
     (neg = false → r 2 = r 1) ∧ (neg = true → m ≤ r 2 * 2 ^ d ∧ r 2 * 2 ^ d < m + 2 ^ d) ∧
     (neg = true → r 3 = r 1) ∧ (neg = false → m ≤ r 3 * 2 ^ d ∧ r 3 * 2 ^ d < m + 2 ^ d) ∧
     (near (r 4) ∧ (m % 2 ^ d * 2 = 2 ^ d → m ≤ r 4 * 2 ^ d)) ∧
     ∀ mode, ((roundShift mode neg m d false).2 = true ↔ m % 2 ^ d ≠ 0))

/-- R113, R141, R60: the FP instructions with their loads and stores, the vector and predicate instructions, TRAP, UTRET, WAIT, ERET, HALT,
MIGRATE and SCANRUN issued by a sequencer take ILLEGAL_ISSUER; ERET, HALT and SCANRUN issued by T0 to T6 take PRIVILEGE; WAIT and MIGRATE
issued by T6, TRAP, UTRET and MIGRATE issued by T7, and MIGRATE of a resident activation take ILLEGAL_ISSUER; TVAL is the instruction
word. -/
def Obligations.IssuerChecks : Prop :=
  ∀ (s : State) (d a b k : BitVec 5) (r q : BitVec 3) (f : BitVec 1) (y z : BitVec 2) (c : BitVec 4) (i : BitVec 14),
    let illegal := fun (ins : Instr) => Runs ins s fun t => t = s.raise ⟨Cause.illegalIssuer, (encode ins).word, 0⟩
    let service := [Instr.eretResume, .eretPreempt, .eretPark, .eretRetake, .eretKill, .eretUnpark, .halt, .scanrun d a]
    (s.cur.isSeq = true →
      (∀ ins ∈ [Instr.fadd d a b r f, .fsub d a b r f, .fmul d a b r f, .fdiv d a b r f, .fsqrt d a r f, .fma d a b r f, .fms d a b r f,
        .fnma d a b r f, .fmin d a b f, .fmax d a b f, .fcmpEq d a b f, .fcmpLt d a b f, .fcmpLe d a b f, .fcmpUn d a b f,
        .fclass d a f, .fcvtS d a r, .fcvtD d a, .fcvti d a k r f, .fcvtf d a k r f, .fmvxf d a f, .fmvfx d a f, .fsgn d a b f,
        .fsgnn d a b f, .fsgnx d a b f, .fldw d a i, .fldd d a i, .fstw d b i, .fstd d b i], illegal ins) ∧
      (∀ ins ∈ [Instr.pand d a b, .por d a b, .pxor d a b, .pnot d a, .pset d a z, .pcnt d a z, .pfirst d a z], illegal ins) ∧
      (∀ ins ∈ [Instr.vadd d a b r z, .vsub d a b r z, .vmul d a b r z, .vmulh d a b r z, .vmadd d a b r z, .vand d a b r z,
        .vor d a b r z, .vxor d a b r z, .vsll d a b r z, .vsrl d a b r z, .vsra d a b r z, .vmin d a b r z, .vmax d a b r z,
        .vminu d a b r z, .vmaxu d a b r z, .vabs d a r z, .vadds d a b r z, .vsubs d a b r z, .vcmp y q a b r z, .vsel d a b r z,
        .vdot4 d a b r, .vtdot4 d a b r, .vpopc d a r z, .vmv d a r z, .vfadd d a b r z, .vfsub d a b r z, .vfmul d a b r z,
        .vfma d a b r z, .vfms d a b r z, .vfmin d a b r z, .vfmax d a b r z, .vfdiv d a b r z, .vfsqrt d a r z, .vfrcp d a r z,
        .vfrsq d a r z, .vfcmp y q a b r z, .vld d a r z, .vlds d a b r z, .vgath d a b r z, .vst d a r z, .vsts d a b r z,
        .vscat d a b r z, .vldb d a b, .vredsum d a k r z, .vredmin d a k r z, .vredmax d a k r z, .vscan d a k r z,
        .vperm d a b r z, .vbcast d a r z, .vslide d a b r z, .vins d a b z, .vext d a b z, .vzip d a b r z, .vcvt d a c r z,
        .vnarrow d a f c r z, .vwiden d a f c r z, .unpk3 d a b q, .unpk4 d a b r z, .vpwl d a b r, .vsupd d a b r, .vprune d a q], illegal ins) ∧
      (∀ ins ∈ [Instr.trap a, .utret, .waitI a, .migrate a], illegal ins) ∧ ∀ ins ∈ service, illegal ins) ∧
    (Servable s → ∀ ins ∈ service, Runs ins s (HeldByTrap s Cause.privilege (encode ins).word)) ∧
    (Servable s → s.cur.tid = 6 → ∀ ins ∈ [Instr.waitI a, .migrate a],
      Runs ins s (HeldByTrap s Cause.illegalIssuer (encode ins).word)) ∧
    (Servable s → s.cur.isAct = true → s.me.resident = true →
      Runs (.migrate a) s (HeldByTrap s Cause.illegalIssuer (encode (.migrate a)).word)) ∧
    (s.cur.isT7 = true → ∀ ins ∈ [Instr.trap a, .utret, .migrate a], illegal ins)

/-- R137: OXLD and OXST move n + 1 doublewords at a multiple of 8; OXSET copies a register; a load that faults on one of its
doublewords leaves every ox register. In the executing agent's own local memory, which no engine owns and no error has struck, all
three complete on conditions of the state and the operands alone: OXLD gives the doublewords of memory, in place of which the
journal's entries give the youngest of the thread's stores; OXST, of a form that is not journaled, puts the ox registers there and
leaves every other byte; of a form that is, it records one entry of 16 bytes for each doubleword in the journal (R24, R25). -/
def Obligations.OperandExtension : Prop :=
  ((∀ (s : State) (d a : BitVec 5), exec (.oxset d a) s = .next ((s.modMe fun t => t.setOx d.toNat (s.x a)).adv 4)) ∧
   (∀ (s : State) (d a : BitVec 5) (n : BitVec 3),
     let l := s.cur.localLoc (s.x a).toNat
     (s.x a).toNat % 8 = 0 → (s.x a).toNat + 8 * (n.toNat + 1) ≤ s.cur.window →
     (∀ i, i ≤ n.toNat → s.blocked (l + 8 * i) 8 false = false ∧ s.poisoned (l + 8 * i) 8 = false) →
     ∃ t, exec (.oxld d a n) s = .next t ∧ OnlyMe s t ∧ t.pc = (s.me.next 4).pc ∧ (∀ r, t.x r = (s.me.next 4).getX r) ∧
       ∀ k, t.ox k = if d.toNat ≤ k ∧ k < d.toNat + (n.toNat + 1) then
           bytesWord ((List.range 8).map fun j => (journalByte s.me.journal (l + 8 * (k - d.toNat) + j)).getD
             (Memory.read s.mem (l + 8 * (k - d.toNat) + j)))
         else s.ox k) ∧
   (∀ (s : State) (a b : BitVec 5) (n : BitVec 3),
     let l := s.cur.localLoc (s.x b).toNat
     (s.x b).toNat % 8 = 0 → (s.x b).toNat + 8 * (n.toNat + 1) ≤ s.cur.window →
     (∀ i, i ≤ n.toNat → s.storeRefused s.cur (l + 8 * i) = false ∧ s.journaled s.cur (l + 8 * i) = false ∧
       s.blocked (l + 8 * i) 8 true = false ∧ s.acrossBridge s.cur.dieNo (l + 8 * i) = false) →
     ∃ t, exec (.oxst a b n) s = .next t ∧ StoreFrame s t ∧ t.me = s.me.next 4 ∧
       Stored s t l ((List.range (n.toNat + 1)).flatMap fun i => wordBytes (s.ox (a.toNat + i))))) ∧
  (∀ (s : State) (d a : BitVec 5) (n : BitVec 3) (ws : List Word), (s.x a).toNat % 8 = 0 → s.loadWords (s.x a) (n.toNat + 1) = .ok ws →
    Runs (.oxld d a n) s fun t => CachesOnly s (s.touchWords (s.x a) (n.toNat + 1)) ∧ OnlyMe (s.touchWords (s.x a) (n.toNat + 1)) t ∧
      t.pc = (s.me.next 4).pc ∧ (∀ r, t.x r = (s.me.next 4).getX r) ∧
      ∀ k, t.ox k = if d.toNat ≤ k ∧ k < d.toNat + (n.toNat + 1) then ws.getD (k - d.toNat) 0 else s.ox k) ∧
  (∀ (s : State) (d a : BitVec 5) (n : BitVec 3), Servable s → (s.x a).toNat % 8 ≠ 0 →
    ∀ i ∈ [Instr.oxld d a n, .oxst d a n], Runs i s (HeldByTrap s Cause.misaligned (s.x a))) ∧
  (∀ (s : State) (d a : BitVec 5), Runs (.oxset d a) s (ThreadStep s (fun t => t.setOx d.toNat (s.x a)) 4)) ∧
  (∀ (s : State) (a b : BitVec 5) (n : BitVec 3) (rs : List StoreReq), (s.x b).toNat % 8 = 0 →
    s.storeWords (s.x b) ((List.range (n.toNat + 1)).map fun i => s.ox (a.toNat + i)) = .ok rs →
    (AllJournaled s rs → Runs (.oxst a b n) s (Recorded s rs)) ∧
    (rs.map (·.bs) = (List.range (n.toNat + 1)).map fun i => (wordBytes (s.ox (a.toNat + i))).map some) ∧
    (rs.map (·.va) = (List.range (n.toNat + 1)).map fun i => s.x b + ofN (8 * i)) ∧ (∀ r ∈ rs, r.cost = 16) ∧
    ((∀ r ∈ rs, s.journaled s.cur r.acc.loc = false ∧ s.blocked r.acc.loc 8 true = false ∧ r.acc.key = 0 ∧
      s.acrossBridge s.cur.dieNo r.acc.loc = false ∧ placeOf r.acc.loc = .ulm) →
    Runs (.oxst a b n) s fun t => StoreFrame s t ∧ t.me = s.me.next 4 ∧ rs.length = n.toNat + 1 ∧
      ∀ l, (∀ r ∈ rs, l < r.acc.loc ∨ r.acc.loc + 8 ≤ l) → Memory.read t.mem l = Memory.read s.mem l))

/-- R163: the predicate instructions on a thread: PAND, POR, PXOR and PNOT bit by bit, PSET by lanes; PCNT and PFIRST count and
find active lanes; a write to p0 is discarded. -/
def Obligations.PredicateResults : Prop :=
  ∀ (s : State) (d a b : BitVec 5) (z : BitVec 2),
    let L := 128 / 2 ^ z.toNat
    let lane := fun (p : PReg) (i : Nat) => p.getLsbD (2 ^ z.toNat * i)
    s.cur.isThr = true →
    Runs (.pand d a b) s (ThreadStep s (fun t => t.setP d.toNat (s.p a &&& s.p b)) 4) ∧
    Runs (.por d a b) s (ThreadStep s (fun t => t.setP d.toNat (s.p a ||| s.p b)) 4) ∧
    Runs (.pxor d a b) s (ThreadStep s (fun t => t.setP d.toNat (s.p a ^^^ s.p b)) 4) ∧
    Runs (.pnot d a) s (ThreadStep s (fun t => t.setP d.toNat (~~~ s.p a)) 4) ∧
    (∃ v : PReg, Runs (.pset d a z) s (ThreadStep s (fun t => t.setP d.toNat v) 4) ∧
      ∀ j, j < 128 → v.getLsbD j = decide (j / 2 ^ z.toNat < (s.x a).toNat)) ∧
    Runs (.pcnt d a z) s (RegStep s d (ofN ((List.range L).filter (lane (s.p a))).length) 4) ∧
    (∃ n, Runs (.pfirst d a z) s (RegStep s d (ofN n) 4) ∧ n ≤ L ∧ (∀ i, i < n → lane (s.p a) i = false) ∧
      (n < L → lane (s.p a) n = true))

/-! ### Atomics, fences and cache maintenance (R241 to R247) -/

/-- R247, R246, R26: an atomic on plaintext memory, by an agent whose actions are not held (T6, T7, a sequencer, or an activation
with NR set) and with nothing in its way, reads the doubleword, writes the new value in the same step and gives the old one in
X[d]; every other byte reads as before; without release order the caches and clocks of a store are all that differs beside. -/
def Obligations.AtomicResults : Prop :=
  ∀ (s : State) (d a b o : BitVec 5) (acc : Acc) (bs : List Byte),
    let B := s.x b
    let old := bytesWord bs
    let done := fun (ins : Instr) (new : Word) =>
      Runs ins s fun t => Stored s t acc.loc (wordBytes new) ∧ (∀ r, t.x r = ((s.me.setX d old).next 4).getX r) ∧
        t.pc = ((s.me.setX d old).next 4).pc ∧ (State.ordKind o < 2 → StoreFrame s t)
    s.atomPlace (s.x a) 8 8 = .ok acc → s.blocked acc.loc 8 true = false → s.acrossBridge s.cur.dieNo acc.loc = false →
    s.fenceWaits s.cur (State.ordKind o) (State.ordScope o) = false → s.holds s.cur = false → s.sendPending s.cur = false →
    acc.key = 0 → (placeOf acc.loc = .ulm ∨ ∃ h, placeOf acc.loc = .hbm h) → s.readVia s s.cur acc (s.x a) 8 = .ok bs →
    done (.amoadd d a b o) (old + B) ∧ done (.amoand d a b o) (old &&& B) ∧ done (.amoor d a b o) (old ||| B) ∧
    done (.amoxor d a b o) (old ^^^ B) ∧ done (.amomin d a b o) (if old.toInt < B.toInt then old else B) ∧
    done (.amomax d a b o) (if old.toInt < B.toInt then B else old) ∧
    done (.amominu d a b o) (if old.toNat < B.toNat then old else B) ∧
    done (.amomaxu d a b o) (if old.toNat < B.toNat then B else old) ∧ done (.amoswap d a b o) B ∧
    (old = s.x d → done (.cas d a b o) B) ∧
    (old ≠ s.x d → Runs (.cas d a b o) s fun t => SameBytes s t ∧ (∀ r, t.x r = ((s.me.setX d old).next 4).getX r) ∧
      t.pc = ((s.me.setX d old).next 4).pc ∧ (State.ordKind o < 2 → StoreFrame s t))

/-- R242 to R245: a fence with nothing to commit and nothing to wait for, a cache operation whose lines translate, and IFENCE
complete; a cache operation, of device scope once the bridge is not retraining (R437), writes the number of bytes of its interval, at most
2^20, to X[d]. DCWB leaves no dirty sector of a
global line of the interval in an L1 that its scope covers, DCFL and DCINV no copy there at all; none of them but DCINV changes a
byte of memory, and DCINV none beside those of the dirty sectors of the interval, in those L1s. After DCFL the pending queues of regions
whose RCB has V = 0 are empty, which is the model's choice (log entry 55). -/
def Obligations.FencesAndCaches : Prop :=
  ∀ (s : State) (d a b : BitVec 5) (k z : BitVec 3),
    let n := ofN (min (s.x b).toNat 0x100000)
    let lines := State.linesOf (s.x a) (min (s.x b).toNat 0x100000)
    let reached := (s.retraining && decide (z.toNat = 4)) = false
    let within := fun (ls : List (Word × Option Nat)) (x : Nat) =>
      ∃ l p h, (l, some p) ∈ ls ∧ homeDie p = some h ∧ x ∈ sectorsOf (alignDown 128 p) 128
    (s.me.journal = [] → s.sendPending s.cur = false → s.fenceWaits s.cur k.toNat z.toNat = false →
      Runs (.fence k z) s fun t => SameBytes s t ∧ Passes s t) ∧
    Runs .ifence s (fun t => SameBytes s t ∧ t.me.fbuf = none ∧ t.pc = (s.me.next 4).pc ∧ ∀ r, t.x r = (s.me.next 4).getX r) ∧
    (∀ ls, reached → s.lineAccs kindX lines = .ok ls → Runs (.icinv d a b z) s fun t =>
      SameBytes s t ∧ (∀ r, t.x r = ((s.me.setX d n).next 4).getX r) ∧ t.pc = ((s.me.setX d n).next 4).pc) ∧
    (∀ ls, reached → s.lineAccs kindR lines = .ok ls →
      (Runs (.dcwb d a b z) s fun t => (∃ u, CachesOnly s u ∧ RegStep u d n 4 t) ∧
        ∀ x, within ls x → ∀ c ∈ State.scopeCores s.cur z.toNat, (t.l1Of c x).dirty = false) ∧
      (Runs (.dcfl d a b z) s fun t => (∃ u v, CachesOnly s u ∧ RegStep u d n 4 v ∧ t = v.emptyPends s.myPart) ∧
        ∀ x, within ls x → ∀ c ∈ State.scopeCores s.cur z.toNat, (t.l1Of c x).valid = false)) ∧
    (∀ ls, reached → s.cur.isT7 = true → s.lineAccs kindW lines = .ok ls → Runs (.dcinv d a b z) s fun t =>
      (∀ r, t.x r = ((s.me.setX d n).next 4).getX r) ∧ t.pc = ((s.me.setX d n).next 4).pc ∧
      (∀ x, within ls x → ∀ c ∈ State.scopeCores s.cur z.toNat, (t.l1Of c x).valid = false) ∧
      ∀ l, (¬ within ls (l / 32) ∨ ∀ c ∈ State.scopeCores s.cur z.toNat, (s.l1Of c (l / 32)).dirty = false) →
        Memory.read t.mem l = Memory.read s.mem l) ∧
    (Servable s → Runs (.dcinv d a b z) s (HeldByTrap s Cause.privilege (encode (.dcinv d a b z)).word))

/-! ### System registers and system instructions (R74 to R85, R130 to R136) -/

/-- R74, R78, R79: MFS reads a register that the agent's privilege may read, with no other effect; an unassigned number is
ILLEGAL_INSTRUCTION and a forbidden access PRIVILEGE, with TVAL the instruction word. R79 to R85: MTS writes a thread's own
register field by field: RM only with an assigned mode, reserved and read-only bits kept; a write to HTAB by T7 changes its base
field alone; a read-only register is PRIVILEGE. -/
def Obligations.SystemRegisters : Prop :=
  (∀ (s : State) (d : BitVec 5) (n : BitVec 12),
     (∀ r acc, State.sysReg n.toNat = some (r, acc) → s.mayAccess s.cur acc false = true →
       Runs (.mfs d n) s (RegStep s d (s.readSys r) 4)) ∧
     (Servable s → State.sysReg n.toNat = none →
       Runs (.mfs d n) s (HeldByTrap s Cause.illegalInstruction (encode (.mfs d n)).word)) ∧
     (∀ r acc, Servable s → State.sysReg n.toNat = some (r, acc) → s.mayAccess s.cur acc false = false →
       Runs (.mfs d n) s (HeldByTrap s Cause.privilege (encode (.mfs d n)).word)) ∧
     (Servable s →
       Runs (.mfs d 0x001) s (RegStep s d s.me.fcsr 4) ∧ Runs (.mfs d 0x003) s (RegStep s d s.me.actid 4) ∧
       Runs (.mfs d 0x00A) s (RegStep s d s.pc 4) ∧ Runs (.mfs d 0x102) s (HeldByTrap s Cause.privilege (encode (.mfs d 0x102)).word) ∧
       Runs (.mfs d 0x200) s (HeldByTrap s Cause.privilege (encode (.mfs d 0x200)).word))) ∧
  (∀ (s : State) (a : BitVec 5),
     let v := s.x a
     Runs (.mts a 0x001) s (ThreadStep s (fun t =>
       { t with fcsr := State.maskIn t.fcsr v (if v.toNat % 8 ≤ 4 then 0x1F1F07 else 0x1F1F00) }) 4) ∧
     Runs (.mts a 0x002) s (ThreadStep s (fun t => { t with vcsr := State.maskIn t.vcsr v 0x3F7 }) 4) ∧
     Runs (.mts a 0x008) s (ThreadStep s (fun t => { t with utvec := v }) 4) ∧
     Runs (.mts a 0x009) s (ThreadStep s (fun t => { t with utepc := v }) 4) ∧
     (∀ c, s.cur = .thr c 7 → s.sendPending s.cur = false → Runs (.mts a 0x200) s fun t =>
       (t.getCore c).htab = State.maskIn (s.getCore c).htab v 0xFFF80 ∧ SameBytes s t ∧ t.me = s.me.next 4) ∧
     (Servable s → Runs (.mts a 0x003) s (HeldByTrap s Cause.privilege (encode (.mts a 0x003)).word)) ∧
     ∀ (old new mask : Word) (i : Nat), (State.maskIn old new mask).getLsbD i = if mask.getLsbD i then new.getLsbD i else old.getLsbD i)

/-- R131, R58, R59, R388, R390: TRAP takes SYSCALL with TVAL := X[a], BRK takes BREAKPOINT and an unassigned word
ILLEGAL_INSTRUCTION; the thread is held in WAIT with EPC at the instruction and T7's queue gets one item, which names the
thread. -/
def Obligations.TrapsTaken : Prop :=
  ∀ (s : State) (c tid : Nat) (a : BitVec 5) (w : BitVec 32) (e : Bool),
    let held := fun (ins : Instr) (code : BitVec 8) (tval : Word) =>
      Runs ins s fun t => HeldByTrap s code tval t ∧
        (t.getCore c).t7q.length = (s.getCore c).t7q.length + 1 ∧
        (∃ it, (t.getCore c).t7q.getLast? = some it ∧ it.kind = 0 ∧ it.thr = some tid ∧ it.act = s.me.actid ∧
          field it.word 56 8 = code.toNat ∧ field it.word 40 3 = tid)
    s.cur = .thr c tid → tid < 7 → s.t7Full c = false → bitAt (s.getCore c).ckstat 16 = false →
    held (.trap a) Cause.syscall (s.x a) ∧
    ((s.groupsOf c).filter (fun g => bitAt (Tbl.get 0 (s.getDie (c / 64)).hgc g) 1) = [] → held .brk Cause.breakpoint s.pc) ∧
    held (.illegalInstruction w e) Cause.illegalInstruction (w.setWidth 64)

/-- R132, R133, R134, R136: UTRET goes to UTEPC; WAIT completes at once when the time has come and else waits; in T7 it also ends, or
completes at once, with a service item, and with x0 for the time with that alone; SCANRUN on a core
that is not ready answers BUSY, else waits for its scan; HALT completes and requests the stop. -/
def Obligations.SystemInstructions : Prop :=
  ∀ (s : State) (d a : BitVec 5),
    (s.cur.isT7 = false → s.cur.isThr = true → s.me.utepc.getLsbD 0 = false →
      Runs .utret s fun t => OnlyMe s t ∧ t.me = { s.me with pc := s.me.utepc, cellBusy := false }) ∧
    (s.cur.isAct = true → (s.x a).toNat ≤ s.timebase.toNat → Runs (.waitI a) s (Advanced s 4)) ∧
    (s.cur.isAct = true → s.timebase.toNat < (s.x a).toNat → Runs (.waitI a) s fun t => OnlyMe s t ∧
      t.me = { s.me with st := .wait, wait := some { kind := .time (s.x a) false false } }) ∧
    (∀ c, s.cur = .thr c 7 →
      ((a ≠ 0 ∧ (s.x a).toNat ≤ s.timebase.toNat) ∨ (s.getCore c).t7q ≠ [] → Runs (.waitI a) s (Advanced s 4)) ∧
      ((s.getCore c).t7q = [] → a = 0 ∨ s.timebase.toNat < (s.x a).toNat → Runs (.waitI a) s fun t => OnlyMe s t ∧
        t.me = { s.me with st := .wait, wait := some { kind := .time (s.x a) true (a == 0) } })) ∧
    (∀ c, s.cur = .thr c 7 → s.scanReady c = false ∨ (s.getCore c).scan.isSome = true → Runs (.scanrun d a) s fun t =>
      Gives s d 3 t ∧ SameBytes s t ∧
      ∀ k, t.getCore k = if k = c then { s.getCore c with ckstat := setField (s.getCore c).ckstat 18 2 (field (t.getCore c).ckstat 18 2) }
        else s.getCore k) ∧
    (∀ c, s.cur = .thr c 7 → s.scanReady c = true → (s.getCore c).scan = none → Runs (.scanrun d a) s fun t =>
      (t.getCore c).scan = some { abortPrio := (s.x a).toNat % 64, rd := some d, start := s.timebase } ∧
      t.me = { s.me with st := .wait, wait := some { kind := .scan, rd := d } } ∧ SameBytes s t) ∧
    (∀ c, s.cur = .thr c 7 → c < 128 → (s.getCore c).stop = none → s.groupsOf c = [] → Runs .halt s fun t =>
      ((t.getCore c).stop.map fun r => (r.source, r.alone)) = some (0, true) ∧ SameBytes s t ∧
      (∀ r, t.x r = (s.me.next 4).getX r) ∧ t.pc = (s.me.next 4).pc)

/-- R132, R392, R396, R28: ERET ends T7's item, by the disposition word of its slot, whichever of its six names it bears. With no
item T7 becomes FREE. The item of a trap whose disposition word has code RESUME makes the held thread RUN at its EPC with its other
registers as they were; PREEMPT and PARK begin the save of its context, the pc at its EPC; RETAKE, of an activation with NR clear and
RTK below 2, frees the thread and puts its message back with its ACTID and a count one higher; KILL, and RETAKE of any other, frees
the thread and discards its journal; UNPARK also makes the parked context of the thread it names resumable. A next item starts T7 at
the service entry with x4 the slot and x5 the item word. -/
def Obligations.ReturnFromTrap : Prop :=
  ∀ (s : State) (c : Nat), s.cur = .thr c 7 → (s.getCore c).itemWait = [] →
    ∀ i ∈ [Instr.eretResume, .eretPreempt, .eretPark, .eretRetake, .eretKill, .eretUnpark],
    (∀ it tid, (s.getCore c).t7cur = some it → (s.getCore c).t7q = [] → it.kind = 0 → it.thr = some tid → it.ref = .nothing →
      tid < 6 → State.trapHeld (s.thread (.thr c tid)) = true → (s.thread (.thr c tid)).resident = false →
      let h := s.thread (.thr c tid)
      let code := field (s.dispositionWord c it) 0 3
      (code ∈ [1, 2] → h.hosted = none → s.areaFault c tid = none → State.dueError h = none →
        ∃ t, exec i s = .next t ∧ t.thread (.thr c tid) = { h with
            pc := h.epc, st := .wait, landing := 0, wait := some { kind := .saving (code == 2) }
            ss := h.ss.map fun e => (e.1, { e.2 with ahead := [] }) } ∧
          t.me.st = .free ∧ (t.getCore c).t7cur = none ∧ SameBytes s t) ∧
      (code = 3 → h.nr = false → h.rtk < 2 →
        ∃ t, exec i s = .next t ∧ (t.thread (.thr c tid)).st = (if h.hosted.isSome then .saved else .free) ∧
          (t.thread (.thr c tid)).journal = [] ∧ t.me.st = .free ∧ (t.getCore c).t7cur = none ∧
          ∀ m ∈ (s.getCore c).inbox, some m.slot = h.slot → ∃ m' ∈ (t.getCore c).inbox,
            m'.slot = m.slot ∧ m'.msg = m.msg ∧ m'.taken = false ∧ m'.retake = some (h.actid, h.rtk + 1)) ∧
      (code = 3 → h.nr = true ∨ 2 ≤ h.rtk →
        ∃ t, exec i s = .next t ∧ (t.thread (.thr c tid)).st = (if h.hosted.isSome then .saved else .free) ∧
          (t.thread (.thr c tid)).journal = [] ∧ t.me.st = .free ∧ (t.getCore c).t7cur = none)) ∧
    ((s.getCore c).t7cur = none → (s.getCore c).t7q = [] → Runs i s fun t => t.me.st = .free ∧ t.me.wait = none ∧ SameBytes s t) ∧
    (∀ it tid, (s.getCore c).t7cur = some it → (s.getCore c).t7q = [] → it.kind = 0 → it.thr = some tid → it.ref = .nothing →
      tid < 6 → (s.thread (.thr c tid)).st = .wait → State.trapHeld (s.thread (.thr c tid)) = true →
      (s.thread (.thr c tid)).landing = 0 →
      (field (s.dispositionWord c it) 0 3 ∈ [0, 6, 7] → Runs i s fun t =>
        t.thread (.thr c tid) = { s.thread (.thr c tid) with
          pc := (s.thread (.thr c tid)).epc, st := .run, wait := none, landing := 0, cellBusy := false } ∧
        t.me.st = .free ∧ (t.getCore c).t7cur = none ∧ SameBytes s t) ∧
      (field (s.dispositionWord c it) 0 3 = 4 → (s.thread (.thr c tid)).hosted = none → Runs i s fun t =>
        (t.thread (.thr c tid)).st = .free ∧ (t.thread (.thr c tid)).journal = [])) ∧
    (∀ it k h, (s.getCore c).t7cur = some it → (s.getCore c).t7q = [] → it.kind = 2 → it.ref = .nothing → k < 6 →
      s.dispositionWord c it = ofN (5 + 256 * k) → (s.thread (.thr c k)).hosted = some h → Runs i s fun t =>
        (t.thread (.thr c k)).hosted = some { h with parked := false }) ∧
    (∀ it, (s.getCore c).t7cur = none → (s.getCore c).t7q = [it] → (s.getCore c).resetting = false → it.kind = 0 → Runs i s fun t =>
      t.me.st = .run ∧ t.pc = ofN (field (s.block c 0x1000) 0 20) ∧ (t.getCore c).t7cur = some it ∧ (t.getCore c).t7q = [] ∧
      t.x 4 = ofN (s.serviceSlot c it.slot) ∧ t.x 5 = it.word)

/-- R38, R135, R26: MIGRATE of an activation with NR clear performs the partial commit first, with cause MIGRATE, and sets NR. To the
issuing core it goes on; to an absent core it leaves the activation with a NACK of sub-code NOCORE pending; to a core of its partition it
frees the thread, with one context on its way that keeps the registers. -/
def Obligations.Migration : Prop :=
  ∀ (s : State) (a : BitVec 5) (c tid : Nat), s.cur = .thr c tid → tid < 6 → s.me.resident = false →
    (s.physOf (field (s.x a) 0 7) = none → Runs (.migrate a) s fun t =>
      t.pc = (s.me.next 4).pc ∧ (∃ p, t.me.pendTrap = s.me.pendTrap ++ [p] ∧ p.code = Cause.nack ∧ p.sub = 2) ∧ SameBytes s t) ∧
    (∀ p, s.physOf (field (s.x a) 0 7) = some p → s.partOf (.thr p 0) = s.myPart → s.me.nr = true → s.sendPending s.cur = false →
      (p = c → Runs (.migrate a) s (Advanced s 4)) ∧
      (p ≠ c → s.me.hosted = none → s.pushesPending s.cur = false → Runs (.migrate a) s fun t =>
        (t.thread (.thr c tid)).st = .free ∧ t.migrants.length = s.migrants.length + 1 ∧
        ∃ m, t.migrants.getLast? = some m ∧ m.dest = p ∧ (∀ r, m.th.getX r = (s.me.next 4).getX r) ∧
          m.th.pc = (s.me.next 4).pc ∧ m.th.actid = s.me.actid)) ∧
    (∀ p, let s1 := s.partialCommit s.cur 3
      let committed := fun (th : Thread) => th.nr = true ∧ th.journal = [] ∧ th.jcnt = 0 ∧ field th.actst 3 2 = 3 ∧
        th.pc = (s.me.next 4).pc ∧ ∀ r, th.getX r = (s.me.next 4).getX r
      s.physOf (field (s.x a) 0 7) = some p → s.partOf (.thr p 0) = s.myPart → s.me.nr = false → s.me.wait = none →
      s.commitBlocked s.cur = false → s1.sendPending s.cur = false →
      (p = c → Runs (.migrate a) s fun t => committed t.me) ∧
      (p ≠ c → s.me.hosted = none → s1.pushesPending s.cur = false → Runs (.migrate a) s fun t =>
        (t.thread (.thr c tid)).st = .free ∧ t.migrants.length = s.migrants.length + 1 ∧
        ∃ m, t.migrants.getLast? = some m ∧ m.dest = p ∧ committed m.th ∧ m.th.actid = s.me.actid)) ∧
    (∀ p, Servable s → s.physOf (field (s.x a) 0 7) = some p → s.partOf (.thr p 0) ≠ s.myPart →
      Runs (.migrate a) s (HeldByTrap s Cause.permission (s.x a)))

/-! ### Vector instructions (chapter 7) -/

/-- R145, R146, R148, R139, R140: the integer lane instructions on unbound registers, lane by lane: active lanes take the
wrapped result, the others keep their value, nothing is raised. R146, R148: the saturating lane instructions clamp to the lane's
signed range and raise SATF for a clamped active lane; the dot products sum four INT8 products, or four values by the signs of
the other operand, into INT32 lanes; VSEL takes each lane from one source. -/
def Obligations.VectorIntegerResults : Prop :=
  (∀ (s : State) (d a b : BitVec 5) (p : BitVec 3) (z : BitVec 2),
     let e := 2 ^ z.toNat
     let X := fun i => laneAt (lanesOf e (s.me.getV a)) i
     let Y := fun i => laneAt (lanesOf e (s.me.getV b)) i
     let Z := fun i => laneAt (lanesOf e (s.me.getV d)) i
     let run := fun ins (res : Nat → Int) => LanesRun ins s d p e res fun _ => 0
     PlainV s [a, b, d] →
     run (.vadd d a b p z) (fun i => X i + Y i) ∧ run (.vsub d a b p z) (fun i => X i - Y i) ∧
     run (.vmul d a b p z) (fun i => X i * Y i) ∧
     run (.vmulh d a b p z) (fun i => sxL e (X i) * sxL e (Y i) / 2 ^ (8 * e)) ∧
     run (.vmadd d a b p z) (fun i => Z i + X i * Y i) ∧
     run (.vand d a b p z) (fun i => (X i &&& Y i : Nat)) ∧ run (.vor d a b p z) (fun i => (X i ||| Y i : Nat)) ∧
     run (.vxor d a b p z) (fun i => (X i ^^^ Y i : Nat)) ∧
     run (.vsll d a b p z) (fun i => X i * 2 ^ (Y i % (8 * e))) ∧ run (.vsrl d a b p z) (fun i => (X i / 2 ^ (Y i % (8 * e)) : Nat)) ∧
     run (.vsra d a b p z) (fun i => sxL e (X i) / 2 ^ (Y i % (8 * e))) ∧
     run (.vmin d a b p z) (fun i => min (sxL e (X i)) (sxL e (Y i))) ∧ run (.vmax d a b p z) (fun i => max (sxL e (X i)) (sxL e (Y i))) ∧
     run (.vminu d a b p z) (fun i => (min (X i) (Y i) : Nat)) ∧ run (.vmaxu d a b p z) (fun i => (max (X i) (Y i) : Nat)) ∧
     run (.vabs d a p z) (fun i => |sxL e (X i)|) ∧ run (.vpopc d a p z) (fun i => (popNat (8 * e) (X i) : Nat)) ∧
     run (.vmv d a p z) (fun i => X i)) ∧
  (∀ (s : State) (d a b : BitVec 5) (p : BitVec 3) (z : BitVec 2),
     let e := 2 ^ z.toNat
     let X := fun e i => laneAt (lanesOf e (s.me.getV a)) i
     let Y := fun e i => laneAt (lanesOf e (s.me.getV b)) i
     let Z := fun e i => laneAt (lanesOf e (s.me.getV d)) i
     let clamp := fun (e : Nat) (v : Int) => max (-2 ^ (8 * e - 1)) (min v (2 ^ (8 * e - 1) - 1))
     let sat := fun (e : Nat) (v : Int) => if clamp e v = v then 0 else Flag.satf
     let sum4 := fun (f : Int → Int → Int) (i : Nat) =>
       f (sxL 1 (X 1 (4 * i))) (sxL 1 (Y 1 (4 * i))) + f (sxL 1 (X 1 (4 * i + 1))) (sxL 1 (Y 1 (4 * i + 1))) +
       f (sxL 1 (X 1 (4 * i + 2))) (sxL 1 (Y 1 (4 * i + 2))) + f (sxL 1 (X 1 (4 * i + 3))) (sxL 1 (Y 1 (4 * i + 3)))
     let dot := fun (f : Int → Int → Int) (i : Nat) => sxL 4 (Z 4 i) + sum4 f i
     PlainV s [a, b, d] →
     LanesRun (.vadds d a b p z) s d p e (fun i => clamp e (sxL e (X e i) + sxL e (Y e i)))
       (fun i => sat e (sxL e (X e i) + sxL e (Y e i))) ∧
     LanesRun (.vsubs d a b p z) s d p e (fun i => clamp e (sxL e (X e i) - sxL e (Y e i)))
       (fun i => sat e (sxL e (X e i) - sxL e (Y e i))) ∧
     LanesRun (.vdot4 d a b p) s d p 4 (fun i => clamp 4 (dot (fun x y => x * y) i)) (fun i => sat 4 (dot (fun x y => x * y) i)) ∧
     LanesRun (.vtdot4 d a b p) s d p 4 (fun i => clamp 4 (dot (fun x y => x * y.sign) i))
       (fun i => sat 4 (dot (fun x y => x * y.sign) i)) ∧
     ∃ v, (∀ i, i < 128 / e → laneAt (lanesOf e v) i = if active (s.me.getP p.toNat) e i then X e i else Y e i) ∧
       Runs (.vsel d a b p z) s (ThreadStep s (fun t => t.setV d v) 4))

/-- R147: the vector comparisons write a truth value for each active lane and false for the others; a write to p0 is discarded.
-/
def Obligations.VectorComparisons : Prop :=
  ∀ (s : State) (q p : BitVec 3) (a b : BitVec 5) (z : BitVec 2),
    let e := 2 ^ z.toNat
    let X := fun e i => laneAt (lanesOf e (s.me.getV a)) i
    let Y := fun e i => laneAt (lanesOf e (s.me.getV b)) i
    let F := vfpFmt z
    let fe := vfpSize z
    let fc := fun (c i : Nat) => fcmp c (F.decode (X fe i)) (F.decode (Y fe i))
    PlainV s [a, b] →
    PredicateRuns (.vcmp 0 q a b p z) s q p e (fun i => decide (X e i = Y e i)) (fun _ => 0) ∧
    PredicateRuns (.vcmp 1 q a b p z) s q p e (fun i => decide (X e i ≠ Y e i)) (fun _ => 0) ∧
    PredicateRuns (.vcmp 2 q a b p z) s q p e (fun i => decide (sxL e (X e i) < sxL e (Y e i))) (fun _ => 0) ∧
    PredicateRuns (.vcmp 3 q a b p z) s q p e (fun i => decide (X e i < Y e i)) (fun _ => 0) ∧
    ∀ c : BitVec 2, PredicateRuns (.vfcmp c q a b p z) s q p fe (fun i => (fc c.toNat i).1) fun i => (fc c.toNat i).2

/-- R149, R150, R160: the floating-point lane instructions: each active lane takes the scalar operation of its format on its
operands, with the mode of FCSR.RM, and the flags of the active lanes are raised together, and if one of them is enabled the instruction
takes FP_TRAP once (R97, R114); VPWL evaluates its segment. -/
def Obligations.VectorFloatLanes : Prop :=
  ∀ (s : State) (d a b : BitVec 5) (p : BitVec 3) (z : BitVec 2),
    let e := vfpSize z
    let F := vfpFmt z
    let m := s.rm
    let X := fun i => laneAt (lanesOf e (s.me.getV a)) i
    let Y := fun i => laneAt (lanesOf e (s.me.getV b)) i
    let Z := fun i => laneAt (lanesOf e (s.me.getV d)) i
    let run := fun ins (op : Nat → Nat × FFlags) => LanesRun ins s d p e (fun i => (op i).1) fun i => (op i).2
    let tab := lanesOf 4 (s.me.getV b)
    let brk := lanesOf 4 (s.me.getV (b + 1))
    let x4 := fun i => laneAt (lanesOf 4 (s.me.getV a)) i
    let seg := fun x => ((List.range 15).filter fun j => (fcmp 2 (fp32.decode (laneAt brk j)) (fp32.decode x)).1).length
    let pwl := fun x => fp32.fma m (laneAt tab (seg x)) x (laneAt tab (16 + seg x))
    PlainV s [a, b, d] →
    run (.vfadd d a b p z) (fun i => F.add m (X i) (Y i)) ∧ run (.vfsub d a b p z) (fun i => F.sub m (X i) (Y i)) ∧
    run (.vfmul d a b p z) (fun i => F.mul m (X i) (Y i)) ∧ run (.vfdiv d a b p z) (fun i => F.div m (X i) (Y i)) ∧
    run (.vfma d a b p z) (fun i => F.fma m (X i) (Y i) (Z i)) ∧ run (.vfms d a b p z) (fun i => F.fms m (X i) (Y i) (Z i)) ∧
    run (.vfmin d a b p z) (fun i => F.minMax false (X i) (Y i)) ∧ run (.vfmax d a b p z) (fun i => F.minMax true (X i) (Y i)) ∧
    run (.vfsqrt d a p z) (fun i => F.sqrt m (X i)) ∧ run (.vfrcp d a p z) (fun i => F.rcp m (X i)) ∧
    run (.vfrsq d a p z) (fun i => F.rsqrt m (X i)) ∧
    LanesRun (.vpwl d a b p) s d p 4 (fun i => (pwl (x4 i)).1) fun i => (pwl (x4 i)).2

/-- R151, R152, R137: a vector load whose active lanes pass their checks writes the lanes' memory values and keeps the others;
VLDB loads min(X[b], 128) bytes and zeroes the rest. -/
def Obligations.VectorLoads : Prop :=
  ∀ (s : State) (d a b : BitVec 5) (p : BitVec 3) (z : BitVec 2) (ls : List (Nat × Word × Acc)) (vs : List (Nat × Nat)),
    let e := 2 ^ z.toNat
    let g := s.me.getP p.toNat
    let loads := fun (ins : Instr) (addrs : List Word) =>
      s.laneChecks e false addrs g (128 / e) = .ok ls → s.laneReads e ls = .ok vs →
      CachesOnly s (s.touchLanes e ls) ∧
      LanesRun ins s d p e (fun i => (((vs.find? fun v => decide (v.1 = i)).map (·.2)).getD 0 : Nat)) (fun _ => 0)
        (s.touchLanes e ls)
    PlainV s [d, b] →
    loads (.vld d a p z) ((List.range (128 / e)).map fun i => s.x a + ofN (e * i)) ∧
    loads (.vlds d a b p z) ((List.range (128 / e)).map fun i => s.x a + ofN i * s.x b) ∧
    loads (.vgath d a b p z) ((lanesOf e (s.me.getV b)).map fun o => s.x a + ofI (sxL e o)) ∧
    (s.laneChecks 1 false ((List.range 128).map fun i => s.x a + ofN i)
        (BitVec.ofNat 128 (2 ^ min (s.x b).toNat 128 - 1)) 128 = .ok ls → s.laneReads 1 ls = .ok vs →
      ∃ v, (∀ i, i < 128 → laneAt (lanesOf 1 v) i = if i < min (s.x b).toNat 128 then laneAt (vs.map (·.2)) i % 256 else 0) ∧
        CachesOnly s (s.touchLanes 1 ls) ∧ Runs (.vldb d a b) s (ThreadStep (s.touchLanes 1 ls) (fun t => t.setV d v) 4))

/-- R151 to R153: a vector store at issue into plaintext memory writes the bytes of its active lanes, and every byte outside them
reads as before. R24, R25, R153: one that is journaled records an entry for each active lane: VST one of 136 bytes for all, VSTS and VSCAT
8 and the element's size, at least 8, for each. -/
def Obligations.VectorStores : Prop :=
  ∀ (s : State) (d a b : BitVec 5) (p : BitVec 3) (z : BitVec 2) (ls : List (Nat × Word × Acc)),
    let e := 2 ^ z.toNat
    let g := s.me.getP p.toNat
    let stores := fun (ins : Instr) (addrs : List Word) =>
      s.laneChecks e true addrs g (128 / e) = .ok ls →
      (∀ l ∈ ls, (placeOf l.2.2.loc = .ulm ∨ ∃ h, placeOf l.2.2.loc = .hbm h) ∧ l.2.2.key = 0 ∧
        s.journaled s.cur l.2.2.loc = false ∧ s.blocked l.2.2.loc e true = false ∧ s.acrossBridge s.cur.dieNo l.2.2.loc = false) →
      Runs ins s fun t => StoreFrame s t ∧ t.me = s.me.next 4 ∧
        (∀ n, (∀ l ∈ ls, n < l.2.2.loc ∨ l.2.2.loc + e ≤ n) → Memory.read t.mem n = Memory.read s.mem n) ∧
        ((∀ l ∈ ls, ∀ k ∈ ls, l.1 ≠ k.1 → l.2.2.loc + e ≤ k.2.2.loc ∨ k.2.2.loc + e ≤ l.2.2.loc) →
          ∀ l ∈ ls, Memory.readN t.mem l.2.2.loc e = leBytes e (laneAt (lanesOf e (s.me.getV d)) l.1))
    let records := fun (ins : Instr) (addrs : List Word) (cost : Nat → Nat) =>
      let rs : List StoreReq := ls.map fun l =>
        { va := l.2.1, acc := l.2.2, bs := (leBytes e (laneAt (lanesOf e (s.me.getV d)) l.1)).map some, cost := cost l.1 }
      s.laneChecks e true addrs g (128 / e) = .ok ls → AllJournaled s rs → Runs ins s (Recorded s rs)
    let row := (List.range (128 / e)).map fun i => s.x a + ofN (e * i)
    let strides := (List.range (128 / e)).map fun i => s.x a + ofN i * s.x b
    let indexed := (lanesOf e (s.me.getV b)).map fun o => s.x a + ofI (sxL e o)
    PlainV s [d, b] →
    stores (.vst d a p z) row ∧ stores (.vsts d a b p z) strides ∧ stores (.vscat d a b p z) indexed ∧
    records (.vst d a p z) row (fun i => if some i = ls.head?.map (·.1) then 136 else 0) ∧
    records (.vsts d a b p z) strides (fun _ => 8 + max 8 e) ∧ records (.vscat d a b p z) indexed (fun _ => 8 + max 8 e)

/-- R154, R155, R104: reductions put the tree's result in lane 0 and 0 in the others, which for the integer kinds is the wrapped
sum of the active lanes; the permutations, the slide, the broadcast, the insertion and the extraction move lanes as their
indexes say. -/
def Obligations.VectorPermutations : Prop :=
  ∀ (s : State) (d a b k : BitVec 5) (p : BitVec 3) (z : BitVec 2),
    let e := 2 ^ z.toNat
    let L := 128 / e
    let g := s.me.getP p.toNat
    let X := fun i => laneAt (lanesOf e (s.me.getV a)) i
    let Y := fun i => laneAt (lanesOf e (s.me.getV b)) i
    let ins := (List.range L).map fun i => if active g e i then some (X i) else none
    let lane0 := fun (i : Instr) (f : Nat → Nat → Nat × FFlags) =>
      let r := treeFold f (Nat.log2 L) ins
      ∃ v, laneAt (lanesOf e v) 0 = r.1.getD 0 % 2 ^ (8 * e) ∧
        (∀ j, 0 < j → j < L → laneAt (lanesOf e v) j = 0) ∧ FlagRuns i s (fun t => t.setV d v) r.2
    let scan := scanLanes (sumLanes k e s.rm) none ins
    PlainV s [a, b, d] →
    lane0 (.vredsum d a k p z) (sumLanes k e s.rm) ∧ lane0 (.vredmin d a k p z) (pickLanes k e false) ∧
    lane0 (.vredmax d a k p z) (pickLanes k e true) ∧
    (k.toNat < 2 → ((treeFold (sumLanes k e s.rm) (Nat.log2 L) ins).1.getD 0) % 2 ^ (8 * e) =
      (((List.range L).filter (active g e)).map X).sum % 2 ^ (8 * e)) ∧
    (∃ v, LaneResult e g (s.me.getV d) v (fun i => ((scan.1[i]?).getD none).getD 0) ∧
      FlagRuns (.vscan d a k p z) s (fun t => t.setV d v) scan.2) ∧
    LanesRun (.vperm d a b p z) s d p e (fun i => X (Y i % L)) (fun _ => 0) ∧
    LanesRun (.vbcast d a p z) s d p e (fun _ => (s.x a).toNat) (fun _ => 0) ∧
    LanesRun (.vslide d a b p z) s d p e
      (fun i => if 0 ≤ (i : Int) + (s.x b).toInt then X ((i : Int) + (s.x b).toInt).toNat else 0) (fun _ => 0) ∧
    LanesRun (.vzip d a b p z) s d p e (fun i => if i % 2 = 0 then X (i / 2) else Y (i / 2)) (fun _ => 0) ∧
    (∃ v, (∀ i, i < L → laneAt (lanesOf e v) i =
        if i = (s.x b).toNat then (s.x a).toNat % 2 ^ (8 * e) else laneAt (lanesOf e (s.me.getV d)) i) ∧
      Runs (.vins d a b z) s (ThreadStep s (fun t => t.setV d v) 4)) ∧
    Runs (.vext d a b z) s (RegStep s d (if (s.x b).toNat < L then ofI (sxL e (X (s.x b).toNat)) else 0) 4)

/-- R156 to R159, R100: the lane conversions convert each active lane through its two formats; UNPK3 turns 25 bytes into 125 ternary
lanes and a mask of the invalid ones; UNPK4 decodes the 32 codes of a block, and of an invalid one gives the canonical NaN, or 0, in
all 32 lanes and raises BLKINV. -/
def Obligations.VectorConversions : Prop :=
  ∀ (s : State) (d a b : BitVec 5) (h : BitVec 1) (c : BitVec 4) (p q : BitVec 3) (z : BitVec 2),
    let e := 2 ^ z.toNat
    let V := s.me.getV a
    let conv := fun (si so : Nat) => convLane (laneFmt si (c.extractLsb' 2 2).toNat) (laneFmt so (c.extractLsb' 0 2).toNat) s.rm s.satm
    let byte := fun (j : Nat) => laneAt (lanesOf 1 V) (((s.x b).toNat % 128 + j) % 128)
    let bad := fun (k : Nat) => decide (k < 125) && decide (243 ≤ byte (k / 5))
    PlainV s [a, b, d] →
    LanesRun (.vcvt d a c p z) s d p e (fun j => (conv z.toNat z.toNat (laneAt (lanesOf e V) j)).1)
      (fun j => (conv z.toNat z.toNat (laneAt (lanesOf e V) j)).2) ∧
    (z.toNat < 3 → LanesRun (.vwiden d a h c p z) s d p (2 * e)
      (fun j => (conv z.toNat (z.toNat + 1) (laneAt (lanesOf e V) (h.toNat * (64 / e) + j))).1)
      fun j => (conv z.toNat (z.toNat + 1) (laneAt (lanesOf e V) (h.toNat * (64 / e) + j))).2) ∧
    (z.toNat < 3 →
      let n := 64 / e
      let src := fun j => laneAt (lanesOf (2 * e) V) (j - h.toNat * n)
      let half := fun j => decide (h.toNat * n ≤ j ∧ j < h.toNat * n + n)
      let fl := laneRaises e (s.me.getP p.toNat) fun j => if half j then (conv (z.toNat + 1) z.toNat (src j)).2 else 0
      ∃ v,
        (∀ j, j < 128 / e → laneAt (lanesOf e v) j =
          if half j && active (s.me.getP p.toNat) e j then (conv (z.toNat + 1) z.toNat (src j)).1 % 2 ^ (8 * e)
          else laneAt (lanesOf e (s.me.getV d)) j) ∧
        FlagRuns (.vnarrow d a h c p z) s (fun t => t.setV d v) fl) ∧
    (let fl := if (List.range 25).any fun j => decide (243 ≤ byte j) then Flag.ternbad else 0
     (fl = 0 ∨ s.me.vcsr.getLsbD 8 = false) → ∃ (v : VReg) (m : PReg),
        (∀ j, j < 128 → m.getLsbD j = bad j) ∧
        (∀ k, k < 128 → laneAt (lanesOf 1 v) k = if k < 125 ∧ byte (k / 5) < 243 then wrapN 8 (ternT (byte (k / 5)) (k % 5)) else 0) ∧
        Runs (.unpk3 d a b q) s (FlagStep s (fun t => (t.setV d v).setP q.toNat m) fl 4)) ∧
    (let eu := unpk4Size z
     let block := (List.range 17).map fun k => BitVec.ofNat 8 (laneAt (lanesOf 1 V) (((s.x b).toNat % 128 + k) % 128))
     let scale := ((block[16]?).getD 0).toNat
     s.me.getP p.toNat = BitVec.allOnes 128 →
     let fl := laneRaises eu (BitVec.allOnes 128) (fun i => if i < 32 then (unpk4Lane z scale (q4Code block i)).2 else 0) |||
       (if scale % 64 = 63 then Flag.blkinv else 0)
     ∃ v,
        (∀ i, i < 128 / eu → laneAt (lanesOf eu v) i =
          if i < 32 then (unpk4Lane z scale (q4Code block i)).1 % 2 ^ (8 * eu) else 0) ∧
        FlagRuns (.unpk4 d a b p z) s (fun t => t.setV d v) fl) ∧
    (let eu := unpk4Size z
     let nan := if z = 0 then 0 else if z = 1 then 0x7E00 else if z = 2 then 0x7FC00000 else 0x7FC0
     byte 16 % 64 = 63 → ∃ v,
        (∀ i, i < 128 / eu → laneAt (lanesOf eu v) i = if i < 32 then nan else 0) ∧
        Runs (.unpk4 d a b p z) s (FlagStep s (fun t => t.setV d v) Flag.blkinv 4))

/-- R161, R162: VSUPD updates state and compensation lanes by the compensated step; VPRUNE keeps four lanes of each group of
eight. -/
def Obligations.VectorSpecialFunctions : Prop :=
  (∀ (s : State) (d a b : BitVec 5) (p : BitVec 3),
    let g := s.me.getP p.toNat
    let L := fun (r : BitVec 5) i => laneAt (lanesOf 4 (s.me.getV r)) i
    let inc := fun i => fp32.mul 0 (L a i) (L b i)
    let r := fun i => supdStep (L d i) (L (d + 1) i) (inc i).1
    let fl := laneRaises 4 g fun i => (inc i).2 ||| (r i).2.2
    PlainV s [a, b, d, d + 1] → ∃ v w,
      LaneResult 4 g (s.me.getV d) v (fun i => (r i).1) ∧ LaneResult 4 g (s.me.getV (d + 1)) w (fun i => (r i).2.1) ∧
      FlagRuns (.vsupd d a b p) s (fun t => (t.setV d v).setV (d + 1) w) fl) ∧
  (∀ (s : State) (d a : BitVec 5) (q : BitVec 3),
    let X := fun i => laneAt (lanesOf 1 (s.me.getV a)) i
    let grp := fun k => (List.range 8).map fun j => X (8 * k + j)
    PlainV s [a, d] → ∃ (v : VReg) (m : PReg),
      (∀ k j, k < 16 → j < 8 → m.getLsbD (8 * k + j) = pruneKeeps (grp k) j) ∧
      (∀ k, k < 16 → (List.range 4).map (fun i => laneAt (lanesOf 1 v) (4 * k + i)) =
        ((List.range 8).filter (pruneKeeps (grp k))).map fun j => X (8 * k + j)) ∧
      Runs (.vprune d a q) s (ThreadStep s (fun t => (t.setV d v).setP q.toNat m) 4)) ∧
  ∀ g : List Nat, ((List.range 8).filter (pruneKeeps g)).length = 4

/-- R120, R126: FLDW and FLDD write the loaded bytes, zero-extended, to F[d]; FSTW and FSTD store the low bytes of F[x] at
issue, leave every other byte of memory, and complete; or record one entry of 16 bytes in the journal (R24, R25). The registers are not
bound to a stream. R262, R265: STCFG binds a slot
as ox0 to ox7 say and clears its SE bit, STEND unbinds it, STSTAT tells its state and the elements left; a configuration that
R262 refuses takes STREAM_FAULT with TVAL the slot, at supervisor level with UTVEC 0. -/
def Obligations.FloatLoadsStoresAndStreams : Prop :=
  (∀ (s : State) (d b : BitVec 5) (i : BitVec 14) (bs : List Byte) (acc : Acc),
     s.cur.isThr = true → s.me.slotOf false d = none →
     (s.load (s.ea b i) 4 = .ok bs → CachesOnly s (s.touch (s.ea b i) 4) ∧
       Runs (.fldw d b i) s (ThreadStep (s.touch (s.ea b i) 4) (fun t => t.setF d (bytesWord bs)) 4)) ∧
     (s.load (s.ea b i) 8 = .ok bs → CachesOnly s (s.touch (s.ea b i) 8) ∧
       Runs (.fldd d b i) s (ThreadStep (s.touch (s.ea b i) 8) (fun t => t.setF d (bytesWord bs)) 4)) ∧
     (acc.key = 0 → AtIssue s (s.ea b i) 4 acc → Runs (.fstw d b i) s fun t =>
       Stored s t acc.loc (leBytes 4 (s.f d).toNat) ∧ StoreFrame s t ∧ t.me = s.me.next 4) ∧
     (acc.key = 0 → AtIssue s (s.ea b i) 8 acc → Runs (.fstd d b i) s fun t =>
       Stored s t acc.loc (leBytes 8 (s.f d).toNat) ∧ StoreFrame s t ∧ t.me = s.me.next 4) ∧
     let entry := fun (n : Nat) => ({ va := s.ea b i, acc := acc, bs := (leBytes n (s.f d).toNat).map some, cost := 16 } : StoreReq)
     (IntoJournal s (s.ea b i) 4 acc → Runs (.fstw d b i) s (Recorded s [entry 4])) ∧
     (IntoJournal s (s.ea b i) 8 acc → Runs (.fstd d b i) s (Recorded s [entry 8]))) ∧
  (∀ (s : State) (d a : BitVec 5),
     let k := d.toNat
     let st := s.me.getSs a.toNat
     s.cur.isThr = true →
     (s.streamValid k s.streamOf = true → s.pushing k = false → Runs (.stcfg d) s (ThreadStep s (fun t =>
       { t.setSs k s.streamOf with vcsr := t.vcsr &&& ~~~(ofN (2 ^ (4 + k))) }) 4)) ∧
     (s.streamValid k s.streamOf = false → s.me.utvec = 0 → Servable s →
       Runs (.stcfg d) s (HeldByTrap s Cause.streamFault (ofN k))) ∧
     (s.pushing k = false → Runs (.stend d) s (ThreadStep s (fun t => t.setSs k {}) 4)) ∧
     (st.bound = false → Runs (.ststat d a) s (RegStep s d 0 4)) ∧
     (st.bound = true → ∃ v, Runs (.ststat d a) s (RegStep s d v 4) ∧ v.getLsbD 63 = true ∧ v.getLsbD 62 = st.write ∧
       (v.getLsbD 61 = true ↔ ∃ e ∈ st.ahead, e.fault ≠ none) ∧ field v 0 48 = (st.total - st.pos) % 2 ^ 48))

/-! ### Messages (chapter 12) -/

/-- R273, R274, R278, R277: SEND and SENDL build the message of the destination word and hand it over; T7's replay form puts the
image into the loop-back port with REPLAY set; a reserved bit is METADATA_MALFORMED and the port without T7 is PRIVILEGE; REDUCE
sends a contribution of one doubleword, with the operation of its tree, to the reduction unit of its die. R27, R171, R276: END and
DEFER of an activation begin its end and change no register; END frees T6 (on a core that is OFF it is OFF, R33), and ends a
sequencer's program with the exit value X[10]. -/
def Obligations.MessagesSentAndEnds : Prop :=
  (∀ (s : State) (d a b : BitVec 5),
     let w := s.x a
     (∀ ws : List Word, field w 0 4 ≤ ws.length → let m := s.destMsg w ws
       m.tag = field w 48 16 ∧ m.dh = field w 40 8 ∧ m.dc = field w 33 7 ∧ m.sc = s.coordOf s.cur % 128 ∧ m.kind = 0 ∧
       m.len = field w 0 4 ∧ m.sub = 0 ∧ m.payload = ws.take (field w 0 4)) ∧
     (field w 6 27 = 0 → field w 4 2 = 0 → field w 0 4 ≤ 2 → HandsOver (.sendI d a b) s (s.destMsg w [s.x b, s.x d])) ∧
     (∀ ws, field w 6 27 = 0 → field w 4 2 = 0 → field w 0 4 ≤ 8 → (s.x b).toNat % 8 = 0 →
       (s.x b).toNat + 8 * field w 0 4 ≤ 0x100000 → s.loadWords (s.x b) (field w 0 4) = .ok ws →
       HandsOver (.sendl a b) s (s.destMsg w ws)) ∧
     (∀ bs, s.cur.isT7 = true → field w 6 27 = 0 → bitAt w 5 = true → field w 0 4 ≤ 8 → (s.x b).toNat % 8 = 0 →
       (s.x b).toNat + 80 ≤ 0x100000 → s.loadBytes s.cur (s.x b) 80 = .ok bs → (Msg.ofBytes bs).dc = s.coordOf s.cur →
       ∀ i ∈ [Instr.sendl a b, .sendlRpl a b], Runs i s fun t =>
         (∃ m, t.mesh = s.mesh ++ [m] ∧ m.loop = true ∧ m.dst = s.cur.coreNo ∧ m.hdr0 = (Msg.ofBytes bs).hdr0 ||| 0x80 ∧
           m.hdr1 = (Msg.ofBytes bs).hdr1 ∧ m.payload = (Msg.ofBytes bs).payload ∧ m.last = bitAt w 4) ∧
         Passes s t ∧ SameBytes s t) ∧
     (Servable s → field w 6 27 ≠ 0 → ∀ i ∈ [Instr.sendI d a b, .sendl a b, .sendlRpl a b],
       Runs i s (HeldByTrap s Cause.metadataMalformed w)) ∧
     (Servable s → field w 6 27 = 0 → bitAt w 5 = true → field w 0 4 ≤ 8 → ∀ i ∈ [Instr.sendl a b, .sendlRpl a b],
       Runs i s (HeldByTrap s Cause.privilege w)) ∧
     (s.cur.isThr = true → w.toNat < 128 → s.inTree (field w 6 1) (field w 0 6) = true → Acts s → Room s →
       Runs (.reduce a b) s fun t =>
         (∃ m, Accepted s t m ∧ m.kind = 6 ∧ m.tag = field w 0 6 ∧ m.payload = [s.x b] ∧ m.dst = 148 + s.cur.dieNo ∧
           m.sub = field (Tbl.get ({} : RedTree) (s.getDie (field w 6 1)).trees (field w 0 6)).dw0 56 4) ∧
         Passes s t ∧ SameBytes s t)) ∧
  (∀ (s : State) (a : BitVec 5),
     (s.cur.isAct = true → Runs (.defer a) s fun t => OnlyMe s t ∧ t.me = { s.me with wait := some { kind := .ending (some (s.x a)) } }) ∧
     ∀ i ∈ [Instr.endAct, .cEnd],
       (s.cur.isAct = true → Runs i s fun t => OnlyMe s t ∧ t.me = { s.me with wait := some { kind := .ending none } }) ∧
       (∀ c, s.cur = .thr c 6 → s.me.hosted = none → Runs i s fun t =>
         t.me.st = (if bitAt (s.getCore c).ckstat 16 then .off else .free) ∧ t.me.wait = none ∧ t.me.x = s.me.x ∧ OthersKeep s t ∧
         SameBytes s t) ∧
       (∀ n q e, s.cur = .seq n q → Tbl.get none (s.getSet n).cur q = some e → Runs i s fun t =>
         t.me.st = .free ∧ Tbl.get none (t.getSet n).cur q = none ∧ Tbl.get 0 (t.getSet n).lastEnded q = e.seqNo ∧
         Tbl.get [] (t.getSet n).exits q = ((e.seqNo, s.x 10) :: Tbl.get [] (s.getSet n).exits q).take 32 ∧
         OthersKeep s t ∧ SameBytes s t))

/-- R248 to R250: a remote operation on an aligned address word below 2^27 sends a request of its own function code with the
address and its operands to the core the word names, its tag one above the last; the forms with a result record the outstanding
reply for X[d] and complete, but that at the last instruction of a loop whose count the reply is to write they wait for it first, which is
the model's reading (log entry 104); the forms without one are handed over as messages. -/
def Obligations.RemoteOperations : Prop :=
  ∀ (s : State) (d a b : BitVec 5) (p : BitVec 4),
    let w := s.x a
    let req := fun (code : Nat) (ws : List Word) => s.mkMsg s.cur (s.me.opTag + 1).toNat 0 (field w 20 7) 3 code (w :: ws)
    let asks := fun (ins : Instr) (code : Nat) (ws : List Word) => Runs ins s fun t =>
      Accepted s t (req code ws) ∧ t.me.outst = s.me.outst ++ [{ tag := s.me.opTag + 1, rd := d, addr := w, gen := s.me.gen }] ∧
      t.me.opTag = s.me.opTag + 1 ∧ OthersIs s t ∧ SameBytes s t ∧
      let count := s.me.AtLoopEnd ∧ (s.me.loopReg = d ∨ s.me.awaits s.me.loopReg = true)
      (¬ count → t.pc = (s.me.next 4).pc ∧ ∀ r, t.x r = (s.me.next 4).getX r) ∧
      (count → t.pc = s.pc ∧ (∀ r, t.x r = s.x r) ∧ t.me.wait = some { kind := .reply })
    let tagged := fun (t : Thread) => { t with opTag := t.opTag + 1 }
    (w.toNat < 2 ^ 27 → w.toNat % 8 = 0 →
      HandsOver (.rst a b) s (req 0x09 [s.x b]) tagged ∧
      HandsOver (.ramo 0 a b p) s (req (0x10 + p.toNat) [s.x b, 0]) tagged ∧
      (Room s → asks (.rld d a) 0x08 []) ∧
      (Acts s → Room s → asks (.rcas d a b) 0x0A [s.x b, s.x d]) ∧
      (Acts s → Room s → d ≠ 0 → asks (.ramo d a b p) (0x10 + p.toNat) [s.x b, 1])) ∧
    (Servable s → 2 ^ 27 ≤ w.toNat → ∀ i ∈ [Instr.rld d a, .rst a b, .rcas d a b, .ramo d a b p],
      Runs i s (HeldByTrap s Cause.noRange w)) ∧
    (Servable s → w.toNat < 2 ^ 27 → w.toNat % 8 ≠ 0 → ∀ i ∈ [Instr.rld d a, .rst a b, .rcas d a b, .ramo d a b p],
      Runs i s (HeldByTrap s Cause.misaligned w))

/-- R287: the queue registers: QBIND empties and binds, QPUT appends and waits while 16 entries stand, QGET and QTRY take the
oldest entry; QGET waits on an empty queue and QTRY gives its sentinel; QLEN counts. -/
def Obligations.QueueRegisters : Prop :=
  ∀ (s : State) (d a b : BitVec 5),
    let u := s.cur.unit
    let q := a.toNat
    let r := s.qreg u q
    let w := s.x b
    (s.cur.isT7 = true ∨ s.cur.isSeq = true → w &&& 0xFFFFFFFFFFFFFE88 = 0 → Acts s → Runs (.qbind a b) s fun t =>
      t.qreg u q = (if bitAt w 8 then { bound := true, producer := field w 0 3, consumer := field w 4 3 } else {}) ∧
      (∀ k, k ≠ q → t.qreg u k = s.qreg u k) ∧ Passes s t ∧ SameBytes s t) ∧
    (Servable s → Runs (.qbind a b) s (HeldByTrap s Cause.privilege (encode (.qbind a b)).word)) ∧
    (s.qMay s.cur q true = true → Acts s → s.pushesPending s.cur = false → r.entries.length < 16 → Runs (.qput a b) s fun t =>
      t.qreg u q = { r with entries := r.entries ++ [(w, false)] } ∧ (∀ k, k ≠ q → t.qreg u k = s.qreg u k) ∧
      Passes s t ∧ SameBytes s t) ∧
    (s.qMay s.cur q true = true → Acts s → s.pushesPending s.cur = false → 16 ≤ r.entries.length → Runs (.qput a b) s fun t =>
      OnlyMe s t ∧ t.me = { s.me with wait := some { kind := .qput u q w } }) ∧
    (Servable s → s.qMay s.cur q true = false → Runs (.qput a b) s (HeldByTrap s Cause.permission (ofN q))) ∧
    (s.qMay s.cur q false = true → Acts s → s.me.st = .run → s.me.wait = none → ∀ v rest, r.entries = (v, false) :: rest →
      ∀ i ∈ [Instr.qget d a, .qtry d a b], (s.cur.isT6 = false ∨ i = .qtry d a b) → Runs i s fun t =>
        t.qreg u q = { r with entries := rest } ∧ (∀ k, k ≠ q → t.qreg u k = s.qreg u k) ∧
        (∀ x, t.x x = ((s.me.setX d v).next 4).getX x) ∧ t.pc = ((s.me.setX d v).next 4).pc ∧ t.me.st = .run ∧ SameBytes s t) ∧
    (s.qMay s.cur q false = true → Acts s → r.entries = [] → s.cur.isT6 = false →
      Runs (.qget d a) s (Waits s { kind := .qget u q, rd := d })) ∧
    (s.qMay s.cur q false = true → Acts s → r.entries = [] → Runs (.qtry d a b) s (RegStep s d w 4)) ∧
    Runs (.qlen d a) s (RegStep s d (ofN r.entries.length) 4)

/-! ### Copies, streams and reels (chapter 11, chapter 12) -/

/-- R251 to R261: a CPY or CPYM whose checks pass and that the engine can take joins its live copies in flight with a new
handle, which X[d] takes; no byte of memory changes at issue. CPYST reads a status word; CPYCAN gives the prior status and ends a
copy in flight as CANCELLED, at the boundary of its destination lines that its pieces reach. -/
def Obligations.Copies : Prop :=
  ∀ (s : State) (d a : BitVec 5) (q : CopyReq),
    let h := s.handleBase s.cur + (State.nextSeq (s.ceOf s.cur).seqNo).setWidth 64
    let issued := fun (ins : Instr) => Runs ins s fun t =>
      (∃ c, (t.ceOf s.cur).live = (s.ceOf s.cur).live ++ [c] ∧ c.handle = h ∧ c.src = q.src ∧ c.dst = q.dst ∧ c.len = q.len ∧
        c.prog = 0 ∧ c.state = .inFlight ∧ c.ck = q.ck) ∧
      t.me = (({ s.me with lastCopy := h } : Thread).setX d h).next 4 ∧ OthersKeep s t ∧ SameBytes s t
    State.mayCopy s.cur = true →
    (Acts s → s.copyReady s.cur q = true → q.refused = none → 0 < q.len →
      (s.cpyCheck = .ok q → issued (.cpy d)) ∧ (s.cpymCheck = .ok q → issued (.cpym d))) ∧
    Runs (.cpyst d a) s (RegStep s d (s.statusOf s.cur (s.x a)) 4) ∧
    (Acts s → s.x a &&& 0xFFFF000000000000 ≠ s.handleBase s.cur → Runs (.cpycan d a) s (RegStep s d (5 <<< 61) 4)) ∧
    (∀ c, Acts s → s.x a &&& 0xFFFF000000000000 = s.handleBase s.cur →
      (s.ceOf s.cur).live.find? (fun c => decide (c.handle = s.x a)) = some c → c.state = .inFlight → c.ck = 0 → c.role = .plain →
      s.cancelHeld s.cur (s.x a) = false →
      let r := if s.copyRuns c then State.toLine c 129 s else (s, c.prog)
      Runs (.cpycan d a) s fun t => Gives s d (ofN (c.prog % 2 ^ 32)) t ∧ SameBytes r.1 t ∧
        (State.atLine c = true → r.2 = c.prog ∧ SameBytes s t) ∧
        (t.ceOf s.cur).ended.head? = some (s.x a, ofN (2 * 2 ^ 61 + r.2 % 2 ^ 32)) ∧ ∀ x ∈ (t.ceOf s.cur).live, x.handle ≠ s.x a)

/-- R290: on an aligned header in the agent's window, REELINIT makes an empty reel with its configuration word; REELAWAIT gives
the address of a filled read slot with PSN[0] in bit 63, and waits on an empty one; REELREL moves the read pointer on and shifts
FILL and PSN; REELST packs the header's state. No byte outside the header changes. -/
def Obligations.Reels : Prop :=
  ∀ (s : State) (d a b : BitVec 5),
    let w := s.x a
    let h := s.cur.localLoc w.toNat
    w.toNat % 64 = 0 → w.toNat + 64 ≤ s.cur.window →
    (State.reelConfig s.cur (s.x b) = true → s.reelTargeted h none = false → s.binNames h = false → Acts s →
      Runs (.reelinit a b) s fun t => s.x b = t.reelWord h 0 ∧ t.reelValid h = true ∧ t.reelRp h = 0 ∧ t.reelFill h = 0 ∧
        t.reelPsn h = 0 ∧ Passes s t ∧ SameBytesOutside s t h (h + 64)) ∧
    (s.cur.isT6 = false → s.reelValid h = true → bitAt (s.reelFill h) 0 = true → Runs (.reelawait d a) s fun t =>
      Gives s d (ofN (b2n (bitAt (s.reelPsn h) 0) * 2 ^ 63 + (s.reelBase h + s.reelRp h % s.reelN h * s.reelSize h))) t ∧
      SameBytes s t) ∧
    (s.cur.isT6 = false → s.reelValid h = true → bitAt (s.reelFill h) 0 = false →
      Runs (.reelawait d a) s (Waits s { kind := .reel h, rd := d })) ∧
    (s.reelValid h = true → bitAt (s.reelFill h) 0 = true → s.reelTile h = false → s.reelN h ≤ 1024 → Acts s →
      s.pushesPending s.cur = false →
      Runs (.reelrel a) s fun t => t.reelRp h = (s.reelRp h + 1) % s.reelN h ∧ t.reelFill h = s.reelFill h >>> 1 ∧
        t.reelPsn h = s.reelPsn h >>> 1 ∧ t.reelWord h 0 = s.reelWord h 0 ∧ Passes s t ∧ SameBytesOutside s t h (h + 64)) ∧
    Runs (.reelst d a) s (RegStep s d (ofN (field (s.reelWord h 1) 63 1 * 2 ^ 63 + popNat 128 (s.reelFill h).toNat * 2 ^ 32 +
      field (s.reelWord h 1) 16 11 * 2 ^ 16 + field (s.reelWord h 1) 0 11)) 4)

/-- R292 to R294, R304: TENQ and LAUNCH hand a TASK message with the 64 bytes at X to the queue manager; TDEQ moves the head
entry to memory with status 0, or answers 1 on an empty queue, whatever X[b] is (R60); FUTLD reads a full future and traps at user level on an empty
one; FUTST fills an empty future with status 0 and leaves a full one with status 1. -/
def Obligations.TasksAndFutures : Prop :=
  ∀ (s : State) (d a b : BitVec 5) (bs : List Byte) (acc : Acc),
    let w := s.x a
    let h := field w 0 12
    (w.toNat < 4096 → (s.x b).toNat % 64 = 0 → (s.x b).toNat + 64 ≤ s.cur.window → s.loadBytes s.cur (s.x b) 64 = .ok bs →
      HandsOver (.tenq a b) s (s.taskMsg h h 0 (bytesWords bs))) ∧
    (w.toNat % 64 = 0 → w.toNat + 64 ≤ s.cur.window → s.loadBytes s.cur w 64 = .ok bs → let ws := bytesWords bs
      launchWellFormed ws = true → s.launchGranted s.myPart (wordAt ws 2) = true → s.launchGranted s.myPart (wordAt ws 3) = true →
      HandsOver (.launch a) s (s.taskMsg (launchQh ws) (field (wordAt ws 0) 48 16) 1 ws)) ∧
    (∀ q, w.toNat < 4096 → s.taskQ s.myPart h = some q → Acts s →
      (q.head = none → Runs (.tdeq d a b) s (RegStep s d 1 4)) ∧
      (∀ e, q.head = some e → e.poisoned = false → e.words.length = 8 → (s.x b).toNat % 64 = 0 →
        (s.x b).toNat + 64 ≤ s.cur.window → s.storeCheck s.cur (s.x b) 64 = .ok acc → s.blocked acc.loc 64 true = false →
        acc.key = 0 → placeOf acc.loc = .ulm ∨ (∃ k, placeOf acc.loc = .hbm k) → Runs (.tdeq d a b) s fun t =>
          Stored s t acc.loc (wordsBytes e.words) ∧ t.taskQ s.myPart h = some (q.without e) ∧ Gives s d 0 t)) ∧
    (w.toNat % 16 = 0 → s.resolve s.cur w 16 kindR = .ok acc → s.readVia s s.cur acc w 16 = .ok bs →
      (bitAt (wordAt (bytesWords bs) 1) 0 = true → Runs (.futld d a) s fun t =>
        Gives s d (wordAt (bytesWords bs) 0) t ∧ SameBytes s t) ∧
      (bitAt (wordAt (bytesWords bs) 1) 0 = false → s.cur.isThr = true → Runs (.futld d a) s fun t =>
        t.me.Is { s.me with
          utepc := s.pc, tval := w, tcause := State.causeWord true false Cause.futureEmpty 0, pc := s.me.utvec
          st := .run, wait := none } ∧ SameBytes s t)) ∧
    (s.atomPlace w 16 16 = .ok acc → s.blocked acc.loc 16 true = false → s.acrossBridge s.cur.dieNo acc.loc = false → Acts s →
      s.pushesPending s.cur = false → s.readVia s s.cur acc w 16 = .ok bs →
      acc.key = 0 → placeOf acc.loc = .ulm ∨ (∃ k, placeOf acc.loc = .hbm k) →
      (bitAt (wordAt (bytesWords bs) 1) 0 = true → Runs (.futst d a b) s fun t => Gives s d 1 t ∧ SameBytes s t) ∧
      (bitAt (wordAt (bytesWords bs) 1) 0 = false → Runs (.futst d a b) s fun t =>
        Stored s t acc.loc (wordsBytes [s.x b, wordAt (bytesWords bs) 1 ||| 1]) ∧ Gives s d 0 t))

/-! ### Synchronisation (chapters 11 and 14) -/

/-- R367 to R371: dependence counters and barriers. DCINIT and BARINIT set; DCDEC counts down, stops at 0 with status 2; a counter that
comes to 0, by DCDEC or DCINIT, releases its waiters. BARARR counts arrivals, and the last of a phase releases the barrier's waiters; on a
poisoned barrier it changes nothing and answers 2^63, and one with N = 0 it poisons. DCWAIT and BARWAIT go on or wait; a poisoned one takes
DEPFAULT; the forms without a result go into the journal of an activation with NR clear. R372 to R374, R266: SLOPEN closes an open slate,
with the code of a closing condition that holds, 1 before 2, and else 3, which releases its waiters (no bin is bound to it here); with CLOSE
that is all; without, it opens the next generation over the window ox0 to ox1 with the members ox2, which closes at once on a condition that
holds. SLWAIT waits for an open generation, else reads the status word, as SLSTAT does, and takes DEPFAULT on a poisoned slate. BUMP hands
out the next chunks of an allocator, or counts a refusal and gives 0. -/
def Obligations.CountersBarriersSlates : Prop :=
  (∀ (s : State) (d a b : BitVec 5) (die i : Nat),
     let w := s.x a
     let v := s.x b
     let c := s.dc die i
     let n := field v 0 32
     let k := s.bar die i
     let decided := fun (c' : DepCtr) (status : Nat) => Runs (.dcdec d a b) s fun t =>
       t.dc die i = { c' with clock := (t.dc die i).clock } ∧
       t.me.Is ((s.me.setX d (ofN (status * 2 ^ 62 + c'.value.toNat))).next 4) ∧ SameBytes s t
     let arrived := fun (k' : Barrier) (r : Word) => Runs (.bararr d a) s fun t =>
       t.bar die i = { k' with clock := (t.bar die i).clock } ∧ t.me.Is ((s.me.setX d r).next 4) ∧ SameBytes s t
     let releases := fun (ins : Instr) (on : WaitKind → Bool) => Runs ins s fun t => ∀ o : Agent, o.key ≠ s.cur.key → ∀ x,
       (s.thread o).wait = some x → on x.kind = true → ∃ q, (t.thread o).wait = some { x with released := true, clock := q }
     s.me.wait = none →
     (s.counterAt w = .ok (die, i) →
       (Acts s → field v 32 32 = 0 →
         (Runs (.dcinit a b) s fun t =>
           t.dc die i = { value := v.setWidth 32, poison := false } ∧ t.me = s.me.next 4 ∧ SameBytes s t) ∧
         (n = 0 → releases (.dcinit a b) (State.onDc die i))) ∧
       (Acts s → s.pushesPending s.cur = false → field v 32 31 = 0 →
         (c.poison = true → decided c 3) ∧
         (c.poison = false → v.getLsbD 63 = true → decided { c with poison := true } 3) ∧
         (c.poison = false → v.getLsbD 63 = false →
           (c.value.toNat < n → decided { c with value := 0 } 2) ∧
           (n < c.value.toNat → decided { c with value := c.value - BitVec.ofNat 32 n } 0) ∧
           (n = c.value.toNat → decided { c with value := 0 } 1) ∧
           (c.value.toNat ≤ n → releases (.dcdec d a b) (State.onDc die i)))) ∧
       (s.cur.isT6 = false → c.poison = false → c.value = 0 → Runs (.dcwait a) s fun t => Passes s t ∧ SameBytes s t) ∧
       (s.cur.isT6 = false → c.poison = false → c.value ≠ 0 → Runs (.dcwait a) s (Waits s { kind := .dc die i w })) ∧
       (Servable s → s.cur.isT6 = false → c.poison = true → Runs (.dcwait a) s (HeldByTrap s Cause.depfault w))) ∧
     (s.counterAt w true = .ok (die, i) → s.holds s.cur = true → s.me.jcnt + 80 ≤ 4096 → field v 32 31 = 0 →
       Runs (.dcdec 0 a b) s (ThreadStep s (fun t =>
         { t with journal := t.journal ++ [.dcdec die i v], actst := setField t.actst 16 13 (t.jcnt + 80) }) 4)) ∧
     (s.barrierAt w = .ok (die, i) →
       (Acts s → 1 ≤ v.toNat → v.toNat ≤ 65535 → k.arrivals = 0 → s.someWaits (State.onBar die i) = false →
         Runs (.barinit d a b) s fun t => t.bar die i = { n := v.setWidth 16 } ∧ Gives s d 0 t ∧ SameBytes s t) ∧
       (Acts s → 1 ≤ v.toNat → v.toNat ≤ 65535 → k.arrivals ≠ 0 ∨ s.someWaits (State.onBar die i) = true →
         Runs (.barinit d a b) s (RegStep s d 1 4)) ∧
       (Acts s → s.pushesPending s.cur = false →
         (k.poison = true → arrived k (1 <<< 63)) ∧
         (k.poison = false → k.n = 0 → arrived { k with poison := true } (ofN k.phase.toNat)) ∧
         (k.poison = false → k.n ≠ 0 →
           (k.arrivals + 1 = k.n → arrived { k with arrivals := 0, phase := k.phase + 1 } (ofN k.phase.toNat) ∧
             releases (.bararr d a) (State.onBar die i)) ∧
           (k.arrivals + 1 ≠ k.n → arrived { k with arrivals := k.arrivals + 1 } (ofN k.phase.toNat)))) ∧
       (s.cur.isT6 = false → k.poison = false → k.phase ≠ v.setWidth 16 → Runs (.barwait d a b) s fun t =>
         Gives s d (ofN k.phase.toNat) t ∧ SameBytes s t) ∧
       (s.cur.isT6 = false → k.poison = false → k.phase = v.setWidth 16 →
         Runs (.barwait d a b) s (Waits s { kind := .bar die i (v.setWidth 16) w, rd := d })) ∧
       (Servable s → s.cur.isT6 = false → k.poison = true → Runs (.barwait d a b) s (HeldByTrap s Cause.depfault w))) ∧
     (s.barrierAt w true = .ok (die, i) → s.holds s.cur = true → s.me.jcnt + 80 ≤ 4096 →
       Runs (.bararr 0 a) s (ThreadStep s (fun t =>
         { t with journal := t.journal ++ [.bararr die i], actst := setField t.actst 16 13 (t.jcnt + 80) }) 4))) ∧
  (∀ (s : State) (d a b : BitVec 5) (die i : Nat) (acc : Acc) (bs : List Byte),
     let w := s.x a
     let g : BitVec 16 := (s.x b).setWidth 16
     let k := s.getSlate die i
     let new := { k with
       gen := k.gen + 1, tOpen := s.ox 0, tClose := s.ox 1, mask := s.ox 2, ctl := s.ox 3, late := 0, cause := 0, state := 1
       marks := if k.state = 2 then [] else k.marks, part := s.myPart }
     let due := fun (k : Slate) => if k.pend = 0 then 1 else if k.tClose.toNat + 100 * k.grace ≤ s.timebase.toNat then 2 else 0
     let unbound := ∀ m, m < 8 → (s.getSet (8 * die + m)).bins = []
     let released := fun (t : State) => ∀ o : Agent, o.key ≠ s.cur.key → ∀ x, (s.thread o).wait = some x →
       State.onSlate die i x.kind = true → ∃ q, (t.thread o).wait = some { x with released := true, clock := q }
     let ws := bytesWords bs
     let next := (wordAt ws 0).toNat
     let n := (s.x b).toNat * (wordAt ws 2).toNat
     (s.slateAt w = .ok (die, i) →
       (Acts s → s.checkSlopen = .ok () → s.me.wait = none → ∀ ins ∈ [Instr.slopen d a, .slopenClose d a],
         (bitAt (s.ox 3) 35 = false → k.state = 1 ∨ due new ≠ 0 → unbound → Runs ins s fun t =>
           t.getSlate die i = (if due new = 0 then new else { new with state := 0, cause := due new }) ∧
           t.me = (s.me.setX d (ofN (k.gen + 1).toNat)).next 4 ∧ released t ∧ SameBytes s t) ∧
         (bitAt (s.ox 3) 35 = false → k.state ≠ 1 → due new = 0 → Runs ins s fun t =>
           t.getSlate die i = new ∧ Gives s d (ofN (k.gen + 1).toNat) t ∧ SameBytes s t) ∧
         (bitAt (s.ox 3) 35 = true → k.state = 1 → unbound → Runs ins s fun t =>
           t.getSlate die i = { k with state := 0, cause := if due k = 0 then 3 else due k } ∧
           t.me = (s.me.setX d (ofN k.gen.toNat)).next 4 ∧ released t ∧ SameBytes s t) ∧
         (bitAt (s.ox 3) 35 = true → k.state ≠ 1 → Runs ins s (RegStep s d (ofN k.gen.toNat) 4))) ∧
       (s.cur.isT6 = false → k.gen = g → k.state = 1 → Runs (.slwait d a b) s (Waits s { kind := .slate die i g w, rd := d })) ∧
       (s.cur.isT6 = false → ¬(k.gen = g ∧ k.state = 1) → k.state ≠ 2 → Runs (.slwait d a b) s fun t =>
         Gives s d k.word t ∧ SameBytes s t) ∧
       (Servable s → s.cur.isT6 = false → k.state = 2 → Runs (.slwait d a b) s (HeldByTrap s Cause.depfault w)) ∧
       Runs (.slstat d a) s (RegStep s d k.word 4)) ∧
     (s.atomPlace w 32 32 = .ok acc → s.blocked acc.loc 32 true = false → s.acrossBridge s.cur.dieNo acc.loc = false → Acts s →
       s.readVia s s.cur acc w 32 = .ok bs → acc.key = 0 →
       (∀ o ∈ [0, 24], placeOf (acc.loc + o) = .ulm ∨ ∃ k, placeOf (acc.loc + o) = .hbm k) →
       ((∃ j, j < 18 ∧ (wordAt ws 2).toNat = 2 ^ (j + 3)) → next + n ≤ (wordAt ws 1).toNat → Runs (.bump d a b) s fun t =>
         (if n = 0 then SameBytes s t else Stored s t acc.loc (wordBytes (ofN (next + n)))) ∧ Gives s d (wordAt ws 0) t) ∧
       (¬(∃ j, j < 18 ∧ (wordAt ws 2).toNat = 2 ^ (j + 3)) ∨ (wordAt ws 1).toNat < next + n → Runs (.bump d a b) s fun t =>
         Stored s t (acc.loc + 24) (wordBytes (wordAt ws 3 + 1)) ∧ Gives s d 0 t)))

/-! ### Tables and ranges (chapter 14) -/

/-- R328 to R334: the range instructions of T7 on ranges that are not in motion: RNGMAP enters the image, RNGUNMAP removes,
RNGSPLIT cuts, RNGMERGE joins, RNGPROT sets permissions, RNGRES edits residency, RNGINV waits, RNGCMP starts a move, RNGQRY
finds; on an address that begins no range they answer 1. No byte of memory changes. R338, R343: the queue table and the logical
core map: mapping, unmapping, pinning and unpinning of a handle by T7 with their statuses; the removal of an idle logical core
and the placing of a physical one, which complete by an event. -/
def Obligations.RangeQueueAndCoreTables : Prop :=
  (∀ (s : State) (d a b : BitVec 5) (i : Nat) (r : Range),
     let p := s.myPart
     let w := s.x a
     let v := s.x b
     let rng := fun (t : State) (i : Nat) => Tbl.get none (t.getPart p).ranges i
     let answers := fun (ins : Instr) (n : Nat) (P : State → Prop) => Runs ins s fun t => Gives s d (ofN n) t ∧ SameBytes s t ∧ P t
     s.cur.isT7 = true →
     (∀ bs, w.toNat % 32 = 0 → w.toNat + 32 ≤ 0x100000 → s.loadBytes s.cur w 32 = .ok bs → imageLegal (bytesWords bs) = true →
       r = Range.ofWords (bytesWords bs) → r.world = false → r.owner = p → r.key = 0 → s.backed p r.pbase r.size = true →
       s.rangeCount p < 65536 →
       ((s.getPart p).ranges.any (fun e => e.2.any fun q => overlaps q.vbase q.size r.vbase r.size) = false →
         answers (.rngmap d a) 0 fun t => rng t (s.freeRid p) = some { r with poisoned := false } ∧
           ∀ j, j ≠ s.freeRid p → rng t j = rng s j) ∧
       ((s.getPart p).ranges.any (fun e => e.2.any fun q => overlaps q.vbase q.size r.vbase r.size) = true →
         Runs (.rngmap d a) s (RegStep s d 2 4))) ∧
     (s.rangeAt p w.toNat = none → field (s.ox 3) 62 2 ≠ 3 → s.checkCompletion s.cur (s.ox 3) = .ok () → v.toNat % 128 = 0 → v ≠ 0 →
       ∀ ins ∈ [Instr.rngunmap d a, .rngsplit d a b, .rngmerge d a, .rngcmp d a b], Runs ins s (RegStep s d 1 4)) ∧
     (s.rangeAt p w.toNat = some (i, r) → r.moving = false →
       (answers (.rngunmap d a) 0 fun t => rng t i = none ∧ ∀ j, j ≠ i → rng t j = rng s j) ∧
       (v.toNat < 8 → answers (.rngprot d a b) 0 fun t =>
         rng t i = some { r with perm := v.setWidth 3, gen := r.gen + 1, poisoned := false } ∧ ∀ j, j ≠ i → rng t j = rng s j) ∧
       (v.toNat % 128 = 0 → v ≠ 0 → v.toNat < r.size → r.partialRes = false → s.rangeCount p < 65536 →
         let lower : Range := { r with size := v.toNat, gen := r.gen + 1 }
         let j := (s.setRange p i (some lower)).freeRid p
         j ≠ i → answers (.rngsplit d a b) 0 fun t => rng t i = some { lower with poisoned := false } ∧
           rng t j = some { r with
             vbase := r.vbase + v.toNat, size := r.size - v.toNat, pbase := r.pbase + v.toNat, gen := r.gen + 1, poisoned := false }) ∧
       (∀ j q, s.rangeAt p (r.vbase + r.size) = some (j, q) → j ≠ i → q.moving = false → q.pbase = r.pbase + r.size →
         (q.perm, q.world, q.owner, q.home, q.uncached, q.key) = (r.perm, r.world, r.owner, r.home, r.uncached, r.key) →
         r.size + q.size ≤ 2 ^ 37 → r.partialRes = false → q.partialRes = false → answers (.rngmerge d a) 0 fun t =>
           rng t j = none ∧ ∃ m, rng t i = some m ∧ m.vbase = r.vbase ∧ m.size = r.size + q.size ∧ m.pbase = r.pbase ∧
             m.perm = r.perm ∧ m.key = r.key ∧ m.gen = (if r.gen < q.gen then q.gen else r.gen) + 1) ∧
       (field v 60 3 = 0 → field v 30 30 < field v 0 30 → field v 0 30 ≤ r.size / 128 →
         ∀ ls, ls = (if bitAt v 63 then subInterval r.lines (field v 30 30) (field v 0 30)
           else addInterval r.lines (field v 30 30) (field v 0 30)) → ls.length ≤ 8 → Acts s →
         ∀ ins ∈ [Instr.rngresAdd d a b, .rngresRemove d a b], answers ins 0 fun t =>
           rng t i = some { r.withLines ls with gen := r.gen + 1, poisoned := false }) ∧
       (∀ h, field (s.ox 3) 62 2 ≠ 3 → s.checkCompletion s.cur (s.ox 3) = .ok () → v.toNat % 128 = 0 →
         regionOf v.toNat r.size = some (.hbm h) → s.backed p v.toNat r.size = true → (s.getDie r.home).compact = none →
         answers (.rngcmp d a b) 0 fun t => rng t i = some { r with moving := true, poisoned := false } ∧
           ((t.getDie r.home).compact.map fun m => (m.part, m.rid, m.newBase, m.newHome)) = some (p, i, v.toNat, h))) ∧
     (let lo := alignDown 128 w.toNat
      let hi := alignUp 128 (w.toNat + v.toNat)
      Runs (.rnginv d a b) s fun t => SameBytes s t ∧ OthersKeep s t ∧
        t.me = { s.me with wait := some { kind := .rnginv lo hi (decide (v = 0)), rd := d } }) ∧
     ((s.getPart p).find w.toNat 1 = none → v = 0 → Runs (.rngqry d a b) s (RegStep s d 1 4)) ∧
     ((s.getPart p).find w.toNat 1 = some (i, r) → r.poisoned = false → (s.getPart p).walkBad w.toNat = false → v = 0 →
       Runs (.rngqry d a b) s (RegStep s d 0 4))) ∧
  (∀ (s : State) (d a b : BitVec 5),
     let p := s.myPart
     let w := s.x a
     let c := s.x b
     let h := field w 0 12
     let answers := fun (ins : Instr) (n : Nat) (P : State → Prop) => Runs ins s fun t => Gives s d (ofN n) t ∧ SameBytes s t ∧ P t
     s.cur.isT7 = true →
     (w.toNat < 4096 →
       (∀ base, bitAt c 63 = false → c &&& 0x40FFFFFFFFFEFFFF = 0 → field c 60 2 ≤ 2 → 4 ≤ field c 56 4 → field c 56 4 ≤ 12 →
         s.taskQ p h = none → s.queueRoom (field c 16 1) (2 ^ field c 56 4) = some base →
         ∀ ins ∈ [Instr.qtmapMap d a b, .qtmapUnmap d a b], answers ins 0 fun t =>
           ∃ q, t.taskQ p h = some q ∧ q.disc = field c 60 2 ∧ q.log2d = field c 56 4 ∧ q.die = field c 16 1 ∧ q.base = base ∧
             q.rcb = s.ox 0 ∧ q.entries = []) ∧
       (∀ q, bitAt c 63 = false → c &&& 0x40FFFFFFFFFEFFFF = 0 → field c 60 2 ≤ 2 → 4 ≤ field c 56 4 → field c 56 4 ≤ 12 →
         s.taskQ p h = some q → Runs (.qtmapMap d a b) s (RegStep s d 2 4)) ∧
       (∀ q, bitAt c 63 = true → c &&& 0x40FFFFFFFFFEFFFF = 0 → s.taskQ p h = some q → q.entries = [] → q.pin = false →
         ∀ ins ∈ [Instr.qtmapMap d a b, .qtmapUnmap d a b], answers ins 0 fun t => t.taskQ p h = none) ∧
       (∀ q, s.taskQ p h = some q → c = 1 → s.pins q.die < 256 → ∀ ins ∈ [Instr.qtpinPin d a b, .qtpinUnpin d a b],
         answers ins 0 fun t => t.taskQ p h = some { q with pin := true }) ∧
       (∀ q, s.taskQ p h = some q → c = 0 → ∀ ins ∈ [Instr.qtpinPin d a b, .qtpinUnpin d a b],
         answers ins 0 fun t => t.taskQ p h = some { q with pin := false }) ∧
       (s.taskQ p h = none → c = 0 → ∀ ins ∈ [Instr.qtpinPin d a b, .qtpinUnpin d a b], Runs ins s (RegStep s d 1 4))) ∧
     (∀ ins ∈ [Instr.lcmremRemove d a b, .lcmremPlace d a b], w.toNat < 128 → s.partOfLogical w.toNat = p →
       (c = 0 → s.physOf w.toNat = none → Runs ins s (RegStep s d 1 4)) ∧
       (∀ k, c = 0 → s.physOf w.toNat = some k → s.lcidOf k = BitVec.ofNat 8 w.toNat →
         (∀ i, i < 7 → (s.thread (.thr k i)).st ≠ .run ∧ (s.thread (.thr k i)).st ≠ .wait ∧ (s.thread (.thr k i)).st ≠ .saved) →
         Runs ins s fun t => t.physOf w.toNat = none ∧ t.lcidOf k = 0x80 ∧ SameBytes s t ∧ (t.getCore k).t6q = [] ∧
           t.me = { s.me with wait := some { kind := .lcmrem, rd := d } }) ∧
       (∀ k, c = ofN (1 + 256 * k) → k < 128 → s.partOf (.thr k 0) = p → s.physOf w.toNat = none →
         (∀ i, i < 128 → s.physOf i ≠ some k) → k / 8 = w.toNat / 8 → bitAt (s.getCore k).ckstat 16 = false →
         bitAt (s.getCore k).ckstat 20 = false → s.me.st ≠ .off → Runs ins s fun t =>
           t.physOf w.toNat = some k ∧ t.lcidOf k = BitVec.ofNat 8 w.toNat ∧ SameBytes s t ∧
           t.me = { s.me with wait := some { kind := .lcmrem, rd := d } } ∧
           ∀ i, i < 8 → (s.thread (.thr k i)).st = .off → (t.thread (.thr k i)).st = .free)))

/-- R350 to R358: the Continuity Tree. A cursor is initialised on a tree, hashed over blocks, deposited (holding an existing
node or a new one), found, restored by a copy and released; T7 creates and destroys trees and clears every hold; a record is
copied out. The cursor at X[a] is written where it is changed, and X[d] takes the status, depth, count or handle. -/
def Obligations.ContinuityTree : Prop :=
  ∀ (s : State) (d a b : BitVec 5) (c : Cursor) (acc : Acc) (j : Nat) (r : Range) (ws : List Word),
    let p := s.myPart
    let w := s.x a
    let v := s.x b
    let t := s.tree p c.tree
    let i := field v 8 6
    let old := s.tree p i
    let inits := [Instr.snapinitCursor d a b, .snapinitCreate d a b, .snapinitDestroy d a b, .snapinitQuery d a b]
    let writes := fun (ins : Instr) (c' : Cursor) (x : Word) => Runs ins s fun u =>
      Stored s u acc.loc (wordsBytes c'.words) ∧ Gives s d x u
    let puts := fun (ins : Instr) (c' : Cursor) (x : Word) => Runs ins s fun u => OthersKeep s u ∧
      Memory.readN u.mem acc.loc (wordsBytes c'.words).length = wordsBytes c'.words ∧ ∀ q, u.x q = ((s.me.setX d x).next 4).getX q
    s.cur.isThr = true → Acts s → acc.key = 0 → placeOf acc.loc = .ulm →
    (v &&& 0xFFFFFFFFFFFCC0FC = 0 → ∀ ins ∈ inits,
      (field v 0 2 = 0 → bitAt v 16 = false → w.toNat % 128 = 0 → w.toNat + 128 ≤ 0x100000 → s.storeCheck s.cur w 128 = .ok acc →
        s.blocked acc.loc 128 true = false → old.v = true → s.cursorWords w = .ok ws → (Cursor.ofWords ws).v = false →
        writes ins { tb := bitAt v 17, log := false, log2g := State.TreeRec.log2g old, tree := i, k := key0 } 0) ∧
      (field v 0 2 = 1 → s.cur.isT7 = true → w.toNat % 64 = 0 → w.toNat + 64 ≤ 0x100000 → ∀ bs, s.loadBytes s.cur w 64 = .ok bs →
        treeImageLegal (bytesWords bs) = true → old.v = false → ∀ new : TreeRec,
        new = { v := true, dw0 := wordAt (bytesWords bs) 0, npool := wordAt (bytesWords bs) 1,
                cap := (wordAt (bytesWords bs) 2).toNat, spool := wordAt (bytesWords bs) 3, hepoch := old.hepoch + 1 } →
        (∀ kr sp, s.nodePool p new = some kr → s.statePool p new = some sp → (State.TreeRec.hosts new kr.2 && State.TreeRec.hosts new sp.2) = true →
          s.poolBad p new.npool = false → s.poolBad p new.spool = false → Runs ins s fun u => u.tree p i = new ∧ Gives s d 0 u) ∧
        ((s.nodePool p new = none ∨ s.statePool p new = none ∨ (∃ kr, s.nodePool p new = some kr ∧ State.TreeRec.hosts new kr.2 = false)) →
          Runs ins s (RegStep s d 7 4))) ∧
      (field v 0 2 = 2 → s.cur.isT7 = true → old.v = true → s.nodePool p old = some (j, r) → s.poolBad p old.npool = false →
        (∀ n, n < old.cap → (s.node r n).v = true → (s.node r n).holders = 0) → Runs ins s fun u =>
          u.tree p i = { hepoch := old.hepoch } ∧ Gives s d 0 u) ∧
      (field v 0 2 = 3 → w.toNat % 64 = 0 → w.toNat + 64 ≤ 0x100000 → old.v = true → s.storeCheck s.cur w 64 = .ok acc →
        s.journaled s.cur acc.loc = false → s.blocked acc.loc 64 true = false → Runs ins s fun u =>
          Stored s u acc.loc (wordsBytes old.words) ∧ Gives s d 0 u)) ∧
    (w.toNat % 128 = 0 → w.toNat + 128 ≤ 0x100000 → s.cursorAt w = .ok (c, acc) →
      (∀ bs, v.toNat % 8 = 0 → c.log = false → s.readBlocks v (min (s.x d).toNat 64) = .ok bs →
        writes (.snaphash d a b) (c.hash bs).1 (ofN (min (s.x d).toNat 64))) ∧
      (t.v = false → v.toNat % 128 = 0 → Runs (.snapput d a b) s (RegStep s d 6 4) ∧ Runs (.snapfind d a) s (RegStep s d 0 4) ∧
        (v = 0 → Runs (.snaprel d a b) s (RegStep s d 6 4))) ∧
      (t.v = true → ∀ sp, s.nodePool p t = some (j, r) → s.statePool p t = some sp → v.toNat % 128 = 0 →
        s.poolBad p t.npool = false → s.poolBad p t.spool = false → v.toNat + State.TreeRec.ssize t ≤ 0x100000 →
        (c.depth % 2 ^ State.TreeRec.log2g t ≠ 0 → Runs (.snapput d a b) s (RegStep s d 4 4)) ∧
        (c.depth ≠ 0 → c.depth % 2 ^ State.TreeRec.log2g t = 0 →
          (∀ n, s.nodeWithKey r t.cap c.k = some n → (s.node r n).depth = c.depth → (s.node r n).digest = c.d →
            (s.node r n).holders < 0xFFFF → puts (.snapput d a b) { c with hv := true, held := n, hep := t.hepoch } 1) ∧
          (∀ u, s.nodeWithKey r t.cap c.k = none → t.nodes ≠ t.cap → State.TreeRec.ssize t ≠ 0 → placeOf sp.2.pbase ≠ .host → s.deposit p t r sp c w acc d v = some u →
            ∃ n, (s.node r n).v = false ∧ n < t.cap ∧
              puts (.snapput d a b) { c with hv := true, held := n, hep := t.hepoch } 0))) ∧
      (t.v = true → s.nodePool p t = some (j, r) → s.poolBad p t.npool = false →
        (∀ recs f, s.readLog c.logBase ((c.logPtr - c.logBase) / 48) = .ok recs →
          (s.releaseHold p c).searchLog r t.cap recs 0 = f →
          (f.1 = none → puts (.snapfind d a)
            { c with hv := false, logPtr := c.logBase, logFull := false, k := key0, d := [0, 0, 0, 0], depth := 0 } 0) ∧
          (∀ n e, f.1 = some (n, e) → puts (.snapfind d a)
            { c with hv := true, held := n, hep := t.hepoch, logPtr := c.logBase, logFull := false, k := wordAt e 1
                     d := (e.drop 2).take 4, depth := field (wordAt e 0) 0 48 } (wordAt e 0))) ∧
        (State.holdLive t c = true → v = 0 → ∀ ins ∈ [Instr.snaprel d a b, .snaprelAll d a b], puts ins { c with hv := false } 0))) ∧
    (∀ sp, w.toNat % 128 = 0 → w.toNat + 128 ≤ 0x100000 → v.toNat % 128 = 0 → v.toNat + State.TreeRec.ssize t ≤ 0x100000 →
      s.cursorWords w = .ok ws → State.checkCursor ws = .ok c → field (s.ox 3) 62 2 ≠ 3 → s.checkCompletion s.cur (s.ox 3) = .ok () →
      t.v = true → s.nodePool p t = some (j, r) → s.statePool p t = some sp → State.holdLive t c = true →
      s.poolBad p t.npool = false → s.poolBad p t.spool = false →
      (let n := s.node r c.held
       let q : CopyReq :=
         { src := [State.slotSeg sp.1 sp.2 n.ssize c.held], dst := [[{ loc := s.cur.localLoc v.toNat, len := n.ssize, va := v }]]
           len := n.ssize, ck := field (s.ox 3) 62 2, idx := field (s.ox 3) 0 20, role := .restore p c.tree c.held }
       ((s.putNode r c.held { n with lastUse := s.timebase }).noteNode p c.tree c.held).copyReady s.cur q = true) →
      (s.node r c.held).ssize ≠ 0 → Runs (.snapget d a b) s fun u => OthersKeep s u ∧ ∀ x, u.x x = ((s.me.setX d
        (s.handleBase s.cur + (State.nextSeq (s.ceOf s.cur).seqNo).setWidth 64)).next 4).getX x) ∧
    (w.toNat < 64 → v = 1 → s.cur.isT7 = true → (s.tree p w.toNat).v = true → s.nodePool p (s.tree p w.toNat) = some (j, r) →
      s.poolBad p (s.tree p w.toNat).npool = false → ∀ ins ∈ [Instr.snaprel d a b, .snaprelAll d a b], Runs ins s fun u =>
        (u.tree p w.toNat).hepoch = (s.tree p w.toNat).hepoch + 1 ∧ Gives s d 0 u)

/-- R296 to R301: the Montage instructions of a thread or of MI on its Set: MONOPEN configures a closed bin on its reel, MONPUT
passes a row to the unit and records the outstanding status, MONSEAL seals a filling bin, MONCLOSE closes an open one and seals a
filling one, where a timeout that came first is the cause, MONSTAT packs a bin's state. -/
def Obligations.MontageBins : Prop :=
  ∀ (s : State) (d a b : BitVec 5),
    let n := s.cur.setNo
    let w := s.x a
    s.cur.isThr = true ∨ s.cur.isSeqNo 1 = true → s.setOwned = true →
    (∀ h, Acts s → s.monCfgOk n (s.ox 0) = true → field (s.ox 1) 24 40 = 0 → s.monReel n (s.ox 1) = some h → Runs .monopen s fun t =>
      t.bin n (field (s.ox 0) 0 4) = { state := 1, cfg := s.ox 0, hdrLoc := h, next := field (s.reelWord h 1) 16 11 } ∧
      Passes s t ∧ SameBytes s t) ∧
    (∀ bs, let row := s.x d
      s.cur.isThr = true → Acts s → row.toNat < 16 → w.toNat + (s.bin n row.toNat).len ≤ 0x100000 →
      s.loadBytes s.cur w (s.bin n row.toNat).len = .ok bs → Runs (.monput d a b) s fun t =>
        (∃ x, (t.getSet n).rowXfers = (s.getSet n).rowXfers ++ [x] ∧ x.core = s.cur.coreNo ∧ x.tid = s.cur.tid ∧
          x.bin = row.toNat ∧ x.data = bs ∧ x.tag = s.x b ∧ x.op = s.me.opTag + 1) ∧
        t.me = ({ s.me with
          opTag := s.me.opTag + 1, outst := s.me.outst ++ [{ tag := s.me.opTag + 1, rd := d, gen := s.me.gen }] } : Thread).nextAsk 4 ∧
        OthersKeep s t ∧ SameBytes s t) ∧
    (w.toNat < 16 →
      Runs (.monstat d a) s (RegStep s d (let k := s.bin n w.toNat
        ofN (k.next * 2 ^ 42 + k.sealNo % 2 ^ 24 * 2 ^ 18 + s.freeBufs n * 4096 + k.rows * 8 + k.state)) 4) ∧
      (Acts s → (s.bin n w.toNat).state = 2 → (s.bin n w.toNat).lastSeal ≠ some s.timebase →
        s.reelClear (s.bin n w.toNat).hdrLoc (s.bin n w.toNat).next = false →
        Runs (.monseal a) s fun t => t.bin n w.toNat = { s.bin n w.toNat with
          state := 3, cause := if s.timebase.toNat < State.dueAt (s.bin n w.toNat) then 3 else 1, closing := false
          sealT := s.timebase, lastSeal := some s.timebase } ∧ Passes s t ∧ SameBytes s t) ∧
      (Acts s → (s.bin n w.toNat).state = 1 → Runs (.monclose a) s fun t =>
        t.bin n w.toNat = { s.bin n w.toNat with state := 0 } ∧ Passes s t ∧ SameBytes s t) ∧
      (Acts s → (s.bin n w.toNat).state = 2 → s.reelClear (s.bin n w.toNat).hdrLoc (s.bin n w.toNat).next = false →
        Runs (.monclose a) s fun t => t.bin n w.toNat = { s.bin n w.toNat with
          state := 3, cause := if s.timebase.toNat < State.dueAt (s.bin n w.toNat) then 4 else 1, closing := true
          sealT := s.timebase, lastSeal := some s.timebase } ∧ Passes s t ∧ SameBytes s t))

/-! ### Counters (chapter 16) -/

/-- R380 to R386: the timebase, the cycle counter and the vector clock are read; PMCFG programs a counter at 0 for T7 and is
PRIVILEGE for the others; PMRD reads a counter; DLYRD reads a field of the delay account and, for T7 with bit 63, clears it;
DBGMARK adds a record to an open trace session and else does nothing. -/
def Obligations.TimeAndCounters : Prop :=
  ∀ (s : State) (d a b : BitVec 5),
    let w := s.x a
    let e := s.x b
    let c := s.cur.coreNo
    Runs (.rdts d) s (RegStep s d s.timebase 4) ∧
    Runs (.rdcyc d) s (RegStep s d s.cycles 4) ∧
    (w.toNat < 8 → Runs (.rdvc d a) s (RegStep s d ((s.vcEntry s.cur.dieNo w.toNat).setWidth 64) 4)) ∧
    (Servable s → 8 ≤ w.toNat → Runs (.rdvc d a) s (HeldByTrap s Cause.metadataMalformed w)) ∧
    (s.cur.isT7 = true → w.toNat < 16 → e.toNat < 65536 → field e 0 8 ≤ 0x0D → Runs (.pmcfg a b) s fun t =>
      Tbl.get ({} : PerfCtr) (t.getCore c).pm w.toNat = { event := field e 0 8, mask := e.extractLsb' 8 8 } ∧
      (∀ j, j ≠ w.toNat → Tbl.get ({} : PerfCtr) (t.getCore c).pm j = Tbl.get {} (s.getCore c).pm j) ∧ Passes s t ∧ SameBytes s t) ∧
    (Servable s → Runs (.pmcfg a b) s (HeldByTrap s Cause.privilege (encode (.pmcfg a b)).word)) ∧
    (s.cur.isThr = true → w.toNat < 256 → Runs (.pmrd d a) s (RegStep s d (s.perfRead c w.toNat) 4)) ∧
    (s.cur.isThr = true → bitAt w 63 = false → field w 11 52 = 0 →
      Runs (.dlyrd d a) s (RegStep s d (s.delayField c (field w 0 8) (field w 8 3)) 4)) ∧
    (s.cur.isT7 = true → bitAt w 63 = true → field w 11 52 = 0 → Runs (.dlyrd d a) s fun t =>
      Gives s d (s.delayField c (field w 0 8) (field w 8 3)) t ∧ (t.getCore c).delay = [] ∧ SameBytes s t) ∧
    (s.traced c = false → Runs (.dbgmark a) s (Advanced s 4)) ∧
    (s.traced c = true → (s.getDie (c / 64)).trace.recs.length < 16384 → Runs (.dbgmark a) s fun t =>
      (∃ w0 w3, (t.getDie (c / 64)).trace.recs = (s.getDie (c / 64)).trace.recs ++ [[w0, s.timebase, w, w3]]) ∧
      Passes s t ∧ SameBytes s t)

/-! ### Matrix engine and sequencers (chapters 2 and 8) -/

/-- R176 to R192: MI queues its entries in order and MS its loads; MXCFG writes MXC; MXFENCE passes an empty queue and waits at
one that is not; a malformed operand takes METADATA_MALFORMED in the program; only MI and MS may issue them. -/
def Obligations.MatrixQueues : Prop :=
  ∀ (s : State) (d a b : BitVec 5),
    let n := s.cur.setNo
    let k := s.getSet n
    let w := s.ox 0
    let queued := fun (ins : Instr) (op : EngOp) => Runs ins s fun t =>
      (∃ x, (t.getSet n).engQ = k.engQ ++ [x] ∧ x.serial = k.serial ∧ x.op = op ∧ x.streaming = false) ∧
      (t.getSet n).serial = k.serial + 1 ∧ Passes s t ∧ SameBytes s t
    let loadsFrom := fun (u : State) (ins : Instr) (e : LoadEntry) => u.loadChecks s.cur (State.loadSpans e) = .ok () → Runs ins s fun t =>
      (t.getSet n).loadQ = k.loadQ ++ [{ e with serial := k.serial }] ∧ (t.getSet n).serial = k.serial + 1 ∧ Passes s t ∧
      SameBytes s t
    let loads := loadsFrom s
    (s.cur.isSeqNo 1 = true → k.mxUce = false →
      (State.mxcOk (s.ox a.toNat) = true → Runs (.mxcfg a) s fun t => (t.getSet n).mxc = s.ox a.toNat ∧ Passes s t ∧ SameBytes s t) ∧
      (k.engQ = [] → Runs .mxfence s (Advanced s 4)) ∧ (k.engQ ≠ [] → Runs .mxfence s fun t => t = s) ∧
      (k.engQ.length < 32 → (∃ e, s.engHead n = some e ∧ (e.inLine = true ∨ (State.engBk e).1 ≠ 2)) ∨ k.engQ = [] →
        queued (.mxzero d) (.zero d.toNat) ∧
        (s.mulCheck (s.ox 6) (s.ox 7) = .ok () → queued (.mxmul d a) (.mul d.toNat a.toNat k.mxc (s.ox 6) (s.ox 7))) ∧
        (∀ base, s.rdCheck (s.ox 5) (s.ox 4) (s.x a) = .ok base → queued (.mxrd d a) (.rd d.toNat base (s.ox 5) (s.ox 4) (s.x a)
          (if field (s.ox 5) 31 3 = 7 then s.rm else field (s.ox 5) 31 3) s.satm)))) ∧
    (s.cur.isSeqNo 0 = true → k.loadQ.length < 8 →
      (State.wbOk w = true → wbEs w = false → wbBs w = false → loads (.mxldb d a)
        { target := .wb d.toNat, desc := w, parts := State.colParts w (s.x a) (s.ox 1) (List.replicate (wbN w) (0, 0)) }) ∧
      (∀ em, State.wbOk w = true → field (s.ox 1) 10 54 = 0 → field (s.ox 1) 0 9 < wbN w → field (s.ox 2) 8 56 = 0 →
        bitAt (s.ox 1) 9 = true ∨ s.slotMatches n d.toNat w = true → s.elemMasks a b = .ok em →
        wbEs w = false ∨ State.badMask em = none → wbBs w = false ∨ State.blockMaskOk w (field (s.ox 2) 0 8) = true →
        loadsFrom (if b = 0 then s.touch (s.x a) 16 else s) (.mxldbs d a b)
          { target := .wb d.toNat, desc := w, fresh := bitAt (s.ox 1) 9
            parts := [(field (s.ox 1) 0 9, s.x a + (if b = 0 then 16 else 0),
              colBytes w (if wbBs w then field (s.ox 2) 0 8 else 0), if wbBs w then field (s.ox 2) 0 8 else 0, if wbEs w then em else 0)] }) ∧
      (State.wbOk w = true → wbEs w = true ∨ wbBs w = true → s.ox 2 ≠ 0 → loads (.mxldbg d a)
        { target := .wb d.toNat, desc := w, parts := State.colParts w (s.x a) (s.ox 1) (lfsrMasks w (wbN w) (s.ox 2)) }) ∧
      (field w 26 38 = 0 → field w 9 3 ≤ 5 → field w 17 9 ≤ 256 → field w 0 9 ≤ 256 → (s.ox 2).toNat % 8 = 0 → loads (.mxstg d a)
        { target := .stage d.toNat, desc := w, tagAddr := s.ox 2
          parts := (List.range (field w 0 9)).map fun i => (i, s.x a + ofN i * s.ox 1, field w 17 9, 0, 0) })) ∧
    (s.cur.isSeqNo 1 = true → k.mxUce = false → State.mxcOk (s.ox a.toNat) = false →
      Runs (.mxcfg a) s fun t => t = s.raise ⟨Cause.metadataMalformed, s.ox a.toNat, 0⟩) ∧
    (s.cur.isSeqNo 0 = true →
      (State.wbOk w = false ∨ wbEs w = true ∨ wbBs w = true →
        Runs (.mxldb d a) s fun t => t = s.raise ⟨Cause.metadataMalformed, w, 0⟩) ∧
      (State.wbOk w = false ∨ (wbEs w = false ∧ wbBs w = false) →
        Runs (.mxldbg d a) s fun t => t = s.raise ⟨Cause.metadataMalformed, w, 0⟩) ∧
      (State.wbOk w = false → Runs (.mxldbs d a b) s fun t => t = s.raise ⟨Cause.metadataMalformed, w, 0⟩) ∧
      (State.wbOk w = true → field (s.ox 1) 10 54 ≠ 0 ∨ wbN w ≤ field (s.ox 1) 0 9 →
        Runs (.mxldbs d a b) s fun t => t = s.raise ⟨Cause.metadataMalformed, s.ox 1, 0⟩) ∧
      (field w 26 38 ≠ 0 ∨ 5 < field w 9 3 ∨ 256 < field w 17 9 ∨ 256 < field w 0 9 →
        Runs (.mxstg d a) s fun t => t = s.raise ⟨Cause.metadataMalformed, w, 0⟩) ∧
      (field w 26 38 = 0 → field w 9 3 ≤ 5 → field w 17 9 ≤ 256 → field w 0 9 ≤ 256 → (s.ox 2).toNat % 8 ≠ 0 →
        Runs (.mxstg d a) s fun t => t = s.raise ⟨Cause.metadataMalformed, s.ox 2, 0⟩)) ∧
    (s.cur.isSeqNo 1 = false → ∀ i ∈ [Instr.mxcfg a, .mxzero d, .mxmul d a, .mxrd d a, .mxfence],
      Runs i s fun t => t = s.raise ⟨Cause.illegalIssuer, (encode i).word, 0⟩) ∧
    (s.cur.isSeqNo 0 = false → ∀ i ∈ [Instr.mxldb d a, .mxldbs d a b, .mxldbg d a, .mxstg d a],
      Runs i s fun t => t = s.raise ⟨Cause.illegalIssuer, (encode i).word, 0⟩)

/-- R166 to R175: FORK queues a program start with the argument, ox and p registers and the ticket that X[d] takes, or answers 0
when 16 wait; JOIN gives the exit value of an ended program and else waits; SEMPOST adds, saturating; SEMWAIT takes its count at
once when it is first and the count is there, else waits in line; ENGSTAT reads the selected status. -/
def Obligations.SequencersAndSemaphores : Prop :=
  ∀ (s : State) (d a b : BitVec 5),
    let n := s.cur.setNo
    let k := s.getSet n
    let w := s.x a
    let forks := fun (ins : Instr) (q : Nat) => s.mayFork q = true → Acts s →
      ((Tbl.get [] k.forkQ q).length < 16 → Runs ins s fun t =>
        (∃ e, Tbl.get [] (t.getSet n).forkQ q = Tbl.get [] k.forkQ q ++ [e] ∧ e.entry = w ∧ e.arg = s.x b ∧ e.ox = s.me.ox ∧
          e.p = s.me.p ∧ e.seqNo = (Tbl.get 0 k.forkSeq q + 1) % 2 ^ 48) ∧
        Gives s d (ofN (q * 2 ^ 62 + (Tbl.get 0 k.forkSeq q + 1) % 2 ^ 48)) t ∧ SameBytes s t) ∧
      (16 ≤ (Tbl.get [] k.forkQ q).length → Runs ins s (RegStep s d 0 4))
    s.setOwned = true →
    forks (.forkMs d a b) 0 ∧ forks (.forkMi d a b) 1 ∧ forks (.forkCs d a b) 2 ∧
    (s.cur.isT6 = false → field w 62 2 ≠ 3 → field w 0 48 ≠ 0 → field w 0 48 ≤ Tbl.get 0 k.forkSeq (field w 62 2) →
      (s.joined n (field w 62 2) (field w 0 48) = true →
        Runs (.join d a) s (RegStep s d (s.joinValue n (field w 62 2) (field w 0 48)) 4)) ∧
      (s.joined n (field w 62 2) (field w 0 48) = false →
        Runs (.join d a) s (Waits s { kind := .join n (field w 62 2) (field w 0 48), rd := d }))) ∧
    (Acts s → s.pushesPending s.cur = false → Runs (.sempost d a) s fun t =>
      (t.sem n d.toNat).toNat = min ((s.sem n d.toNat).toNat + field w 0 16) 0xFFFF ∧
      (∀ j, j ≠ d.toNat → t.sem n j = s.sem n j) ∧ Passes s t ∧ SameBytes s t) ∧
    (Acts s → s.cur.isT6 = false → 0 < field w 0 16 → field w 0 16 ≤ (s.sem n d.toNat).toNat → s.semFirst n d.toNat = none →
      Runs (.semwait d a) s fun t => t.sem n d.toNat = s.sem n d.toNat - BitVec.ofNat 16 (field w 0 16) ∧
        (∀ j, j ≠ d.toNat → t.sem n j = s.sem n j) ∧ Passes s t ∧ SameBytes s t) ∧
    (Acts s → s.cur.isT6 = false → (s.sem n d.toNat).toNat < field w 0 16 → Runs (.semwait d a) s fun t =>
      (t.getSet n).semLine = k.semLine ++ [(d.toNat, some s.cur.key, field w 0 16)] ∧
      t.me = { s.me with st := .wait, wait := some { kind := .sem n d.toNat (field w 0 16) } } ∧ OthersKeep s t ∧ SameBytes s t) ∧
    Runs (.engstat d a) s (RegStep s d (s.engStat n (field w 0 8)) 4)

/-! ### Machine events: messages and activations (chapters 2, 12, 13, 17) -/

/-- R16, R21, R22, R275 to R282: the network's events. The head of a send buffer enters the mesh; a waiting request takes a free
entry; a message whose core is absent goes back with NACK NOCORE; one for a bound entry enters the free inbox slot; a return
reaches the live context it names as a pending NACK, an edge agent's return is counted; a reply writes the register that waits;
a changed entry readies, holds or returns its messages; a pending message is delivered; a deferred one is ready again. -/
def Obligations.MessageEvents : Prop :=
  ∀ (s : State) (u i core hid slot k : Nat) (m : Msg),
    (∀ rest line, s.sendQ u = (m :: rest, line) → s.injectable u m = true → m.kind ≠ 4 → m.kind ≠ 5 → m.kind ≠ 6 →
      Runs (.messageInject u) s fun t => t.sendQ u = (rest, line) ∧
        t.mesh = s.mesh ++ [{ m with dst := (s.physOf m.dc).getD m.dc }] ∧ t.thr = s.thr ∧ SameBytes s t) ∧
    (∀ buf key rest w, s.sendQ u = (buf, (key, m) :: rest) → buf.length < 4 → key < 4096 → rest.any (fun e => decide (e.1 = key)) = false →
      (s.thread (Agent.ofKey key)).wait = some w → w.kind = .send → State.wantsReply m = false → s.sendHeld key = false → Runs (.sendBufferGrant u) s fun t =>
        (t.sendQ u).1.map Msg.bare = (buf ++ [s.stamp m]).map Msg.bare ∧
        (t.sendQ u).2.map (fun x => (x.1, x.2.bare)) = rest.map (fun x => (x.1, x.2.bare)) ∧
        (t.thread (Agent.ofKey key)).wait = none ∧ SameBytes s t) ∧
    (s.mesh[i]? = some m →
      (m.dst < 128 → m.nack = false → m.kind ≠ 4 → s.absent m = true → s.behindInMesh i m = false → s.heldAtBridge m = false →
        Runs (.messageArrival i) s fun t => t.mesh = s.mesh.eraseIdx i ++
          [{ m with hdr0 := setField (m.hdr0 ||| 0x100) 0 7 2, src := m.dst, dst := s.senderUnit m, received := false, refused := false
                    loop := false, last := false }] ∧
          t.thr = s.thr ∧ SameBytes s t) ∧
      (m.dst < 128 → m.nack = false → m.kind = 0 → m.loop = false → s.absent m = false → s.arrivalsHeld m.dst = false →
        s.canReceive i m = true → s.inBuffer m.dst 0 = [] → s.windowRefuses m.dst m = false → s.entryState m.dst m.dh = .bound →
        hRemote (s.handler0 m.dst m.dh) = false → s.somePending m.dst m.dh = false → (s.getCore m.dst).overflow = false →
        s.freeInbox m.dst = some k → Runs (.messageArrival i) s fun t => t.mesh = s.mesh.eraseIdx i ∧ t.thr = s.thr ∧
          (∃ e, (t.getCore m.dst).inbox = (s.getCore m.dst).inbox ++ [e] ∧ e.slot = k ∧ e.msg.hdr0 = m.hdr0 ∧
            e.msg.payload = m.payload ∧ e.arrival = s.timebase ∧ e.taken = false) ∧
          Memory.readN t.mem (ulmLoc m.dst (s.slotAddr m.dst k)) m.bytes.length = m.bytes) ∧
      (m.dst < 128 → m.nack = true → m.kind = 0 → m.received = true → s.firstInBuffer i m = true → s.arrivalsHeld m.dst = false →
        m.ctxKind = k → k < 7 → (s.thread (.thr m.dst k)).live = true → (s.thread (.thr m.dst k)).gen.toNat = m.ctxLow →
        (s.thread (.thr m.dst k)).cellBusy = false → Runs (.messageReturnArrival i) s fun t => t.mesh = s.mesh.eraseIdx i ∧
          t.thread (.thr m.dst k) = { s.thread (.thr m.dst k) with
            cellBusy := true
            pendTrap := (s.thread (.thr m.dst k)).pendTrap ++
              [{ code := Cause.nack, sub := BitVec.ofNat 8 m.sub, tval := ofN (s.returnCell m.dst k) }] } ∧
          Memory.readN t.mem (ulmLoc m.dst (s.returnCell m.dst k)) m.bytes.length = m.bytes) ∧
      (144 ≤ m.dst → m.nack = true → m.ctxLow = 6 → s.behindInMesh i m = false → s.heldAtBridge m = false →
        Runs (.edgeReturn i) s fun t => t.mesh = s.mesh.eraseIdx i ∧ t.thr = s.thr ∧ SameBytes s t ∧
          Tbl.get 0 (t.getDie (State.unitDie m.dst)).counters 7 = Tbl.get 0 (s.getDie (State.unitDie m.dst)).counters 7 + 1) ∧
      (∀ o, m.dst < 128 → m.nack = false → m.kind = 4 → m.received = true → s.firstInBuffer i m = true →
        s.arrivalsHeld m.dst = false → m.ctxKind = k → k < 7 → State.answered (s.thread (.thr m.dst k)) m = some o →
        (s.thread (.thr m.dst k)).live = true → (s.thread (.thr m.dst k)).gen.toNat = m.ctxLow →
        let th := s.thread (.thr m.dst k)
        let u := ({ th with outst := th.outst.erase o } : Thread).setX o.rd (m.word 0)
        (State.replyHeld th = false → Runs (.replyArrival i) s fun t => t.mesh = s.mesh.eraseIdx i ∧ SameBytes s t ∧
          t.thread (.thr m.dst k) = u) ∧
        (∀ w, th.wait = some w → w.kind = .reply → u.awaits u.loopReg = false → th.landing = 0 → Runs (.replyArrival i) s fun t =>
          t.mesh = s.mesh.eraseIdx i ∧ SameBytes s t ∧ t.thread (.thr m.dst k) = ({ u with wait := none } : Thread).next w.len))) ∧
    (s.entryState core hid = .exited → Runs (.handlerEntryChange core hid) s fun t =>
      (∀ e ∈ (t.getCore core).inbox, e.taken = true ∨ e.msg.dh ≠ hid) ∧ t.thr = s.thr ∧
      (s.somePending core hid = false → SameBytes s t)) ∧
    (s.entryState core hid ≠ .exited → s.timebase ≠ 0 → Runs (.handlerEntryChange core hid) s fun t =>
      (∀ e ∈ (t.getCore core).inbox, e.msg.dh = hid → (e.readySince = 0 ↔ s.entryReady core hid = false)) ∧
      (t.getCore core).inbox.length = (s.getCore core).inbox.length ∧ t.thr = s.thr ∧ SameBytes s t) ∧
    (∀ s1, s.entryState core hid = .bound → s.entryReady core hid = true → s.arrivalsHeld core = false →
      s.pendPop core hid = some (s1, m) → (s.getCore core).overflow = false → m.loop = false → s.freeInbox core = some k →
      Runs (.pendingDelivery core hid) s fun t => t.thr = s.thr ∧
        ∃ e, (t.getCore core).inbox = (s.getCore core).inbox ++ [e] ∧ e.slot = k ∧ e.msg.hdr0 = m.hdr0 ∧ e.taken = false) ∧
    ((∃ e ∈ (s.getCore core).inbox, e.slot = slot ∧ ∃ w, e.notBefore = some w ∧ w.toNat ≤ s.timebase.toNat) →
      Runs (.deferReady core slot) s fun t => t.thr = s.thr ∧ SameBytes s t ∧
        ∀ e ∈ (t.getCore core).inbox, e.slot = slot → e.notBefore = none ∧ e.arrival = s.timebase)

/-- R23, R27, R29, R32, R36, R38, R312: taking a message gives its thread the entry state; END's commit performs the journaled
stores and frees the thread and its inbox slot; the watchdogs record WATCHDOG; T6 takes active messages and serves remote
operations; migrated contexts arrive and their forwarding ends; a passed deadline sets MISS. -/
def Obligations.ActivationEvents : Prop :=
  ∀ (s : State) (core tid i : Nat) (m : Msg) (rest : List Msg),
    let a : Agent := .thr core tid
    let th := s.thread a
    (∀ c im, s.takes core = true → s.bestCand core = some c → c.src = .inl im → im.msg.kind = 0 → im.retake = none → c.tid = tid →
      tid < 6 → s.pregV core (hPreg (s.handler0 core im.msg.dh)) = false → Runs (.messageTake core) s fun t =>
        let n := t.thread a
        n.pc = hEntry (s.handler0 core im.msg.dh) &&& ~~~1 ∧ n.getX 1 = 0 ∧ n.getX 2 = s.stackTop core tid ∧ n.getX 3 = 0 ∧
        n.getX 4 = ofN (s.slotAddr core im.slot) ∧ n.getX 5 = im.msg.word 0 ∧ n.getX 6 = im.msg.word 1 ∧ n.getX 7 = im.msg.hdr0 ∧
        n.actst = 0 ∧ n.hid = im.msg.dh ∧ n.st = .run ∧ n.wait = none ∧ n.journal = [] ∧
        (hResident (s.handler0 core im.msg.dh) = false → ∀ r : BitVec 5, 8 ≤ r.toNat → n.getX r = 0) ∧
        (∀ e ∈ (t.getCore core).inbox, e.slot = im.slot → e.taken = true) ∧ SameBytes s t) ∧
    (∀ w d l va v cost xs unc, tid < 6 → th.wait = some w → w.kind = .ending d → d = none → th.jbad = false → th.resident = false →
      th.hosted = none → th.launch = false → th.slotAt = none → s.sendPending a = false →
      (th.journal = [] → Runs (.endCommit core tid) s fun t => (t.thread a).st = .free ∧ (t.thread a).wait = none ∧ SameBytes s t ∧
        ∀ e ∈ (t.getCore core).inbox, some e.slot ≠ th.slot) ∧
      (th.journal = [.store l 0 va ((wordBytes v).map some) cost xs unc] → placeOf l = .ulm → s.blocked l 8 true = false →
        s.acrossBridge a.dieNo l = false → Runs (.endCommit core tid) s fun t => (t.thread a).st = .free ∧ (t.thread a).journal = [] ∧ Stored s t l (wordBytes v))) ∧
    (tid < 6 → State.watchdogDue th = true → Runs (.watchdogExpiry core tid) s fun t => SameBytes s t ∧ t.thread a =
      { th with wdFired := true, pendTrap := th.pendTrap ++ [{ code := Cause.watchdog, sub := 0 }] }) ∧
    (tid = 6 → State.watchdogDue th = true → Runs (.activeMessageWatchdog core) s fun t => SameBytes s t ∧ t.thread a =
      { th with wdFired := true, pendTrap := th.pendTrap ++ [{ code := Cause.watchdog, sub := 1 }] }) ∧
    (∀ n q e, (s.thread (.seq n q)).st = .run → (s.thread (.seq n q)).wdLeft = 0 → Tbl.get none (s.getSet n).cur q = some e →
      Runs (.sequencerWatchdog n q) s fun t => (t.thread (.seq n q)).st = .free ∧ SameBytes s t ∧
        (Tbl.get [] (t.getSet n).exits q).head? = some (e.seqNo, ofN (2 ^ 63 + 0x15))) ∧
    ((s.getCore core).t6q = m :: rest → s.t6Ready core = true → core < 128 →
      (m.kind ≠ 3 → Runs (.activeMessageStart core) s fun t =>
        let n := t.thread (.thr core 6)
        n.st = .run ∧ n.pc = hEntry (t.handler0 core m.dh) &&& ~~~1 ∧ n.getX 4 = ofN (s.blockAddr core 0x1D80) ∧
        n.getX 5 = m.word 0 ∧ n.getX 6 = m.word 1 ∧ n.getX 7 = m.hdr0 ∧ (t.getCore core).t6q = rest ∧
        SameBytesOutside s t (ulmLoc core (s.blockAddr core 0x1D80)) (ulmLoc core (s.blockAddr core 0x1D80) + m.bytes.length)) ∧
      (let ad := field (m.word 0) 0 20
       let old := s.ulmWord core ad
       let replied := fun (t : State) => (t.getCore core).sendBuf.getLast?.map (fun r => (r.payload, r.dst, r.kind)) = some ([old], s.senderUnit m, 4)
       let kept := fun (t : State) => (t.getCore core).t6q = rest ∧ ∀ b : Agent, (t.thread b).Is (s.thread b)
       m.kind = 3 → m.poisoned = false → s.poisoned (ulmLoc core ad) 8 = false → s.sbBlocks core ad 8 true = false →
       (s.getCore core).sendBuf.length < 4 → (s.getCore core).niWait = [] → s.pushesPending (.thr core 6) = false →
       (m.sub = 0x08 → Runs (.rldServe core) s fun t => replied t ∧ kept t ∧ SameBytes s t) ∧
       (m.sub = 0x09 → Runs (.rstServe core) s fun t => kept t ∧ Stored s t (ulmLoc core ad) (wordBytes (m.word 1))) ∧
       (m.sub = 0x0A → old = m.word 2 → Runs (.rcasServe core) s fun t =>
         replied t ∧ kept t ∧ Stored s t (ulmLoc core ad) (wordBytes (m.word 1))) ∧
       (m.sub = 0x0A → old ≠ m.word 2 → Runs (.rcasServe core) s fun t => replied t ∧ kept t ∧ SameBytes s t) ∧
       (∀ op, op ≤ 8 → m.sub = 0x10 + op → Runs (.ramoServe core) s fun t => (m.word 2 ≠ 0 → replied t) ∧ kept t ∧
         Stored s t (ulmLoc core ad) (wordBytes (State.ramoNew op old (m.word 1)))))) ∧
    (∀ g, s.migrants[i]? = some g → g.arrived = false → s.retraining = false → Runs (.migrateArrival i) s fun t =>
      (t.migrants[i]?).map (fun x => (x.arrived, x.th)) = some (true, g.th) ∧ t.migrants.length = s.migrants.length ∧ t.thr = s.thr) ∧
    (∀ f, s.forwards[i]? = some f → f.upTo.toNat ≤ s.timebase.toNat → Runs (.migrateForwardExpiry i) s fun t =>
      t = { s with forwards := s.forwards.eraseIdx i }) ∧
    (tid < 6 → th.live = true → s.missDue th = true → Runs (.deadlineMiss core tid) s fun t =>
      bitAt (t.thread a).actst 5 = true ∧ (t.thread a).pc = th.pc ∧ (t.thread a).x = th.x)

/-- R28, R136, R215, R391 to R404: an error strikes its object; a consumed error retakes the message of an activation that may
be retaken; a pre-emption, a save, a resumption and a restore follow each other; T7 takes its items; a first mismatch raises an
item and one strike, a second takes the core OFF; a scan ends with its result in SCANRUN's register; a core comes to rest. -/
def Obligations.ServiceEvents : Prop :=
  ∀ (s : State) (core tid i l : Nat),
    let a : Agent := .thr core tid
    let th := s.thread a
    let itemMore := fun (t : State) => (t.getCore core).t7q.length = (s.getCore core).t7q.length + 1
    Runs (.uncorrectableError (.sector l)) s (fun t => t.poisoned l 1 = true ∧ t.thr = s.thr ∧ SameBytes s t) ∧
    Runs (.uncorrectableError (.journal core tid)) s (fun t =>
      t.thread a = { th with jbad := !th.journal.isEmpty || th.jbad } ∧ SameBytes s t) ∧
    Runs (.uncorrectableError (.counter i l)) s (fun t => (t.dc i l).poison = true ∧ SameBytes s t) ∧
    (∀ p more k, tid < 6 → s.trapReady a = true → th.pendTrap = p :: more → p.code = Cause.uncorrectable → th.nr = false →
      th.rtk < 2 → th.resident = false → th.hosted = none → th.slot = some k → Runs (.uncorrectableTrap core tid) s fun t =>
        (t.thread a).st = .free ∧ ∀ e ∈ (t.getCore core).inbox, e.slot = k →
          e.taken = false ∧ e.retake = some (th.actid, th.rtk + 1)) ∧
    ((s.getCore core).preemptOut = false → (s.getCore core).preemptFrom.toNat ≤ s.timebase.toNat → s.t7Full core = false →
      s.takes core = true → (s.getCore core).inbox.findSome? (s.victimOf core) = some i → s.trapReady (.thr core i) = false → Runs (.preemptRequest core) s fun t =>
        (t.getCore core).preemptOut = true ∧ itemMore t ∧ t.thr = s.thr) ∧
    (∀ w parked, th.wait = some w → w.kind = .saving parked → Runs (.saveComplete core tid) s fun t =>
      (t.thread a).st = .saved ∧ ∃ h, (t.thread a).hosted = some h ∧ h.parked = parked ∧ h.actid = th.actid ∧ h.journal = th.journal) ∧
    (∀ h, th.hosted = some h → th.st = .saved → h.parked = false → th.resuming = false → th.restoring = false →
      ((s.candidates core).any fun c => decide (c.tid = tid)) = false → s.t7Full core = false → s.takes core = true →
      Runs (.resumptionItem core tid) s fun t => (t.thread a).resuming = true ∧ itemMore t) ∧
    (∀ h, th.hosted = some h → th.st = .saved → th.restoring = true → h.ctxBuf = [] → h.saveMsgs = [] →
      Runs (.restoreComplete core tid) s fun t => (t.thread a).st = .run ∧ (t.thread a).hosted = none ∧
        (t.thread a).journal = h.journal ∧ (t.thread a).slot = h.slot ∧ SameBytes s t) ∧
    (∀ it rest, (s.getCore core).started = true → (s.getCore core).t7q = it :: rest → (s.getCore core).t7cur = none →
      (s.getCore core).resetting = false → (s.thread (.thr core 7)).st = .free → it.kind = 0 → Runs (.serviceItemStart core) s fun t =>
        (t.getCore core).t7cur = some it ∧ (t.getCore core).t7q = rest ∧ (t.thread (.thr core 7)).st = .run ∧
        (t.thread (.thr core 7)).pc = ofN (field (s.block core 0x1000) 0 20) ∧ SameBytes s t) ∧
    (∀ o, s.choose core = some o → field (s.getCore core).ckstat 0 2 = 0 → s.t7Full core = false →
      Runs (.checkerMismatch core) s fun t => field (t.getCore core).ckstat 0 2 = 1 ∧ itemMore t ∧ t.thr = s.thr) ∧
    (∀ o, s.choose core = some o → field (s.getCore core).ckstat 0 2 = 1 → Runs (.checkerMismatch core) s fun t =>
      bitAt (t.getCore core).ckstat 16 = true ∧ (∀ k, k < 8 → k ≠ 6 → (t.thread (.thr core k)).st = .off) ∧
      (t.thread (.thr core 6)).st = (if State.t6Runs (s.thread (.thr core 6)) then (s.thread (.thr core 6)).st else .off)) ∧
    (s.t7Full core = false → bitAt (s.getCore core).ckstat 16 = false → field (s.getCore core).ckstat 0 2 = 0 →
      Runs (.knownAnswerMismatch core false) s fun t => field (t.getCore core).ckstat 0 2 = 1 ∧ itemMore t ∧ t.thr = s.thr) ∧
    (∀ k d, (s.getCore core).scan = some k → k.rd = some d → (s.thread (.thr core 7)).st = .wait →
      (s.thread (.thr core 7)).wait = some { kind := .scan, rd := d } →
      let goes := fun (t : State) (n : Nat) => (t.getCore core).scan = none ∧ SameBytes s t ∧ t.thread (.thr core 7) =
        (({ s.thread (.thr core 7) with wait := none, st := .run } : Thread).setX d (ofN n)).next 4
      (k.start.toNat + 200000 ≤ s.timebase.toNat →
        Runs (.scanComplete core true) s (fun t => goes t 0 ∧ bitAt (t.getCore core).ckstat 20 = false) ∧
        Runs (.scanComplete core false) s (fun t => goes t 1 ∧ bitAt (t.getCore core).ckstat 20 = true)) ∧
      ((s.getCore core).t7q.any (fun i => decide (i.kind = 3)) = true → Runs (.scanAbort core) s (fun t => goes t 2))) ∧
    (∀ r, (s.getCore core).stop = some r → r.atRest = false → (s.settleStops core).coreAtRest core = true →
      Runs (.coreAtRest core) s fun t => (t.getCore core).stop = some { r with atRest := true } ∧ SameBytes s t ∧
        (Tbl.get [] (t.getDie (core / 64)).stopRec (core % 64)).head? = some s.timebase)

/-! ### Machine events: waits, the Set and the copies (chapters 6, 8, 11, 12, 16) -/

/-- R85, R133, R173, R174, R287, R290, R371, R374: each event that ends a wait completes the instruction that waited, with its
result; a poisoned counter or barrier gives DEPFAULT instead; a raise on its way reaches SFLAGS. -/
def Obligations.WaitEvents : Prop :=
  ∀ (s : State) (agent set : Nat) (rd : BitVec 5) (len : Nat) (rel bad : Bool) (clk : Clock),
    let a := Agent.ofKey agent
    let waitsFor := fun (k : WaitKind) =>
      s.waiting a = some { kind := k, rd := rd, len := len, released := rel, doomed := bad, clock := clk }
    let depfault := fun (w : Word) (t : State) => (t.thread a).tcause = State.causeWord false false Cause.depfault 0 ∧
      (t.thread a).tval = w ∧ (t.thread a).epc = (s.thread a).pc ∧ (t.thread a).st = .wait ∧
      (t.thread a).wait = some { kind := .trapHeld }
    let servable := ∃ core tid, a = .thr core tid ∧ tid < 7 ∧ State.userLevel (s.thread a) Cause.depfault = false ∧
      s.t7Full core = false ∧ bitAt (s.getCore core).ckstat 16 = false
    (∀ v item noTime, waitsFor (.time v item noTime) → s.timeMet a v item noTime = true →
      Wakes (.waitTimeReached agent) s a len id) ∧
    (∀ d i w, waitsFor (.dc d i w) →
      (bad = false → rel = true ∨ ((s.dc d i).poison = false ∧ (s.dc d i).value = 0) → Wakes (.dcwaitRelease agent) s a len id) ∧
      (bad = true ∨ (rel = false ∧ (s.dc d i).poison = true) → servable → Runs (.dcwaitRelease agent) s (depfault w))) ∧
    (∀ d i ph w, waitsFor (.bar d i ph w) →
      (bad = false → rel = true ∨ ((s.bar d i).poison = false ∧ (s.bar d i).phase ≠ ph) →
        Wakes (.barwaitRelease agent) s a len fun t => t.setX rd (ofN (s.bar d i).phase.toNat)) ∧
      (bad = true ∨ (rel = false ∧ (s.bar d i).poison = true) → servable → Runs (.barwaitRelease agent) s (depfault w))) ∧
    (∀ d i g w, waitsFor (.slate d i g w) →
      (bad = false → rel = true ∨ ((s.getSlate d i).state ≠ 2 ∧ ((s.getSlate d i).gen ≠ g ∨ (s.getSlate d i).state ≠ 1)) →
        Wakes (.slwaitRelease agent) s a len fun t => t.setX rd (s.getSlate d i).word) ∧
      (bad = true ∨ (rel = false ∧ (s.getSlate d i).state = 2) → servable → Runs (.slwaitRelease agent) s (depfault w))) ∧
    (∀ h, waitsFor (.reel h) → bitAt (s.reelFill h) 0 = true →
      Wakes (.reelawaitFill agent) s a len fun t => t.setX rd (ofN (b2n (bitAt (s.reelPsn h) 0) * 2 ^ 63 +
        (s.reelBase h + s.reelRp h % s.reelN h * s.reelSize h)))) ∧
    (∀ q v rest, waitsFor (.qget a.unit q) → s.qMay a q false = true → (s.qreg a.unit q).entries = (v, false) :: rest →
      Wakes (.qgetWake agent) s a len (fun t => t.setX rd v) fun t => (t.qreg a.unit q).entries = rest) ∧
    (∀ u q v, (s.thread a).st = .run → (s.thread a).wait = some { kind := .qput u q v, rd := rd, len := len, released := rel, doomed := bad, clock := clk } →
      s.qMay a q true = true → (s.qreg u q).entries.length < 16 →
      Wakes (.qputRoom agent) s a len id fun t => (t.qreg u q).entries = (s.qreg u q).entries ++ [(v, false)]) ∧
    (∀ n q sq, waitsFor (.join n q sq) → s.joined n q sq = true →
      Wakes (.joinWake agent) s a len fun t => t.setX rd (s.joinValue n q sq)) ∧
    (∀ n i k c, waitsFor (.sem n i k) → s.semGrant n i (some a.key) = some c →
      Wakes (.semwaitGrant agent) s a len id fun t => t.sem n i = s.sem n i - BitVec.ofNat 16 c) ∧
    (∀ w rest, (s.getSet set).flagPend = w :: rest → Runs (.flagToSflags set) s fun t => t.thr = s.thr ∧ SameBytes s t ∧
      t.getSet set = { s.getSet set with flagPend := rest, sflags := (s.getSet set).sflags ||| w })

/-- R107, R171, R184, R189 to R191, R298, R299: a sequencer starts the oldest program of its fork queue with the registers of
R171; the head of the engine queue streams: MXZERO clears its tile, MXMUL adds the products of its rows and columns to the
accumulators; an entry that completes posts; a load starts, completes READY, faults POISON or waits suspended; a row is placed
in its bin or refused, with its status; a full bin, a timeout and a free slot seal. -/
def Obligations.SetEvents : Prop :=
  ∀ (s : State) (set q i bin : Nat),
    let k := s.getSet set
    let mi := Agent.seq set 1
    let items := fun (t : State) => (t.getCore (s.coreZero set)).t7q.length
    let hdrState := fun (t : State) (x : LoadTarget) => match x with
      | .wb j => field (Tbl.get ({} : WbSlot) (t.getSet set).wb j).hdr 62 2
      | .stage j => field (Tbl.get ({} : AStage) (t.getSet set).stages j).hdr 62 2
    (∀ e rest, q < 3 → Tbl.get [] k.forkQ q = e :: rest → (s.thread (.seq set q)).st = .free → Tbl.get none k.cur q = none →
      s.setRuns set = true → Runs (.sequencerProgramStart set q) s fun t =>
        let n := t.thread (.seq set q)
        n.pc = e.entry ∧ n.p = e.p ∧ n.ox = e.ox ∧ n.st = .run ∧ n.journal = [] ∧
        (∀ r, n.getX r = if r = 2 then 0x20000 else if r = 10 then e.arg else 0) ∧
        Tbl.get [] (t.getSet set).forkQ q = rest ∧ Tbl.get none (t.getSet set).cur q = some e ∧ SameBytes s t) ∧
    (∀ e, s.engHead set = some e → s.setRuns set = true →
      let started := fun (t : State) => ∀ x ∈ (t.getSet set).engQ, x.serial = e.serial → x.streaming = true
      (∀ tl, e.op = .zero tl → Runs (.engineEntryStart set) s fun t => started t ∧ SameBytes s t ∧
        (∀ r c, r < 256 → c < 256 → Tbl.get 0 (t.getSet set).tiles (65536 * tl + 256 * r + c) = 0) ∧
        Tbl.get 0 (t.getSet set).tfw tl = 0) ∧
      (∀ tl wb cfg op6 op7, e.op = .mul tl wb cfg op6 op7 → s.mulMet set e wb op6 op7 = true → bitAt op6 13 = false →
        let w := Tbl.get ({} : WbSlot) k.wb wb
        let g := Tbl.get ({} : AStage) k.stages (field op6 14 2)
        field w.hdr 62 2 = 2 → field g.hdr 62 2 = 2 → wbF w.hdr = mxBf cfg → field g.hdr 9 3 = mxAf cfg →
        mxM cfg ≤ 256 → mxN cfg ≤ 256 → Runs (.engineEntryStart set) s fun t => started t ∧ SameBytes s t ∧
          (∀ r c, r < mxM cfg → c < mxN cfg → Tbl.get 0 (t.getSet set).tiles (65536 * tl + 256 * r + c) =
            (accEntry cfg (mxAf cfg) (Tbl.get [] g.rows r) w c (Tbl.get 0 k.tiles (65536 * tl + 256 * r + c))).1) ∧
          (∀ x, (∀ r c, r < mxM cfg → c < mxN cfg → x ≠ 65536 * tl + 256 * r + c) →
            Tbl.get 0 (t.getSet set).tiles x = Tbl.get 0 k.tiles x))) ∧
    (∀ e rest, k.engQ = e :: rest → e.streaming = true → Runs (.engineEntryComplete set) s fun t =>
      (t.getSet set).engQ = k.engQ.filter (fun x => !decide (x.serial = e.serial)) ∧ SameBytes s t ∧
      (e.flags = 0 → t.thr = s.thr) ∧ (e.flags ≠ 0 → t.thread mi = (s.thread mi).raised e.flags) ∧
      (∀ j, State.engPost e = some j → (t.sem set j).toNat = min ((s.sem set j).toNat + 1) 0xFFFF)) ∧
    (∀ e rest, k.loadQ = e :: rest → e.started = false → s.setRuns set = true →
      k.engQ.any (State.mulBefore e.serial e.target) = false → Runs (.weightLoadStart set) s fun t =>
        hdrState t e.target = 1 ∧ ((t.getSet set).loadQ.head?.map (·.started)) = some true ∧ t.thr = s.thr ∧ SameBytes s t) ∧
    (∀ e, s.loadRunning set = some (e, none) → Runs (.weightLoadComplete set) s fun t => hdrState t e.target = 2 ∧
      (∀ x ∈ (t.getSet set).loadQ, x.serial ≠ e.serial) ∧ t.thr = s.thr ∧ SameBytes s t ∧
      (∀ j c va n bm em, e.target = .wb j → e.parts = [(c, va, n, bm, em)] →
        Tbl.get [] (Tbl.get ({} : WbSlot) (t.getSet set).wb j).cols c = s.loadSpan set va n ∧
        Tbl.get 0 (Tbl.get ({} : WbSlot) (t.getSet set).wb j).bmask c = bm ∧ Tbl.get 0 (Tbl.get ({} : WbSlot) (t.getSet set).wb j).emask c = em)) ∧
    (∀ e code va, s.loadRunning set = some (e, some (code, va)) → s.t7Full (s.coreZero set) = false →
      (code ≠ Cause.partialResidency → Runs (.weightLoadFault set) s fun t => hdrState t e.target = 3 ∧
        (∀ x ∈ (t.getSet set).loadQ, x.serial ≠ e.serial) ∧ items t = items s + 1 ∧ t.thr = s.thr) ∧
      (code = Cause.partialResidency → Runs (.weightLoadSuspend set) s fun t =>
        ((t.getSet set).loadQ.head?.map (·.suspended)) = some true ∧ items t = items s + 1 ∧ t.thr = s.thr)) ∧
    (∀ x, k.rowXfers[i]? = some x → ((k.rowXfers.take i).any fun y => decide (y.core = x.core)) = false →
      (s.bin set x.bin).lastSeal ≠ some s.timebase →
      let b := s.bin set x.bin
      let answers := fun (t : State) (st : Nat) => (t.getSet set).rowXfers = k.rowXfers.eraseIdx i ∧ ThreadsAre s t ∧
        (t.mesh.getLast?.map fun m => (m.payload, m.dst, m.kind)) = some ([ofN st], x.core, 4)
      let placed := fun (t : State) (j : Nat) => Tbl.get [] (t.tileBuf set j).rows b.rows = x.data ∧
        Tbl.get 0 (t.tileBuf set j).tags b.rows = x.tag ∧ (t.bin set x.bin).rows = b.rows + 1 ∧ (t.bin set x.bin).state = 2
      (b.state = 0 → Runs (.montageRowArrival set i) s fun t => answers t 3 ∧ t.bin set x.bin = b) ∧
      (b.state = 3 → Runs (.montageRowArrival set i) s fun t => answers t 2 ∧ t.bin set x.bin = b) ∧
      (b.state = 1 → s.freeBuf set = none → Runs (.montageRowArrival set i) s fun t => answers t 2 ∧ t.bin set x.bin = b) ∧
      (∀ j, b.state = 1 → b.rows = 0 → s.freeBuf set = some j → b.cap ≠ 1 → Runs (.montageRowArrival set i) s fun t =>
        answers t 0 ∧ placed t j ∧ (t.bin set x.bin).first = s.timebase ∧ SameBytes s t) ∧
      (∀ j, b.state = 2 → s.timebase.toNat < State.dueAt b → b.buf = some j → b.cap ≠ b.rows + 1 → Runs (.montageRowArrival set i) s fun t =>
        answers t 0 ∧ placed t j ∧ SameBytes s t) ∧
      (b.state = 2 → s.timebase.toNat < State.dueAt b → b.cap = b.rows + 1 → s.reelClear b.hdrLoc b.next = false → Runs (.montageRowArrival set i) s fun t =>
        answers t 1 ∧ (t.bin set x.bin).state = 3 ∧ (t.bin set x.bin).cause = 0)) ∧
    (let b := s.bin set bin
     let slot := memBase b.hdrLoc + s.reelSlot b.hdrLoc b.next
     (b.state = 2 → b.first.toNat + 10 * b.tmo ≤ s.timebase.toNat → s.reelClear b.hdrLoc b.next = false →
       Runs (.binTimeout set bin) s fun t => (t.bin set bin).state = 3 ∧ (t.bin set bin).cause = 1 ∧
         (t.bin set bin).sealT = s.timebase ∧ (t.bin set bin).rows = b.rows ∧ t.thr = s.thr ∧ SameBytes s t) ∧
     (b.state = 3 → s.reelFree b.hdrLoc b.next = true → s.reelSlot b.hdrLoc b.next + 32 ≤ memSize b.hdrLoc →
       slot + 32 ≤ b.hdrLoc ∨ b.hdrLoc + 64 ≤ slot →
       Runs (.sealComplete set bin) s fun t => (t.bin set bin).state = (if b.closing then 0 else 1) ∧ (t.bin set bin).rows = 0 ∧
         (t.bin set bin).buf = none ∧ (t.bin set bin).next = (b.next + 1) % s.reelN b.hdrLoc ∧ ThreadsAre s t ∧
         Memory.readN t.mem slot 32 = wordsBytes (State.tileDesc bin b) ∧
         bitAt (t.reelFill b.hdrLoc) (s.reelPos b.hdrLoc b.next) = true))

/-- R206, R214, R253 to R258, R264: a copy with ORD starts after the one before it; a copy writes the bytes of its next piece;
it is SUSPENDED at a byte that is not resident, ends DONE after its last byte and FAULT at a poisoned source sector; regions
spill and fill, and a filled one lets its waiters go on; a stream reads ahead and writes its pushes. -/
def Obligations.CopyEvents : Prop :=
  ∀ (s : State) (h : BitVec 64) (core tid i slot : Nat) (off : Word) (e : Agent) (c : Copy),
    let endedAs := fun (t : State) (st : CState) (cause : BitVec 8) (prog : Nat) =>
      (t.ceOf e).ended.head? = some (c.handle, State.copyStatus { c with state := st, cause := cause, prog := prog }) ∧
      ∀ x ∈ (t.ceOf e).live, x.handle ≠ c.handle
    let oneItem := fun (u t : State) => (t.getCore (u.t7CoreOf e)).t7q.length = (u.getCore (u.t7CoreOf e)).t7q.length + 1
    (s.copyWith h = some (e, c) →
      (c.started = false → s.engineWith c.after = none → c.len ≠ 0 →
        Runs (.copyStart h) s fun t => { c with started := true } ∈ (t.ceOf e).live ∧ t.thr = s.thr ∧ SameBytes s t) ∧
      (∀ n d g g', s.copyRuns c = true → s.copyNext c = .go n → c.dst = [d] → segAt c.src c.prog = some g → segAt d c.prog = some g' →
        g'.key = 0 → (placeOf (g'.loc + (c.prog - g'.off)) = .ulm ∨ ∃ d, placeOf (g'.loc + (c.prog - g'.off)) = .hbm d) →
        Runs (.copyLineRelease h) s fun t => { c with prog := n } ∈ (t.ceOf e).live ∧ t.thr = s.thr ∧
          Stored s t (g'.loc + (c.prog - g'.off)) (s.readSeg g c.prog (n - c.prog))) ∧
      (s.t7Full (s.t7CoreOf e) = false → c.role = .plain →
        (c.state = .fault → Runs (.copyFault h) s fun t => endedAs t .fault c.cause c.prog ∧ oneItem s t) ∧
        (∀ s1 c1 n, c.state ≠ .fault → s.copyAdvanced h = some (s1, e, c1) → c1 = { c with prog := c1.prog } →
          s1.copyNext c1 = .bad n → Runs (.copyFault h) s fun t => endedAs t .fault Cause.uncorrectable n ∧ oneItem s1 t))) ∧
    (∀ s1, s.copyAdvanced h = some (s1, e, c) →
      (∀ o va, s1.copyNext c = .hole o va → s.t7Full (s.t7CoreOf e) = false → Runs (.copySuspend h) s fun t => oneItem s1 t ∧
        (t.ceOf e).live = (s1.ceOf e).live.map fun x =>
          if x.handle = h then { x with state := .suspended, cause := Cause.partialResidency } else x) ∧
      (c.len ≤ c.prog → c.role = .plain → Runs (.copyComplete h) s fun t => endedAs t .done 0 c.prog ∧
        (c.ck = 0 → SameBytes s1 t ∧ t.thr = s1.thr))) ∧
    (∀ r fill, i < 16 → s.pregV core i = true → s.pregState core i = (if fill then 2 else 0) →
      s.residencyReq core i fill (if fill then off else 0) = .ok r → s.copyReady (.thr core 7) r = true →
      Runs (if fill then .residencyFill core i off else .residencySpill core i) s fun t =>
        t.pregState core i = (if fill then 3 else 1) ∧ t.thr = s.thr ∧
        (t.ceOf (.thr core 7)).live.getLast?.map (fun x => (x.handle, x.src, x.dst, x.len)) =
          some (s.residencyHandle core i, r.src, r.dst, r.len)) ∧
    (∀ s1 fill, s.copyAdvanced (s.residencyHandle core i) = some (s1, e, c) → c.len ≤ c.prog → c.role = .residency core i fill →
      c.ck = 0 → Runs (.residencyCopyComplete core i) s fun t => t.pregState core i = (if fill then 0 else 2) ∧
        ∀ w moved, fill = true → tid < 6 → (s1.thread (.thr core tid)).wait = some w → w.kind = .residency i moved →
          (t.thread (.thr core tid)).wait = none) ∧
    (let a : Agent := .thr core tid
     let st := (s.thread a).getSs slot
     (∀ p, State.readsAhead (s.thread a) = true → s.nextStrip a st = some p → Runs (.streamReadahead core tid slot) s fun t =>
       t.thread a = (s.thread a).setSs slot { st with ahead := st.ahead ++ [p] } ∧
       (∀ b : Agent, b.key ≠ a.key → t.thread b = s.thread b) ∧ SameBytes s t) ∧
     (∀ w, s.nextPush core tid slot = some w → s.pushHeld w = false → s.acrossBridge (core / 64) w.loc = false → w.key = 0 →
       (placeOf w.loc = .ulm ∨ ∃ d, placeOf w.loc = .hbm d) →
       Runs (.streamPushWrite core tid slot) s fun t => Stored s t w.loc w.bytes ∧ t.thr = s.thr ∧
         (t.getCore core).pushQ = (s.getCore core).pushQ.filter fun x => !decide (x.no = w.no)))

/-! ### Machine events: queues, stages, ingress, reduction and tables (chapters 10, 12, 13, 14) -/

/-- R285, R292, R295, R304 to R309, R316, R373, R377, R378: TENQ entries and launch packets enter their queues or go back with
the NACK code that says why; the CP drops, holds or dispatches its head packet; a packet is ready once its counter reads 0 and
is removed once it is poisoned; a report and the highest-ranked ready packet make a LAUNCH; the Gaffer samples and moves a core;
the ingress unit sends EVENTs, advances watermarks and counts what it drops; a slate times out; a round combines and its result
goes out. -/
def Obligations.ScheduleEvents : Prop :=
  ∀ (s : State) (i p h j die port core tid fn addr tree router : Nat) (m : Msg) (words : List Word),
    let d := die % 2
    let backWith := fun (code : Nat) (t : State) => t.thr = s.thr ∧ SameBytes s t ∧ t.mesh = s.mesh.eraseIdx i ++
      [{ m with hdr0 := setField (m.hdr0 ||| 0x100) 0 7 code, src := m.dst, dst := s.senderUnit m, received := false, refused := false
                loop := false, last := false }]
    (s.taskAt i 1 = some m →
      (s.taskQ m.part (launchQh m.payload) = none → Runs (.launchAccept i) s (backWith 6)) ∧
      (∀ q, s.taskQ m.part (launchQh m.payload) = some q →
        (q.disc ≠ 1 → Runs (.launchAccept i) s (backWith 7)) ∧
        (q.disc = 1 → q.depth ≤ q.entries.length → Runs (.launchAccept i) s (backWith 5)) ∧
        (q.disc = 1 → q.entries.length < q.depth → s.regionValid m.part q.rcb = true →
          field (s.rcbWord m.part q.rcb 12) 0 16 < s.effBudget m.part q.rcb → Runs (.launchAccept i) s fun t =>
            t.mesh = s.mesh.eraseIdx i ∧ t.thr = s.thr ∧ ∃ e,
              (t.taskQ m.part (launchQh m.payload)).map (·.entries) = some (q.entries ++ [e]) ∧ e.words = m.payload ∧
              e.blocked = s.launchBlocked m.payload ∧ e.order = q.order ∧
              e.prio = min (if bitAt (wordAt m.payload 0) 33 then s.effPrio m.part q.rcb else field (wordAt m.payload 0) 34 6)
                (s.effCeil m.part q.rcb)))) ∧
    (s.taskAt i 0 = some m →
      (s.taskQ m.part m.tag = none → Runs (.taskEnqueue i) s (backWith 6)) ∧
      (∀ q, s.taskQ m.part m.tag = some q →
        (q.disc = 1 → Runs (.taskEnqueue i) s (backWith 7)) ∧
        (q.disc ≠ 1 → q.depth ≤ q.entries.length → Runs (.taskEnqueue i) s (backWith 5)) ∧
        (q.disc ≠ 1 → q.entries.length < q.depth → Runs (.taskEnqueue i) s fun t =>
          t.mesh = s.mesh.eraseIdx i ∧ t.thr = s.thr ∧ SameBytes s t ∧
          (t.taskQ m.part m.tag).map (·.entries) = some (q.entries ++
            [{ words := m.payload, poisoned := m.poisoned, order := q.order, clock := m.clock }])))) ∧
    (s.postedA = [] → (d = 1 → s.retraining = false) →
      let bad := s.recovery = true ∨ words.length ≠ 8 ∨ addr % 64 ≠ 0 ∨ 0x1000 < addr + 64
      (bad → Runs (.launchWindowWrite die fn (addr, words)) s fun t => t = s.countDie d 9) ∧
      (¬ bad → (s.getDie d).cpFifo.length < 256 → Runs (.launchWindowWrite die fn (addr, words)) s fun t => ThreadsAre s t ∧ SameBytes s t ∧
        (t.getDie d).cpFifo.map (fun k => (k.fn, k.words)) = (s.getDie d).cpFifo.map (fun k => (k.fn, k.words)) ++ [(fn, words)]) ∧
      (¬ bad → 256 ≤ (s.getDie d).cpFifo.length → Runs (.launchWindowWrite die fn (addr, words)) s fun t =>
        t = { s with postedA := [.launch die fn addr words] })) ∧
    (d = 1 → s.retraining = true → s.postedA = [] → Runs (.launchWindowWrite die fn (addr, words)) s fun t =>
      t = { s with postedA := [.launch die fn addr words] }) ∧
    (∀ k rest, (s.getDie d).cpFifo = k :: rest → (s.getDie d).cpHalted = false → s.postedA = [] → s.postedB = [] →
      (s.cpChecked k = none → Runs (.cpDispatch die) s fun t => (t.getDie d).cpFifo = rest ∧ t.thr = s.thr ∧ SameBytes s t ∧
        Tbl.get 0 (t.getDie d).counters 9 = Tbl.get 0 (s.getDie d).counters 9 + 1) ∧
      (∀ q, s.cpChecked k = some (p, q) →
        let hit := fun n => State.cpbrkMatches (Tbl.get 0 s.cpbrk n) d (launchQh k.words) (s.stageHandler p q)
        ((s.getDie d).cpPass = false → (∃ n, n < 8 ∧ hit n = true) → Runs (.cpDispatch die) s fun t =>
          (t.getDie d).cpHalted = true ∧ (t.getDie d).cpFifo = k :: rest ∧
          ∀ n, n < 8 → hit n = true → bitAt (Tbl.get 0 t.cpbrk n) 61 = true) ∧
        (∀ s1, ((s.getDie d).cpPass = true ∨ ∀ n, n < 8 → hit n = false) →
          (s.cpAcquire d k q).acceptLaunch p (launchQh k.words) k.words true false = .ok s1 → Runs (.cpDispatch die) s fun t =>
            (t.getDie d).cpFifo = rest ∧ t.part = s1.part ∧ t.thr = s.thr))) ∧
    (∀ q, s.taskQ p h = some q →
      (∀ e, q.entries[j]? = some e → e.blocked = true →
        (e.doomed = false → e.released = true ∨ s.launchBlocked e.words = false → Runs (.launchReady p h j) s fun t => t.thr = s.thr ∧ SameBytes s t ∧
          (t.taskQ p h).map (·.entries) = some (q.entries.map fun x => if x.order = e.order then { x with blocked := false } else x)) ∧
        (e.released = false → (e.doomed = true ∨ ∃ a b, launchCtr (wordAt e.words 2) = some (a, b) ∧ (s.dc a b).poison = true) →
          let shown := fun (l : List QEntry) => l.map fun x => (x.order, x.words, x.prio, x.deadline)
          Runs (.blockedPacketRemoval p h j) s fun t => (t.taskQ p h).map (fun x => (shown x.entries, x.lost)) =
            some (shown (q.entries.filter fun x => !decide (x.order = e.order)), q.lost + 1))) ∧
      (∀ e r, s.isStage p h q = true → topReady q.entries = some e → s.openReport p q = some r → e.poisoned = false →
        let bare := fun (x : QEntry) => { x with clock := [] }
        let shown := fun (x : Report) => { x with pkt := x.pkt.map bare }
        Runs (.stageDispatch p h) s fun t => ThreadsAre s t ∧ SameBytes s t ∧
          (t.taskQ p h).map (fun x => (x.entries.map bare, x.reports.map shown)) =
            some ((q.entries.filter fun x => !decide (x.order = e.order)).map bare, (q.reports.map fun x => if x = r then
              { x with claimed := true, pkt := some (State.packetOf (s.launchMsg p q e r.core)) } else x).map shown) ∧
          let l := field (s.lcidOf r.core) 0 7
          (t.mesh.getLast?.map fun m => (m.dst, m.kind, m.dh, m.payload.take 4)) = some ((s.physOf l).getD l, 2, s.stageHandler p q,
            [wordAt e.words 4, wordAt e.words 5, wordAt e.words 6, wordAt e.words 7]))) ∧
    (∀ q, s.stageOf (s.partOf (.thr core 0)) (field (s.lcidOf core) 0 7) = some (h, q) →
      s.taskQ (s.partOf (.thr core 0)) h = some q → tid < 6 → s.coreServes core = true →
      s.niHeld core = false → (s.getCore core).stageNext = none →
      let hid := s.stageHandler (s.partOf (.thr core 0)) q
      s.entryReady core hid = true → (hMask (s.handler0 core hid)).testBit tid = true → s.threadFree core tid hid = true →
      (q.reports.any fun r => decide (r.core = core) && decide (r.tid = tid)) = false → Runs (.threadReport core tid) s fun t =>
        t = s.setTaskQ (s.partOf (.thr core 0)) h
          (some { q with reports := q.reports ++ [{ core := core, tid := tid, at_ := s.timebase }] })) ∧
    (Runs (.gafferSample die) s fun t => t.thr = s.thr ∧ SameBytes s t ∧ ∀ p h q, p < 8 → (s.getPart p).queues = [(h, some q)] →
      q.die = d → s.isStage p h q = true → bitAt (s.gafWord p q) 63 = true → s.gafCrossed p q = false →
      ∃ g ∈ (t.getDie d).gaf, g.part = p ∧ g.qh = h ∧ g.samples.head? = some (q.entries.filter fun x => !x.blocked).length) ∧
    (∀ a b c k, p < 8 → (∀ p', p' < 8 → p' ≠ p → (s.getPart p').queues = []) →
      let l := s.gafStages d p
      let can := fun (q : TaskQ) =>
        decide (s.gafCounts p q 56 8 < (s.stageCores p q).length) && (s.stageCores p q).any (s.movable p q)
      let acts : Nat → Nat := fun l => match s.physOf l with
        | some c => s.launches a.2.rcb c
        | none => 0
      l = [a, b] ∨ l = [b, a] → s.gafCrossed p a.2 = false → s.gafCrossed p b.2 = false →
      s.recipients d p l (fun q => (s.stageCores p q).length) (fun q => s.gafCounts p q 48 8) = [b] →
      s.donor d p l [] b.1 can = some a →
      State.bestBy (fun (x y : Nat) => decide (acts x < acts y) || (decide (acts x = acts y) && decide (y < x)))
        ((s.stageCores p a.2).filter (s.movable p a.2)) = some c → s.physOf c = some k →
      Runs (.gafferDecision die) s fun t => t.thr = s.thr ∧
        ((t.getCore k).stageNext = some b.1 ∨ ((t.getCore k).stageNext = none ∧ (t.getCore k).stageMoved = some s.timebase))) ∧
    (∀ k, s.portHead die port = some k → s.portTurn die port = true →
      let popped := fun (t : State) =>
        Tbl.get [] (t.getDie die).fifos port = (Tbl.get [] (s.getDie die).fifos port).drop 1 ∧ ThreadsAre s t
      let sends := fun (t : State) (r : Word) (late : Bool) => (t.mesh.getLast?.map fun m => (m.payload, m.kind, m.late, m.dh, m.dst)) =
        some ([k.w0, k.w1], 1, late, field r 43 8, (s.physOf (field r 36 7)).getD (field r 36 7))
      (State.evType k = 1 → s.portRuns die port = none → Runs (.ingressEvent die port) s fun t => t = s.portPop die port) ∧
      (State.evType k = 1 → s.portRuns die port = some p → s.routeOf die port k = none → Runs (.ingressEvent die port) s fun t =>
        t = (s.portPop die port).countPort die port 2) ∧
      (∀ r, State.evType k = 1 → s.portRuns die port = some p → s.routeOf die port k = some r → bitAt r 62 = false →
        Runs (.ingressEvent die port) s fun t => popped t ∧ sends t r false ∧ SameBytes s t) ∧
      (∀ r n, State.evType k = 1 → s.portRuns die port = some p → s.routeOf die port k = some r → bitAt r 62 = true →
        let x := s.getSlate die (field r 54 8)
        x.state = 0 → State.memberOf x (State.evSrc k) = some n →
        (extendTs s.timebase (field k.w0 0 48)).toNat < x.tClose.toNat → Runs (.ingressEvent die port) s fun t => popped t ∧
          (t.getSlate die (field r 54 8)).late = x.late + 1 ∧ (bitAt x.ctl 34 = false → sends t r true)) ∧
      (∀ r n, State.evType k = 2 → s.portRuns die port = some p → s.routeOf die port k = some r → bitAt r 62 = true →
        let x := s.getSlate die (field r 54 8)
        let ts := extendTs s.timebase (field k.w0 0 48)
        State.memberOf x (State.evSrc k) = some n → Runs (.ingressWatermark die port) s fun t =>
          (t.getSlate die (field r 54 8)).mark n = (if (x.mark n).toNat < ts.toNat then ts else x.mark n) ∧
          Tbl.get [] (t.getDie die).fifos port = (Tbl.get [] (s.getDie die).fifos port).drop 1) ∧
      (State.evType k = 0 → Runs (.ingressTypeError die port) s fun t => t = s.portPop die port) ∧
      (2 < State.evType k → Runs (.ingressTypeError die port) s fun t => t = (s.portPop die port).countPort die port 1)) ∧
    (let x := s.getSlate die j
     x.state = 1 → x.pend ≠ 0 → x.tClose.toNat + 100 * x.grace ≤ s.timebase.toNat → Runs (.slateTimeout die j) s fun t =>
       (t.getSlate die j).state = 0 ∧ (t.getSlate die j).cause = 2) ∧
    (let k := s.redTree die tree
     let root := s.routerOf k.root
     let ports := s.expectedPorts die k router
     let ins := ports.filterMap (k.input router)
     let c := ins.tail.foldl (fun (a : Word × BitVec 5 × Bool) x =>
       ((reduceOp k.op a.1 x.1).1, a.2.1 ||| x.2.1 ||| (reduceOp k.op a.1 x.1).2, a.2.2 || x.2.2)) (ins.headD (0, 0, false))
     let up := nextRouter root router
     let kept := k.inputs.filter fun e => !decide (e.1 / 8 = router)
     (bitAt k.dw0 63 = true → k.waiting = [] → ins ≠ [] → ins.length = ports.length →
       (router = root → k.result = none → Runs (.reduceCombine die tree router) s fun t => t.thr = s.thr ∧ SameBytes s t ∧
         t.redTree die tree = { k with inputs := kept, result := some c }) ∧
       (router ≠ root → (k.inputs.any fun e => decide (e.1 = 8 * up + portFrom up router)) = false →
         Runs (.reduceCombine die tree router) s fun t => t.thr = s.thr ∧ SameBytes s t ∧
           t.redTree die tree = { k with inputs := kept ++ [(8 * up + portFrom up router, c)] })) ∧
     (∀ v fl bad, k.result = some (v, fl, bad) → Runs (.reduceResult die tree) s fun t => ThreadsAre s t ∧ SameBytes s t ∧
       t.redTree die tree = { k with result := none, round := k.round + 1 } ∧
       (t.mesh.getLast?.map fun m => (m.payload, m.kind, m.dh, m.tag)) = some ([v, ofN (b2n bad * 2 ^ 63 +
         (k.round + 1).toNat * 2 ^ 16 + fl.toNat)], 6, k.handler, k.tag)))

/-- R233, R326, R332, R333, R343, R433: the walker fills the RTB; RNGINV and LCMREM complete with 0; the compactor copies a
chunk, switches PBASE, HOME and GEN at once, and ends; a new epoch sets W to 1 and clears the clock entries of the die; a peer's
clock is held. -/
def Obligations.TableEvents : Prop :=
  ∀ (s : State) (core agent die : Nat) (va : BitVec 64) (rd : BitVec 5) (len : Nat) (rel bad : Bool) (clk : Clock),
    let a := Agent.ofKey agent
    (∀ i r, (s.getPart (s.partOf (.thr core 7))).find va.toNat 1 = some (i, r) → r.poisoned = false →
      (s.getPart (s.partOf (.thr core 7))).walkBad va.toNat = false → Runs (.rangeWalkComplete core va) s fun t => t.thr = s.thr ∧ SameBytes s t ∧
        (t.getCore core).rtb.head? = some { rid := i, rng := r, locked := (s.getCore core).locks.contains r.vbase }) ∧
    (∀ lo hi all, s.waiting a = some { kind := .rnginv lo hi all, rd := rd, len := len, released := rel, doomed := bad, clock := clk } →
      (s.endSuspended (s.partOf a) lo hi all).invDone (s.partOf a) lo hi all = true →
      Wakes (.rnginvComplete agent) s a len (fun t => t.setX rd 0) fun t => ∀ c, field (t.getCore c).asid 0 3 = s.partOf a →
        ∀ e ∈ (t.getCore c).rtb, State.meets lo hi all e.rng.vbase e.rng.size = false) ∧
    (s.waiting a = some { kind := .lcmrem, rd := rd, len := len, released := rel, doomed := bad, clock := clk } →
      Wakes (.lcmremComplete agent) s a len fun t => t.setX rd 0) ∧
    (∀ m r, s.moving die = some (m, r) →
      (m.prog < r.size → r.key = 0 → (∃ e, placeOf (m.newBase + m.prog) = .hbm e) → Runs (.compactionChunkCopy die) s fun t =>
        (t.getDie die).compact = some { m with prog := m.prog + min 0x100000 (r.size - m.prog) } ∧ t.thr = s.thr ∧
        Stored s t (m.newBase + m.prog) (Memory.readN s.mem (r.pbase + m.prog) (min 0x100000 (r.size - m.prog)))) ∧
      (r.size ≤ m.prog → m.switched = false → Runs (.compactionSwitch die) s fun t =>
        (t.getDie die).compact = some { m with switched := true } ∧
        (Tbl.get none (t.getPart m.part).ranges m.rid).map (fun x => (x.pbase, x.home, x.gen)) =
          some (m.newBase, m.newHome, r.gen + 1)) ∧
      (m.switched = true → (s.endSuspended m.part r.vbase (r.vbase + r.size) false).invDone m.part r.vbase (r.vbase + r.size) false = true →
        Runs (.compactionComplete die) s fun t => (t.getDie die).compact = none ∧
          (Tbl.get none (t.getPart m.part).ranges m.rid).map (·.moving) = some false)) ∧
    Runs (.epochChange die) s (fun t => (t.getDie (die % 2)).w = 1 ∧ ThreadsAre s t ∧ SameBytes s t ∧
      ∀ d, d < 2 → Tbl.get 0 (t.getDie d).vc (s.clockIndex (die % 2)) = 0) ∧
    ∀ (req : Nat) (c : List (BitVec 32)), s.postedB = [] → s.retraining = false → Runs (.clockMessage (req, c)) s fun t =>
      t = { s with
        heldClocks :=
          Tbl.put [] s.heldClocks req (State.joinClock (Tbl.get [] s.heldClocks req) ((List.zipIdx c).map fun e => (e.2, e.1))) }

/-! ### Machine events: debug port, owner, MMIO, partitions, start-up, host, sensors and management (chapters 17 to 19) -/

/-- R136, R207, R208, R213, R341, R376, R402 to R409, R412 to R420: the debug port stops groups, writes code and breakpoints and
traces; masters claim, offer, accept and release the device; the owner and T7 write the registers of the MMIO map; a queue-level
reset empties a core or a Set; partitions get and lose resources, lock, start, stop, once T6 of each core has ended what it runs, and
enter ERROR. -/
def Obligations.DeviceEvents : Prop :=
  ∀ (s : State) (die g core set m dest n p addr fn i tree : Nat) (v : BitVec 64) (w : Writer) (data : List (BitVec 8)),
    let d := die % 2
    let flows := s.postedA = [] ∧ s.retraining = false
    let pf0 := s.isOwner 0 = true ∧ s.recovery = false ∧ flows
    let reaches := fun (q : Nat) => (w = .master 0 ∧ pf0) ∨ ∃ c, w = .t7 c ∧ s.partOf (.thr c 7) = q
    let blank := fun (t : State) (c : Nat) => ∀ a, a < 0x100000 → Memory.read t.mem (ulmLoc c a) = Memory.read [] (ulmLoc c a)
    Runs (.debugStopRequest die g) s (fun t => ∀ c, c < 128 → s.inGroup d (g % 32) (c / 64) (s.coreHgm c) = true →
      (t.getCore c).stop.isSome = true) ∧
    (core < 128 → v.toNat % 2 = 0 →
      ((s.getCore core).assigned = true → (s.getPart (s.partOf (.thr core 7))).dbg = true → v.toNat < 0x100000 →
        ∀ h : BitVec 16, Runs (.debugCodeWrite core v h) s fun t => Stored s t (ulmLoc core v.toNat) (leBytes 2 h.toNat) ∧ t.thr = s.thr) ∧
      ((s.getPart (s.partOf (.thr core 7))).dbg = false →
        ∀ h : BitVec 16, Runs (.debugCodeWrite core v h) s fun t => t = s.refuse (core / 64))) ∧
    Runs (.hgcGo die g) s (fun t => bitAt (Tbl.get 0 (t.getDie d).hgc (g % 32)) 2 = false ∧ SameBytes s t ∧
      ∀ c k, c < 128 → k < 8 → s.inGroup d (g % 32) (c / 64) (s.coreHgm c) = true → (t.getCore c).stop = none ∧
        (t.thread (.thr c k)).st =
          if (s.thread (.thr c k)).st = .stopped then (s.thread (.thr c k)).held else (s.thread (.thr c k)).st) ∧
    (let old := Tbl.get 0 s.cpbrk (n % 8)
     Runs (.cpbrkWrite n v) s fun t => t.thr = s.thr ∧ SameBytes s t ∧
       Tbl.get 0 t.cpbrk (n % 8) = setField (v &&& 0xDFC00000000FFFFF) 61 1 (b2n (bitAt old 61 && bitAt v 61)) ∧
       (bitAt old 61 = true → bitAt v 61 = false → (t.getDie (field old 54 1)).cpHalted = false)) ∧
    (m < 3 → (m = 0 → s.recovery = false ∧ flows) →
      (bitAt s.owner 63 = false → Runs (.claim [m]) s (fun t => t = { s with owner := ofN (2 ^ 63 + m * 2 ^ 60) }) ∧
        ∀ ms, m ∈ ms → (∀ j ∈ ms, m ≤ j) → Runs (.claim ms) s fun t => t.owner = ofN (2 ^ 63 + m * 2 ^ 60)) ∧
      (bitAt s.owner 63 = true → Runs (.claim [m]) s fun t => t = s.refuse 0) ∧
      (s.isOwner m = true → Runs (.offer m dest) s fun t =>
        t = { s with owner := setField (setField s.owner 62 1 1) 58 2 (dest % 4), offerAt := s.timebase }) ∧
      (s.isOwner m = false → Runs (.offer m dest) s fun t => t = s.refuse 0) ∧
      (bitAt s.owner 63 = true → bitAt s.owner 62 = true → field s.owner 58 2 = m →
        (s.timebase - s.offerAt).toNat ≤ 100000000 →
        let u : State := { s with owner := ofN (2 ^ 63 + m * 2 ^ 60) }
        Runs (.accept (m, none)) s (fun t => t = u) ∧
        ∀ r, r < 3 → r ≠ m → (r = 0 → s.recovery = false ∧ flows) → Runs (.accept (m, some r)) s fun t => t = u.refuse 0) ∧
      (s.isOwner m = true → Runs (.release m) s fun t => t = { s with owner := setField s.owner 63 1 0 }) ∧
      (s.isOwner m = false → Runs (.release m) s fun t => t = s.refuse 0)) ∧
    (bitAt s.owner 62 = true → 100000000 < (s.timebase - s.offerAt).toNat → Runs .offerTimeout s fun t =>
      t = { s with owner := setField (setField s.owner 62 1 0) 58 2 0 }) ∧
    (pf0 →
      (s.someRunning = false → Runs (.domainWrite v) s (fun t => t = { s with domain := ofN (field v 0 4) }) ∧
        Runs (.tbstepWrite v) s (fun t => t = { s with timebase := s.timebase + ofN (field v 0 48) })) ∧
      (s.someRunning = true → Runs (.domainWrite v) s (fun t => t = s.refuse 0) ∧ Runs (.tbstepWrite v) s (fun t => t = s.refuse 0)) ∧
      Runs (.tbslewWrite v) s (fun t => t = { s with
        tbslew := zext64 (BitVec.ofInt 32 (max (-100000) (min 100000 (v.extractLsb' 0 32).toInt))) })) ∧
    (s.isOwner 0 = false → flows → Runs (.domainWrite v) s (fun t => t = s.refuse 0) ∧ Runs (.tbslewWrite v) s (fun t => t = s.refuse 0)) ∧
    (fn < 9 → fn = 0 ∨ field v 0 5 < 8 → fn = s.partOf (.thr core 7) + 1 ∨ fn = 0 → Runs (.msixTrigger (.t7 core) fn v) s fun t =>
      t = { s with msix := Tbl.put 0 s.msix fn (Tbl.get 0 s.msix fn ||| BitVec.ofNat 32 (2 ^ field v 0 5)) }) ∧
    (core < 128 → reaches (s.partOf (.thr core 7)) →
      Runs (.coreReset w core) s (fun t => t = s.modCore core fun k => { k with resetting := true }) ∧
      ((s.getCore core).scan = none → bitAt (s.getCore core).ckstat 16 = true ∨ s.scanReady core = true →
        Runs (.scanctlStart w core v) s fun t => (t.getCore core).scan.map (·.abortPrio) = some (field v 8 6) ∧
          (t.getCore core).scan.map (·.start) = some s.timebase ∧ t.thr = s.thr ∧ SameBytes s t)) ∧
    (set < 16 → reaches (s.getSet set).part → Runs (.setReset w set) s fun t => t = s.modSet set fun k => { k with resetting := true }) ∧
    ((s.getCore core).resetting = true → s.t6Done core = true → (s.getCore core).stop = none →
      (s.getPart (s.partOf (.thr core 7))).stopping = false →
      Runs (.queueResetComplete false core) s fun t => (t.getCore core).inbox = [] ∧ (t.getCore core).t6q = [] ∧
        (t.getCore core).t7q = [] ∧ (t.getCore core).sendBuf = [] ∧ (t.getCore core).resetting = false ∧
        ∀ k, k < 8 → (t.thread (.thr core k)).st = .free ∨ (t.thread (.thr core k)).st = .off) ∧
    ((s.getSet set).resetting = true → Runs (.queueResetComplete true set) s fun t => (t.getSet set).engQ = [] ∧
      (t.getSet set).loadQ = [] ∧ (t.getSet set).forkQ = [] ∧ (t.getSet set).wb = [] ∧ (t.getSet set).stages = [] ∧
      (t.getSet set).resetting = false) ∧
    (∀ stop, Runs (.traceOpen die v stop) s fun t => t.thr = s.thr ∧ SameBytes s t ∧ (t.getDie d).trace =
      { status := 1, stopMode := stop, ctlMode := stop, mask := v, live := v, loss := false, recs := [] }) ∧
    Runs (.traceClose die) s (fun t => t.thr = s.thr ∧ SameBytes s t ∧ (t.getDie d).trace = { (s.getDie d).trace with
      status := if (s.getDie d).trace.status = 1 then 2 else (s.getDie d).trace.status }) ∧
    (s.portOwner d (field v 51 3) = some p → reaches p → bitAt (Tbl.get 0 (s.getDie d).routes (i % 256)) 63 = false →
      (s.partOfLogical (field v 36 7) = p → bitAt v 62 = false ∨ s.slateInside d (s.getSlate d (field v 54 8)) p = true → Runs (.ingressRouteWrite w die i v) s fun t =>
        t = s.modDie d fun x => { x with routes := Tbl.put 0 x.routes (i % 256) (v &&& 0xFFFFFFFFFFF00000) }) ∧
      (s.partOfLogical (field v 36 7) ≠ p ∨ (bitAt v 62 = true ∧ s.slateInside d (s.getSlate d (field v 54 8)) p = false) →
        Runs (.ingressRouteWrite w die i v) s fun t => t = s.countDie d 6)) ∧
    (let old := s.redTree d (tree % 64)
     bitAt old.dw0 63 = false → reaches (field v 60 3) → field v 56 4 < 11 → field v 49 7 / 64 = d →
       s.partOfLogical (field v 49 7) = field v 60 3 → s.maskInside d old.members (field v 60 3) = true →
       Runs (.reductionTreeWrite w die tree 0 v) s fun t => t.thr = s.thr ∧ SameBytes s t ∧ t.redTree d (tree % 64) =
         { old with dw0 := v &&& 0xFFFFFFFFFE000000, round := 0, inputs := [], result := none }) ∧
    (core < 128 → flows →
      (s.isOwner 0 = true → s.coreUnlocked core = true → addr + data.length ≤ 0x100000 →
        Runs (.ulmLoadWindowWrite (.master 0) core addr data) s fun t => Stored s t (ulmLoc core addr) data ∧ t.thr = s.thr) ∧
      (s.isOwner 0 = false ∨ s.coreUnlocked core = false ∨ 0x100000 < addr + data.length →
        Runs (.ulmLoadWindowWrite (.master 0) core addr data) s fun t => t = s.refuse (core / 64))) ∧
    (pf0 → Runs (.mmioRegisterWrite (.master 0) 0x10 8 v) s (fun t => t = { s with ltp := ofN (field v 0 3) }) ∧
      Runs (.mmioRegisterWrite (.master 0) 0x10 4 v) s (fun t => t = s.refuse 0) ∧
      (core < 64 → s.coreUnlocked core = true → Runs (.mmioRegisterWrite (.master 0) (0x60010 + 32 * core) 8 v) s fun t =>
        t = s.modCore core fun k => { k with htabInit := v &&& 0xFFF80 })) ∧
    (p < 8 → s.isOwner 0 = true → (s.getPart p).state = .unlocked →
      (core < 128 → (s.getCore core).assigned = false → s.actsFree core = true → Runs (.grantResource p (.core core)) s fun t =>
        (t.getCore core).assigned = true ∧ (t.getCore core).asid = BitVec.ofNat 16 p ∧ blank t core) ∧
      (set < 16 → (s.getSet set).assigned = false → Runs (.grantResource p (.set set)) s fun t =>
        (t.getSet set).assigned = true ∧ (t.getSet set).part = p ∧ (t.getSet set).tiles = [] ∧ (t.getSet set).wb = []) ∧
      (1 ≤ n → n ≤ 63 → s.keyGranted n = false → Runs (.grantResource p (.key n)) s fun t =>
        t = s.modPart p fun x => { x with keys := x.keys ++ [n] }) ∧
      (n < 64 → Tbl.get 0 (s.getDie d).grantDc n = 0 → Runs (.grantResource p (.counters d n)) s fun t =>
        Tbl.get 0 (t.getDie d).grantDc n = p + 1 ∧ ∀ j, j / 64 = n → t.dc d j = {}) ∧
      Runs (.grantResource p .dbg) s (fun t => t = s.modPart p fun x => { x with dbg := true }) ∧
      (core < 128 → (s.getCore core).assigned = true → s.partOf (.thr core 7) = p → s.actsFree core = true →
        Runs (.withdrawResource p (.core core)) s fun t => (t.getCore core).assigned = false ∧ blank t core) ∧
      (n ∈ (s.getPart p).keys → Runs (.withdrawResource p (.key n)) s fun t =>
        t = s.modPart p fun x => { x with keys := x.keys.erase n }) ∧
      Runs (.lockInterface p) s (fun t => t = s.modPart p fun x => { x with state := .locked, digest := s.configDigest p })) ∧
    (p < 8 → (s.getPart p).state = .locked → Runs (.startInterface p) s fun t => (t.getPart p).state = .running ∧
      (∀ k ∈ (s.getPart p).keys, (Tbl.get none t.keys k).isSome = true) ∧
      ∀ c ∈ s.coresOf p, (t.getCore c).htab = (s.getCore c).htabInit ∧
        (t.getCore c).started = decide ((s.getCore c).htabInit ≠ 0) ∧ ∀ r, (t.thread (.thr c 7)).getX r = 0) ∧
    (p < 8 → (s.getPart p).state ≠ .unlocked →
      ((∀ c ∈ s.coresOf p, s.t6Done c = true) → Runs (.stopInterface p) s fun t => (t.getPart p).state = .unlocked ∧
        (∀ k ∈ (s.getPart p).keys, Tbl.get none t.keys k = none) ∧ ∀ c ∈ s.coresOf p, blank t c) ∧
      ((∃ c ∈ s.coresOf p, s.t6Done c = false) → Runs (.stopInterface p) s fun t =>
        (t.getPart p).state = (s.getPart p).state ∧ (t.getPart p).stopping = true)) ∧
    (p < 8 → (s.getPart p).state = .running → Runs (.partitionError p) s fun t => (t.getPart p).state = .error ∧
      (∀ k ∈ (s.getPart p).keys, Tbl.get none t.keys k = none) ∧ ∀ c ∈ s.coresOf p, (t.getCore c).started = false) ∧
    (p < 8 → (s.getPart p).state ≠ .running → Runs (.partitionError p) s fun t => t = s)

/-- R215, R415, R416, R421 to R425, R429 to R438: a boot whose image verifies and whose steps pass, by the second image too, leaves the
reset state with its record; one that fails is made again and counts, and the fourth leaves the device in recovery; power-on clears
the record; the evidence of the SPDM answer holds the record and the digests; inbound requests read and write, or are refused, and
one to what its partition does not hold puts that in ERROR (which those are is the model's reading, log entry 101); event packets
and camera frames enter; the bridge retrains; management reads answer. -/
def Obligations.HostEvents : Prop :=
  ∀ (s : State) (step vf req port vc die addr off : Nat) (env : BootInput) (bad : BitVec 128) (fa : List (BitVec 16))
    (data : List (BitVec 8)) (p : Nat),
    let d := die % 2
    let packet : EvPkt := { w0 := bytesWord (data.take 8), w1 := bytesWord ((data.drop 8).take 8) }
    let fifo := fun (t : State) (e q : Nat) => Tbl.get [] (t.getDie e).fifos q
    let passed := fun (t : State) (alt n : Nat) (image : List Byte) => t.recovery = false ∧ t.failedBoots = 0 ∧
      t.boots = min 255 (s.boots + n) ∧ t.envelope = env.envelope ∧
      t.bootrec = ofN (0xFFFF * 2 ^ 48 + alt * 2 ^ 32 + t.boots * 2 ^ 8) ∧ t.thr = [] ∧ t.mem = [] ∧ t.keys = [] ∧ t.owner = 0 ∧
      t.fwDigest = sha256 image ∧ t.timebase = Config.ptmTime s.freeCtr
    (step < 16 → s.isOwner 0 = true ∨ s.recovery = true → Runs (.attClear step) s fun t =>
      t = { s with bootEnt := Tbl.put 0 s.bootEnt step (setField (Tbl.get 0 s.bootEnt step) 56 8 0) }) ∧
    Runs .spdmRequest s (fun t =>
      t = { s with answer := [0x12, 0x13] ++ Config.certChain ++ s.evidence ++ Config.hssSign s.evidence } ∧
      (wordBytes Config.romVersion ++ s.fwDigest ++ wordsBytes ((List.range 16).map fun n => Tbl.get 0 s.bootEnt n)) <+: s.evidence ∧
      ∀ q, q < 8 → (s.getPart q).state = .locked ∨ (s.getPart q).state = .running →
        (wordBytes (ofN q) ++ (s.getPart q).digest) <:+: s.evidence) ∧
    ((∀ n, n < 16 → field (Tbl.get 0 s.bootEnt n) 56 8 = 0) →
      (State.verified s.fuses env.primary = true → Runs (.deviceReset env [] fa bad) s fun t => passed t 0 1 env.primary.image ∧
        ∀ n, n < 16 → field (Tbl.get 0 t.bootEnt n) 44 4 = 1) ∧
      (∀ fn : BitVec 16, State.verified s.fuses env.primary = true → s.failedBoots < 3 → bitAt fn 0 = true →
        Runs (.deviceReset env [fn] fa bad) s fun t => passed t 0 2 env.primary.image ∧
          ∀ n, n < 16 → field (Tbl.get 0 t.bootEnt n) 44 4 = 1) ∧
      (State.verified s.fuses env.primary = false → State.verified s.fuses env.secondary = true → s.failedBoots < 2 →
        Runs (.deviceReset env [] [] bad) s fun t => passed t 8 3 env.secondary.image ∧
          ∀ n, n < 16 → field (Tbl.get 0 t.bootEnt n) 44 4 = if n = 3 then 2 else 1)) ∧
    (∀ fn : List (BitVec 16), 3 ≤ s.failedBoots → bitAt (fn.headD 0) 0 = true → Runs (.deviceReset env fn fa bad) s fun t =>
      t.failedBoots = s.failedBoots + 1 ∧ t.recovery = true ∧
      field (Tbl.get 0 t.bootEnt 0) 44 4 = 4 ∧ field (Tbl.get 0 t.bootEnt 0) 56 8 = min 255 (field (Tbl.get 0 s.bootEnt 0) 56 8 + 1)) ∧
    Runs .powerOn s (fun t =>
      t = { State.reset with agenda := s.agenda, freeCtr := s.freeCtr, hostOut := s.hostOut, fuses := s.fuses }) ∧
    (∀ (secure : Bool) (o : BitVec 64) (n : Nat), s.postedA = [] → s.postedB = [] → s.retraining = false →
      let q := vf % 8
      let reads := fun (P : State → Prop) => Runs (.apertureAccess (vf, req) secure o none n) s P
      let writes := fun (P : State → Prop) => Runs (.apertureAccess (vf, req) secure o (some data) n) s P
      ((s.getPart q).state = .error → reads (fun t => t = { s with answer := [] }) ∧ writes fun t => t = s) ∧
      ((s.getPart q).state ≠ .error → o.toNat + n ≤ 2 ^ 40 → s.inbound q secure kindR o.toNat n = none →
        (s.foreign q o.toNat = false → reads fun t => t = { s with answer := [] }) ∧
        (s.foreign q o.toNat = true → (s.getPart q).state = .running → reads fun t => (t.getPart q).state = .error ∧ t.answer = [])) ∧
      ((s.getPart q).state ≠ .error → o.toNat + data.length ≤ 2 ^ 40 → s.inbound q secure kindW o.toNat data.length = none →
        (s.foreign q o.toNat = false → writes fun t => t = s.countDie 0 10) ∧
        (s.foreign q o.toNat = true → (s.getPart q).state = .running → writes fun t => (t.getPart q).state = .error)) ∧
      (∀ acc e, (s.getPart q).state ≠ .error → placeOf acc.loc = .hbm e → acc.key = 0 →
        (o.toNat + n ≤ 2 ^ 40 → s.inbound q secure kindR o.toNat n = some acc → s.engineOwns acc.loc n = false →
          s.poisoned acc.loc n = false → reads fun t => t = { s.readAtHome acc.loc n with answer := Memory.readN s.mem acc.loc n }) ∧
        (o.toNat + data.length ≤ 2 ^ 40 → s.inbound q secure kindW o.toNat data.length = some acc →
          s.engineOwns acc.loc data.length = false → writes fun t => Stored s t acc.loc data ∧ t.thr = s.thr))) ∧
    ((d = 1 → s.retraining = false) → s.postedA = [] →
      (s.portRuns d 4 = some (vf % 8) → addr % 16 = 0 → data.length = 16 → addr + 16 ≤ 0x1000 → (fifo s d 4).length < 64 →
        Runs (.eventPageWrite vf die addr data) s fun t => fifo t d 4 = fifo s d 4 ++ [packet] ∧ t.thr = s.thr ∧ SameBytes s t) ∧
      (s.portOwner d 4 = some (vf % 8) → s.portRuns d 4 = none →
        Runs (.eventPageWrite vf die addr data) s fun t => t = s.countPort d 4 3) ∧
      (s.portOwner d 4 ≠ some (vf % 8) → (s.getPart (vf % 8)).state = .running →
        Runs (.eventPageWrite vf die addr data) s fun t => (t.getPart (vf % 8)).state = .error)) ∧
    (port < 4 → s.portRuns 0 port = some p →
      Runs (.csi2EventPacket port data false) s (fun t => t = s.countPort 0 port 3) ∧
      (data.length = 16 → (fifo s 0 port).length < 64 → Runs (.csi2EventPacket port data true) s fun t =>
        fifo t 0 port = fifo s 0 port ++ [packet] ∧ t.thr = s.thr ∧ SameBytes s t) ∧
      Runs (.csi2PacketDrop port) s (fun t => t = s.countPort 0 port 1) ∧
      (vc < 4 →
        let w1 := s.frameWord port vc 1
        let k := field (s.frameWord port vc 3) 32 32
        let size := alignDown 128 (field w1 32 24)
        let buf := alignDown 128 (s.frameWord port vc 0).toNat + k % 2 ^ field w1 56 4 * size
        let f := s.frameOf port vc
        (bitAt w1 63 = false → Runs (.csi2FrameStart port vc) s fun t => t.frameOf port vc = {}) ∧
        (bitAt w1 63 = true → (∀ x ∈ State.linePieces buf size, (s.frameAt p x.1 x.2).isSome = true) → field (s.frameWord port vc 2) 62 2 ≠ 3 →
          Runs (.csi2FrameStart port vc) s fun t => t.thr = s.thr ∧ SameBytes s t ∧ t.frameOf port vc =
            { active := true, buf := ofN buf, startT := s.timebase, count := BitVec.ofNat 32 k }) ∧
        (f.active = true → f.waiting = [] →
          let n := min data.length (min (field w1 16 16) (size - f.line * field w1 16 16))
          let ps := s.framePieces port vc data.length
          (s.frameBlocked p port vc data = false →
            ((∀ x ∈ ps, (s.frameAt p x.1 x.2).isSome = true) → Runs (.csi2FrameLine port vc data true) s fun t => t.thr = s.thr ∧
              t.frameOf port vc = { f with
                line := f.line + 1, bytes := f.bytes + n, status := if n < data.length then 2 else f.status }) ∧
            ((∃ x ∈ ps, s.frameAt p x.1 x.2 = none) → Runs (.csi2FrameLine port vc data true) s fun t => SameBytes s t ∧
              t.frameOf port vc = {})) ∧
          (s.frameBlocked p port vc data = true → Runs (.csi2FrameLine port vc data true) s fun t => SameBytes s t ∧
            t.frameOf port vc = { f with waiting := [(data, true)] }) ∧
          Runs (.csi2FrameEnd port vc) s (fun t => t.frameOf port vc = {} ∧
            field (t.frameWord port vc 3) 32 32 = (k + 1) % 2 ^ 32)))) ∧
    (port < 4 → s.portRuns 0 port = none → Runs (.csi2EventPacket port data true) s fun t => t = s) ∧
    Runs .bridgeRetrain s (fun t => t = { s with retraining := true }) ∧
    (s.retraining = true → Runs (.bridgeRetrainComplete true) s (fun t => t = { s with retraining := false }) ∧
      Runs (.bridgeRetrainComplete false) s (fun t => ∀ p, p < 8 → (s.getPart p).state = .running → (t.getPart p).state = .error)) ∧
    Runs (.managementRead off) s (fun t => t = { s with answer := t.answer } ∧ (off = 0 → t.answer = wordBytes s.bootrec) ∧
      ∀ n, n < 16 → off = 0x100 + 8 * n → t.answer = wordBytes (Tbl.get 0 s.bootEnt n)) ∧
    Runs .mctpControlMessage s (fun t => t = { s with answer := t.answer } ∧ t.answer.length = 8) ∧
    Runs (.correctedError die) s (fun t => t = s.countDie d 0)

/-! ### The machine as a whole -/

/-- R19, R76, R165, R364: after reset every thread of T0 to T5 is FREE, every register of a thread reads 0 but p0, which reads
all ones, every counter, barrier and slate is 0 and CLOSED, nothing is owned, no partition runs and no sector is poisoned. -/
def Obligations.ResetState : Prop :=
  ∀ (a : Agent) (r : BitVec 5) (i c d p : Nat),
    let t := State.reset.thread a
    t.st = .free ∧ t.getX r = 0 ∧ t.getF r = 0 ∧ t.getV r = 0 ∧ t.getP i = (if i = 0 then BitVec.allOnes 128 else 0) ∧
    t.pc = 0 ∧ t.fcsr = 0 ∧ t.vcsr = 0 ∧ t.tcause = 0 ∧ t.tval = 0 ∧ t.epc = 0 ∧ t.utvec = 0 ∧ t.utepc = 0 ∧ t.actid = 0 ∧
    t.actst = 0 ∧ t.loopActive = false ∧ t.journal = [] ∧
    (State.reset.getCore c).htab = 0 ∧ (State.reset.getCore c).inbox = [] ∧ (State.reset.getCore c).sb = [] ∧
    State.reset.sem c i = 0 ∧ (State.reset.getSet c).mxc = 0 ∧ (State.reset.getSet c).sflags = 0 ∧
    (State.reset.dc d i).value = 0 ∧ (State.reset.dc d i).poison = false ∧ (State.reset.bar d i).phase = 0 ∧
    (State.reset.getSlate d i).state = 0 ∧ (State.reset.getPart p).state = .unlocked ∧ (State.reset.getPart p).keys = [] ∧
    State.reset.owner = 0 ∧ State.reset.timebase = 0 ∧ State.reset.poisoned i c = false

/-- R37, R45, R47, R112: a step at an agent's turn executes the instruction that stands at its pc, long or compact, with nothing
around it but the fetch, the count of retired instructions, and the note for the issue choice of whether it issued or was held back; a
step at an event's turn executes the event, and then every agent is tried afresh. -/
def Obligations.StepRunsDecoded : Prop :=
  ∀ (s : State) (a : Agent) (rest : List Turn) (i : Instr),
    let s1 : State := { s with freeCtr := s.freeCtr + 1, agenda := rest }
    let s0 := s1.select a
    let t := s0.thread a
    let loc := a.localLoc t.pc.toNat
    let runs := ∃ s2 : State, s2 = { s0 with thr := s2.thr, core := s2.core } ∧
      s2.thread a = { t with fbuf := (s2.thread a).fbuf, fbufLoc := (s2.thread a).fbufLoc } ∧
      (∀ c, s2.getCore c = { s0.getCore c with icache := (s2.getCore c).icache }) ∧ s2.cur = a ∧
      step s = match exec i s2 with
        | .next u => .next (s2.settleIssue a i u)
        | .fault f => .fault f
        | .refused r => .refused r
    (s.agenda = .event i :: rest → step s = exec i { s1 with polled := [] }) ∧
    ((s.agenda = .issue a :: rest ∧ s1.mayIssue a = true) ∨ (s.agenda = [] ∧ rest = [] ∧ s1.nextIssuer = some a) →
      t.pendTrap = [] → t.fbuf = none → t.fbufStale = false → t.pc.toNat % 2 = 0 → s0.interlocked a i = false →
      s0.blocked (alignDown 32 loc) 32 false = false → s0.poisoned (alignDown 32 loc) 32 = false →
      (∀ c k, a = .thr c k → Tbl.get ({} : ICLine) (s0.getCore c).icache (iKey loc 0) = {}) →
      (∀ w : BitVec 32, t.pc.toNat % 32 ≤ 28 → t.pc.toNat + 4 ≤ a.window → isLong (w.extractLsb' 16 16) = true →
        Memory.readN s0.mem loc 4 = bytesOfWord w → decode32 w = some i → runs) ∧
      (∀ h : BitVec 16, t.pc.toNat + 2 ≤ a.window → isLong h = false →
        Memory.readN s0.mem loc 2 = bytesOfHalf h → decode16 h = some i → runs))

/-- R45, R51, R57: words written out from the encoding tables decode to the instructions they stand for. -/
def Obligations.DecodeWords : Prop :=
  decodeTableWord 32 0xC2297FFD = some (.addi 5 5 (BitVec.ofInt 14 (-3))) ∧
  decodeTableWord 32 0xCB6B0005 = some (.div 13 12 0) ∧
  decodeTableWord 32 0xD6590008 = some (.std 11 4 8) ∧
  decodeTableWord 32 0xD7060006 = some (.beq 6 0 6) ∧
  decodeTableWord 32 0xE2480C00 = some (.mfs 9 0x300) ∧
  decodeTableWord 32 0xEC2240C2 = some (.vprune 4 9 3) ∧
  decodeTableWord 32 0xE3029602 = some (.reduce 10 11) ∧
  decodeTableWord 32 0xF0480000 = some (.cpy 9) ∧
  decodeTableWord 32 0xF1029600 = some (.reelinit 10 11) ∧
  decodeTableWord 32 0xF44A9602 = some (.rngsplit 9 10 11) ∧
  decodeTableWord 32 0xF5524003 = some (.snapfind 10 9) ∧
  decodeTableWord 16 0x40BD = some (.cAddi 5 (BitVec.ofInt 5 (-3))) ∧
  decodeTableWord 16 0x88C6 = some (.cBeqz 6 6) ∧
  decodeTableWord 16 0x3C00 = some .cEnd ∧
  decodeTableWord 32 0xFFFFFFFF = none

/-- R45, R48, R57, R59: the bytes of every well-formed instruction decode to it, whatever follows them, with every operand at
every value; a word that several rows share decodes to the first of them. -/
def Obligations.DecodeEncode : Prop :=
  ∀ (i : Instr) (rest : List (BitVec 8)), i.wellFormed = true → encode i ≠ .event →
    decode ((encode i).bytes ++ rest) = .ok (i.canon, rest)

/-- The model's own invariant: every step, whatever instruction or event it executes, keeps memory in its canonical form. -/
def Obligations.StepKeepsMemoryCanonical : Prop :=
  ∀ s t : State, s.Inv → step s = .next t → t.Inv

/-- The model's own invariant: memory stands in its canonical form after reset. -/
def Obligations.ResetInv : Prop :=
  State.reset.Inv
end

