-- ==== Sys2Proof/Laws/Arms.lean ====
section
/-! SUPPORT. The arms of exec, each as an equation: what exec does with an instruction is its meaning. -/

namespace Sys2Proof.Machine

theorem exec_add (d a b s) : exec (.add d a b) s = execAdd d a b s := rfl
theorem exec_sub (d a b s) : exec (.sub d a b) s = execSub d a b s := rfl
theorem exec_addw (d a b s) : exec (.addw d a b) s = execAddw d a b s := rfl
theorem exec_subw (d a b s) : exec (.subw d a b) s = execSubw d a b s := rfl
theorem exec_and (d a b s) : exec (.and d a b) s = execAnd d a b s := rfl
theorem exec_or (d a b s) : exec (.or d a b) s = execOr d a b s := rfl
theorem exec_xor (d a b s) : exec (.xor d a b) s = execXor d a b s := rfl
theorem exec_andn (d a b s) : exec (.andn d a b) s = execAndn d a b s := rfl
theorem exec_orn (d a b s) : exec (.orn d a b) s = execOrn d a b s := rfl
theorem exec_sll (d a b s) : exec (.sll d a b) s = execSll d a b s := rfl
theorem exec_srl (d a b s) : exec (.srl d a b) s = execSrl d a b s := rfl
theorem exec_sra (d a b s) : exec (.sra d a b) s = execSra d a b s := rfl
theorem exec_rol (d a b s) : exec (.rol d a b) s = execRol d a b s := rfl
theorem exec_ror (d a b s) : exec (.ror d a b) s = execRor d a b s := rfl
theorem exec_slt (d a b s) : exec (.slt d a b) s = execSlt d a b s := rfl
theorem exec_sltu (d a b s) : exec (.sltu d a b) s = execSltu d a b s := rfl
theorem exec_seq (d a b s) : exec (.seq d a b) s = execSeq d a b s := rfl
theorem exec_min (d a b s) : exec (.min d a b) s = execMin d a b s := rfl
theorem exec_max (d a b s) : exec (.max d a b) s = execMax d a b s := rfl
theorem exec_minu (d a b s) : exec (.minu d a b) s = execMinu d a b s := rfl
theorem exec_maxu (d a b s) : exec (.maxu d a b) s = execMaxu d a b s := rfl
theorem exec_clz (d a s) : exec (.clz d a) s = execClz d a s := rfl
theorem exec_ctz (d a s) : exec (.ctz d a) s = execCtz d a s := rfl
theorem exec_popc (d a s) : exec (.popc d a) s = execPopc d a s := rfl
theorem exec_brev (d a s) : exec (.brev d a) s = execBrev d a s := rfl
theorem exec_bswap (d a s) : exec (.bswap d a) s = execBswap d a s := rfl
theorem exec_sextB (d a s) : exec (.sextB d a) s = execSextB d a s := rfl
theorem exec_sextH (d a s) : exec (.sextH d a) s = execSextH d a s := rfl
theorem exec_sextW (d a s) : exec (.sextW d a) s = execSextW d a s := rfl
theorem exec_zextB (d a s) : exec (.zextB d a) s = execZextB d a s := rfl
theorem exec_zextH (d a s) : exec (.zextH d a) s = execZextH d a s := rfl
theorem exec_zextW (d a s) : exec (.zextW d a) s = execZextW d a s := rfl
theorem exec_shadd (d a b n s) : exec (.shadd d a b n) s = execShadd d a b n s := rfl
theorem exec_addi (d a i0 s) : exec (.addi d a i0) s = execAddi d a i0 s := rfl
theorem exec_andi (d a i0 s) : exec (.andi d a i0) s = execAndi d a i0 s := rfl
theorem exec_ori (d a i0 s) : exec (.ori d a i0) s = execOri d a i0 s := rfl
theorem exec_xori (d a i0 s) : exec (.xori d a i0) s = execXori d a i0 s := rfl
theorem exec_slli (d a n s) : exec (.slli d a n) s = execSlli d a n s := rfl
theorem exec_srli (d a n s) : exec (.srli d a n) s = execSrli d a n s := rfl
theorem exec_srai (d a n s) : exec (.srai d a n) s = execSrai d a n s := rfl
theorem exec_rori (d a n s) : exec (.rori d a n) s = execRori d a n s := rfl
theorem exec_slti (d a i0 s) : exec (.slti d a i0) s = execSlti d a i0 s := rfl
theorem exec_sltiu (d a i0 s) : exec (.sltiu d a i0) s = execSltiu d a i0 s := rfl
theorem exec_lui (d i0 s) : exec (.lui d i0) s = execLui d i0 s := rfl
theorem exec_addpc (d i0 s) : exec (.addpc d i0) s = execAddpc d i0 s := rfl
theorem exec_mul (d a b s) : exec (.mul d a b) s = execMul d a b s := rfl
theorem exec_mulh (d a b s) : exec (.mulh d a b) s = execMulh d a b s := rfl
theorem exec_mulhu (d a b s) : exec (.mulhu d a b) s = execMulhu d a b s := rfl
theorem exec_mulhsu (d a b s) : exec (.mulhsu d a b) s = execMulhsu d a b s := rfl
theorem exec_mulw (d a b s) : exec (.mulw d a b) s = execMulw d a b s := rfl
theorem exec_div (d a b s) : exec (.div d a b) s = execDiv d a b s := rfl
theorem exec_divu (d a b s) : exec (.divu d a b) s = execDivu d a b s := rfl
theorem exec_rem (d a b s) : exec (.rem d a b) s = execRem d a b s := rfl
theorem exec_remu (d a b s) : exec (.remu d a b) s = execRemu d a b s := rfl
theorem exec_madd (d a b s) : exec (.madd d a b) s = execMadd d a b s := rfl
theorem exec_ldb (d a i0 s) : exec (.ldb d a i0) s = execLdb d a i0 s := rfl
theorem exec_ldbu (d a i0 s) : exec (.ldbu d a i0) s = execLdbu d a i0 s := rfl
theorem exec_ldh (d a i0 s) : exec (.ldh d a i0) s = execLdh d a i0 s := rfl
theorem exec_ldhu (d a i0 s) : exec (.ldhu d a i0) s = execLdhu d a i0 s := rfl
theorem exec_ldw (d a i0 s) : exec (.ldw d a i0) s = execLdw d a i0 s := rfl
theorem exec_ldwu (d a i0 s) : exec (.ldwu d a i0) s = execLdwu d a i0 s := rfl
theorem exec_ldd (d a i0 s) : exec (.ldd d a i0) s = execLdd d a i0 s := rfl
theorem exec_stb (s0 b i0 s) : exec (.stb s0 b i0) s = execStb s0 b i0 s := rfl
theorem exec_sth (s0 b i0 s) : exec (.sth s0 b i0) s = execSth s0 b i0 s := rfl
theorem exec_stw (s0 b i0 s) : exec (.stw s0 b i0) s = execStw s0 b i0 s := rfl
theorem exec_std (s0 b i0 s) : exec (.std s0 b i0) s = execStd s0 b i0 s := rfl
theorem exec_beq (a b o s) : exec (.beq a b o) s = execBeq a b o s := rfl
theorem exec_bne (a b o s) : exec (.bne a b o) s = execBne a b o s := rfl
theorem exec_blt (a b o s) : exec (.blt a b o) s = execBlt a b o s := rfl
theorem exec_bge (a b o s) : exec (.bge a b o) s = execBge a b o s := rfl
theorem exec_bltu (a b o s) : exec (.bltu a b o) s = execBltu a b o s := rfl
theorem exec_bgeu (a b o s) : exec (.bgeu a b o) s = execBgeu a b o s := rfl
theorem exec_bbs (a b o s) : exec (.bbs a b o) s = execBbs a b o s := rfl
theorem exec_bbc (a b o s) : exec (.bbc a b o) s = execBbc a b o s := rfl
theorem exec_jal (d o s) : exec (.jal d o) s = execJal d o s := rfl
theorem exec_jalr (d a i0 s) : exec (.jalr d a i0) s = execJalr d a i0 s := rfl
theorem exec_loopI (d i0 s) : exec (.loopI d i0) s = execLoopI d i0 s := rfl
theorem exec_fadd (d a b r f s) : exec (.fadd d a b r f) s = execFadd d a b r f s := rfl
theorem exec_fsub (d a b r f s) : exec (.fsub d a b r f) s = execFsub d a b r f s := rfl
theorem exec_fmul (d a b r f s) : exec (.fmul d a b r f) s = execFmul d a b r f s := rfl
theorem exec_fdiv (d a b r f s) : exec (.fdiv d a b r f) s = execFdiv d a b r f s := rfl
theorem exec_fsqrt (d a r f s) : exec (.fsqrt d a r f) s = execFsqrt d a r f s := rfl
theorem exec_fma (d a b r f s) : exec (.fma d a b r f) s = execFma d a b r f s := rfl
theorem exec_fms (d a b r f s) : exec (.fms d a b r f) s = execFms d a b r f s := rfl
theorem exec_fnma (d a b r f s) : exec (.fnma d a b r f) s = execFnma d a b r f s := rfl
theorem exec_fmin (d a b f s) : exec (.fmin d a b f) s = execFmin d a b f s := rfl
theorem exec_fmax (d a b f s) : exec (.fmax d a b f) s = execFmax d a b f s := rfl
theorem exec_fcmpEq (d a b f s) : exec (.fcmpEq d a b f) s = execFcmpEq d a b f s := rfl
theorem exec_fcmpLt (d a b f s) : exec (.fcmpLt d a b f) s = execFcmpLt d a b f s := rfl
theorem exec_fcmpLe (d a b f s) : exec (.fcmpLe d a b f) s = execFcmpLe d a b f s := rfl
theorem exec_fcmpUn (d a b f s) : exec (.fcmpUn d a b f) s = execFcmpUn d a b f s := rfl
theorem exec_fclass (d a f s) : exec (.fclass d a f) s = execFclass d a f s := rfl
theorem exec_fcvtS (d a r s) : exec (.fcvtS d a r) s = execFcvtS d a r s := rfl
theorem exec_fcvtD (d a s) : exec (.fcvtD d a) s = execFcvtD d a s := rfl
theorem exec_fcvti (d a k r f s) : exec (.fcvti d a k r f) s = execFcvti d a k r f s := rfl
theorem exec_fcvtf (d a k r f s) : exec (.fcvtf d a k r f) s = execFcvtf d a k r f s := rfl
theorem exec_fmvxf (d a f s) : exec (.fmvxf d a f) s = execFmvxf d a f s := rfl
theorem exec_fmvfx (d a f s) : exec (.fmvfx d a f) s = execFmvfx d a f s := rfl
theorem exec_fsgn (d a b f s) : exec (.fsgn d a b f) s = execFsgn d a b f s := rfl
theorem exec_fsgnn (d a b f s) : exec (.fsgnn d a b f) s = execFsgnn d a b f s := rfl
theorem exec_fsgnx (d a b f s) : exec (.fsgnx d a b f) s = execFsgnx d a b f s := rfl
theorem exec_fldw (d a i0 s) : exec (.fldw d a i0) s = execFldw d a i0 s := rfl
theorem exec_fldd (d a i0 s) : exec (.fldd d a i0) s = execFldd d a i0 s := rfl
theorem exec_fstw (s0 b i0 s) : exec (.fstw s0 b i0) s = execFstw s0 b i0 s := rfl
theorem exec_fstd (s0 b i0 s) : exec (.fstd s0 b i0) s = execFstd s0 b i0 s := rfl
theorem exec_amoadd (d a b o s) : exec (.amoadd d a b o) s = execAmoadd d a b o s := rfl
theorem exec_amoand (d a b o s) : exec (.amoand d a b o) s = execAmoand d a b o s := rfl
theorem exec_amoor (d a b o s) : exec (.amoor d a b o) s = execAmoor d a b o s := rfl
theorem exec_amoxor (d a b o s) : exec (.amoxor d a b o) s = execAmoxor d a b o s := rfl
theorem exec_amomin (d a b o s) : exec (.amomin d a b o) s = execAmomin d a b o s := rfl
theorem exec_amomax (d a b o s) : exec (.amomax d a b o) s = execAmomax d a b o s := rfl
theorem exec_amominu (d a b o s) : exec (.amominu d a b o) s = execAmominu d a b o s := rfl
theorem exec_amomaxu (d a b o s) : exec (.amomaxu d a b o) s = execAmomaxu d a b o s := rfl
theorem exec_amoswap (d a b o s) : exec (.amoswap d a b o) s = execAmoswap d a b o s := rfl
theorem exec_cas (d a b o s) : exec (.cas d a b o) s = execCas d a b o s := rfl
theorem exec_fence (k s0 s) : exec (.fence k s0) s = execFence k s0 s := rfl
theorem exec_ifence (s) : exec (.ifence) s = execIfence s := rfl
theorem exec_icinv (d a b s0 s) : exec (.icinv d a b s0) s = execIcinv d a b s0 s := rfl
theorem exec_dcinv (d a b s0 s) : exec (.dcinv d a b s0) s = execDcinv d a b s0 s := rfl
theorem exec_dcwb (d a b s0 s) : exec (.dcwb d a b s0) s = execDcwb d a b s0 s := rfl
theorem exec_dcfl (d a b s0 s) : exec (.dcfl d a b s0) s = execDcfl d a b s0 s := rfl
theorem exec_pref (a s) : exec (.pref a) s = execPref a s := rfl
theorem exec_mfs (d n s) : exec (.mfs d n) s = execMfs d n s := rfl
theorem exec_mts (a n s) : exec (.mts a n) s = execMts a n s := rfl
theorem exec_trap (a s) : exec (.trap a) s = execTrap a s := rfl
theorem exec_eretResume (s) : exec (.eretResume) s = execEretResume s := rfl
theorem exec_eretPreempt (s) : exec (.eretPreempt) s = execEretPreempt s := rfl
theorem exec_eretPark (s) : exec (.eretPark) s = execEretPark s := rfl
theorem exec_eretRetake (s) : exec (.eretRetake) s = execEretRetake s := rfl
theorem exec_eretKill (s) : exec (.eretKill) s = execEretKill s := rfl
theorem exec_eretUnpark (s) : exec (.eretUnpark) s = execEretUnpark s := rfl
theorem exec_utret (s) : exec (.utret) s = execUtret s := rfl
theorem exec_waitI (a s) : exec (.waitI a) s = execWaitI a s := rfl
theorem exec_halt (s) : exec (.halt) s = execHalt s := rfl
theorem exec_migrate (a s) : exec (.migrate a) s = execMigrate a s := rfl
theorem exec_scanrun (d a s) : exec (.scanrun d a) s = execScanrun d a s := rfl
theorem exec_sendI (d a b s) : exec (.sendI d a b) s = execSendI d a b s := rfl
theorem exec_sendl (a b s) : exec (.sendl a b) s = execSendl a b s := rfl
theorem exec_sendlRpl (a b s) : exec (.sendlRpl a b) s = execSendlRpl a b s := rfl
theorem exec_reduce (a b s) : exec (.reduce a b) s = execReduce a b s := rfl
theorem exec_defer (a s) : exec (.defer a) s = execDefer a s := rfl
theorem exec_endAct (s) : exec (.endAct) s = execEndAct s := rfl
theorem exec_rld (d a s) : exec (.rld d a) s = execRld d a s := rfl
theorem exec_rst (a b s) : exec (.rst a b) s = execRst a b s := rfl
theorem exec_rcas (d a b s) : exec (.rcas d a b) s = execRcas d a b s := rfl
theorem exec_ramo (d a b p s) : exec (.ramo d a b p) s = execRamo d a b p s := rfl
theorem exec_qbind (a b s) : exec (.qbind a b) s = execQbind a b s := rfl
theorem exec_qput (a b s) : exec (.qput a b) s = execQput a b s := rfl
theorem exec_qget (d a s) : exec (.qget d a) s = execQget d a s := rfl
theorem exec_qtry (d a b s) : exec (.qtry d a b) s = execQtry d a b s := rfl
theorem exec_qlen (d a s) : exec (.qlen d a) s = execQlen d a s := rfl
theorem exec_oxld (d a n s) : exec (.oxld d a n) s = execOxld d a n s := rfl
theorem exec_oxst (a b n s) : exec (.oxst a b n) s = execOxst a b n s := rfl
theorem exec_oxset (d a s) : exec (.oxset d a) s = execOxset d a s := rfl
theorem exec_oxget (d a s) : exec (.oxget d a) s = execOxget d a s := rfl
theorem exec_vadd (d a b p s0 s) : exec (.vadd d a b p s0) s = execVadd d a b p s0 s := rfl
theorem exec_vsub (d a b p s0 s) : exec (.vsub d a b p s0) s = execVsub d a b p s0 s := rfl
theorem exec_vmul (d a b p s0 s) : exec (.vmul d a b p s0) s = execVmul d a b p s0 s := rfl
theorem exec_vmulh (d a b p s0 s) : exec (.vmulh d a b p s0) s = execVmulh d a b p s0 s := rfl
theorem exec_vmadd (d a b p s0 s) : exec (.vmadd d a b p s0) s = execVmadd d a b p s0 s := rfl
theorem exec_vand (d a b p s0 s) : exec (.vand d a b p s0) s = execVand d a b p s0 s := rfl
theorem exec_vor (d a b p s0 s) : exec (.vor d a b p s0) s = execVor d a b p s0 s := rfl
theorem exec_vxor (d a b p s0 s) : exec (.vxor d a b p s0) s = execVxor d a b p s0 s := rfl
theorem exec_vsll (d a b p s0 s) : exec (.vsll d a b p s0) s = execVsll d a b p s0 s := rfl
theorem exec_vsrl (d a b p s0 s) : exec (.vsrl d a b p s0) s = execVsrl d a b p s0 s := rfl
theorem exec_vsra (d a b p s0 s) : exec (.vsra d a b p s0) s = execVsra d a b p s0 s := rfl
theorem exec_vmin (d a b p s0 s) : exec (.vmin d a b p s0) s = execVmin d a b p s0 s := rfl
theorem exec_vmax (d a b p s0 s) : exec (.vmax d a b p s0) s = execVmax d a b p s0 s := rfl
theorem exec_vminu (d a b p s0 s) : exec (.vminu d a b p s0) s = execVminu d a b p s0 s := rfl
theorem exec_vmaxu (d a b p s0 s) : exec (.vmaxu d a b p s0) s = execVmaxu d a b p s0 s := rfl
theorem exec_vabs (d a p s0 s) : exec (.vabs d a p s0) s = execVabs d a p s0 s := rfl
theorem exec_vadds (d a b p s0 s) : exec (.vadds d a b p s0) s = execVadds d a b p s0 s := rfl
theorem exec_vsubs (d a b p s0 s) : exec (.vsubs d a b p s0) s = execVsubs d a b p s0 s := rfl
theorem exec_vcmp (c q a b p s0 s) : exec (.vcmp c q a b p s0) s = execVcmp c q a b p s0 s := rfl
theorem exec_vsel (d a b p s0 s) : exec (.vsel d a b p s0) s = execVsel d a b p s0 s := rfl
theorem exec_vdot4 (d a b p s) : exec (.vdot4 d a b p) s = execVdot4 d a b p s := rfl
theorem exec_vtdot4 (d a b p s) : exec (.vtdot4 d a b p) s = execVtdot4 d a b p s := rfl
theorem exec_vpopc (d a p s0 s) : exec (.vpopc d a p s0) s = execVpopc d a p s0 s := rfl
theorem exec_vmv (d a p s0 s) : exec (.vmv d a p s0) s = execVmv d a p s0 s := rfl
theorem exec_vfadd (d a b p s0 s) : exec (.vfadd d a b p s0) s = execVfadd d a b p s0 s := rfl
theorem exec_vfsub (d a b p s0 s) : exec (.vfsub d a b p s0) s = execVfsub d a b p s0 s := rfl
theorem exec_vfmul (d a b p s0 s) : exec (.vfmul d a b p s0) s = execVfmul d a b p s0 s := rfl
theorem exec_vfma (d a b p s0 s) : exec (.vfma d a b p s0) s = execVfma d a b p s0 s := rfl
theorem exec_vfms (d a b p s0 s) : exec (.vfms d a b p s0) s = execVfms d a b p s0 s := rfl
theorem exec_vfmin (d a b p s0 s) : exec (.vfmin d a b p s0) s = execVfmin d a b p s0 s := rfl
theorem exec_vfmax (d a b p s0 s) : exec (.vfmax d a b p s0) s = execVfmax d a b p s0 s := rfl
theorem exec_vfdiv (d a b p s0 s) : exec (.vfdiv d a b p s0) s = execVfdiv d a b p s0 s := rfl
theorem exec_vfsqrt (d a p s0 s) : exec (.vfsqrt d a p s0) s = execVfsqrt d a p s0 s := rfl
theorem exec_vfrcp (d a p s0 s) : exec (.vfrcp d a p s0) s = execVfrcp d a p s0 s := rfl
theorem exec_vfrsq (d a p s0 s) : exec (.vfrsq d a p s0) s = execVfrsq d a p s0 s := rfl
theorem exec_vfcmp (c q a b p s0 s) : exec (.vfcmp c q a b p s0) s = execVfcmp c q a b p s0 s := rfl
theorem exec_vld (d a p s0 s) : exec (.vld d a p s0) s = execVld d a p s0 s := rfl
theorem exec_vlds (d a b p s0 s) : exec (.vlds d a b p s0) s = execVlds d a b p s0 s := rfl
theorem exec_vgath (d a b p s0 s) : exec (.vgath d a b p s0) s = execVgath d a b p s0 s := rfl
theorem exec_vst (d a p s0 s) : exec (.vst d a p s0) s = execVst d a p s0 s := rfl
theorem exec_vsts (d a b p s0 s) : exec (.vsts d a b p s0) s = execVsts d a b p s0 s := rfl
theorem exec_vscat (d a b p s0 s) : exec (.vscat d a b p s0) s = execVscat d a b p s0 s := rfl
theorem exec_vldb (d a b s) : exec (.vldb d a b) s = execVldb d a b s := rfl
theorem exec_vredsum (d a k p s0 s) : exec (.vredsum d a k p s0) s = execVredsum d a k p s0 s := rfl
theorem exec_vredmin (d a k p s0 s) : exec (.vredmin d a k p s0) s = execVredmin d a k p s0 s := rfl
theorem exec_vredmax (d a k p s0 s) : exec (.vredmax d a k p s0) s = execVredmax d a k p s0 s := rfl
theorem exec_vscan (d a k p s0 s) : exec (.vscan d a k p s0) s = execVscan d a k p s0 s := rfl
theorem exec_vperm (d a b p s0 s) : exec (.vperm d a b p s0) s = execVperm d a b p s0 s := rfl
theorem exec_vbcast (d a p s0 s) : exec (.vbcast d a p s0) s = execVbcast d a p s0 s := rfl
theorem exec_vslide (d a b p s0 s) : exec (.vslide d a b p s0) s = execVslide d a b p s0 s := rfl
theorem exec_vins (d a b s0 s) : exec (.vins d a b s0) s = execVins d a b s0 s := rfl
theorem exec_vext (d a b s0 s) : exec (.vext d a b s0) s = execVext d a b s0 s := rfl
theorem exec_vzip (d a b p s0 s) : exec (.vzip d a b p s0) s = execVzip d a b p s0 s := rfl
theorem exec_vcvt (d a c p s0 s) : exec (.vcvt d a c p s0) s = execVcvt d a c p s0 s := rfl
theorem exec_vnarrow (d a h c p s0 s) : exec (.vnarrow d a h c p s0) s = execVnarrow d a h c p s0 s := rfl
theorem exec_vwiden (d a h c p s0 s) : exec (.vwiden d a h c p s0) s = execVwiden d a h c p s0 s := rfl
theorem exec_unpk3 (d a b q s) : exec (.unpk3 d a b q) s = execUnpk3 d a b q s := rfl
theorem exec_unpk4 (d a b p s0 s) : exec (.unpk4 d a b p s0) s = execUnpk4 d a b p s0 s := rfl
theorem exec_vpwl (d a b p s) : exec (.vpwl d a b p) s = execVpwl d a b p s := rfl
theorem exec_vsupd (d a b p s) : exec (.vsupd d a b p) s = execVsupd d a b p s := rfl
theorem exec_vprune (d a q s) : exec (.vprune d a q) s = execVprune d a q s := rfl
theorem exec_pand (d a b s) : exec (.pand d a b) s = execPand d a b s := rfl
theorem exec_por (d a b s) : exec (.por d a b) s = execPor d a b s := rfl
theorem exec_pxor (d a b s) : exec (.pxor d a b) s = execPxor d a b s := rfl
theorem exec_pnot (d a s) : exec (.pnot d a) s = execPnot d a s := rfl
theorem exec_pset (d a s0 s) : exec (.pset d a s0) s = execPset d a s0 s := rfl
theorem exec_pcnt (d a s0 s) : exec (.pcnt d a s0) s = execPcnt d a s0 s := rfl
theorem exec_pfirst (d a s0 s) : exec (.pfirst d a s0) s = execPfirst d a s0 s := rfl
theorem exec_mxcfg (a s) : exec (.mxcfg a) s = execMxcfg a s := rfl
theorem exec_mxzero (d s) : exec (.mxzero d) s = execMxzero d s := rfl
theorem exec_mxldb (d a s) : exec (.mxldb d a) s = execMxldb d a s := rfl
theorem exec_mxldbs (d a b s) : exec (.mxldbs d a b) s = execMxldbs d a b s := rfl
theorem exec_mxldbg (d a s) : exec (.mxldbg d a) s = execMxldbg d a s := rfl
theorem exec_mxstg (d a s) : exec (.mxstg d a) s = execMxstg d a s := rfl
theorem exec_mxmul (d a s) : exec (.mxmul d a) s = execMxmul d a s := rfl
theorem exec_mxrd (d a s) : exec (.mxrd d a) s = execMxrd d a s := rfl
theorem exec_mxfence (s) : exec (.mxfence) s = execMxfence s := rfl
theorem exec_forkMs (d a b s) : exec (.forkMs d a b) s = execForkMs d a b s := rfl
theorem exec_forkMi (d a b s) : exec (.forkMi d a b) s = execForkMi d a b s := rfl
theorem exec_forkCs (d a b s) : exec (.forkCs d a b) s = execForkCs d a b s := rfl
theorem exec_join (d a s) : exec (.join d a) s = execJoin d a s := rfl
theorem exec_sempost (d a s) : exec (.sempost d a) s = execSempost d a s := rfl
theorem exec_semwait (d a s) : exec (.semwait d a) s = execSemwait d a s := rfl
theorem exec_engstat (d a s) : exec (.engstat d a) s = execEngstat d a s := rfl
theorem exec_cpy (d s) : exec (.cpy d) s = execCpy d s := rfl
theorem exec_cpym (d s) : exec (.cpym d) s = execCpym d s := rfl
theorem exec_cpycan (d a s) : exec (.cpycan d a) s = execCpycan d a s := rfl
theorem exec_cpyst (d a s) : exec (.cpyst d a) s = execCpyst d a s := rfl
theorem exec_stcfg (d s) : exec (.stcfg d) s = execStcfg d s := rfl
theorem exec_stend (d s) : exec (.stend d) s = execStend d s := rfl
theorem exec_ststat (d a s) : exec (.ststat d a) s = execStstat d a s := rfl
theorem exec_reelinit (a b s) : exec (.reelinit a b) s = execReelinit a b s := rfl
theorem exec_reelawait (d a s) : exec (.reelawait d a) s = execReelawait d a s := rfl
theorem exec_reelrel (a s) : exec (.reelrel a) s = execReelrel a s := rfl
theorem exec_reelst (d a s) : exec (.reelst d a) s = execReelst d a s := rfl
theorem exec_tenq (a b s) : exec (.tenq a b) s = execTenq a b s := rfl
theorem exec_tdeq (d a b s) : exec (.tdeq d a b) s = execTdeq d a b s := rfl
theorem exec_futld (d a s) : exec (.futld d a) s = execFutld d a s := rfl
theorem exec_futst (d a b s) : exec (.futst d a b) s = execFutst d a b s := rfl
theorem exec_launch (a s) : exec (.launch a) s = execLaunch a s := rfl
theorem exec_barinit (d a b s) : exec (.barinit d a b) s = execBarinit d a b s := rfl
theorem exec_bararr (d a s) : exec (.bararr d a) s = execBararr d a s := rfl
theorem exec_barwait (d a b s) : exec (.barwait d a b) s = execBarwait d a b s := rfl
theorem exec_dcinit (a b s) : exec (.dcinit a b) s = execDcinit a b s := rfl
theorem exec_dcdec (d a b s) : exec (.dcdec d a b) s = execDcdec d a b s := rfl
theorem exec_dcwait (a s) : exec (.dcwait a) s = execDcwait a s := rfl
theorem exec_slopen (d a s) : exec (.slopen d a) s = execSlopen d a s := rfl
theorem exec_slopenClose (d a s) : exec (.slopenClose d a) s = execSlopenClose d a s := rfl
theorem exec_slwait (d a b s) : exec (.slwait d a b) s = execSlwait d a b s := rfl
theorem exec_slstat (d a s) : exec (.slstat d a) s = execSlstat d a s := rfl
theorem exec_bump (d a b s) : exec (.bump d a b) s = execBump d a b s := rfl
theorem exec_rngmap (d a s) : exec (.rngmap d a) s = execRngmap d a s := rfl
theorem exec_rngunmap (d a s) : exec (.rngunmap d a) s = execRngunmap d a s := rfl
theorem exec_rngsplit (d a b s) : exec (.rngsplit d a b) s = execRngsplit d a b s := rfl
theorem exec_rngmerge (d a s) : exec (.rngmerge d a) s = execRngmerge d a s := rfl
theorem exec_rngprot (d a b s) : exec (.rngprot d a b) s = execRngprot d a b s := rfl
theorem exec_rngresAdd (d a b s) : exec (.rngresAdd d a b) s = execRngresAdd d a b s := rfl
theorem exec_rngresRemove (d a b s) : exec (.rngresRemove d a b) s = execRngresRemove d a b s := rfl
theorem exec_rnginv (d a b s) : exec (.rnginv d a b) s = execRnginv d a b s := rfl
theorem exec_rngcmp (d a b s) : exec (.rngcmp d a b) s = execRngcmp d a b s := rfl
theorem exec_rngqry (d a b s) : exec (.rngqry d a b) s = execRngqry d a b s := rfl
theorem exec_lcmremRemove (d a b s) : exec (.lcmremRemove d a b) s = execLcmremRemove d a b s := rfl
theorem exec_lcmremPlace (d a b s) : exec (.lcmremPlace d a b) s = execLcmremPlace d a b s := rfl
theorem exec_qtmapMap (d a b s) : exec (.qtmapMap d a b) s = execQtmapMap d a b s := rfl
theorem exec_qtmapUnmap (d a b s) : exec (.qtmapUnmap d a b) s = execQtmapUnmap d a b s := rfl
theorem exec_qtpinPin (d a b s) : exec (.qtpinPin d a b) s = execQtpinPin d a b s := rfl
theorem exec_qtpinUnpin (d a b s) : exec (.qtpinUnpin d a b) s = execQtpinUnpin d a b s := rfl
theorem exec_snapinitCursor (d a b s) : exec (.snapinitCursor d a b) s = execSnapinitCursor d a b s := rfl
theorem exec_snapinitCreate (d a b s) : exec (.snapinitCreate d a b) s = execSnapinitCreate d a b s := rfl
theorem exec_snapinitDestroy (d a b s) : exec (.snapinitDestroy d a b) s = execSnapinitDestroy d a b s := rfl
theorem exec_snapinitQuery (d a b s) : exec (.snapinitQuery d a b) s = execSnapinitQuery d a b s := rfl
theorem exec_snaphash (d a b s) : exec (.snaphash d a b) s = execSnaphash d a b s := rfl
theorem exec_snapput (d a b s) : exec (.snapput d a b) s = execSnapput d a b s := rfl
theorem exec_snapfind (d a s) : exec (.snapfind d a) s = execSnapfind d a s := rfl
theorem exec_snapget (d a b s) : exec (.snapget d a b) s = execSnapget d a b s := rfl
theorem exec_snaprel (d a b s) : exec (.snaprel d a b) s = execSnaprel d a b s := rfl
theorem exec_snaprelAll (d a b s) : exec (.snaprelAll d a b) s = execSnaprelAll d a b s := rfl
theorem exec_monopen (s) : exec (.monopen) s = execMonopen s := rfl
theorem exec_monput (d a b s) : exec (.monput d a b) s = execMonput d a b s := rfl
theorem exec_monseal (a s) : exec (.monseal a) s = execMonseal a s := rfl
theorem exec_monstat (d a s) : exec (.monstat d a) s = execMonstat d a s := rfl
theorem exec_monclose (a s) : exec (.monclose a) s = execMonclose a s := rfl
theorem exec_rdts (d s) : exec (.rdts d) s = execRdts d s := rfl
theorem exec_rdcyc (d s) : exec (.rdcyc d) s = execRdcyc d s := rfl
theorem exec_rdvc (d a s) : exec (.rdvc d a) s = execRdvc d a s := rfl
theorem exec_pmcfg (a b s) : exec (.pmcfg a b) s = execPmcfg a b s := rfl
theorem exec_pmrd (d a s) : exec (.pmrd d a) s = execPmrd d a s := rfl
theorem exec_dlyrd (d a s) : exec (.dlyrd d a) s = execDlyrd d a s := rfl
theorem exec_dbgmark (a s) : exec (.dbgmark a) s = execDbgmark a s := rfl
theorem exec_cMv (d a s) : exec (.cMv d a) s = execCMv d a s := rfl
theorem exec_cAdd (d a s) : exec (.cAdd d a) s = execCAdd d a s := rfl
theorem exec_cSub (d a s) : exec (.cSub d a) s = execCSub d a s := rfl
theorem exec_cAnd (d a s) : exec (.cAnd d a) s = execCAnd d a s := rfl
theorem exec_cOr (d a s) : exec (.cOr d a) s = execCOr d a s := rfl
theorem exec_cXor (d a s) : exec (.cXor d a) s = execCXor d a s := rfl
theorem exec_cSll (d a s) : exec (.cSll d a) s = execCSll d a s := rfl
theorem exec_cSrl (d a s) : exec (.cSrl d a) s = execCSrl d a s := rfl
theorem exec_cSra (d a s) : exec (.cSra d a) s = execCSra d a s := rfl
theorem exec_cMul (d a s) : exec (.cMul d a) s = execCMul d a s := rfl
theorem exec_cSlt (d a s) : exec (.cSlt d a) s = execCSlt d a s := rfl
theorem exec_cJmpr (a s) : exec (.cJmpr a) s = execCJmpr a s := rfl
theorem exec_cCallr (a s) : exec (.cCallr a) s = execCCallr a s := rfl
theorem exec_cLdx (d a s) : exec (.cLdx d a) s = execCLdx d a s := rfl
theorem exec_cStx (s0 a s) : exec (.cStx s0 a) s = execCStx s0 a s := rfl
theorem exec_cEnd (s) : exec (.cEnd) s = execCEnd s := rfl
theorem exec_brk (s) : exec (.brk) s = execBrk s := rfl
theorem exec_nop (s) : exec (.nop) s = execNop s := rfl
theorem exec_yield (s) : exec (.yield) s = execYield s := rfl
theorem exec_cAddi (d i0 s) : exec (.cAddi d i0) s = execCAddi d i0 s := rfl
theorem exec_cLi (d i0 s) : exec (.cLi d i0) s = execCLi d i0 s := rfl
theorem exec_cSlli (d n s) : exec (.cSlli d n) s = execCSlli d n s := rfl
theorem exec_cSrli (d n s) : exec (.cSrli d n) s = execCSrli d n s := rfl
theorem exec_cSrai (d n s) : exec (.cSrai d n) s = execCSrai d n s := rfl
theorem exec_cAndi (d i0 s) : exec (.cAndi d i0) s = execCAndi d i0 s := rfl
theorem exec_cOri (d i0 s) : exec (.cOri d i0) s = execCOri d i0 s := rfl
theorem exec_cXori (d i0 s) : exec (.cXori d i0) s = execCXori d i0 s := rfl
theorem exec_cSpadj (i0 s) : exec (.cSpadj i0) s = execCSpadj i0 s := rfl
theorem exec_cJ (o s) : exec (.cJ o) s = execCJ o s := rfl
theorem exec_cJal (o s) : exec (.cJal o) s = execCJal o s := rfl
theorem exec_cBeqz (a o s) : exec (.cBeqz a o) s = execCBeqz a o s := rfl
theorem exec_cBnez (a o s) : exec (.cBnez a o) s = execCBnez a o s := rfl
theorem exec_cSld (d i0 s) : exec (.cSld d i0) s = execCSld d i0 s := rfl
theorem exec_cSst (s0 i0 s) : exec (.cSst s0 i0) s = execCSst s0 i0 s := rfl
theorem exec_cPld (d i0 s) : exec (.cPld d i0) s = execCPld d i0 s := rfl
theorem exec_cPst (s0 i0 s) : exec (.cPst s0 i0) s = execCPst s0 i0 s := rfl
theorem exec_cSlw (d i0 s) : exec (.cSlw d i0) s = execCSlw d i0 s := rfl
theorem exec_cSsw (s0 i0 s) : exec (.cSsw s0 i0) s = execCSsw s0 i0 s := rfl
theorem exec_messageInject (unit s) : exec (.messageInject unit) s = execMessageInject unit s := rfl
theorem exec_sendBufferGrant (unit s) : exec (.sendBufferGrant unit) s = execSendBufferGrant unit s := rfl
theorem exec_messageArrival (i0 s) : exec (.messageArrival i0) s = execMessageArrival i0 s := rfl
theorem exec_messageReturnArrival (i0 s) : exec (.messageReturnArrival i0) s = execMessageReturnArrival i0 s := rfl
theorem exec_edgeReturn (i0 s) : exec (.edgeReturn i0) s = execEdgeReturn i0 s := rfl
theorem exec_replyArrival (i0 s) : exec (.replyArrival i0) s = execReplyArrival i0 s := rfl
theorem exec_handlerEntryChange (core hid s) : exec (.handlerEntryChange core hid) s = execHandlerEntryChange core hid s := rfl
theorem exec_pendingDelivery (core hid s) : exec (.pendingDelivery core hid) s = execPendingDelivery core hid s := rfl
theorem exec_messageTake (core s) : exec (.messageTake core) s = execMessageTake core s := rfl
theorem exec_deferReady (core slot s) : exec (.deferReady core slot) s = execDeferReady core slot s := rfl
theorem exec_endCommit (core tid s) : exec (.endCommit core tid) s = execEndCommit core tid s := rfl
theorem exec_watchdogExpiry (core tid s) : exec (.watchdogExpiry core tid) s = execWatchdogExpiry core tid s := rfl
theorem exec_activeMessageWatchdog (core s) : exec (.activeMessageWatchdog core) s = execActiveMessageWatchdog core s := rfl
theorem exec_sequencerWatchdog (set q s) : exec (.sequencerWatchdog set q) s = execSequencerWatchdog set q s := rfl
theorem exec_uncorrectableError (obj s) : exec (.uncorrectableError obj) s = execUncorrectableError obj s := rfl
theorem exec_uncorrectableTrap (core tid s) : exec (.uncorrectableTrap core tid) s = execUncorrectableTrap core tid s := rfl
theorem exec_preemptRequest (core s) : exec (.preemptRequest core) s = execPreemptRequest core s := rfl
theorem exec_saveComplete (core tid s) : exec (.saveComplete core tid) s = execSaveComplete core tid s := rfl
theorem exec_resumptionItem (core tid s) : exec (.resumptionItem core tid) s = execResumptionItem core tid s := rfl
theorem exec_restoreComplete (core tid s) : exec (.restoreComplete core tid) s = execRestoreComplete core tid s := rfl
theorem exec_serviceItemStart (core s) : exec (.serviceItemStart core) s = execServiceItemStart core s := rfl
theorem exec_activeMessageStart (core s) : exec (.activeMessageStart core) s = execActiveMessageStart core s := rfl
theorem exec_rldServe (core s) : exec (.rldServe core) s = execRldServe core s := rfl
theorem exec_rstServe (core s) : exec (.rstServe core) s = execRstServe core s := rfl
theorem exec_rcasServe (core s) : exec (.rcasServe core) s = execRcasServe core s := rfl
theorem exec_ramoServe (core s) : exec (.ramoServe core) s = execRamoServe core s := rfl
theorem exec_migrateArrival (i0 s) : exec (.migrateArrival i0) s = execMigrateArrival i0 s := rfl
theorem exec_waitTimeReached (agent s) : exec (.waitTimeReached agent) s = execWaitTimeReached agent s := rfl
theorem exec_dcwaitRelease (agent s) : exec (.dcwaitRelease agent) s = execDcwaitRelease agent s := rfl
theorem exec_barwaitRelease (agent s) : exec (.barwaitRelease agent) s = execBarwaitRelease agent s := rfl
theorem exec_slwaitRelease (agent s) : exec (.slwaitRelease agent) s = execSlwaitRelease agent s := rfl
theorem exec_reelawaitFill (agent s) : exec (.reelawaitFill agent) s = execReelawaitFill agent s := rfl
theorem exec_qgetWake (agent s) : exec (.qgetWake agent) s = execQgetWake agent s := rfl
theorem exec_qputRoom (agent s) : exec (.qputRoom agent) s = execQputRoom agent s := rfl
theorem exec_joinWake (agent s) : exec (.joinWake agent) s = execJoinWake agent s := rfl
theorem exec_semwaitGrant (agent s) : exec (.semwaitGrant agent) s = execSemwaitGrant agent s := rfl
theorem exec_flagToSflags (set s) : exec (.flagToSflags set) s = execFlagToSflags set s := rfl
theorem exec_checkerMismatch (core s) : exec (.checkerMismatch core) s = execCheckerMismatch core s := rfl
theorem exec_knownAnswerMismatch (core me s) : exec (.knownAnswerMismatch core me) s = execKnownAnswerMismatch core me s := rfl
theorem exec_scanComplete (core pass s) : exec (.scanComplete core pass) s = execScanComplete core pass s := rfl
theorem exec_scanAbort (core s) : exec (.scanAbort core) s = execScanAbort core s := rfl
theorem exec_launchAccept (i0 s) : exec (.launchAccept i0) s = execLaunchAccept i0 s := rfl
theorem exec_taskEnqueue (i0 s) : exec (.taskEnqueue i0) s = execTaskEnqueue i0 s := rfl
theorem exec_launchWindowWrite (die fn at_ s) : exec (.launchWindowWrite die fn at_) s = execLaunchWindowWrite die fn at_ s := rfl
theorem exec_cpDispatch (die s) : exec (.cpDispatch die) s = execCpDispatch die s := rfl
theorem exec_launchReady (part qh i0 s) : exec (.launchReady part qh i0) s = execLaunchReady part qh i0 s := rfl
theorem exec_blockedPacketRemoval (part qh i0 s) : exec (.blockedPacketRemoval part qh i0) s = execBlockedPacketRemoval part qh i0 s := rfl
theorem exec_threadReport (core tid s) : exec (.threadReport core tid) s = execThreadReport core tid s := rfl
theorem exec_stageDispatch (part qh s) : exec (.stageDispatch part qh) s = execStageDispatch part qh s := rfl
theorem exec_deadlineMiss (core tid s) : exec (.deadlineMiss core tid) s = execDeadlineMiss core tid s := rfl
theorem exec_gafferSample (die s) : exec (.gafferSample die) s = execGafferSample die s := rfl
theorem exec_gafferDecision (die s) : exec (.gafferDecision die) s = execGafferDecision die s := rfl
theorem exec_sequencerProgramStart (set q s) : exec (.sequencerProgramStart set q) s = execSequencerProgramStart set q s := rfl
theorem exec_engineEntryStart (set s) : exec (.engineEntryStart set) s = execEngineEntryStart set s := rfl
theorem exec_engineEntryComplete (set s) : exec (.engineEntryComplete set) s = execEngineEntryComplete set s := rfl
theorem exec_weightLoadStart (set s) : exec (.weightLoadStart set) s = execWeightLoadStart set s := rfl
theorem exec_weightLoadComplete (set s) : exec (.weightLoadComplete set) s = execWeightLoadComplete set s := rfl
theorem exec_weightLoadFault (set s) : exec (.weightLoadFault set) s = execWeightLoadFault set s := rfl
theorem exec_weightLoadSuspend (set s) : exec (.weightLoadSuspend set) s = execWeightLoadSuspend set s := rfl
theorem exec_copyStart (h s) : exec (.copyStart h) s = execCopyStart h s := rfl
theorem exec_copySuspend (h s) : exec (.copySuspend h) s = execCopySuspend h s := rfl
theorem exec_copyComplete (h s) : exec (.copyComplete h) s = execCopyComplete h s := rfl
theorem exec_copyFault (h s) : exec (.copyFault h) s = execCopyFault h s := rfl
theorem exec_streamReadahead (core tid slot s) : exec (.streamReadahead core tid slot) s = execStreamReadahead core tid slot s := rfl
theorem exec_streamPushWrite (core tid slot s) : exec (.streamPushWrite core tid slot) s = execStreamPushWrite core tid slot s := rfl
theorem exec_montageRowArrival (set i0 s) : exec (.montageRowArrival set i0) s = execMontageRowArrival set i0 s := rfl
theorem exec_binTimeout (set bin s) : exec (.binTimeout set bin) s = execBinTimeout set bin s := rfl
theorem exec_sealComplete (set bin s) : exec (.sealComplete set bin) s = execSealComplete set bin s := rfl
theorem exec_ingressEvent (die port s) : exec (.ingressEvent die port) s = execIngressEvent die port s := rfl
theorem exec_ingressWatermark (die port s) : exec (.ingressWatermark die port) s = execIngressWatermark die port s := rfl
theorem exec_slateTimeout (die slate s) : exec (.slateTimeout die slate) s = execSlateTimeout die slate s := rfl
theorem exec_reduceCombine (die tree router s) : exec (.reduceCombine die tree router) s = execReduceCombine die tree router s := rfl
theorem exec_reduceResult (die tree s) : exec (.reduceResult die tree) s = execReduceResult die tree s := rfl
theorem exec_residencySpill (core preg s) : exec (.residencySpill core preg) s = execResidencySpill core preg s := rfl
theorem exec_residencyFill (core preg off s) : exec (.residencyFill core preg off) s = execResidencyFill core preg off s := rfl
theorem exec_residencyCopyComplete (core preg s) : exec (.residencyCopyComplete core preg) s = execResidencyCopyComplete core preg s := rfl
theorem exec_rangeWalkComplete (core va s) : exec (.rangeWalkComplete core va) s = execRangeWalkComplete core va s := rfl
theorem exec_rnginvComplete (agent s) : exec (.rnginvComplete agent) s = execRnginvComplete agent s := rfl
theorem exec_lcmremComplete (agent s) : exec (.lcmremComplete agent) s = execLcmremComplete agent s := rfl
theorem exec_compactionSwitch (die s) : exec (.compactionSwitch die) s = execCompactionSwitch die s := rfl
theorem exec_compactionComplete (die s) : exec (.compactionComplete die) s = execCompactionComplete die s := rfl
theorem exec_epochChange (die s) : exec (.epochChange die) s = execEpochChange die s := rfl
theorem exec_clockMessage (clock s) : exec (.clockMessage clock) s = execClockMessage clock s := rfl
theorem exec_coreAtRest (core s) : exec (.coreAtRest core) s = execCoreAtRest core s := rfl
theorem exec_debugStopRequest (die g s) : exec (.debugStopRequest die g) s = execDebugStopRequest die g s := rfl
theorem exec_debugCodeWrite (core addr data s) : exec (.debugCodeWrite core addr data) s = execDebugCodeWrite core addr data s := rfl
theorem exec_hgcGo (die g s) : exec (.hgcGo die g) s = execHgcGo die g s := rfl
theorem exec_cpbrkWrite (n v s) : exec (.cpbrkWrite n v) s = execCpbrkWrite n v s := rfl
theorem exec_claim (m s) : exec (.claim m) s = execClaim m s := rfl
theorem exec_offer (m dest s) : exec (.offer m dest) s = execOffer m dest s := rfl
theorem exec_accept (m s) : exec (.accept m) s = execAccept m s := rfl
theorem exec_release (m s) : exec (.release m) s = execRelease m s := rfl
theorem exec_offerTimeout (s) : exec (.offerTimeout) s = execOfferTimeout s := rfl
theorem exec_domainWrite (v s) : exec (.domainWrite v) s = execDomainWrite v s := rfl
theorem exec_tbslewWrite (v s) : exec (.tbslewWrite v) s = execTbslewWrite v s := rfl
theorem exec_tbstepWrite (v s) : exec (.tbstepWrite v) s = execTbstepWrite v s := rfl
theorem exec_msixTrigger (w fn v s) : exec (.msixTrigger w fn v) s = execMsixTrigger w fn v s := rfl
theorem exec_coreReset (w core s) : exec (.coreReset w core) s = execCoreReset w core s := rfl
theorem exec_setReset (w set s) : exec (.setReset w set) s = execSetReset w set s := rfl
theorem exec_queueResetComplete (isSet id s) : exec (.queueResetComplete isSet id) s = execQueueResetComplete isSet id s := rfl
theorem exec_scanctlStart (w core v s) : exec (.scanctlStart w core v) s = execScanctlStart w core v s := rfl
theorem exec_traceOpen (die mask stop s) : exec (.traceOpen die mask stop) s = execTraceOpen die mask stop s := rfl
theorem exec_traceClose (die s) : exec (.traceClose die) s = execTraceClose die s := rfl
theorem exec_ingressRouteWrite (w die src v s) : exec (.ingressRouteWrite w die src v) s = execIngressRouteWrite w die src v s := rfl
theorem exec_reductionTreeWrite (w die tree dw v s) : exec (.reductionTreeWrite w die tree dw v) s = execReductionTreeWrite w die tree dw v s := rfl
theorem exec_ulmLoadWindowWrite (w core addr data s) : exec (.ulmLoadWindowWrite w core addr data) s = execUlmLoadWindowWrite w core addr data s := rfl
theorem exec_mmioRegisterWrite (w off size v s) : exec (.mmioRegisterWrite w off size v) s = execMmioRegisterWrite w off size v s := rfl
theorem exec_grantResource (part r s) : exec (.grantResource part r) s = execGrantResource part r s := rfl
theorem exec_withdrawResource (part r s) : exec (.withdrawResource part r) s = execWithdrawResource part r s := rfl
theorem exec_lockInterface (part s) : exec (.lockInterface part) s = execLockInterface part s := rfl
theorem exec_startInterface (part s) : exec (.startInterface part) s = execStartInterface part s := rfl
theorem exec_stopInterface (part s) : exec (.stopInterface part) s = execStopInterface part s := rfl
theorem exec_partitionError (part s) : exec (.partitionError part) s = execPartitionError part s := rfl
theorem exec_attClear (step s) : exec (.attClear step) s = execAttClear step s := rfl
theorem exec_spdmRequest (s) : exec (.spdmRequest) s = execSpdmRequest s := rfl
theorem exec_deviceReset (env failNormal failAlt badCores s) : exec (.deviceReset env failNormal failAlt badCores) s = execDeviceReset env failNormal failAlt badCores s := rfl
theorem exec_apertureAccess (vf secure off data n s) : exec (.apertureAccess vf secure off data n) s = execApertureAccess vf secure off data n s := rfl
theorem exec_eventPageWrite (vf die addr data s) : exec (.eventPageWrite vf die addr data) s = execEventPageWrite vf die addr data s := rfl
theorem exec_csi2EventPacket (port data crcOk s) : exec (.csi2EventPacket port data crcOk) s = execCsi2EventPacket port data crcOk s := rfl
theorem exec_csi2FrameStart (port vc s) : exec (.csi2FrameStart port vc) s = execCsi2FrameStart port vc s := rfl
theorem exec_csi2FrameLine (port vc data crcOk s) : exec (.csi2FrameLine port vc data crcOk) s = execCsi2FrameLine port vc data crcOk s := rfl
theorem exec_csi2FrameEnd (port vc s) : exec (.csi2FrameEnd port vc) s = execCsi2FrameEnd port vc s := rfl
theorem exec_bridgeRetrain (s) : exec (.bridgeRetrain) s = execBridgeRetrain s := rfl
theorem exec_bridgeRetrainComplete (ok s) : exec (.bridgeRetrainComplete ok) s = execBridgeRetrainComplete ok s := rfl
theorem exec_managementRead (off s) : exec (.managementRead off) s = execManagementRead off s := rfl
theorem exec_illegalInstruction (w compact s) : exec (.illegalInstruction w compact) s = execIllegalInstruction w compact s := rfl
theorem exec_correctedError (die s) : exec (.correctedError die) s = execCorrectedError die s := rfl
theorem exec_powerOn (s) : exec (.powerOn) s = execPowerOn s := rfl
theorem exec_copyLineRelease (h s) : exec (.copyLineRelease h) s = execCopyLineRelease h s := rfl
theorem exec_compactionChunkCopy (die s) : exec (.compactionChunkCopy die) s = execCompactionChunkCopy die s := rfl
theorem exec_migrateForwardExpiry (i0 s) : exec (.migrateForwardExpiry i0) s = execMigrateForwardExpiry i0 s := rfl
theorem exec_csi2PacketDrop (port s) : exec (.csi2PacketDrop port) s = execCsi2PacketDrop port s := rfl
theorem exec_ingressTypeError (die port s) : exec (.ingressTypeError die port) s = execIngressTypeError die port s := rfl
theorem exec_mctpControlMessage (s) : exec (.mctpControlMessage) s = execMctpControlMessage s := rfl

end Sys2Proof.Machine
end

