-- ==== Sys2Proof/Laws/Tbl.lean ====
section
/-! SUPPORT. The laws of tables: reading after a write, and the canonical form, which every table operation keeps. -/

namespace Sys2Proof.Machine

variable {α : Type}

@[simp] theorem Tbl.get_nil (d : α) (n : Nat) : Tbl.get d [] n = d := rfl

@[simp] theorem Tbl.del_nil (n : Nat) : Tbl.del ([] : List (Nat × α)) n = [] := rfl

theorem Tbl.get_del_same (d : α) (t : List (Nat × α)) (n : Nat) : Tbl.get d (Tbl.del t n) n = d := by
  induction t with
  | nil => rfl
  | cons e t ih =>
    obtain ⟨k, v⟩ := e
    by_cases h : k = n
    · simp [Tbl.del, h, ih]
    · simp [Tbl.del, h, Tbl.get, ih]

theorem Tbl.get_del_other (d : α) (t : List (Nat × α)) {n m : Nat} (h : m ≠ n) :
    Tbl.get d (Tbl.del t n) m = Tbl.get d t m := by
  induction t with
  | nil => rfl
  | cons e t ih =>
    obtain ⟨k, v⟩ := e
    by_cases hk : k = n
    · subst hk
      simp [Tbl.del, Tbl.get, ih, Ne.symm h]
    · simp only [Tbl.del, hk, if_false, Tbl.get, ih]

theorem Tbl.get_ins_same (d : α) (t : List (Nat × α)) (n : Nat) (v : α)
    (hn : ∀ e ∈ t, e.1 ≠ n) : Tbl.get d (Tbl.ins t n v) n = v := by
  induction t with
  | nil => simp [Tbl.ins, Tbl.get]
  | cons e t ih =>
    obtain ⟨k, w⟩ := e
    have hk : k ≠ n := hn (k, w) (by simp)
    have ht : ∀ e ∈ t, e.1 ≠ n := fun e he => hn e (List.mem_cons_of_mem _ he)
    by_cases hlt : n < k
    · simp [Tbl.ins, hlt, Tbl.get]
    · simp [Tbl.ins, hlt, Tbl.get, hk, ih ht]

theorem Tbl.get_ins_other (d : α) (t : List (Nat × α)) {n m : Nat} (v : α) (h : m ≠ n) :
    Tbl.get d (Tbl.ins t n v) m = Tbl.get d t m := by
  induction t with
  | nil => simp [Tbl.ins, Tbl.get, Ne.symm h]
  | cons e t ih =>
    obtain ⟨k, w⟩ := e
    by_cases hlt : n < k
    · simp [Tbl.ins, hlt, Tbl.get, Ne.symm h]
    · simp [Tbl.ins, hlt, Tbl.get, ih]

theorem Tbl.mem_del_ne (t : List (Nat × α)) (n : Nat) : ∀ e ∈ Tbl.del t n, e.1 ≠ n := by
  induction t with
  | nil => simp
  | cons e t ih =>
    obtain ⟨k, v⟩ := e
    by_cases hk : k = n
    · simpa [Tbl.del, hk] using ih
    · intro e he
      simp only [Tbl.del, hk, if_false, List.mem_cons] at he
      rcases he with rfl | he
      · exact hk
      · exact ih e he

/-- The entry just written is read. -/
@[simp] theorem Tbl.get_put_same [DecidableEq α] (d : α) (t : List (Nat × α)) (n : Nat) (v : α) :
    Tbl.get d (Tbl.put d t n v) n = v := by
  unfold Tbl.put
  split
  · rw [Tbl.get_del_same]; exact Eq.symm ‹_›
  · exact Tbl.get_ins_same d _ n v (Tbl.mem_del_ne t n)

/-- A write leaves every other entry. -/
theorem Tbl.get_put_other [DecidableEq α] (d : α) (t : List (Nat × α)) {n m : Nat} (v : α) (h : m ≠ n) :
    Tbl.get d (Tbl.put d t n v) m = Tbl.get d t m := by
  unfold Tbl.put
  split
  · exact Tbl.get_del_other d t h
  · rw [Tbl.get_ins_other d _ v h, Tbl.get_del_other d t h]

theorem Tbl.get_put [DecidableEq α] (d : α) (t : List (Nat × α)) (n m : Nat) (v : α) :
    Tbl.get d (Tbl.put d t n v) m = if m = n then v else Tbl.get d t m := by
  split
  · subst_vars; simp
  · exact Tbl.get_put_other d t v ‹_›

/-! ### The canonical form -/

theorem Tbl.above_of_lt {t : List (Nat × α)} {n k : Nat} (h : n ≤ k) (hk : Tbl.above k t = true) :
    Tbl.above n t = true := by
  induction t with
  | nil => rfl
  | cons e t ih =>
    obtain ⟨j, v⟩ := e
    simp only [Tbl.above, Bool.and_eq_true, decide_eq_true_eq] at hk ⊢
    exact ⟨by omega, ih hk.2⟩

theorem Tbl.above_del {t : List (Nat × α)} {n k : Nat} (h : Tbl.above k t = true) : Tbl.above k (Tbl.del t n) = true := by
  induction t with
  | nil => rfl
  | cons e t ih =>
    obtain ⟨j, v⟩ := e
    simp only [Tbl.above, Bool.and_eq_true, decide_eq_true_eq] at h
    by_cases hj : j = n
    · simp [Tbl.del, hj, ih h.2]
    · simp [Tbl.del, hj, Tbl.above, h.1, ih h.2]

theorem Tbl.above_ins {t : List (Nat × α)} {n k : Nat} {v : α} (h : Tbl.above k t = true) (hn : k < n) :
    Tbl.above k (Tbl.ins t n v) = true := by
  induction t with
  | nil => simp [Tbl.ins, Tbl.above, hn]
  | cons e t ih =>
    obtain ⟨j, w⟩ := e
    simp only [Tbl.above, Bool.and_eq_true, decide_eq_true_eq] at h
    by_cases hlt : n < j
    · simp [Tbl.ins, hlt, Tbl.above, hn, h]
    · simp [Tbl.ins, hlt, Tbl.above, h.1, ih h.2]

theorem Tbl.wf_del [DecidableEq α] {d : α} {t : List (Nat × α)} {n : Nat} (h : Tbl.wf d t = true) :
    Tbl.wf d (Tbl.del t n) = true := by
  induction t with
  | nil => rfl
  | cons e t ih =>
    obtain ⟨k, v⟩ := e
    simp only [Tbl.wf, Bool.and_eq_true, decide_eq_true_eq] at h
    by_cases hk : k = n
    · simp [Tbl.del, hk, ih h.2]
    · simp [Tbl.del, hk, Tbl.wf, h.1.1, Tbl.above_del h.1.2, ih h.2]

theorem Tbl.wf_ins [DecidableEq α] {d : α} {t : List (Nat × α)} {n : Nat} {v : α} (h : Tbl.wf d t = true) (hv : v ≠ d)
    (hn : ∀ e ∈ t, e.1 ≠ n) : Tbl.wf d (Tbl.ins t n v) = true := by
  induction t with
  | nil => simp [Tbl.ins, Tbl.wf, Tbl.above, hv]
  | cons e t ih =>
    obtain ⟨k, w⟩ := e
    have hw := h
    simp only [Tbl.wf, Bool.and_eq_true, decide_eq_true_eq] at h
    have hk : k ≠ n := hn (k, w) (by simp)
    have ht : ∀ e ∈ t, e.1 ≠ n := fun e he => hn e (List.mem_cons_of_mem _ he)
    by_cases hlt : n < k
    · simp only [Tbl.ins, hlt, if_true, Tbl.wf, Tbl.above, Bool.and_eq_true, decide_eq_true_eq]
      exact ⟨⟨hv, trivial, Tbl.above_of_lt (by omega) h.1.2⟩, h⟩
    · simp only [Tbl.ins, hlt, if_false, Tbl.wf, Bool.and_eq_true, decide_eq_true_eq]
      exact ⟨⟨h.1.1, Tbl.above_ins h.1.2 (by omega)⟩, ih h.2 ht⟩

/-- A write keeps the canonical form. -/
theorem Tbl.wf_put [DecidableEq α] {d : α} {t : List (Nat × α)} {n : Nat} {v : α} (h : Tbl.wf d t = true) :
    Tbl.wf d (Tbl.put d t n v) = true := by
  unfold Tbl.put
  split
  · exact Tbl.wf_del h
  · exact Tbl.wf_ins (Tbl.wf_del h) ‹_› (Tbl.mem_del_ne t n)

end Sys2Proof.Machine
end

