-- ==== Sys2Proof/Laws/State.lean ====
section
/-! SUPPORT. The small laws of State: one per field and update, and what an update of a thread or unit leaves in the others. -/

namespace Sys2Proof.Machine

namespace State

/-! ### setThread -/

@[simp] theorem setThread_cur (s : State) (a : Agent) (t : Thread) : (s.setThread a t).cur = s.cur := rfl
@[simp] theorem setThread_agenda (s : State) (a : Agent) (t : Thread) : (s.setThread a t).agenda = s.agenda := rfl
@[simp] theorem setThread_core (s : State) (a : Agent) (t : Thread) : (s.setThread a t).core = s.core := rfl
@[simp] theorem setThread_sets (s : State) (a : Agent) (t : Thread) : (s.setThread a t).sets = s.sets := rfl
@[simp] theorem setThread_die (s : State) (a : Agent) (t : Thread) : (s.setThread a t).die = s.die := rfl
@[simp] theorem setThread_part (s : State) (a : Agent) (t : Thread) : (s.setThread a t).part = s.part := rfl
@[simp] theorem setThread_mem (s : State) (a : Agent) (t : Thread) : (s.setThread a t).mem = s.mem := rfl
@[simp] theorem setThread_poison (s : State) (a : Agent) (t : Thread) : (s.setThread a t).poison = s.poison := rfl
@[simp] theorem setThread_timebase (s : State) (a : Agent) (t : Thread) : (s.setThread a t).timebase = s.timebase := rfl
@[simp] theorem setThread_cycles (s : State) (a : Agent) (t : Thread) : (s.setThread a t).cycles = s.cycles := rfl
@[simp] theorem setThread_lcm (s : State) (a : Agent) (t : Thread) : (s.setThread a t).lcm = s.lcm := rfl
@[simp] theorem setThread_owner (s : State) (a : Agent) (t : Thread) : (s.setThread a t).owner = s.owner := rfl
@[simp] theorem setThread_offerAt (s : State) (a : Agent) (t : Thread) : (s.setThread a t).offerAt = s.offerAt := rfl
@[simp] theorem setThread_bootrec (s : State) (a : Agent) (t : Thread) : (s.setThread a t).bootrec = s.bootrec := rfl
@[simp] theorem setThread_bootEnt (s : State) (a : Agent) (t : Thread) : (s.setThread a t).bootEnt = s.bootEnt := rfl
@[simp] theorem setThread_boots (s : State) (a : Agent) (t : Thread) : (s.setThread a t).boots = s.boots := rfl
@[simp] theorem setThread_failedBoots (s : State) (a : Agent) (t : Thread) : (s.setThread a t).failedBoots = s.failedBoots := rfl
@[simp] theorem setThread_recovery (s : State) (a : Agent) (t : Thread) : (s.setThread a t).recovery = s.recovery := rfl
@[simp] theorem setThread_envelope (s : State) (a : Agent) (t : Thread) : (s.setThread a t).envelope = s.envelope := rfl
@[simp] theorem setThread_cpbrk (s : State) (a : Agent) (t : Thread) : (s.setThread a t).cpbrk = s.cpbrk := rfl
@[simp] theorem setThread_domain (s : State) (a : Agent) (t : Thread) : (s.setThread a t).domain = s.domain := rfl
@[simp] theorem setThread_ltp (s : State) (a : Agent) (t : Thread) : (s.setThread a t).ltp = s.ltp := rfl
@[simp] theorem setThread_tbslew (s : State) (a : Agent) (t : Thread) : (s.setThread a t).tbslew = s.tbslew := rfl
@[simp] theorem setThread_tbfrac (s : State) (a : Agent) (t : Thread) : (s.setThread a t).tbfrac = s.tbfrac := rfl
@[simp] theorem setThread_keys (s : State) (a : Agent) (t : Thread) : (s.setThread a t).keys = s.keys := rfl
@[simp] theorem setThread_frameTgt (s : State) (a : Agent) (t : Thread) : (s.setThread a t).frameTgt = s.frameTgt := rfl
@[simp] theorem setThread_frames (s : State) (a : Agent) (t : Thread) : (s.setThread a t).frames = s.frames := rfl
@[simp] theorem setThread_msix (s : State) (a : Agent) (t : Thread) : (s.setThread a t).msix = s.msix := rfl
@[simp] theorem setThread_mesh (s : State) (a : Agent) (t : Thread) : (s.setThread a t).mesh = s.mesh := rfl
@[simp] theorem setThread_carried (s : State) (a : Agent) (t : Thread) : (s.setThread a t).carried = s.carried := rfl
@[simp] theorem setThread_cycfrac (s : State) (a : Agent) (t : Thread) : (s.setThread a t).cycfrac = s.cycfrac := rfl
@[simp] theorem setThread_postedA (s : State) (a : Agent) (t : Thread) : (s.setThread a t).postedA = s.postedA := rfl
@[simp] theorem setThread_postedB (s : State) (a : Agent) (t : Thread) : (s.setThread a t).postedB = s.postedB := rfl
@[simp] theorem setThread_fuses (s : State) (a : Agent) (t : Thread) : (s.setThread a t).fuses = s.fuses := rfl
@[simp] theorem setThread_fwDigest (s : State) (a : Agent) (t : Thread) : (s.setThread a t).fwDigest = s.fwDigest := rfl
@[simp] theorem setThread_polled (s : State) (a : Agent) (t : Thread) : (s.setThread a t).polled = s.polled := rfl
@[simp] theorem setThread_migrants (s : State) (a : Agent) (t : Thread) : (s.setThread a t).migrants = s.migrants := rfl
@[simp] theorem setThread_forwards (s : State) (a : Agent) (t : Thread) : (s.setThread a t).forwards = s.forwards := rfl
@[simp] theorem setThread_fencePoint (s : State) (a : Agent) (t : Thread) : (s.setThread a t).fencePoint = s.fencePoint := rfl
@[simp] theorem setThread_heldClocks (s : State) (a : Agent) (t : Thread) : (s.setThread a t).heldClocks = s.heldClocks := rfl
@[simp] theorem setThread_hostOut (s : State) (a : Agent) (t : Thread) : (s.setThread a t).hostOut = s.hostOut := rfl
@[simp] theorem setThread_retraining (s : State) (a : Agent) (t : Thread) : (s.setThread a t).retraining = s.retraining := rfl
@[simp] theorem setThread_mbox (s : State) (a : Agent) (t : Thread) : (s.setThread a t).mbox = s.mbox := rfl
@[simp] theorem setThread_answer (s : State) (a : Agent) (t : Thread) : (s.setThread a t).answer = s.answer := rfl
@[simp] theorem setThread_freeCtr (s : State) (a : Agent) (t : Thread) : (s.setThread a t).freeCtr = s.freeCtr := rfl

/-! ### modThread -/

@[simp] theorem modThread_cur (s : State) (a : Agent) (f : Thread → Thread) : (s.modThread a f).cur = s.cur := rfl
@[simp] theorem modThread_agenda (s : State) (a : Agent) (f : Thread → Thread) : (s.modThread a f).agenda = s.agenda := rfl
@[simp] theorem modThread_core (s : State) (a : Agent) (f : Thread → Thread) : (s.modThread a f).core = s.core := rfl
@[simp] theorem modThread_sets (s : State) (a : Agent) (f : Thread → Thread) : (s.modThread a f).sets = s.sets := rfl
@[simp] theorem modThread_die (s : State) (a : Agent) (f : Thread → Thread) : (s.modThread a f).die = s.die := rfl
@[simp] theorem modThread_part (s : State) (a : Agent) (f : Thread → Thread) : (s.modThread a f).part = s.part := rfl
@[simp] theorem modThread_mem (s : State) (a : Agent) (f : Thread → Thread) : (s.modThread a f).mem = s.mem := rfl
@[simp] theorem modThread_poison (s : State) (a : Agent) (f : Thread → Thread) : (s.modThread a f).poison = s.poison := rfl
@[simp] theorem modThread_timebase (s : State) (a : Agent) (f : Thread → Thread) : (s.modThread a f).timebase = s.timebase := rfl
@[simp] theorem modThread_cycles (s : State) (a : Agent) (f : Thread → Thread) : (s.modThread a f).cycles = s.cycles := rfl
@[simp] theorem modThread_lcm (s : State) (a : Agent) (f : Thread → Thread) : (s.modThread a f).lcm = s.lcm := rfl
@[simp] theorem modThread_owner (s : State) (a : Agent) (f : Thread → Thread) : (s.modThread a f).owner = s.owner := rfl
@[simp] theorem modThread_offerAt (s : State) (a : Agent) (f : Thread → Thread) : (s.modThread a f).offerAt = s.offerAt := rfl
@[simp] theorem modThread_bootrec (s : State) (a : Agent) (f : Thread → Thread) : (s.modThread a f).bootrec = s.bootrec := rfl
@[simp] theorem modThread_bootEnt (s : State) (a : Agent) (f : Thread → Thread) : (s.modThread a f).bootEnt = s.bootEnt := rfl
@[simp] theorem modThread_boots (s : State) (a : Agent) (f : Thread → Thread) : (s.modThread a f).boots = s.boots := rfl
@[simp] theorem modThread_failedBoots (s : State) (a : Agent) (f : Thread → Thread) : (s.modThread a f).failedBoots = s.failedBoots := rfl
@[simp] theorem modThread_recovery (s : State) (a : Agent) (f : Thread → Thread) : (s.modThread a f).recovery = s.recovery := rfl
@[simp] theorem modThread_envelope (s : State) (a : Agent) (f : Thread → Thread) : (s.modThread a f).envelope = s.envelope := rfl
@[simp] theorem modThread_cpbrk (s : State) (a : Agent) (f : Thread → Thread) : (s.modThread a f).cpbrk = s.cpbrk := rfl
@[simp] theorem modThread_domain (s : State) (a : Agent) (f : Thread → Thread) : (s.modThread a f).domain = s.domain := rfl
@[simp] theorem modThread_ltp (s : State) (a : Agent) (f : Thread → Thread) : (s.modThread a f).ltp = s.ltp := rfl
@[simp] theorem modThread_tbslew (s : State) (a : Agent) (f : Thread → Thread) : (s.modThread a f).tbslew = s.tbslew := rfl
@[simp] theorem modThread_tbfrac (s : State) (a : Agent) (f : Thread → Thread) : (s.modThread a f).tbfrac = s.tbfrac := rfl
@[simp] theorem modThread_keys (s : State) (a : Agent) (f : Thread → Thread) : (s.modThread a f).keys = s.keys := rfl
@[simp] theorem modThread_frameTgt (s : State) (a : Agent) (f : Thread → Thread) : (s.modThread a f).frameTgt = s.frameTgt := rfl
@[simp] theorem modThread_frames (s : State) (a : Agent) (f : Thread → Thread) : (s.modThread a f).frames = s.frames := rfl
@[simp] theorem modThread_msix (s : State) (a : Agent) (f : Thread → Thread) : (s.modThread a f).msix = s.msix := rfl
@[simp] theorem modThread_mesh (s : State) (a : Agent) (f : Thread → Thread) : (s.modThread a f).mesh = s.mesh := rfl
@[simp] theorem modThread_carried (s : State) (a : Agent) (f : Thread → Thread) : (s.modThread a f).carried = s.carried := rfl
@[simp] theorem modThread_cycfrac (s : State) (a : Agent) (f : Thread → Thread) : (s.modThread a f).cycfrac = s.cycfrac := rfl
@[simp] theorem modThread_postedA (s : State) (a : Agent) (f : Thread → Thread) : (s.modThread a f).postedA = s.postedA := rfl
@[simp] theorem modThread_postedB (s : State) (a : Agent) (f : Thread → Thread) : (s.modThread a f).postedB = s.postedB := rfl
@[simp] theorem modThread_fuses (s : State) (a : Agent) (f : Thread → Thread) : (s.modThread a f).fuses = s.fuses := rfl
@[simp] theorem modThread_fwDigest (s : State) (a : Agent) (f : Thread → Thread) : (s.modThread a f).fwDigest = s.fwDigest := rfl
@[simp] theorem modThread_polled (s : State) (a : Agent) (f : Thread → Thread) : (s.modThread a f).polled = s.polled := rfl
@[simp] theorem modThread_migrants (s : State) (a : Agent) (f : Thread → Thread) : (s.modThread a f).migrants = s.migrants := rfl
@[simp] theorem modThread_forwards (s : State) (a : Agent) (f : Thread → Thread) : (s.modThread a f).forwards = s.forwards := rfl
@[simp] theorem modThread_fencePoint (s : State) (a : Agent) (f : Thread → Thread) : (s.modThread a f).fencePoint = s.fencePoint := rfl
@[simp] theorem modThread_heldClocks (s : State) (a : Agent) (f : Thread → Thread) : (s.modThread a f).heldClocks = s.heldClocks := rfl
@[simp] theorem modThread_hostOut (s : State) (a : Agent) (f : Thread → Thread) : (s.modThread a f).hostOut = s.hostOut := rfl
@[simp] theorem modThread_retraining (s : State) (a : Agent) (f : Thread → Thread) : (s.modThread a f).retraining = s.retraining := rfl
@[simp] theorem modThread_mbox (s : State) (a : Agent) (f : Thread → Thread) : (s.modThread a f).mbox = s.mbox := rfl
@[simp] theorem modThread_answer (s : State) (a : Agent) (f : Thread → Thread) : (s.modThread a f).answer = s.answer := rfl
@[simp] theorem modThread_freeCtr (s : State) (a : Agent) (f : Thread → Thread) : (s.modThread a f).freeCtr = s.freeCtr := rfl

/-! ### modMe -/

@[simp] theorem modMe_cur (s : State) (f : Thread → Thread) : (s.modMe f).cur = s.cur := rfl
@[simp] theorem modMe_agenda (s : State) (f : Thread → Thread) : (s.modMe f).agenda = s.agenda := rfl
@[simp] theorem modMe_core (s : State) (f : Thread → Thread) : (s.modMe f).core = s.core := rfl
@[simp] theorem modMe_sets (s : State) (f : Thread → Thread) : (s.modMe f).sets = s.sets := rfl
@[simp] theorem modMe_die (s : State) (f : Thread → Thread) : (s.modMe f).die = s.die := rfl
@[simp] theorem modMe_part (s : State) (f : Thread → Thread) : (s.modMe f).part = s.part := rfl
@[simp] theorem modMe_mem (s : State) (f : Thread → Thread) : (s.modMe f).mem = s.mem := rfl
@[simp] theorem modMe_poison (s : State) (f : Thread → Thread) : (s.modMe f).poison = s.poison := rfl
@[simp] theorem modMe_timebase (s : State) (f : Thread → Thread) : (s.modMe f).timebase = s.timebase := rfl
@[simp] theorem modMe_cycles (s : State) (f : Thread → Thread) : (s.modMe f).cycles = s.cycles := rfl
@[simp] theorem modMe_lcm (s : State) (f : Thread → Thread) : (s.modMe f).lcm = s.lcm := rfl
@[simp] theorem modMe_owner (s : State) (f : Thread → Thread) : (s.modMe f).owner = s.owner := rfl
@[simp] theorem modMe_offerAt (s : State) (f : Thread → Thread) : (s.modMe f).offerAt = s.offerAt := rfl
@[simp] theorem modMe_bootrec (s : State) (f : Thread → Thread) : (s.modMe f).bootrec = s.bootrec := rfl
@[simp] theorem modMe_bootEnt (s : State) (f : Thread → Thread) : (s.modMe f).bootEnt = s.bootEnt := rfl
@[simp] theorem modMe_boots (s : State) (f : Thread → Thread) : (s.modMe f).boots = s.boots := rfl
@[simp] theorem modMe_failedBoots (s : State) (f : Thread → Thread) : (s.modMe f).failedBoots = s.failedBoots := rfl
@[simp] theorem modMe_recovery (s : State) (f : Thread → Thread) : (s.modMe f).recovery = s.recovery := rfl
@[simp] theorem modMe_envelope (s : State) (f : Thread → Thread) : (s.modMe f).envelope = s.envelope := rfl
@[simp] theorem modMe_cpbrk (s : State) (f : Thread → Thread) : (s.modMe f).cpbrk = s.cpbrk := rfl
@[simp] theorem modMe_domain (s : State) (f : Thread → Thread) : (s.modMe f).domain = s.domain := rfl
@[simp] theorem modMe_ltp (s : State) (f : Thread → Thread) : (s.modMe f).ltp = s.ltp := rfl
@[simp] theorem modMe_tbslew (s : State) (f : Thread → Thread) : (s.modMe f).tbslew = s.tbslew := rfl
@[simp] theorem modMe_tbfrac (s : State) (f : Thread → Thread) : (s.modMe f).tbfrac = s.tbfrac := rfl
@[simp] theorem modMe_keys (s : State) (f : Thread → Thread) : (s.modMe f).keys = s.keys := rfl
@[simp] theorem modMe_frameTgt (s : State) (f : Thread → Thread) : (s.modMe f).frameTgt = s.frameTgt := rfl
@[simp] theorem modMe_frames (s : State) (f : Thread → Thread) : (s.modMe f).frames = s.frames := rfl
@[simp] theorem modMe_msix (s : State) (f : Thread → Thread) : (s.modMe f).msix = s.msix := rfl
@[simp] theorem modMe_mesh (s : State) (f : Thread → Thread) : (s.modMe f).mesh = s.mesh := rfl
@[simp] theorem modMe_carried (s : State) (f : Thread → Thread) : (s.modMe f).carried = s.carried := rfl
@[simp] theorem modMe_cycfrac (s : State) (f : Thread → Thread) : (s.modMe f).cycfrac = s.cycfrac := rfl
@[simp] theorem modMe_postedA (s : State) (f : Thread → Thread) : (s.modMe f).postedA = s.postedA := rfl
@[simp] theorem modMe_postedB (s : State) (f : Thread → Thread) : (s.modMe f).postedB = s.postedB := rfl
@[simp] theorem modMe_fuses (s : State) (f : Thread → Thread) : (s.modMe f).fuses = s.fuses := rfl
@[simp] theorem modMe_fwDigest (s : State) (f : Thread → Thread) : (s.modMe f).fwDigest = s.fwDigest := rfl
@[simp] theorem modMe_polled (s : State) (f : Thread → Thread) : (s.modMe f).polled = s.polled := rfl
@[simp] theorem modMe_migrants (s : State) (f : Thread → Thread) : (s.modMe f).migrants = s.migrants := rfl
@[simp] theorem modMe_forwards (s : State) (f : Thread → Thread) : (s.modMe f).forwards = s.forwards := rfl
@[simp] theorem modMe_fencePoint (s : State) (f : Thread → Thread) : (s.modMe f).fencePoint = s.fencePoint := rfl
@[simp] theorem modMe_heldClocks (s : State) (f : Thread → Thread) : (s.modMe f).heldClocks = s.heldClocks := rfl
@[simp] theorem modMe_hostOut (s : State) (f : Thread → Thread) : (s.modMe f).hostOut = s.hostOut := rfl
@[simp] theorem modMe_retraining (s : State) (f : Thread → Thread) : (s.modMe f).retraining = s.retraining := rfl
@[simp] theorem modMe_mbox (s : State) (f : Thread → Thread) : (s.modMe f).mbox = s.mbox := rfl
@[simp] theorem modMe_answer (s : State) (f : Thread → Thread) : (s.modMe f).answer = s.answer := rfl
@[simp] theorem modMe_freeCtr (s : State) (f : Thread → Thread) : (s.modMe f).freeCtr = s.freeCtr := rfl

/-! ### wx -/

@[simp] theorem wx_cur (s : State) (r : BitVec 5) (v : Word) : (s.wx r v).cur = s.cur := rfl
@[simp] theorem wx_agenda (s : State) (r : BitVec 5) (v : Word) : (s.wx r v).agenda = s.agenda := rfl
@[simp] theorem wx_core (s : State) (r : BitVec 5) (v : Word) : (s.wx r v).core = s.core := rfl
@[simp] theorem wx_sets (s : State) (r : BitVec 5) (v : Word) : (s.wx r v).sets = s.sets := rfl
@[simp] theorem wx_die (s : State) (r : BitVec 5) (v : Word) : (s.wx r v).die = s.die := rfl
@[simp] theorem wx_part (s : State) (r : BitVec 5) (v : Word) : (s.wx r v).part = s.part := rfl
@[simp] theorem wx_mem (s : State) (r : BitVec 5) (v : Word) : (s.wx r v).mem = s.mem := rfl
@[simp] theorem wx_poison (s : State) (r : BitVec 5) (v : Word) : (s.wx r v).poison = s.poison := rfl
@[simp] theorem wx_timebase (s : State) (r : BitVec 5) (v : Word) : (s.wx r v).timebase = s.timebase := rfl
@[simp] theorem wx_cycles (s : State) (r : BitVec 5) (v : Word) : (s.wx r v).cycles = s.cycles := rfl
@[simp] theorem wx_lcm (s : State) (r : BitVec 5) (v : Word) : (s.wx r v).lcm = s.lcm := rfl
@[simp] theorem wx_owner (s : State) (r : BitVec 5) (v : Word) : (s.wx r v).owner = s.owner := rfl
@[simp] theorem wx_offerAt (s : State) (r : BitVec 5) (v : Word) : (s.wx r v).offerAt = s.offerAt := rfl
@[simp] theorem wx_bootrec (s : State) (r : BitVec 5) (v : Word) : (s.wx r v).bootrec = s.bootrec := rfl
@[simp] theorem wx_bootEnt (s : State) (r : BitVec 5) (v : Word) : (s.wx r v).bootEnt = s.bootEnt := rfl
@[simp] theorem wx_boots (s : State) (r : BitVec 5) (v : Word) : (s.wx r v).boots = s.boots := rfl
@[simp] theorem wx_failedBoots (s : State) (r : BitVec 5) (v : Word) : (s.wx r v).failedBoots = s.failedBoots := rfl
@[simp] theorem wx_recovery (s : State) (r : BitVec 5) (v : Word) : (s.wx r v).recovery = s.recovery := rfl
@[simp] theorem wx_envelope (s : State) (r : BitVec 5) (v : Word) : (s.wx r v).envelope = s.envelope := rfl
@[simp] theorem wx_cpbrk (s : State) (r : BitVec 5) (v : Word) : (s.wx r v).cpbrk = s.cpbrk := rfl
@[simp] theorem wx_domain (s : State) (r : BitVec 5) (v : Word) : (s.wx r v).domain = s.domain := rfl
@[simp] theorem wx_ltp (s : State) (r : BitVec 5) (v : Word) : (s.wx r v).ltp = s.ltp := rfl
@[simp] theorem wx_tbslew (s : State) (r : BitVec 5) (v : Word) : (s.wx r v).tbslew = s.tbslew := rfl
@[simp] theorem wx_tbfrac (s : State) (r : BitVec 5) (v : Word) : (s.wx r v).tbfrac = s.tbfrac := rfl
@[simp] theorem wx_keys (s : State) (r : BitVec 5) (v : Word) : (s.wx r v).keys = s.keys := rfl
@[simp] theorem wx_frameTgt (s : State) (r : BitVec 5) (v : Word) : (s.wx r v).frameTgt = s.frameTgt := rfl
@[simp] theorem wx_frames (s : State) (r : BitVec 5) (v : Word) : (s.wx r v).frames = s.frames := rfl
@[simp] theorem wx_msix (s : State) (r : BitVec 5) (v : Word) : (s.wx r v).msix = s.msix := rfl
@[simp] theorem wx_mesh (s : State) (r : BitVec 5) (v : Word) : (s.wx r v).mesh = s.mesh := rfl
@[simp] theorem wx_carried (s : State) (r : BitVec 5) (v : Word) : (s.wx r v).carried = s.carried := rfl
@[simp] theorem wx_cycfrac (s : State) (r : BitVec 5) (v : Word) : (s.wx r v).cycfrac = s.cycfrac := rfl
@[simp] theorem wx_postedA (s : State) (r : BitVec 5) (v : Word) : (s.wx r v).postedA = s.postedA := rfl
@[simp] theorem wx_postedB (s : State) (r : BitVec 5) (v : Word) : (s.wx r v).postedB = s.postedB := rfl
@[simp] theorem wx_fuses (s : State) (r : BitVec 5) (v : Word) : (s.wx r v).fuses = s.fuses := rfl
@[simp] theorem wx_fwDigest (s : State) (r : BitVec 5) (v : Word) : (s.wx r v).fwDigest = s.fwDigest := rfl
@[simp] theorem wx_polled (s : State) (r : BitVec 5) (v : Word) : (s.wx r v).polled = s.polled := rfl
@[simp] theorem wx_migrants (s : State) (r : BitVec 5) (v : Word) : (s.wx r v).migrants = s.migrants := rfl
@[simp] theorem wx_forwards (s : State) (r : BitVec 5) (v : Word) : (s.wx r v).forwards = s.forwards := rfl
@[simp] theorem wx_fencePoint (s : State) (r : BitVec 5) (v : Word) : (s.wx r v).fencePoint = s.fencePoint := rfl
@[simp] theorem wx_heldClocks (s : State) (r : BitVec 5) (v : Word) : (s.wx r v).heldClocks = s.heldClocks := rfl
@[simp] theorem wx_hostOut (s : State) (r : BitVec 5) (v : Word) : (s.wx r v).hostOut = s.hostOut := rfl
@[simp] theorem wx_retraining (s : State) (r : BitVec 5) (v : Word) : (s.wx r v).retraining = s.retraining := rfl
@[simp] theorem wx_mbox (s : State) (r : BitVec 5) (v : Word) : (s.wx r v).mbox = s.mbox := rfl
@[simp] theorem wx_answer (s : State) (r : BitVec 5) (v : Word) : (s.wx r v).answer = s.answer := rfl
@[simp] theorem wx_freeCtr (s : State) (r : BitVec 5) (v : Word) : (s.wx r v).freeCtr = s.freeCtr := rfl

/-! ### adv -/

@[simp] theorem adv_cur (s : State) (n : Nat) : (s.adv n).cur = s.cur := rfl
@[simp] theorem adv_agenda (s : State) (n : Nat) : (s.adv n).agenda = s.agenda := rfl
@[simp] theorem adv_core (s : State) (n : Nat) : (s.adv n).core = s.core := rfl
@[simp] theorem adv_sets (s : State) (n : Nat) : (s.adv n).sets = s.sets := rfl
@[simp] theorem adv_die (s : State) (n : Nat) : (s.adv n).die = s.die := rfl
@[simp] theorem adv_part (s : State) (n : Nat) : (s.adv n).part = s.part := rfl
@[simp] theorem adv_mem (s : State) (n : Nat) : (s.adv n).mem = s.mem := rfl
@[simp] theorem adv_poison (s : State) (n : Nat) : (s.adv n).poison = s.poison := rfl
@[simp] theorem adv_timebase (s : State) (n : Nat) : (s.adv n).timebase = s.timebase := rfl
@[simp] theorem adv_cycles (s : State) (n : Nat) : (s.adv n).cycles = s.cycles := rfl
@[simp] theorem adv_lcm (s : State) (n : Nat) : (s.adv n).lcm = s.lcm := rfl
@[simp] theorem adv_owner (s : State) (n : Nat) : (s.adv n).owner = s.owner := rfl
@[simp] theorem adv_offerAt (s : State) (n : Nat) : (s.adv n).offerAt = s.offerAt := rfl
@[simp] theorem adv_bootrec (s : State) (n : Nat) : (s.adv n).bootrec = s.bootrec := rfl
@[simp] theorem adv_bootEnt (s : State) (n : Nat) : (s.adv n).bootEnt = s.bootEnt := rfl
@[simp] theorem adv_boots (s : State) (n : Nat) : (s.adv n).boots = s.boots := rfl
@[simp] theorem adv_failedBoots (s : State) (n : Nat) : (s.adv n).failedBoots = s.failedBoots := rfl
@[simp] theorem adv_recovery (s : State) (n : Nat) : (s.adv n).recovery = s.recovery := rfl
@[simp] theorem adv_envelope (s : State) (n : Nat) : (s.adv n).envelope = s.envelope := rfl
@[simp] theorem adv_cpbrk (s : State) (n : Nat) : (s.adv n).cpbrk = s.cpbrk := rfl
@[simp] theorem adv_domain (s : State) (n : Nat) : (s.adv n).domain = s.domain := rfl
@[simp] theorem adv_ltp (s : State) (n : Nat) : (s.adv n).ltp = s.ltp := rfl
@[simp] theorem adv_tbslew (s : State) (n : Nat) : (s.adv n).tbslew = s.tbslew := rfl
@[simp] theorem adv_tbfrac (s : State) (n : Nat) : (s.adv n).tbfrac = s.tbfrac := rfl
@[simp] theorem adv_keys (s : State) (n : Nat) : (s.adv n).keys = s.keys := rfl
@[simp] theorem adv_frameTgt (s : State) (n : Nat) : (s.adv n).frameTgt = s.frameTgt := rfl
@[simp] theorem adv_frames (s : State) (n : Nat) : (s.adv n).frames = s.frames := rfl
@[simp] theorem adv_msix (s : State) (n : Nat) : (s.adv n).msix = s.msix := rfl
@[simp] theorem adv_mesh (s : State) (n : Nat) : (s.adv n).mesh = s.mesh := rfl
@[simp] theorem adv_carried (s : State) (n : Nat) : (s.adv n).carried = s.carried := rfl
@[simp] theorem adv_cycfrac (s : State) (n : Nat) : (s.adv n).cycfrac = s.cycfrac := rfl
@[simp] theorem adv_postedA (s : State) (n : Nat) : (s.adv n).postedA = s.postedA := rfl
@[simp] theorem adv_postedB (s : State) (n : Nat) : (s.adv n).postedB = s.postedB := rfl
@[simp] theorem adv_fuses (s : State) (n : Nat) : (s.adv n).fuses = s.fuses := rfl
@[simp] theorem adv_fwDigest (s : State) (n : Nat) : (s.adv n).fwDigest = s.fwDigest := rfl
@[simp] theorem adv_polled (s : State) (n : Nat) : (s.adv n).polled = s.polled := rfl
@[simp] theorem adv_migrants (s : State) (n : Nat) : (s.adv n).migrants = s.migrants := rfl
@[simp] theorem adv_forwards (s : State) (n : Nat) : (s.adv n).forwards = s.forwards := rfl
@[simp] theorem adv_fencePoint (s : State) (n : Nat) : (s.adv n).fencePoint = s.fencePoint := rfl
@[simp] theorem adv_heldClocks (s : State) (n : Nat) : (s.adv n).heldClocks = s.heldClocks := rfl
@[simp] theorem adv_hostOut (s : State) (n : Nat) : (s.adv n).hostOut = s.hostOut := rfl
@[simp] theorem adv_retraining (s : State) (n : Nat) : (s.adv n).retraining = s.retraining := rfl
@[simp] theorem adv_mbox (s : State) (n : Nat) : (s.adv n).mbox = s.mbox := rfl
@[simp] theorem adv_answer (s : State) (n : Nat) : (s.adv n).answer = s.answer := rfl
@[simp] theorem adv_freeCtr (s : State) (n : Nat) : (s.adv n).freeCtr = s.freeCtr := rfl

/-! ### jump -/

@[simp] theorem jump_cur (s : State) (v : Word) : (s.jump v).cur = s.cur := rfl
@[simp] theorem jump_agenda (s : State) (v : Word) : (s.jump v).agenda = s.agenda := rfl
@[simp] theorem jump_core (s : State) (v : Word) : (s.jump v).core = s.core := rfl
@[simp] theorem jump_sets (s : State) (v : Word) : (s.jump v).sets = s.sets := rfl
@[simp] theorem jump_die (s : State) (v : Word) : (s.jump v).die = s.die := rfl
@[simp] theorem jump_part (s : State) (v : Word) : (s.jump v).part = s.part := rfl
@[simp] theorem jump_mem (s : State) (v : Word) : (s.jump v).mem = s.mem := rfl
@[simp] theorem jump_poison (s : State) (v : Word) : (s.jump v).poison = s.poison := rfl
@[simp] theorem jump_timebase (s : State) (v : Word) : (s.jump v).timebase = s.timebase := rfl
@[simp] theorem jump_cycles (s : State) (v : Word) : (s.jump v).cycles = s.cycles := rfl
@[simp] theorem jump_lcm (s : State) (v : Word) : (s.jump v).lcm = s.lcm := rfl
@[simp] theorem jump_owner (s : State) (v : Word) : (s.jump v).owner = s.owner := rfl
@[simp] theorem jump_offerAt (s : State) (v : Word) : (s.jump v).offerAt = s.offerAt := rfl
@[simp] theorem jump_bootrec (s : State) (v : Word) : (s.jump v).bootrec = s.bootrec := rfl
@[simp] theorem jump_bootEnt (s : State) (v : Word) : (s.jump v).bootEnt = s.bootEnt := rfl
@[simp] theorem jump_boots (s : State) (v : Word) : (s.jump v).boots = s.boots := rfl
@[simp] theorem jump_failedBoots (s : State) (v : Word) : (s.jump v).failedBoots = s.failedBoots := rfl
@[simp] theorem jump_recovery (s : State) (v : Word) : (s.jump v).recovery = s.recovery := rfl
@[simp] theorem jump_envelope (s : State) (v : Word) : (s.jump v).envelope = s.envelope := rfl
@[simp] theorem jump_cpbrk (s : State) (v : Word) : (s.jump v).cpbrk = s.cpbrk := rfl
@[simp] theorem jump_domain (s : State) (v : Word) : (s.jump v).domain = s.domain := rfl
@[simp] theorem jump_ltp (s : State) (v : Word) : (s.jump v).ltp = s.ltp := rfl
@[simp] theorem jump_tbslew (s : State) (v : Word) : (s.jump v).tbslew = s.tbslew := rfl
@[simp] theorem jump_tbfrac (s : State) (v : Word) : (s.jump v).tbfrac = s.tbfrac := rfl
@[simp] theorem jump_keys (s : State) (v : Word) : (s.jump v).keys = s.keys := rfl
@[simp] theorem jump_frameTgt (s : State) (v : Word) : (s.jump v).frameTgt = s.frameTgt := rfl
@[simp] theorem jump_frames (s : State) (v : Word) : (s.jump v).frames = s.frames := rfl
@[simp] theorem jump_msix (s : State) (v : Word) : (s.jump v).msix = s.msix := rfl
@[simp] theorem jump_mesh (s : State) (v : Word) : (s.jump v).mesh = s.mesh := rfl
@[simp] theorem jump_carried (s : State) (v : Word) : (s.jump v).carried = s.carried := rfl
@[simp] theorem jump_cycfrac (s : State) (v : Word) : (s.jump v).cycfrac = s.cycfrac := rfl
@[simp] theorem jump_postedA (s : State) (v : Word) : (s.jump v).postedA = s.postedA := rfl
@[simp] theorem jump_postedB (s : State) (v : Word) : (s.jump v).postedB = s.postedB := rfl
@[simp] theorem jump_fuses (s : State) (v : Word) : (s.jump v).fuses = s.fuses := rfl
@[simp] theorem jump_fwDigest (s : State) (v : Word) : (s.jump v).fwDigest = s.fwDigest := rfl
@[simp] theorem jump_polled (s : State) (v : Word) : (s.jump v).polled = s.polled := rfl
@[simp] theorem jump_migrants (s : State) (v : Word) : (s.jump v).migrants = s.migrants := rfl
@[simp] theorem jump_forwards (s : State) (v : Word) : (s.jump v).forwards = s.forwards := rfl
@[simp] theorem jump_fencePoint (s : State) (v : Word) : (s.jump v).fencePoint = s.fencePoint := rfl
@[simp] theorem jump_heldClocks (s : State) (v : Word) : (s.jump v).heldClocks = s.heldClocks := rfl
@[simp] theorem jump_hostOut (s : State) (v : Word) : (s.jump v).hostOut = s.hostOut := rfl
@[simp] theorem jump_retraining (s : State) (v : Word) : (s.jump v).retraining = s.retraining := rfl
@[simp] theorem jump_mbox (s : State) (v : Word) : (s.jump v).mbox = s.mbox := rfl
@[simp] theorem jump_answer (s : State) (v : Word) : (s.jump v).answer = s.answer := rfl
@[simp] theorem jump_freeCtr (s : State) (v : Word) : (s.jump v).freeCtr = s.freeCtr := rfl

/-! ### modCore -/

@[simp] theorem modCore_cur (s : State) (c : Nat) (f : Core → Core) : (s.modCore c f).cur = s.cur := rfl
@[simp] theorem modCore_agenda (s : State) (c : Nat) (f : Core → Core) : (s.modCore c f).agenda = s.agenda := rfl
@[simp] theorem modCore_thr (s : State) (c : Nat) (f : Core → Core) : (s.modCore c f).thr = s.thr := rfl
@[simp] theorem modCore_sets (s : State) (c : Nat) (f : Core → Core) : (s.modCore c f).sets = s.sets := rfl
@[simp] theorem modCore_die (s : State) (c : Nat) (f : Core → Core) : (s.modCore c f).die = s.die := rfl
@[simp] theorem modCore_part (s : State) (c : Nat) (f : Core → Core) : (s.modCore c f).part = s.part := rfl
@[simp] theorem modCore_mem (s : State) (c : Nat) (f : Core → Core) : (s.modCore c f).mem = s.mem := rfl
@[simp] theorem modCore_poison (s : State) (c : Nat) (f : Core → Core) : (s.modCore c f).poison = s.poison := rfl
@[simp] theorem modCore_timebase (s : State) (c : Nat) (f : Core → Core) : (s.modCore c f).timebase = s.timebase := rfl
@[simp] theorem modCore_cycles (s : State) (c : Nat) (f : Core → Core) : (s.modCore c f).cycles = s.cycles := rfl
@[simp] theorem modCore_lcm (s : State) (c : Nat) (f : Core → Core) : (s.modCore c f).lcm = s.lcm := rfl
@[simp] theorem modCore_owner (s : State) (c : Nat) (f : Core → Core) : (s.modCore c f).owner = s.owner := rfl
@[simp] theorem modCore_offerAt (s : State) (c : Nat) (f : Core → Core) : (s.modCore c f).offerAt = s.offerAt := rfl
@[simp] theorem modCore_bootrec (s : State) (c : Nat) (f : Core → Core) : (s.modCore c f).bootrec = s.bootrec := rfl
@[simp] theorem modCore_bootEnt (s : State) (c : Nat) (f : Core → Core) : (s.modCore c f).bootEnt = s.bootEnt := rfl
@[simp] theorem modCore_boots (s : State) (c : Nat) (f : Core → Core) : (s.modCore c f).boots = s.boots := rfl
@[simp] theorem modCore_failedBoots (s : State) (c : Nat) (f : Core → Core) : (s.modCore c f).failedBoots = s.failedBoots := rfl
@[simp] theorem modCore_recovery (s : State) (c : Nat) (f : Core → Core) : (s.modCore c f).recovery = s.recovery := rfl
@[simp] theorem modCore_envelope (s : State) (c : Nat) (f : Core → Core) : (s.modCore c f).envelope = s.envelope := rfl
@[simp] theorem modCore_cpbrk (s : State) (c : Nat) (f : Core → Core) : (s.modCore c f).cpbrk = s.cpbrk := rfl
@[simp] theorem modCore_domain (s : State) (c : Nat) (f : Core → Core) : (s.modCore c f).domain = s.domain := rfl
@[simp] theorem modCore_ltp (s : State) (c : Nat) (f : Core → Core) : (s.modCore c f).ltp = s.ltp := rfl
@[simp] theorem modCore_tbslew (s : State) (c : Nat) (f : Core → Core) : (s.modCore c f).tbslew = s.tbslew := rfl
@[simp] theorem modCore_tbfrac (s : State) (c : Nat) (f : Core → Core) : (s.modCore c f).tbfrac = s.tbfrac := rfl
@[simp] theorem modCore_keys (s : State) (c : Nat) (f : Core → Core) : (s.modCore c f).keys = s.keys := rfl
@[simp] theorem modCore_frameTgt (s : State) (c : Nat) (f : Core → Core) : (s.modCore c f).frameTgt = s.frameTgt := rfl
@[simp] theorem modCore_frames (s : State) (c : Nat) (f : Core → Core) : (s.modCore c f).frames = s.frames := rfl
@[simp] theorem modCore_msix (s : State) (c : Nat) (f : Core → Core) : (s.modCore c f).msix = s.msix := rfl
@[simp] theorem modCore_mesh (s : State) (c : Nat) (f : Core → Core) : (s.modCore c f).mesh = s.mesh := rfl
@[simp] theorem modCore_carried (s : State) (c : Nat) (f : Core → Core) : (s.modCore c f).carried = s.carried := rfl
@[simp] theorem modCore_cycfrac (s : State) (c : Nat) (f : Core → Core) : (s.modCore c f).cycfrac = s.cycfrac := rfl
@[simp] theorem modCore_postedA (s : State) (c : Nat) (f : Core → Core) : (s.modCore c f).postedA = s.postedA := rfl
@[simp] theorem modCore_postedB (s : State) (c : Nat) (f : Core → Core) : (s.modCore c f).postedB = s.postedB := rfl
@[simp] theorem modCore_fuses (s : State) (c : Nat) (f : Core → Core) : (s.modCore c f).fuses = s.fuses := rfl
@[simp] theorem modCore_fwDigest (s : State) (c : Nat) (f : Core → Core) : (s.modCore c f).fwDigest = s.fwDigest := rfl
@[simp] theorem modCore_polled (s : State) (c : Nat) (f : Core → Core) : (s.modCore c f).polled = s.polled := rfl
@[simp] theorem modCore_migrants (s : State) (c : Nat) (f : Core → Core) : (s.modCore c f).migrants = s.migrants := rfl
@[simp] theorem modCore_forwards (s : State) (c : Nat) (f : Core → Core) : (s.modCore c f).forwards = s.forwards := rfl
@[simp] theorem modCore_fencePoint (s : State) (c : Nat) (f : Core → Core) : (s.modCore c f).fencePoint = s.fencePoint := rfl
@[simp] theorem modCore_heldClocks (s : State) (c : Nat) (f : Core → Core) : (s.modCore c f).heldClocks = s.heldClocks := rfl
@[simp] theorem modCore_hostOut (s : State) (c : Nat) (f : Core → Core) : (s.modCore c f).hostOut = s.hostOut := rfl
@[simp] theorem modCore_retraining (s : State) (c : Nat) (f : Core → Core) : (s.modCore c f).retraining = s.retraining := rfl
@[simp] theorem modCore_mbox (s : State) (c : Nat) (f : Core → Core) : (s.modCore c f).mbox = s.mbox := rfl
@[simp] theorem modCore_answer (s : State) (c : Nat) (f : Core → Core) : (s.modCore c f).answer = s.answer := rfl
@[simp] theorem modCore_freeCtr (s : State) (c : Nat) (f : Core → Core) : (s.modCore c f).freeCtr = s.freeCtr := rfl

/-! ### modSet -/

@[simp] theorem modSet_cur (s : State) (n : Nat) (f : SetSt → SetSt) : (s.modSet n f).cur = s.cur := rfl
@[simp] theorem modSet_agenda (s : State) (n : Nat) (f : SetSt → SetSt) : (s.modSet n f).agenda = s.agenda := rfl
@[simp] theorem modSet_thr (s : State) (n : Nat) (f : SetSt → SetSt) : (s.modSet n f).thr = s.thr := rfl
@[simp] theorem modSet_core (s : State) (n : Nat) (f : SetSt → SetSt) : (s.modSet n f).core = s.core := rfl
@[simp] theorem modSet_die (s : State) (n : Nat) (f : SetSt → SetSt) : (s.modSet n f).die = s.die := rfl
@[simp] theorem modSet_part (s : State) (n : Nat) (f : SetSt → SetSt) : (s.modSet n f).part = s.part := rfl
@[simp] theorem modSet_mem (s : State) (n : Nat) (f : SetSt → SetSt) : (s.modSet n f).mem = s.mem := rfl
@[simp] theorem modSet_poison (s : State) (n : Nat) (f : SetSt → SetSt) : (s.modSet n f).poison = s.poison := rfl
@[simp] theorem modSet_timebase (s : State) (n : Nat) (f : SetSt → SetSt) : (s.modSet n f).timebase = s.timebase := rfl
@[simp] theorem modSet_cycles (s : State) (n : Nat) (f : SetSt → SetSt) : (s.modSet n f).cycles = s.cycles := rfl
@[simp] theorem modSet_lcm (s : State) (n : Nat) (f : SetSt → SetSt) : (s.modSet n f).lcm = s.lcm := rfl
@[simp] theorem modSet_owner (s : State) (n : Nat) (f : SetSt → SetSt) : (s.modSet n f).owner = s.owner := rfl
@[simp] theorem modSet_offerAt (s : State) (n : Nat) (f : SetSt → SetSt) : (s.modSet n f).offerAt = s.offerAt := rfl
@[simp] theorem modSet_bootrec (s : State) (n : Nat) (f : SetSt → SetSt) : (s.modSet n f).bootrec = s.bootrec := rfl
@[simp] theorem modSet_bootEnt (s : State) (n : Nat) (f : SetSt → SetSt) : (s.modSet n f).bootEnt = s.bootEnt := rfl
@[simp] theorem modSet_boots (s : State) (n : Nat) (f : SetSt → SetSt) : (s.modSet n f).boots = s.boots := rfl
@[simp] theorem modSet_failedBoots (s : State) (n : Nat) (f : SetSt → SetSt) : (s.modSet n f).failedBoots = s.failedBoots := rfl
@[simp] theorem modSet_recovery (s : State) (n : Nat) (f : SetSt → SetSt) : (s.modSet n f).recovery = s.recovery := rfl
@[simp] theorem modSet_envelope (s : State) (n : Nat) (f : SetSt → SetSt) : (s.modSet n f).envelope = s.envelope := rfl
@[simp] theorem modSet_cpbrk (s : State) (n : Nat) (f : SetSt → SetSt) : (s.modSet n f).cpbrk = s.cpbrk := rfl
@[simp] theorem modSet_domain (s : State) (n : Nat) (f : SetSt → SetSt) : (s.modSet n f).domain = s.domain := rfl
@[simp] theorem modSet_ltp (s : State) (n : Nat) (f : SetSt → SetSt) : (s.modSet n f).ltp = s.ltp := rfl
@[simp] theorem modSet_tbslew (s : State) (n : Nat) (f : SetSt → SetSt) : (s.modSet n f).tbslew = s.tbslew := rfl
@[simp] theorem modSet_tbfrac (s : State) (n : Nat) (f : SetSt → SetSt) : (s.modSet n f).tbfrac = s.tbfrac := rfl
@[simp] theorem modSet_keys (s : State) (n : Nat) (f : SetSt → SetSt) : (s.modSet n f).keys = s.keys := rfl
@[simp] theorem modSet_frameTgt (s : State) (n : Nat) (f : SetSt → SetSt) : (s.modSet n f).frameTgt = s.frameTgt := rfl
@[simp] theorem modSet_frames (s : State) (n : Nat) (f : SetSt → SetSt) : (s.modSet n f).frames = s.frames := rfl
@[simp] theorem modSet_msix (s : State) (n : Nat) (f : SetSt → SetSt) : (s.modSet n f).msix = s.msix := rfl
@[simp] theorem modSet_mesh (s : State) (n : Nat) (f : SetSt → SetSt) : (s.modSet n f).mesh = s.mesh := rfl
@[simp] theorem modSet_carried (s : State) (n : Nat) (f : SetSt → SetSt) : (s.modSet n f).carried = s.carried := rfl
@[simp] theorem modSet_cycfrac (s : State) (n : Nat) (f : SetSt → SetSt) : (s.modSet n f).cycfrac = s.cycfrac := rfl
@[simp] theorem modSet_postedA (s : State) (n : Nat) (f : SetSt → SetSt) : (s.modSet n f).postedA = s.postedA := rfl
@[simp] theorem modSet_postedB (s : State) (n : Nat) (f : SetSt → SetSt) : (s.modSet n f).postedB = s.postedB := rfl
@[simp] theorem modSet_fuses (s : State) (n : Nat) (f : SetSt → SetSt) : (s.modSet n f).fuses = s.fuses := rfl
@[simp] theorem modSet_fwDigest (s : State) (n : Nat) (f : SetSt → SetSt) : (s.modSet n f).fwDigest = s.fwDigest := rfl
@[simp] theorem modSet_polled (s : State) (n : Nat) (f : SetSt → SetSt) : (s.modSet n f).polled = s.polled := rfl
@[simp] theorem modSet_migrants (s : State) (n : Nat) (f : SetSt → SetSt) : (s.modSet n f).migrants = s.migrants := rfl
@[simp] theorem modSet_forwards (s : State) (n : Nat) (f : SetSt → SetSt) : (s.modSet n f).forwards = s.forwards := rfl
@[simp] theorem modSet_fencePoint (s : State) (n : Nat) (f : SetSt → SetSt) : (s.modSet n f).fencePoint = s.fencePoint := rfl
@[simp] theorem modSet_heldClocks (s : State) (n : Nat) (f : SetSt → SetSt) : (s.modSet n f).heldClocks = s.heldClocks := rfl
@[simp] theorem modSet_hostOut (s : State) (n : Nat) (f : SetSt → SetSt) : (s.modSet n f).hostOut = s.hostOut := rfl
@[simp] theorem modSet_retraining (s : State) (n : Nat) (f : SetSt → SetSt) : (s.modSet n f).retraining = s.retraining := rfl
@[simp] theorem modSet_mbox (s : State) (n : Nat) (f : SetSt → SetSt) : (s.modSet n f).mbox = s.mbox := rfl
@[simp] theorem modSet_answer (s : State) (n : Nat) (f : SetSt → SetSt) : (s.modSet n f).answer = s.answer := rfl
@[simp] theorem modSet_freeCtr (s : State) (n : Nat) (f : SetSt → SetSt) : (s.modSet n f).freeCtr = s.freeCtr := rfl

/-! ### modDie -/

@[simp] theorem modDie_cur (s : State) (d : Nat) (f : Die → Die) : (s.modDie d f).cur = s.cur := rfl
@[simp] theorem modDie_agenda (s : State) (d : Nat) (f : Die → Die) : (s.modDie d f).agenda = s.agenda := rfl
@[simp] theorem modDie_thr (s : State) (d : Nat) (f : Die → Die) : (s.modDie d f).thr = s.thr := rfl
@[simp] theorem modDie_core (s : State) (d : Nat) (f : Die → Die) : (s.modDie d f).core = s.core := rfl
@[simp] theorem modDie_sets (s : State) (d : Nat) (f : Die → Die) : (s.modDie d f).sets = s.sets := rfl
@[simp] theorem modDie_part (s : State) (d : Nat) (f : Die → Die) : (s.modDie d f).part = s.part := rfl
@[simp] theorem modDie_mem (s : State) (d : Nat) (f : Die → Die) : (s.modDie d f).mem = s.mem := rfl
@[simp] theorem modDie_poison (s : State) (d : Nat) (f : Die → Die) : (s.modDie d f).poison = s.poison := rfl
@[simp] theorem modDie_timebase (s : State) (d : Nat) (f : Die → Die) : (s.modDie d f).timebase = s.timebase := rfl
@[simp] theorem modDie_cycles (s : State) (d : Nat) (f : Die → Die) : (s.modDie d f).cycles = s.cycles := rfl
@[simp] theorem modDie_lcm (s : State) (d : Nat) (f : Die → Die) : (s.modDie d f).lcm = s.lcm := rfl
@[simp] theorem modDie_owner (s : State) (d : Nat) (f : Die → Die) : (s.modDie d f).owner = s.owner := rfl
@[simp] theorem modDie_offerAt (s : State) (d : Nat) (f : Die → Die) : (s.modDie d f).offerAt = s.offerAt := rfl
@[simp] theorem modDie_bootrec (s : State) (d : Nat) (f : Die → Die) : (s.modDie d f).bootrec = s.bootrec := rfl
@[simp] theorem modDie_bootEnt (s : State) (d : Nat) (f : Die → Die) : (s.modDie d f).bootEnt = s.bootEnt := rfl
@[simp] theorem modDie_boots (s : State) (d : Nat) (f : Die → Die) : (s.modDie d f).boots = s.boots := rfl
@[simp] theorem modDie_failedBoots (s : State) (d : Nat) (f : Die → Die) : (s.modDie d f).failedBoots = s.failedBoots := rfl
@[simp] theorem modDie_recovery (s : State) (d : Nat) (f : Die → Die) : (s.modDie d f).recovery = s.recovery := rfl
@[simp] theorem modDie_envelope (s : State) (d : Nat) (f : Die → Die) : (s.modDie d f).envelope = s.envelope := rfl
@[simp] theorem modDie_cpbrk (s : State) (d : Nat) (f : Die → Die) : (s.modDie d f).cpbrk = s.cpbrk := rfl
@[simp] theorem modDie_domain (s : State) (d : Nat) (f : Die → Die) : (s.modDie d f).domain = s.domain := rfl
@[simp] theorem modDie_ltp (s : State) (d : Nat) (f : Die → Die) : (s.modDie d f).ltp = s.ltp := rfl
@[simp] theorem modDie_tbslew (s : State) (d : Nat) (f : Die → Die) : (s.modDie d f).tbslew = s.tbslew := rfl
@[simp] theorem modDie_tbfrac (s : State) (d : Nat) (f : Die → Die) : (s.modDie d f).tbfrac = s.tbfrac := rfl
@[simp] theorem modDie_keys (s : State) (d : Nat) (f : Die → Die) : (s.modDie d f).keys = s.keys := rfl
@[simp] theorem modDie_frameTgt (s : State) (d : Nat) (f : Die → Die) : (s.modDie d f).frameTgt = s.frameTgt := rfl
@[simp] theorem modDie_frames (s : State) (d : Nat) (f : Die → Die) : (s.modDie d f).frames = s.frames := rfl
@[simp] theorem modDie_msix (s : State) (d : Nat) (f : Die → Die) : (s.modDie d f).msix = s.msix := rfl
@[simp] theorem modDie_mesh (s : State) (d : Nat) (f : Die → Die) : (s.modDie d f).mesh = s.mesh := rfl
@[simp] theorem modDie_carried (s : State) (d : Nat) (f : Die → Die) : (s.modDie d f).carried = s.carried := rfl
@[simp] theorem modDie_cycfrac (s : State) (d : Nat) (f : Die → Die) : (s.modDie d f).cycfrac = s.cycfrac := rfl
@[simp] theorem modDie_postedA (s : State) (d : Nat) (f : Die → Die) : (s.modDie d f).postedA = s.postedA := rfl
@[simp] theorem modDie_postedB (s : State) (d : Nat) (f : Die → Die) : (s.modDie d f).postedB = s.postedB := rfl
@[simp] theorem modDie_fuses (s : State) (d : Nat) (f : Die → Die) : (s.modDie d f).fuses = s.fuses := rfl
@[simp] theorem modDie_fwDigest (s : State) (d : Nat) (f : Die → Die) : (s.modDie d f).fwDigest = s.fwDigest := rfl
@[simp] theorem modDie_polled (s : State) (d : Nat) (f : Die → Die) : (s.modDie d f).polled = s.polled := rfl
@[simp] theorem modDie_migrants (s : State) (d : Nat) (f : Die → Die) : (s.modDie d f).migrants = s.migrants := rfl
@[simp] theorem modDie_forwards (s : State) (d : Nat) (f : Die → Die) : (s.modDie d f).forwards = s.forwards := rfl
@[simp] theorem modDie_fencePoint (s : State) (d : Nat) (f : Die → Die) : (s.modDie d f).fencePoint = s.fencePoint := rfl
@[simp] theorem modDie_heldClocks (s : State) (d : Nat) (f : Die → Die) : (s.modDie d f).heldClocks = s.heldClocks := rfl
@[simp] theorem modDie_hostOut (s : State) (d : Nat) (f : Die → Die) : (s.modDie d f).hostOut = s.hostOut := rfl
@[simp] theorem modDie_retraining (s : State) (d : Nat) (f : Die → Die) : (s.modDie d f).retraining = s.retraining := rfl
@[simp] theorem modDie_mbox (s : State) (d : Nat) (f : Die → Die) : (s.modDie d f).mbox = s.mbox := rfl
@[simp] theorem modDie_answer (s : State) (d : Nat) (f : Die → Die) : (s.modDie d f).answer = s.answer := rfl
@[simp] theorem modDie_freeCtr (s : State) (d : Nat) (f : Die → Die) : (s.modDie d f).freeCtr = s.freeCtr := rfl

/-! ### modPart -/

@[simp] theorem modPart_cur (s : State) (p : Nat) (f : Part → Part) : (s.modPart p f).cur = s.cur := rfl
@[simp] theorem modPart_agenda (s : State) (p : Nat) (f : Part → Part) : (s.modPart p f).agenda = s.agenda := rfl
@[simp] theorem modPart_thr (s : State) (p : Nat) (f : Part → Part) : (s.modPart p f).thr = s.thr := rfl
@[simp] theorem modPart_core (s : State) (p : Nat) (f : Part → Part) : (s.modPart p f).core = s.core := rfl
@[simp] theorem modPart_sets (s : State) (p : Nat) (f : Part → Part) : (s.modPart p f).sets = s.sets := rfl
@[simp] theorem modPart_die (s : State) (p : Nat) (f : Part → Part) : (s.modPart p f).die = s.die := rfl
@[simp] theorem modPart_mem (s : State) (p : Nat) (f : Part → Part) : (s.modPart p f).mem = s.mem := rfl
@[simp] theorem modPart_poison (s : State) (p : Nat) (f : Part → Part) : (s.modPart p f).poison = s.poison := rfl
@[simp] theorem modPart_timebase (s : State) (p : Nat) (f : Part → Part) : (s.modPart p f).timebase = s.timebase := rfl
@[simp] theorem modPart_cycles (s : State) (p : Nat) (f : Part → Part) : (s.modPart p f).cycles = s.cycles := rfl
@[simp] theorem modPart_lcm (s : State) (p : Nat) (f : Part → Part) : (s.modPart p f).lcm = s.lcm := rfl
@[simp] theorem modPart_owner (s : State) (p : Nat) (f : Part → Part) : (s.modPart p f).owner = s.owner := rfl
@[simp] theorem modPart_offerAt (s : State) (p : Nat) (f : Part → Part) : (s.modPart p f).offerAt = s.offerAt := rfl
@[simp] theorem modPart_bootrec (s : State) (p : Nat) (f : Part → Part) : (s.modPart p f).bootrec = s.bootrec := rfl
@[simp] theorem modPart_bootEnt (s : State) (p : Nat) (f : Part → Part) : (s.modPart p f).bootEnt = s.bootEnt := rfl
@[simp] theorem modPart_boots (s : State) (p : Nat) (f : Part → Part) : (s.modPart p f).boots = s.boots := rfl
@[simp] theorem modPart_failedBoots (s : State) (p : Nat) (f : Part → Part) : (s.modPart p f).failedBoots = s.failedBoots := rfl
@[simp] theorem modPart_recovery (s : State) (p : Nat) (f : Part → Part) : (s.modPart p f).recovery = s.recovery := rfl
@[simp] theorem modPart_envelope (s : State) (p : Nat) (f : Part → Part) : (s.modPart p f).envelope = s.envelope := rfl
@[simp] theorem modPart_cpbrk (s : State) (p : Nat) (f : Part → Part) : (s.modPart p f).cpbrk = s.cpbrk := rfl
@[simp] theorem modPart_domain (s : State) (p : Nat) (f : Part → Part) : (s.modPart p f).domain = s.domain := rfl
@[simp] theorem modPart_ltp (s : State) (p : Nat) (f : Part → Part) : (s.modPart p f).ltp = s.ltp := rfl
@[simp] theorem modPart_tbslew (s : State) (p : Nat) (f : Part → Part) : (s.modPart p f).tbslew = s.tbslew := rfl
@[simp] theorem modPart_tbfrac (s : State) (p : Nat) (f : Part → Part) : (s.modPart p f).tbfrac = s.tbfrac := rfl
@[simp] theorem modPart_keys (s : State) (p : Nat) (f : Part → Part) : (s.modPart p f).keys = s.keys := rfl
@[simp] theorem modPart_frameTgt (s : State) (p : Nat) (f : Part → Part) : (s.modPart p f).frameTgt = s.frameTgt := rfl
@[simp] theorem modPart_frames (s : State) (p : Nat) (f : Part → Part) : (s.modPart p f).frames = s.frames := rfl
@[simp] theorem modPart_msix (s : State) (p : Nat) (f : Part → Part) : (s.modPart p f).msix = s.msix := rfl
@[simp] theorem modPart_mesh (s : State) (p : Nat) (f : Part → Part) : (s.modPart p f).mesh = s.mesh := rfl
@[simp] theorem modPart_carried (s : State) (p : Nat) (f : Part → Part) : (s.modPart p f).carried = s.carried := rfl
@[simp] theorem modPart_cycfrac (s : State) (p : Nat) (f : Part → Part) : (s.modPart p f).cycfrac = s.cycfrac := rfl
@[simp] theorem modPart_postedA (s : State) (p : Nat) (f : Part → Part) : (s.modPart p f).postedA = s.postedA := rfl
@[simp] theorem modPart_postedB (s : State) (p : Nat) (f : Part → Part) : (s.modPart p f).postedB = s.postedB := rfl
@[simp] theorem modPart_fuses (s : State) (p : Nat) (f : Part → Part) : (s.modPart p f).fuses = s.fuses := rfl
@[simp] theorem modPart_fwDigest (s : State) (p : Nat) (f : Part → Part) : (s.modPart p f).fwDigest = s.fwDigest := rfl
@[simp] theorem modPart_polled (s : State) (p : Nat) (f : Part → Part) : (s.modPart p f).polled = s.polled := rfl
@[simp] theorem modPart_migrants (s : State) (p : Nat) (f : Part → Part) : (s.modPart p f).migrants = s.migrants := rfl
@[simp] theorem modPart_forwards (s : State) (p : Nat) (f : Part → Part) : (s.modPart p f).forwards = s.forwards := rfl
@[simp] theorem modPart_fencePoint (s : State) (p : Nat) (f : Part → Part) : (s.modPart p f).fencePoint = s.fencePoint := rfl
@[simp] theorem modPart_heldClocks (s : State) (p : Nat) (f : Part → Part) : (s.modPart p f).heldClocks = s.heldClocks := rfl
@[simp] theorem modPart_hostOut (s : State) (p : Nat) (f : Part → Part) : (s.modPart p f).hostOut = s.hostOut := rfl
@[simp] theorem modPart_retraining (s : State) (p : Nat) (f : Part → Part) : (s.modPart p f).retraining = s.retraining := rfl
@[simp] theorem modPart_mbox (s : State) (p : Nat) (f : Part → Part) : (s.modPart p f).mbox = s.mbox := rfl
@[simp] theorem modPart_answer (s : State) (p : Nat) (f : Part → Part) : (s.modPart p f).answer = s.answer := rfl
@[simp] theorem modPart_freeCtr (s : State) (p : Nat) (f : Part → Part) : (s.modPart p f).freeCtr = s.freeCtr := rfl

end State

namespace Thread

/-! ### setX -/

@[simp] theorem setX_pc (t : Thread) (r : BitVec 5) (v : Word) : (t.setX r v).pc = t.pc := by unfold setX; split <;> rfl
@[simp] theorem setX_f (t : Thread) (r : BitVec 5) (v : Word) : (t.setX r v).f = t.f := by unfold setX; split <;> rfl
@[simp] theorem setX_v (t : Thread) (r : BitVec 5) (v : Word) : (t.setX r v).v = t.v := by unfold setX; split <;> rfl
@[simp] theorem setX_p (t : Thread) (r : BitVec 5) (v : Word) : (t.setX r v).p = t.p := by unfold setX; split <;> rfl
@[simp] theorem setX_ox (t : Thread) (r : BitVec 5) (v : Word) : (t.setX r v).ox = t.ox := by unfold setX; split <;> rfl
@[simp] theorem setX_ss (t : Thread) (r : BitVec 5) (v : Word) : (t.setX r v).ss = t.ss := by unfold setX; split <;> rfl
@[simp] theorem setX_fcsr (t : Thread) (r : BitVec 5) (v : Word) : (t.setX r v).fcsr = t.fcsr := by unfold setX; split <;> rfl
@[simp] theorem setX_vcsr (t : Thread) (r : BitVec 5) (v : Word) : (t.setX r v).vcsr = t.vcsr := by unfold setX; split <;> rfl
@[simp] theorem setX_tcause (t : Thread) (r : BitVec 5) (v : Word) : (t.setX r v).tcause = t.tcause := by unfold setX; split <;> rfl
@[simp] theorem setX_tval (t : Thread) (r : BitVec 5) (v : Word) : (t.setX r v).tval = t.tval := by unfold setX; split <;> rfl
@[simp] theorem setX_epc (t : Thread) (r : BitVec 5) (v : Word) : (t.setX r v).epc = t.epc := by unfold setX; split <;> rfl
@[simp] theorem setX_utvec (t : Thread) (r : BitVec 5) (v : Word) : (t.setX r v).utvec = t.utvec := by unfold setX; split <;> rfl
@[simp] theorem setX_utepc (t : Thread) (r : BitVec 5) (v : Word) : (t.setX r v).utepc = t.utepc := by unfold setX; split <;> rfl
@[simp] theorem setX_actid (t : Thread) (r : BitVec 5) (v : Word) : (t.setX r v).actid = t.actid := by unfold setX; split <;> rfl
@[simp] theorem setX_actst (t : Thread) (r : BitVec 5) (v : Word) : (t.setX r v).actst = t.actst := by unfold setX; split <;> rfl
@[simp] theorem setX_msghdr (t : Thread) (r : BitVec 5) (v : Word) : (t.setX r v).msghdr = t.msghdr := by unfold setX; split <;> rfl
@[simp] theorem setX_loopStart (t : Thread) (r : BitVec 5) (v : Word) : (t.setX r v).loopStart = t.loopStart := by unfold setX; split <;> rfl
@[simp] theorem setX_loopLast (t : Thread) (r : BitVec 5) (v : Word) : (t.setX r v).loopLast = t.loopLast := by unfold setX; split <;> rfl
@[simp] theorem setX_loopReg (t : Thread) (r : BitVec 5) (v : Word) : (t.setX r v).loopReg = t.loopReg := by unfold setX; split <;> rfl
@[simp] theorem setX_loopActive (t : Thread) (r : BitVec 5) (v : Word) : (t.setX r v).loopActive = t.loopActive := by unfold setX; split <;> rfl
@[simp] theorem setX_st (t : Thread) (r : BitVec 5) (v : Word) : (t.setX r v).st = t.st := by unfold setX; split <;> rfl
@[simp] theorem setX_held (t : Thread) (r : BitVec 5) (v : Word) : (t.setX r v).held = t.held := by unfold setX; split <;> rfl
@[simp] theorem setX_wait (t : Thread) (r : BitVec 5) (v : Word) : (t.setX r v).wait = t.wait := by unfold setX; split <;> rfl
@[simp] theorem setX_journal (t : Thread) (r : BitVec 5) (v : Word) : (t.setX r v).journal = t.journal := by unfold setX; split <;> rfl
@[simp] theorem setX_gen (t : Thread) (r : BitVec 5) (v : Word) : (t.setX r v).gen = t.gen := by unfold setX; split <;> rfl
@[simp] theorem setX_hid (t : Thread) (r : BitVec 5) (v : Word) : (t.setX r v).hid = t.hid := by unfold setX; split <;> rfl
@[simp] theorem setX_prio (t : Thread) (r : BitVec 5) (v : Word) : (t.setX r v).prio = t.prio := by unfold setX; split <;> rfl
@[simp] theorem setX_deadline (t : Thread) (r : BitVec 5) (v : Word) : (t.setX r v).deadline = t.deadline := by unfold setX; split <;> rfl
@[simp] theorem setX_preg (t : Thread) (r : BitVec 5) (v : Word) : (t.setX r v).preg = t.preg := by unfold setX; split <;> rfl
@[simp] theorem setX_pregDecl (t : Thread) (r : BitVec 5) (v : Word) : (t.setX r v).pregDecl = t.pregDecl := by unfold setX; split <;> rfl
@[simp] theorem setX_rcb (t : Thread) (r : BitVec 5) (v : Word) : (t.setX r v).rcb = t.rcb := by unfold setX; split <;> rfl
@[simp] theorem setX_entryAddr (t : Thread) (r : BitVec 5) (v : Word) : (t.setX r v).entryAddr = t.entryAddr := by unfold setX; split <;> rfl
@[simp] theorem setX_launch (t : Thread) (r : BitVec 5) (v : Word) : (t.setX r v).launch = t.launch := by unfold setX; split <;> rfl
@[simp] theorem setX_cctr (t : Thread) (r : BitVec 5) (v : Word) : (t.setX r v).cctr = t.cctr := by unfold setX; split <;> rfl
@[simp] theorem setX_missCounted (t : Thread) (r : BitVec 5) (v : Word) : (t.setX r v).missCounted = t.missCounted := by unfold setX; split <;> rfl
@[simp] theorem setX_resident (t : Thread) (r : BitVec 5) (v : Word) : (t.setX r v).resident = t.resident := by unfold setX; split <;> rfl
@[simp] theorem setX_image (t : Thread) (r : BitVec 5) (v : Word) : (t.setX r v).image = t.image := by unfold setX; split <;> rfl
@[simp] theorem setX_jbad (t : Thread) (r : BitVec 5) (v : Word) : (t.setX r v).jbad = t.jbad := by unfold setX; split <;> rfl
@[simp] theorem setX_slot (t : Thread) (r : BitVec 5) (v : Word) : (t.setX r v).slot = t.slot := by unfold setX; split <;> rfl
@[simp] theorem setX_slotAt (t : Thread) (r : BitVec 5) (v : Word) : (t.setX r v).slotAt = t.slotAt := by unfold setX; split <;> rfl
@[simp] theorem setX_sbWait (t : Thread) (r : BitVec 5) (v : Word) : (t.setX r v).sbWait = t.sbWait := by unfold setX; split <;> rfl
@[simp] theorem setX_seen (t : Thread) (r : BitVec 5) (v : Word) : (t.setX r v).seen = t.seen := by unfold setX; split <;> rfl
@[simp] theorem setX_rel (t : Thread) (r : BitVec 5) (v : Word) : (t.setX r v).rel = t.rel := by unfold setX; split <;> rfl
@[simp] theorem setX_arrival (t : Thread) (r : BitVec 5) (v : Word) : (t.setX r v).arrival = t.arrival := by unfold setX; split <;> rfl
@[simp] theorem setX_taken (t : Thread) (r : BitVec 5) (v : Word) : (t.setX r v).taken = t.taken := by unfold setX; split <;> rfl
@[simp] theorem setX_idle (t : Thread) (r : BitVec 5) (v : Word) : (t.setX r v).idle = t.idle := by unfold setX; split <;> rfl
@[simp] theorem setX_stopAt (t : Thread) (r : BitVec 5) (v : Word) : (t.setX r v).stopAt = t.stopAt := by unfold setX; split <;> rfl
@[simp] theorem setX_wdLeft (t : Thread) (r : BitVec 5) (v : Word) : (t.setX r v).wdLeft = t.wdLeft := by unfold setX; split <;> rfl
@[simp] theorem setX_wdFired (t : Thread) (r : BitVec 5) (v : Word) : (t.setX r v).wdFired = t.wdFired := by unfold setX; split <;> rfl
@[simp] theorem setX_outst (t : Thread) (r : BitVec 5) (v : Word) : (t.setX r v).outst = t.outst := by unfold setX; split <;> rfl
@[simp] theorem setX_pendTrap (t : Thread) (r : BitVec 5) (v : Word) : (t.setX r v).pendTrap = t.pendTrap := by unfold setX; split <;> rfl
@[simp] theorem setX_cellBusy (t : Thread) (r : BitVec 5) (v : Word) : (t.setX r v).cellBusy = t.cellBusy := by unfold setX; split <;> rfl
@[simp] theorem setX_hosted (t : Thread) (r : BitVec 5) (v : Word) : (t.setX r v).hosted = t.hosted := by unfold setX; split <;> rfl
@[simp] theorem setX_resuming (t : Thread) (r : BitVec 5) (v : Word) : (t.setX r v).resuming = t.resuming := by unfold setX; split <;> rfl
@[simp] theorem setX_restoring (t : Thread) (r : BitVec 5) (v : Word) : (t.setX r v).restoring = t.restoring := by unfold setX; split <;> rfl
@[simp] theorem setX_landing (t : Thread) (r : BitVec 5) (v : Word) : (t.setX r v).landing = t.landing := by unfold setX; split <;> rfl
@[simp] theorem setX_fbuf (t : Thread) (r : BitVec 5) (v : Word) : (t.setX r v).fbuf = t.fbuf := by unfold setX; split <;> rfl
@[simp] theorem setX_fbufLoc (t : Thread) (r : BitVec 5) (v : Word) : (t.setX r v).fbufLoc = t.fbufLoc := by unfold setX; split <;> rfl
@[simp] theorem setX_fbufStale (t : Thread) (r : BitVec 5) (v : Word) : (t.setX r v).fbufStale = t.fbufStale := by unfold setX; split <;> rfl
@[simp] theorem setX_fetchEpoch (t : Thread) (r : BitVec 5) (v : Word) : (t.setX r v).fetchEpoch = t.fetchEpoch := by unfold setX; split <;> rfl
@[simp] theorem setX_opTag (t : Thread) (r : BitVec 5) (v : Word) : (t.setX r v).opTag = t.opTag := by unfold setX; split <;> rfl
@[simp] theorem setX_lastCopy (t : Thread) (r : BitVec 5) (v : Word) : (t.setX r v).lastCopy = t.lastCopy := by unfold setX; split <;> rfl
@[simp] theorem setX_yielded (t : Thread) (r : BitVec 5) (v : Word) : (t.setX r v).yielded = t.yielded := by unfold setX; split <;> rfl

/-! ### setF -/

@[simp] theorem setF_pc (t : Thread) (r : BitVec 5) (v : Word) : (t.setF r v).pc = t.pc := rfl
@[simp] theorem setF_x (t : Thread) (r : BitVec 5) (v : Word) : (t.setF r v).x = t.x := rfl
@[simp] theorem setF_v (t : Thread) (r : BitVec 5) (v : Word) : (t.setF r v).v = t.v := rfl
@[simp] theorem setF_p (t : Thread) (r : BitVec 5) (v : Word) : (t.setF r v).p = t.p := rfl
@[simp] theorem setF_ox (t : Thread) (r : BitVec 5) (v : Word) : (t.setF r v).ox = t.ox := rfl
@[simp] theorem setF_ss (t : Thread) (r : BitVec 5) (v : Word) : (t.setF r v).ss = t.ss := rfl
@[simp] theorem setF_fcsr (t : Thread) (r : BitVec 5) (v : Word) : (t.setF r v).fcsr = t.fcsr := rfl
@[simp] theorem setF_vcsr (t : Thread) (r : BitVec 5) (v : Word) : (t.setF r v).vcsr = t.vcsr := rfl
@[simp] theorem setF_tcause (t : Thread) (r : BitVec 5) (v : Word) : (t.setF r v).tcause = t.tcause := rfl
@[simp] theorem setF_tval (t : Thread) (r : BitVec 5) (v : Word) : (t.setF r v).tval = t.tval := rfl
@[simp] theorem setF_epc (t : Thread) (r : BitVec 5) (v : Word) : (t.setF r v).epc = t.epc := rfl
@[simp] theorem setF_utvec (t : Thread) (r : BitVec 5) (v : Word) : (t.setF r v).utvec = t.utvec := rfl
@[simp] theorem setF_utepc (t : Thread) (r : BitVec 5) (v : Word) : (t.setF r v).utepc = t.utepc := rfl
@[simp] theorem setF_actid (t : Thread) (r : BitVec 5) (v : Word) : (t.setF r v).actid = t.actid := rfl
@[simp] theorem setF_actst (t : Thread) (r : BitVec 5) (v : Word) : (t.setF r v).actst = t.actst := rfl
@[simp] theorem setF_msghdr (t : Thread) (r : BitVec 5) (v : Word) : (t.setF r v).msghdr = t.msghdr := rfl
@[simp] theorem setF_loopStart (t : Thread) (r : BitVec 5) (v : Word) : (t.setF r v).loopStart = t.loopStart := rfl
@[simp] theorem setF_loopLast (t : Thread) (r : BitVec 5) (v : Word) : (t.setF r v).loopLast = t.loopLast := rfl
@[simp] theorem setF_loopReg (t : Thread) (r : BitVec 5) (v : Word) : (t.setF r v).loopReg = t.loopReg := rfl
@[simp] theorem setF_loopActive (t : Thread) (r : BitVec 5) (v : Word) : (t.setF r v).loopActive = t.loopActive := rfl
@[simp] theorem setF_st (t : Thread) (r : BitVec 5) (v : Word) : (t.setF r v).st = t.st := rfl
@[simp] theorem setF_held (t : Thread) (r : BitVec 5) (v : Word) : (t.setF r v).held = t.held := rfl
@[simp] theorem setF_wait (t : Thread) (r : BitVec 5) (v : Word) : (t.setF r v).wait = t.wait := rfl
@[simp] theorem setF_journal (t : Thread) (r : BitVec 5) (v : Word) : (t.setF r v).journal = t.journal := rfl
@[simp] theorem setF_gen (t : Thread) (r : BitVec 5) (v : Word) : (t.setF r v).gen = t.gen := rfl
@[simp] theorem setF_hid (t : Thread) (r : BitVec 5) (v : Word) : (t.setF r v).hid = t.hid := rfl
@[simp] theorem setF_prio (t : Thread) (r : BitVec 5) (v : Word) : (t.setF r v).prio = t.prio := rfl
@[simp] theorem setF_deadline (t : Thread) (r : BitVec 5) (v : Word) : (t.setF r v).deadline = t.deadline := rfl
@[simp] theorem setF_preg (t : Thread) (r : BitVec 5) (v : Word) : (t.setF r v).preg = t.preg := rfl
@[simp] theorem setF_pregDecl (t : Thread) (r : BitVec 5) (v : Word) : (t.setF r v).pregDecl = t.pregDecl := rfl
@[simp] theorem setF_rcb (t : Thread) (r : BitVec 5) (v : Word) : (t.setF r v).rcb = t.rcb := rfl
@[simp] theorem setF_entryAddr (t : Thread) (r : BitVec 5) (v : Word) : (t.setF r v).entryAddr = t.entryAddr := rfl
@[simp] theorem setF_launch (t : Thread) (r : BitVec 5) (v : Word) : (t.setF r v).launch = t.launch := rfl
@[simp] theorem setF_cctr (t : Thread) (r : BitVec 5) (v : Word) : (t.setF r v).cctr = t.cctr := rfl
@[simp] theorem setF_missCounted (t : Thread) (r : BitVec 5) (v : Word) : (t.setF r v).missCounted = t.missCounted := rfl
@[simp] theorem setF_resident (t : Thread) (r : BitVec 5) (v : Word) : (t.setF r v).resident = t.resident := rfl
@[simp] theorem setF_image (t : Thread) (r : BitVec 5) (v : Word) : (t.setF r v).image = t.image := rfl
@[simp] theorem setF_jbad (t : Thread) (r : BitVec 5) (v : Word) : (t.setF r v).jbad = t.jbad := rfl
@[simp] theorem setF_slot (t : Thread) (r : BitVec 5) (v : Word) : (t.setF r v).slot = t.slot := rfl
@[simp] theorem setF_slotAt (t : Thread) (r : BitVec 5) (v : Word) : (t.setF r v).slotAt = t.slotAt := rfl
@[simp] theorem setF_sbWait (t : Thread) (r : BitVec 5) (v : Word) : (t.setF r v).sbWait = t.sbWait := rfl
@[simp] theorem setF_seen (t : Thread) (r : BitVec 5) (v : Word) : (t.setF r v).seen = t.seen := rfl
@[simp] theorem setF_rel (t : Thread) (r : BitVec 5) (v : Word) : (t.setF r v).rel = t.rel := rfl
@[simp] theorem setF_arrival (t : Thread) (r : BitVec 5) (v : Word) : (t.setF r v).arrival = t.arrival := rfl
@[simp] theorem setF_taken (t : Thread) (r : BitVec 5) (v : Word) : (t.setF r v).taken = t.taken := rfl
@[simp] theorem setF_idle (t : Thread) (r : BitVec 5) (v : Word) : (t.setF r v).idle = t.idle := rfl
@[simp] theorem setF_stopAt (t : Thread) (r : BitVec 5) (v : Word) : (t.setF r v).stopAt = t.stopAt := rfl
@[simp] theorem setF_wdLeft (t : Thread) (r : BitVec 5) (v : Word) : (t.setF r v).wdLeft = t.wdLeft := rfl
@[simp] theorem setF_wdFired (t : Thread) (r : BitVec 5) (v : Word) : (t.setF r v).wdFired = t.wdFired := rfl
@[simp] theorem setF_outst (t : Thread) (r : BitVec 5) (v : Word) : (t.setF r v).outst = t.outst := rfl
@[simp] theorem setF_pendTrap (t : Thread) (r : BitVec 5) (v : Word) : (t.setF r v).pendTrap = t.pendTrap := rfl
@[simp] theorem setF_cellBusy (t : Thread) (r : BitVec 5) (v : Word) : (t.setF r v).cellBusy = t.cellBusy := rfl
@[simp] theorem setF_hosted (t : Thread) (r : BitVec 5) (v : Word) : (t.setF r v).hosted = t.hosted := rfl
@[simp] theorem setF_resuming (t : Thread) (r : BitVec 5) (v : Word) : (t.setF r v).resuming = t.resuming := rfl
@[simp] theorem setF_restoring (t : Thread) (r : BitVec 5) (v : Word) : (t.setF r v).restoring = t.restoring := rfl
@[simp] theorem setF_landing (t : Thread) (r : BitVec 5) (v : Word) : (t.setF r v).landing = t.landing := rfl
@[simp] theorem setF_fbuf (t : Thread) (r : BitVec 5) (v : Word) : (t.setF r v).fbuf = t.fbuf := rfl
@[simp] theorem setF_fbufLoc (t : Thread) (r : BitVec 5) (v : Word) : (t.setF r v).fbufLoc = t.fbufLoc := rfl
@[simp] theorem setF_fbufStale (t : Thread) (r : BitVec 5) (v : Word) : (t.setF r v).fbufStale = t.fbufStale := rfl
@[simp] theorem setF_fetchEpoch (t : Thread) (r : BitVec 5) (v : Word) : (t.setF r v).fetchEpoch = t.fetchEpoch := rfl
@[simp] theorem setF_opTag (t : Thread) (r : BitVec 5) (v : Word) : (t.setF r v).opTag = t.opTag := rfl
@[simp] theorem setF_lastCopy (t : Thread) (r : BitVec 5) (v : Word) : (t.setF r v).lastCopy = t.lastCopy := rfl
@[simp] theorem setF_yielded (t : Thread) (r : BitVec 5) (v : Word) : (t.setF r v).yielded = t.yielded := rfl

/-! ### setV -/

@[simp] theorem setV_pc (t : Thread) (r : BitVec 5) (v : VReg) : (t.setV r v).pc = t.pc := rfl
@[simp] theorem setV_x (t : Thread) (r : BitVec 5) (v : VReg) : (t.setV r v).x = t.x := rfl
@[simp] theorem setV_f (t : Thread) (r : BitVec 5) (v : VReg) : (t.setV r v).f = t.f := rfl
@[simp] theorem setV_p (t : Thread) (r : BitVec 5) (v : VReg) : (t.setV r v).p = t.p := rfl
@[simp] theorem setV_ox (t : Thread) (r : BitVec 5) (v : VReg) : (t.setV r v).ox = t.ox := rfl
@[simp] theorem setV_ss (t : Thread) (r : BitVec 5) (v : VReg) : (t.setV r v).ss = t.ss := rfl
@[simp] theorem setV_fcsr (t : Thread) (r : BitVec 5) (v : VReg) : (t.setV r v).fcsr = t.fcsr := rfl
@[simp] theorem setV_vcsr (t : Thread) (r : BitVec 5) (v : VReg) : (t.setV r v).vcsr = t.vcsr := rfl
@[simp] theorem setV_tcause (t : Thread) (r : BitVec 5) (v : VReg) : (t.setV r v).tcause = t.tcause := rfl
@[simp] theorem setV_tval (t : Thread) (r : BitVec 5) (v : VReg) : (t.setV r v).tval = t.tval := rfl
@[simp] theorem setV_epc (t : Thread) (r : BitVec 5) (v : VReg) : (t.setV r v).epc = t.epc := rfl
@[simp] theorem setV_utvec (t : Thread) (r : BitVec 5) (v : VReg) : (t.setV r v).utvec = t.utvec := rfl
@[simp] theorem setV_utepc (t : Thread) (r : BitVec 5) (v : VReg) : (t.setV r v).utepc = t.utepc := rfl
@[simp] theorem setV_actid (t : Thread) (r : BitVec 5) (v : VReg) : (t.setV r v).actid = t.actid := rfl
@[simp] theorem setV_actst (t : Thread) (r : BitVec 5) (v : VReg) : (t.setV r v).actst = t.actst := rfl
@[simp] theorem setV_msghdr (t : Thread) (r : BitVec 5) (v : VReg) : (t.setV r v).msghdr = t.msghdr := rfl
@[simp] theorem setV_loopStart (t : Thread) (r : BitVec 5) (v : VReg) : (t.setV r v).loopStart = t.loopStart := rfl
@[simp] theorem setV_loopLast (t : Thread) (r : BitVec 5) (v : VReg) : (t.setV r v).loopLast = t.loopLast := rfl
@[simp] theorem setV_loopReg (t : Thread) (r : BitVec 5) (v : VReg) : (t.setV r v).loopReg = t.loopReg := rfl
@[simp] theorem setV_loopActive (t : Thread) (r : BitVec 5) (v : VReg) : (t.setV r v).loopActive = t.loopActive := rfl
@[simp] theorem setV_st (t : Thread) (r : BitVec 5) (v : VReg) : (t.setV r v).st = t.st := rfl
@[simp] theorem setV_held (t : Thread) (r : BitVec 5) (v : VReg) : (t.setV r v).held = t.held := rfl
@[simp] theorem setV_wait (t : Thread) (r : BitVec 5) (v : VReg) : (t.setV r v).wait = t.wait := rfl
@[simp] theorem setV_journal (t : Thread) (r : BitVec 5) (v : VReg) : (t.setV r v).journal = t.journal := rfl
@[simp] theorem setV_gen (t : Thread) (r : BitVec 5) (v : VReg) : (t.setV r v).gen = t.gen := rfl
@[simp] theorem setV_hid (t : Thread) (r : BitVec 5) (v : VReg) : (t.setV r v).hid = t.hid := rfl
@[simp] theorem setV_prio (t : Thread) (r : BitVec 5) (v : VReg) : (t.setV r v).prio = t.prio := rfl
@[simp] theorem setV_deadline (t : Thread) (r : BitVec 5) (v : VReg) : (t.setV r v).deadline = t.deadline := rfl
@[simp] theorem setV_preg (t : Thread) (r : BitVec 5) (v : VReg) : (t.setV r v).preg = t.preg := rfl
@[simp] theorem setV_pregDecl (t : Thread) (r : BitVec 5) (v : VReg) : (t.setV r v).pregDecl = t.pregDecl := rfl
@[simp] theorem setV_rcb (t : Thread) (r : BitVec 5) (v : VReg) : (t.setV r v).rcb = t.rcb := rfl
@[simp] theorem setV_entryAddr (t : Thread) (r : BitVec 5) (v : VReg) : (t.setV r v).entryAddr = t.entryAddr := rfl
@[simp] theorem setV_launch (t : Thread) (r : BitVec 5) (v : VReg) : (t.setV r v).launch = t.launch := rfl
@[simp] theorem setV_cctr (t : Thread) (r : BitVec 5) (v : VReg) : (t.setV r v).cctr = t.cctr := rfl
@[simp] theorem setV_missCounted (t : Thread) (r : BitVec 5) (v : VReg) : (t.setV r v).missCounted = t.missCounted := rfl
@[simp] theorem setV_resident (t : Thread) (r : BitVec 5) (v : VReg) : (t.setV r v).resident = t.resident := rfl
@[simp] theorem setV_image (t : Thread) (r : BitVec 5) (v : VReg) : (t.setV r v).image = t.image := rfl
@[simp] theorem setV_jbad (t : Thread) (r : BitVec 5) (v : VReg) : (t.setV r v).jbad = t.jbad := rfl
@[simp] theorem setV_slot (t : Thread) (r : BitVec 5) (v : VReg) : (t.setV r v).slot = t.slot := rfl
@[simp] theorem setV_slotAt (t : Thread) (r : BitVec 5) (v : VReg) : (t.setV r v).slotAt = t.slotAt := rfl
@[simp] theorem setV_sbWait (t : Thread) (r : BitVec 5) (v : VReg) : (t.setV r v).sbWait = t.sbWait := rfl
@[simp] theorem setV_seen (t : Thread) (r : BitVec 5) (v : VReg) : (t.setV r v).seen = t.seen := rfl
@[simp] theorem setV_rel (t : Thread) (r : BitVec 5) (v : VReg) : (t.setV r v).rel = t.rel := rfl
@[simp] theorem setV_arrival (t : Thread) (r : BitVec 5) (v : VReg) : (t.setV r v).arrival = t.arrival := rfl
@[simp] theorem setV_taken (t : Thread) (r : BitVec 5) (v : VReg) : (t.setV r v).taken = t.taken := rfl
@[simp] theorem setV_idle (t : Thread) (r : BitVec 5) (v : VReg) : (t.setV r v).idle = t.idle := rfl
@[simp] theorem setV_stopAt (t : Thread) (r : BitVec 5) (v : VReg) : (t.setV r v).stopAt = t.stopAt := rfl
@[simp] theorem setV_wdLeft (t : Thread) (r : BitVec 5) (v : VReg) : (t.setV r v).wdLeft = t.wdLeft := rfl
@[simp] theorem setV_wdFired (t : Thread) (r : BitVec 5) (v : VReg) : (t.setV r v).wdFired = t.wdFired := rfl
@[simp] theorem setV_outst (t : Thread) (r : BitVec 5) (v : VReg) : (t.setV r v).outst = t.outst := rfl
@[simp] theorem setV_pendTrap (t : Thread) (r : BitVec 5) (v : VReg) : (t.setV r v).pendTrap = t.pendTrap := rfl
@[simp] theorem setV_cellBusy (t : Thread) (r : BitVec 5) (v : VReg) : (t.setV r v).cellBusy = t.cellBusy := rfl
@[simp] theorem setV_hosted (t : Thread) (r : BitVec 5) (v : VReg) : (t.setV r v).hosted = t.hosted := rfl
@[simp] theorem setV_resuming (t : Thread) (r : BitVec 5) (v : VReg) : (t.setV r v).resuming = t.resuming := rfl
@[simp] theorem setV_restoring (t : Thread) (r : BitVec 5) (v : VReg) : (t.setV r v).restoring = t.restoring := rfl
@[simp] theorem setV_landing (t : Thread) (r : BitVec 5) (v : VReg) : (t.setV r v).landing = t.landing := rfl
@[simp] theorem setV_fbuf (t : Thread) (r : BitVec 5) (v : VReg) : (t.setV r v).fbuf = t.fbuf := rfl
@[simp] theorem setV_fbufLoc (t : Thread) (r : BitVec 5) (v : VReg) : (t.setV r v).fbufLoc = t.fbufLoc := rfl
@[simp] theorem setV_fbufStale (t : Thread) (r : BitVec 5) (v : VReg) : (t.setV r v).fbufStale = t.fbufStale := rfl
@[simp] theorem setV_fetchEpoch (t : Thread) (r : BitVec 5) (v : VReg) : (t.setV r v).fetchEpoch = t.fetchEpoch := rfl
@[simp] theorem setV_opTag (t : Thread) (r : BitVec 5) (v : VReg) : (t.setV r v).opTag = t.opTag := rfl
@[simp] theorem setV_lastCopy (t : Thread) (r : BitVec 5) (v : VReg) : (t.setV r v).lastCopy = t.lastCopy := rfl
@[simp] theorem setV_yielded (t : Thread) (r : BitVec 5) (v : VReg) : (t.setV r v).yielded = t.yielded := rfl

/-! ### setP -/

@[simp] theorem setP_pc (t : Thread) (n : Nat) (v : PReg) : (t.setP n v).pc = t.pc := by unfold setP; split <;> rfl
@[simp] theorem setP_x (t : Thread) (n : Nat) (v : PReg) : (t.setP n v).x = t.x := by unfold setP; split <;> rfl
@[simp] theorem setP_f (t : Thread) (n : Nat) (v : PReg) : (t.setP n v).f = t.f := by unfold setP; split <;> rfl
@[simp] theorem setP_v (t : Thread) (n : Nat) (v : PReg) : (t.setP n v).v = t.v := by unfold setP; split <;> rfl
@[simp] theorem setP_ox (t : Thread) (n : Nat) (v : PReg) : (t.setP n v).ox = t.ox := by unfold setP; split <;> rfl
@[simp] theorem setP_ss (t : Thread) (n : Nat) (v : PReg) : (t.setP n v).ss = t.ss := by unfold setP; split <;> rfl
@[simp] theorem setP_fcsr (t : Thread) (n : Nat) (v : PReg) : (t.setP n v).fcsr = t.fcsr := by unfold setP; split <;> rfl
@[simp] theorem setP_vcsr (t : Thread) (n : Nat) (v : PReg) : (t.setP n v).vcsr = t.vcsr := by unfold setP; split <;> rfl
@[simp] theorem setP_tcause (t : Thread) (n : Nat) (v : PReg) : (t.setP n v).tcause = t.tcause := by unfold setP; split <;> rfl
@[simp] theorem setP_tval (t : Thread) (n : Nat) (v : PReg) : (t.setP n v).tval = t.tval := by unfold setP; split <;> rfl
@[simp] theorem setP_epc (t : Thread) (n : Nat) (v : PReg) : (t.setP n v).epc = t.epc := by unfold setP; split <;> rfl
@[simp] theorem setP_utvec (t : Thread) (n : Nat) (v : PReg) : (t.setP n v).utvec = t.utvec := by unfold setP; split <;> rfl
@[simp] theorem setP_utepc (t : Thread) (n : Nat) (v : PReg) : (t.setP n v).utepc = t.utepc := by unfold setP; split <;> rfl
@[simp] theorem setP_actid (t : Thread) (n : Nat) (v : PReg) : (t.setP n v).actid = t.actid := by unfold setP; split <;> rfl
@[simp] theorem setP_actst (t : Thread) (n : Nat) (v : PReg) : (t.setP n v).actst = t.actst := by unfold setP; split <;> rfl
@[simp] theorem setP_msghdr (t : Thread) (n : Nat) (v : PReg) : (t.setP n v).msghdr = t.msghdr := by unfold setP; split <;> rfl
@[simp] theorem setP_loopStart (t : Thread) (n : Nat) (v : PReg) : (t.setP n v).loopStart = t.loopStart := by unfold setP; split <;> rfl
@[simp] theorem setP_loopLast (t : Thread) (n : Nat) (v : PReg) : (t.setP n v).loopLast = t.loopLast := by unfold setP; split <;> rfl
@[simp] theorem setP_loopReg (t : Thread) (n : Nat) (v : PReg) : (t.setP n v).loopReg = t.loopReg := by unfold setP; split <;> rfl
@[simp] theorem setP_loopActive (t : Thread) (n : Nat) (v : PReg) : (t.setP n v).loopActive = t.loopActive := by unfold setP; split <;> rfl
@[simp] theorem setP_st (t : Thread) (n : Nat) (v : PReg) : (t.setP n v).st = t.st := by unfold setP; split <;> rfl
@[simp] theorem setP_held (t : Thread) (n : Nat) (v : PReg) : (t.setP n v).held = t.held := by unfold setP; split <;> rfl
@[simp] theorem setP_wait (t : Thread) (n : Nat) (v : PReg) : (t.setP n v).wait = t.wait := by unfold setP; split <;> rfl
@[simp] theorem setP_journal (t : Thread) (n : Nat) (v : PReg) : (t.setP n v).journal = t.journal := by unfold setP; split <;> rfl
@[simp] theorem setP_gen (t : Thread) (n : Nat) (v : PReg) : (t.setP n v).gen = t.gen := by unfold setP; split <;> rfl
@[simp] theorem setP_hid (t : Thread) (n : Nat) (v : PReg) : (t.setP n v).hid = t.hid := by unfold setP; split <;> rfl
@[simp] theorem setP_prio (t : Thread) (n : Nat) (v : PReg) : (t.setP n v).prio = t.prio := by unfold setP; split <;> rfl
@[simp] theorem setP_deadline (t : Thread) (n : Nat) (v : PReg) : (t.setP n v).deadline = t.deadline := by unfold setP; split <;> rfl
@[simp] theorem setP_preg (t : Thread) (n : Nat) (v : PReg) : (t.setP n v).preg = t.preg := by unfold setP; split <;> rfl
@[simp] theorem setP_pregDecl (t : Thread) (n : Nat) (v : PReg) : (t.setP n v).pregDecl = t.pregDecl := by unfold setP; split <;> rfl
@[simp] theorem setP_rcb (t : Thread) (n : Nat) (v : PReg) : (t.setP n v).rcb = t.rcb := by unfold setP; split <;> rfl
@[simp] theorem setP_entryAddr (t : Thread) (n : Nat) (v : PReg) : (t.setP n v).entryAddr = t.entryAddr := by unfold setP; split <;> rfl
@[simp] theorem setP_launch (t : Thread) (n : Nat) (v : PReg) : (t.setP n v).launch = t.launch := by unfold setP; split <;> rfl
@[simp] theorem setP_cctr (t : Thread) (n : Nat) (v : PReg) : (t.setP n v).cctr = t.cctr := by unfold setP; split <;> rfl
@[simp] theorem setP_missCounted (t : Thread) (n : Nat) (v : PReg) : (t.setP n v).missCounted = t.missCounted := by unfold setP; split <;> rfl
@[simp] theorem setP_resident (t : Thread) (n : Nat) (v : PReg) : (t.setP n v).resident = t.resident := by unfold setP; split <;> rfl
@[simp] theorem setP_image (t : Thread) (n : Nat) (v : PReg) : (t.setP n v).image = t.image := by unfold setP; split <;> rfl
@[simp] theorem setP_jbad (t : Thread) (n : Nat) (v : PReg) : (t.setP n v).jbad = t.jbad := by unfold setP; split <;> rfl
@[simp] theorem setP_slot (t : Thread) (n : Nat) (v : PReg) : (t.setP n v).slot = t.slot := by unfold setP; split <;> rfl
@[simp] theorem setP_slotAt (t : Thread) (n : Nat) (v : PReg) : (t.setP n v).slotAt = t.slotAt := by unfold setP; split <;> rfl
@[simp] theorem setP_sbWait (t : Thread) (n : Nat) (v : PReg) : (t.setP n v).sbWait = t.sbWait := by unfold setP; split <;> rfl
@[simp] theorem setP_seen (t : Thread) (n : Nat) (v : PReg) : (t.setP n v).seen = t.seen := by unfold setP; split <;> rfl
@[simp] theorem setP_rel (t : Thread) (n : Nat) (v : PReg) : (t.setP n v).rel = t.rel := by unfold setP; split <;> rfl
@[simp] theorem setP_arrival (t : Thread) (n : Nat) (v : PReg) : (t.setP n v).arrival = t.arrival := by unfold setP; split <;> rfl
@[simp] theorem setP_taken (t : Thread) (n : Nat) (v : PReg) : (t.setP n v).taken = t.taken := by unfold setP; split <;> rfl
@[simp] theorem setP_idle (t : Thread) (n : Nat) (v : PReg) : (t.setP n v).idle = t.idle := by unfold setP; split <;> rfl
@[simp] theorem setP_stopAt (t : Thread) (n : Nat) (v : PReg) : (t.setP n v).stopAt = t.stopAt := by unfold setP; split <;> rfl
@[simp] theorem setP_wdLeft (t : Thread) (n : Nat) (v : PReg) : (t.setP n v).wdLeft = t.wdLeft := by unfold setP; split <;> rfl
@[simp] theorem setP_wdFired (t : Thread) (n : Nat) (v : PReg) : (t.setP n v).wdFired = t.wdFired := by unfold setP; split <;> rfl
@[simp] theorem setP_outst (t : Thread) (n : Nat) (v : PReg) : (t.setP n v).outst = t.outst := by unfold setP; split <;> rfl
@[simp] theorem setP_pendTrap (t : Thread) (n : Nat) (v : PReg) : (t.setP n v).pendTrap = t.pendTrap := by unfold setP; split <;> rfl
@[simp] theorem setP_cellBusy (t : Thread) (n : Nat) (v : PReg) : (t.setP n v).cellBusy = t.cellBusy := by unfold setP; split <;> rfl
@[simp] theorem setP_hosted (t : Thread) (n : Nat) (v : PReg) : (t.setP n v).hosted = t.hosted := by unfold setP; split <;> rfl
@[simp] theorem setP_resuming (t : Thread) (n : Nat) (v : PReg) : (t.setP n v).resuming = t.resuming := by unfold setP; split <;> rfl
@[simp] theorem setP_restoring (t : Thread) (n : Nat) (v : PReg) : (t.setP n v).restoring = t.restoring := by unfold setP; split <;> rfl
@[simp] theorem setP_landing (t : Thread) (n : Nat) (v : PReg) : (t.setP n v).landing = t.landing := by unfold setP; split <;> rfl
@[simp] theorem setP_fbuf (t : Thread) (n : Nat) (v : PReg) : (t.setP n v).fbuf = t.fbuf := by unfold setP; split <;> rfl
@[simp] theorem setP_fbufLoc (t : Thread) (n : Nat) (v : PReg) : (t.setP n v).fbufLoc = t.fbufLoc := by unfold setP; split <;> rfl
@[simp] theorem setP_fbufStale (t : Thread) (n : Nat) (v : PReg) : (t.setP n v).fbufStale = t.fbufStale := by unfold setP; split <;> rfl
@[simp] theorem setP_fetchEpoch (t : Thread) (n : Nat) (v : PReg) : (t.setP n v).fetchEpoch = t.fetchEpoch := by unfold setP; split <;> rfl
@[simp] theorem setP_opTag (t : Thread) (n : Nat) (v : PReg) : (t.setP n v).opTag = t.opTag := by unfold setP; split <;> rfl
@[simp] theorem setP_lastCopy (t : Thread) (n : Nat) (v : PReg) : (t.setP n v).lastCopy = t.lastCopy := by unfold setP; split <;> rfl
@[simp] theorem setP_yielded (t : Thread) (n : Nat) (v : PReg) : (t.setP n v).yielded = t.yielded := by unfold setP; split <;> rfl

/-! ### setOx -/

@[simp] theorem setOx_pc (t : Thread) (n : Nat) (v : Word) : (t.setOx n v).pc = t.pc := rfl
@[simp] theorem setOx_x (t : Thread) (n : Nat) (v : Word) : (t.setOx n v).x = t.x := rfl
@[simp] theorem setOx_f (t : Thread) (n : Nat) (v : Word) : (t.setOx n v).f = t.f := rfl
@[simp] theorem setOx_v (t : Thread) (n : Nat) (v : Word) : (t.setOx n v).v = t.v := rfl
@[simp] theorem setOx_p (t : Thread) (n : Nat) (v : Word) : (t.setOx n v).p = t.p := rfl
@[simp] theorem setOx_ss (t : Thread) (n : Nat) (v : Word) : (t.setOx n v).ss = t.ss := rfl
@[simp] theorem setOx_fcsr (t : Thread) (n : Nat) (v : Word) : (t.setOx n v).fcsr = t.fcsr := rfl
@[simp] theorem setOx_vcsr (t : Thread) (n : Nat) (v : Word) : (t.setOx n v).vcsr = t.vcsr := rfl
@[simp] theorem setOx_tcause (t : Thread) (n : Nat) (v : Word) : (t.setOx n v).tcause = t.tcause := rfl
@[simp] theorem setOx_tval (t : Thread) (n : Nat) (v : Word) : (t.setOx n v).tval = t.tval := rfl
@[simp] theorem setOx_epc (t : Thread) (n : Nat) (v : Word) : (t.setOx n v).epc = t.epc := rfl
@[simp] theorem setOx_utvec (t : Thread) (n : Nat) (v : Word) : (t.setOx n v).utvec = t.utvec := rfl
@[simp] theorem setOx_utepc (t : Thread) (n : Nat) (v : Word) : (t.setOx n v).utepc = t.utepc := rfl
@[simp] theorem setOx_actid (t : Thread) (n : Nat) (v : Word) : (t.setOx n v).actid = t.actid := rfl
@[simp] theorem setOx_actst (t : Thread) (n : Nat) (v : Word) : (t.setOx n v).actst = t.actst := rfl
@[simp] theorem setOx_msghdr (t : Thread) (n : Nat) (v : Word) : (t.setOx n v).msghdr = t.msghdr := rfl
@[simp] theorem setOx_loopStart (t : Thread) (n : Nat) (v : Word) : (t.setOx n v).loopStart = t.loopStart := rfl
@[simp] theorem setOx_loopLast (t : Thread) (n : Nat) (v : Word) : (t.setOx n v).loopLast = t.loopLast := rfl
@[simp] theorem setOx_loopReg (t : Thread) (n : Nat) (v : Word) : (t.setOx n v).loopReg = t.loopReg := rfl
@[simp] theorem setOx_loopActive (t : Thread) (n : Nat) (v : Word) : (t.setOx n v).loopActive = t.loopActive := rfl
@[simp] theorem setOx_st (t : Thread) (n : Nat) (v : Word) : (t.setOx n v).st = t.st := rfl
@[simp] theorem setOx_held (t : Thread) (n : Nat) (v : Word) : (t.setOx n v).held = t.held := rfl
@[simp] theorem setOx_wait (t : Thread) (n : Nat) (v : Word) : (t.setOx n v).wait = t.wait := rfl
@[simp] theorem setOx_journal (t : Thread) (n : Nat) (v : Word) : (t.setOx n v).journal = t.journal := rfl
@[simp] theorem setOx_gen (t : Thread) (n : Nat) (v : Word) : (t.setOx n v).gen = t.gen := rfl
@[simp] theorem setOx_hid (t : Thread) (n : Nat) (v : Word) : (t.setOx n v).hid = t.hid := rfl
@[simp] theorem setOx_prio (t : Thread) (n : Nat) (v : Word) : (t.setOx n v).prio = t.prio := rfl
@[simp] theorem setOx_deadline (t : Thread) (n : Nat) (v : Word) : (t.setOx n v).deadline = t.deadline := rfl
@[simp] theorem setOx_preg (t : Thread) (n : Nat) (v : Word) : (t.setOx n v).preg = t.preg := rfl
@[simp] theorem setOx_pregDecl (t : Thread) (n : Nat) (v : Word) : (t.setOx n v).pregDecl = t.pregDecl := rfl
@[simp] theorem setOx_rcb (t : Thread) (n : Nat) (v : Word) : (t.setOx n v).rcb = t.rcb := rfl
@[simp] theorem setOx_entryAddr (t : Thread) (n : Nat) (v : Word) : (t.setOx n v).entryAddr = t.entryAddr := rfl
@[simp] theorem setOx_launch (t : Thread) (n : Nat) (v : Word) : (t.setOx n v).launch = t.launch := rfl
@[simp] theorem setOx_cctr (t : Thread) (n : Nat) (v : Word) : (t.setOx n v).cctr = t.cctr := rfl
@[simp] theorem setOx_missCounted (t : Thread) (n : Nat) (v : Word) : (t.setOx n v).missCounted = t.missCounted := rfl
@[simp] theorem setOx_resident (t : Thread) (n : Nat) (v : Word) : (t.setOx n v).resident = t.resident := rfl
@[simp] theorem setOx_image (t : Thread) (n : Nat) (v : Word) : (t.setOx n v).image = t.image := rfl
@[simp] theorem setOx_jbad (t : Thread) (n : Nat) (v : Word) : (t.setOx n v).jbad = t.jbad := rfl
@[simp] theorem setOx_slot (t : Thread) (n : Nat) (v : Word) : (t.setOx n v).slot = t.slot := rfl
@[simp] theorem setOx_slotAt (t : Thread) (n : Nat) (v : Word) : (t.setOx n v).slotAt = t.slotAt := rfl
@[simp] theorem setOx_sbWait (t : Thread) (n : Nat) (v : Word) : (t.setOx n v).sbWait = t.sbWait := rfl
@[simp] theorem setOx_seen (t : Thread) (n : Nat) (v : Word) : (t.setOx n v).seen = t.seen := rfl
@[simp] theorem setOx_rel (t : Thread) (n : Nat) (v : Word) : (t.setOx n v).rel = t.rel := rfl
@[simp] theorem setOx_arrival (t : Thread) (n : Nat) (v : Word) : (t.setOx n v).arrival = t.arrival := rfl
@[simp] theorem setOx_taken (t : Thread) (n : Nat) (v : Word) : (t.setOx n v).taken = t.taken := rfl
@[simp] theorem setOx_idle (t : Thread) (n : Nat) (v : Word) : (t.setOx n v).idle = t.idle := rfl
@[simp] theorem setOx_stopAt (t : Thread) (n : Nat) (v : Word) : (t.setOx n v).stopAt = t.stopAt := rfl
@[simp] theorem setOx_wdLeft (t : Thread) (n : Nat) (v : Word) : (t.setOx n v).wdLeft = t.wdLeft := rfl
@[simp] theorem setOx_wdFired (t : Thread) (n : Nat) (v : Word) : (t.setOx n v).wdFired = t.wdFired := rfl
@[simp] theorem setOx_outst (t : Thread) (n : Nat) (v : Word) : (t.setOx n v).outst = t.outst := rfl
@[simp] theorem setOx_pendTrap (t : Thread) (n : Nat) (v : Word) : (t.setOx n v).pendTrap = t.pendTrap := rfl
@[simp] theorem setOx_cellBusy (t : Thread) (n : Nat) (v : Word) : (t.setOx n v).cellBusy = t.cellBusy := rfl
@[simp] theorem setOx_hosted (t : Thread) (n : Nat) (v : Word) : (t.setOx n v).hosted = t.hosted := rfl
@[simp] theorem setOx_resuming (t : Thread) (n : Nat) (v : Word) : (t.setOx n v).resuming = t.resuming := rfl
@[simp] theorem setOx_restoring (t : Thread) (n : Nat) (v : Word) : (t.setOx n v).restoring = t.restoring := rfl
@[simp] theorem setOx_landing (t : Thread) (n : Nat) (v : Word) : (t.setOx n v).landing = t.landing := rfl
@[simp] theorem setOx_fbuf (t : Thread) (n : Nat) (v : Word) : (t.setOx n v).fbuf = t.fbuf := rfl
@[simp] theorem setOx_fbufLoc (t : Thread) (n : Nat) (v : Word) : (t.setOx n v).fbufLoc = t.fbufLoc := rfl
@[simp] theorem setOx_fbufStale (t : Thread) (n : Nat) (v : Word) : (t.setOx n v).fbufStale = t.fbufStale := rfl
@[simp] theorem setOx_fetchEpoch (t : Thread) (n : Nat) (v : Word) : (t.setOx n v).fetchEpoch = t.fetchEpoch := rfl
@[simp] theorem setOx_opTag (t : Thread) (n : Nat) (v : Word) : (t.setOx n v).opTag = t.opTag := rfl
@[simp] theorem setOx_lastCopy (t : Thread) (n : Nat) (v : Word) : (t.setOx n v).lastCopy = t.lastCopy := rfl
@[simp] theorem setOx_yielded (t : Thread) (n : Nat) (v : Word) : (t.setOx n v).yielded = t.yielded := rfl

end Thread

end Sys2Proof.Machine
end

