-- ==== Sys2Proof/Laws/Thread.lean ====
section
/-! SUPPORT. Reading registers and threads after writing them, and what completing an instruction does: the lemmas that say once
what setReg, adv, jump and the completion of a vector or floating-point instruction leave. -/

namespace Sys2Proof.Machine

/-! ### Registers -/

theorem Thread.getX_zero (t : Thread) : t.getX 0 = 0 := rfl

theorem Thread.getX_setX (t : Thread) (r q : BitVec 5) (v : Word) :
    (t.setX r v).getX q = if q = 0 then 0 else if q = r then v else t.getX q := by
  by_cases hq : q = 0
  · subst hq
    rfl
  rw [if_neg hq]
  unfold Thread.setX
  by_cases hr : r = 0
  · rw [if_pos hr, if_neg (hr ▸ hq)]
  rw [if_neg hr]
  unfold Thread.getX
  rw [if_neg hq, Tbl.get_put]
  by_cases h : q = r
  · rw [if_pos h, if_pos (congrArg _ h)]
  · rw [if_neg h, if_neg fun e => h (BitVec.eq_of_toNat_eq e), if_neg hq]

/-- The thread at the end of its hardware loop, one instruction later (R124). -/
theorem Thread.next_loop (t : Thread) (len : Nat) (h : t.AtLoopEnd) :
    t.next len = if t.loopReg ≠ 0 ∧ t.getX t.loopReg ≠ 1 then
      { t.setX t.loopReg (t.getX t.loopReg - 1) with pc := t.loopStart }
    else { t.setX t.loopReg (t.getX t.loopReg - 1) with pc := t.pc + ofN len, loopActive := false } := by
  unfold Thread.next
  rw [if_pos (show t.loopActive = true ∧ t.pc = t.loopLast from h)]
  have e : (t.setX t.loopReg (t.getX t.loopReg - 1)).getX t.loopReg ≠ 0 ↔ t.loopReg ≠ 0 ∧ t.getX t.loopReg ≠ 1 := by
    rw [Thread.getX_setX, if_pos rfl]
    by_cases h0 : t.loopReg = 0
    · rw [if_pos h0]; exact ⟨fun f => absurd rfl f, fun f => absurd h0 f.1⟩
    · rw [if_neg h0]; constructor
      · intro f; exact ⟨h0, fun g => f (by rw [g]; rfl)⟩
      · intro f g; exact f.2 (by bv_omega)
  by_cases hc : t.loopReg ≠ 0 ∧ t.getX t.loopReg ≠ 1
  · rw [if_pos hc]; exact if_pos (e.2 hc)
  · rw [if_neg hc]; exact if_neg fun f => hc (e.1 f)

/-- With no reply to the loop's register outstanding, an operation with a reply completes as any other (R115, R124). -/
theorem Thread.nextAsk_of (t : Thread) (len : Nat) (h : t.loopActive = false ∨ t.awaits t.loopReg = false) :
    t.nextAsk len = t.next len := by
  unfold Thread.nextAsk
  rw [if_neg]
  rintro ⟨h1, _, h2⟩
  rcases h with h | h
  · rw [h] at h1; exact Bool.noConfusion h1
  · rw [h] at h2; exact Bool.noConfusion h2

theorem Thread.withX_eq (t : Thread) (d : BitVec 5) (v : Word) : (t.setX d v).getX = t.withX d v := by
  funext r
  rw [Thread.getX_setX]
  rfl

theorem Thread.getF_setF (t : Thread) (r q : BitVec 5) (v : Word) :
    (t.setF r v).getF q = if q = r then v else t.getF q := by
  unfold Thread.setF Thread.getF
  rw [Tbl.get_put]
  by_cases h : q = r
  · simp [h]
  · have : q.toNat ≠ r.toNat := fun e => h (BitVec.eq_of_toNat_eq e)
    simp [h, this]

theorem Thread.getV_setV (t : Thread) (r q : BitVec 5) (v : VReg) :
    (t.setV r v).getV q = if q = r then v else t.getV q := by
  unfold Thread.setV Thread.getV
  rw [Tbl.get_put]
  by_cases h : q = r
  · simp [h]
  · have : q.toNat ≠ r.toNat := fun e => h (BitVec.eq_of_toNat_eq e)
    simp [h, this]

theorem Thread.getP_setP (t : Thread) (n m : Nat) (v : PReg) :
    (t.setP n v).getP m = if m = 0 then BitVec.allOnes 128 else if m = n then v else t.getP m := by
  by_cases hm : m = 0
  · subst hm
    rfl
  rw [if_neg hm]
  unfold Thread.setP
  by_cases hn : n = 0
  · rw [if_pos hn, if_neg (hn ▸ hm)]
  · rw [if_neg hn]
    unfold Thread.getP
    rw [if_neg hm, Tbl.get_put, if_neg hm]

theorem Thread.getOx_setOx (t : Thread) (n m : Nat) (v : Word) :
    (t.setOx n v).getOx m = if m = n then v else t.getOx m := by
  unfold Thread.setOx Thread.getOx
  rw [Tbl.get_put]

theorem Thread.setX_eq (t : Thread) (d : BitVec 5) (v : Word) : t.setX d v = { t with x := (t.setX d v).x } := by
  unfold Thread.setX
  split <;> rfl

/-! ### Threads -/

namespace State

@[simp] theorem thread_setThread_same (s : State) (a : Agent) (t : Thread) : (s.setThread a t).thread a = t := by
  simp [State.thread, State.setThread]

theorem thread_setThread_other (s : State) {a b : Agent} (t : Thread) (h : b.key ≠ a.key) :
    (s.setThread a t).thread b = s.thread b := by
  simp [State.thread, State.setThread, Tbl.get_put_other _ _ _ h]

@[simp] theorem thread_modThread_same (s : State) (a : Agent) (f : Thread → Thread) :
    (s.modThread a f).thread a = f (s.thread a) := by
  simp [State.modThread]

theorem thread_modThread_other (s : State) {a b : Agent} (f : Thread → Thread) (h : b.key ≠ a.key) :
    (s.modThread a f).thread b = s.thread b := thread_setThread_other s _ h

@[simp] theorem me_modMe (s : State) (f : Thread → Thread) : (s.modMe f).me = f s.me := by
  simp [State.me, State.modMe, State.modThread, State.thread, State.setThread]

@[simp] theorem me_wx (s : State) (r : BitVec 5) (v : Word) : (s.wx r v).me = s.me.setX r v := me_modMe s _

@[simp] theorem me_adv (s : State) (n : Nat) : (s.adv n).me = s.me.next n := me_modMe s _

@[simp] theorem me_jump (s : State) (v : Word) : (s.jump v).me = { s.me with pc := v } := me_modMe s _

/-- A change of the executing thread changes nothing else. -/
theorem onlyMe_modMe (s : State) (f : Thread → Thread) : OnlyMe s (s.modMe f) :=
  ⟨rfl, fun _ h => thread_modThread_other s f h⟩

end State

theorem OnlyMe.trans {s t u : State} (h1 : OnlyMe s t) (h2 : OnlyMe t u) : OnlyMe s u := by
  obtain ⟨a1, b1⟩ := h1
  obtain ⟨a2, b2⟩ := h2
  have hc : t.cur = s.cur := by rw [a1]
  refine ⟨?_, fun a ha => ?_⟩
  · rw [OnlyThreads] at *
    rw [a2, a1]
  · rw [b2 a (by rwa [hc]), b1 a ha]

/-! ### Completion -/

/-- What completing an instruction does to the x registers, the pc and the hardware loop (R112, R124). -/
theorem Thread.completed_next (t : Thread) (len : Nat) : t.Completed (t.next len) t.getX len ∧ t.KeepsRest (t.next len) := by
  by_cases h : t.AtLoopEnd
  · rw [Thread.next_loop t len h]
    have e := t.setX_eq t.loopReg (t.getX t.loopReg - 1)
    have g : ∀ r, r ≠ t.loopReg → (t.setX t.loopReg (t.getX t.loopReg - 1)).getX r = t.getX r := by
      intro r hne
      rw [Thread.getX_setX, if_neg hne]
      by_cases h0 : r = 0
      · rw [if_pos h0, h0]; rfl
      · rw [if_neg h0]
    have g1 : t.loopReg ≠ 0 → (t.setX t.loopReg (t.getX t.loopReg - 1)).getX t.loopReg = t.getX t.loopReg - 1 := by
      intro h0
      rw [Thread.getX_setX, if_neg h0, if_pos rfl]
    by_cases hc : t.loopReg ≠ 0 ∧ t.getX t.loopReg ≠ 1
    · rw [if_pos hc]
      refine ⟨⟨fun hn => absurd h hn, fun _ => ⟨g, g1, fun hd => ?_, fun _ => ⟨rfl, ?_⟩⟩⟩, ?_⟩
      · exact absurd hd (by rintro (f | f); exacts [hc.1 f, hc.2 f])
      · rw [e]; exact h.1
      · rw [Thread.KeepsRest, e]
    · rw [if_neg hc]
      refine ⟨⟨fun hn => absurd h hn, fun _ => ⟨g, g1, fun _ => ⟨rfl, rfl⟩, fun hd => absurd hd hc⟩⟩, ?_⟩
      rw [Thread.KeepsRest, e]
  · unfold Thread.next
    rw [if_neg (show ¬(t.loopActive = true ∧ t.pc = t.loopLast) from h)]
    exact ⟨⟨fun _ => ⟨fun _ => rfl, rfl, rfl⟩, fun hn => absurd hn h⟩, rfl⟩

/-- A result written to X[d] and the completion of its instruction (R112, R116). -/
theorem regStep_adv (s : State) (d : BitVec 5) (v : Word) (len : Nat) : RegStep s d v len ((s.wx d v).adv len) := by
  refine ⟨(State.onlyMe_modMe s _).trans (State.onlyMe_modMe _ _), ?_, ?_⟩
  · obtain ⟨_, h⟩ := (s.me.setX d v).completed_next len
    rw [Thread.KeepsRest, State.me_adv, State.me_wx, h]
    unfold Thread.setX
    split <;> rfl
  · obtain ⟨h, _⟩ := (s.me.setX d v).completed_next len
    rw [State.me_adv, State.me_wx, ← Thread.withX_eq]
    unfold Thread.Completed Thread.AtLoopEnd at *
    have hl : (s.me.setX d v).loopActive = s.me.loopActive := by simp
    simpa using h

/-- An instruction that only completes. -/
theorem advanced_adv (s : State) (len : Nat) : Advanced s len (s.adv len) := by
  refine ⟨State.onlyMe_modMe s _, ?_, ?_⟩
  · rw [State.me_adv]; exact (s.me.completed_next len).2
  · rw [State.me_adv]; exact (s.me.completed_next len).1

/-- A transfer of control that links. -/
theorem jumped_link (s : State) (d : BitVec 5) (v target : Word) : Jumped s d v target ((s.wx d v).jump target) := by
  refine ⟨(State.onlyMe_modMe s _).trans (State.onlyMe_modMe _ _), ?_, fun r => ?_, ?_, ?_⟩
  · rw [Thread.KeepsRest, State.me_jump, State.me_wx]
    unfold Thread.setX
    split <;> rfl
  · rw [← Thread.withX_eq]
    simp only [State.x, State.me_jump, State.me_wx]
    rfl
  · simp [State.pc]
  · simp

/-- A change of the executing thread, completed. -/
theorem threadStep_adv (s : State) (w : Thread → Thread) (len : Nat) : ThreadStep s w len ((s.modMe w).adv len) :=
  ⟨(State.onlyMe_modMe s _).trans (State.onlyMe_modMe _ _), by rw [State.me_adv, State.me_modMe]⟩

/-- An instruction whose meaning is to write `v'` to X[d]. -/
theorem runs_setReg {i : Instr} {s : State} {d : BitVec 5} {v v' : Word} {len : Nat}
    (h : exec i s = s.setReg d v' len) (e : v = v') : Runs i s (RegStep s d v len) :=
  ⟨_, h, e ▸ regStep_adv s d v' len⟩

end Sys2Proof.Machine
end

