-- ==== Sys2Proof/Laws/Caches.lean ====
section
/-! SUPPORT. What the data caches and the RTB may change when an agent reads (R205, R231, R326, R382): each operation of Cache.lean
and of the read path satisfies `CachesOnly`, so that a proof about a load never unfolds one. -/

namespace Sys2Proof.Machine

/-! ### CachesOnly as a relation -/

theorem CachesOnly.rfl (s : State) : CachesOnly s s :=
  ⟨Eq.refl s, fun _ => Eq.refl _, fun _ => Eq.refl _, fun _ => Eq.refl _⟩

theorem CachesOnly.trans {s t u : State} (h : CachesOnly s t) (g : CachesOnly t u) : CachesOnly s u := by
  obtain ⟨h1, h2, h3, h4⟩ := h
  obtain ⟨g1, g2, g3, g4⟩ := g
  refine ⟨?_, fun a => ?_, fun c => ?_, fun d => ?_⟩
  · rw [g1, h1]
  · rw [g2, h2]
  · rw [g3, h3]
  · rw [g4, h4]

/-- A fold of operations each of which changes the caches alone. -/
theorem CachesOnly.foldl {α : Type} (f : State → α → State) (hf : ∀ s x, CachesOnly s (f s x)) (l : List α) :
    ∀ s, CachesOnly s (l.foldl f s) := by
  induction l with
  | nil => exact CachesOnly.rfl
  | cons x l ih => exact fun s => (hf s x).trans (ih _)

/-- An update of the cache fields of one core. -/
theorem CachesOnly.modCore (s : State) (c : Nat) (f : Core → Core)
    (hf : ∀ k, f k = { k with rtb := (f k).rtb, l1 := (f k).l1, pm := (f k).pm }) : CachesOnly s (s.modCore c f) := by
  refine ⟨Eq.refl _, fun _ => Eq.refl _, fun b => ?_, fun _ => Eq.refl _⟩
  unfold State.modCore State.getCore
  rw [Tbl.get_put]
  by_cases h : b = c
  · rw [if_pos h, h]; exact hf _
  · rw [if_neg h]

/-- An update of the cache fields of one die. -/
theorem CachesOnly.modDie (s : State) (d : Nat) (f : Die → Die)
    (hf : ∀ k, f k = { k with l2 := (f k).l2, rdc := (f k).rdc }) : CachesOnly s (s.modDie d f) := by
  refine ⟨Eq.refl _, fun _ => Eq.refl _, fun _ => Eq.refl _, fun b => ?_⟩
  unfold State.modDie State.getDie
  rw [Tbl.get_put]
  by_cases h : b = d
  · rw [if_pos h, h]; exact hf _
  · rw [if_neg h]

/-- An update of the clocks that one agent has seen. -/
theorem CachesOnly.modThread (s : State) (a : Agent) (f : Thread → Thread)
    (hf : ∀ t, f t = { t with seen := (f t).seen }) : CachesOnly s (s.modThread a f) := by
  refine ⟨Eq.refl _, fun b => ?_, fun _ => Eq.refl _, fun _ => Eq.refl _⟩
  by_cases h : b.key = a.key
  · have e : ∀ u : State, u.thread b = u.thread a := fun u => by unfold State.thread; rw [h]
    rw [e, e, State.thread_modThread_same]
    exact hf _
  · rw [State.thread_modThread_other _ _ h]

namespace State

/-! ### The operations of the caches -/

theorem countEvents_caches (s : State) (c t ev n : Nat) : CachesOnly s (s.countEvents c t ev n) := by
  unfold countEvents
  split
  · exact CachesOnly.rfl s
  · exact CachesOnly.modCore _ _ _ fun _ => rfl

theorem putL2_caches (s : State) (d x : Nat) (dirty : Bool) : CachesOnly s (s.putL2 d x dirty) :=
  CachesOnly.modDie _ _ _ fun _ => rfl

theorem putL1_caches (s : State) (c x : Nat) (v : CSec) : CachesOnly s (s.putL1 c x v) :=
  (CachesOnly.modCore s c _ fun _ => rfl).trans (CachesOnly.foldl _ (fun _ _ => putL2_caches _ _ _ _) _ _)

theorem dropL1_caches (s : State) (c x : Nat) : CachesOnly s (s.dropL1 c x) := CachesOnly.modCore _ _ _ fun _ => rfl

theorem putRdc_caches (s : State) (d x : Nat) (v : CSec) : CachesOnly s (s.putRdc d x v) :=
  CachesOnly.modDie _ _ _ fun _ => rfl

theorem invalidateL1_caches (s : State) (d x : Nat) (keep : Option Nat) : CachesOnly s (s.invalidateL1 d x keep) :=
  CachesOnly.foldl _ (fun _ _ => dropL1_caches _ _ _) _ _

theorem recallL1_caches (s : State) (d x : Nat) (keep : Option Nat) : CachesOnly s (s.recallL1 d x keep) :=
  CachesOnly.foldl _ (fun _ _ => (putL1_caches _ _ _ _).trans (putL2_caches _ _ _ _)) _ _

/-- A fill of the L1 (R199, R205) changes the caches alone. -/
theorem fillSector_caches (h c : Nat) (s : State) (x : Nat) : CachesOnly s (fillSector h c s x) := by
  unfold fillSector
  split
  · exact CachesOnly.rfl s
  split
  · exact ((recallL1_caches _ _ _ _).trans (putL2_caches _ _ _ _)).trans (putL1_caches _ _ _ _)
  simp only
  split
  · exact putL1_caches _ _ _ _
  · exact ((((recallL1_caches _ _ _ _).trans (putL2_caches _ _ _ _)).trans (invalidateL1_caches _ _ _ _)).trans
      (putRdc_caches _ _ _ _)).trans (putL1_caches _ _ _ _)

/-- A read at the home (R205) changes the caches alone. -/
theorem readAtHome_caches (s : State) (l n : Nat) : CachesOnly s (s.readAtHome l n) := by
  unfold readAtHome
  split
  · exact CachesOnly.rfl s
  · exact CachesOnly.foldl _ (fun _ _ => recallL1_caches _ _ _ _) _ _

/-- An acknowledgement (R221, R230) changes the caches alone. -/
theorem ackAt_caches (s : State) (d l n : Nat) : CachesOnly s (s.ackAt d l n) := by
  unfold ackAt
  split
  · exact CachesOnly.rfl s
  split
  · exact CachesOnly.rfl s
  refine CachesOnly.foldl _ (fun t x => ?_) _ _
  unfold ackSector
  split
  · exact CachesOnly.rfl t
  simp only
  split
  · exact (invalidateL1_caches _ _ _ _).trans (putRdc_caches _ _ _ _)
  · exact invalidateL1_caches _ _ _ _

/-- A read by an agent without a cache (R205, R221) changes the caches alone. -/
theorem readFrom_caches (s : State) (d l n : Nat) : CachesOnly s (s.readFrom d l n) :=
  (readAtHome_caches _ _ _).trans (ackAt_caches _ _ _ _)

theorem observe_caches (s : State) (a : Agent) (h l n : Nat) : CachesOnly s (s.observe a h l n) := by
  unfold observe
  simp only
  split
  · exact CachesOnly.rfl s
  · exact CachesOnly.modThread _ _ _ fun _ => rfl

/-- The use of an RTB entry (R326) changes the RTB and the counted events alone. -/
theorem useRtb_caches (s : State) (a : Agent) (va n : Nat) (k : Kind) (r : Bool := true) : CachesOnly s (s.useRtb a va n k r) := by
  unfold useRtb
  split
  · exact CachesOnly.rfl s
  simp only
  split
  · exact CachesOnly.rfl s
  split
  · exact CachesOnly.modCore _ _ _ fun _ => rfl
  · exact countEvents_caches _ _ _ _ _

/-- A failed access (R326) changes the RTB and the counted events alone. -/
theorem dropFailed_caches (s : State) (a : Agent) (va : Nat) : CachesOnly s (s.dropFailed a va) := by
  unfold dropFailed
  split
  · exact CachesOnly.rfl s
  simp only
  split
  · exact CachesOnly.rfl s
  split
  · exact countEvents_caches _ _ _ _ _
  split
  · exact CachesOnly.modCore _ _ _ fun _ => rfl
  · exact CachesOnly.rfl s

/-- An access to a local window uses no RTB entry. -/
theorem useRtb_low (s : State) (a : Agent) {va : Nat} (n : Nat) (k : Kind) (h : va < 0x100000) : s.useRtb a va n k = s := by
  unfold useRtb
  split
  · exact rfl
  · exact if_pos h

theorem countMisses_caches (s : State) (a : Agent) (xs : List Nat) : CachesOnly s (s.countMisses a xs) := by
  unfold countMisses
  split
  · exact CachesOnly.rfl s
  · exact countEvents_caches _ _ _ _ _

theorem touchAcc_caches (s : State) (a : Agent) (acc : Acc) (n : Nat) : CachesOnly s (s.touchAcc a acc n) := by
  unfold touchAcc
  split
  · exact CachesOnly.rfl s
  simp only
  split
  · split
    · exact observe_caches _ _ _ _ _
    · exact (observe_caches _ _ _ _ _).trans (readFrom_caches _ _ _ _)
  · split
    · exact observe_caches _ _ _ _ _
    · exact ((observe_caches _ _ _ _ _).trans (countMisses_caches _ _ _)).trans
        (CachesOnly.foldl _ (fillSector_caches _ _) _ _)

/-- What a read leaves behind: the caches, the RTB, the counted events and the clocks seen (R205, R231, R326, R382). -/
theorem touchBy_caches (s : State) (a : Agent) (va : Word) (n : Nat) : CachesOnly s (s.touchBy a va n) := by
  unfold touchBy
  split
  · exact (useRtb_caches _ _ _ _ _).trans (touchAcc_caches _ _ _ _)
  · exact CachesOnly.rfl s

theorem touch_caches (s : State) (va : Word) (n : Nat) : CachesOnly s (s.touch va n) := touchBy_caches _ _ _ _

theorem touchWords_caches (s : State) (va : Word) (n : Nat) : CachesOnly s (s.touchWords va n) :=
  CachesOnly.foldl _ (fun _ _ => touch_caches _ _ _) _ _

theorem touchLanes_caches (s : State) (e : Nat) (ls : List (Nat × Word × Acc)) : CachesOnly s (s.touchLanes e ls) :=
  CachesOnly.foldl _ (fun _ _ => touch_caches _ _ _) _ _

/-- PREF (R242) changes the caches alone. -/
theorem prefetch_caches (s : State) (va : Word) : CachesOnly s (s.prefetch va) := by
  unfold prefetch
  split
  · split
    · simp only
      split
      · exact CachesOnly.rfl s
      · exact (useRtb_caches _ _ _ _ _).trans (CachesOnly.foldl _ (fillSector_caches _ _) _ _)
    · exact CachesOnly.rfl s
  · exact CachesOnly.rfl s
  · exact CachesOnly.rfl s

end State

end Sys2Proof.Machine
end

