-- ==== Sys2Proof/Laws/Memory.lean ====
section
/-! SUPPORT. The laws of memory: a read after a write, and the canonical form, which every operation on memory keeps. -/

namespace Sys2Proof.Machine

/-! ### Single bytes -/

theorem Memory.read_write (m : List Host.Cell) (l k : Nat) (b : Byte) :
    Memory.read (Memory.write m l b) k = if k = l then b else Memory.read m k :=
  Tbl.get_put Memory.unlisted m l k b

theorem Memory.wf_write {m : List Host.Cell} {l : Nat} {b : Byte} (h : Memory.wf m = true) :
    Memory.wf (Memory.write m l b) = true :=
  Tbl.wf_put h

/-! ### Runs of bytes -/

theorem Memory.read_writeN_outside (bs : List Byte) (m : List Host.Cell) (l k : Nat) (h : k < l ∨ l + bs.length ≤ k) :
    Memory.read (Memory.writeN m l bs) k = Memory.read m k := by
  induction bs generalizing m l with
  | nil => rfl
  | cons b t ih =>
    rw [List.length_cons] at h
    rw [Memory.writeN, ih _ _ (by omega), Memory.read_write, if_neg (by omega)]

theorem Memory.read_writeN_inside (bs : List Byte) (m : List Host.Cell) (l i : Nat) (h : i < bs.length) :
    Memory.read (Memory.writeN m l bs) (l + i) = bs[i] := by
  induction bs generalizing m l i with
  | nil => exact absurd h (Nat.not_lt_zero _)
  | cons b t ih =>
    rw [Memory.writeN]
    cases i with
    | zero => rw [Memory.read_writeN_outside _ _ _ _ (by omega), Memory.read_write, if_pos (by omega)]; rfl
    | succ j =>
      rw [show l + (j + 1) = l + 1 + j by omega, ih _ _ _ (by simpa using h)]
      rfl

/-- What was written is read back. -/
theorem Memory.readN_writeN_same (bs : List Byte) (m : List Host.Cell) (l : Nat) :
    Memory.readN (Memory.writeN m l bs) l bs.length = bs := by
  apply List.ext_getElem
  · simp [Memory.readN]
  · intro i h1 h2
    simp only [Memory.readN, List.getElem_map, List.getElem_range]
    exact Memory.read_writeN_inside bs m l i h2

theorem Memory.wf_writeN (bs : List Byte) {m : List Host.Cell} {l : Nat} (h : Memory.wf m = true) :
    Memory.wf (Memory.writeN m l bs) = true := by
  induction bs generalizing m l with
  | nil => exact h
  | cons b t ih => exact ih (Memory.wf_write h)

theorem Tbl.above_filter {α : Type} (p : Nat × α → Bool) {n : Nat} {t : List (Nat × α)} (h : Tbl.above n t = true) :
    Tbl.above n (t.filter p) = true := by
  induction t with
  | nil => rfl
  | cons e t ih =>
    obtain ⟨k, v⟩ := e
    simp only [Tbl.above, Bool.and_eq_true, decide_eq_true_eq] at h
    rw [List.filter_cons]
    split
    · simp only [Tbl.above, Bool.and_eq_true, decide_eq_true_eq]; exact ⟨h.1, ih h.2⟩
    · exact ih h.2

/-- Dropping entries, as a scrub does, keeps the canonical form. -/
theorem Tbl.wf_filter {α : Type} [DecidableEq α] {d : α} (p : Nat × α → Bool) {t : List (Nat × α)} (h : Tbl.wf d t = true) :
    Tbl.wf d (t.filter p) = true := by
  induction t with
  | nil => rfl
  | cons e t ih =>
    obtain ⟨k, v⟩ := e
    simp only [Tbl.wf, Bool.and_eq_true, decide_eq_true_eq] at h
    rw [List.filter_cons]
    split
    · simp only [Tbl.wf, Bool.and_eq_true, decide_eq_true_eq]; exact ⟨⟨h.1.1, Tbl.above_filter p h.1.2⟩, ih h.2⟩
    · exact ih h.2

/-! ### The operations of State on memory -/

namespace State

theorem inv_of_mem {s t : State} (e : t.mem = s.mem) (h : s.Inv) : t.Inv := by
  unfold Inv
  rw [e]
  exact h

/-- A fold of steps that leave memory alone leaves it alone. -/
theorem foldl_mem {α : Type} (f : State → α → State) (hf : ∀ s x, (f s x).mem = s.mem) (l : List α) (s : State) :
    (l.foldl f s).mem = s.mem := by
  induction l generalizing s with
  | nil => rfl
  | cons x t ih => exact (ih (f s x)).trans (hf s x)

@[simp] theorem cleanse_mem (s : State) (l n : Nat) : (s.cleanse l n).mem = s.mem := rfl

@[simp] theorem staleLines_mem (s : State) (l n : Nat) : (s.staleLines l n).mem = s.mem := by
  unfold staleLines
  refine foldl_mem _ (fun t c => ?_) _ _
  dsimp only
  split <;> rfl

@[simp] theorem carry_mem (s : State) (l n : Nat) (k : Clock) : (s.carry l n k).mem = s.mem := by
  unfold carry
  split <;> rfl

/-! The caches move no byte of memory (R205). -/

@[simp] theorem putL2_mem (s : State) (d x : Nat) (b : Bool) : (s.putL2 d x b).mem = s.mem := rfl
@[simp] theorem dropL1_mem (s : State) (c x : Nat) : (s.dropL1 c x).mem = s.mem := rfl
@[simp] theorem putRdc_mem (s : State) (d x : Nat) (v : CSec) : (s.putRdc d x v).mem = s.mem := rfl

@[simp] theorem dropRdc_mem (s : State) (d x : Nat) : (s.dropRdc d x).mem = s.mem := by
  unfold dropRdc
  split <;> rfl

@[simp] theorem putL1_mem (s : State) (c x : Nat) (v : CSec) : (s.putL1 c x v).mem = s.mem := by
  unfold putL1
  refine (foldl_mem _ (fun _ _ => ?_) _ _).trans ?_ <;> rfl

@[simp] theorem invalidateL1_mem (s : State) (d x : Nat) (k : Option Nat) : (s.invalidateL1 d x k).mem = s.mem := by
  unfold invalidateL1
  refine foldl_mem _ (fun _ _ => ?_) _ _
  rfl

@[simp] theorem recallL1_mem (s : State) (d x : Nat) (k : Option Nat) : (s.recallL1 d x k).mem = s.mem := by
  unfold recallL1
  refine foldl_mem _ (fun t c => ?_) _ _
  rw [putL2_mem, putL1_mem]

@[simp] theorem writeAtHome_mem (h : Nat) (s : State) (x : Nat) : (writeAtHome h s x).mem = s.mem := by
  unfold writeAtHome
  rw [putL2_mem, invalidateL1_mem]

@[simp] theorem writeSector_mem (h c : Nat) (o s : State) (x : Nat) : (writeSector h c o s x).mem = s.mem := by
  unfold writeSector
  split
  · simp
  · dsimp only
    repeat' split
    all_goals simp

@[simp] theorem fillSector_mem (h c : Nat) (s : State) (x : Nat) : (fillSector h c s x).mem = s.mem := by
  unfold fillSector
  dsimp only
  repeat' split
  all_goals simp

@[simp] theorem atHome_mem (s : State) (l n : Nat) : (s.atHome l n).mem = s.mem := by
  unfold atHome
  split
  · rfl
  · exact foldl_mem _ (writeAtHome_mem _) _ _

@[simp] theorem ackSector_mem (h d : Nat) (s : State) (x : Nat) : (ackSector h d s x).mem = s.mem := by
  unfold ackSector
  dsimp only
  repeat' split
  all_goals simp

@[simp] theorem ackAt_mem (s : State) (d l n : Nat) : (s.ackAt d l n).mem = s.mem := by
  unfold ackAt
  split
  · rfl
  · split
    · rfl
    · exact foldl_mem _ (ackSector_mem _ d) _ _

@[simp] theorem readAtHome_mem (s : State) (l n : Nat) : (s.readAtHome l n).mem = s.mem := by
  unfold readAtHome
  split
  · rfl
  · exact foldl_mem _ (fun t x => recallL1_mem t _ x none) _ _

@[simp] theorem readFrom_mem (s : State) (d l n : Nat) : (s.readFrom d l n).mem = s.mem := by
  unfold readFrom
  rw [ackAt_mem, readAtHome_mem]

@[simp] theorem poisonSectors_mem (s : State) (l n : Nat) : (s.poisonSectors l n).mem = s.mem := by
  unfold poisonSectors
  split
  · rfl
  dsimp only
  refine (foldl_mem _ (fun _ _ => ?_) _ _).trans ((foldl_mem _ (fun t x => ?_) _ _).trans ?_)
  · rfl
  · refine (foldl_mem _ (fun _ _ => ?_) _ _).trans ?_
    · rfl
    · rw [dropRdc_mem, dropRdc_mem]
  · rfl

@[simp] theorem countEvents_mem (s : State) (c t e n : Nat) : (s.countEvents c t e n).mem = s.mem := by
  unfold countEvents
  split <;> rfl

@[simp] theorem countMisses_mem (s : State) (a : Agent) (xs : List Nat) : (s.countMisses a xs).mem = s.mem := by
  unfold countMisses
  split
  · rfl
  · exact countEvents_mem _ _ _ _ _

@[simp] theorem mergeClock_mem (s : State) (d : Nat) (k : Clock) : (s.mergeClock d k).mem = s.mem := by
  unfold mergeClock
  split <;> rfl

@[simp] theorem carryFrom_mem (s : State) (k : Clock) (l n : Nat) : (s.carryFrom k l n).mem = s.mem := by
  unfold carryFrom
  split
  · rfl
  · split
    · rfl
    · rw [mergeClock_mem, carry_mem]

@[simp] theorem markWrote_mem (s : State) (d : Nat) : (s.markWrote d).mem = s.mem := by
  unfold markWrote
  split <;> rfl

@[simp] theorem countDie_mem (s : State) (d k : Nat) : (s.countDie d k).mem = s.mem := rfl
@[simp] theorem countCore_mem (s : State) (c k : Nat) : (s.countCore c k).mem = s.mem := rfl

@[simp] theorem putRaw_mem (s : State) (l : Nat) (bs : List Byte) : (s.putRaw l bs).mem = Memory.writeN s.mem l bs := by
  unfold putRaw
  rw [staleLines_mem, carry_mem, cleanse_mem]

@[simp] theorem putBytes_mem (s : State) (l : Nat) (bs : List Byte) : (s.putBytes l bs).mem = Memory.writeN s.mem l bs := by
  unfold putBytes
  rw [atHome_mem, putRaw_mem]

/-- A write of bytes stores them and leaves every other byte. -/
theorem putBytes_stored (s : State) (l : Nat) (bs : List Byte) : Stored s (s.putBytes l bs) l bs := by
  constructor
  · rw [putBytes_mem]; exact Memory.readN_writeN_same bs s.mem l
  · intro k h
    rw [putBytes_mem]
    exact Memory.read_writeN_outside bs s.mem l k h

theorem inv_putBytes {s : State} (l : Nat) (bs : List Byte) (h : s.Inv) : (s.putBytes l bs).Inv := by
  unfold Inv
  rw [putBytes_mem]
  exact Memory.wf_writeN bs h

theorem inv_putUlm {s : State} (c a : Nat) (bs : List Byte) (h : s.Inv) : (s.putUlm c a bs).Inv := inv_putBytes _ bs h

theorem inv_putUlmWord {s : State} (c a : Nat) (w : Word) (h : s.Inv) : (s.putUlmWord c a w).Inv := inv_putBytes _ _ h

theorem inv_putPlainRaw {s : State} (l k : Nat) (bs : List Byte) (h : s.Inv) : (s.putPlainRaw l k bs).Inv := by
  unfold putPlainRaw Inv
  split
  · rw [putRaw_mem]
    exact Memory.wf_writeN bs h
  · split
    · exact h
    · dsimp only
      rw [staleLines_mem, carry_mem, cleanse_mem]
      exact Memory.wf_writeN _ h

theorem inv_putPlain {s : State} (l k : Nat) (bs : List Byte) (unc : Bool) (h : s.Inv) : (s.putPlain l k bs unc).Inv := by
  unfold putPlain
  split
  · exact inv_putPlainRaw l k bs h
  · exact inv_of_mem (atHome_mem _ _ _) (inv_putPlainRaw l k bs h)

theorem inv_storeAt {s : State} (l k : Nat) (bs : List Byte) (unc : Bool) (src : Nat × Bool) (h : s.Inv) :
    (s.storeAt l k bs unc src).Inv := by
  unfold storeAt
  cases placeOf l with
  | mmio =>
    generalize (l - 0x4000000000) / 0x80000000 = d
    generalize (l - 0x4000000000) % 0x80000000 = o
    by_cases g : mmioListed d o = true
    · simp only [g, if_true]; exact inv_of_mem (countDie_mem _ _ _) h
    · simp only [g]; exact h
  | host => exact inv_of_mem rfl h
  | hbm d => exact inv_of_mem (markWrote_mem _ _) (inv_putPlain l k bs unc h)
  | ulm => exact inv_putPlain l k bs false h
  | none => exact h

theorem inv_storeAs {s : State} (a : Agent) (l k : Nat) (bs : List Byte) (unc : Bool) (h : s.Inv) : (s.storeAs a l k bs unc).Inv := by
  unfold storeAs
  split
  · refine inv_of_mem ((markWrote_mem _ _).trans ?_) (inv_putPlainRaw l k bs h)
    split
    · exact carryFrom_mem _ _ _ _
    · refine (foldl_mem _ (fun t x => ?_) _ _).trans ?_
      · exact writeSector_mem _ _ _ t x
      · rw [countMisses_mem, carryFrom_mem]
  · exact inv_storeAt l k bs _ _ h
  · unfold Inv
    dsimp only
    split
    · rw [carryFrom_mem]; exact inv_storeAt l k bs unc _ h
    · rw [ackAt_mem, carryFrom_mem]; exact inv_storeAt l k bs unc _ h

theorem inv_foldl {α : Type} (f : State → α → State) (hf : ∀ s x, State.Inv s → State.Inv (f s x)) (l : List α) {s : State}
    (h : s.Inv) : (l.foldl f s).Inv := by
  induction l generalizing s with
  | nil => exact h
  | cons x t ih => exact ih (hf s x h)

theorem inv_storeSome {s : State} (a : Agent) (l k : Nat) (bs : List (Option Byte)) (unc : Bool) (h : s.Inv) :
    (s.storeSome a l k bs unc).Inv := by
  unfold storeSome
  split
  · exact inv_storeAs a l k _ unc h
  · refine inv_foldl _ (fun t e ht => ?_) _ h
    obtain ⟨b, i⟩ := e
    cases b with
    | none => exact ht
    | some b => exact inv_storeAs _ _ _ _ _ ht

@[simp] theorem flushBacking_mem (s : State) (b : List (Nat × Nat)) : (s.flushBacking b).mem = s.mem := by
  unfold flushBacking
  refine foldl_mem _ (fun _ _ => ?_) _ _
  refine foldl_mem _ (fun _ _ => ?_) _ _
  rfl

/-! ### What a step does around an instruction -/

@[simp] theorem unissued_mem (s : State) (a : Agent) : (s.unissued a).mem = s.mem := rfl

@[simp] theorem moveOn_mem (s : State) (a : Agent) (y : Bool) : (s.moveOn a y).mem = s.mem := by
  unfold moveOn
  cases a with
  | seq n q => rfl
  | thr c i =>
    dsimp only
    rw [modCore_mem]
    refine (foldl_mem _ (fun t j => ?_) _ _).trans rfl
    split <;> rfl

@[simp] theorem countRetired_mem (s : State) (a : Agent) (i : Instr) (t : State) : (s.countRetired a i t).mem = t.mem := by
  unfold countRetired
  cases a with
  | seq n q => rfl
  | thr c k =>
    dsimp only
    repeat' split
    all_goals first | rfl | simp [countEvent]

/-- What follows an attempt to execute an instruction leaves memory alone. -/
@[simp] theorem settleIssue_mem (s : State) (a : Agent) (i : Instr) (t : State) : (s.settleIssue a i t).mem = t.mem := by
  unfold settleIssue
  split <;> simp

@[simp] theorem settleTrap_mem (s : State) (a : Agent) (t : State) : (s.settleTrap a t).mem = t.mem := by
  unfold settleTrap
  split <;> simp

theorem scrub_mem (s : State) (l n : Nat) : (s.scrub l n).mem = s.mem.filter fun e => !(decide (l ≤ e.1) && decide (e.1 < l + n)) := by
  unfold scrub
  rw [staleLines_mem, flushBacking_mem]

/-- A scrub keeps the canonical form. -/
theorem inv_scrub {s : State} (l n : Nat) (h : s.Inv) : (s.scrub l n).Inv := by
  unfold Inv
  rw [scrub_mem]
  exact Tbl.wf_filter _ h

/-- A location that a scrub covers reads as one that nothing has written. -/
theorem scrub_read (s : State) (l n k : Nat) : Memory.read (s.scrub l n).mem k =
    if l ≤ k ∧ k < l + n then Memory.unlisted else Memory.read s.mem k := by
  rw [scrub_mem]
  unfold Memory.read
  generalize s.mem = m
  induction m with
  | nil => simp
  | cons e t ih =>
    obtain ⟨j, v⟩ := e
    rw [List.filter_cons]
    by_cases hj : l ≤ j ∧ j < l + n
    · rw [if_neg (by simp [hj]), ih]
      by_cases hk : l ≤ k ∧ k < l + n
      · rw [if_pos hk, if_pos hk]
      · rw [if_neg hk, if_neg hk, Tbl.get, if_neg (by rintro rfl; exact hk hj)]
    · rw [if_pos (by simp only [Bool.not_eq_true', Bool.and_eq_false_iff, decide_eq_false_iff_not]; omega), Tbl.get, Tbl.get, ih]
      by_cases hjk : j = k
      · rw [if_pos hjk, if_neg (hjk ▸ hj), if_pos hjk]
      · rw [if_neg hjk, if_neg hjk]

end State

end Sys2Proof.Machine
end

