-- ==== Sys2Proof/Laws/PerInstr.lean ====
section
/-! SUPPORT. The per-instruction family Encoded: bits [15:14] of an instruction's first halfword are 0b11 exactly when its word has
32 bits, so that the first halfword alone gives the length (R45). -/

namespace Sys2Proof.Laws.Encoded

/-- The first halfword of the instruction's encoding gives the encoding's length (R45); a machine event has none. -/
def Statement (i : Instr) : Prop :=
  match encode i with
  | .full w => isLong (w.extractLsb' 16 16) = true
  | .half h => isLong h = false
  | .event => True

/-! ### One lemma per format (R48, R56) -/

theorem top_of_word (w : BitVec 32) (h : w.extractLsb' 30 2 = 3#2) : isLong (w.extractLsb' 16 16) = true := by
  have e : (w.extractLsb' 16 16).extractLsb' 14 2 = w.extractLsb' 30 2 := by
    apply BitVec.eq_of_getLsbD_eq
    intro i hi
    interval_cases i <;> simp
  simp [isLong, e, h]

theorem top_r {m : BitVec 8} {d a b : BitVec 5} {fn : BitVec 9} (h : m.extractLsb' 6 2 = 3#2) :
    isLong ((rWord m d a b fn).extractLsb' 16 16) = true := by
  refine top_of_word _ (Eq.trans ?_ h)
  apply BitVec.eq_of_getLsbD_eq
  intro i hi
  rw [BitVec.getLsbD_extractLsb', BitVec.getLsbD_extractLsb']
  unfold rWord
  repeat erw [BitVec.getLsbD_append]
  interval_cases i <;> simp

theorem top_i {m : BitVec 8} {d a : BitVec 5} {x : BitVec 14} (h : m.extractLsb' 6 2 = 3#2) :
    isLong ((iWord m d a x).extractLsb' 16 16) = true := by
  refine top_of_word _ (Eq.trans ?_ h)
  apply BitVec.eq_of_getLsbD_eq
  intro i hi
  rw [BitVec.getLsbD_extractLsb', BitVec.getLsbD_extractLsb']
  unfold iWord
  repeat erw [BitVec.getLsbD_append]
  interval_cases i <;> simp

theorem top_j {m : BitVec 8} {d : BitVec 5} {x : BitVec 19} (h : m.extractLsb' 6 2 = 3#2) :
    isLong ((jWord m d x).extractLsb' 16 16) = true := by
  refine top_of_word _ (Eq.trans ?_ h)
  apply BitVec.eq_of_getLsbD_eq
  intro i hi
  rw [BitVec.getLsbD_extractLsb', BitVec.getLsbD_extractLsb']
  unfold jWord
  repeat erw [BitVec.getLsbD_append]
  interval_cases i <;> simp

theorem top_b {m : BitVec 8} {c : BitVec 3} {a b : BitVec 5} {x : BitVec 11} (h : m.extractLsb' 6 2 = 3#2) :
    isLong ((bWord m c a b x).extractLsb' 16 16) = true := by
  refine top_of_word _ (Eq.trans ?_ h)
  apply BitVec.eq_of_getLsbD_eq
  intro i hi
  rw [BitVec.getLsbD_extractLsb', BitVec.getLsbD_extractLsb']
  unfold bWord
  repeat erw [BitVec.getLsbD_append]
  interval_cases i <;> simp

theorem top_v {m : BitVec 8} {d a b : BitVec 5} {p : BitVec 3} {s : BitVec 2} {fn : BitVec 4} (h : m.extractLsb' 6 2 = 3#2) :
    isLong ((vWord m d a b p s fn).extractLsb' 16 16) = true := by
  refine top_of_word _ (Eq.trans ?_ h)
  apply BitVec.eq_of_getLsbD_eq
  intro i hi
  rw [BitVec.getLsbD_extractLsb', BitVec.getLsbD_extractLsb']
  unfold vWord
  repeat erw [BitVec.getLsbD_append]
  interval_cases i <;> simp

theorem top_c {op : BitVec 6} {x y : BitVec 5} (h : op.extractLsb' 4 2 ≠ 3#2) : isLong (cWord op x y) = false := by
  have e : (cWord op x y).extractLsb' 14 2 = op.extractLsb' 4 2 := by
    apply BitVec.eq_of_getLsbD_eq
    intro i hi
    rw [BitVec.getLsbD_extractLsb', BitVec.getLsbD_extractLsb']
    unfold cWord
    repeat erw [BitVec.getLsbD_append]
    interval_cases i <;> simp
  simp [isLong, e, h]

/-! ### One lemma per constructor -/

theorem add (d a b) : Statement (.add d a b) := top_r rfl
theorem sub (d a b) : Statement (.sub d a b) := top_r rfl
theorem addw (d a b) : Statement (.addw d a b) := top_r rfl
theorem subw (d a b) : Statement (.subw d a b) := top_r rfl
theorem and (d a b) : Statement (.and d a b) := top_r rfl
theorem or (d a b) : Statement (.or d a b) := top_r rfl
theorem xor (d a b) : Statement (.xor d a b) := top_r rfl
theorem andn (d a b) : Statement (.andn d a b) := top_r rfl
theorem orn (d a b) : Statement (.orn d a b) := top_r rfl
theorem sll (d a b) : Statement (.sll d a b) := top_r rfl
theorem srl (d a b) : Statement (.srl d a b) := top_r rfl
theorem sra (d a b) : Statement (.sra d a b) := top_r rfl
theorem rol (d a b) : Statement (.rol d a b) := top_r rfl
theorem ror (d a b) : Statement (.ror d a b) := top_r rfl
theorem slt (d a b) : Statement (.slt d a b) := top_r rfl
theorem sltu (d a b) : Statement (.sltu d a b) := top_r rfl
theorem seq (d a b) : Statement (.seq d a b) := top_r rfl
theorem min (d a b) : Statement (.min d a b) := top_r rfl
theorem max (d a b) : Statement (.max d a b) := top_r rfl
theorem minu (d a b) : Statement (.minu d a b) := top_r rfl
theorem maxu (d a b) : Statement (.maxu d a b) := top_r rfl
theorem clz (d a) : Statement (.clz d a) := top_r rfl
theorem ctz (d a) : Statement (.ctz d a) := top_r rfl
theorem popc (d a) : Statement (.popc d a) := top_r rfl
theorem brev (d a) : Statement (.brev d a) := top_r rfl
theorem bswap (d a) : Statement (.bswap d a) := top_r rfl
theorem sextB (d a) : Statement (.sextB d a) := top_r rfl
theorem sextH (d a) : Statement (.sextH d a) := top_r rfl
theorem sextW (d a) : Statement (.sextW d a) := top_r rfl
theorem zextB (d a) : Statement (.zextB d a) := top_r rfl
theorem zextH (d a) : Statement (.zextH d a) := top_r rfl
theorem zextW (d a) : Statement (.zextW d a) := top_r rfl
theorem shadd (d a b n) : Statement (.shadd d a b n) := top_r rfl
theorem addi (d a i) : Statement (.addi d a i) := top_i rfl
theorem andi (d a i) : Statement (.andi d a i) := top_i rfl
theorem ori (d a i) : Statement (.ori d a i) := top_i rfl
theorem xori (d a i) : Statement (.xori d a i) := top_i rfl
theorem slli (d a n) : Statement (.slli d a n) := top_i rfl
theorem srli (d a n) : Statement (.srli d a n) := top_i rfl
theorem srai (d a n) : Statement (.srai d a n) := top_i rfl
theorem rori (d a n) : Statement (.rori d a n) := top_i rfl
theorem slti (d a i) : Statement (.slti d a i) := top_i rfl
theorem sltiu (d a i) : Statement (.sltiu d a i) := top_i rfl
theorem lui (d i) : Statement (.lui d i) := top_j rfl
theorem addpc (d i) : Statement (.addpc d i) := top_j rfl
theorem mul (d a b) : Statement (.mul d a b) := top_r rfl
theorem mulh (d a b) : Statement (.mulh d a b) := top_r rfl
theorem mulhu (d a b) : Statement (.mulhu d a b) := top_r rfl
theorem mulhsu (d a b) : Statement (.mulhsu d a b) := top_r rfl
theorem mulw (d a b) : Statement (.mulw d a b) := top_r rfl
theorem div (d a b) : Statement (.div d a b) := top_r rfl
theorem divu (d a b) : Statement (.divu d a b) := top_r rfl
theorem rem (d a b) : Statement (.rem d a b) := top_r rfl
theorem remu (d a b) : Statement (.remu d a b) := top_r rfl
theorem madd (d a b) : Statement (.madd d a b) := top_r rfl
theorem ldb (d a i) : Statement (.ldb d a i) := top_i rfl
theorem ldbu (d a i) : Statement (.ldbu d a i) := top_i rfl
theorem ldh (d a i) : Statement (.ldh d a i) := top_i rfl
theorem ldhu (d a i) : Statement (.ldhu d a i) := top_i rfl
theorem ldw (d a i) : Statement (.ldw d a i) := top_i rfl
theorem ldwu (d a i) : Statement (.ldwu d a i) := top_i rfl
theorem ldd (d a i) : Statement (.ldd d a i) := top_i rfl
theorem stb (s b i) : Statement (.stb s b i) := top_i rfl
theorem sth (s b i) : Statement (.sth s b i) := top_i rfl
theorem stw (s b i) : Statement (.stw s b i) := top_i rfl
theorem std (s b i) : Statement (.std s b i) := top_i rfl
theorem beq (a b o) : Statement (.beq a b o) := top_b rfl
theorem bne (a b o) : Statement (.bne a b o) := top_b rfl
theorem blt (a b o) : Statement (.blt a b o) := top_b rfl
theorem bge (a b o) : Statement (.bge a b o) := top_b rfl
theorem bltu (a b o) : Statement (.bltu a b o) := top_b rfl
theorem bgeu (a b o) : Statement (.bgeu a b o) := top_b rfl
theorem bbs (a b o) : Statement (.bbs a b o) := top_b rfl
theorem bbc (a b o) : Statement (.bbc a b o) := top_b rfl
theorem jal (d o) : Statement (.jal d o) := top_j rfl
theorem jalr (d a i) : Statement (.jalr d a i) := top_i rfl
theorem loopI (d i) : Statement (.loopI d i) := top_i rfl
theorem fadd (d a b r f) : Statement (.fadd d a b r f) := top_r rfl
theorem fsub (d a b r f) : Statement (.fsub d a b r f) := top_r rfl
theorem fmul (d a b r f) : Statement (.fmul d a b r f) := top_r rfl
theorem fdiv (d a b r f) : Statement (.fdiv d a b r f) := top_r rfl
theorem fsqrt (d a r f) : Statement (.fsqrt d a r f) := top_r rfl
theorem fma (d a b r f) : Statement (.fma d a b r f) := top_r rfl
theorem fms (d a b r f) : Statement (.fms d a b r f) := top_r rfl
theorem fnma (d a b r f) : Statement (.fnma d a b r f) := top_r rfl
theorem fmin (d a b f) : Statement (.fmin d a b f) := top_r rfl
theorem fmax (d a b f) : Statement (.fmax d a b f) := top_r rfl
theorem fcmpEq (d a b f) : Statement (.fcmpEq d a b f) := top_r rfl
theorem fcmpLt (d a b f) : Statement (.fcmpLt d a b f) := top_r rfl
theorem fcmpLe (d a b f) : Statement (.fcmpLe d a b f) := top_r rfl
theorem fcmpUn (d a b f) : Statement (.fcmpUn d a b f) := top_r rfl
theorem fclass (d a f) : Statement (.fclass d a f) := top_r rfl
theorem fcvtS (d a r) : Statement (.fcvtS d a r) := top_r rfl
theorem fcvtD (d a) : Statement (.fcvtD d a) := top_r rfl
theorem fcvti (d a k r f) : Statement (.fcvti d a k r f) := top_r rfl
theorem fcvtf (d a k r f) : Statement (.fcvtf d a k r f) := top_r rfl
theorem fmvxf (d a f) : Statement (.fmvxf d a f) := top_r rfl
theorem fmvfx (d a f) : Statement (.fmvfx d a f) := top_r rfl
theorem fsgn (d a b f) : Statement (.fsgn d a b f) := top_r rfl
theorem fsgnn (d a b f) : Statement (.fsgnn d a b f) := top_r rfl
theorem fsgnx (d a b f) : Statement (.fsgnx d a b f) := top_r rfl
theorem fldw (d a i) : Statement (.fldw d a i) := top_i rfl
theorem fldd (d a i) : Statement (.fldd d a i) := top_i rfl
theorem fstw (s b i) : Statement (.fstw s b i) := top_i rfl
theorem fstd (s b i) : Statement (.fstd s b i) := top_i rfl
theorem amoadd (d a b o) : Statement (.amoadd d a b o) := top_r rfl
theorem amoand (d a b o) : Statement (.amoand d a b o) := top_r rfl
theorem amoor (d a b o) : Statement (.amoor d a b o) := top_r rfl
theorem amoxor (d a b o) : Statement (.amoxor d a b o) := top_r rfl
theorem amomin (d a b o) : Statement (.amomin d a b o) := top_r rfl
theorem amomax (d a b o) : Statement (.amomax d a b o) := top_r rfl
theorem amominu (d a b o) : Statement (.amominu d a b o) := top_r rfl
theorem amomaxu (d a b o) : Statement (.amomaxu d a b o) := top_r rfl
theorem amoswap (d a b o) : Statement (.amoswap d a b o) := top_r rfl
theorem cas (d a b o) : Statement (.cas d a b o) := top_r rfl
theorem fence (k s) : Statement (.fence k s) := top_r rfl
theorem ifence : Statement (.ifence) := top_r rfl
theorem icinv (d a b s) : Statement (.icinv d a b s) := top_r rfl
theorem dcinv (d a b s) : Statement (.dcinv d a b s) := top_r rfl
theorem dcwb (d a b s) : Statement (.dcwb d a b s) := top_r rfl
theorem dcfl (d a b s) : Statement (.dcfl d a b s) := top_r rfl
theorem pref (a) : Statement (.pref a) := top_r rfl
theorem mfs (d n) : Statement (.mfs d n) := top_r rfl
theorem mts (a n) : Statement (.mts a n) := top_r rfl
theorem trap (a) : Statement (.trap a) := top_r rfl
theorem eretResume : Statement (.eretResume) := top_r rfl
theorem eretPreempt : Statement (.eretPreempt) := top_r rfl
theorem eretPark : Statement (.eretPark) := top_r rfl
theorem eretRetake : Statement (.eretRetake) := top_r rfl
theorem eretKill : Statement (.eretKill) := top_r rfl
theorem eretUnpark : Statement (.eretUnpark) := top_r rfl
theorem utret : Statement (.utret) := top_r rfl
theorem waitI (a) : Statement (.waitI a) := top_r rfl
theorem halt : Statement (.halt) := top_r rfl
theorem migrate (a) : Statement (.migrate a) := top_r rfl
theorem scanrun (d a) : Statement (.scanrun d a) := top_r rfl
theorem sendI (d a b) : Statement (.sendI d a b) := top_r rfl
theorem sendl (a b) : Statement (.sendl a b) := top_r rfl
theorem sendlRpl (a b) : Statement (.sendlRpl a b) := top_r rfl
theorem reduce (a b) : Statement (.reduce a b) := top_r rfl
theorem defer (a) : Statement (.defer a) := top_r rfl
theorem endAct : Statement (.endAct) := top_r rfl
theorem rld (d a) : Statement (.rld d a) := top_r rfl
theorem rst (a b) : Statement (.rst a b) := top_r rfl
theorem rcas (d a b) : Statement (.rcas d a b) := top_r rfl
theorem ramo (d a b p) : Statement (.ramo d a b p) := top_r rfl
theorem qbind (a b) : Statement (.qbind a b) := top_r rfl
theorem qput (a b) : Statement (.qput a b) := top_r rfl
theorem qget (d a) : Statement (.qget d a) := top_r rfl
theorem qtry (d a b) : Statement (.qtry d a b) := top_r rfl
theorem qlen (d a) : Statement (.qlen d a) := top_r rfl
theorem oxld (d a n) : Statement (.oxld d a n) := top_r rfl
theorem oxst (a b n) : Statement (.oxst a b n) := top_r rfl
theorem oxset (d a) : Statement (.oxset d a) := top_r rfl
theorem oxget (d a) : Statement (.oxget d a) := top_r rfl
theorem vadd (d a b p s) : Statement (.vadd d a b p s) := top_v rfl
theorem vsub (d a b p s) : Statement (.vsub d a b p s) := top_v rfl
theorem vmul (d a b p s) : Statement (.vmul d a b p s) := top_v rfl
theorem vmulh (d a b p s) : Statement (.vmulh d a b p s) := top_v rfl
theorem vmadd (d a b p s) : Statement (.vmadd d a b p s) := top_v rfl
theorem vand (d a b p s) : Statement (.vand d a b p s) := top_v rfl
theorem vor (d a b p s) : Statement (.vor d a b p s) := top_v rfl
theorem vxor (d a b p s) : Statement (.vxor d a b p s) := top_v rfl
theorem vsll (d a b p s) : Statement (.vsll d a b p s) := top_v rfl
theorem vsrl (d a b p s) : Statement (.vsrl d a b p s) := top_v rfl
theorem vsra (d a b p s) : Statement (.vsra d a b p s) := top_v rfl
theorem vmin (d a b p s) : Statement (.vmin d a b p s) := top_v rfl
theorem vmax (d a b p s) : Statement (.vmax d a b p s) := top_v rfl
theorem vminu (d a b p s) : Statement (.vminu d a b p s) := top_v rfl
theorem vmaxu (d a b p s) : Statement (.vmaxu d a b p s) := top_v rfl
theorem vabs (d a p s) : Statement (.vabs d a p s) := top_v rfl
theorem vadds (d a b p s) : Statement (.vadds d a b p s) := top_v rfl
theorem vsubs (d a b p s) : Statement (.vsubs d a b p s) := top_v rfl
theorem vcmp (c q a b p s) : Statement (.vcmp c q a b p s) := top_v rfl
theorem vsel (d a b p s) : Statement (.vsel d a b p s) := top_v rfl
theorem vdot4 (d a b p) : Statement (.vdot4 d a b p) := top_v rfl
theorem vtdot4 (d a b p) : Statement (.vtdot4 d a b p) := top_v rfl
theorem vpopc (d a p s) : Statement (.vpopc d a p s) := top_v rfl
theorem vmv (d a p s) : Statement (.vmv d a p s) := top_v rfl
theorem vfadd (d a b p s) : Statement (.vfadd d a b p s) := top_v rfl
theorem vfsub (d a b p s) : Statement (.vfsub d a b p s) := top_v rfl
theorem vfmul (d a b p s) : Statement (.vfmul d a b p s) := top_v rfl
theorem vfma (d a b p s) : Statement (.vfma d a b p s) := top_v rfl
theorem vfms (d a b p s) : Statement (.vfms d a b p s) := top_v rfl
theorem vfmin (d a b p s) : Statement (.vfmin d a b p s) := top_v rfl
theorem vfmax (d a b p s) : Statement (.vfmax d a b p s) := top_v rfl
theorem vfdiv (d a b p s) : Statement (.vfdiv d a b p s) := top_v rfl
theorem vfsqrt (d a p s) : Statement (.vfsqrt d a p s) := top_v rfl
theorem vfrcp (d a p s) : Statement (.vfrcp d a p s) := top_v rfl
theorem vfrsq (d a p s) : Statement (.vfrsq d a p s) := top_v rfl
theorem vfcmp (c q a b p s) : Statement (.vfcmp c q a b p s) := top_v rfl
theorem vld (d a p s) : Statement (.vld d a p s) := top_v rfl
theorem vlds (d a b p s) : Statement (.vlds d a b p s) := top_v rfl
theorem vgath (d a b p s) : Statement (.vgath d a b p s) := top_v rfl
theorem vst (d a p s) : Statement (.vst d a p s) := top_v rfl
theorem vsts (d a b p s) : Statement (.vsts d a b p s) := top_v rfl
theorem vscat (d a b p s) : Statement (.vscat d a b p s) := top_v rfl
theorem vldb (d a b) : Statement (.vldb d a b) := top_v rfl
theorem vredsum (d a k p s) : Statement (.vredsum d a k p s) := top_v rfl
theorem vredmin (d a k p s) : Statement (.vredmin d a k p s) := top_v rfl
theorem vredmax (d a k p s) : Statement (.vredmax d a k p s) := top_v rfl
theorem vscan (d a k p s) : Statement (.vscan d a k p s) := top_v rfl
theorem vperm (d a b p s) : Statement (.vperm d a b p s) := top_v rfl
theorem vbcast (d a p s) : Statement (.vbcast d a p s) := top_v rfl
theorem vslide (d a b p s) : Statement (.vslide d a b p s) := top_v rfl
theorem vins (d a b s) : Statement (.vins d a b s) := top_v rfl
theorem vext (d a b s) : Statement (.vext d a b s) := top_v rfl
theorem vzip (d a b p s) : Statement (.vzip d a b p s) := top_v rfl
theorem vcvt (d a c p s) : Statement (.vcvt d a c p s) := top_v rfl
theorem vnarrow (d a h c p s) : Statement (.vnarrow d a h c p s) := top_v rfl
theorem vwiden (d a h c p s) : Statement (.vwiden d a h c p s) := top_v rfl
theorem unpk3 (d a b q) : Statement (.unpk3 d a b q) := top_v rfl
theorem unpk4 (d a b p s) : Statement (.unpk4 d a b p s) := top_v rfl
theorem vpwl (d a b p) : Statement (.vpwl d a b p) := top_v rfl
theorem vsupd (d a b p) : Statement (.vsupd d a b p) := top_v rfl
theorem vprune (d a q) : Statement (.vprune d a q) := top_v rfl
theorem pand (d a b) : Statement (.pand d a b) := top_r rfl
theorem por (d a b) : Statement (.por d a b) := top_r rfl
theorem pxor (d a b) : Statement (.pxor d a b) := top_r rfl
theorem pnot (d a) : Statement (.pnot d a) := top_r rfl
theorem pset (d a s) : Statement (.pset d a s) := top_r rfl
theorem pcnt (d a s) : Statement (.pcnt d a s) := top_r rfl
theorem pfirst (d a s) : Statement (.pfirst d a s) := top_r rfl
theorem mxcfg (a) : Statement (.mxcfg a) := top_r rfl
theorem mxzero (d) : Statement (.mxzero d) := top_r rfl
theorem mxldb (d a) : Statement (.mxldb d a) := top_r rfl
theorem mxldbs (d a b) : Statement (.mxldbs d a b) := top_r rfl
theorem mxldbg (d a) : Statement (.mxldbg d a) := top_r rfl
theorem mxstg (d a) : Statement (.mxstg d a) := top_r rfl
theorem mxmul (d a) : Statement (.mxmul d a) := top_r rfl
theorem mxrd (d a) : Statement (.mxrd d a) := top_r rfl
theorem mxfence : Statement (.mxfence) := top_r rfl
theorem forkMs (d a b) : Statement (.forkMs d a b) := top_r rfl
theorem forkMi (d a b) : Statement (.forkMi d a b) := top_r rfl
theorem forkCs (d a b) : Statement (.forkCs d a b) := top_r rfl
theorem join (d a) : Statement (.join d a) := top_r rfl
theorem sempost (d a) : Statement (.sempost d a) := top_r rfl
theorem semwait (d a) : Statement (.semwait d a) := top_r rfl
theorem engstat (d a) : Statement (.engstat d a) := top_r rfl
theorem cpy (d) : Statement (.cpy d) := top_r rfl
theorem cpym (d) : Statement (.cpym d) := top_r rfl
theorem cpycan (d a) : Statement (.cpycan d a) := top_r rfl
theorem cpyst (d a) : Statement (.cpyst d a) := top_r rfl
theorem stcfg (d) : Statement (.stcfg d) := top_r rfl
theorem stend (d) : Statement (.stend d) := top_r rfl
theorem ststat (d a) : Statement (.ststat d a) := top_r rfl
theorem reelinit (a b) : Statement (.reelinit a b) := top_r rfl
theorem reelawait (d a) : Statement (.reelawait d a) := top_r rfl
theorem reelrel (a) : Statement (.reelrel a) := top_r rfl
theorem reelst (d a) : Statement (.reelst d a) := top_r rfl
theorem tenq (a b) : Statement (.tenq a b) := top_r rfl
theorem tdeq (d a b) : Statement (.tdeq d a b) := top_r rfl
theorem futld (d a) : Statement (.futld d a) := top_r rfl
theorem futst (d a b) : Statement (.futst d a b) := top_r rfl
theorem launch (a) : Statement (.launch a) := top_r rfl
theorem barinit (d a b) : Statement (.barinit d a b) := top_r rfl
theorem bararr (d a) : Statement (.bararr d a) := top_r rfl
theorem barwait (d a b) : Statement (.barwait d a b) := top_r rfl
theorem dcinit (a b) : Statement (.dcinit a b) := top_r rfl
theorem dcdec (d a b) : Statement (.dcdec d a b) := top_r rfl
theorem dcwait (a) : Statement (.dcwait a) := top_r rfl
theorem slopen (d a) : Statement (.slopen d a) := top_r rfl
theorem slopenClose (d a) : Statement (.slopenClose d a) := top_r rfl
theorem slwait (d a b) : Statement (.slwait d a b) := top_r rfl
theorem slstat (d a) : Statement (.slstat d a) := top_r rfl
theorem bump (d a b) : Statement (.bump d a b) := top_r rfl
theorem rngmap (d a) : Statement (.rngmap d a) := top_r rfl
theorem rngunmap (d a) : Statement (.rngunmap d a) := top_r rfl
theorem rngsplit (d a b) : Statement (.rngsplit d a b) := top_r rfl
theorem rngmerge (d a) : Statement (.rngmerge d a) := top_r rfl
theorem rngprot (d a b) : Statement (.rngprot d a b) := top_r rfl
theorem rngresAdd (d a b) : Statement (.rngresAdd d a b) := top_r rfl
theorem rngresRemove (d a b) : Statement (.rngresRemove d a b) := top_r rfl
theorem rnginv (d a b) : Statement (.rnginv d a b) := top_r rfl
theorem rngcmp (d a b) : Statement (.rngcmp d a b) := top_r rfl
theorem rngqry (d a b) : Statement (.rngqry d a b) := top_r rfl
theorem lcmremRemove (d a b) : Statement (.lcmremRemove d a b) := top_r rfl
theorem lcmremPlace (d a b) : Statement (.lcmremPlace d a b) := top_r rfl
theorem qtmapMap (d a b) : Statement (.qtmapMap d a b) := top_r rfl
theorem qtmapUnmap (d a b) : Statement (.qtmapUnmap d a b) := top_r rfl
theorem qtpinPin (d a b) : Statement (.qtpinPin d a b) := top_r rfl
theorem qtpinUnpin (d a b) : Statement (.qtpinUnpin d a b) := top_r rfl
theorem snapinitCursor (d a b) : Statement (.snapinitCursor d a b) := top_r rfl
theorem snapinitCreate (d a b) : Statement (.snapinitCreate d a b) := top_r rfl
theorem snapinitDestroy (d a b) : Statement (.snapinitDestroy d a b) := top_r rfl
theorem snapinitQuery (d a b) : Statement (.snapinitQuery d a b) := top_r rfl
theorem snaphash (d a b) : Statement (.snaphash d a b) := top_r rfl
theorem snapput (d a b) : Statement (.snapput d a b) := top_r rfl
theorem snapfind (d a) : Statement (.snapfind d a) := top_r rfl
theorem snapget (d a b) : Statement (.snapget d a b) := top_r rfl
theorem snaprel (d a b) : Statement (.snaprel d a b) := top_r rfl
theorem snaprelAll (d a b) : Statement (.snaprelAll d a b) := top_r rfl
theorem monopen : Statement (.monopen) := top_r rfl
theorem monput (d a b) : Statement (.monput d a b) := top_r rfl
theorem monseal (a) : Statement (.monseal a) := top_r rfl
theorem monstat (d a) : Statement (.monstat d a) := top_r rfl
theorem monclose (a) : Statement (.monclose a) := top_r rfl
theorem rdts (d) : Statement (.rdts d) := top_r rfl
theorem rdcyc (d) : Statement (.rdcyc d) := top_r rfl
theorem rdvc (d a) : Statement (.rdvc d a) := top_r rfl
theorem pmcfg (a b) : Statement (.pmcfg a b) := top_r rfl
theorem pmrd (d a) : Statement (.pmrd d a) := top_r rfl
theorem dlyrd (d a) : Statement (.dlyrd d a) := top_r rfl
theorem dbgmark (a) : Statement (.dbgmark a) := top_r rfl
theorem cMv (d a) : Statement (.cMv d a) := top_c (by decide)
theorem cAdd (d a) : Statement (.cAdd d a) := top_c (by decide)
theorem cSub (d a) : Statement (.cSub d a) := top_c (by decide)
theorem cAnd (d a) : Statement (.cAnd d a) := top_c (by decide)
theorem cOr (d a) : Statement (.cOr d a) := top_c (by decide)
theorem cXor (d a) : Statement (.cXor d a) := top_c (by decide)
theorem cSll (d a) : Statement (.cSll d a) := top_c (by decide)
theorem cSrl (d a) : Statement (.cSrl d a) := top_c (by decide)
theorem cSra (d a) : Statement (.cSra d a) := top_c (by decide)
theorem cMul (d a) : Statement (.cMul d a) := top_c (by decide)
theorem cSlt (d a) : Statement (.cSlt d a) := top_c (by decide)
theorem cJmpr (a) : Statement (.cJmpr a) := top_c (by decide)
theorem cCallr (a) : Statement (.cCallr a) := top_c (by decide)
theorem cLdx (d a) : Statement (.cLdx d a) := top_c (by decide)
theorem cStx (s a) : Statement (.cStx s a) := top_c (by decide)
theorem cEnd : Statement (.cEnd) := top_c (by decide)
theorem brk : Statement (.brk) := top_c (by decide)
theorem nop : Statement (.nop) := top_c (by decide)
theorem yield : Statement (.yield) := top_c (by decide)
theorem cAddi (d i) : Statement (.cAddi d i) := top_c (by decide)
theorem cLi (d i) : Statement (.cLi d i) := top_c (by decide)
theorem cSlli (d n) : Statement (.cSlli d n) := top_c (by decide)
theorem cSrli (d n) : Statement (.cSrli d n) := top_c (by decide)
theorem cSrai (d n) : Statement (.cSrai d n) := top_c (by decide)
theorem cAndi (d i) : Statement (.cAndi d i) := top_c (by decide)
theorem cOri (d i) : Statement (.cOri d i) := top_c (by decide)
theorem cXori (d i) : Statement (.cXori d i) := top_c (by decide)
theorem cSpadj (i) : Statement (.cSpadj i) := top_c (by decide)
theorem cJ (o) : Statement (.cJ o) := top_c (by decide)
theorem cJal (o) : Statement (.cJal o) := top_c (by decide)
theorem cBeqz (a o) : Statement (.cBeqz a o) := top_c (by decide)
theorem cBnez (a o) : Statement (.cBnez a o) := top_c (by decide)
theorem cSld (d i) : Statement (.cSld d i) := top_c (by decide)
theorem cSst (s i) : Statement (.cSst s i) := top_c (by decide)
theorem cPld (d i) : Statement (.cPld d i) := top_c (by decide)
theorem cPst (s i) : Statement (.cPst s i) := top_c (by decide)
theorem cSlw (d i) : Statement (.cSlw d i) := top_c (by decide)
theorem cSsw (s i) : Statement (.cSsw s i) := top_c (by decide)
theorem messageInject (unit) : Statement (.messageInject unit) := trivial
theorem sendBufferGrant (unit) : Statement (.sendBufferGrant unit) := trivial
theorem messageArrival (i) : Statement (.messageArrival i) := trivial
theorem messageReturnArrival (i) : Statement (.messageReturnArrival i) := trivial
theorem edgeReturn (i) : Statement (.edgeReturn i) := trivial
theorem replyArrival (i) : Statement (.replyArrival i) := trivial
theorem handlerEntryChange (core hid) : Statement (.handlerEntryChange core hid) := trivial
theorem pendingDelivery (core hid) : Statement (.pendingDelivery core hid) := trivial
theorem messageTake (core) : Statement (.messageTake core) := trivial
theorem deferReady (core slot) : Statement (.deferReady core slot) := trivial
theorem endCommit (core tid) : Statement (.endCommit core tid) := trivial
theorem watchdogExpiry (core tid) : Statement (.watchdogExpiry core tid) := trivial
theorem activeMessageWatchdog (core) : Statement (.activeMessageWatchdog core) := trivial
theorem sequencerWatchdog (set q) : Statement (.sequencerWatchdog set q) := trivial
theorem uncorrectableError (obj) : Statement (.uncorrectableError obj) := trivial
theorem uncorrectableTrap (core tid) : Statement (.uncorrectableTrap core tid) := trivial
theorem preemptRequest (core) : Statement (.preemptRequest core) := trivial
theorem saveComplete (core tid) : Statement (.saveComplete core tid) := trivial
theorem resumptionItem (core tid) : Statement (.resumptionItem core tid) := trivial
theorem restoreComplete (core tid) : Statement (.restoreComplete core tid) := trivial
theorem serviceItemStart (core) : Statement (.serviceItemStart core) := trivial
theorem activeMessageStart (core) : Statement (.activeMessageStart core) := trivial
theorem rldServe (core) : Statement (.rldServe core) := trivial
theorem rstServe (core) : Statement (.rstServe core) := trivial
theorem rcasServe (core) : Statement (.rcasServe core) := trivial
theorem ramoServe (core) : Statement (.ramoServe core) := trivial
theorem migrateArrival (i) : Statement (.migrateArrival i) := trivial
theorem waitTimeReached (agent) : Statement (.waitTimeReached agent) := trivial
theorem dcwaitRelease (agent) : Statement (.dcwaitRelease agent) := trivial
theorem barwaitRelease (agent) : Statement (.barwaitRelease agent) := trivial
theorem slwaitRelease (agent) : Statement (.slwaitRelease agent) := trivial
theorem reelawaitFill (agent) : Statement (.reelawaitFill agent) := trivial
theorem qgetWake (agent) : Statement (.qgetWake agent) := trivial
theorem qputRoom (agent) : Statement (.qputRoom agent) := trivial
theorem joinWake (agent) : Statement (.joinWake agent) := trivial
theorem semwaitGrant (agent) : Statement (.semwaitGrant agent) := trivial
theorem flagToSflags (set) : Statement (.flagToSflags set) := trivial
theorem checkerMismatch (core) : Statement (.checkerMismatch core) := trivial
theorem knownAnswerMismatch (core me) : Statement (.knownAnswerMismatch core me) := trivial
theorem scanComplete (core pass) : Statement (.scanComplete core pass) := trivial
theorem scanAbort (core) : Statement (.scanAbort core) := trivial
theorem launchAccept (i) : Statement (.launchAccept i) := trivial
theorem taskEnqueue (i) : Statement (.taskEnqueue i) := trivial
theorem launchWindowWrite (die fn at_) : Statement (.launchWindowWrite die fn at_) := trivial
theorem cpDispatch (die) : Statement (.cpDispatch die) := trivial
theorem launchReady (part qh i) : Statement (.launchReady part qh i) := trivial
theorem blockedPacketRemoval (part qh i) : Statement (.blockedPacketRemoval part qh i) := trivial
theorem threadReport (core tid) : Statement (.threadReport core tid) := trivial
theorem stageDispatch (part qh) : Statement (.stageDispatch part qh) := trivial
theorem deadlineMiss (core tid) : Statement (.deadlineMiss core tid) := trivial
theorem gafferSample (die) : Statement (.gafferSample die) := trivial
theorem gafferDecision (die) : Statement (.gafferDecision die) := trivial
theorem sequencerProgramStart (set q) : Statement (.sequencerProgramStart set q) := trivial
theorem engineEntryStart (set) : Statement (.engineEntryStart set) := trivial
theorem engineEntryComplete (set) : Statement (.engineEntryComplete set) := trivial
theorem weightLoadStart (set) : Statement (.weightLoadStart set) := trivial
theorem weightLoadComplete (set) : Statement (.weightLoadComplete set) := trivial
theorem weightLoadFault (set) : Statement (.weightLoadFault set) := trivial
theorem weightLoadSuspend (set) : Statement (.weightLoadSuspend set) := trivial
theorem copyStart (h) : Statement (.copyStart h) := trivial
theorem copySuspend (h) : Statement (.copySuspend h) := trivial
theorem copyComplete (h) : Statement (.copyComplete h) := trivial
theorem copyFault (h) : Statement (.copyFault h) := trivial
theorem streamReadahead (core tid slot) : Statement (.streamReadahead core tid slot) := trivial
theorem streamPushWrite (core tid slot) : Statement (.streamPushWrite core tid slot) := trivial
theorem montageRowArrival (set i) : Statement (.montageRowArrival set i) := trivial
theorem binTimeout (set bin) : Statement (.binTimeout set bin) := trivial
theorem sealComplete (set bin) : Statement (.sealComplete set bin) := trivial
theorem ingressEvent (die port) : Statement (.ingressEvent die port) := trivial
theorem ingressWatermark (die port) : Statement (.ingressWatermark die port) := trivial
theorem slateTimeout (die slate) : Statement (.slateTimeout die slate) := trivial
theorem reduceCombine (die tree router) : Statement (.reduceCombine die tree router) := trivial
theorem reduceResult (die tree) : Statement (.reduceResult die tree) := trivial
theorem residencySpill (core preg) : Statement (.residencySpill core preg) := trivial
theorem residencyFill (core preg off) : Statement (.residencyFill core preg off) := trivial
theorem residencyCopyComplete (core preg) : Statement (.residencyCopyComplete core preg) := trivial
theorem rangeWalkComplete (core va) : Statement (.rangeWalkComplete core va) := trivial
theorem rnginvComplete (agent) : Statement (.rnginvComplete agent) := trivial
theorem lcmremComplete (agent) : Statement (.lcmremComplete agent) := trivial
theorem compactionSwitch (die) : Statement (.compactionSwitch die) := trivial
theorem compactionComplete (die) : Statement (.compactionComplete die) := trivial
theorem epochChange (die) : Statement (.epochChange die) := trivial
theorem clockMessage (clock) : Statement (.clockMessage clock) := trivial
theorem coreAtRest (core) : Statement (.coreAtRest core) := trivial
theorem debugStopRequest (die g) : Statement (.debugStopRequest die g) := trivial
theorem debugCodeWrite (core addr data) : Statement (.debugCodeWrite core addr data) := trivial
theorem hgcGo (die g) : Statement (.hgcGo die g) := trivial
theorem cpbrkWrite (n v) : Statement (.cpbrkWrite n v) := trivial
theorem claim (m) : Statement (.claim m) := trivial
theorem offer (m dest) : Statement (.offer m dest) := trivial
theorem accept (m) : Statement (.accept m) := trivial
theorem release (m) : Statement (.release m) := trivial
theorem offerTimeout : Statement (.offerTimeout) := trivial
theorem domainWrite (v) : Statement (.domainWrite v) := trivial
theorem tbslewWrite (v) : Statement (.tbslewWrite v) := trivial
theorem tbstepWrite (v) : Statement (.tbstepWrite v) := trivial
theorem msixTrigger (w fn v) : Statement (.msixTrigger w fn v) := trivial
theorem coreReset (w core) : Statement (.coreReset w core) := trivial
theorem setReset (w set) : Statement (.setReset w set) := trivial
theorem queueResetComplete (isSet id) : Statement (.queueResetComplete isSet id) := trivial
theorem scanctlStart (w core v) : Statement (.scanctlStart w core v) := trivial
theorem traceOpen (die mask stop) : Statement (.traceOpen die mask stop) := trivial
theorem traceClose (die) : Statement (.traceClose die) := trivial
theorem ingressRouteWrite (w die src v) : Statement (.ingressRouteWrite w die src v) := trivial
theorem reductionTreeWrite (w die tree dw v) : Statement (.reductionTreeWrite w die tree dw v) := trivial
theorem ulmLoadWindowWrite (w core addr data) : Statement (.ulmLoadWindowWrite w core addr data) := trivial
theorem mmioRegisterWrite (w off size v) : Statement (.mmioRegisterWrite w off size v) := trivial
theorem grantResource (part r) : Statement (.grantResource part r) := trivial
theorem withdrawResource (part r) : Statement (.withdrawResource part r) := trivial
theorem lockInterface (part) : Statement (.lockInterface part) := trivial
theorem startInterface (part) : Statement (.startInterface part) := trivial
theorem stopInterface (part) : Statement (.stopInterface part) := trivial
theorem partitionError (part) : Statement (.partitionError part) := trivial
theorem attClear (step) : Statement (.attClear step) := trivial
theorem spdmRequest : Statement (.spdmRequest) := trivial
theorem deviceReset (env failNormal failAlt badCores) : Statement (.deviceReset env failNormal failAlt badCores) := trivial
theorem apertureAccess (vf secure off data n) : Statement (.apertureAccess vf secure off data n) := trivial
theorem eventPageWrite (vf die addr data) : Statement (.eventPageWrite vf die addr data) := trivial
theorem csi2EventPacket (port data crcOk) : Statement (.csi2EventPacket port data crcOk) := trivial
theorem csi2FrameStart (port vc) : Statement (.csi2FrameStart port vc) := trivial
theorem csi2FrameLine (port vc data crcOk) : Statement (.csi2FrameLine port vc data crcOk) := trivial
theorem csi2FrameEnd (port vc) : Statement (.csi2FrameEnd port vc) := trivial
theorem bridgeRetrain : Statement (.bridgeRetrain) := trivial
theorem bridgeRetrainComplete (ok) : Statement (.bridgeRetrainComplete ok) := trivial
theorem managementRead (off) : Statement (.managementRead off) := trivial
theorem illegalInstruction (w compact) : Statement (.illegalInstruction w compact) := trivial
theorem correctedError (die) : Statement (.correctedError die) := trivial
theorem powerOn : Statement (.powerOn) := trivial
theorem copyLineRelease (h) : Statement (.copyLineRelease h) := trivial
theorem compactionChunkCopy (die) : Statement (.compactionChunkCopy die) := trivial
theorem migrateForwardExpiry (i) : Statement (.migrateForwardExpiry i) := trivial
theorem csi2PacketDrop (port) : Statement (.csi2PacketDrop port) := trivial
theorem ingressTypeError (die port) : Statement (.ingressTypeError die port) := trivial
theorem mctpControlMessage : Statement (.mctpControlMessage) := trivial

end Sys2Proof.Laws.Encoded
end

