-- ==== Sys2Proof/Tests/Slice0.lean ====
section
/-! SUPPORT. The model's own tests: ill-formed terms that WellFormed refuses, the word of every encoded row, results of single
instructions taken from the spec's sentences, and for every statement with hypotheses a witness that meets them. -/

namespace Sys2Proof.Tests

set_option Elab.async false

open Sys2Proof Sys2Proof.Machine

/-! ### Small states: each helper sets what its name says and leaves the rest at reset -/

/-- A number from its fields, the highest first, each with its width in bits. -/
def bits (l : List (Nat × Nat)) : Nat := l.foldl (fun a e => a * 2 ^ e.2 + e.1) 0

/-- The state after an instruction, the same state for a stop. -/
def after (i : Instr) (s : State) : State := Out.stateOr (exec i s) s

def okD {α} (d : α) (r : Res α) : α := match r with | .ok a => a | .error _ => d

def wBy (a : Agent) (th : Thread) (mem : List Host.Cell := []) : State :=
  { State.reset with cur := a, thr := [(a.key, { th with st := .run })], mem := mem }

def wMem (l : Nat) (ws : List Word) (m : List Host.Cell := []) : List Host.Cell := Memory.writeN m l (wordsBytes ws)

def wTh (x : List (Nat × Word)) : Thread := { x := x }

def wRegs : List (Nat × Word) := [(1,5),(2,0x8000000000000000),(3,0xFFFFFFFFFFFFFFFF),(4,0x10),(5,0x11),(6,0x1000),(7,2^60)]

def wA : State := wBy (.thr 0 0) (wTh wRegs)

def wA6 : State := wBy (.thr 0 6) (wTh wRegs)

def wA7 : State := wBy (.thr 0 7) (wTh wRegs)

def wMS : State := wBy (.seq 0 0) (wTh wRegs)

def wLoop : State := wBy (.thr 0 0)
  { wTh wRegs with loopActive := true, loopLast := 0x40, pc := 0x40, loopReg := 1, loopStart := 0x20 }

def wRange : Range := { vbase := 0x200000, size := 0x1000, perm := 7, pbase := 0x200000 }

def withRange (s : State) (r : Range := wRange) : State :=
  { s with part := [(0, { ranges := [(0, some r)], state := .running, backing := [(0, 0x10000000)] })] }

def stAcc (s : State) (va : Word) (n : Nat) : Acc := okD {loc := 0} (s.storeCheck s.cur va n)

def ldAcc (s : State) (va : Word) (n : Nat) : Acc := okD {loc := 0} (s.resolve s.cur va n kindR)

def atAcc (s : State) (va : Word) (n : Nat) : Acc := okD {loc := 0} (s.atomPlace va n n)

def wHandler (h : Nat) (w : Word) (m : List Host.Cell := []) : List Host.Cell := wMem (2^48 + 0x8000 + 16 * h) [w] m

def wBlock (o : Nat) (ws : List Word) (m : List Host.Cell := []) : List Host.Cell := wMem (2^48 + 0x8000 + o) ws m

def wPool (m : List Host.Cell := []) : List Host.Cell := wBlock 0x1000 [0x9000, 0xA000 + 2 * 2^32, 0xF000] m

def bound (mask : Nat := 1) (prio : Nat := 3) : Word := ofN (0x9100 + mask * 2^44 + prio * 2^50 + 2^62)

def wCore : Core := { htab := 0x8000, started := true }

def wNet (k : Core) (m : List Host.Cell) (thr : List (Nat × Thread) := []) (mesh : List Msg := []) : State :=
  { State.reset with cur := .thr 5 0, core := [(0,k)], mem := m, thr := thr, mesh := mesh, timebase := 5000 }

def msgTo (h kind : Nat) : Msg := { hdr0 := mkHdr0 9 h 0 0 1 kind 2 0, payload := [5,6], src := 1, dst := 0 }

def loadResults1 : State := (wBy (.thr 0 0) (wTh [(2,0x10),(3,0x18),(4,0x10)]) (wMem 0x1000000000010 [0x8182838485868788]))

def storeResults1 : State := (wBy (.thr 0 0) (wTh [(1,0x8182838485868788),(2,0x10),(3,0x18),(4,0x10)]))

def j1 := withRange (wBy (.thr 0 0) (wTh [(1,0x8182838485868788),(2,0x2000F8),(3,0x2000F0),(4,0x200010)]))

def controlTransfers2 : State := (wBy (.thr 0 0) { wTh wRegs with pc := 0x100 })

def loopAndYield1 : State := (wBy (.thr 0 0) { wTh wRegs with pc := 0x100 })

def loopAndYield2 : State := (wBy (.thr 0 7) { wTh wRegs with pc := 0x100 })

def floatResults1 : State := (wBy (.thr 0 0)
  {(wTh wRegs) with f := [(1,0x3FF0000000000000),(2,0x4008000000000000),(3,0x7FF8000000000001),(4,0x3F800000)]})

def m4 := wMem 0x1000000000010 [5,6,7,8]

def o1 := wBy (.thr 0 0) {wTh wRegs with ox := [(1,11),(2,12),(3,13)]} m4

def journaled := wBy (.thr 0 0) { wTh wRegs with journal := [.store (2 ^ 48 + 16) 0 16 ((wordBytes 9).map some) 16 [] false] } m4

def aN := wBy (.thr 0 0) { wTh wRegs with actst := 4 } m4

def predicateResults1 : State := (wBy (.thr 0 0) {wTh [(1,5),(2,1000)] with p := [(1,0xFF00FF),(2,0x10)]})

def u1 := wBy (.thr 0 0) {wTh wRegs with utepc := 0x40, cellBusy := true}

def systemInstructions1 : State := { u1 with timebase := 7 }

def mkE (t0 : Thread) (k : Core) (disp : Word) : State :=
  { wA7 with thr := [(0,t0),(7,{st := .run, x := wRegs})], core := [(0,k)], mem := wMem (2^48 + 0x1388) [disp] }

def held0 : Thread := { st := .wait, wait := some {kind := .trapHeld}, epc := 0x44, x := wRegs, journal := [.dcdec 0 0 1] }

def it0 : Item := { kind := 0, thr := some 0, word := 0x123 }

def returnFromTrap1 : State := (mkE held0 { t7cur := some it0 } 0)

def returnFromTrap2 : State := (mkE held0 { t7cur := some it0 } 4)

/-- T7 ends its item for T0 with this code; the save area of T0 lies in a range. -/
def savesS (code : Nat) (t0 : Thread := { held0 with slot := some 2 }) : State :=
  withRange { mkE t0 { t7cur := some it0, inbox := [{ slot := 2, taken := true }] } (ofN code) with
    mem := wMem (2^48 + 0x1388) [ofN code] (wMem (2^48 + 0x1170) [0x200000]) } { wRange with size := 0x4000 }

/-- The same with code 3 for an activation whose NR is set. -/
def retiredS : State := savesS 3 { held0 with actst := 4 }

def returnFromTrap4 : State := (mkE held0 { t7q := [it0] } 0)

def mg :=
  { wBy (.thr 0 0) { wTh [(1,0),(2,1),(4,8)] with actst := 4, actid := 99 } with core := [(8,{asid := 1})], lcm := [(1, some 1)] }

def mg2 := { mg with lcm := [] }

def busy : State := { wA7 with thr := (0,{st := .run}) :: wA7.thr }

def returnFromTrap5 : State := (mkE { st := .saved, hosted := some { parked := true } }
  { t7cur := some { kind := 2, thr := none } } 5)

def v1 : VReg := 0x0102030405060708090A0B0C0D0E0FF00F80F17F80FF7F8081

def v2 : VReg := 0x7FFFFFFF80000000FF01FE02FD03FC04FB05FA06F907F808F709F60AF50BF40C

def vS := wBy (.thr 0 0)
  {wTh [(1,3),(2,0xFFFFFFFFFFFFFFFE)] with v := [(1,v1),(2,v2),(3,v1 <<< 500 ||| v2)], p := [(1,0xF0F0F0F0FFFF)]}

def vT := wBy (.thr 0 0)
  {wTh [(1,3),(2,2),(4,0x1000),(5,24)] with v := [(1,v1),(2,v2),(3,v1 <<< 500 ||| v2),(6,0x201000)], p := [(1,0xF0F0F0F0FFFF)]}
  (wMem (2^48+0x1000) [1,2,3,4,5,6,7,0x8182838485868788])

/-- The block at byte 24 of `v3` has the scale byte 0x3F. -/
def vBad := wBy (.thr 0 0) {wTh [(5,24)] with v := [(3,(63 : VReg) <<< 320)]}

def mm := wMem (2^48+0x1000) [1,2,3,4,5,6,7,0x8182838485868788,9,10]

def fS := wBy (.thr 0 0)
  {wTh [(1,3),(2,2),(4,0x1000),(5,24)] with f := [(1,0x1122334455667788)], ox := [(0,0x1000),(1,8),(2,8),(3,8),(4,8),(5,0x100000001),(6,0x100000004),(7,0xC00)], ss := [(1,{bound := true, counts := [3], write := true}),(2,{bound := true, write := true})]}
  mm

def floatLoadsStoresAndStreams1 : State := { fS with thr := [(0,{fS.me with ox := [(7,1)]})]}

def wd (len dc dh tag : Nat) : Word := ofN (len + dc * 2^33 + dh * 2^40 + tag * 2^48)

def sX : List (Nat × Word) := [(1,wd 2 5 7 9),(2,wd 0 5 7 9 ||| 0x20),(3, wd 8 5 7 9),(4,0x1000),(5,0x40),(6,wd 0 5 7 9 |||
  0x30), (8, 3)]

def cImg := wMem (2^48+0x1000) [0xFF, 0x0, 1,2,3,4,5,6,7,8]

def tree0 : Die := { trees := [(3,{dw0 := 1 <<< 63, members := 1})] }

def snd := { wBy (.thr 0 0) (wTh sX) cImg with die := [(0,tree0)] }

def sndN := { wBy (.thr 0 0) {wTh sX with actst := 4} cImg with die := [(0,tree0)] }

def snd7 := { wBy (.thr 0 7) (wTh sX) cImg with die := [(0,tree0)] }

def rS := wBy (.thr 0 0) (wTh [(1,0x500008),(2,0x500009),(3,2^27),(4,0x1000),(5,77)]) 

def rN := wBy (.thr 0 0) {wTh [(1,0x500008),(2,0x500009),(3,2^27),(4,0x1000),(5,77)] with actst := 4}

def qS (a : Agent) (t : Thread) (q : QReg) : State := match a with
  | .thr c _ => { wBy a t with core := [(c,{q := [(2,q)]})] }
  | .seq n _ => { wBy a t with sets := [(n,{q := [(2,q)]})] }

def qr (n : Nat) : QReg := { bound := true, producer := 0, consumer := 0, entries := List.replicate n (7,false) }

def qt := {wTh [(1,0x100),(3,0)] with actst := 4}

def queueRegisters1 : State := (qS (.thr 0 0) qt (qr 3))

def queueRegisters2 : State := (qS (.thr 0 0) qt (qr 16))

def queueRegisters3 : State := (qS (.thr 0 0) qt (qr 0))

def queueRegisters4 : State := (qS (.thr 0 0) qt {})

def queueRegisters5 : State := (qS (.thr 0 7) qt (qr 1))

def wsq := { wBy (.seq 0 0) {wTh [(10,77)] with } cImg with sets := [(0,{cur := [(0,some {seqNo := 4})], exits := [(0,[(3,1)])]})] }

def cp (t : Thread) (ce : CopyEngine := {}) : State :=
  { wBy (.thr 0 0) t (wMem (2^48+0x1000) [1,2,3]) with core := [(0,{ce := ce})] }

def cpT :=
  {wTh [(1,0x1000000000001),(3,0)] with actst := 4, ox := [(0,0x1000),(1,0x2000),(2,128 + (0xFF:Word) <<< 40 + (0xFF:Word) <<< 48),(3,0)] }

def c0 := cp cpT

def hb := c0.handleBase (.thr 0 0)

def c1 := cp {cpT with x := [(1,hb + 5)]} { seqNo := 5, live := [{handle := hb + 5, len := 64, prog := 32}] }

def cfg : Word := 0x2000 + 64 * 2^20 + 2 * 2^36

def rl (t : Thread) (ws : List Word) (by' : Agent := .thr 0 0) : State := wBy by' t (wMem (2^48+0x1000) ws)

def rT := {wTh [(1,0x1000),(2,cfg),(3,1)] with actst := 4}

def reels1 : State := (rl rT [])

def reels2 : State := (rl rT [cfg, (1 <<< 63) + 1 + 3 * 2^16, 5, 0, 1])

def reels3 : State := (rl rT [cfg, (1 <<< 63) + 1 + 3 * 2^16, 4, 0, 1])

def tk (t : Thread) (ws : List Word) (q : List (Nat × Option TaskQ) := []) (by' : Agent := .thr 0 0) : State :=
  { wBy by' t (wMem (2^48+0x1000) ws) with part := [(0,{queues := q})] }

def tT := {wTh [(1,5),(2,0x1000),(4,0x1008),(3,9)] with utvec := 0x500}

def e0 : QEntry := { words := [1,2,3,4,5,6,7,8] }

def tasksAndFutures1 : State := (tk tT [5,0,0,0,1,2,3,4])

def tasksAndFutures2 : State := (tk {tT with actst := 4} [5,0,0,0,1,2,3,4])

def tasksAndFutures3 : State := (tk tT [5,1])

def tasksAndFutures4 : State := (tk {tT with actst := 4} [5,1])

def tasksAndFutures5 : State := (tk {tT with actst := 4} [1,0] [(5,some {entries := []})])

def tasksAndFutures6 : State := (tk {tT with actst := 4} [1,0] [(5,some {entries := [e0]})])

def dieG (dc : List (Nat × DepCtr) := []) (bar : List (Nat × Barrier) := []) (sl : List (Nat × Slate) := []) : Die :=
  { grantDc := [(0,1)], grantBar := [(0,1)], grantSlate := [(0,1)], dc := dc, bar := bar, slate := sl }

def cS (a : Agent) (t : Thread) (d : Die) (others : List (Nat × Thread) := []) : State :=
  { wBy a t with die := [(0,d)], thr := (a.key, {t with st := .run}) :: others }

def cT := {wTh [(1,5),(2,2),(3,1 <<< 63),(4,0)] with ox := [(0,100),(1,200),(2,3)]}

def cN := {cT with actst := 4}

def countersBarriersSlates1 : State := (cS (.thr 0 0) cN (dieG [(5,{value := 2})]))

def countersBarriersSlates3 : State := (cS (.thr 0 0) cN (dieG [(5,{value := 3})]))

def countersBarriersSlates4 : State := (cS (.thr 0 0) cN (dieG [(5,{value := 3, poison := true})]))

def countersBarriersSlates5 : State := (cS (.thr 0 0) cT (dieG [(5,{value := 0})]))

def countersBarriersSlates7 : State := (cS (.thr 0 0) cN (dieG [] [(5,{n := 3, arrivals := 1, phase := 2})]))

def countersBarriersSlates8 : State := (cS (.thr 0 0) cN (dieG [] [(5,{n := 2, arrivals := 1, phase := 7})]))

def countersBarriersSlates9 : State := (cS (.thr 0 0) cN (dieG [] [(5,{n := 3, arrivals := 0, phase := 3, poison := true})]))

def slN := {cN with ox := [(0,100),(1,200),(2,3),(3,0)]}

def slC := {cN with ox := [(0,100),(1,200),(2,3),(3,1 <<< 35)]}

def countersBarriersSlates10 : State := (cS (.thr 0 0) slN (dieG))

def countersBarriersSlates11 : State := (cS (.thr 0 0) slC (dieG [] []
  [(5,{gen := 2, state := 1, tOpen := 1, tClose := 5, mask := 3})]))

def bmp (w : List Word) := wBy (.thr 0 0) {wTh [(1,0x1000),(2,2)] with actst := 4} (wMem (2^48+0x1000) w)

def countersBarriersSlates14 : State := (bmp [0x100,0x10F,8,3])

def r1 : Range := { vbase := 0x200000, size := 0x1000, perm := 7, pbase := 0x200000 }

def r2 : Range := { vbase := 0x201000, size := 0x1000, perm := 7, pbase := 0x201000, gen := 4 }

def rg (x : List (Nat × Word)) (rs : List (Nat × Option Range)) (m : List Word := []) (ox := [(3,(0:Word))]) : State :=
  { wBy (.thr 0 7) {wTh x with ox := ox} (wMem (2^48+0x1000) m) with part := [(0,{ranges := rs, backing := [(0,0x10000000)], state := .running})] }

def img : List Word := [0x300000, 0x1000, (7:Word) <<< 61 + 0x300000, 0]

def rangeQueueAndCoreTables1 : State := (rg [(1,0x200000),(2,128)] [(0,some r1),(1,some r2)])

def rangeQueueAndCoreTables2 : State := (rg [(1,0x200000),(2,0)] [(0,some r1)])

def rangeQueueAndCoreTables3 : State := (rg [(1,0x1000),(2,0x80)] [(0,some r1)] img)

def rangeQueueAndCoreTables4 : State := (rg [(1,0x1000),(2,0x80)] [(0,some {r1 with vbase := 0x300000})] img)

def rangeQueueAndCoreTables6 : State := (rg [(1,0x200000),(2,(2:Word) + 2^63)] [(0,some r1)])

def tq (x : List (Nat × Word)) (q : List (Nat × Option TaskQ)) : State :=
  { wBy (.thr 0 7) {wTh x with ox := [(0,0x777)]} with part := [(0,{queues := q})] }

def mapW : Word := (1:Word) <<< 60 + (4:Word) <<< 56

def rangeQueueAndCoreTables8 : State := (tq [(1,5),(2,mapW)] [])

def rangeQueueAndCoreTables9 : State := (tq [(1,5),(2,mapW)] [(5,some {})])

def rangeQueueAndCoreTables10 : State := (tq [(1,5),(2,1 <<< 63)] [(5,some {})])

def rangeQueueAndCoreTables11 : State := (tq [(1,5),(2,0)] [(5,some {})])

def rangeQueueAndCoreTables12 : State := (tq [(1,5),(2,1)] [(5,some {})])

def rangeQueueAndCoreTables13 : State := (tq [(1,5),(2,0)] [])

def rangeQueueAndCoreTables14 : State := {(tq [(1,5),(2,0)] []) with lcm := [(5,some 5)]}

def rangeQueueAndCoreTables16 : State := {(tq [(1,5),(2,1+256*5)] []) with lcm := [(5,some 5)]}

def n1 : Range := { vbase := 0x200000, size := 0x1000, perm := 6, pbase := 0x200000 }

def n2 : Range := { vbase := 0x300000, size := 0x1000, perm := 6, pbase := 0x300000 }

def tr : TreeRec := { v := true, dw0 := 128, npool := 0x200000, cap := 2, spool := 0x300000, nodes := 1, hepoch := 3 }

def cu : Cursor := { tree := 2, k := 0x77, depth := 4 }

def sn (by' : Agent) (x : List (Nat × Word)) (t : TreeRec) (m : List Word) (n : Node) : State :=
  { wBy by' {wTh x with actst := 4} (wMem (2^48+0x1000) m (wMem 0x200000 n.words)) with part := [(0,{ranges := [(0,some n1),(1,some n2)], trees := [(2,t)], state := .running, backing := [(0,0x10000000)]})] }

def nd : Node := { key := 0x77, v := true, depth := 4, holders := 1 }

def nA := (stAcc (sn (.thr 0 0) [] tr [] nd) 0x1000 128)

def trImg : List Word := [128, 0x200000, 2, 0x300000]

def cuH : Cursor := { cu with hv := true, hep := 3, held := 0 }

def continuityTree1 : State := (sn (.thr 0 0) [(1,0x1000),(2,2*256),(3,9)] tr [] nd)

def continuityTree2 : State := (sn (.thr 0 7) [(1,0x1000),(2,2*256+1),(3,9)] {} trImg nd)

def newTree : TreeRec := { v := true, dw0 := 128, npool := 0x200000, cap := 2, spool := 0x300000, hepoch := 1 }

def noTree : State := (sn (.thr 0 0) [(1,0x1000),(2,0),(3,0)] { tr with v := false } cu.words nd)

def continuityTree3 : State := (sn (.thr 0 7) [(1,0x1000),(2,2*256+2),(3,9)] tr [] {nd with holders := 0})

def continuityTree4 : State := (sn (.thr 0 0) [(1,0x1000),(2,2*256+3),(3,9)] tr [] nd)

def continuityTree5 : State := (sn (.thr 0 0) [(1,0x1000),(2,0x2000),(3,0)] tr cu.words nd)

def continuityTree6 : State := (sn (.thr 0 0) [(1,0x1000),(2,0x2000),(3,0)] tr cu.words {nd with key := 0x78, depth := 5})

def continuityTree7 : State := (sn (.thr 0 0) [(1,0x1000),(2,0x2000),(3,0)] {tr with dw0 := 128 + 4 * 2^48} cu.words nd)

def continuityTree8 : State := (sn (.thr 0 0) [(1,0x1000),(2,0),(3,0)] tr cuH.words nd)

def continuityTree9 : State := (sn (.thr 0 7) [(1,2),(2,1),(3,0)] tr cuH.words nd)

def continuityTree10 : State := (sn (.thr 0 0) [(1,0x1000),(2,0x2000),(3,0)] tr cuH.words {nd with ssize := 128})

def mhdr (f : Nat) := wMem (2^48+0x1000) [0x2000 + 64 * 2^20 + 2 * 2^36 + 2^40, (1 <<< 63), f, 0, 0] 

def mo (by' : Agent) (t : Thread) (bins : List (Nat × Bin)) (m := mhdr 0) : State :=
  { wBy by' t m with sets := [(0,{bins := bins})] }

def mcfg : Word := 3 + (2:Word) <<< 4 + 8 <<< 13 + 10 <<< 25

def moT := {wTh [(1,0x1000),(2,7),(3,3)] with actst := 4, ox := [(0,mcfg),(1,0x1000)]}

def montageBins1 : State := (mo (.thr 0 0) moT [])

def montageBins2 : State := (mo (.thr 0 0) moT [(3,{cfg := mcfg, state := 1})])

def montageBins4 : State := (mo (.thr 0 0) moT [(3,{cfg := mcfg, state := 2, hdrLoc := 2^48+0x1000, buf := some 0})] (mhdr 1))

def pmS (by' : Agent) (x : List (Nat × Word)) (t : Trace := {}) : State :=
  { wBy by' (wTh x) with timebase := 500, die := [(0,{trace := t})] }

def timeAndCounters1 : State := (pmS (.thr 0 7) [(1,3),(2,0x102),(3,1 <<< 63)])

def timeAndCounters2 : State := (pmS (.thr 0 0) [(1,3),(2,9)])

def timeAndCounters3 : State := (pmS (.thr 0 0) [(1,3)] {status := 1, mask := 1, live := 1})

def mx (q : Nat) (t : Thread) (k : SetSt) : State := { wBy (.seq 0 q) t with sets := [(0,k)] }

def mxT :=
  {wTh [(1,0x1000),(2,7),(3,3)] with ox := [(0,0), (2,1), (4,64),(5,4 + 4 * 2^18 + (7:Word) <<< 31),(6,0),(7,0)], p := [(1,0xF)]}

def wbD : Word := 8 + 2 * 2^9

def matrixQueues1 : State := (mx 1 mxT {})

def matrixQueues2 : State := (mx 1 mxT {engQ := [{serial := 3}], serial := 4})

def matrixQueues3 : State := (mx 0 mxT {})

def matrixQueues4 : State := (mx 0 {mxT with ox := [(0,wbD),(1,64),(2,0)]} {})

def matrixQueues5 : State := (mx 0 {mxT with ox := [(0,wbD),(1,512),(2,0)]} {})

def matrixQueues6 : State := (mx 0 {mxT with ox := [(0,wbD + 2^21),(1,64),(2,5)]} {})

def fk (q : Agent) (t : Thread) (k : SetSt) : State := { wBy q t with sets := [(0,k)] }

def fkT := {wTh [(1,0x100),(2,7),(3,(1:Word) <<< 62 + 5),(4,2)] with ox := [(0,3)], p := [(1,0xF)], actst := 4}

def sequencersAndSemaphores1 : State := (fk (.thr 0 0) fkT {})

def sequencersAndSemaphores2 : State := (fk (.seq 0 1) fkT {forkSeq := [(1,9)], lastEnded := [(1,3)]})

def sequencersAndSemaphores3 : State := (fk (.thr 0 0) fkT
  {forkSeq := [(1,9)], lastEnded := [(1,5)], exits := [(1,[(5,77)])], sem := [(2,3),(3,0xFFFF)], forkQ := [(0,List.replicate 16 {}),(1,[]),(2,[])]})

def rep : Msg :=
  { hdr0 := mkHdr0 3 0 0 0 1 4 1 0, hdr1 := ofN (2 * 2^61 + 5 * 2^48), payload := [0x55], src := 1, dst := 0, received := true }

def ret : Msg :=
  { hdr0 := mkHdr0 3 0 0 0 1 0 2 4 ||| 0x100, hdr1 := ofN (2 * 2^61 + 5 * 2^48), payload := [0x55,6], src := 1, dst := 0, received := true }

def edg : Msg :=
  { hdr0 := mkHdr0 3 0 0 0 1 6 2 4 ||| 0x100, hdr1 := ofN (7 * 2^61 + 6 * 2^48), payload := [0x55,6], src := 1, dst := 148 }

def th2 : Thread := { st := .run, gen := 5, outst := [{tag := 3, rd := 4, gen := 5}] }

def messageEvents1 : State := { State.reset with core := [(0,{sendBuf := [msgTo 1 0], niWait := []})] }

def messageEvents2 : State :=
  { State.reset with core := [(0,{sendBuf := [], niWait := [(3,msgTo 1 0)]})], thr := [(3,{st := .wait, wait := some {kind := .send}})] }

def messageEvents3 : State := (wNet wCore (wPool (wHandler 1 bound)) [] [msgTo 1 0])

def messageEvents4 : State := (wNet {wCore with started := false} (wPool (wHandler 1 bound)) [] [msgTo 1 0])

def messageEvents5 : State := (wNet {wCore with inbox := [{slot := 0, msg := msgTo 1 0}]} (wPool (wHandler 1 ((3:Word) <<< 62))))

def messageEvents6 : State := (wNet {wCore with inbox := [{slot := 0, msg := msgTo 1 0, readySince := 9, notBefore := some 3}]}
  (wPool (wHandler 1 bound)))

def messageEvents7 : State := {(wNet wCore (wPool (wHandler 1 bound))) with part := [(0,{pend := [(0,[msgTo 1 0])]})]}

def messageEvents8 : State := (wNet wCore (wPool) [(2,th2)] [rep])

def messageEvents9 : State := (wNet wCore (wPool) [(2,th2)] [ret])

def messageEvents10 : State := (wNet wCore [] [] [edg])

def im (m : Msg) : InMsg := { slot := 0, msg := m, readySince := 4 }

def im7 : Msg := msgTo 1 0

def activationEvents1 : State := (wNet {wCore with inbox := [im im7]} (wPool (wHandler 1 bound)))

def jS := JEntry.store (2^48+0x1000) 0 0x1000 ((wordBytes 0x1122).map some) 16 [] false

def en (j : List JEntry) : State := wNet {wCore with inbox := [{slot := 2, msg := im7, taken := true}]} wPool
  [(0,{st := .wait, wait := some {kind := .ending none}, journal := j, slot := some 2})]

def activationEvents2 : State := (en [])

def activationEvents3 : State := (en [jS])

def activationEvents4 : State :=
  { (wNet wCore [] [(0,{st := .run, launch := true, deadline := 70}),(6,{st := .run}),(1024,{st := .run})]) with sets := [(0,{cur := [(0,some {seqNo := 3})]})], migrants := [{src := 1, dest := 3}], forwards := [{upTo := 77}] }

def rq (code : Nat) (ws : List Word) : Msg := { hdr0 := mkHdr0 9 0 0 0 1 3 3 code, payload := ws, src := 1, dst := 0 }

def t6s (m : Msg) (v : Word) := wNet {wCore with t6q := [m]} (wPool (wHandler 1 bound (wMem (2^48+0x1000) [v])))

def activationEvents5 : State := (t6s (msgTo 1 0) 0)

def activationEvents6 : State := (t6s (rq 8 [0x1000]) 5)

def activationEvents7 : State := (t6s (rq 9 [0x1000,6]) 5)

def activationEvents8 : State := (t6s (rq 10 [0x1000,6,5]) 5)

def activationEvents9 : State := (t6s (rq 10 [0x1000,6,5]) 7)

def activationEvents10 : State := (t6s (rq 16 [0x1000,6,1]) 5)

def ce (k : Core) (thr : List (Nat × Thread)) (m := wPool (wHandler 1 bound)) : State := wNet
  {k with htab := 0x8000, started := true} m thr

def serviceEvents1 : State := (ce {inbox := [{slot := 2, msg := im7, taken := true}]}
  [(0,{st := .run, slot := some 2, pendTrap := [{code := Cause.uncorrectable}]})])

def serviceEvents2 : State := (ce {inbox := [{im im7 with readySince := 1}]} [(0,{st := .run, prio := 1})])

def serviceEvents3 : State := (ce {} [(0,{st := .wait, wait := some {kind := .saving true}})])

def serviceEvents4 : State := (ce {} [(0,{st := .saved, hosted := some {}})])

def serviceEvents5 : State := (ce {} [(0,{st := .saved, restoring := true, hosted := some {}})])

def serviceEvents6 : State := (ce {t7q := [{kind := 0}]} [])

def serviceEvents7 : State := (ce {ckstat := 1} [(0,{st := .run})])

def serviceEvents9 : State :=
  {(ce {scan := some {rd := some 4}, t7q := [{kind := 3}]} [(7,{st := .wait, wait := some {kind := .scan, rd := 4}})]) with timebase := 300000}

def serviceEvents10 : State := (ce {stop := some {}} [(0,{st := .stopped})])

def wt (w : WaitKind) (d : List (Nat × Die) := []) (sets : List (Nat × SetSt) := []) (m : List Host.Cell := []) (core : Core :=
  {}) (rel := false) : State :=
  { State.reset with cur := .thr 5 5, thr := [(2,{st := .wait, pc := 0x40, wait := some {kind := w, rd := 3, released := rel}})], die := d, sets := sets, mem := m, core := [(0,core)], timebase := 500 }

def waitEvents1 : State := (wt (.time 100 false false))

def waitEvents2 : State := (wt (.dc 0 5 5))

def waitEvents3 : State := (wt (.dc 0 5 5) [(0,{dc := [(5,{poison := true})]})])

def waitEvents4 : State := (wt (.bar 0 5 0 5) [(0,{bar := [(5,{phase := 4})]})])

def waitEvents5 : State := (wt (.bar 0 5 0 5) [(0,{bar := [(5,{phase := 4, poison := true})]})])

def waitEvents6 : State := (wt (.slate 0 5 0 5) [(0,{slate := [(5,{gen := 4, state := 0})]})])

def waitEvents7 : State := (wt (.slate 0 5 0 5) [(0,{slate := [(5,{gen := 4, state := 2})]})])

def waitEvents8 : State := (wt (.reel (2^48+0x1000)) [] [] (wMem (2^48+0x1000) [0x2000 + 64 * 2^20 + 2 * 2^36, (1 <<< 63) + 1,
  1, 0, 1]))

def waitEvents9 : State := (wt (.qget 0 4) [] [] [] {q := [(4,{bound := true, producer := 2, consumer := 2, entries := [(7,false),(8,false)]})]})

def qp :=
  { State.reset with cur := .thr 5 5, thr := [(2,{st := .run, pc := 0x40, wait := some {kind := .qput 0 4 77, rd := 3}})], core := [(0,{q := [(4,{bound := true, producer := 2, consumer := 2, entries := [(7,false),(8,false)]})]})] }

def waitEvents10 : State := (wt (.join 0 1 5) [] [(0,{lastEnded := [(1,6)], exits := [(1,[(5,99)])]})])

def waitEvents11 : State := (wt (.sem 0 4 2) [] [(0,{sem := [(4,3)], semLine := [(4,some 2,2)]})])

def waitEvents12 : State := (wt (.sem 0 4 2) [] [(0,{flagPend := [3,4], sflags := 8})])

def se (k : SetSt) (m : List Host.Cell := []) (thr : List (Nat × Thread) := []) : State :=
  { State.reset with cur := .thr 5 5, sets := [(0,k)], mem := m, timebase := 500, thr := thr }

def rx : RowXfer := { core := 1, tid := 2, bin := 3, data := [1,2,3,4,5,6,7,8], tag := 9, op := 4 }

def bc (n : Nat) : Bin := { cfg := ofN (3 + n * 16 + 8 * 2^13 + 10 * 2^25), hdrLoc := 2^48 + 0x1000 }

def rh (f : Nat) := wMem (2^48+0x1000) [0x2000 + 64 * 2^20 + 2 * 2^36 + 2^40, (1 <<< 63), ofN f, 0, 0]

def setEvents1 : State := (se {rowXfers := [rx], bins := [(3,{bc 2 with state := 0})]})

def setEvents2 : State := (se {rowXfers := [rx], bins := [(3,{bc 2 with state := 3})]} (rh 0))

def setEvents3 : State := (se {rowXfers := [rx], bins := [(3,{bc 2 with state := 1})]} (rh 0))

def setEvents4 : State := (se
  {rowXfers := [rx], bins := [(3,{bc 2 with state := 1})], bufs := (List.range 32).map fun i => (i,{held := true})} (rh 0))

def setEvents5 : State := (se {rowXfers := [rx], bins := [(3,{bc 3 with state := 2, rows := 1, buf := some 4, first := 450})]} (rh 0))

def mulE : EngEntry := { serial := 4, op := .mul 1 0 (2 + 4 * 2^9 + 2 * 2^18) 0 0 }

def wb2 : WbSlot := { hdr := ofN (2^63 + 4 + 2 * 2^9), cols := [(0,[1,2,3,4]),(1,[5,6,7,8])] }

def st2 : AStage := { hdr := ofN (2^63 + 2 + 4 * 2^17), rows := [(0,[1,1,1,1]),(1,[2,2,2,0xFF])] }

def ld : LoadEntry := { serial := 2, target := .wb 1, desc := 4 + 2^9, parts := [(0,0x1000,4,0,0)] }

def msM := wMem (2^48+2^27+0x1000) [0x0102030405060708]

def setEvents7 : State := (se {forkQ := [(0,[{entry := 0x100, arg := 5, seqNo := 2}])]})

def setEvents8 : State := (se {engQ := [mulE], wb := [(0,wb2)], stages := [(0,st2)]})

def setEvents9 : State := (se {engQ := [{mulE with streaming := true, flags := 1, op := .mul 1 0 0 0x80 0}]})

def setEvents11 : State := (se {loadQ := [ld]})

def setEvents12 : State := (se {loadQ := [{ld with started := true}]} msM)

def setEvents13 : State := (se {loadQ := [{ld with started := true, parts := [(0,0x200000,4,0,0)]}]})

def setEvents16 : State :=
  {(se {loadQ := [{ld with started := true, parts := [(0,0x200000,4,0,0)]}]}) with part := [(0,{ranges := [(0,some {vbase := 0x200000, size := 0x1000, perm := 7, partialRes := true})]})]}

def setEvents17 : State := (se {engQ := [{serial := 4, op := .zero 1}], tiles := [(65536, 5)], tfw := [(1,3)]})

def e0' : Agent := .thr 0 0

def cpS (c : Copy) (m : List Host.Cell := []) (parts : List (Nat × Part) := []) : State :=
  { State.reset with cur := .thr 5 0, thr := [(0,{st := .run})], core := [(0,{ce := {seqNo := 9, live := [c]}})], mem := m, part := parts }

def hb_u15 := State.reset.handleBase (.thr 0 0)

def sg (l n : Nat) (rid : Option Nat := none) (va : Word := 0): Seg := { off := 0, loc := l, len := n, rid := rid, va := va }

def cA : Copy := { handle := hb_u15 + 5, len := 8, src := [sg (2^48+0x1000) 8], dst := [[sg (2^48+0x2000) 8]], started := true }

def cF : Copy := { cA with state := .fault, cause := 3, prog := 4 }

def cN_u15 : Copy := { cA with started := false }

def cE : Copy := { cA with prog := 8 }

def m8 := wMem (2^48+0x1000) [0x1122334455667788]

def prt : Part :=
  { ranges := [(0, some {vbase := 0x200000, size := 0x1000, perm := 7, pbase := 0x200000, partialRes := true})], state := .running, backing := [(0,0x10000000)] }

def cH : Copy := { cA with src := [{loc := 0x200000, len := 8, va := 0x200000, rid := some 0}] }

def copyEvents2 : State := (cpS cF m8)

def copyEvents3 : State := (cpS cN_u15 m8)

def copyEvents4 : State := (cpS cE m8)

def copyEvents5 : State := (cpS cH m8 [(0,prt)])

def copyEvents7 : State := (cpS cE m8)

def copyEvents8 : State := (cpS cH m8 [(0,prt)])

def pz : State := { cpS cA m8 with poison := [((2^48+0x1000)/32, true)] }

def copyEvents9 : State := (cpS cA m8)

def pr (st : Nat) (l : List Copy := []) (thr : List (Nat × Thread) := []) : State :=
  { State.reset with cur := .thr 5 0, thr := thr, core := [(0,{htab := 0x8000, ce := {live := l}})], part := [(0,{prt with ranges := [(0, some {vbase := 0x200000, size := 0x1000, perm := 7, pbase := 0x200000})]})], mem := wMem (2^48+0x8000+0x1040) [ofN (0x9000 + 128 * 2^20 + 2^61 + st * 2^62), 0x200000] }

def rq_u15 (fill : Bool) : CopyReq := okD {src := [], dst := [], len := 0} ((pr 2).residencyReq 0 0 fill 0)

def copyEvents11 : State := (pr 2)

def ssS (st : Stream) : State := wBy (.thr 0 0) { wTh [] with ss := [(0,st)]} m8

def rdS : Stream := { bound := true, base := 0x1000, strides := [8], counts := [4] }

def wrS : Stream :=
  { bound := true, write := true, base := 0x1000, strides := [8], counts := [4] }

def pushW : PushWrite := { loc := 2^48+0x1008, bytes := [1,2] }

def copyEvents17 : State := (ssS rdS)

def copyEvents18 : State := { ssS wrS with core := [(0, { pushQ := [pushW] })] }

def hb_u15c := State.reset.handleBase (.thr 0 0)

def cA_u15c : Copy :=
  { handle := hb_u15c + 5, len := 8, src := [sg (2^48+0x1000) 8], dst := [[sg (2^48+0x2000) 8]], started := true }

def cR_u15c (f : Bool) : Copy := { cA_u15c with handle := (pr 2).residencyHandle 0 0, prog := 8, role := .residency 0 0 f }

def w' : State := pr 3 [cR_u15c true] [(0,{st := .wait, wait := some {kind := .residency 0 false}})]

def adv (s : State) : State × Agent × Copy := (s.copyAdvanced (s.residencyHandle 0 0)).getD (s,.thr 0 0,{})

def copyEvents19 : State := (adv w').1

def lw (h : Nat) (blk : Word := 0) : List Word := [ofN (h + 5 * 2^34), 7, blk, 0, 1, 2, 3, 4]

def rcbM (bud hid h cores : Nat) (low high : Nat := 0) (mm : Nat := 0xFF000000000000) : List Host.Cell := wMem 0x200000 [0, ofN
  (2^63 + 2^62 + 2^44), 0, ofN (bud * 2^48), 0, 0, ofN (2^63 + h * 2^27 + hid * 2^19 + low * 2^39 + high * 2^51), ofN mm, ofN
  cores, 0]

def qs (q : List (Nat × Option TaskQ)) (mesh : List Msg := []) (m : List Host.Cell := rcbM 10 1 5 3) (die : Die := {}) (core :
  List (Nat × Core) := []) : State :=
  { State.reset with cur := .thr 9 0, core := core, timebase := 900000, mem := m, mesh := mesh, die := [(0,die)], part := [(0,{state := .running, queues := q, ranges := [(0, some {vbase := 0x200000, size := 0x1000, perm := 7, pbase := 0x200000})], backing := [(0,0x10000000)]})] }

def lm (h : Nat) (blk : Word := 0) : Msg := { hdr0 := mkHdr0 h 0 0 0 1 5 8 1, payload := lw h blk, src := 1, dst := 144 }

def emm (h : Nat) : Msg := { hdr0 := mkHdr0 h 0 0 0 1 5 8 0, payload := lw h, src := 1, dst := 144 }

def qR : TaskQ := { disc := 1, rcb := 0x200000 }

def qF : TaskQ := {}

def full (q : TaskQ) : TaskQ := {q with log2d := 0, entries := [{}]}

def scheduleEvents1 : State := (qs [] [lm 5])

def scheduleEvents2 : State := (qs [(5,some qF)] [lm 5])

def scheduleEvents3 : State := (qs [(5,some qR)] [lm 5])

def scheduleEvents4 : State := (qs [(5,some (full qR))] [lm 5])

def scheduleEvents5 : State := (qs [] [emm 5])

def scheduleEvents6 : State := (qs [(5,some qF)] [emm 5])

def scheduleEvents7 : State := (qs [(5,some (full qF))] [emm 5])

def scheduleEvents8 : State := (qs [(5,some qR)] [emm 5])

def fi (k : CpPkt) (q : List (Nat × Option TaskQ)) (brk : List (Nat × Word) := []): State :=
  { (qs q [] (die := {cpFifo := [k]})) with cpbrk := brk }

def pk : CpPkt := { fn := 1, words := lw 5 }

def s1F : State :=
  match ((fi pk [(5,some qR)]).cpAcquire 0 pk qR).acceptLaunch 0 5 pk.words true false with | .ok t => t | .error _ => State.reset

/-- The CP of die 0 has no room for a packet. -/
def cpFull : State := qs [] (die := { cpFifo := List.replicate 256 pk })

/-- The die bridge retrains. -/
def bridgeDown : State := { qs [] with retraining := true }

def scheduleEvents9 : State := (fi pk [(5,some qR)])

def scheduleEvents10 : State := (fi pk [])

def blkW : Word := ofN (2^63 + 3)

def eB : QEntry := { words := lw 5 blkW, blocked := true, order := 4 }

def eO : QEntry := { words := lw 5, order := 3, prio := 5 }

def qB : TaskQ := { qR with entries := [eB] }

def qO : TaskQ := { qR with entries := [eO, {eO with order := 6}], reports := [{core := 0, tid := 2}] }

def cs : List (Nat × Core) := [(0,{started := true, assigned := true, htab := 0x8000})]

def scheduleEvents13 : State := (qs [(5,some qB)])

def scheduleEvents14 : State := (qs [(5,some qB)] (die := {dc := [(3,{value := 2, poison := true})]}))

def scheduleEvents15 : State := (qs [(5,some qO)] (core := cs))

def hM := wHandler 1 (bound 1) (wPool (rcbM 10 1 5 3))

def qE : TaskQ := { qR with reports := [{core := 1, tid := 2}] }

def scheduleEvents16 : State := (qs [(5,some qE)] [] hM (core := cs))

def twoR (mm : Nat) : List Host.Cell := wMem 0x200000 [0, ofN (2^63 + 2^62), 0, 0, 0, 0, ofN (2^63 + 5 * 2^27 + 1 * 2^19 + 4 *
  2^39 + 8 * 2^51), ofN mm, 3, 0] (wMem 0x200080 [0, ofN (2^63 + 2^62), 0, 0, 0, 0, ofN (2^63 + 6 * 2^27 + 1 * 2^19 + 2 * 2^39 +
  3 * 2^51), ofN mm, 12, 0])

def q6 : TaskQ := { disc := 1, rcb := 0x200080 }

def gS : State := qs [(5,some qR),(6,some q6)] [] (twoR (4 * 2^48)) (die :=
  {gaf := [{part := 0, qh := 6, samples := List.replicate 10 9},{part := 0, qh := 5, samples := List.replicate 10 0}]})

def ev (t : Nat) (src : Nat := 3): EvPkt := { w0 := ofN (t * 2^56 + src * 2^48 + 1000), w1 := 77 }

def ig (k : EvPkt) (r : Option Nat := none) (pp : Nat := 1) (sl : Slate := {}) : State := qs [] [] [] (die := {fifos := [(0,[k])], routes := match r with | some w => [(3,ofN w)] | none => [], portPart := [(0,pp)], slate := [(0,sl)]})

def rt : Nat := 2^63 + 2 * 2^36 + 9 * 2^43

def rs : Nat := rt + 2^62

def slo : Slate := { state := 1, tOpen := 1, tClose := 1000000, mask := 8, ctl := 0 }

def scheduleEvents18 : State := (ig (ev 1) none 0)

def scheduleEvents19 : State := (ig (ev 1))

def scheduleEvents20 : State := (ig (ev 1) (some rt))

def scheduleEvents22 : State := (ig (ev 0))

def scheduleEvents23 : State := (ig (ev 3))

def scheduleEvents24 : State := (ig (ev 2) (some rs) 1 slo)

def sT (x : Slate) : State := qs [] [] [] (die := {slate := [(0,x)]})

def rd (t : RedTree) : State := qs [] [] [] (die := {trees := [(0,t)]})

def t0 : RedTree :=
  { dw0 := ofN (2^63 + 3 * 2^49), members := 0b1010, inputs := [(8*3+4,(7:Word),0,false),(8*1+4,(9:Word),0,false)] }

def scheduleEvents27 : State := (sT {slo with tClose := 5})

def scheduleEvents28 : State := (rd t0)

def scheduleEvents29 : State := (rd {t0 with result := some (5,1,true)})

def t1 : RedTree :=
  { dw0 := ofN (2^63 + 1 * 2^49 + 2^56), members := 0b1010, inputs := [(8*1+4,(9:Word),0,false),(8*1+portFrom 1 2,(11:Word),0,false)] }

def scheduleEvents30 : State := (rd t1)

def scheduleEvents33 : State := (ig (ev 1) (some rs) 1 {slo with state := 0, tClose := 2000000})

def rng0 : Range := {vbase := 0x200000, size := 0x1000, perm := 7, pbase := 0x200000}

def tb (core : Core) (w : Option WaitKind := none) (cm : Option Compaction := none) (r := rng0) : State :=
  { State.reset with cur := .thr 9 0, thr := [(2,{st := .wait, wait := w.map fun k => {kind := k, rd := 3}})], core := [(0,core)], timebase := 900000, mem := wMem 0x200000 [1,2,3], die := [(0,{compact := cm})], part := [(0,{state := .running, ranges := [(0, some r)], backing := [(0,0x10000000)]})] }

def cmpn : Compaction := { part := 0, rid := 0, newBase := 0x400000 }

def tableEvents1 : State := (tb {})

def tableEvents3 : State := (tb {} (some (.rnginv 0x200000 0x201000 false)))

def tableEvents5 : State := (tb {} (some .lcmrem))

def tableEvents6 : State := (tb {} none (some cmpn))

def tableEvents7 : State := (tb {} none (some {cmpn with prog := 0x1000}))

def tableEvents8 : State := (tb {} none (some {cmpn with prog := 0x1000, switched := true}))

def own : Word := ofN (2^63)

def ow (s : State := State.reset) : State := { s with cur := .thr 9 0, owner := own, timebase := 5000 }

def ow1 : State := { ow with owner := ofN (2^63 + 2^60) }

def offd : State := { ow with owner := ofN (2^63 + 2^62 + 2 * 2^58), offerAt := 100 }

def offL : State := { offd with timebase := 200000000 }

def run0 : Part := { state := .running, backing := [(0,0x10000000)], keys := [5] }

def asg : Core := { assigned := true, started := true, htab := 0x8000 }

def deviceEvents1 : State := {ow with part := [(0,run0)]}

def dbgS : State := { ow with core := [(2,asg)], part := [(0,{run0 with dbg := true})] }

def lk : State := { ow with core := [(2,{assigned := true, htabInit := 0x8000})], part := [(0,{run0 with state := .locked})] }

def rst : State :=
  { ow with core := [(2,{asg with resetting := true, inbox := [{}], t7q := [{kind := 0}]})], sets := [(1,{resetting := true, assigned := true, loadQ := [{}]})], part := [(0,run0)] }

def wd_u20 : State :=
  { ow with core := [(2,{asg with started := false})], sets := [(1,{assigned := true})], part := [(0,{keys := [5]})], cpbrk := [(5, ofN (2^63 + 2^61))], die := [(0,{portPart := [(0,1)], hgm := [(2,1)], hgc := [(0, ofN 4)], cpHalted := true})] }

def d16 : List Byte := (List.range 16).map fun i => BitVec.ofNat 8 i

def hp : Part :=
  { state := .running, backing := [(0,0x10000000)], ranges := [(0, some {vbase := 0x200000, size := 0x1000, perm := 7, pbase := 0x200000})] }

def hs : State := { ow with part := [(0,hp)], mem := wMem 0x200000 [5,6], die := [(0,{portPart := [(4,1),(0,1)]})] }

def acc0 : Acc := { loc := 0x200008 }

/-- A device with its bridge up. -/
def hostUp : State := ow

def hostEvents2 : State := {ow with retraining := true}

def fr_u22 : State :=
  { hs with keys := [(5,some 1)], part := [(0,{hp with secure := true, keys := [5], ranges := [(0, some {vbase := 0x200000, size := 0x10000, perm := 7, pbase := 0x200000, world := true, key := 5})]})], frameTgt := [(0,0x200000),(1,ofN (2^63 + 0x400 * 2^32 + 64 * 2^16)),(2,0),(3,0)] }

def fr2_u22 : State := { fr_u22 with frames := [(0,{active := true, buf := 0x200000})] }

/-- A copy owns the line to which the frame's next line goes. -/
def frOwned : State :=
  { fr2_u22 with core := [(0, { ce := { live := [{ handle := 5, len := 128, dst := [[{ loc := 0x200000, len := 128 }]] }] } })] }

def branchZero : State := wBy (.thr 0 0) { wTh [(1,0)] with pc := 0x100 }

def readyT6 : State := { State.reset with thr := [(6,{st := .run}),(3,{st := .run})] }

def readyT5 : State := { State.reset with thr := [(5,{st := .run}),(3,{st := .run,yielded := true})] }

def cpymT : Thread :=
  {wTh [(1,0x1000000000001),(3,0)] with actst := 4, ox := [(0,0x1000),(1,0x2000),(2,128 + (0xFF:Word) <<< 40),(3,0),(4,3),(5,0)] }

def cpymS : State :=
  { wBy (.thr 0 0) cpymT (wMem (2^48+0x1000) [1,2,3]) with core := [(0,{asid := 0, assigned := true}),(1,{asid := 0, assigned := true})] }

def cuL : Cursor := { cu with logBase := 0x1200, logPtr := 0x1230, logEnd := 0x1400 }

def findS : State :=
  { (sn (.thr 0 0) [(1,0x1000),(2,0x2000),(3,0)] tr cuL.words nd) with mem := wMem (2^48+0x1000) cuL.words (wMem (2^48+0x1200) [4,0x77,0,0,0,0] (wMem 0x200000 nd.words)) }

def setEventsx1 : State := (se {rowXfers := [rx], bins := [(3,{bc 2 with state := 2, rows := 1, buf := some 4})]} (rh 1))

def setEventsx2 : State := (se {rowXfers := [rx], bins := [(3,{bc 2 with state := 2, rows := 1, buf := some 4, first := 450})]} (rh 1))

def scheduleEventsx1 : State := (fi pk [(5,some qR)] [(0, ofN (2^63 + 5))])

def accR : Acc := match hs.inbound 0 false kindR 0x200008 8 with | some a => a | none => acc0

def hostEventsx1 : State := {hs with die := []}

/-- A store at issue to a core's own memory. -/
theorem atIssue_ulm {s : State} {ea : Word} {n : Nat} {acc : Acc}
    (h : ea.toNat % n = 0 ∧ s.storeCheck s.cur ea n = .ok acc ∧ s.journaled s.cur acc.loc = false ∧ s.blocked acc.loc n true = false ∧
      s.acrossBridge s.cur.dieNo acc.loc = false ∧ placeOf acc.loc = .ulm) : AtIssue s ea n acc :=
  ⟨h.1, h.2.1, h.2.2.1, h.2.2.2.1, h.2.2.2.2.1, Or.inl h.2.2.2.2.2⟩

/-! ### Well-formedness: an ill-formed term for each check is refused -/

theorem test_wellformed_refuses :
    [Instr.fadd 1 2 3 5 0, .fcvti 1 2 4 0 0, .vredsum 1 2 2 0 0, .vcvt 1 2 0xF 0 2, .vnarrow 1 2 3 0 0 3, .vpwl 1 2 7 0, .vsupd 28 1 2 0,
      .mfs 1 0x555, .mts 1 7, .vprune 4 9 0, .amoadd 1 2 3 21, .fence 0 0, .fence 1 6, .icinv 1 2 3 5, .ramo 1 2 3 9, .qlen 1 8,
      .oxld 6 1 2, .oxset 8 1, .pand 8 1 2, .pset 8 0 0, .mxcfg 8, .mxldb 16 1, .mxstg 4 1, .mxmul 8 0, .sempost 16 1, .stcfg 4,
      .ststat 1 4, .loopI 0 4, .loopI 3 1, .cMv 0 1, .cJmpr 0, .cLdx 0 1].all (fun i => !i.wellFormed) = true := by
  decide +kernel

theorem test_wellformed_accepts :
    [Instr.fadd 1 2 3 7 0, .fcvti 1 2 3 4 1, .vredsum 1 2 3 0 1, .vcvt 1 2 0xA 0 2, .vpwl 1 2 26 0, .mfs 1 0x300, .vprune 4 9 1,
      .amoadd 1 2 3 20, .fence 4 5, .ramo 1 2 3 8, .oxld 0 1 7, .loopI 3 2, .cMv 1 0].all (fun i => i.wellFormed) = true := by
  decide +kernel

/-! ### Decoding: for every row with a word of its own, the word that the spec's encoding gives it, field by field from bit 31
(or 15) down, each with its width (R48, R51 to R57) -/

theorem test_decode_integer :
    ∀ e ∈ ([
      (bits [(3, 2), (1, 6), (3, 5), (5, 5), (7, 5), (0, 9)], .add 3 5 7),
      (bits [(3, 2), (1, 6), (3, 5), (5, 5), (7, 5), (1, 9)], .sub 3 5 7),
      (bits [(3, 2), (1, 6), (3, 5), (5, 5), (7, 5), (2, 9)], .addw 3 5 7),
      (bits [(3, 2), (1, 6), (3, 5), (5, 5), (7, 5), (3, 9)], .subw 3 5 7),
      (bits [(3, 2), (1, 6), (3, 5), (5, 5), (7, 5), (4, 9)], .and 3 5 7),
      (bits [(3, 2), (1, 6), (3, 5), (5, 5), (7, 5), (5, 9)], .or 3 5 7),
      (bits [(3, 2), (1, 6), (3, 5), (5, 5), (7, 5), (6, 9)], .xor 3 5 7),
      (bits [(3, 2), (1, 6), (3, 5), (5, 5), (7, 5), (7, 9)], .andn 3 5 7),
      (bits [(3, 2), (1, 6), (3, 5), (5, 5), (7, 5), (8, 9)], .orn 3 5 7),
      (bits [(3, 2), (1, 6), (3, 5), (5, 5), (7, 5), (9, 9)], .sll 3 5 7),
      (bits [(3, 2), (1, 6), (3, 5), (5, 5), (7, 5), (10, 9)], .srl 3 5 7),
      (bits [(3, 2), (1, 6), (3, 5), (5, 5), (7, 5), (11, 9)], .sra 3 5 7),
      (bits [(3, 2), (1, 6), (3, 5), (5, 5), (7, 5), (12, 9)], .rol 3 5 7),
      (bits [(3, 2), (1, 6), (3, 5), (5, 5), (7, 5), (13, 9)], .ror 3 5 7),
      (bits [(3, 2), (1, 6), (3, 5), (5, 5), (7, 5), (14, 9)], .slt 3 5 7),
      (bits [(3, 2), (1, 6), (3, 5), (5, 5), (7, 5), (15, 9)], .sltu 3 5 7),
      (bits [(3, 2), (1, 6), (3, 5), (5, 5), (7, 5), (16, 9)], .seq 3 5 7),
      (bits [(3, 2), (1, 6), (3, 5), (5, 5), (7, 5), (17, 9)], .min 3 5 7),
      (bits [(3, 2), (1, 6), (3, 5), (5, 5), (7, 5), (18, 9)], .max 3 5 7),
      (bits [(3, 2), (1, 6), (3, 5), (5, 5), (7, 5), (19, 9)], .minu 3 5 7),
      (bits [(3, 2), (1, 6), (3, 5), (5, 5), (7, 5), (20, 9)], .maxu 3 5 7),
      (bits [(3, 2), (1, 6), (3, 5), (5, 5), (21, 14)], .clz 3 5),
      (bits [(3, 2), (1, 6), (3, 5), (5, 5), (22, 14)], .ctz 3 5),
      (bits [(3, 2), (1, 6), (3, 5), (5, 5), (23, 14)], .popc 3 5),
      (bits [(3, 2), (1, 6), (3, 5), (5, 5), (24, 14)], .brev 3 5),
      (bits [(3, 2), (1, 6), (3, 5), (5, 5), (25, 14)], .bswap 3 5),
      (bits [(3, 2), (1, 6), (3, 5), (5, 5), (26, 14)], .sextB 3 5),
      (bits [(3, 2), (1, 6), (3, 5), (5, 5), (27, 14)], .sextH 3 5),
      (bits [(3, 2), (1, 6), (3, 5), (5, 5), (28, 14)], .sextW 3 5),
      (bits [(3, 2), (1, 6), (3, 5), (5, 5), (29, 14)], .zextB 3 5),
      (bits [(3, 2), (1, 6), (3, 5), (5, 5), (30, 14)], .zextH 3 5),
      (bits [(3, 2), (1, 6), (3, 5), (5, 5), (31, 14)], .zextW 3 5),
      (bits [(3, 2), (1, 6), (3, 5), (5, 5), (7, 5), (8, 7), (1, 2)], .shadd 3 5 7 1),
      (bits [(3, 2), (2, 6), (3, 5), (5, 5), (7, 14)], .addi 3 5 7),
      (bits [(3, 2), (3, 6), (3, 5), (5, 5), (7, 14)], .andi 3 5 7),
      (bits [(3, 2), (4, 6), (3, 5), (5, 5), (7, 14)], .ori 3 5 7),
      (bits [(3, 2), (5, 6), (3, 5), (5, 5), (7, 14)], .xori 3 5 7),
      (bits [(3, 2), (6, 6), (3, 5), (5, 5), (0, 8), (7, 6)], .slli 3 5 7),
      (bits [(3, 2), (6, 6), (3, 5), (5, 5), (64, 8), (7, 6)], .srli 3 5 7),
      (bits [(3, 2), (6, 6), (3, 5), (5, 5), (128, 8), (7, 6)], .srai 3 5 7),
      (bits [(3, 2), (6, 6), (3, 5), (5, 5), (192, 8), (7, 6)], .rori 3 5 7),
      (bits [(3, 2), (7, 6), (3, 5), (5, 5), (7, 14)], .slti 3 5 7),
      (bits [(3, 2), (8, 6), (3, 5), (5, 5), (7, 14)], .sltiu 3 5 7),
      (bits [(3, 2), (9, 6), (3, 5), (5, 19)], .lui 3 5),
      (bits [(3, 2), (10, 6), (3, 5), (5, 19)], .addpc 3 5),
      (bits [(3, 2), (11, 6), (3, 5), (5, 5), (7, 5), (0, 9)], .mul 3 5 7),
      (bits [(3, 2), (11, 6), (3, 5), (5, 5), (7, 5), (1, 9)], .mulh 3 5 7),
      (bits [(3, 2), (11, 6), (3, 5), (5, 5), (7, 5), (2, 9)], .mulhu 3 5 7),
      (bits [(3, 2), (11, 6), (3, 5), (5, 5), (7, 5), (3, 9)], .mulhsu 3 5 7),
      (bits [(3, 2), (11, 6), (3, 5), (5, 5), (7, 5), (4, 9)], .mulw 3 5 7),
      (bits [(3, 2), (11, 6), (3, 5), (5, 5), (7, 5), (5, 9)], .div 3 5 7),
      (bits [(3, 2), (11, 6), (3, 5), (5, 5), (7, 5), (6, 9)], .divu 3 5 7),
      (bits [(3, 2), (11, 6), (3, 5), (5, 5), (7, 5), (7, 9)], .rem 3 5 7),
      (bits [(3, 2), (11, 6), (3, 5), (5, 5), (7, 5), (8, 9)], .remu 3 5 7),
      (bits [(3, 2), (11, 6), (3, 5), (5, 5), (7, 5), (9, 9)], .madd 3 5 7)] : List (Nat × Instr)), decodeTableWord 32 e.1 = some e.2 := by
  decide +kernel

theorem test_decode_memory :
    ∀ e ∈ ([
      (bits [(3, 2), (12, 6), (3, 5), (5, 5), (7, 14)], .ldb 3 5 7),
      (bits [(3, 2), (13, 6), (3, 5), (5, 5), (7, 14)], .ldbu 3 5 7),
      (bits [(3, 2), (14, 6), (3, 5), (5, 5), (7, 14)], .ldh 3 5 7),
      (bits [(3, 2), (15, 6), (3, 5), (5, 5), (7, 14)], .ldhu 3 5 7),
      (bits [(3, 2), (16, 6), (3, 5), (5, 5), (7, 14)], .ldw 3 5 7),
      (bits [(3, 2), (17, 6), (3, 5), (5, 5), (7, 14)], .ldwu 3 5 7),
      (bits [(3, 2), (18, 6), (3, 5), (5, 5), (7, 14)], .ldd 3 5 7),
      (bits [(3, 2), (19, 6), (3, 5), (5, 5), (7, 14)], .stb 3 5 7),
      (bits [(3, 2), (20, 6), (3, 5), (5, 5), (7, 14)], .sth 3 5 7),
      (bits [(3, 2), (21, 6), (3, 5), (5, 5), (7, 14)], .stw 3 5 7),
      (bits [(3, 2), (22, 6), (3, 5), (5, 5), (7, 14)], .std 3 5 7)] : List (Nat × Instr)), decodeTableWord 32 e.1 = some e.2 := by
  decide +kernel

theorem test_decode_control :
    ∀ e ∈ ([
      (bits [(3, 2), (23, 6), (0, 3), (3, 5), (5, 5), (7, 11)], .beq 3 5 7),
      (bits [(3, 2), (23, 6), (1, 3), (3, 5), (5, 5), (7, 11)], .bne 3 5 7),
      (bits [(3, 2), (23, 6), (2, 3), (3, 5), (5, 5), (7, 11)], .blt 3 5 7),
      (bits [(3, 2), (23, 6), (3, 3), (3, 5), (5, 5), (7, 11)], .bge 3 5 7),
      (bits [(3, 2), (23, 6), (4, 3), (3, 5), (5, 5), (7, 11)], .bltu 3 5 7),
      (bits [(3, 2), (23, 6), (5, 3), (3, 5), (5, 5), (7, 11)], .bgeu 3 5 7),
      (bits [(3, 2), (23, 6), (6, 3), (3, 5), (5, 5), (7, 11)], .bbs 3 5 7),
      (bits [(3, 2), (23, 6), (7, 3), (3, 5), (5, 5), (7, 11)], .bbc 3 5 7),
      (bits [(3, 2), (24, 6), (3, 5), (5, 19)], .jal 3 5),
      (bits [(3, 2), (25, 6), (3, 5), (5, 5), (7, 14)], .jalr 3 5 7),
      (bits [(3, 2), (26, 6), (3, 5), (0, 5), (2, 14)], .loopI 3 2)] : List (Nat × Instr)), decodeTableWord 32 e.1 = some e.2 := by
  decide +kernel

theorem test_decode_float :
    ∀ e ∈ ([
      (bits [(3, 2), (27, 6), (3, 5), (5, 5), (7, 5), (1, 3), (1, 1), (0, 5)], .fadd 3 5 7 1 1),
      (bits [(3, 2), (27, 6), (3, 5), (5, 5), (7, 5), (1, 3), (1, 1), (1, 5)], .fsub 3 5 7 1 1),
      (bits [(3, 2), (27, 6), (3, 5), (5, 5), (7, 5), (1, 3), (1, 1), (2, 5)], .fmul 3 5 7 1 1),
      (bits [(3, 2), (27, 6), (3, 5), (5, 5), (7, 5), (1, 3), (1, 1), (3, 5)], .fdiv 3 5 7 1 1),
      (bits [(3, 2), (27, 6), (3, 5), (5, 5), (0, 5), (7, 3), (1, 1), (4, 5)], .fsqrt 3 5 7 1),
      (bits [(3, 2), (27, 6), (3, 5), (5, 5), (7, 5), (1, 3), (1, 1), (5, 5)], .fma 3 5 7 1 1),
      (bits [(3, 2), (27, 6), (3, 5), (5, 5), (7, 5), (1, 3), (1, 1), (6, 5)], .fms 3 5 7 1 1),
      (bits [(3, 2), (27, 6), (3, 5), (5, 5), (7, 5), (1, 3), (1, 1), (7, 5)], .fnma 3 5 7 1 1),
      (bits [(3, 2), (27, 6), (3, 5), (5, 5), (7, 5), (7, 3), (1, 1), (8, 5)], .fmin 3 5 7 1),
      (bits [(3, 2), (27, 6), (3, 5), (5, 5), (7, 5), (7, 3), (1, 1), (9, 5)], .fmax 3 5 7 1),
      (bits [(3, 2), (27, 6), (3, 5), (5, 5), (7, 5), (7, 3), (1, 1), (10, 5)], .fcmpEq 3 5 7 1),
      (bits [(3, 2), (27, 6), (3, 5), (5, 5), (7, 5), (7, 3), (1, 1), (11, 5)], .fcmpLt 3 5 7 1),
      (bits [(3, 2), (27, 6), (3, 5), (5, 5), (7, 5), (7, 3), (1, 1), (12, 5)], .fcmpLe 3 5 7 1),
      (bits [(3, 2), (27, 6), (3, 5), (5, 5), (7, 5), (7, 3), (1, 1), (13, 5)], .fcmpUn 3 5 7 1),
      (bits [(3, 2), (27, 6), (3, 5), (5, 5), (7, 8), (1, 1), (14, 5)], .fclass 3 5 1),
      (bits [(3, 2), (27, 6), (3, 5), (5, 5), (0, 5), (7, 3), (47, 6)], .fcvtS 3 5 7),
      (bits [(3, 2), (27, 6), (3, 5), (5, 5), (463, 14)], .fcvtD 3 5),
      (bits [(3, 2), (27, 6), (3, 5), (5, 5), (3, 5), (1, 3), (1, 1), (16, 5)], .fcvti 3 5 3 1 1),
      (bits [(3, 2), (27, 6), (3, 5), (5, 5), (3, 5), (1, 3), (1, 1), (17, 5)], .fcvtf 3 5 3 1 1),
      (bits [(3, 2), (27, 6), (3, 5), (5, 5), (7, 8), (1, 1), (18, 5)], .fmvxf 3 5 1),
      (bits [(3, 2), (27, 6), (3, 5), (5, 5), (7, 8), (1, 1), (19, 5)], .fmvfx 3 5 1),
      (bits [(3, 2), (27, 6), (3, 5), (5, 5), (7, 5), (7, 3), (1, 1), (20, 5)], .fsgn 3 5 7 1),
      (bits [(3, 2), (27, 6), (3, 5), (5, 5), (7, 5), (7, 3), (1, 1), (21, 5)], .fsgnn 3 5 7 1),
      (bits [(3, 2), (27, 6), (3, 5), (5, 5), (7, 5), (7, 3), (1, 1), (22, 5)], .fsgnx 3 5 7 1),
      (bits [(3, 2), (28, 6), (3, 5), (5, 5), (7, 14)], .fldw 3 5 7),
      (bits [(3, 2), (29, 6), (3, 5), (5, 5), (7, 14)], .fldd 3 5 7),
      (bits [(3, 2), (30, 6), (3, 5), (5, 5), (7, 14)], .fstw 3 5 7),
      (bits [(3, 2), (31, 6), (3, 5), (5, 5), (7, 14)], .fstd 3 5 7)] : List (Nat × Instr)), decodeTableWord 32 e.1 = some e.2 := by
  decide +kernel

theorem test_decode_atomics_fences_system :
    ∀ e ∈ ([
      (bits [(3, 2), (32, 6), (3, 5), (5, 5), (7, 5), (9, 5), (0, 4)], .amoadd 3 5 7 9),
      (bits [(3, 2), (32, 6), (3, 5), (5, 5), (7, 5), (9, 5), (1, 4)], .amoand 3 5 7 9),
      (bits [(3, 2), (32, 6), (3, 5), (5, 5), (7, 5), (9, 5), (2, 4)], .amoor 3 5 7 9),
      (bits [(3, 2), (32, 6), (3, 5), (5, 5), (7, 5), (9, 5), (3, 4)], .amoxor 3 5 7 9),
      (bits [(3, 2), (32, 6), (3, 5), (5, 5), (7, 5), (9, 5), (4, 4)], .amomin 3 5 7 9),
      (bits [(3, 2), (32, 6), (3, 5), (5, 5), (7, 5), (9, 5), (5, 4)], .amomax 3 5 7 9),
      (bits [(3, 2), (32, 6), (3, 5), (5, 5), (7, 5), (9, 5), (6, 4)], .amominu 3 5 7 9),
      (bits [(3, 2), (32, 6), (3, 5), (5, 5), (7, 5), (9, 5), (7, 4)], .amomaxu 3 5 7 9),
      (bits [(3, 2), (32, 6), (3, 5), (5, 5), (7, 5), (9, 5), (8, 4)], .amoswap 3 5 7 9),
      (bits [(3, 2), (32, 6), (3, 5), (5, 5), (7, 5), (9, 5), (9, 4)], .cas 3 5 7 9),
      (bits [(3, 2), (33, 6), (0, 15), (3, 3), (5, 3), (0, 3)], .fence 3 5),
      (bits [(3, 2), (33, 6), (1, 24)], .ifence),
      (bits [(3, 2), (33, 6), (3, 5), (5, 5), (7, 5), (0, 3), (1, 3), (2, 3)], .icinv 3 5 7 1),
      (bits [(3, 2), (33, 6), (3, 5), (5, 5), (7, 5), (0, 3), (1, 3), (3, 3)], .dcinv 3 5 7 1),
      (bits [(3, 2), (33, 6), (3, 5), (5, 5), (7, 5), (0, 3), (1, 3), (4, 3)], .dcwb 3 5 7 1),
      (bits [(3, 2), (33, 6), (3, 5), (5, 5), (7, 5), (0, 3), (1, 3), (5, 3)], .dcfl 3 5 7 1),
      (bits [(3, 2), (33, 6), (0, 5), (3, 5), (6, 14)], .pref 3),
      (bits [(3, 2), (34, 6), (3, 5), (0, 5), (4, 5), (0, 2), (8, 7)], .mfs 3 0x208),
      (bits [(3, 2), (34, 6), (0, 5), (3, 5), (8, 5), (1, 2), (8, 7)], .mts 3 0x408),
      (bits [(3, 2), (34, 6), (0, 5), (3, 5), (256, 14)], .trap 3),
      (bits [(3, 2), (34, 6), (257, 24)], .eretResume),
      (bits [(3, 2), (34, 6), (258, 24)], .utret),
      (bits [(3, 2), (34, 6), (0, 5), (3, 5), (259, 14)], .waitI 3),
      (bits [(3, 2), (34, 6), (260, 24)], .halt),
      (bits [(3, 2), (34, 6), (0, 5), (3, 5), (261, 14)], .migrate 3),
      (bits [(3, 2), (34, 6), (3, 5), (5, 5), (262, 14)], .scanrun 3 5)] : List (Nat × Instr)), decodeTableWord 32 e.1 = some e.2 := by
  decide +kernel

theorem test_decode_messages :
    ∀ e ∈ ([
      (bits [(3, 2), (35, 6), (3, 5), (5, 5), (7, 5), (0, 9)], .sendI 3 5 7),
      (bits [(3, 2), (35, 6), (0, 5), (3, 5), (5, 5), (1, 9)], .sendl 3 5),
      (bits [(3, 2), (35, 6), (0, 5), (3, 5), (5, 5), (2, 9)], .reduce 3 5),
      (bits [(3, 2), (35, 6), (0, 5), (3, 5), (3, 14)], .defer 3),
      (bits [(3, 2), (35, 6), (4, 24)], .endAct),
      (bits [(3, 2), (35, 6), (3, 5), (5, 5), (8, 14)], .rld 3 5),
      (bits [(3, 2), (35, 6), (0, 5), (3, 5), (5, 5), (9, 9)], .rst 3 5),
      (bits [(3, 2), (35, 6), (3, 5), (5, 5), (7, 5), (10, 9)], .rcas 3 5 7),
      (bits [(3, 2), (35, 6), (3, 5), (5, 5), (7, 5), (1, 5), (8, 4)], .ramo 3 5 7 8),
      (bits [(3, 2), (36, 6), (0, 5), (3, 5), (5, 5), (0, 9)], .qbind 3 5),
      (bits [(3, 2), (36, 6), (0, 5), (3, 5), (5, 5), (1, 9)], .qput 3 5),
      (bits [(3, 2), (36, 6), (3, 5), (5, 5), (2, 14)], .qget 3 5),
      (bits [(3, 2), (36, 6), (3, 5), (5, 5), (7, 5), (3, 9)], .qtry 3 5 7),
      (bits [(3, 2), (36, 6), (3, 5), (5, 5), (4, 14)], .qlen 3 5),
      (bits [(3, 2), (37, 6), (3, 5), (5, 5), (0, 11), (4, 3)], .oxld 3 5 4),
      (bits [(3, 2), (37, 6), (0, 5), (3, 5), (5, 5), (1, 6), (4, 3)], .oxst 3 5 4),
      (bits [(3, 2), (37, 6), (3, 5), (5, 5), (16, 14)], .oxset 3 5),
      (bits [(3, 2), (37, 6), (3, 5), (5, 5), (17, 14)], .oxget 3 5)] : List (Nat × Instr)), decodeTableWord 32 e.1 = some e.2 := by
  decide +kernel

theorem test_decode_vector_integer :
    ∀ e ∈ ([
      (bits [(3, 2), (38, 6), (3, 5), (5, 5), (7, 5), (1, 3), (1, 2), (0, 4)], .vadd 3 5 7 1 1),
      (bits [(3, 2), (38, 6), (3, 5), (5, 5), (7, 5), (1, 3), (1, 2), (1, 4)], .vsub 3 5 7 1 1),
      (bits [(3, 2), (38, 6), (3, 5), (5, 5), (7, 5), (1, 3), (1, 2), (2, 4)], .vmul 3 5 7 1 1),
      (bits [(3, 2), (38, 6), (3, 5), (5, 5), (7, 5), (1, 3), (1, 2), (3, 4)], .vmulh 3 5 7 1 1),
      (bits [(3, 2), (38, 6), (3, 5), (5, 5), (7, 5), (1, 3), (1, 2), (4, 4)], .vmadd 3 5 7 1 1),
      (bits [(3, 2), (38, 6), (3, 5), (5, 5), (7, 5), (1, 3), (1, 2), (5, 4)], .vand 3 5 7 1 1),
      (bits [(3, 2), (38, 6), (3, 5), (5, 5), (7, 5), (1, 3), (1, 2), (6, 4)], .vor 3 5 7 1 1),
      (bits [(3, 2), (38, 6), (3, 5), (5, 5), (7, 5), (1, 3), (1, 2), (7, 4)], .vxor 3 5 7 1 1),
      (bits [(3, 2), (38, 6), (3, 5), (5, 5), (7, 5), (1, 3), (1, 2), (8, 4)], .vsll 3 5 7 1 1),
      (bits [(3, 2), (38, 6), (3, 5), (5, 5), (7, 5), (1, 3), (1, 2), (9, 4)], .vsrl 3 5 7 1 1),
      (bits [(3, 2), (38, 6), (3, 5), (5, 5), (7, 5), (1, 3), (1, 2), (10, 4)], .vsra 3 5 7 1 1),
      (bits [(3, 2), (38, 6), (3, 5), (5, 5), (7, 5), (1, 3), (1, 2), (11, 4)], .vmin 3 5 7 1 1),
      (bits [(3, 2), (38, 6), (3, 5), (5, 5), (7, 5), (1, 3), (1, 2), (12, 4)], .vmax 3 5 7 1 1),
      (bits [(3, 2), (38, 6), (3, 5), (5, 5), (7, 5), (1, 3), (1, 2), (13, 4)], .vminu 3 5 7 1 1),
      (bits [(3, 2), (38, 6), (3, 5), (5, 5), (7, 5), (1, 3), (1, 2), (14, 4)], .vmaxu 3 5 7 1 1),
      (bits [(3, 2), (38, 6), (3, 5), (5, 5), (0, 5), (7, 3), (1, 2), (15, 4)], .vabs 3 5 7 1),
      (bits [(3, 2), (39, 6), (3, 5), (5, 5), (7, 5), (1, 3), (1, 2), (0, 4)], .vadds 3 5 7 1 1),
      (bits [(3, 2), (39, 6), (3, 5), (5, 5), (7, 5), (1, 3), (1, 2), (1, 4)], .vsubs 3 5 7 1 1),
      (bits [(3, 2), (39, 6), (1, 2), (5, 3), (7, 5), (9, 5), (3, 3), (1, 2), (2, 4)], .vcmp 1 5 7 9 3 1),
      (bits [(3, 2), (39, 6), (3, 5), (5, 5), (7, 5), (1, 3), (1, 2), (3, 4)], .vsel 3 5 7 1 1),
      (bits [(3, 2), (39, 6), (3, 5), (5, 5), (7, 5), (1, 3), (4, 6)], .vdot4 3 5 7 1),
      (bits [(3, 2), (39, 6), (3, 5), (5, 5), (7, 5), (1, 3), (5, 6)], .vtdot4 3 5 7 1),
      (bits [(3, 2), (39, 6), (3, 5), (5, 5), (0, 5), (7, 3), (1, 2), (6, 4)], .vpopc 3 5 7 1),
      (bits [(3, 2), (39, 6), (3, 5), (5, 5), (0, 5), (7, 3), (1, 2), (7, 4)], .vmv 3 5 7 1)] : List (Nat × Instr)), decodeTableWord 32 e.1 = some e.2 := by
  decide +kernel

theorem test_decode_vector_float_memory :
    ∀ e ∈ ([
      (bits [(3, 2), (40, 6), (3, 5), (5, 5), (7, 5), (1, 3), (1, 2), (0, 4)], .vfadd 3 5 7 1 1),
      (bits [(3, 2), (40, 6), (3, 5), (5, 5), (7, 5), (1, 3), (1, 2), (1, 4)], .vfsub 3 5 7 1 1),
      (bits [(3, 2), (40, 6), (3, 5), (5, 5), (7, 5), (1, 3), (1, 2), (2, 4)], .vfmul 3 5 7 1 1),
      (bits [(3, 2), (40, 6), (3, 5), (5, 5), (7, 5), (1, 3), (1, 2), (3, 4)], .vfma 3 5 7 1 1),
      (bits [(3, 2), (40, 6), (3, 5), (5, 5), (7, 5), (1, 3), (1, 2), (4, 4)], .vfms 3 5 7 1 1),
      (bits [(3, 2), (40, 6), (3, 5), (5, 5), (7, 5), (1, 3), (1, 2), (5, 4)], .vfmin 3 5 7 1 1),
      (bits [(3, 2), (40, 6), (3, 5), (5, 5), (7, 5), (1, 3), (1, 2), (6, 4)], .vfmax 3 5 7 1 1),
      (bits [(3, 2), (40, 6), (3, 5), (5, 5), (7, 5), (1, 3), (1, 2), (7, 4)], .vfdiv 3 5 7 1 1),
      (bits [(3, 2), (40, 6), (3, 5), (5, 5), (0, 5), (7, 3), (1, 2), (8, 4)], .vfsqrt 3 5 7 1),
      (bits [(3, 2), (40, 6), (3, 5), (5, 5), (0, 5), (7, 3), (1, 2), (9, 4)], .vfrcp 3 5 7 1),
      (bits [(3, 2), (40, 6), (3, 5), (5, 5), (0, 5), (7, 3), (1, 2), (10, 4)], .vfrsq 3 5 7 1),
      (bits [(3, 2), (40, 6), (1, 2), (5, 3), (7, 5), (9, 5), (3, 3), (1, 2), (11, 4)], .vfcmp 1 5 7 9 3 1),
      (bits [(3, 2), (41, 6), (3, 5), (5, 5), (0, 5), (7, 3), (1, 2), (0, 4)], .vld 3 5 7 1),
      (bits [(3, 2), (41, 6), (3, 5), (5, 5), (7, 5), (1, 3), (1, 2), (1, 4)], .vlds 3 5 7 1 1),
      (bits [(3, 2), (41, 6), (3, 5), (5, 5), (7, 5), (1, 3), (1, 2), (2, 4)], .vgath 3 5 7 1 1),
      (bits [(3, 2), (41, 6), (3, 5), (5, 5), (0, 5), (7, 3), (1, 2), (3, 4)], .vst 3 5 7 1),
      (bits [(3, 2), (41, 6), (3, 5), (5, 5), (7, 5), (1, 3), (1, 2), (4, 4)], .vsts 3 5 7 1 1),
      (bits [(3, 2), (41, 6), (3, 5), (5, 5), (7, 5), (1, 3), (1, 2), (5, 4)], .vscat 3 5 7 1 1),
      (bits [(3, 2), (41, 6), (3, 5), (5, 5), (7, 5), (6, 9)], .vldb 3 5 7)] : List (Nat × Instr)), decodeTableWord 32 e.1 = some e.2 := by
  decide +kernel

theorem test_decode_vector_permute_convert :
    ∀ e ∈ ([
      (bits [(3, 2), (42, 6), (3, 5), (5, 5), (1, 5), (1, 3), (1, 2), (0, 4)], .vredsum 3 5 1 1 1),
      (bits [(3, 2), (42, 6), (3, 5), (5, 5), (1, 5), (1, 3), (1, 2), (1, 4)], .vredmin 3 5 1 1 1),
      (bits [(3, 2), (42, 6), (3, 5), (5, 5), (1, 5), (1, 3), (1, 2), (2, 4)], .vredmax 3 5 1 1 1),
      (bits [(3, 2), (42, 6), (3, 5), (5, 5), (1, 5), (1, 3), (1, 2), (3, 4)], .vscan 3 5 1 1 1),
      (bits [(3, 2), (42, 6), (3, 5), (5, 5), (7, 5), (1, 3), (1, 2), (4, 4)], .vperm 3 5 7 1 1),
      (bits [(3, 2), (42, 6), (3, 5), (5, 5), (0, 5), (7, 3), (1, 2), (5, 4)], .vbcast 3 5 7 1),
      (bits [(3, 2), (42, 6), (3, 5), (5, 5), (7, 5), (1, 3), (1, 2), (6, 4)], .vslide 3 5 7 1 1),
      (bits [(3, 2), (42, 6), (3, 5), (5, 5), (7, 5), (0, 3), (1, 2), (7, 4)], .vins 3 5 7 1),
      (bits [(3, 2), (42, 6), (3, 5), (5, 5), (7, 5), (0, 3), (1, 2), (8, 4)], .vext 3 5 7 1),
      (bits [(3, 2), (42, 6), (3, 5), (5, 5), (7, 5), (1, 3), (1, 2), (9, 4)], .vzip 3 5 7 1 1),
      (bits [(3, 2), (43, 6), (3, 5), (5, 5), (0, 1), (7, 4), (1, 3), (1, 2), (0, 4)], .vcvt 3 5 7 1 1),
      (bits [(3, 2), (43, 6), (3, 5), (5, 5), (1, 1), (9, 4), (3, 3), (1, 2), (1, 4)], .vnarrow 3 5 1 9 3 1),
      (bits [(3, 2), (43, 6), (3, 5), (5, 5), (1, 1), (9, 4), (3, 3), (1, 2), (2, 4)], .vwiden 3 5 1 9 3 1),
      (bits [(3, 2), (43, 6), (3, 5), (5, 5), (7, 5), (1, 3), (3, 6)], .unpk3 3 5 7 1),
      (bits [(3, 2), (43, 6), (3, 5), (5, 5), (7, 5), (1, 3), (1, 2), (4, 4)], .unpk4 3 5 7 1 1),
      (bits [(3, 2), (44, 6), (3, 5), (5, 5), (6, 5), (1, 3), (0, 6)], .vpwl 3 5 6 1),
      (bits [(3, 2), (44, 6), (6, 5), (5, 5), (7, 5), (1, 3), (1, 6)], .vsupd 6 5 7 1),
      (bits [(3, 2), (44, 6), (3, 5), (5, 5), (0, 5), (7, 3), (2, 6)], .vprune 3 5 7),
      (bits [(3, 2), (45, 6), (3, 5), (5, 5), (7, 5), (0, 9)], .pand 3 5 7),
      (bits [(3, 2), (45, 6), (3, 5), (5, 5), (7, 5), (1, 9)], .por 3 5 7),
      (bits [(3, 2), (45, 6), (3, 5), (5, 5), (7, 5), (2, 9)], .pxor 3 5 7),
      (bits [(3, 2), (45, 6), (3, 5), (5, 5), (3, 14)], .pnot 3 5),
      (bits [(3, 2), (45, 6), (3, 5), (5, 5), (1, 12), (1, 2)], .pset 3 5 1),
      (bits [(3, 2), (45, 6), (3, 5), (5, 5), (2, 12), (1, 2)], .pcnt 3 5 1),
      (bits [(3, 2), (45, 6), (3, 5), (5, 5), (3, 12), (1, 2)], .pfirst 3 5 1)] : List (Nat × Instr)), decodeTableWord 32 e.1 = some e.2 := by
  decide +kernel

theorem test_decode_matrix_engines :
    ∀ e ∈ ([
      (bits [(3, 2), (46, 6), (0, 5), (3, 5), (0, 14)], .mxcfg 3),
      (bits [(3, 2), (46, 6), (3, 5), (1, 19)], .mxzero 3),
      (bits [(3, 2), (46, 6), (3, 5), (5, 5), (2, 14)], .mxldb 3 5),
      (bits [(3, 2), (46, 6), (3, 5), (5, 5), (7, 5), (3, 9)], .mxldbs 3 5 7),
      (bits [(3, 2), (46, 6), (3, 5), (5, 5), (4, 14)], .mxldbg 3 5),
      (bits [(3, 2), (46, 6), (3, 5), (5, 5), (5, 14)], .mxstg 3 5),
      (bits [(3, 2), (46, 6), (3, 5), (5, 5), (6, 14)], .mxmul 3 5),
      (bits [(3, 2), (46, 6), (3, 5), (5, 5), (7, 14)], .mxrd 3 5),
      (bits [(3, 2), (46, 6), (8, 24)], .mxfence),
      (bits [(3, 2), (47, 6), (3, 5), (5, 5), (7, 5), (0, 9)], .forkMs 3 5 7),
      (bits [(3, 2), (47, 6), (3, 5), (5, 5), (7, 5), (1, 9)], .forkMi 3 5 7),
      (bits [(3, 2), (47, 6), (3, 5), (5, 5), (7, 5), (2, 9)], .forkCs 3 5 7),
      (bits [(3, 2), (47, 6), (3, 5), (5, 5), (3, 14)], .join 3 5),
      (bits [(3, 2), (47, 6), (3, 5), (5, 5), (4, 14)], .sempost 3 5),
      (bits [(3, 2), (47, 6), (3, 5), (5, 5), (5, 14)], .semwait 3 5),
      (bits [(3, 2), (47, 6), (3, 5), (5, 5), (6, 14)], .engstat 3 5)] : List (Nat × Instr)), decodeTableWord 32 e.1 = some e.2 := by
  decide +kernel

theorem test_decode_copies_reels_tasks :
    ∀ e ∈ ([
      (bits [(3, 2), (48, 6), (3, 5), (0, 19)], .cpy 3),
      (bits [(3, 2), (48, 6), (3, 5), (1, 19)], .cpym 3),
      (bits [(3, 2), (48, 6), (3, 5), (5, 5), (2, 14)], .cpycan 3 5),
      (bits [(3, 2), (48, 6), (3, 5), (5, 5), (3, 14)], .cpyst 3 5),
      (bits [(3, 2), (48, 6), (3, 5), (4, 19)], .stcfg 3),
      (bits [(3, 2), (48, 6), (3, 5), (5, 19)], .stend 3),
      (bits [(3, 2), (48, 6), (3, 5), (2, 5), (6, 14)], .ststat 3 2),
      (bits [(3, 2), (49, 6), (0, 5), (3, 5), (5, 5), (0, 9)], .reelinit 3 5),
      (bits [(3, 2), (49, 6), (3, 5), (5, 5), (1, 14)], .reelawait 3 5),
      (bits [(3, 2), (49, 6), (0, 5), (3, 5), (2, 14)], .reelrel 3),
      (bits [(3, 2), (49, 6), (3, 5), (5, 5), (3, 14)], .reelst 3 5),
      (bits [(3, 2), (50, 6), (0, 5), (3, 5), (5, 5), (0, 9)], .tenq 3 5),
      (bits [(3, 2), (50, 6), (3, 5), (5, 5), (7, 5), (1, 9)], .tdeq 3 5 7),
      (bits [(3, 2), (50, 6), (3, 5), (5, 5), (2, 14)], .futld 3 5),
      (bits [(3, 2), (50, 6), (3, 5), (5, 5), (7, 5), (3, 9)], .futst 3 5 7),
      (bits [(3, 2), (50, 6), (0, 5), (3, 5), (4, 14)], .launch 3)] : List (Nat × Instr)), decodeTableWord 32 e.1 = some e.2 := by
  decide +kernel

theorem test_decode_sync_tables :
    ∀ e ∈ ([
      (bits [(3, 2), (51, 6), (3, 5), (5, 5), (7, 5), (0, 9)], .barinit 3 5 7),
      (bits [(3, 2), (51, 6), (3, 5), (5, 5), (1, 14)], .bararr 3 5),
      (bits [(3, 2), (51, 6), (3, 5), (5, 5), (7, 5), (2, 9)], .barwait 3 5 7),
      (bits [(3, 2), (51, 6), (0, 5), (3, 5), (5, 5), (3, 9)], .dcinit 3 5),
      (bits [(3, 2), (51, 6), (3, 5), (5, 5), (7, 5), (4, 9)], .dcdec 3 5 7),
      (bits [(3, 2), (51, 6), (0, 5), (3, 5), (5, 14)], .dcwait 3),
      (bits [(3, 2), (51, 6), (3, 5), (5, 5), (6, 14)], .slopen 3 5),
      (bits [(3, 2), (51, 6), (3, 5), (5, 5), (7, 5), (7, 9)], .slwait 3 5 7),
      (bits [(3, 2), (51, 6), (3, 5), (5, 5), (8, 14)], .slstat 3 5),
      (bits [(3, 2), (51, 6), (3, 5), (5, 5), (7, 5), (9, 9)], .bump 3 5 7),
      (bits [(3, 2), (52, 6), (3, 5), (5, 5), (0, 14)], .rngmap 3 5),
      (bits [(3, 2), (52, 6), (3, 5), (5, 5), (1, 14)], .rngunmap 3 5),
      (bits [(3, 2), (52, 6), (3, 5), (5, 5), (7, 5), (2, 9)], .rngsplit 3 5 7),
      (bits [(3, 2), (52, 6), (3, 5), (5, 5), (3, 14)], .rngmerge 3 5),
      (bits [(3, 2), (52, 6), (3, 5), (5, 5), (7, 5), (4, 9)], .rngprot 3 5 7),
      (bits [(3, 2), (52, 6), (3, 5), (5, 5), (7, 5), (5, 9)], .rngresAdd 3 5 7),
      (bits [(3, 2), (52, 6), (3, 5), (5, 5), (7, 5), (6, 9)], .rnginv 3 5 7),
      (bits [(3, 2), (52, 6), (3, 5), (5, 5), (7, 5), (7, 9)], .rngcmp 3 5 7),
      (bits [(3, 2), (52, 6), (3, 5), (5, 5), (7, 5), (8, 9)], .rngqry 3 5 7),
      (bits [(3, 2), (52, 6), (3, 5), (5, 5), (7, 5), (9, 9)], .lcmremRemove 3 5 7),
      (bits [(3, 2), (52, 6), (3, 5), (5, 5), (7, 5), (10, 9)], .qtmapMap 3 5 7),
      (bits [(3, 2), (52, 6), (3, 5), (5, 5), (7, 5), (11, 9)], .qtpinPin 3 5 7),
      (bits [(3, 2), (53, 6), (3, 5), (5, 5), (7, 5), (0, 9)], .snapinitCursor 3 5 7),
      (bits [(3, 2), (53, 6), (3, 5), (5, 5), (7, 5), (1, 9)], .snaphash 3 5 7),
      (bits [(3, 2), (53, 6), (3, 5), (5, 5), (7, 5), (2, 9)], .snapput 3 5 7),
      (bits [(3, 2), (53, 6), (3, 5), (5, 5), (3, 14)], .snapfind 3 5),
      (bits [(3, 2), (53, 6), (3, 5), (5, 5), (7, 5), (4, 9)], .snapget 3 5 7),
      (bits [(3, 2), (53, 6), (3, 5), (5, 5), (7, 5), (5, 9)], .snaprel 3 5 7)] : List (Nat × Instr)), decodeTableWord 32 e.1 = some e.2 := by
  decide +kernel

theorem test_decode_montage_counters :
    ∀ e ∈ ([
      (bits [(3, 2), (54, 6), (0, 24)], .monopen),
      (bits [(3, 2), (54, 6), (3, 5), (5, 5), (7, 5), (1, 9)], .monput 3 5 7),
      (bits [(3, 2), (54, 6), (0, 5), (3, 5), (2, 14)], .monseal 3),
      (bits [(3, 2), (54, 6), (3, 5), (5, 5), (3, 14)], .monstat 3 5),
      (bits [(3, 2), (54, 6), (0, 5), (3, 5), (4, 14)], .monclose 3),
      (bits [(3, 2), (55, 6), (3, 5), (0, 19)], .rdts 3),
      (bits [(3, 2), (55, 6), (3, 5), (1, 19)], .rdcyc 3),
      (bits [(3, 2), (55, 6), (3, 5), (5, 5), (2, 14)], .rdvc 3 5),
      (bits [(3, 2), (55, 6), (0, 5), (3, 5), (5, 5), (3, 9)], .pmcfg 3 5),
      (bits [(3, 2), (55, 6), (3, 5), (5, 5), (4, 14)], .pmrd 3 5),
      (bits [(3, 2), (55, 6), (3, 5), (5, 5), (5, 14)], .dlyrd 3 5),
      (bits [(3, 2), (55, 6), (0, 5), (3, 5), (6, 14)], .dbgmark 3)] : List (Nat × Instr)), decodeTableWord 32 e.1 = some e.2 := by
  decide +kernel

theorem test_decode_compact :
    ∀ e ∈ ([
      (bits [(0, 2), (0, 4), (3, 5), (5, 5)], .cMv 3 5),
      (bits [(0, 2), (1, 4), (3, 5), (5, 5)], .cAdd 3 5),
      (bits [(0, 2), (2, 4), (3, 5), (5, 5)], .cSub 3 5),
      (bits [(0, 2), (3, 4), (3, 5), (5, 5)], .cAnd 3 5),
      (bits [(0, 2), (4, 4), (3, 5), (5, 5)], .cOr 3 5),
      (bits [(0, 2), (5, 4), (3, 5), (5, 5)], .cXor 3 5),
      (bits [(0, 2), (6, 4), (3, 5), (5, 5)], .cSll 3 5),
      (bits [(0, 2), (7, 4), (3, 5), (5, 5)], .cSrl 3 5),
      (bits [(0, 2), (8, 4), (3, 5), (5, 5)], .cSra 3 5),
      (bits [(0, 2), (9, 4), (3, 5), (5, 5)], .cMul 3 5),
      (bits [(0, 2), (10, 4), (3, 5), (5, 5)], .cSlt 3 5),
      (bits [(0, 2), (11, 4), (0, 5), (3, 5)], .cJmpr 3),
      (bits [(0, 2), (11, 4), (1, 5), (3, 5)], .cCallr 3),
      (bits [(0, 2), (12, 4), (3, 5), (5, 5)], .cLdx 3 5),
      (bits [(0, 2), (13, 4), (3, 5), (5, 5)], .cStx 3 5),
      (bits [(0, 2), (15, 4), (0, 10)], .cEnd),
      (bits [(0, 2), (15, 4), (1, 10)], .brk),
      (bits [(0, 2), (15, 4), (2, 10)], .nop),
      (bits [(0, 2), (15, 4), (3, 10)], .yield),
      (bits [(1, 2), (0, 4), (3, 5), (5, 5)], .cAddi 3 5),
      (bits [(1, 2), (1, 4), (3, 5), (5, 5)], .cLi 3 5),
      (bits [(1, 2), (2, 4), (3, 5), (5, 5)], .cSlli 3 5),
      (bits [(1, 2), (3, 4), (3, 5), (5, 5)], .cSrli 3 5),
      (bits [(1, 2), (4, 4), (3, 5), (5, 5)], .cSrai 3 5),
      (bits [(1, 2), (5, 4), (3, 5), (5, 5)], .cAndi 3 5),
      (bits [(1, 2), (6, 4), (3, 5), (5, 5)], .cOri 3 5),
      (bits [(1, 2), (7, 4), (3, 5), (5, 5)], .cXori 3 5),
      (bits [(1, 2), (8, 4), (3, 10)], .cSpadj 3),
      (bits [(2, 2), (0, 4), (3, 10)], .cJ 3),
      (bits [(2, 2), (1, 4), (3, 10)], .cJal 3),
      (bits [(2, 2), (2, 4), (3, 5), (5, 5)], .cBeqz 3 5),
      (bits [(2, 2), (3, 4), (3, 5), (5, 5)], .cBnez 3 5),
      (bits [(2, 2), (4, 4), (3, 5), (5, 5)], .cSld 3 5),
      (bits [(2, 2), (5, 4), (3, 5), (5, 5)], .cSst 3 5),
      (bits [(2, 2), (6, 4), (3, 5), (5, 5)], .cPld 3 5),
      (bits [(2, 2), (7, 4), (3, 5), (5, 5)], .cPst 3 5),
      (bits [(2, 2), (8, 4), (3, 5), (5, 5)], .cSlw 3 5),
      (bits [(2, 2), (9, 4), (3, 5), (5, 5)], .cSsw 3 5)] : List (Nat × Instr)), decodeTableWord 16 e.1 = some e.2 := by
  decide +kernel

/-- The rows that share a word with another row decode to the first of them, and the patterns that no row assigns to none. -/
theorem test_decode_shared_and_reserved :
    decodeTableWord 32 0xE2000101 = some .eretResume ∧ decodeTableWord 16 0x0000 = none ∧ decodeTableWord 32 0xFFFFFFFF = none ∧
    decodeTableWord 32 0xC0000000 = none ∧ decodeTableWord 16 0x3C04 = none ∧ decodeTableWord 32 0xC10001FF = none := by
  decide +kernel

/-! ### Results of single instructions, from the spec's own sentences -/

/-- R116: the sum wraps at 64 bits. -/
theorem test_add_wraps : (after (.add 8 3 1) wA).x 8 = 4 := by decide +kernel

/-- R2 and R112: a write to x0 is discarded. -/
theorem test_add_to_x0 : (after (.add 0 3 1) wA).x 0 = 0 ∧ (after (.add 0 3 1) wA).pc = 4 := by decide +kernel

/-- R116: only B[5:0] counts in a shift. -/
theorem test_shift_amount : (after (.sll 8 1 3) wA).x 8 = 0x8000000000000000 ∧ (after (.sra 8 2 3) wA).x 8 = BitVec.allOnes 64 := by
  decide +kernel

/-- R119: division by zero and the one overflow. -/
theorem test_div_corners :
    (after (.div 8 1 0) wA).x 8 = 0x7FFFFFFFFFFFFFFF ∧ (after (.div 8 2 3) wA).x 8 = 0x7FFFFFFFFFFFFFFF ∧
    (after (.remu 8 1 0) wA).x 8 = 0 := by decide +kernel

/-- R120: a byte load sign-extends, a halfword load zero-extends; bytes are little-endian (R2). -/
theorem test_loads :
    (after (.ldb 8 4 0) (wBy (.thr 0 0) (wTh wRegs) (wMem 0x1000000000010 [0x8182838485868788]))).x 8 = 0xFFFFFFFFFFFFFF88 ∧
    (after (.ldhu 8 4 2) (wBy (.thr 0 0) (wTh wRegs) (wMem 0x1000000000010 [0x8182838485868788]))).x 8 = 0x8586 := by
  decide +kernel

/-- R122: a taken branch is relative to the branch itself. -/
theorem test_branch : (after (.bne 1 4 0x7FE) controlTransfers2).pc = 0xFC ∧ (after (.beq 1 4 0x7FE) controlTransfers2).pc = 0x104 := by
  decide +kernel

/-- R124: at the last instruction of the loop the count goes down and control goes back to its start. -/
theorem test_loop_back : (after (.add 8 4 4) wLoop).pc = 0x20 ∧ (after (.add 8 4 4) wLoop).x 1 = 4 := by decide +kernel

/-- R89 and R126: 1.0 + 3.0 = 4.0 in binary64. -/
theorem test_fadd : (after (.fadd 8 1 2 0 0) floatResults1).me.getF 8 = 0x4010000000000000 := by decide +kernel

/-- R390: a misaligned load holds the thread with MISALIGNED and the address in TVAL, and writes no register. -/
theorem test_misaligned :
    (after (.ldw 8 5 0) wA).me.tval = 0x11 ∧ (after (.ldw 8 5 0) wA).x 8 = 0 ∧ (after (.ldw 8 5 0) wA).me.st = .wait := by
  decide +kernel

/-- R163: a write to p0 is discarded. -/
theorem test_p0 : (after (.pand 0 1 2) predicateResults1).me.getP 0 = BitVec.allOnes 128 := by decide +kernel

/-- R162: VPRUNE sets exactly four bits of each group's byte. -/
theorem test_vprune : popNat 128 ((after (.vprune 1 2 3) vT).me.getP 3).toNat = 64 := by decide +kernel

/-! ### Witnesses: for every statement with hypotheses, concrete states and operands that meet them, clause by clause -/

/-- The two ways an instruction completes (R112, R124), of which the result statements speak. -/
theorem witness_completion : wLoop.me.AtLoopEnd ∧ ¬ wA.me.AtLoopEnd := by decide +kernel

theorem witness_BitCounts : clz64 1 < 64 ∧ ctz64 1 < 64 := by decide +kernel

theorem witness_DivisionCorners :
    (∃ A B : Word, B = 0 ∧ 0 ≤ A.toInt) ∧ (∃ A B : Word, B = 0 ∧ A.toInt < 0) ∧
    (∃ A B : Word, A.toInt = -2 ^ 63 ∧ B.toInt = -1) ∧ (∃ A B : Word, B ≠ 0 ∧ ¬ (A.toInt = -2 ^ 63 ∧ B.toInt = -1)) :=
  ⟨⟨7, 0, by decide⟩, ⟨-7, 0, by decide⟩, ⟨0x8000000000000000, -1, by decide⟩, ⟨0x8000000000000000, 1, by decide⟩⟩

/-- AccessRules: the last doubleword of the local memory; a misaligned address for each size; an address beyond 56 bits. -/
theorem witness_AccessRules :
    ((0xFFFF8 : Word).toNat % 8 = 0 ∧ (0xFFFF8 : Word).toNat + 8 ≤ wA.cur.window ∧
      wA.blocked (wA.cur.localLoc 0xFFFF8) 8 false = false ∧ wA.poisoned (wA.cur.localLoc 0xFFFF8) 8 = false) ∧
    Servable wA ∧ (wA.x 5 + (0 : BitVec 14).signExtend 64).toNat % 2 ≠ 0 ∧ (wA.x 5 + (0 : BitVec 14).signExtend 64).toNat % 8 ≠ 0 ∧
    ((wA.x 7 + (0 : BitVec 14).signExtend 64).toNat % 8 = 0 ∧ 2 ^ 56 ≤ (wA.x 7 + (0 : BitVec 14).signExtend 64).toNat) := by
  decide +kernel

/-- ScheduleEvents, the comparison before a dispatch: a queue breakpoint that the head packet matches. -/
theorem witness_ScheduleEvents_breakpoint :
    (scheduleEventsx1.getDie 0).cpFifo = [pk] ∧ (scheduleEventsx1.getDie 0).cpHalted = false ∧ scheduleEventsx1.postedA = [] ∧
    scheduleEventsx1.cpChecked pk = some (0, qR) ∧ (scheduleEventsx1.getDie 0).cpPass = false ∧
    State.cpbrkMatches (Tbl.get 0 scheduleEventsx1.cpbrk 0) 0 (launchQh pk.words) (scheduleEventsx1.stageHandler 0 qR) = true := by
  decide +kernel

/-- A thread of T7 with an ADDI at 0x40, and one with a compact MV there. -/
def wFetch (bs : List (BitVec 8)) (agenda : List Turn) : State :=
  { wBy (.thr 0 7) { wTh wRegs with pc := 0x40 } (Memory.writeN [] (2 ^ 48 + 0x40) bs) with agenda := agenda }

/-- StepRunsDecoded: what the three ways to a turn ask for, and the fetch of a long and of a short instruction. -/
theorem witness_StepRunsDecoded :
    (wFetch [] [.event .mctpControlMessage]).agenda = .event .mctpControlMessage :: [] ∧
    (let s := wFetch (bytesOfWord 0xC2297FFD) [.issue (.thr 0 7)]
     let s1 : State := { s with freeCtr := s.freeCtr + 1, agenda := [] }
     let s0 := s1.select (.thr 0 7)
     let t := s0.thread (.thr 0 7)
     let loc := (Agent.thr 0 7).localLoc t.pc.toNat
     s.agenda = .issue (.thr 0 7) :: [] ∧ s1.mayIssue (.thr 0 7) = true ∧ t.pendTrap = [] ∧ t.fbuf = none ∧ t.fbufStale = false ∧
     t.pc.toNat % 2 = 0 ∧ s0.interlocked (.thr 0 7) (.addi 5 5 (BitVec.ofInt 14 (-3))) = false ∧
     s0.blocked (alignDown 32 loc) 32 false = false ∧ s0.poisoned (alignDown 32 loc) 32 = false ∧
     Tbl.get ({} : ICLine) (s0.getCore 0).icache (iKey loc 0) = {} ∧ t.pc.toNat % 32 ≤ 28 ∧
     t.pc.toNat + 4 ≤ (Agent.thr 0 7).window ∧ isLong ((0xC2297FFD : BitVec 32).extractLsb' 16 16) = true ∧
     Memory.readN s0.mem loc 4 = bytesOfWord 0xC2297FFD ∧ decode32 0xC2297FFD = some (.addi 5 5 (BitVec.ofInt 14 (-3)))) ∧
    (let s := wFetch (bytesOfHalf 0x40BD) []
     let s1 : State := { s with freeCtr := s.freeCtr + 1 }
     let s0 := s1.select (.thr 0 7)
     let t := s0.thread (.thr 0 7)
     let loc := (Agent.thr 0 7).localLoc t.pc.toNat
     s.agenda = [] ∧ s1.nextIssuer = some (.thr 0 7) ∧ t.pendTrap = [] ∧ t.fbuf = none ∧
     s0.interlocked (.thr 0 7) (.cAddi 5 (BitVec.ofInt 5 (-3))) = false ∧ s0.blocked (alignDown 32 loc) 32 false = false ∧
     s0.poisoned (alignDown 32 loc) 32 = false ∧ t.pc.toNat + 2 ≤ (Agent.thr 0 7).window ∧ isLong 0x40BD = false ∧
     Memory.readN s0.mem loc 2 = bytesOfHalf 0x40BD ∧ decode16 0x40BD = some (.cAddi 5 (BitVec.ofInt 5 (-3)))) := by
  decide +kernel

/-- DecodeEncode: a long and a compact instruction. -/
theorem witness_DecodeEncode :
    (Instr.addi 5 5 1).wellFormed = true ∧ encode (.addi 5 5 1) ≠ .event ∧ (Instr.cMv 5 6).wellFormed = true ∧
    encode (.cMv 5 6) ≠ .event := by decide +kernel

/-- StepKeepsMemoryCanonical: a state whose memory lists an instruction, and which steps to a next state. -/
theorem witness_StepKeepsMemoryCanonical :
    let s := State.reset.withFetchWord 32 0xC2297FFD
    s.Inv ∧ s.mem ≠ [] ∧ (match step s with
      | .next _ => true
      | .fault _ => false
      | .refused _ => false) = true := by
  decide +kernel

theorem witness_LoadResults :
    (wA.load (wA.x (4 : BitVec 5) + BitVec.signExtend 64 (0 : BitVec 14)) 8 = Except.ok [(0 : Byte), (0 : Byte), (0 : Byte), (0
      : Byte), (0 : Byte), (0 : Byte), (0 : Byte), (0 : Byte)]) ∧
    (wA.load (wA.x (4 : BitVec 5)) 8 = Except.ok [(0 : Byte), (0 : Byte), (0 : Byte), (0 : Byte), (0 : Byte), (0 : Byte), (0 :
      Byte), (0 : Byte)]) ∧
    (wA.load (wA.x (4 : BitVec 5) + BitVec.signExtend 64 (0 : BitVec 14)) 4 = Except.ok [(0 : Byte), (0 : Byte), (0 : Byte), (0
      : Byte)]) ∧
    (loadResults1.load (loadResults1.x (4 : BitVec 5) + BitVec.signExtend 64 (0 : BitVec 14)) 1 = Except.ok [(136 : Byte)]) ∧
    (loadResults1.load (loadResults1.x (4 : BitVec 5) + BitVec.signExtend 64 (0 : BitVec 14)) 2 = Except.ok [(136 : Byte), (135
      : Byte)]) ∧
    (loadResults1.load (loadResults1.x (2 : BitVec 5) + ofN (4 * BitVec.toNat (0 : BitVec 5))) 4 = Except.ok [(136 : Byte), (135
      : Byte), (134 : Byte), (133 : Byte)]) ∧
    (loadResults1.load (loadResults1.x (2 : BitVec 5) + ofN (8 * BitVec.toNat (0 : BitVec 5))) 8 = Except.ok [(136 : Byte), (135
      : Byte), (134 : Byte), (133 : Byte), (132 : Byte), (131 : Byte), (130 : Byte), (129 : Byte)]) ∧
    (loadResults1.load (loadResults1.x (3 : BitVec 5) + ofN (8 * BitVec.toNat (0 : BitVec 5))) 8 = Except.ok [(0 : Byte), (0 :
      Byte), (0 : Byte), (0 : Byte), (0 : Byte), (0 : Byte), (0 : Byte), (0 : Byte)]) := by
  (repeat' apply And.intro) <;> decide +kernel

theorem witness_StoreResults :
    (((okD { loc := 0 : Machine.Acc } ((wBy (Agent.thr 0 0) (wTh [])).storeCheck (Agent.thr 0 0) (24 : Word) 8)).key = 0) ∧
      (AtIssue storeResults1 (storeResults1.ea (4 : BitVec 5) (8 : BitVec 14)) 1 (okD { loc := 0 : Machine.Acc } ((wBy
        (Agent.thr 0 0) (wTh [])).storeCheck (Agent.thr 0 0) (24 : Word) 8)))) ∧
    (((okD { loc := 0 : Machine.Acc } ((wBy (Agent.thr 0 0) (wTh [])).storeCheck (Agent.thr 0 0) (24 : Word) 8)).key = 0) ∧
      (AtIssue storeResults1 (storeResults1.ea (4 : BitVec 5) (8 : BitVec 14)) 2 (okD { loc := 0 : Machine.Acc } ((wBy
        (Agent.thr 0 0) (wTh [])).storeCheck (Agent.thr 0 0) (24 : Word) 8)))) ∧
    (((okD { loc := 0 : Machine.Acc } ((wBy (Agent.thr 0 0) (wTh [])).storeCheck (Agent.thr 0 0) (24 : Word) 8)).key = 0) ∧
      (AtIssue storeResults1 (storeResults1.ea (4 : BitVec 5) (8 : BitVec 14)) 4 (okD { loc := 0 : Machine.Acc } ((wBy
        (Agent.thr 0 0) (wTh [])).storeCheck (Agent.thr 0 0) (24 : Word) 8)))) ∧
    (((okD { loc := 0 : Machine.Acc } ((wBy (Agent.thr 0 0) (wTh [])).storeCheck (Agent.thr 0 0) (24 : Word) 8)).key = 0) ∧
      (AtIssue storeResults1 (storeResults1.ea (4 : BitVec 5) (8 : BitVec 14)) 8 (okD { loc := 0 : Machine.Acc } ((wBy
        (Agent.thr 0 0) (wTh [])).storeCheck (Agent.thr 0 0) (24 : Word) 8)))) ∧
    (((okD { loc := 0 : Machine.Acc } ((wBy (Agent.thr 0 0) (wTh [])).storeCheck (Agent.thr 0 0) (24 : Word) 8)).key = 0) ∧
      (AtIssue storeResults1 (storeResults1.x (2 : BitVec 5) + ofN (8 * BitVec.toNat (1 : BitVec 5))) 8 (okD
        { loc := 0 : Machine.Acc } ((wBy (Agent.thr 0 0) (wTh [])).storeCheck (Agent.thr 0 0) (24 : Word) 8)))) ∧
    (((okD { loc := 0 : Machine.Acc } ((wBy (Agent.thr 0 0) (wTh [])).storeCheck (Agent.thr 0 0) (16 : Word) 8)).key = 0) ∧
      (AtIssue storeResults1 (storeResults1.x (4 : BitVec 5)) 8 (okD { loc := 0 : Machine.Acc } ((wBy (Agent.thr 0 0) (wTh
        [])).storeCheck (Agent.thr 0 0) (16 : Word) 8)))) ∧
    (((okD { loc := 0 : Machine.Acc } ((wBy (Agent.thr 0 0) (wTh [])).storeCheck (Agent.thr 0 0) (32 : Word) 8)).key = 0) ∧
      (AtIssue storeResults1 (storeResults1.x (3 : BitVec 5) + ofN (8 * BitVec.toNat (1 : BitVec 5))) 8 (okD
        { loc := 0 : Machine.Acc } ((wBy (Agent.thr 0 0) (wTh [])).storeCheck (Agent.thr 0 0) (32 : Word) 8)))) ∧
    (((okD { loc := 0 : Machine.Acc } ((wBy (Agent.thr 0 0) (wTh [])).storeCheck (Agent.thr 0 0) (20 : Word) 4)).key = 0) ∧
      (AtIssue storeResults1 (storeResults1.x (2 : BitVec 5) + ofN (4 * BitVec.toNat (1 : BitVec 5))) 4 (okD
        { loc := 0 : Machine.Acc } ((wBy (Agent.thr 0 0) (wTh [])).storeCheck (Agent.thr 0 0) (20 : Word) 4)))) ∧
    (IntoJournal j1 (j1.ea (4 : BitVec 5) (8 : BitVec 14)) 1 (stAcc j1 (2097176 : Word) 8)) ∧
    (IntoJournal j1 (j1.ea (4 : BitVec 5) (8 : BitVec 14)) 2 (stAcc j1 (2097176 : Word) 8)) ∧
    (IntoJournal j1 (j1.ea (4 : BitVec 5) (8 : BitVec 14)) 4 (stAcc j1 (2097176 : Word) 8)) ∧
    (IntoJournal j1 (j1.ea (4 : BitVec 5) (8 : BitVec 14)) 8 (stAcc j1 (2097176 : Word) 8)) ∧
    (IntoJournal j1 (j1.x (4 : BitVec 5)) 8 (stAcc j1 (2097168 : Word) 8)) ∧
    (IntoJournal j1 (j1.x (2 : BitVec 5) + ofN (8 * BitVec.toNat (1 : BitVec 5))) 8 (stAcc j1 (2097408 : Word) 8)) ∧
    (IntoJournal j1 (j1.x (3 : BitVec 5) + ofN (8 * BitVec.toNat (1 : BitVec 5))) 8 (stAcc j1 (2097400 : Word) 8)) ∧
    (IntoJournal j1 (j1.x (2 : BitVec 5) + ofN (4 * BitVec.toNat (1 : BitVec 5))) 4 (stAcc j1 (2097404 : Word) 4)) := by
  refine ⟨?_, ?_, ?_, ?_, ?_, ?_, ?_, ?_, ?_⟩
  all_goals first | exact ⟨by decide +kernel, atIssue_ulm (by decide +kernel)⟩ | decide +kernel

theorem witness_JournalRules :
    (0 < 8) ∧
    (0 < 16 ∨ 16 + 8 ≤ 0) ∧
    ((2 < 4) ∧ ((Agent.thr 0 0).isAct = true) ∧ ((j1.thread (Agent.thr 0 0)).wait = none)) ∧
    (∀ e ∈ (journaled.thread (Agent.thr 0 0)).journal, (match e with
      | .store loc key _ bs _ _ _ => decide (key = 0) && (List.range bs.length).all fun i => decide (placeOf (loc + i) = .ulm)
      | .msg _ => true
      | .dcdec _ _ _ => true
      | .bararr _ _ => true) = true) ∧
    ((journaled.holds journaled.cur = true) ∧ (journaled.commitBlocked journaled.cur = false) ∧
      ((journaled.partialCommit journaled.cur 2).sendPending journaled.cur = false) ∧
      (journaled.atomPlace (journaled.x (4 : BitVec 5)) 8 8 = Except.ok (atAcc journaled (16 : Word) 8)) ∧
      (journaled.blocked (atAcc journaled (16 : Word) 8).loc 8 true = false) ∧
      (journaled.acrossBridge journaled.cur.dieNo (atAcc journaled (16 : Word) 8).loc = false) ∧
      (journaled.fenceWaits journaled.cur (State.ordKind (0 : BitVec 5)) (State.ordScope (0 : BitVec 5)) = false) ∧
      ((atAcc journaled (16 : Word) 8).key = 0) ∧ (placeOf (atAcc journaled (16 : Word) 8).loc = Place.ulm) ∧
      ((journaled.partialCommit journaled.cur 2).readVia (journaled.partialCommit journaled.cur 2) journaled.cur
        (atAcc journaled (16 : Word) 8) (journaled.x (4 : BitVec 5)) 8 = Except.ok ((wordBytes 9)))) := by
  (repeat' apply And.intro) <;> decide +kernel

theorem witness_ControlTransfers :
    (¬controlTransfers2.x (1 : BitVec 5) ≠ controlTransfers2.x (1 : BitVec 5)) ∧
    (¬BitVec.toInt (controlTransfers2.x (1 : BitVec 5)) < BitVec.toInt (controlTransfers2.x (1 : BitVec 5))) ∧
    (BitVec.toInt (controlTransfers2.x (1 : BitVec 5)) ≤ BitVec.toInt (controlTransfers2.x (1 : BitVec 5))) ∧
    (¬BitVec.toNat (controlTransfers2.x (1 : BitVec 5)) < BitVec.toNat (controlTransfers2.x (1 : BitVec 5))) ∧
    (BitVec.toNat (controlTransfers2.x (1 : BitVec 5)) ≤ BitVec.toNat (controlTransfers2.x (1 : BitVec 5))) ∧
    (¬BitVec.getLsbD (controlTransfers2.x (1 : BitVec 5)) (BitVec.toNat (controlTransfers2.x (1 : BitVec 5)) % 64) = true) ∧
    (BitVec.getLsbD (controlTransfers2.x (1 : BitVec 5)) (BitVec.toNat (controlTransfers2.x (1 : BitVec 5)) % 64) = false) ∧
    (¬controlTransfers2.x (1 : BitVec 5) = (0 : Word)) ∧
    (controlTransfers2.x (1 : BitVec 5) ≠ (0 : Word)) ∧
    (¬controlTransfers2.x (1 : BitVec 5) = controlTransfers2.x (5 : BitVec 5)) ∧
    (controlTransfers2.x (1 : BitVec 5) ≠ controlTransfers2.x (5 : BitVec 5)) ∧
    (BitVec.toInt (controlTransfers2.x (1 : BitVec 5)) < BitVec.toInt (controlTransfers2.x (5 : BitVec 5))) ∧
    (¬BitVec.toInt (controlTransfers2.x (5 : BitVec 5)) ≤ BitVec.toInt (controlTransfers2.x (1 : BitVec 5))) ∧
    (BitVec.toNat (controlTransfers2.x (1 : BitVec 5)) < BitVec.toNat (controlTransfers2.x (5 : BitVec 5))) ∧
    (¬BitVec.toNat (controlTransfers2.x (5 : BitVec 5)) ≤ BitVec.toNat (controlTransfers2.x (1 : BitVec 5))) ∧
    (BitVec.getLsbD (controlTransfers2.x (1 : BitVec 5)) (BitVec.toNat (controlTransfers2.x (0 : BitVec 5)) % 64) = true) ∧
    (¬BitVec.getLsbD (controlTransfers2.x (1 : BitVec 5)) (BitVec.toNat (controlTransfers2.x (0 : BitVec 5)) % 64) = false) ∧
    (BitVec.getLsbD (controlTransfers2.x (1 : BitVec 5) + BitVec.signExtend 64 (1 : BitVec 14)) 0 = false) ∧
    ((Servable controlTransfers2) ∧ (BitVec.getLsbD (controlTransfers2.x (1 : BitVec 5)) 0 = true) ∧
      (Instr.cJmpr (1 : BitVec 5) ∈ [Instr.cJmpr (1 : BitVec 5), Instr.cCallr (1 : BitVec 5)])) ∧
    ((Servable controlTransfers2) ∧
      (BitVec.getLsbD (controlTransfers2.x (1 : BitVec 5) + BitVec.signExtend 64 (2 : BitVec 14)) 0 = true)) ∧
    (BitVec.getLsbD (controlTransfers2.x (4 : BitVec 5)) 0 = false) ∧
    (branchZero.x (1 : BitVec 5) = (0 : Word)) ∧
    (¬branchZero.x (1 : BitVec 5) ≠ (0 : Word)) := by
  (repeat' apply And.intro) <;> decide +kernel

theorem witness_LoopAndYield :
    (loopAndYield1.x (1 : BitVec 5) ≠ (0 : Word)) ∧
    ((loopAndYield1.x (0 : BitVec 5) = (0 : Word)) ∧
      ((loopAndYield1.fetchBlock loopAndYield1.cur
        (loopAndYield1.pc + BitVec.signExtend 64 (5 : BitVec 14) * (2 : Word))).isOk = true)) ∧
    (loopAndYield2.ready (Agent.thr 0 7) = true) ∧
    ((readyT6.ready (Agent.thr 0 7) = false) ∧ (readyT6.ready (Agent.thr 0 6) = true)) ∧
    ((readyT5.choose 0 = some (Agent.thr 0 5)) ∧ (5 < 6)) := by
  (repeat' apply And.intro) <;> decide +kernel

theorem witness_FloatResults :
    (floatResults1.cur.isThr = true) ∧ (floatResults1.me.slotOf false (2 : BitVec 5) = none) ∧
      (floatResults1.me.slotOf false (1 : BitVec 5) = none) ∧ (∀ fl : FFlags, floatResults1.fpTraps fl = false) := by
  (repeat' apply And.intro) <;> decide +kernel

theorem witness_FloatRules :
    (1 % 2 ^ 1 * 2 = 2 ^ 1) ∧
    ((Num.nan true).isNan = true ∨ (Num.inf true).isNan = true) := by
  (repeat' apply And.intro) <;> decide +kernel

theorem witness_IssuerChecks :
    (Servable wA ∧ wMS.cur.isSeq = true ∧ wA7.cur.isT7 = true ∧ Servable wA6 ∧ wA6.cur.tid = 6) ∧
    Instr.waitI (2 : BitVec 5) ∈ [Instr.waitI (2 : BitVec 5), Instr.migrate (2 : BitVec 5)] := by
  (repeat' apply And.intro) <;> decide +kernel

theorem witness_OperandExtension :
    ((BitVec.toNat (o1.x (4 : BitVec 5)) % 8 = 0) ∧
      (o1.loadWords (o1.x (4 : BitVec 5)) (BitVec.toNat (0 : BitVec 3) + 1) = Except.ok [bytesWord (o1.plain
        { loc := o1.cur.localLoc (BitVec.toNat (o1.x (4 : BitVec 5))) : Machine.Acc }.loc 8
        { loc := o1.cur.localLoc (BitVec.toNat (o1.x (4 : BitVec 5))) : Machine.Acc }.key)])) ∧
    ((Servable o1) ∧ (BitVec.toNat (o1.x (5 : BitVec 5)) % 8 ≠ 0) ∧
      (Instr.oxld (1 : BitVec 5) (5 : BitVec 5) (0 : BitVec 3) ∈ [Instr.oxld (1 : BitVec 5) (5 : BitVec 5) (0 : BitVec 3),
        Instr.oxst (1 : BitVec 5) (5 : BitVec 5) (0 : BitVec 3)])) ∧
    ((BitVec.toNat (o1.x (4 : BitVec 5)) % 8 = 0) ∧
      (o1.storeWords (o1.x (4 : BitVec 5)) (List.map (fun i => o1.ox (BitVec.toNat (4 : BitVec 5) + i)) (List.range
        (BitVec.toNat (0 : BitVec 3) + 1))) = Except.ok
        [{ va := o1.x (4 : BitVec 5), acc := { loc := o1.cur.localLoc (BitVec.toNat (o1.x (4 : BitVec 5))) : Machine.Acc }, bs := List.map some (wordBytes (o1.ox (BitVec.toNat (4 : BitVec 5) + 0))), cost := 16 : StoreReq }])
        ∧
      (∀ r ∈
        [{ va := o1.x (4 : BitVec 5), acc := { loc := o1.cur.localLoc (BitVec.toNat (o1.x (4 : BitVec 5))) : Machine.Acc }, bs := List.map some (wordBytes (o1.ox (BitVec.toNat (4 : BitVec 5) + 0))), cost := 16 : StoreReq }],
        o1.journaled o1.cur r.acc.loc = false ∧ o1.blocked r.acc.loc 8 true = false ∧ r.acc.key = 0 ∧ placeOf r.acc.loc =
        Place.ulm)) := by
  (repeat' apply And.intro) <;> decide +kernel

/-- OperandExtension, completion in the local memory: two registers to and from an aligned address, and nothing in the way. -/
theorem witness_OperandExtension_completes :
    (o1.x 4).toNat % 8 = 0 ∧ (o1.x 4).toNat + 8 * ((1 : BitVec 3).toNat + 1) ≤ o1.cur.window ∧
    (∀ i, i ≤ (1 : BitVec 3).toNat → o1.blocked (o1.cur.localLoc (o1.x 4).toNat + 8 * i) 8 false = false ∧
      o1.poisoned (o1.cur.localLoc (o1.x 4).toNat + 8 * i) 8 = false) ∧
    ∀ i, i ≤ (1 : BitVec 3).toNat → o1.storeRefused o1.cur (o1.cur.localLoc (o1.x 4).toNat + 8 * i) = false ∧
      o1.journaled o1.cur (o1.cur.localLoc (o1.x 4).toNat + 8 * i) = false ∧
      o1.blocked (o1.cur.localLoc (o1.x 4).toNat + 8 * i) 8 true = false := by
  decide +kernel

theorem witness_PredicateResults :
    ((predicateResults1.cur.isThr = true) ∧ (0 < 128 / 2 ^ BitVec.toNat (0 : BitVec 2))) ∧
    ((predicateResults1.cur.isThr = true) ∧ (0 < 128)) ∧
    ((predicateResults1.cur.isThr = true) ∧ (0 < 4)) := by
  (repeat' apply And.intro) <;> decide +kernel

theorem witness_AtomicResults :
    ((aN.atomPlace (aN.x (4 : BitVec 5)) 8 8 = Except.ok (atAcc aN (16 : Word) 8)) ∧
      (aN.blocked (atAcc aN (16 : Word) 8).loc 8 true = false) ∧ (aN.fenceWaits aN.cur (State.ordKind (0 : BitVec 5)) (State.ordScope (0 : BitVec 5)) = false) ∧
      (aN.holds aN.cur = false) ∧ (aN.sendPending aN.cur = false) ∧ ((atAcc aN (16 : Word) 8).key = 0) ∧
      (placeOf (atAcc aN (16 : Word) 8).loc = Place.ulm) ∧
      (aN.readVia aN aN.cur (atAcc aN (16 : Word) 8) (aN.x (4 : BitVec 5)) 8 = Except.ok [(5 : Byte), (0 : Byte), (0 : Byte), (0 :
        Byte), (0 : Byte), (0 : Byte), (0 : Byte), (0 : Byte)]) ∧
      (bytesWord [(5 : Byte), (0 : Byte), (0 : Byte), (0 : Byte), (0 : Byte), (0 : Byte), (0 : Byte), (0 : Byte)] = aN.x (1 :
        BitVec 5))) ∧
    ((aN.atomPlace (aN.x (4 : BitVec 5)) 8 8 = Except.ok (atAcc aN (16 : Word) 8)) ∧
      (aN.blocked (atAcc aN (16 : Word) 8).loc 8 true = false) ∧ (aN.fenceWaits aN.cur (State.ordKind (0 : BitVec 5)) (State.ordScope (0 : BitVec 5)) = false) ∧
      (aN.holds aN.cur = false) ∧ (aN.sendPending aN.cur = false) ∧ ((atAcc aN (16 : Word) 8).key = 0) ∧
      (placeOf (atAcc aN (16 : Word) 8).loc = Place.ulm) ∧
      (aN.readVia aN aN.cur (atAcc aN (16 : Word) 8) (aN.x (4 : BitVec 5)) 8 = Except.ok [(5 : Byte), (0 : Byte), (0 : Byte), (0 :
        Byte), (0 : Byte), (0 : Byte), (0 : Byte), (0 : Byte)]) ∧
      (bytesWord [(5 : Byte), (0 : Byte), (0 : Byte), (0 : Byte), (0 : Byte), (0 : Byte), (0 : Byte), (0 : Byte)] ≠ aN.x (3 :
        BitVec 5))) := by
  (repeat' apply And.intro) <;> decide +kernel

theorem witness_FencesAndCaches :
    ((o1.me.journal = []) ∧ (o1.sendPending o1.cur = false) ∧ (o1.fenceWaits o1.cur 3 5 = false)) ∧
    (o1.lineAccs kindX (State.linesOf (o1.x (4 : BitVec 5)) (min (BitVec.toNat (o1.x (1 : BitVec 5))) 1048576)) = Except.ok
      [(ofN (alignDown 128 (BitVec.toNat (o1.x (4 : BitVec 5))) + 128 * 0), none)]) ∧
    (o1.lineAccs kindR (State.linesOf (o1.x (4 : BitVec 5)) (min (BitVec.toNat (o1.x (1 : BitVec 5))) 1048576)) = Except.ok
      [(ofN (alignDown 128 (BitVec.toNat (o1.x (4 : BitVec 5))) + 128 * 0), none)]) ∧
    (Servable o1) ∧
    ((wA7.cur.isT7 = true) ∧
      (wA7.lineAccs kindW (State.linesOf (wA7.x (4 : BitVec 5)) (min (BitVec.toNat (wA7.x (1 : BitVec 5))) 1048576)) = Except.ok
        [(ofN (alignDown 128 (BitVec.toNat (wA7.x (4 : BitVec 5))) + 128 * 0), none)])) := by
  (repeat' apply And.intro) <;> decide +kernel

theorem witness_SystemRegisters :
    ((State.sysReg (BitVec.toNat (1 : BitVec 12)) = some (State.SysReg.fcsr, State.SysAccess.rw)) ∧
      (o1.mayAccess o1.cur State.SysAccess.rw false = true)) ∧
    ((Servable o1) ∧ (State.sysReg (BitVec.toNat (258 : BitVec 12)) = some (State.SysReg.epc, State.SysAccess.svc)) ∧
      (o1.mayAccess o1.cur State.SysAccess.svc false = false)) ∧
    ((Servable o1) ∧ (State.sysReg (BitVec.toNat (1365 : BitVec 12)) = none)) ∧
    ((wA7.cur = Agent.thr 0 7) ∧ (wA7.sendPending wA7.cur = false)) := by
  (repeat' apply And.intro) <;> decide +kernel

theorem witness_TrapsTaken :
    ((o1.cur = Agent.thr 0 0) ∧ (0 < 7) ∧ (o1.t7Full 0 = false) ∧ (bitAt (o1.getCore 0).ckstat 16 = false) ∧
      (List.filter (fun g => bitAt (Tbl.get (0 : BitVec 64) (o1.getDie (0 / 64 : Nat)).hgc g) 1) (o1.groupsOf 0) = [])) :=
  by decide +kernel

theorem witness_SystemInstructions :
    ((u1.cur.isT7 = false) ∧ (u1.cur.isThr = true) ∧ (BitVec.getLsbD u1.me.utepc 0 = false)) ∧
    ((u1.cur.isAct = true) ∧ (BitVec.toNat u1.timebase < BitVec.toNat (u1.x (1 : BitVec 5)))) ∧
    ((systemInstructions1.cur.isAct = true) ∧
      (BitVec.toNat (systemInstructions1.x (1 : BitVec 5)) ≤ BitVec.toNat systemInstructions1.timebase)) ∧
    ((wA7.cur = Agent.thr 0 7) ∧ (wA7.scanReady 0 = true) ∧ ((wA7.getCore 0).scan = none)) ∧
    ((wA7.cur = Agent.thr 0 7) ∧ (0 < 128) ∧ ((wA7.getCore 0).stop = none) ∧ (wA7.groupsOf 0 = [])) ∧
    ((busy.cur = Agent.thr 0 7) ∧ (busy.scanReady 0 = false)) := by
  (repeat' apply And.intro) <;> decide +kernel

theorem witness_ReturnFromTrap :
    ((wA7.cur = Agent.thr 0 7) ∧ ((wA7.getCore 0).itemWait = []) ∧
      (Instr.eretResume ∈ [Instr.eretResume, Instr.eretPreempt, Instr.eretPark, Instr.eretRetake, Instr.eretKill,
        Instr.eretUnpark]) ∧
      ((wA7.getCore 0).t7cur = none) ∧ ((wA7.getCore 0).t7q = [])) ∧
    ((returnFromTrap1.cur = Agent.thr 0 7) ∧ ((returnFromTrap1.getCore 0).itemWait = []) ∧
      (Instr.eretResume ∈ [Instr.eretResume, Instr.eretPreempt, Instr.eretPark, Instr.eretRetake, Instr.eretKill,
        Instr.eretUnpark]) ∧
      ((returnFromTrap1.getCore 0).t7cur = some it0) ∧ ((returnFromTrap1.getCore 0).t7q = []) ∧ (it0.kind = 0) ∧
      (it0.thr = some 0) ∧ (it0.ref = ItemRef.nothing) ∧ (0 < 6) ∧ ((returnFromTrap1.thread (Agent.thr 0 0)).st = TState.wait) ∧
      (State.trapHeld (returnFromTrap1.thread (Agent.thr 0 0)) = true) ∧
      ((returnFromTrap1.thread (Agent.thr 0 0)).landing = 0) ∧ (field (returnFromTrap1.dispositionWord 0 it0) 0 3 ∈ [0, 6, 7])) ∧
    ((returnFromTrap2.cur = Agent.thr 0 7) ∧ ((returnFromTrap2.getCore 0).itemWait = []) ∧
      (Instr.eretResume ∈ [Instr.eretResume, Instr.eretPreempt, Instr.eretPark, Instr.eretRetake, Instr.eretKill,
        Instr.eretUnpark]) ∧
      ((returnFromTrap2.getCore 0).t7cur = some it0) ∧ ((returnFromTrap2.getCore 0).t7q = []) ∧ (it0.kind = 0) ∧
      (it0.thr = some 0) ∧ (it0.ref = ItemRef.nothing) ∧ (0 < 6) ∧ ((returnFromTrap2.thread (Agent.thr 0 0)).st = TState.wait) ∧
      (State.trapHeld (returnFromTrap2.thread (Agent.thr 0 0)) = true) ∧
      ((returnFromTrap2.thread (Agent.thr 0 0)).landing = 0) ∧ (field (returnFromTrap2.dispositionWord 0 it0) 0 3 = 4) ∧
      ((returnFromTrap2.thread (Agent.thr 0 0)).hosted = none)) ∧
    ((returnFromTrap4.cur = Agent.thr 0 7) ∧ ((returnFromTrap4.getCore 0).itemWait = []) ∧
      (Instr.eretResume ∈ [Instr.eretResume, Instr.eretPreempt, Instr.eretPark, Instr.eretRetake, Instr.eretKill,
        Instr.eretUnpark]) ∧
      ((returnFromTrap4.getCore 0).t7cur = none) ∧ ((returnFromTrap4.getCore 0).t7q = [it0]) ∧
      ((returnFromTrap4.getCore 0).resetting = false) ∧ (it0.kind = 0)) ∧
    ((returnFromTrap5.cur = Agent.thr 0 7) ∧ ((returnFromTrap5.getCore 0).itemWait = []) ∧
      (Instr.eretResume ∈ [Instr.eretResume, Instr.eretPreempt, Instr.eretPark, Instr.eretRetake, Instr.eretKill,
        Instr.eretUnpark]) ∧
      ((returnFromTrap5.getCore 0).t7cur = some { kind := 2 : Item }) ∧ ((returnFromTrap5.getCore 0).t7q = []) ∧
      ({ kind := 2 : Item }.kind = 2) ∧ ({ kind := 2 : Item }.ref = ItemRef.nothing) ∧ (0 < 6) ∧
      (returnFromTrap5.dispositionWord 0 { kind := 2 : Item } = ofN (5 + 256 * 0)) ∧
      ((returnFromTrap5.thread (Agent.thr 0 0)).hosted = some { parked := true : Hosted })) := by
  (repeat' apply And.intro) <;> decide +kernel

/-- ReturnFromTrap, the codes that save or take back: the save area lies in a range; an activation with NR clear and one with NR set. -/
theorem witness_ReturnFromTrap_save :
    ∀ s ∈ [savesS 1, savesS 2, savesS 3, retiredS],
      s.cur = .thr 0 7 ∧ (s.getCore 0).itemWait = [] ∧ (s.getCore 0).t7cur = some it0 ∧ (s.getCore 0).t7q = [] ∧ it0.kind = 0 ∧
      it0.thr = some 0 ∧ it0.ref = .nothing ∧ State.trapHeld (s.thread (.thr 0 0)) = true ∧ (s.thread (.thr 0 0)).resident = false ∧
      (s.thread (.thr 0 0)).hosted = none ∧ s.areaFault 0 0 = none ∧ State.dueError (s.thread (.thr 0 0)) = none := by
  decide +kernel

/-- The codes of those states, and what RETAKE asks. -/
theorem witness_ReturnFromTrap_codes :
    field ((savesS 1).dispositionWord 0 it0) 0 3 = 1 ∧ field ((savesS 2).dispositionWord 0 it0) 0 3 = 2 ∧
    (field ((savesS 3).dispositionWord 0 it0) 0 3 = 3 ∧ ((savesS 3).thread (.thr 0 0)).nr = false ∧ ((savesS 3).thread (.thr 0 0)).rtk < 2) ∧
    (field (retiredS.dispositionWord 0 it0) 0 3 = 3 ∧ (retiredS.thread (.thr 0 0)).nr = true) := by
  decide +kernel

theorem witness_Migration :
    ((mg.cur = Agent.thr 0 0) ∧ (0 < 6) ∧ (mg.me.resident = false) ∧
      (mg.physOf (field (mg.x (1 : BitVec 5)) 0 7) = some (field (mg.lcmEntry (field (mg.x (1 : BitVec 5)) 0 7)) 0 7)) ∧
      (mg.partOf (Agent.thr (field (mg.lcmEntry (field (mg.x (1 : BitVec 5)) 0 7)) 0 7) 0) = mg.myPart) ∧ (mg.me.nr = true) ∧
      (mg.sendPending mg.cur = false) ∧ (field (mg.lcmEntry (field (mg.x (1 : BitVec 5)) 0 7)) 0 7 = 0)) ∧
    ((mg.cur = Agent.thr 0 0) ∧ (0 < 6) ∧ (mg.me.resident = false) ∧ (mg.physOf (field (mg.x (2 : BitVec 5)) 0 7) = none)) ∧
    ((mg.cur = Agent.thr 0 0) ∧ (0 < 6) ∧ (mg.me.resident = false) ∧ (Servable mg) ∧
      (mg.physOf (field (mg.x (4 : BitVec 5)) 0 7) = some (field (mg.lcmEntry (field (mg.x (4 : BitVec 5)) 0 7)) 0 7)) ∧
      (mg.partOf (Agent.thr (field (mg.lcmEntry (field (mg.x (4 : BitVec 5)) 0 7)) 0 7) 0) ≠ mg.myPart)) ∧
    ((mg2.cur = Agent.thr 0 0) ∧ (0 < 6) ∧ (mg2.me.resident = false) ∧
      (mg2.physOf (field (mg2.x (2 : BitVec 5)) 0 7) = some (field (mg2.lcmEntry (field (mg2.x (2 : BitVec 5)) 0 7)) 0 7)) ∧
      (mg2.partOf (Agent.thr (field (mg2.lcmEntry (field (mg2.x (2 : BitVec 5)) 0 7)) 0 7) 0) = mg2.myPart) ∧
      (mg2.me.nr = true) ∧ (mg2.sendPending mg2.cur = false) ∧
      (field (mg2.lcmEntry (field (mg2.x (2 : BitVec 5)) 0 7)) 0 7 ≠ 0) ∧ (mg2.me.hosted = none) ∧ (mg2.pushesPending mg2.cur = false)) := by
  (repeat' apply And.intro) <;> decide +kernel

theorem witness_VectorIntegerResults :
    ((PlainV vS [(3 : BitVec 5), (2 : BitVec 5), (1 : BitVec 5)]) ∧ (∀ fl : FFlags, vS.fpTraps fl = false) ∧
      (0 < 128 / 2 ^ BitVec.toNat (0 : BitVec 2))) ∧
    ((PlainV vS [(3 : BitVec 5), (2 : BitVec 5), (1 : BitVec 5)]) ∧ (∀ fl : FFlags, vS.fpTraps fl = false) ∧
      (0 < 128 / 2 ^ BitVec.toNat (0 : BitVec 2))) ∧
    ((PlainV vS [(3 : BitVec 5), (2 : BitVec 5), (1 : BitVec 5)]) ∧ (∀ fl : FFlags, vS.fpTraps fl = false) ∧
      (0 < 128 / 2 ^ BitVec.toNat (0 : BitVec 2))) ∧
    ((PlainV vS [(3 : BitVec 5), (2 : BitVec 5), (1 : BitVec 5)]) ∧ (∀ fl : FFlags, vS.fpTraps fl = false) ∧
      (0 < (128 / 4 : Nat))) ∧
    ((PlainV vS [(3 : BitVec 5), (2 : BitVec 5), (1 : BitVec 5)]) ∧ (∀ fl : FFlags, vS.fpTraps fl = false) ∧
      (0 < (128 / 4 : Nat))) := by
  (repeat' apply And.intro) <;> decide +kernel

theorem witness_VectorComparisons :
    ((PlainV vS [(3 : BitVec 5), (2 : BitVec 5)]) ∧ (∀ fl : FFlags, vS.fpTraps fl = false) ∧ (0 < 128)) ∧
    ((PlainV vS [(3 : BitVec 5), (2 : BitVec 5)]) ∧ (∀ fl : FFlags, vS.fpTraps fl = false) ∧ (0 < 128)) := by
  (repeat' apply And.intro) <;> decide +kernel

theorem witness_VectorFloatLanes :
    ((PlainV vS [(3 : BitVec 5), (2 : BitVec 5), (1 : BitVec 5)]) ∧ (∀ fl : FFlags, vS.fpTraps fl = false) ∧
      (0 < 128 / vfpSize (2 : BitVec 2))) ∧
    ((PlainV vS [(3 : BitVec 5), (2 : BitVec 5), (1 : BitVec 5)]) ∧ (∀ fl : FFlags, vS.fpTraps fl = false) ∧
      (0 < 128 / vfpSize (2 : BitVec 2))) ∧
    ((PlainV vS [(3 : BitVec 5), (2 : BitVec 5), (1 : BitVec 5)]) ∧ (∀ fl : FFlags, vS.fpTraps fl = false) ∧
      (0 < 128 / vfpSize (2 : BitVec 2))) ∧
    ((PlainV vS [(3 : BitVec 5), (2 : BitVec 5), (1 : BitVec 5)]) ∧ (∀ fl : FFlags, vS.fpTraps fl = false) ∧
      (0 < 128 / vfpSize (2 : BitVec 2))) ∧
    ((PlainV vS [(3 : BitVec 5), (2 : BitVec 5), (1 : BitVec 5)]) ∧ (∀ fl : FFlags, vS.fpTraps fl = false) ∧
      (0 < 128 / vfpSize (2 : BitVec 2))) ∧
    ((PlainV vS [(3 : BitVec 5), (2 : BitVec 5), (1 : BitVec 5)]) ∧ (∀ fl : FFlags, vS.fpTraps fl = false) ∧
      (0 < 128 / vfpSize (2 : BitVec 2))) ∧
    ((PlainV vS [(3 : BitVec 5), (2 : BitVec 5), (1 : BitVec 5)]) ∧ (∀ fl : FFlags, vS.fpTraps fl = false) ∧
      (0 < 128 / vfpSize (2 : BitVec 2))) ∧
    ((PlainV vS [(3 : BitVec 5), (2 : BitVec 5), (1 : BitVec 5)]) ∧ (∀ fl : FFlags, vS.fpTraps fl = false) ∧
      (0 < 128 / vfpSize (2 : BitVec 2))) ∧
    ((PlainV vS [(3 : BitVec 5), (2 : BitVec 5), (1 : BitVec 5)]) ∧ (∀ fl : FFlags, vS.fpTraps fl = false) ∧
      (0 < 128 / vfpSize (2 : BitVec 2))) ∧
    ((PlainV vS [(3 : BitVec 5), (2 : BitVec 5), (1 : BitVec 5)]) ∧ (∀ fl : FFlags, vS.fpTraps fl = false) ∧
      (0 < 128 / vfpSize (2 : BitVec 2))) ∧
    ((PlainV vS [(3 : BitVec 5), (2 : BitVec 5), (1 : BitVec 5)]) ∧ (∀ fl : FFlags, vS.fpTraps fl = false) ∧
      (0 < 128 / vfpSize (2 : BitVec 2))) ∧
    ((PlainV vS [(3 : BitVec 5), (2 : BitVec 5), (1 : BitVec 5)]) ∧ (∀ fl : FFlags, vS.fpTraps fl = false) ∧
      (0 < (128 / 4 : Nat))) := by
  (repeat' apply And.intro) <;> decide +kernel

theorem witness_VectorLoads :
    ((PlainV vT [1, 5]) ∧
      ((match vT.laneChecks 1 false ((List.range 128).map fun i => vT.x 4 + ofN (1 * i)) (vT.me.getP 1) 128 with | .ok ls => (vT.laneReads 1 ls).isOk | .error _ => false) = true)) ∧
    ((PlainV vT [1, 5]) ∧
      ((match vT.laneChecks 1 false ((List.range 128).map fun i => vT.x 4 + ofN i * vT.x 5) (vT.me.getP 1) 128 with | .ok ls => (vT.laneReads 1 ls).isOk | .error _ => false) = true)) ∧
    ((PlainV vT [1, 5]) ∧
      ((match vT.laneChecks 1 false ((lanesOf 1 (vT.me.getV 5)).map fun o => vT.x 4 + ofI (sxL 1 o)) (vT.me.getP 1) 128 with | .ok ls => (vT.laneReads 1 ls).isOk | .error _ => false) = true)) ∧
    ((match vT.laneChecks 1 false ((List.range 128).map fun i => vT.x 4 + ofN i) (BitVec.ofNat 128 (2 ^ min (vT.x 5).toNat 128 - 1)) 128 with | .ok ls => (vT.laneReads 1 ls).isOk | .error _ => false) = true) := by
  (repeat' apply And.intro) <;> decide +kernel

theorem witness_VectorStores :
    ((PlainV vT [1, 5]) ∧
      ((match vT.laneChecks 1 true ((List.range 128).map fun i => vT.x 4 + ofN (1 * i)) (vT.me.getP 1) 128 with | .ok ls => decide (∀ l ∈ ls, placeOf l.2.2.loc = .ulm ∧ l.2.2.key = 0 ∧ vT.journaled vT.cur l.2.2.loc = false ∧ vT.blocked l.2.2.loc 1 true = false) | .error _ => false) = true)) ∧
    ((PlainV vT [1, 5]) ∧
      ((match vT.laneChecks 1 true ((List.range 128).map fun i => vT.x 4 + ofN i * vT.x 5) (vT.me.getP 1) 128 with | .ok ls => decide (∀ l ∈ ls, placeOf l.2.2.loc = .ulm ∧ l.2.2.key = 0 ∧ vT.journaled vT.cur l.2.2.loc = false ∧ vT.blocked l.2.2.loc 1 true = false) | .error _ => false) = true)) ∧
    ((PlainV vT [1, 5]) ∧
      ((match vT.laneChecks 1 true ((lanesOf 1 (vT.me.getV 5)).map fun o => vT.x 4 + ofI (sxL 1 o)) (vT.me.getP 1) 128 with | .ok ls => decide (∀ l ∈ ls, placeOf l.2.2.loc = .ulm ∧ l.2.2.key = 0 ∧ vT.journaled vT.cur l.2.2.loc = false ∧ vT.blocked l.2.2.loc 1 true = false) | .error _ => false) = true)) := by
  (repeat' apply And.intro) <;> decide +kernel

theorem witness_VectorPermutations :
    ((PlainV vT [(3 : BitVec 5), (2 : BitVec 5), (1 : BitVec 5)]) ∧ (∀ fl : FFlags, vT.fpTraps fl = false) ∧ (0 < 1) ∧
      (1 < 128 / 2 ^ BitVec.toNat (0 : BitVec 2))) ∧
    ((PlainV vT [(3 : BitVec 5), (2 : BitVec 5), (1 : BitVec 5)]) ∧ (∀ fl : FFlags, vT.fpTraps fl = false) ∧ (0 < 1) ∧
      (1 < 128 / 2 ^ BitVec.toNat (0 : BitVec 2))) ∧
    ((PlainV vT [(3 : BitVec 5), (2 : BitVec 5), (1 : BitVec 5)]) ∧ (∀ fl : FFlags, vT.fpTraps fl = false) ∧ (0 < 1) ∧
      (1 < 128 / 2 ^ BitVec.toNat (0 : BitVec 2))) ∧
    ((PlainV vT [(3 : BitVec 5), (2 : BitVec 5), (1 : BitVec 5)]) ∧ (BitVec.toNat (0 : BitVec 5) < 2)) ∧
    ((PlainV vT [(3 : BitVec 5), (2 : BitVec 5), (1 : BitVec 5)]) ∧ (∀ fl : FFlags, vT.fpTraps fl = false) ∧
      (0 < 128 / 2 ^ BitVec.toNat (0 : BitVec 2))) ∧
    ((PlainV vT [(3 : BitVec 5), (2 : BitVec 5), (1 : BitVec 5)]) ∧ (∀ fl : FFlags, vT.fpTraps fl = false) ∧
      (0 < 128 / 2 ^ BitVec.toNat (0 : BitVec 2))) := by
  (repeat' apply And.intro) <;> decide +kernel

theorem witness_VectorConversions :
    ((PlainV vT [(3 : BitVec 5), (5 : BitVec 5), (1 : BitVec 5)]) ∧ (∀ fl : FFlags, vT.fpTraps fl = false) ∧
      (0 < 128 / 2 ^ BitVec.toNat (1 : BitVec 2))) ∧
    ((PlainV vT [(3 : BitVec 5), (5 : BitVec 5), (1 : BitVec 5)]) ∧ (BitVec.toNat (1 : BitVec 2) < 3) ∧
      (∀ fl : FFlags, vT.fpTraps fl = false) ∧ (0 < 128 / (2 * 2 ^ BitVec.toNat (1 : BitVec 2)))) ∧
    ((PlainV vT [(3 : BitVec 5), (5 : BitVec 5), (1 : BitVec 5)]) ∧ (BitVec.toNat (1 : BitVec 2) < 3) ∧
      (∀ fl : FFlags, vT.fpTraps fl = false) ∧ (0 < 128 / 2 ^ BitVec.toNat (1 : BitVec 2))) ∧
    ((PlainV vT [(3 : BitVec 5), (5 : BitVec 5), (1 : BitVec 5)]) ∧
      ((if ((List.range 25).any fun j => decide (243 ≤ laneAt (lanesOf 1 (vT.me.getV (3 : BitVec 5))) ((BitVec.toNat (vT.x (5 :
        BitVec 5)) % 128 + j) % 128))) = true then Flag.ternbad else (0 : FFlags)) = (0 : FFlags) ∨ BitVec.getLsbD vT.me.vcsr 8
        = false) ∧
      (0 < 128)) ∧
    ((PlainV vT [(3 : BitVec 5), (5 : BitVec 5), (1 : BitVec 5)]) ∧
      (vT.me.getP (BitVec.toNat (0 : BitVec 3)) = BitVec.allOnes 128) ∧ (∀ fl : FFlags, vT.fpTraps fl = false) ∧
      (0 < 128 / unpk4Size (1 : BitVec 2))) ∧
    ((PlainV vBad [(3 : BitVec 5), (5 : BitVec 5), (1 : BitVec 5)]) ∧
      (laneAt (lanesOf 1 (vBad.me.getV 3)) (((vBad.x 5).toNat % 128 + 16) % 128) % 64 = 63)) := by
  (repeat' apply And.intro) <;> decide +kernel

theorem witness_VectorSpecialFunctions :
    ((PlainV vT [(3 : BitVec 5), (2 : BitVec 5), (1 : BitVec 5), (1 : BitVec 5) + (1 : BitVec 5)]) ∧
      (∀ fl : FFlags, vT.fpTraps fl = false) ∧ (0 < (128 / 4 : Nat))) ∧
    ((PlainV vT [(3 : BitVec 5), (1 : BitVec 5)]) ∧ (0 < 16) ∧ (0 < 8)) := by
  (repeat' apply And.intro) <;> decide +kernel

theorem witness_FloatLoadsStoresAndStreams :
    ((floatLoadsStoresAndStreams1.cur.isThr = true) ∧ (floatLoadsStoresAndStreams1.me.slotOf false (0 : BitVec 5) = none) ∧
      (floatLoadsStoresAndStreams1.load (floatLoadsStoresAndStreams1.ea (4 : BitVec 5) (8 : BitVec 14)) 4 = Except.ok [(2 :
        Byte), (0 : Byte), (0 : Byte), (0 : Byte)])) ∧
    ((floatLoadsStoresAndStreams1.cur.isThr = true) ∧ (floatLoadsStoresAndStreams1.me.slotOf false (0 : BitVec 5) = none) ∧
      ((stAcc fS (4104 : Word) 4).key = 0) ∧
      (AtIssue floatLoadsStoresAndStreams1 (floatLoadsStoresAndStreams1.ea (4 : BitVec 5) (8 : BitVec 14)) 4 (stAcc fS (4104 :
        Word) 4))) ∧
    ((floatLoadsStoresAndStreams1.cur.isThr = true) ∧ (floatLoadsStoresAndStreams1.me.slotOf false (0 : BitVec 5) = none) ∧
      ((stAcc fS (4104 : Word) 4).key = 0) ∧
      (AtIssue floatLoadsStoresAndStreams1 (floatLoadsStoresAndStreams1.ea (4 : BitVec 5) (8 : BitVec 14)) 8 (stAcc fS (4104 :
        Word) 4))) ∧
    ((floatLoadsStoresAndStreams1.cur.isThr = true) ∧
      (floatLoadsStoresAndStreams1.streamValid (BitVec.toNat (0 : BitVec 5)) floatLoadsStoresAndStreams1.streamOf = false) ∧
      (floatLoadsStoresAndStreams1.me.utvec = (0 : Word)) ∧ (Servable floatLoadsStoresAndStreams1)) ∧
    ((floatLoadsStoresAndStreams1.cur.isThr = true) ∧
      (floatLoadsStoresAndStreams1.pushing (BitVec.toNat (0 : BitVec 5)) = false)) ∧
    ((floatLoadsStoresAndStreams1.cur.isThr = true) ∧
      ((floatLoadsStoresAndStreams1.me.getSs (BitVec.toNat (0 : BitVec 5))).bound = false)) ∧
    ((fS.cur.isThr = true) ∧ (fS.me.slotOf false (0 : BitVec 5) = none) ∧
      (fS.load (fS.ea (4 : BitVec 5) (8 : BitVec 14)) 8 = Except.ok [(2 : Byte), (0 : Byte), (0 : Byte), (0 : Byte), (0 : Byte),
        (0 : Byte), (0 : Byte), (0 : Byte)])) ∧
    ((fS.cur.isThr = true) ∧ (fS.streamValid (BitVec.toNat (0 : BitVec 5)) fS.streamOf = true) ∧
      (fS.pushing (BitVec.toNat (0 : BitVec 5)) = false)) ∧
    ((fS.cur.isThr = true) ∧ ((fS.me.getSs (BitVec.toNat (1 : BitVec 5))).bound = true)) :=
  ⟨by decide +kernel, ⟨by decide +kernel, by decide +kernel, by decide +kernel, atIssue_ulm (by decide +kernel)⟩,
    ⟨by decide +kernel, by decide +kernel, by decide +kernel, atIssue_ulm (by decide +kernel)⟩, by decide +kernel,
    by decide +kernel, by decide +kernel, by decide +kernel, by decide +kernel, by decide +kernel⟩

theorem witness_MessagesSentAndEnds :
    (field (snd.x (1 : BitVec 5)) 0 4 ≤ [(5 : Word), (6 : Word), (7 : Word)].length) ∧
    ((field (snd.x (1 : BitVec 5)) 6 27 = 0) ∧ (field (snd.x (1 : BitVec 5)) 4 2 = 0) ∧ (field (snd.x (1 : BitVec 5)) 0 4 ≤ 2) ∧
      (snd.holds snd.cur = true) ∧ (snd.me.jcnt + 80 ≤ 4096)) ∧
    ((field (snd.x (3 : BitVec 5)) 6 27 = 0) ∧ (field (snd.x (3 : BitVec 5)) 4 2 = 0) ∧ (field (snd.x (3 : BitVec 5)) 0 4 ≤ 8) ∧
      (BitVec.toNat (snd.x (4 : BitVec 5)) % 8 = 0) ∧
      (BitVec.toNat (snd.x (4 : BitVec 5)) + 8 * field (snd.x (3 : BitVec 5)) 0 4 ≤ 1048576) ∧
      (snd.loadWords (snd.x (4 : BitVec 5)) (field (snd.x (3 : BitVec 5)) 0 4) = Except.ok [(255 : Word), (0 : Word), (1 :
        Word), (2 : Word), (3 : Word), (4 : Word), (5 : Word), (6 : Word)]) ∧
      (snd.holds snd.cur = true) ∧ (snd.me.jcnt + 80 ≤ 4096)) ∧
    ((Servable snd) ∧ (field (snd.x (6 : BitVec 5)) 6 27 = 0) ∧ (bitAt (snd.x (6 : BitVec 5)) 5 = true) ∧
      (field (snd.x (6 : BitVec 5)) 0 4 ≤ 8) ∧
      (Instr.sendl (6 : BitVec 5) (4 : BitVec 5) ∈ [Instr.sendl (6 : BitVec 5) (4 : BitVec 5), Instr.sendlRpl (6 : BitVec 5) (4
        : BitVec 5)])) ∧
    ((Servable snd) ∧ (field (snd.x (5 : BitVec 5)) 6 27 ≠ 0) ∧
      (Instr.sendI (1 : BitVec 5) (5 : BitVec 5) (4 : BitVec 5) ∈ [Instr.sendI (1 : BitVec 5) (5 : BitVec 5) (4 : BitVec 5),
        Instr.sendl (5 : BitVec 5) (4 : BitVec 5), Instr.sendlRpl (5 : BitVec 5) (4 : BitVec 5)])) ∧
    ((field (sndN.x (1 : BitVec 5)) 6 27 = 0) ∧ (field (sndN.x (1 : BitVec 5)) 4 2 = 0) ∧
      (field (sndN.x (1 : BitVec 5)) 0 4 ≤ 2) ∧ (sndN.holds sndN.cur = false) ∧ (Room sndN)) ∧
    ((field (sndN.x (3 : BitVec 5)) 6 27 = 0) ∧ (field (sndN.x (3 : BitVec 5)) 4 2 = 0) ∧
      (field (sndN.x (3 : BitVec 5)) 0 4 ≤ 8) ∧ (BitVec.toNat (sndN.x (4 : BitVec 5)) % 8 = 0) ∧
      (BitVec.toNat (sndN.x (4 : BitVec 5)) + 8 * field (sndN.x (3 : BitVec 5)) 0 4 ≤ 1048576) ∧
      (sndN.loadWords (sndN.x (4 : BitVec 5)) (field (sndN.x (3 : BitVec 5)) 0 4) = Except.ok [(255 : Word), (0 : Word), (1 :
        Word), (2 : Word), (3 : Word), (4 : Word), (5 : Word), (6 : Word)]) ∧
      (sndN.holds sndN.cur = false) ∧ (Room sndN)) ∧
    ((sndN.cur.isThr = true) ∧ (BitVec.toNat (sndN.x (8 : BitVec 5)) < 128) ∧
      (sndN.inTree (field (sndN.x (8 : BitVec 5)) 6 1) (field (sndN.x (8 : BitVec 5)) 0 6) = true) ∧ (Acts sndN) ∧ (Room sndN)) ∧
    ((snd7.cur.isT7 = true) ∧ (field (snd7.x (6 : BitVec 5)) 6 27 = 0) ∧ (bitAt (snd7.x (6 : BitVec 5)) 5 = true) ∧
      (field (snd7.x (6 : BitVec 5)) 0 4 ≤ 8) ∧ (BitVec.toNat (snd7.x (4 : BitVec 5)) % 8 = 0) ∧
      (BitVec.toNat (snd7.x (4 : BitVec 5)) + 80 ≤ 1048576) ∧
      (snd7.loadBytes snd7.cur (snd7.x (4 : BitVec 5)) 80 = Except.ok (snd7.plain
        { loc := snd7.cur.localLoc (BitVec.toNat (snd7.x (4 : BitVec 5))) : Machine.Acc }.loc 80
        { loc := snd7.cur.localLoc (BitVec.toNat (snd7.x (4 : BitVec 5))) : Machine.Acc }.key)) ∧
      ((Msg.ofBytes (snd7.plain { loc := snd7.cur.localLoc (BitVec.toNat (snd7.x (4 : BitVec 5))) : Machine.Acc }.loc 80
        { loc := snd7.cur.localLoc (BitVec.toNat (snd7.x (4 : BitVec 5))) : Machine.Acc }.key)).dc = snd7.coordOf snd7.cur) ∧
      (Instr.sendl (6 : BitVec 5) (4 : BitVec 5) ∈ [Instr.sendl (6 : BitVec 5) (4 : BitVec 5), Instr.sendlRpl (6 : BitVec 5) (4
        : BitVec 5)])) ∧
    ((Instr.endAct ∈ [Instr.endAct, Instr.cEnd]) ∧ (snd.cur.isAct = true)) ∧
    ((Instr.endAct ∈ [Instr.endAct, Instr.cEnd]) ∧ (wA6.cur = Agent.thr 0 6) ∧ (wA6.me.hosted = none) ∧ (wA6.me.ss = [])) ∧
    ((Instr.endAct ∈ [Instr.endAct, Instr.cEnd]) ∧ (wsq.cur = Agent.seq 0 0) ∧
      (Tbl.get none (wsq.getSet 0).cur 0 = some { seqNo := 4 : ForkEntry })) := by
  (repeat' apply And.intro) <;> decide +kernel

theorem witness_RemoteOperations :
    ((BitVec.toNat (rS.x (1 : BitVec 5)) < 2 ^ 27) ∧ (BitVec.toNat (rS.x (1 : BitVec 5)) % 8 = 0) ∧ (rS.holds rS.cur = true) ∧
      (rS.me.jcnt + 80 ≤ 4096)) ∧
    ((BitVec.toNat (rS.x (1 : BitVec 5)) < 2 ^ 27) ∧ (BitVec.toNat (rS.x (1 : BitVec 5)) % 8 = 0) ∧ (Room rS)) ∧
    ((Servable rS) ∧ (BitVec.toNat (rS.x (2 : BitVec 5)) < 2 ^ 27) ∧ (BitVec.toNat (rS.x (2 : BitVec 5)) % 8 ≠ 0) ∧
      (Instr.rld (1 : BitVec 5) (2 : BitVec 5) ∈ [Instr.rld (1 : BitVec 5) (2 : BitVec 5), Instr.rst (2 : BitVec 5) (5 : BitVec
        5), Instr.rcas (1 : BitVec 5) (2 : BitVec 5) (5 : BitVec 5), Instr.ramo (1 : BitVec 5) (2 : BitVec 5) (5 : BitVec 5) (0
        : BitVec 4)])) ∧
    ((Servable rS) ∧ (2 ^ 27 ≤ BitVec.toNat (rS.x (3 : BitVec 5))) ∧
      (Instr.rld (1 : BitVec 5) (3 : BitVec 5) ∈ [Instr.rld (1 : BitVec 5) (3 : BitVec 5), Instr.rst (3 : BitVec 5) (5 : BitVec
        5), Instr.rcas (1 : BitVec 5) (3 : BitVec 5) (5 : BitVec 5), Instr.ramo (1 : BitVec 5) (3 : BitVec 5) (5 : BitVec 5) (0
        : BitVec 4)])) ∧
    ((BitVec.toNat (rN.x (1 : BitVec 5)) < 2 ^ 27) ∧ (BitVec.toNat (rN.x (1 : BitVec 5)) % 8 = 0) ∧ (rN.holds rN.cur = false) ∧
      (Room rN)) ∧
    ((BitVec.toNat (rN.x (1 : BitVec 5)) < 2 ^ 27) ∧ (BitVec.toNat (rN.x (1 : BitVec 5)) % 8 = 0) ∧ (Acts rN) ∧ (Room rN) ∧
      ((1 : BitVec 5) ≠ (0 : BitVec 5))) := by
  (repeat' apply And.intro) <;> decide +kernel

theorem witness_QueueRegisters :
    (Servable queueRegisters1) ∧
    ((queueRegisters1.qMay queueRegisters1.cur (BitVec.toNat (2 : BitVec 5)) true = true) ∧ (Acts queueRegisters1) ∧
      ((queueRegisters1.qreg queueRegisters1.cur.unit (BitVec.toNat (2 : BitVec 5))).entries.length < 16)) ∧
    ((queueRegisters1.qMay queueRegisters1.cur (BitVec.toNat (2 : BitVec 5)) false = true) ∧ (Acts queueRegisters1) ∧
      (queueRegisters1.me.st = TState.run) ∧ (queueRegisters1.me.wait = none) ∧
      ((queueRegisters1.qreg queueRegisters1.cur.unit (BitVec.toNat (2 : BitVec 5))).entries = ((7 : Word), false) ::
        List.replicate 2 ((7 : Word), false)) ∧
      (Instr.qget (1 : BitVec 5) (2 : BitVec 5) ∈ [Instr.qget (1 : BitVec 5) (2 : BitVec 5), Instr.qtry (1 : BitVec 5) (2 :
        BitVec 5) (1 : BitVec 5)]) ∧
      (queueRegisters1.cur.isT6 = false ∨ Instr.qget (1 : BitVec 5) (2 : BitVec 5) = Instr.qtry (1 : BitVec 5) (2 : BitVec 5) (1
        : BitVec 5))) ∧
    ((queueRegisters2.qMay queueRegisters2.cur (BitVec.toNat (2 : BitVec 5)) true = true) ∧ (Acts queueRegisters2) ∧
      (16 ≤ (queueRegisters2.qreg queueRegisters2.cur.unit (BitVec.toNat (2 : BitVec 5))).entries.length)) ∧
    ((queueRegisters3.qMay queueRegisters3.cur (BitVec.toNat (2 : BitVec 5)) false = true) ∧ (Acts queueRegisters3) ∧
      ((queueRegisters3.qreg queueRegisters3.cur.unit (BitVec.toNat (2 : BitVec 5))).entries = []) ∧
      (queueRegisters3.cur.isT6 = false)) ∧
    ((Servable queueRegisters4) ∧ (queueRegisters4.qMay queueRegisters4.cur (BitVec.toNat (2 : BitVec 5)) true = false)) ∧
    ((queueRegisters5.cur.isT7 = true ∨ queueRegisters5.cur.isSeq = true) ∧
      (queueRegisters5.x (1 : BitVec 5) &&& (18446744073709551240 : Word) = (0 : Word)) ∧ (Acts queueRegisters5)) := by
  (repeat' apply And.intro) <;> decide +kernel

theorem witness_Copies :
    ((State.mayCopy c0.cur = true) ∧ (Acts c0) ∧ (c0.copyReady c0.cur (okD { : CopyReq } c0.cpyCheck) = true) ∧
      ((okD { : CopyReq } c0.cpyCheck).refused = none) ∧ (0 < (okD { : CopyReq } c0.cpyCheck).len) ∧
      (c0.cpyCheck = Except.ok (okD { : CopyReq } c0.cpyCheck))) ∧
    ((State.mayCopy c0.cur = true) ∧ (Acts c0) ∧ (c0.x (1 : BitVec 5) &&& (18446462598732840960 : Word) ≠ c0.handleBase c0.cur)) ∧
    ((State.mayCopy c1.cur = true) ∧ (Acts c1) ∧
      (c1.x (1 : BitVec 5) &&& (18446462598732840960 : Word) = c1.handleBase c1.cur) ∧
      (List.find? (fun c => decide (c.handle = c1.x (1 : BitVec 5))) (c1.ceOf c1.cur).live = some
        { handle := hb + (5 : Word), len := 64, prog := 32 : Copy }) ∧
      ({ handle := hb + (5 : Word), len := 64, prog := 32 : Copy }.state = CState.inFlight) ∧
      ({ handle := hb + (5 : Word), len := 64, prog := 32 : Copy }.ck = 0) ∧
      ({ handle := hb + (5 : Word), len := 64, prog := 32 : Copy }.role = CopyRole.plain)) ∧
    ((State.mayCopy cpymS.cur = true) ∧ (Acts cpymS) ∧ (cpymS.copyReady cpymS.cur (okD { : CopyReq } cpymS.cpymCheck) = true) ∧
      ((okD { : CopyReq } cpymS.cpymCheck).refused = none) ∧ (0 < (okD { : CopyReq } cpymS.cpymCheck).len) ∧
      (cpymS.cpymCheck = Except.ok (okD { : CopyReq } cpymS.cpymCheck))) := by
  (repeat' apply And.intro) <;> decide +kernel

theorem witness_Reels :
    ((BitVec.toNat (reels1.x (1 : BitVec 5)) % 64 = 0) ∧ (BitVec.toNat (reels1.x (1 : BitVec 5)) + 64 ≤ reels1.cur.window) ∧
      (State.reelConfig reels1.cur (reels1.x (2 : BitVec 5)) = true) ∧
      (reels1.reelTargeted (reels1.cur.localLoc (BitVec.toNat (reels1.x (1 : BitVec 5)))) none = false) ∧
      (reels1.binNames (reels1.cur.localLoc (BitVec.toNat (reels1.x (1 : BitVec 5)))) = false) ∧ (Acts reels1)) ∧
    ((BitVec.toNat (reels2.x (1 : BitVec 5)) % 64 = 0) ∧ (BitVec.toNat (reels2.x (1 : BitVec 5)) + 64 ≤ reels2.cur.window) ∧
      (reels2.cur.isT6 = false) ∧ (reels2.reelValid (reels2.cur.localLoc (BitVec.toNat (reels2.x (1 : BitVec 5)))) = true) ∧
      (bitAt (reels2.reelFill (reels2.cur.localLoc (BitVec.toNat (reels2.x (1 : BitVec 5))))) 0 = true)) ∧
    ((BitVec.toNat (reels2.x (1 : BitVec 5)) % 64 = 0) ∧ (BitVec.toNat (reels2.x (1 : BitVec 5)) + 64 ≤ reels2.cur.window) ∧
      (reels2.reelValid (reels2.cur.localLoc (BitVec.toNat (reels2.x (1 : BitVec 5)))) = true) ∧
      (bitAt (reels2.reelFill (reels2.cur.localLoc (BitVec.toNat (reels2.x (1 : BitVec 5))))) 0 = true) ∧
      (reels2.reelTile (reels2.cur.localLoc (BitVec.toNat (reels2.x (1 : BitVec 5)))) = false) ∧
      (reels2.reelN (reels2.cur.localLoc (BitVec.toNat (reels2.x (1 : BitVec 5)))) ≤ 1024) ∧ (Acts reels2)) ∧
    ((BitVec.toNat (reels3.x (1 : BitVec 5)) % 64 = 0) ∧ (BitVec.toNat (reels3.x (1 : BitVec 5)) + 64 ≤ reels3.cur.window) ∧
      (reels3.cur.isT6 = false) ∧ (reels3.reelValid (reels3.cur.localLoc (BitVec.toNat (reels3.x (1 : BitVec 5)))) = true) ∧
      (bitAt (reels3.reelFill (reels3.cur.localLoc (BitVec.toNat (reels3.x (1 : BitVec 5))))) 0 = false)) := by
  (repeat' apply And.intro) <;> decide +kernel

theorem witness_TasksAndFutures :
    ((BitVec.toNat (tasksAndFutures1.x (1 : BitVec 5)) < 4096) ∧ (BitVec.toNat (tasksAndFutures1.x (2 : BitVec 5)) % 64 = 0) ∧
      (BitVec.toNat (tasksAndFutures1.x (2 : BitVec 5)) + 64 ≤ tasksAndFutures1.cur.window) ∧
      (tasksAndFutures1.loadBytes tasksAndFutures1.cur (tasksAndFutures1.x (2 : BitVec 5)) 64 = Except.ok (okD [] ((tk tT [(5 :
        Word), (0 : Word), (0 : Word), (0 : Word), (1 : Word), (2 : Word), (3 : Word), (4 : Word)]).loadBytes (Agent.thr 0 0)
        (4096 : Word) 64))) ∧
      (tasksAndFutures1.holds tasksAndFutures1.cur = true) ∧ (tasksAndFutures1.me.jcnt + 80 ≤ 4096)) ∧
    ((BitVec.toNat (tasksAndFutures1.x (2 : BitVec 5)) % 64 = 0) ∧
      (BitVec.toNat (tasksAndFutures1.x (2 : BitVec 5)) + 64 ≤ tasksAndFutures1.cur.window) ∧
      (tasksAndFutures1.loadBytes tasksAndFutures1.cur (tasksAndFutures1.x (2 : BitVec 5)) 64 = Except.ok (okD [] ((tk tT [(5 :
        Word), (0 : Word), (0 : Word), (0 : Word), (1 : Word), (2 : Word), (3 : Word), (4 : Word)]).loadBytes (Agent.thr 0 0)
        (4096 : Word) 64))) ∧
      (launchWellFormed (bytesWords (okD [] ((tk tT [(5 : Word), (0 : Word), (0 : Word), (0 : Word), (1 : Word), (2 : Word), (3
        : Word), (4 : Word)]).loadBytes (Agent.thr 0 0) (4096 : Word) 64))) = true) ∧
      (tasksAndFutures1.launchGranted tasksAndFutures1.myPart (wordAt (bytesWords (okD [] ((tk tT [(5 : Word), (0 : Word), (0 :
        Word), (0 : Word), (1 : Word), (2 : Word), (3 : Word), (4 : Word)]).loadBytes (Agent.thr 0 0) (4096 : Word) 64))) 2) =
        true) ∧
      (tasksAndFutures1.launchGranted tasksAndFutures1.myPart (wordAt (bytesWords (okD [] ((tk tT [(5 : Word), (0 : Word), (0 :
        Word), (0 : Word), (1 : Word), (2 : Word), (3 : Word), (4 : Word)]).loadBytes (Agent.thr 0 0) (4096 : Word) 64))) 3) =
        true) ∧
      (tasksAndFutures1.holds tasksAndFutures1.cur = true) ∧ (tasksAndFutures1.me.jcnt + 80 ≤ 4096)) ∧
    ((BitVec.toNat (tasksAndFutures1.x (2 : BitVec 5)) % 16 = 0) ∧
      (tasksAndFutures1.resolve tasksAndFutures1.cur (tasksAndFutures1.x (2 : BitVec 5)) 16 kindR = Except.ok (ldAcc tasksAndFutures1 4096 16)) ∧
      (tasksAndFutures1.readVia tasksAndFutures1 tasksAndFutures1.cur (ldAcc tasksAndFutures1 4096 16) (tasksAndFutures1.x (2 : BitVec 5)) 16 = Except.ok (okD [] ((tk tT [(5 :
        Word), (0 : Word)]).loadBytes (Agent.thr 0 0) (4096 : Word) 16))) ∧
      (bitAt (wordAt (bytesWords (okD [] ((tk tT [(5 : Word), (0 : Word)]).loadBytes (Agent.thr 0 0) (4096 : Word) 16))) 1) 0 =
        false) ∧
      (tasksAndFutures1.cur.isThr = true)) ∧
    ((BitVec.toNat (tasksAndFutures2.x (1 : BitVec 5)) < 4096) ∧ (BitVec.toNat (tasksAndFutures2.x (2 : BitVec 5)) % 64 = 0) ∧
      (BitVec.toNat (tasksAndFutures2.x (2 : BitVec 5)) + 64 ≤ tasksAndFutures2.cur.window) ∧
      (tasksAndFutures2.loadBytes tasksAndFutures2.cur (tasksAndFutures2.x (2 : BitVec 5)) 64 = Except.ok (okD [] ((tk tT [(5 :
        Word), (0 : Word), (0 : Word), (0 : Word), (1 : Word), (2 : Word), (3 : Word), (4 : Word)]).loadBytes (Agent.thr 0 0)
        (4096 : Word) 64))) ∧
      (tasksAndFutures2.holds tasksAndFutures2.cur = false) ∧ (Room tasksAndFutures2)) ∧
    ((BitVec.toNat (tasksAndFutures2.x (2 : BitVec 5)) % 64 = 0) ∧
      (BitVec.toNat (tasksAndFutures2.x (2 : BitVec 5)) + 64 ≤ tasksAndFutures2.cur.window) ∧
      (tasksAndFutures2.loadBytes tasksAndFutures2.cur (tasksAndFutures2.x (2 : BitVec 5)) 64 = Except.ok (okD [] ((tk tT [(5 :
        Word), (0 : Word), (0 : Word), (0 : Word), (1 : Word), (2 : Word), (3 : Word), (4 : Word)]).loadBytes (Agent.thr 0 0)
        (4096 : Word) 64))) ∧
      (launchWellFormed (bytesWords (okD [] ((tk tT [(5 : Word), (0 : Word), (0 : Word), (0 : Word), (1 : Word), (2 : Word), (3
        : Word), (4 : Word)]).loadBytes (Agent.thr 0 0) (4096 : Word) 64))) = true) ∧
      (tasksAndFutures2.launchGranted tasksAndFutures2.myPart (wordAt (bytesWords (okD [] ((tk tT [(5 : Word), (0 : Word), (0 :
        Word), (0 : Word), (1 : Word), (2 : Word), (3 : Word), (4 : Word)]).loadBytes (Agent.thr 0 0) (4096 : Word) 64))) 2) =
        true) ∧
      (tasksAndFutures2.launchGranted tasksAndFutures2.myPart (wordAt (bytesWords (okD [] ((tk tT [(5 : Word), (0 : Word), (0 :
        Word), (0 : Word), (1 : Word), (2 : Word), (3 : Word), (4 : Word)]).loadBytes (Agent.thr 0 0) (4096 : Word) 64))) 3) =
        true) ∧
      (tasksAndFutures2.holds tasksAndFutures2.cur = false) ∧ (Room tasksAndFutures2)) ∧
    ((tasksAndFutures2.atomPlace (tasksAndFutures2.x (2 : BitVec 5)) 16 16 = Except.ok (stAcc (tk tT []) (4096 : Word) 64)) ∧
      (tasksAndFutures2.blocked (stAcc (tk tT []) (4096 : Word) 64).loc 16 true = false) ∧ (Acts tasksAndFutures2) ∧
      (tasksAndFutures2.readVia tasksAndFutures2 tasksAndFutures2.cur (stAcc (tk tT []) (4096 : Word) 64) (tasksAndFutures2.x (2 : BitVec 5)) 16
        = Except.ok (okD [] ((tk tT [(5 : Word), (0 : Word)]).loadBytes (Agent.thr 0 0) (4096 : Word) 16))) ∧
      ((stAcc (tk tT []) (4096 : Word) 64).key = 0) ∧ (placeOf (stAcc (tk tT []) (4096 : Word) 64).loc = Place.ulm) ∧
      (bitAt (wordAt (bytesWords (okD [] ((tk tT [(5 : Word), (0 : Word)]).loadBytes (Agent.thr 0 0) (4096 : Word) 16))) 1) 0 =
        false)) ∧
    ((BitVec.toNat (tasksAndFutures3.x (2 : BitVec 5)) % 16 = 0) ∧
      (tasksAndFutures3.resolve tasksAndFutures3.cur (tasksAndFutures3.x (2 : BitVec 5)) 16 kindR = Except.ok (ldAcc tasksAndFutures3 4096 16)) ∧
      (tasksAndFutures3.readVia tasksAndFutures3 tasksAndFutures3.cur (ldAcc tasksAndFutures3 4096 16) (tasksAndFutures3.x (2 : BitVec 5)) 16 = Except.ok (okD [] ((tk tT [(5 :
        Word), (1 : Word)]).loadBytes (Agent.thr 0 0) (4096 : Word) 16))) ∧
      (bitAt (wordAt (bytesWords (okD [] ((tk tT [(5 : Word), (1 : Word)]).loadBytes (Agent.thr 0 0) (4096 : Word) 16))) 1) 0 =
        true)) ∧
    ((tasksAndFutures4.atomPlace (tasksAndFutures4.x (2 : BitVec 5)) 16 16 = Except.ok (stAcc (tk tT []) (4096 : Word) 64)) ∧
      (tasksAndFutures4.blocked (stAcc (tk tT []) (4096 : Word) 64).loc 16 true = false) ∧ (Acts tasksAndFutures4) ∧
      (tasksAndFutures4.readVia tasksAndFutures4 tasksAndFutures4.cur (stAcc (tk tT []) (4096 : Word) 64) (tasksAndFutures4.x (2 : BitVec 5)) 16
        = Except.ok (okD [] ((tk tT [(5 : Word), (1 : Word)]).loadBytes (Agent.thr 0 0) (4096 : Word) 16))) ∧
      ((stAcc (tk tT []) (4096 : Word) 64).key = 0) ∧ (placeOf (stAcc (tk tT []) (4096 : Word) 64).loc = Place.ulm) ∧
      (bitAt (wordAt (bytesWords (okD [] ((tk tT [(5 : Word), (1 : Word)]).loadBytes (Agent.thr 0 0) (4096 : Word) 16))) 1) 0 =
        true)) ∧
    ((BitVec.toNat (tasksAndFutures5.x (1 : BitVec 5)) < 4096) ∧ (BitVec.toNat (tasksAndFutures5.x (2 : BitVec 5)) % 64 = 0) ∧
      (BitVec.toNat (tasksAndFutures5.x (2 : BitVec 5)) + 64 ≤ tasksAndFutures5.cur.window) ∧
      (tasksAndFutures5.storeCheck tasksAndFutures5.cur (tasksAndFutures5.x (2 : BitVec 5)) 64 = Except.ok (stAcc (tk tT [])
        (4096 : Word) 64)) ∧
      (tasksAndFutures5.taskQ tasksAndFutures5.myPart (field (tasksAndFutures5.x (1 : BitVec 5)) 0 12) = some { : TaskQ }) ∧
      (Acts tasksAndFutures5) ∧ ({ : TaskQ }.head = none)) ∧
    ((BitVec.toNat (tasksAndFutures6.x (1 : BitVec 5)) < 4096) ∧ (BitVec.toNat (tasksAndFutures6.x (2 : BitVec 5)) % 64 = 0) ∧
      (BitVec.toNat (tasksAndFutures6.x (2 : BitVec 5)) + 64 ≤ tasksAndFutures6.cur.window) ∧
      (tasksAndFutures6.storeCheck tasksAndFutures6.cur (tasksAndFutures6.x (2 : BitVec 5)) 64 = Except.ok (stAcc (tk tT [])
        (4096 : Word) 64)) ∧
      (tasksAndFutures6.taskQ tasksAndFutures6.myPart (field (tasksAndFutures6.x (1 : BitVec 5)) 0 12) = some
        { entries := [e0] : TaskQ }) ∧
      (Acts tasksAndFutures6) ∧ ({ entries := [e0] : TaskQ }.head = some e0) ∧ (e0.poisoned = false) ∧ (e0.words.length = 8) ∧
      (tasksAndFutures6.blocked (stAcc (tk tT []) (4096 : Word) 64).loc 64 true = false) ∧
      ((stAcc (tk tT []) (4096 : Word) 64).key = 0) ∧ (placeOf (stAcc (tk tT []) (4096 : Word) 64).loc = Place.ulm)) := by
  (repeat' apply And.intro) <;> decide +kernel

theorem witness_CountersBarriersSlates :
    ((countersBarriersSlates10.me.wait = none) ∧
      (countersBarriersSlates10.counterAt (countersBarriersSlates10.x (1 : BitVec 5)) = Except.ok (0, 5)) ∧
      (Acts countersBarriersSlates10) ∧ (field (countersBarriersSlates10.x (2 : BitVec 5)) 32 32 = 0)) ∧
    ((countersBarriersSlates10.me.wait = none) ∧
      (countersBarriersSlates10.counterAt (countersBarriersSlates10.x (1 : BitVec 5)) = Except.ok (0, 5)) ∧
      (Acts countersBarriersSlates10) ∧ ((3 : BitVec 5) ≠ (0 : BitVec 5)) ∧
      (field (countersBarriersSlates10.x (2 : BitVec 5)) 32 31 = 0) ∧ ((countersBarriersSlates10.dc 0 5).poison = false) ∧
      (BitVec.getLsbD (countersBarriersSlates10.x (2 : BitVec 5)) 63 = false) ∧
      ((countersBarriersSlates10.dc 0 5).value.toNat < field (countersBarriersSlates10.x (2 : BitVec 5)) 0 32)) ∧
    ((countersBarriersSlates10.me.wait = none) ∧
      (countersBarriersSlates10.counterAt (countersBarriersSlates10.x (1 : BitVec 5)) = Except.ok (0, 5)) ∧
      (countersBarriersSlates10.cur.isT6 = false) ∧ ((countersBarriersSlates10.dc 0 5).poison = false) ∧
      ((countersBarriersSlates10.dc 0 5).value = (0 : BitVec 32))) ∧
    ((countersBarriersSlates10.me.wait = none) ∧
      (countersBarriersSlates10.barrierAt (countersBarriersSlates10.x (1 : BitVec 5)) = Except.ok (0, 5)) ∧
      (Acts countersBarriersSlates10) ∧ (1 ≤ BitVec.toNat (countersBarriersSlates10.x (2 : BitVec 5))) ∧
      (BitVec.toNat (countersBarriersSlates10.x (2 : BitVec 5)) ≤ 65535) ∧
      ((countersBarriersSlates10.bar 0 5).arrivals = (0 : BitVec 16)) ∧
      (countersBarriersSlates10.someWaits (State.onBar 0 5) = false)) ∧
    ((countersBarriersSlates10.me.wait = none) ∧
      (countersBarriersSlates10.barrierAt (countersBarriersSlates10.x (1 : BitVec 5)) = Except.ok (0, 5)) ∧
      (countersBarriersSlates10.cur.isT6 = false) ∧ ((countersBarriersSlates10.bar 0 5).poison = false) ∧
      ((countersBarriersSlates10.bar 0 5).phase ≠ BitVec.setWidth 16 (countersBarriersSlates10.x (2 : BitVec 5)))) ∧
    ((countersBarriersSlates10.slateAt (countersBarriersSlates10.x (1 : BitVec 5)) = Except.ok (0, 5)) ∧
      (Acts countersBarriersSlates10) ∧ (countersBarriersSlates10.checkSlopen = Except.ok ()) ∧
      (bitAt (countersBarriersSlates10.ox 3) 35 = false) ∧ ((countersBarriersSlates10.getSlate 0 5).state = 0) ∧
      ({ gen := (countersBarriersSlates10.getSlate 0 5).gen + (1 : BitVec 16), state := 1, tOpen := countersBarriersSlates10.ox 0, tClose := countersBarriersSlates10.ox 1, mask := countersBarriersSlates10.ox 2, ctl := countersBarriersSlates10.ox 3, marks := (countersBarriersSlates10.getSlate 0 5).marks, part := countersBarriersSlates10.myPart : Slate }.pend
        ≠ 0) ∧
      (BitVec.toNat countersBarriersSlates10.timebase < BitVec.toNat
        { gen := (countersBarriersSlates10.getSlate 0 5).gen + (1 : BitVec 16), state := 1, tOpen := countersBarriersSlates10.ox 0, tClose := countersBarriersSlates10.ox 1, mask := countersBarriersSlates10.ox 2, ctl := countersBarriersSlates10.ox 3, marks := (countersBarriersSlates10.getSlate 0 5).marks, part := countersBarriersSlates10.myPart : Slate }.tClose
        + 100 *
        { gen := (countersBarriersSlates10.getSlate 0 5).gen + (1 : BitVec 16), state := 1, tOpen := countersBarriersSlates10.ox 0, tClose := countersBarriersSlates10.ox 1, mask := countersBarriersSlates10.ox 2, ctl := countersBarriersSlates10.ox 3, marks := (countersBarriersSlates10.getSlate 0 5).marks, part := countersBarriersSlates10.myPart : Slate }.grace)
        ∧
      (Instr.slopen (3 : BitVec 5) (1 : BitVec 5) ∈ [Instr.slopen (3 : BitVec 5) (1 : BitVec 5), Instr.slopenClose (3 : BitVec
        5) (1 : BitVec 5)])) ∧
    ((countersBarriersSlates10.slateAt (countersBarriersSlates10.x (1 : BitVec 5)) = Except.ok (0, 5)) ∧
      (countersBarriersSlates10.cur.isT6 = false) ∧
      ((countersBarriersSlates10.getSlate 0 5).gen ≠ BitVec.setWidth 16 (countersBarriersSlates10.x (2 : BitVec 5)) ∨
        (countersBarriersSlates10.getSlate 0 5).state = 0) ∧
      ((countersBarriersSlates10.getSlate 0 5).state ≠ 2)) ∧
    ((countersBarriersSlates11.slateAt (countersBarriersSlates11.x (1 : BitVec 5)) = Except.ok (0, 5)) ∧
      (Acts countersBarriersSlates11) ∧ (countersBarriersSlates11.checkSlopen = Except.ok ()) ∧
      (bitAt (countersBarriersSlates11.ox 3) 35 = true) ∧ ((countersBarriersSlates11.getSlate 0 5).state = 1) ∧
      (countersBarriersSlates11.me.wait = none) ∧ (∀ m < 8, (countersBarriersSlates11.getSet (8 * 0 + m)).bins = []) ∧
      (Instr.slopen (3 : BitVec 5) (1 : BitVec 5) ∈ [Instr.slopen (3 : BitVec 5) (1 : BitVec 5), Instr.slopenClose (3 : BitVec
        5) (1 : BitVec 5)])) ∧
    ((countersBarriersSlates11.slateAt (countersBarriersSlates11.x (1 : BitVec 5)) = Except.ok (0, 5)) ∧
      (countersBarriersSlates11.cur.isT6 = false) ∧
      ((countersBarriersSlates11.getSlate 0 5).gen = BitVec.setWidth 16 (countersBarriersSlates11.x (2 : BitVec 5))) ∧
      ((countersBarriersSlates11.getSlate 0 5).state = 1)) ∧
    ((countersBarriersSlates14.atomPlace (countersBarriersSlates14.x (1 : BitVec 5)) 32 32 = Except.ok (atAcc (bmp []) (4096 :
      Word) 32)) ∧
      (countersBarriersSlates14.blocked (atAcc (bmp []) (4096 : Word) 32).loc 32 true = false) ∧
      (Acts countersBarriersSlates14) ∧
      (countersBarriersSlates14.readVia countersBarriersSlates14 countersBarriersSlates14.cur (atAcc (bmp []) (4096 : Word) 32)
        (countersBarriersSlates14.x (1 : BitVec 5)) 32 = Except.ok (okD [] ((bmp [(256 : Word), (271 : Word), (8 : Word), (3 :
        Word)]).loadBytes (Agent.thr 0 0) (4096 : Word) 32))) ∧
      ((atAcc (bmp []) (4096 : Word) 32).key = 0) ∧ (placeOf (atAcc (bmp []) (4096 : Word) 32).loc = Place.ulm) ∧
      ((¬∃ j < 18, BitVec.toNat (wordAt (bytesWords (okD [] ((bmp [(256 : Word), (271 : Word), (8 : Word), (3 :
        Word)]).loadBytes (Agent.thr 0 0) (4096 : Word) 32))) 2) = 2 ^ (j + 3)) ∨ BitVec.toNat (wordAt (bytesWords (okD [] ((bmp
        [(256 : Word), (271 : Word), (8 : Word), (3 : Word)]).loadBytes (Agent.thr 0 0) (4096 : Word) 32))) 1) < BitVec.toNat
        (wordAt (bytesWords (okD [] ((bmp [(256 : Word), (271 : Word), (8 : Word), (3 : Word)]).loadBytes (Agent.thr 0 0) (4096
        : Word) 32))) 0) + BitVec.toNat (countersBarriersSlates14.x (2 : BitVec 5)) * BitVec.toNat (wordAt (bytesWords (okD []
        ((bmp [(256 : Word), (271 : Word), (8 : Word), (3 : Word)]).loadBytes (Agent.thr 0 0) (4096 : Word) 32))) 2))) ∧
    ((countersBarriersSlates1.me.wait = none) ∧
      (countersBarriersSlates1.counterAt (countersBarriersSlates1.x (1 : BitVec 5)) = Except.ok (0, 5)) ∧
      (Acts countersBarriersSlates1) ∧ ((3 : BitVec 5) ≠ (0 : BitVec 5)) ∧
      (field (countersBarriersSlates1.x (2 : BitVec 5)) 32 31 = 0) ∧ ((countersBarriersSlates1.dc 0 5).poison = false) ∧
      (BitVec.getLsbD (countersBarriersSlates1.x (2 : BitVec 5)) 63 = false) ∧
      (field (countersBarriersSlates1.x (2 : BitVec 5)) 0 32 = (countersBarriersSlates1.dc 0 5).value.toNat)) ∧
    ((countersBarriersSlates1.me.wait = none) ∧
      (countersBarriersSlates1.counterAt (countersBarriersSlates1.x (1 : BitVec 5)) = Except.ok (0, 5)) ∧
      (countersBarriersSlates1.cur.isT6 = false) ∧ ((countersBarriersSlates1.dc 0 5).poison = false) ∧
      ((countersBarriersSlates1.dc 0 5).value ≠ (0 : BitVec 32))) ∧
    ((countersBarriersSlates1.me.wait = none) ∧
      (countersBarriersSlates1.counterAt (countersBarriersSlates1.x (1 : BitVec 5)) = Except.ok (0, 5)) ∧
      (Acts countersBarriersSlates1) ∧ ((3 : BitVec 5) ≠ (0 : BitVec 5)) ∧
      (field (countersBarriersSlates1.x (3 : BitVec 5)) 32 31 = 0) ∧ ((countersBarriersSlates1.dc 0 5).poison = false) ∧
      (BitVec.getLsbD (countersBarriersSlates1.x (3 : BitVec 5)) 63 = true)) ∧
    ((countersBarriersSlates1.me.wait = none) ∧
      (countersBarriersSlates1.barrierAt (countersBarriersSlates1.x (1 : BitVec 5)) = Except.ok (0, 5)) ∧
      (countersBarriersSlates1.cur.isT6 = false) ∧ ((countersBarriersSlates1.bar 0 5).poison = false) ∧
      ((countersBarriersSlates1.bar 0 5).phase = BitVec.setWidth 16 (countersBarriersSlates1.x (3 : BitVec 5)))) ∧
    ((countersBarriersSlates3.me.wait = none) ∧
      (countersBarriersSlates3.counterAt (countersBarriersSlates3.x (1 : BitVec 5)) = Except.ok (0, 5)) ∧
      (Acts countersBarriersSlates3) ∧ ((3 : BitVec 5) ≠ (0 : BitVec 5)) ∧
      (field (countersBarriersSlates3.x (2 : BitVec 5)) 32 31 = 0) ∧ ((countersBarriersSlates3.dc 0 5).poison = false) ∧
      (BitVec.getLsbD (countersBarriersSlates3.x (2 : BitVec 5)) 63 = false) ∧
      (field (countersBarriersSlates3.x (2 : BitVec 5)) 0 32 < (countersBarriersSlates3.dc 0 5).value.toNat)) ∧
    ((countersBarriersSlates4.me.wait = none) ∧
      (countersBarriersSlates4.counterAt (countersBarriersSlates4.x (1 : BitVec 5)) = Except.ok (0, 5)) ∧
      (Acts countersBarriersSlates4) ∧ ((3 : BitVec 5) ≠ (0 : BitVec 5)) ∧
      (field (countersBarriersSlates4.x (2 : BitVec 5)) 32 31 = 0) ∧ ((countersBarriersSlates4.dc 0 5).poison = true)) ∧
    ((countersBarriersSlates4.me.wait = none) ∧
      (countersBarriersSlates4.counterAt (countersBarriersSlates4.x (1 : BitVec 5)) = Except.ok (0, 5)) ∧
      (Servable countersBarriersSlates4) ∧ (countersBarriersSlates4.cur.isT6 = false) ∧
      ((countersBarriersSlates4.dc 0 5).poison = true)) ∧
    ((countersBarriersSlates5.me.wait = none) ∧
      (countersBarriersSlates5.counterAt (countersBarriersSlates5.x (1 : BitVec 5)) = Except.ok (0, 5)) ∧
      (countersBarriersSlates5.holds countersBarriersSlates5.cur = true) ∧ (countersBarriersSlates5.me.jcnt + 80 ≤ 4096) ∧
      (field (countersBarriersSlates5.x (2 : BitVec 5)) 32 31 = 0)) ∧
    ((countersBarriersSlates5.me.wait = none) ∧
      (countersBarriersSlates5.barrierAt (countersBarriersSlates5.x (1 : BitVec 5)) = Except.ok (0, 5)) ∧
      (countersBarriersSlates5.holds countersBarriersSlates5.cur = true) ∧ (countersBarriersSlates5.me.jcnt + 80 ≤ 4096)) ∧
    ((countersBarriersSlates7.me.wait = none) ∧
      (countersBarriersSlates7.barrierAt (countersBarriersSlates7.x (1 : BitVec 5)) = Except.ok (0, 5)) ∧
      (Acts countersBarriersSlates7) ∧ (1 ≤ BitVec.toNat (countersBarriersSlates7.x (2 : BitVec 5))) ∧
      (BitVec.toNat (countersBarriersSlates7.x (2 : BitVec 5)) ≤ 65535) ∧
      ((countersBarriersSlates7.bar 0 5).arrivals ≠ (0 : BitVec 16))) ∧
    ((countersBarriersSlates7.me.wait = none) ∧
      (countersBarriersSlates7.barrierAt (countersBarriersSlates7.x (1 : BitVec 5)) = Except.ok (0, 5)) ∧
      (Acts countersBarriersSlates7) ∧ ((3 : BitVec 5) ≠ (0 : BitVec 5)) ∧ ((countersBarriersSlates7.bar 0 5).poison = false) ∧
      ((countersBarriersSlates7.bar 0 5).n ≠ (0 : BitVec 16)) ∧
      ((countersBarriersSlates7.bar 0 5).arrivals + (1 : BitVec 16) ≠ (countersBarriersSlates7.bar 0 5).n)) ∧
    ((countersBarriersSlates8.me.wait = none) ∧
      (countersBarriersSlates8.barrierAt (countersBarriersSlates8.x (1 : BitVec 5)) = Except.ok (0, 5)) ∧
      (Acts countersBarriersSlates8) ∧ ((3 : BitVec 5) ≠ (0 : BitVec 5)) ∧ ((countersBarriersSlates8.bar 0 5).poison = false) ∧
      ((countersBarriersSlates8.bar 0 5).n ≠ (0 : BitVec 16)) ∧
      ((countersBarriersSlates8.bar 0 5).arrivals + (1 : BitVec 16) = (countersBarriersSlates8.bar 0 5).n)) ∧
    ((countersBarriersSlates9.me.wait = none) ∧
      (countersBarriersSlates9.barrierAt (countersBarriersSlates9.x (1 : BitVec 5)) = Except.ok (0, 5)) ∧
      (Servable countersBarriersSlates9) ∧ (countersBarriersSlates9.cur.isT6 = false) ∧
      ((countersBarriersSlates9.bar 0 5).poison = true)) := by
  (repeat' apply And.intro) <;> decide +kernel

theorem witness_RangeQueueAndCoreTables :
    ((rangeQueueAndCoreTables1.cur.isT7 = true) ∧
      (rangeQueueAndCoreTables1.rangeAt rangeQueueAndCoreTables1.myPart (BitVec.toNat (rangeQueueAndCoreTables1.x (1 : BitVec
        5))) = some (0, r1)) ∧
      (r1.moving = false) ∧ (BitVec.toNat (rangeQueueAndCoreTables1.x (2 : BitVec 5)) % 128 = 0) ∧
      (rangeQueueAndCoreTables1.x (2 : BitVec 5) ≠ (0 : Word)) ∧
      (BitVec.toNat (rangeQueueAndCoreTables1.x (2 : BitVec 5)) < r1.size) ∧ (r1.partialRes = false) ∧
      (rangeQueueAndCoreTables1.rangeCount rangeQueueAndCoreTables1.myPart < 65536) ∧
      ((rangeQueueAndCoreTables1.setRange rangeQueueAndCoreTables1.myPart 0 (some
        { vbase := r1.vbase, size := BitVec.toNat (rangeQueueAndCoreTables1.x (2 : BitVec 5)), gen := r1.gen + (1 : BitVec 16), perm := r1.perm, world := r1.world, owner := r1.owner, home := r1.home, uncached := r1.uncached, key := r1.key, pbase := r1.pbase, partialRes := r1.partialRes, ints := r1.ints, poisoned := r1.poisoned, moving := r1.moving : Range })).freeRid
        rangeQueueAndCoreTables1.myPart ≠ 0)) ∧
    ((rangeQueueAndCoreTables1.cur.isT7 = true) ∧
      (rangeQueueAndCoreTables1.rangeAt rangeQueueAndCoreTables1.myPart (BitVec.toNat (rangeQueueAndCoreTables1.x (1 : BitVec
        5))) = some (0, r1)) ∧
      (r1.moving = false) ∧
      (rangeQueueAndCoreTables1.rangeAt rangeQueueAndCoreTables1.myPart (r1.vbase + r1.size) = some ((1, some r2).1, r2)) ∧
      ((1, some r2).1 ≠ 0) ∧ (r2.moving = false) ∧ (r2.pbase = r1.pbase + r1.size) ∧
      ((r2.perm, r2.world, r2.owner, r2.home, r2.uncached, r2.key) = (r1.perm, r1.world, r1.owner, r1.home, r1.uncached, r1.key)) ∧
      (r1.size + r2.size ≤ 2 ^ 37) ∧ (r1.partialRes = false) ∧ (r2.partialRes = false)) ∧
    ((rangeQueueAndCoreTables1.cur.isT7 = true) ∧
      (rangeQueueAndCoreTables1.rangeAt rangeQueueAndCoreTables1.myPart (BitVec.toNat (rangeQueueAndCoreTables1.x (1 : BitVec
        5))) = some (0, r1)) ∧
      (r1.moving = false) ∧ (field (rangeQueueAndCoreTables1.ox 3) 62 2 ≠ 3) ∧
      (rangeQueueAndCoreTables1.checkCompletion rangeQueueAndCoreTables1.cur (rangeQueueAndCoreTables1.ox 3) = Except.ok ()) ∧
      (BitVec.toNat (rangeQueueAndCoreTables1.x (2 : BitVec 5)) % 128 = 0) ∧
      (regionOf (BitVec.toNat (rangeQueueAndCoreTables1.x (2 : BitVec 5))) r1.size = some (Place.hbm 0)) ∧
      (rangeQueueAndCoreTables1.backed rangeQueueAndCoreTables1.myPart (BitVec.toNat (rangeQueueAndCoreTables1.x (2 : BitVec
        5))) r1.size = true) ∧
      ((rangeQueueAndCoreTables1.getDie r1.home).compact = none)) ∧
    ((rangeQueueAndCoreTables2.cur.isT7 = true) ∧
      (rangeQueueAndCoreTables2.rangeAt rangeQueueAndCoreTables2.myPart (BitVec.toNat (rangeQueueAndCoreTables2.x (1 : BitVec
        5))) = some (0, r1)) ∧
      (r1.moving = false) ∧ (BitVec.toNat (rangeQueueAndCoreTables2.x (2 : BitVec 5)) < 8)) ∧
    ((rangeQueueAndCoreTables2.cur.isT7 = true) ∧
      ((rangeQueueAndCoreTables2.getPart rangeQueueAndCoreTables2.myPart).find (BitVec.toNat (rangeQueueAndCoreTables2.x (1 :
        BitVec 5))) 1 = some (0, r1)) ∧
      (r1.poisoned = false) ∧ ((rangeQueueAndCoreTables2.getPart rangeQueueAndCoreTables2.myPart).walkBad
        (BitVec.toNat (rangeQueueAndCoreTables2.x (1 : BitVec 5))) = false) ∧ (rangeQueueAndCoreTables2.x (2 : BitVec 5) = (0 : Word))) ∧
    ((rangeQueueAndCoreTables3.cur.isT7 = true) ∧
      (rangeQueueAndCoreTables3.rangeAt rangeQueueAndCoreTables3.myPart (BitVec.toNat (rangeQueueAndCoreTables3.x (1 : BitVec
        5))) = none) ∧
      (field (rangeQueueAndCoreTables3.ox 3) 62 2 ≠ 3) ∧
      (rangeQueueAndCoreTables3.checkCompletion rangeQueueAndCoreTables3.cur (rangeQueueAndCoreTables3.ox 3) = Except.ok ()) ∧
      (BitVec.toNat (rangeQueueAndCoreTables3.x (2 : BitVec 5)) % 128 = 0) ∧
      (rangeQueueAndCoreTables3.x (2 : BitVec 5) ≠ (0 : Word)) ∧
      (Instr.rngunmap (3 : BitVec 5) (1 : BitVec 5) ∈ [Instr.rngunmap (3 : BitVec 5) (1 : BitVec 5), Instr.rngsplit (3 : BitVec
        5) (1 : BitVec 5) (2 : BitVec 5), Instr.rngmerge (3 : BitVec 5) (1 : BitVec 5), Instr.rngcmp (3 : BitVec 5) (1 : BitVec
        5) (2 : BitVec 5)])) ∧
    ((rangeQueueAndCoreTables3.cur.isT7 = true) ∧ (BitVec.toNat (rangeQueueAndCoreTables3.x (1 : BitVec 5)) % 32 = 0) ∧
      (BitVec.toNat (rangeQueueAndCoreTables3.x (1 : BitVec 5)) + 32 ≤ 1048576) ∧
      ((rangeQueueAndCoreTables3.loadBytes rangeQueueAndCoreTables3.cur (rangeQueueAndCoreTables3.x (1 : BitVec 5)) 32).isOk =
        true) ∧
      (imageLegal (bytesWords (rangeQueueAndCoreTables3.plain
        { loc := rangeQueueAndCoreTables3.cur.localLoc (BitVec.toNat (rangeQueueAndCoreTables3.x (1 : BitVec 5))) : Machine.Acc }.loc
        32
        { loc := rangeQueueAndCoreTables3.cur.localLoc (BitVec.toNat (rangeQueueAndCoreTables3.x (1 : BitVec 5))) : Machine.Acc }.key))
        = true) ∧
      (Range.ofWords img = Range.ofWords (bytesWords (rangeQueueAndCoreTables3.plain
        { loc := rangeQueueAndCoreTables3.cur.localLoc (BitVec.toNat (rangeQueueAndCoreTables3.x (1 : BitVec 5))) : Machine.Acc }.loc
        32
        { loc := rangeQueueAndCoreTables3.cur.localLoc (BitVec.toNat (rangeQueueAndCoreTables3.x (1 : BitVec 5))) : Machine.Acc }.key)))
        ∧
      ((Range.ofWords img).world = false) ∧ ((Range.ofWords img).owner = rangeQueueAndCoreTables3.myPart) ∧
      ((Range.ofWords img).key = 0) ∧
      (rangeQueueAndCoreTables3.backed rangeQueueAndCoreTables3.myPart (Range.ofWords img).pbase (Range.ofWords img).size = true) ∧
      (rangeQueueAndCoreTables3.rangeCount rangeQueueAndCoreTables3.myPart < 65536) ∧
      (((rangeQueueAndCoreTables3.getPart rangeQueueAndCoreTables3.myPart).ranges.any fun e => Option.any (fun q => overlaps
        q.vbase q.size (Range.ofWords img).vbase (Range.ofWords img).size) e.2) = false)) ∧
    ((rangeQueueAndCoreTables4.cur.isT7 = true) ∧ (BitVec.toNat (rangeQueueAndCoreTables4.x (1 : BitVec 5)) % 32 = 0) ∧
      (BitVec.toNat (rangeQueueAndCoreTables4.x (1 : BitVec 5)) + 32 ≤ 1048576) ∧
      ((rangeQueueAndCoreTables4.loadBytes rangeQueueAndCoreTables4.cur (rangeQueueAndCoreTables4.x (1 : BitVec 5)) 32).isOk =
        true) ∧
      (imageLegal (bytesWords (rangeQueueAndCoreTables4.plain
        { loc := rangeQueueAndCoreTables4.cur.localLoc (BitVec.toNat (rangeQueueAndCoreTables4.x (1 : BitVec 5))) : Machine.Acc }.loc
        32
        { loc := rangeQueueAndCoreTables4.cur.localLoc (BitVec.toNat (rangeQueueAndCoreTables4.x (1 : BitVec 5))) : Machine.Acc }.key))
        = true) ∧
      (Range.ofWords img = Range.ofWords (bytesWords (rangeQueueAndCoreTables4.plain
        { loc := rangeQueueAndCoreTables4.cur.localLoc (BitVec.toNat (rangeQueueAndCoreTables4.x (1 : BitVec 5))) : Machine.Acc }.loc
        32
        { loc := rangeQueueAndCoreTables4.cur.localLoc (BitVec.toNat (rangeQueueAndCoreTables4.x (1 : BitVec 5))) : Machine.Acc }.key)))
        ∧
      ((Range.ofWords img).world = false) ∧ ((Range.ofWords img).owner = rangeQueueAndCoreTables4.myPart) ∧
      ((Range.ofWords img).key = 0) ∧
      (rangeQueueAndCoreTables4.backed rangeQueueAndCoreTables4.myPart (Range.ofWords img).pbase (Range.ofWords img).size = true) ∧
      (rangeQueueAndCoreTables4.rangeCount rangeQueueAndCoreTables4.myPart < 65536) ∧
      (((rangeQueueAndCoreTables4.getPart rangeQueueAndCoreTables4.myPart).ranges.any fun e => Option.any (fun q => overlaps
        q.vbase q.size (Range.ofWords img).vbase (Range.ofWords img).size) e.2) = true)) ∧
    ((rangeQueueAndCoreTables6.cur.isT7 = true) ∧
      (rangeQueueAndCoreTables6.rangeAt rangeQueueAndCoreTables6.myPart (BitVec.toNat (rangeQueueAndCoreTables6.x (1 : BitVec
        5))) = some (0, r1)) ∧
      (r1.moving = false) ∧ (field (rangeQueueAndCoreTables6.x (2 : BitVec 5)) 60 3 = 0) ∧
      (field (rangeQueueAndCoreTables6.x (2 : BitVec 5)) 30 30 < field (rangeQueueAndCoreTables6.x (2 : BitVec 5)) 0 30) ∧
      (field (rangeQueueAndCoreTables6.x (2 : BitVec 5)) 0 30 ≤ r1.size / 128) ∧
      ((if bitAt (rangeQueueAndCoreTables6.x (2 : BitVec 5)) 63 = true then subInterval r1.lines (field
        (rangeQueueAndCoreTables6.x (2 : BitVec 5)) 30 30) (field (rangeQueueAndCoreTables6.x (2 : BitVec 5)) 0 30) else
        addInterval r1.lines (field (rangeQueueAndCoreTables6.x (2 : BitVec 5)) 30 30) (field (rangeQueueAndCoreTables6.x (2 :
        BitVec 5)) 0 30)) = if bitAt (rangeQueueAndCoreTables6.x (2 : BitVec 5)) 63 = true then subInterval r1.lines (field
        (rangeQueueAndCoreTables6.x (2 : BitVec 5)) 30 30) (field (rangeQueueAndCoreTables6.x (2 : BitVec 5)) 0 30) else
        addInterval r1.lines (field (rangeQueueAndCoreTables6.x (2 : BitVec 5)) 30 30) (field (rangeQueueAndCoreTables6.x (2 :
        BitVec 5)) 0 30)) ∧
      ((if bitAt (rangeQueueAndCoreTables6.x (2 : BitVec 5)) 63 = true then subInterval r1.lines (field
        (rangeQueueAndCoreTables6.x (2 : BitVec 5)) 30 30) (field (rangeQueueAndCoreTables6.x (2 : BitVec 5)) 0 30) else
        addInterval r1.lines (field (rangeQueueAndCoreTables6.x (2 : BitVec 5)) 30 30) (field (rangeQueueAndCoreTables6.x (2 :
        BitVec 5)) 0 30)).length ≤ 8) ∧
      (Acts rangeQueueAndCoreTables6) ∧
      (Instr.rngresAdd (3 : BitVec 5) (1 : BitVec 5) (2 : BitVec 5) ∈ [Instr.rngresAdd (3 : BitVec 5) (1 : BitVec 5) (2 : BitVec
        5), Instr.rngresRemove (3 : BitVec 5) (1 : BitVec 5) (2 : BitVec 5)])) ∧
    ((rangeQueueAndCoreTables11.cur.isT7 = true) ∧
      ((rangeQueueAndCoreTables11.getPart rangeQueueAndCoreTables11.myPart).find (BitVec.toNat (rangeQueueAndCoreTables11.x (1 :
        BitVec 5))) 1 = none) ∧
      (rangeQueueAndCoreTables11.x (2 : BitVec 5) = (0 : Word))) ∧
    ((rangeQueueAndCoreTables8.cur.isT7 = true) ∧ (BitVec.toNat (rangeQueueAndCoreTables8.x (1 : BitVec 5)) < 4096) ∧
      (bitAt (rangeQueueAndCoreTables8.x (2 : BitVec 5)) 63 = false) ∧
      (rangeQueueAndCoreTables8.x (2 : BitVec 5) &&& (4683743612465250303 : Word) = (0 : Word)) ∧
      (field (rangeQueueAndCoreTables8.x (2 : BitVec 5)) 60 2 ≤ 2) ∧
      (4 ≤ field (rangeQueueAndCoreTables8.x (2 : BitVec 5)) 56 4) ∧
      (field (rangeQueueAndCoreTables8.x (2 : BitVec 5)) 56 4 ≤ 12) ∧
      (rangeQueueAndCoreTables8.taskQ rangeQueueAndCoreTables8.myPart (field (rangeQueueAndCoreTables8.x (1 : BitVec 5)) 0 12) =
        none) ∧
      ((rangeQueueAndCoreTables8.queueRoom (field (rangeQueueAndCoreTables8.x (2 : BitVec 5)) 16 1) (2 ^ field
        (rangeQueueAndCoreTables8.x (2 : BitVec 5)) 56 4)).isSome = true) ∧
      (Instr.qtmapMap (3 : BitVec 5) (1 : BitVec 5) (2 : BitVec 5) ∈ [Instr.qtmapMap (3 : BitVec 5) (1 : BitVec 5) (2 : BitVec
        5), Instr.qtmapUnmap (3 : BitVec 5) (1 : BitVec 5) (2 : BitVec 5)])) ∧
    ((rangeQueueAndCoreTables9.cur.isT7 = true) ∧ (BitVec.toNat (rangeQueueAndCoreTables9.x (1 : BitVec 5)) < 4096) ∧
      (bitAt (rangeQueueAndCoreTables9.x (2 : BitVec 5)) 63 = false) ∧
      (rangeQueueAndCoreTables9.x (2 : BitVec 5) &&& (4683743612465250303 : Word) = (0 : Word)) ∧
      (field (rangeQueueAndCoreTables9.x (2 : BitVec 5)) 60 2 ≤ 2) ∧
      (4 ≤ field (rangeQueueAndCoreTables9.x (2 : BitVec 5)) 56 4) ∧
      (field (rangeQueueAndCoreTables9.x (2 : BitVec 5)) 56 4 ≤ 12) ∧
      (rangeQueueAndCoreTables9.taskQ rangeQueueAndCoreTables9.myPart (field (rangeQueueAndCoreTables9.x (1 : BitVec 5)) 0 12) =
        some { : TaskQ })) ∧
    ((rangeQueueAndCoreTables10.cur.isT7 = true) ∧ (BitVec.toNat (rangeQueueAndCoreTables10.x (1 : BitVec 5)) < 4096) ∧
      (bitAt (rangeQueueAndCoreTables10.x (2 : BitVec 5)) 63 = true) ∧
      (rangeQueueAndCoreTables10.x (2 : BitVec 5) &&& (4683743612465250303 : Word) = (0 : Word)) ∧
      (rangeQueueAndCoreTables10.taskQ rangeQueueAndCoreTables10.myPart (field (rangeQueueAndCoreTables10.x (1 : BitVec 5)) 0
        12) = some { : TaskQ }) ∧
      ({ : TaskQ }.entries = []) ∧ ({ : TaskQ }.pin = false) ∧
      (Instr.qtmapMap (3 : BitVec 5) (1 : BitVec 5) (2 : BitVec 5) ∈ [Instr.qtmapMap (3 : BitVec 5) (1 : BitVec 5) (2 : BitVec
        5), Instr.qtmapUnmap (3 : BitVec 5) (1 : BitVec 5) (2 : BitVec 5)])) ∧
    ((rangeQueueAndCoreTables11.cur.isT7 = true) ∧ (BitVec.toNat (rangeQueueAndCoreTables11.x (1 : BitVec 5)) < 4096) ∧
      (rangeQueueAndCoreTables11.taskQ rangeQueueAndCoreTables11.myPart (field (rangeQueueAndCoreTables11.x (1 : BitVec 5)) 0
        12) = some { : TaskQ }) ∧
      (rangeQueueAndCoreTables11.x (2 : BitVec 5) = (0 : Word)) ∧
      (Instr.qtpinPin (3 : BitVec 5) (1 : BitVec 5) (2 : BitVec 5) ∈ [Instr.qtpinPin (3 : BitVec 5) (1 : BitVec 5) (2 : BitVec
        5), Instr.qtpinUnpin (3 : BitVec 5) (1 : BitVec 5) (2 : BitVec 5)])) ∧
    ((rangeQueueAndCoreTables11.cur.isT7 = true) ∧
      (Instr.lcmremRemove (3 : BitVec 5) (1 : BitVec 5) (2 : BitVec 5) ∈ [Instr.lcmremRemove (3 : BitVec 5) (1 : BitVec 5) (2 :
        BitVec 5), Instr.lcmremPlace (3 : BitVec 5) (1 : BitVec 5) (2 : BitVec 5)]) ∧
      (BitVec.toNat (rangeQueueAndCoreTables11.x (1 : BitVec 5)) < 128) ∧
      (rangeQueueAndCoreTables11.partOfLogical (BitVec.toNat (rangeQueueAndCoreTables11.x (1 : BitVec 5))) =
        rangeQueueAndCoreTables11.myPart) ∧
      (rangeQueueAndCoreTables11.x (2 : BitVec 5) = (0 : Word)) ∧
      (rangeQueueAndCoreTables11.physOf (BitVec.toNat (rangeQueueAndCoreTables11.x (1 : BitVec 5))) = some (field
        (rangeQueueAndCoreTables11.lcmEntry (BitVec.toNat (rangeQueueAndCoreTables11.x (1 : BitVec 5)))) 0 7)) ∧
      (rangeQueueAndCoreTables11.lcidOf (field (rangeQueueAndCoreTables11.lcmEntry (BitVec.toNat (rangeQueueAndCoreTables11.x (1
        : BitVec 5)))) 0 7) = BitVec.ofNat 8 (BitVec.toNat (rangeQueueAndCoreTables11.x (1 : BitVec 5)))) ∧
      (∀ i < 7, (rangeQueueAndCoreTables11.thread (Agent.thr (field (rangeQueueAndCoreTables11.lcmEntry (BitVec.toNat
        (rangeQueueAndCoreTables11.x (1 : BitVec 5)))) 0 7) i)).st ≠ TState.run ∧ (rangeQueueAndCoreTables11.thread (Agent.thr
        (field (rangeQueueAndCoreTables11.lcmEntry (BitVec.toNat (rangeQueueAndCoreTables11.x (1 : BitVec 5)))) 0 7) i)).st ≠
        TState.wait ∧ (rangeQueueAndCoreTables11.thread (Agent.thr (field (rangeQueueAndCoreTables11.lcmEntry (BitVec.toNat
        (rangeQueueAndCoreTables11.x (1 : BitVec 5)))) 0 7) i)).st ≠ TState.saved)) ∧
    ((rangeQueueAndCoreTables12.cur.isT7 = true) ∧ (BitVec.toNat (rangeQueueAndCoreTables12.x (1 : BitVec 5)) < 4096) ∧
      (rangeQueueAndCoreTables12.taskQ rangeQueueAndCoreTables12.myPart (field (rangeQueueAndCoreTables12.x (1 : BitVec 5)) 0
        12) = some { : TaskQ }) ∧
      (rangeQueueAndCoreTables12.x (2 : BitVec 5) = (1 : Word)) ∧ (rangeQueueAndCoreTables12.pins { : TaskQ }.die < 256) ∧
      (Instr.qtpinPin (3 : BitVec 5) (1 : BitVec 5) (2 : BitVec 5) ∈ [Instr.qtpinPin (3 : BitVec 5) (1 : BitVec 5) (2 : BitVec
        5), Instr.qtpinUnpin (3 : BitVec 5) (1 : BitVec 5) (2 : BitVec 5)])) ∧
    ((rangeQueueAndCoreTables13.cur.isT7 = true) ∧ (BitVec.toNat (rangeQueueAndCoreTables13.x (1 : BitVec 5)) < 4096) ∧
      (rangeQueueAndCoreTables13.taskQ rangeQueueAndCoreTables13.myPart (field (rangeQueueAndCoreTables13.x (1 : BitVec 5)) 0
        12) = none) ∧
      (rangeQueueAndCoreTables13.x (2 : BitVec 5) = (0 : Word)) ∧
      (Instr.qtpinPin (3 : BitVec 5) (1 : BitVec 5) (2 : BitVec 5) ∈ [Instr.qtpinPin (3 : BitVec 5) (1 : BitVec 5) (2 : BitVec
        5), Instr.qtpinUnpin (3 : BitVec 5) (1 : BitVec 5) (2 : BitVec 5)])) ∧
    ((rangeQueueAndCoreTables14.cur.isT7 = true) ∧
      (Instr.lcmremRemove (3 : BitVec 5) (1 : BitVec 5) (2 : BitVec 5) ∈ [Instr.lcmremRemove (3 : BitVec 5) (1 : BitVec 5) (2 :
        BitVec 5), Instr.lcmremPlace (3 : BitVec 5) (1 : BitVec 5) (2 : BitVec 5)]) ∧
      (BitVec.toNat (rangeQueueAndCoreTables14.x (1 : BitVec 5)) < 128) ∧
      (rangeQueueAndCoreTables14.partOfLogical (BitVec.toNat (rangeQueueAndCoreTables14.x (1 : BitVec 5))) =
        rangeQueueAndCoreTables14.myPart) ∧
      (rangeQueueAndCoreTables14.x (2 : BitVec 5) = (0 : Word)) ∧
      (rangeQueueAndCoreTables14.physOf (BitVec.toNat (rangeQueueAndCoreTables14.x (1 : BitVec 5))) = none)) ∧
    ((rangeQueueAndCoreTables16.cur.isT7 = true) ∧
      (Instr.lcmremRemove (3 : BitVec 5) (1 : BitVec 5) (2 : BitVec 5) ∈ [Instr.lcmremRemove (3 : BitVec 5) (1 : BitVec 5) (2 :
        BitVec 5), Instr.lcmremPlace (3 : BitVec 5) (1 : BitVec 5) (2 : BitVec 5)]) ∧
      (BitVec.toNat (rangeQueueAndCoreTables16.x (1 : BitVec 5)) < 128) ∧
      (rangeQueueAndCoreTables16.partOfLogical (BitVec.toNat (rangeQueueAndCoreTables16.x (1 : BitVec 5))) =
        rangeQueueAndCoreTables16.myPart) ∧
      (rangeQueueAndCoreTables16.x (2 : BitVec 5) = ofN (1 + 256 * 5)) ∧ (5 < 128) ∧
      (rangeQueueAndCoreTables16.partOf (Agent.thr 5 0) = rangeQueueAndCoreTables16.myPart) ∧
      (rangeQueueAndCoreTables16.physOf (BitVec.toNat (rangeQueueAndCoreTables16.x (1 : BitVec 5))) = none) ∧
      (∀ i < 128, rangeQueueAndCoreTables16.physOf i ≠ some 5) ∧
      ((5 / 8 : Nat) = BitVec.toNat (rangeQueueAndCoreTables16.x (1 : BitVec 5)) / 8) ∧
      (bitAt (rangeQueueAndCoreTables16.getCore 5).ckstat 16 = false) ∧
      (bitAt (rangeQueueAndCoreTables16.getCore 5).ckstat 20 = false) ∧ (rangeQueueAndCoreTables16.me.st ≠ TState.off)) := by
  (repeat' apply And.intro) <;> decide +kernel

theorem witness_ContinuityTree :
    ((continuityTree1.cur.isThr = true) ∧ (Acts continuityTree1) ∧ (nA.key = 0) ∧ (placeOf nA.loc = Place.ulm) ∧
      (continuityTree1.x (2 : BitVec 5) &&& (18446744073709338876 : Word) = (0 : Word)) ∧
      (Instr.snapinitCursor (3 : BitVec 5) (1 : BitVec 5) (2 : BitVec 5) ∈ [Instr.snapinitCursor (3 : BitVec 5) (1 : BitVec 5)
        (2 : BitVec 5), Instr.snapinitCreate (3 : BitVec 5) (1 : BitVec 5) (2 : BitVec 5), Instr.snapinitDestroy (3 : BitVec 5)
        (1 : BitVec 5) (2 : BitVec 5), Instr.snapinitQuery (3 : BitVec 5) (1 : BitVec 5) (2 : BitVec 5)]) ∧
      (field (continuityTree1.x (2 : BitVec 5)) 0 2 = 0) ∧ (bitAt (continuityTree1.x (2 : BitVec 5)) 16 = false) ∧
      (BitVec.toNat (continuityTree1.x (1 : BitVec 5)) % 128 = 0) ∧
      (BitVec.toNat (continuityTree1.x (1 : BitVec 5)) + 128 ≤ 1048576) ∧
      (continuityTree1.storeCheck continuityTree1.cur (continuityTree1.x (1 : BitVec 5)) 128 = Except.ok nA) ∧
      (continuityTree1.blocked nA.loc 128 true = false) ∧
      ((continuityTree1.tree continuityTree1.myPart (field (continuityTree1.x (2 : BitVec 5)) 8 6)).v = true) ∧
      (continuityTree1.cursorWords (continuityTree1.x (1 : BitVec 5)) = Except.ok (bytesWords (continuityTree1.plain
        { loc := continuityTree1.cur.localLoc (BitVec.toNat (continuityTree1.x (1 : BitVec 5))) : Machine.Acc }.loc 128
        { loc := continuityTree1.cur.localLoc (BitVec.toNat (continuityTree1.x (1 : BitVec 5))) : Machine.Acc }.key))) ∧
      ((Cursor.ofWords (bytesWords (continuityTree1.plain
        { loc := continuityTree1.cur.localLoc (BitVec.toNat (continuityTree1.x (1 : BitVec 5))) : Machine.Acc }.loc 128
        { loc := continuityTree1.cur.localLoc (BitVec.toNat (continuityTree1.x (1 : BitVec 5))) : Machine.Acc }.key))).v =
        false)) ∧
    ((continuityTree2.cur.isThr = true) ∧ (Acts continuityTree2) ∧ (nA.key = 0) ∧ (placeOf nA.loc = Place.ulm) ∧
      (continuityTree2.x (2 : BitVec 5) &&& (18446744073709338876 : Word) = (0 : Word)) ∧
      (Instr.snapinitCursor (3 : BitVec 5) (1 : BitVec 5) (2 : BitVec 5) ∈ [Instr.snapinitCursor (3 : BitVec 5) (1 : BitVec 5)
        (2 : BitVec 5), Instr.snapinitCreate (3 : BitVec 5) (1 : BitVec 5) (2 : BitVec 5), Instr.snapinitDestroy (3 : BitVec 5)
        (1 : BitVec 5) (2 : BitVec 5), Instr.snapinitQuery (3 : BitVec 5) (1 : BitVec 5) (2 : BitVec 5)]) ∧
      (field (continuityTree2.x (2 : BitVec 5)) 0 2 = 1) ∧ (continuityTree2.cur.isT7 = true) ∧
      (BitVec.toNat (continuityTree2.x (1 : BitVec 5)) % 64 = 0) ∧
      (BitVec.toNat (continuityTree2.x (1 : BitVec 5)) + 64 ≤ 1048576) ∧
      (continuityTree2.loadBytes continuityTree2.cur (continuityTree2.x (1 : BitVec 5)) 64 = Except.ok (continuityTree2.plain
        { loc := continuityTree2.cur.localLoc (BitVec.toNat (continuityTree2.x (1 : BitVec 5))) : Machine.Acc }.loc 64
        { loc := continuityTree2.cur.localLoc (BitVec.toNat (continuityTree2.x (1 : BitVec 5))) : Machine.Acc }.key)) ∧
      (treeImageLegal (bytesWords (continuityTree2.plain
        { loc := continuityTree2.cur.localLoc (BitVec.toNat (continuityTree2.x (1 : BitVec 5))) : Machine.Acc }.loc 64
        { loc := continuityTree2.cur.localLoc (BitVec.toNat (continuityTree2.x (1 : BitVec 5))) : Machine.Acc }.key)) = true) ∧
      ((continuityTree2.tree continuityTree2.myPart (field (continuityTree2.x (2 : BitVec 5)) 8 6)).v = false) ∧
      (newTree
        =
        { v := true, dw0 := wordAt (bytesWords (continuityTree2.plain { loc := continuityTree2.cur.localLoc (BitVec.toNat (continuityTree2.x (1 : BitVec 5))) : Machine.Acc }.loc 64 { loc := continuityTree2.cur.localLoc (BitVec.toNat (continuityTree2.x (1 : BitVec 5))) : Machine.Acc }.key)) 0, npool := wordAt (bytesWords (continuityTree2.plain { loc := continuityTree2.cur.localLoc (BitVec.toNat (continuityTree2.x (1 : BitVec 5))) : Machine.Acc }.loc 64 { loc := continuityTree2.cur.localLoc (BitVec.toNat (continuityTree2.x (1 : BitVec 5))) : Machine.Acc }.key)) 1, cap := BitVec.toNat (wordAt (bytesWords (continuityTree2.plain { loc := continuityTree2.cur.localLoc (BitVec.toNat (continuityTree2.x (1 : BitVec 5))) : Machine.Acc }.loc 64 { loc := continuityTree2.cur.localLoc (BitVec.toNat (continuityTree2.x (1 : BitVec 5))) : Machine.Acc }.key)) 2), spool := wordAt (bytesWords (continuityTree2.plain { loc := continuityTree2.cur.localLoc (BitVec.toNat (continuityTree2.x (1 : BitVec 5))) : Machine.Acc }.loc 64 { loc := continuityTree2.cur.localLoc (BitVec.toNat (continuityTree2.x (1 : BitVec 5))) : Machine.Acc }.key)) 3, hepoch := (continuityTree2.tree continuityTree2.myPart (field (continuityTree2.x (2 : BitVec 5)) 8 6)).hepoch + (1 : BitVec 16) : TreeRec })
        ∧
      (continuityTree2.nodePool continuityTree2.myPart newTree = some (0, n1)) ∧
      (continuityTree2.statePool continuityTree2.myPart newTree = some (1, n2)) ∧
      ((State.TreeRec.hosts newTree n1 && State.TreeRec.hosts newTree n2) = true) ∧
      (continuityTree2.poolBad continuityTree2.myPart newTree.npool = false) ∧
      (continuityTree2.poolBad continuityTree2.myPart newTree.spool = false)) ∧
    (continuityTree2.cur.isThr = true ∧ continuityTree2.statePool continuityTree2.myPart { newTree with spool := 0x900000 } = none) ∧
    ((continuityTree3.cur.isThr = true) ∧ (Acts continuityTree3) ∧ (nA.key = 0) ∧ (placeOf nA.loc = Place.ulm) ∧
      (continuityTree3.x (2 : BitVec 5) &&& (18446744073709338876 : Word) = (0 : Word)) ∧
      (Instr.snapinitCursor (3 : BitVec 5) (1 : BitVec 5) (2 : BitVec 5) ∈ [Instr.snapinitCursor (3 : BitVec 5) (1 : BitVec 5)
        (2 : BitVec 5), Instr.snapinitCreate (3 : BitVec 5) (1 : BitVec 5) (2 : BitVec 5), Instr.snapinitDestroy (3 : BitVec 5)
        (1 : BitVec 5) (2 : BitVec 5), Instr.snapinitQuery (3 : BitVec 5) (1 : BitVec 5) (2 : BitVec 5)]) ∧
      (field (continuityTree3.x (2 : BitVec 5)) 0 2 = 2) ∧ (continuityTree3.cur.isT7 = true) ∧
      ((continuityTree3.tree continuityTree3.myPart (field (continuityTree3.x (2 : BitVec 5)) 8 6)).v = true) ∧
      (continuityTree3.nodePool continuityTree3.myPart (continuityTree3.tree continuityTree3.myPart (field (continuityTree3.x (2
        : BitVec 5)) 8 6)) = some (0, n1)) ∧
      (continuityTree3.poolBad continuityTree3.myPart (continuityTree3.tree continuityTree3.myPart (field (continuityTree3.x (2
        : BitVec 5)) 8 6)).npool = false) ∧
      (∀ n < (continuityTree3.tree continuityTree3.myPart (field (continuityTree3.x (2 : BitVec 5)) 8 6)).cap,
        (continuityTree3.node n1 n).v = true → (continuityTree3.node n1 n).holders = 0)) ∧
    ((continuityTree4.cur.isThr = true) ∧ (Acts continuityTree4) ∧ (nA.key = 0) ∧ (placeOf nA.loc = Place.ulm) ∧
      (continuityTree4.x (2 : BitVec 5) &&& (18446744073709338876 : Word) = (0 : Word)) ∧
      (Instr.snapinitCursor (3 : BitVec 5) (1 : BitVec 5) (2 : BitVec 5) ∈ [Instr.snapinitCursor (3 : BitVec 5) (1 : BitVec 5)
        (2 : BitVec 5), Instr.snapinitCreate (3 : BitVec 5) (1 : BitVec 5) (2 : BitVec 5), Instr.snapinitDestroy (3 : BitVec 5)
        (1 : BitVec 5) (2 : BitVec 5), Instr.snapinitQuery (3 : BitVec 5) (1 : BitVec 5) (2 : BitVec 5)]) ∧
      (field (continuityTree4.x (2 : BitVec 5)) 0 2 = 3) ∧ (BitVec.toNat (continuityTree4.x (1 : BitVec 5)) % 64 = 0) ∧
      (BitVec.toNat (continuityTree4.x (1 : BitVec 5)) + 64 ≤ 1048576) ∧
      ((continuityTree4.tree continuityTree4.myPart (field (continuityTree4.x (2 : BitVec 5)) 8 6)).v = true) ∧
      (continuityTree4.storeCheck continuityTree4.cur (continuityTree4.x (1 : BitVec 5)) 64 = Except.ok nA) ∧
      (continuityTree4.journaled continuityTree4.cur nA.loc = false) ∧ (continuityTree4.blocked nA.loc 64 true = false)) ∧
    ((continuityTree5.cur.isThr = true) ∧ (Acts continuityTree5) ∧ (nA.key = 0) ∧ (placeOf nA.loc = Place.ulm) ∧
      (BitVec.toNat (continuityTree5.x (1 : BitVec 5)) % 128 = 0) ∧
      (BitVec.toNat (continuityTree5.x (1 : BitVec 5)) + 128 ≤ 1048576) ∧
      (continuityTree5.cursorAt (continuityTree5.x (1 : BitVec 5)) = Except.ok (cu, nA)) ∧
      (BitVec.toNat (continuityTree5.x (2 : BitVec 5)) % 8 = 0) ∧ (cu.log = false) ∧
      (continuityTree5.readBlocks (continuityTree5.x (2 : BitVec 5)) (min (BitVec.toNat (continuityTree5.x (3 : BitVec 5)))
        64) = Except.ok [])) ∧
    ((continuityTree5.cur.isThr = true) ∧ (Acts continuityTree5) ∧ (nA.key = 0) ∧ (placeOf nA.loc = Place.ulm) ∧
      (BitVec.toNat (continuityTree5.x (1 : BitVec 5)) % 128 = 0) ∧
      (BitVec.toNat (continuityTree5.x (1 : BitVec 5)) + 128 ≤ 1048576) ∧
      (continuityTree5.cursorAt (continuityTree5.x (1 : BitVec 5)) = Except.ok (cu, nA)) ∧
      ((continuityTree5.tree continuityTree5.myPart cu.tree).v = true) ∧
      (continuityTree5.nodePool continuityTree5.myPart (continuityTree5.tree continuityTree5.myPart cu.tree) = some (0, n1)) ∧
      (continuityTree5.poolBad continuityTree5.myPart (continuityTree5.tree continuityTree5.myPart cu.tree).npool = false) ∧
      (continuityTree5.statePool continuityTree5.myPart (continuityTree5.tree continuityTree5.myPart cu.tree) = some (1, n2)) ∧
      (continuityTree5.poolBad continuityTree5.myPart (continuityTree5.tree continuityTree5.myPart cu.tree).spool = false) ∧
      (BitVec.toNat (continuityTree5.x (2 : BitVec 5)) % 128 = 0) ∧
      (BitVec.toNat (continuityTree5.x (2 : BitVec 5)) + State.TreeRec.ssize (continuityTree5.tree continuityTree5.myPart
        cu.tree) ≤ 1048576) ∧
      (cu.depth ≠ 0) ∧ (cu.depth % 2 ^ State.TreeRec.log2g (continuityTree5.tree continuityTree5.myPart cu.tree) = 0) ∧
      (continuityTree5.nodeWithKey n1 (continuityTree5.tree continuityTree5.myPart cu.tree).cap cu.k = some (0)) ∧
      ((continuityTree5.node n1 (0)).depth = cu.depth) ∧ ((continuityTree5.node n1 (0)).digest = cu.d) ∧
      ((continuityTree5.node n1 (0)).holders < 65535)) ∧
    ((continuityTree5.cur.isThr = true) ∧ (Acts continuityTree5) ∧ (nA.key = 0) ∧ (placeOf nA.loc = Place.ulm) ∧
      (BitVec.toNat (continuityTree5.x (1 : BitVec 5)) % 128 = 0) ∧
      (BitVec.toNat (continuityTree5.x (1 : BitVec 5)) + 128 ≤ 1048576) ∧
      (continuityTree5.cursorAt (continuityTree5.x (1 : BitVec 5)) = Except.ok (cu, nA)) ∧
      ((continuityTree5.tree continuityTree5.myPart cu.tree).v = true) ∧
      (continuityTree5.nodePool continuityTree5.myPart (continuityTree5.tree continuityTree5.myPart cu.tree) = some (0, n1)) ∧
      (continuityTree5.poolBad continuityTree5.myPart (continuityTree5.tree continuityTree5.myPart cu.tree).npool = false) ∧
      (continuityTree5.readLog cu.logBase ((cu.logPtr - cu.logBase) / 48) = Except.ok []) ∧
      (((continuityTree5.releaseHold continuityTree5.myPart cu).searchLog n1 (continuityTree5.tree continuityTree5.myPart
        cu.tree).cap [] 0).1 = none)) ∧
    ((continuityTree6.cur.isThr = true) ∧ (Acts continuityTree6) ∧ (nA.key = 0) ∧ (placeOf nA.loc = Place.ulm) ∧
      (BitVec.toNat (continuityTree6.x (1 : BitVec 5)) % 128 = 0) ∧
      (BitVec.toNat (continuityTree6.x (1 : BitVec 5)) + 128 ≤ 1048576) ∧
      (continuityTree6.cursorAt (continuityTree6.x (1 : BitVec 5)) = Except.ok (cu, nA)) ∧
      ((continuityTree6.tree continuityTree6.myPart cu.tree).v = true) ∧
      (continuityTree6.nodePool continuityTree6.myPart (continuityTree6.tree continuityTree6.myPart cu.tree) = some (0, n1)) ∧
      (continuityTree6.poolBad continuityTree6.myPart (continuityTree6.tree continuityTree6.myPart cu.tree).npool = false) ∧
      (continuityTree6.statePool continuityTree6.myPart (continuityTree6.tree continuityTree6.myPart cu.tree) = some (1, n2)) ∧
      (continuityTree6.poolBad continuityTree6.myPart (continuityTree6.tree continuityTree6.myPart cu.tree).spool = false) ∧
      (BitVec.toNat (continuityTree6.x (2 : BitVec 5)) % 128 = 0) ∧
      (BitVec.toNat (continuityTree6.x (2 : BitVec 5)) + State.TreeRec.ssize (continuityTree6.tree continuityTree6.myPart
        cu.tree) ≤ 1048576) ∧
      (cu.depth ≠ 0) ∧ (cu.depth % 2 ^ State.TreeRec.log2g (continuityTree6.tree continuityTree6.myPart cu.tree) = 0) ∧
      (continuityTree6.nodeWithKey n1 (continuityTree6.tree continuityTree6.myPart cu.tree).cap cu.k = none) ∧
      ((continuityTree6.tree continuityTree6.myPart cu.tree).nodes ≠ (continuityTree6.tree continuityTree6.myPart cu.tree).cap) ∧
      ((continuityTree6.deposit continuityTree6.myPart (continuityTree6.tree continuityTree6.myPart cu.tree) n1 (1, n2) cu
        (continuityTree6.x (1 : BitVec 5)) nA (3 : BitVec 5) (continuityTree6.x (2 : BitVec 5))).isSome = true)) ∧
    ((continuityTree7.cur.isThr = true) ∧ (Acts continuityTree7) ∧ (nA.key = 0) ∧ (placeOf nA.loc = Place.ulm) ∧
      (BitVec.toNat (continuityTree7.x (1 : BitVec 5)) % 128 = 0) ∧
      (BitVec.toNat (continuityTree7.x (1 : BitVec 5)) + 128 ≤ 1048576) ∧
      (continuityTree7.cursorAt (continuityTree7.x (1 : BitVec 5)) = Except.ok (cu, nA)) ∧
      ((continuityTree7.tree continuityTree7.myPart cu.tree).v = true) ∧
      (continuityTree7.nodePool continuityTree7.myPart (continuityTree7.tree continuityTree7.myPart cu.tree) = some (0, n1)) ∧
      (continuityTree7.poolBad continuityTree7.myPart (continuityTree7.tree continuityTree7.myPart cu.tree).npool = false) ∧
      (continuityTree7.statePool continuityTree7.myPart (continuityTree7.tree continuityTree7.myPart cu.tree) = some (1, n2)) ∧
      (continuityTree7.poolBad continuityTree7.myPart (continuityTree7.tree continuityTree7.myPart cu.tree).spool = false) ∧
      (BitVec.toNat (continuityTree7.x (2 : BitVec 5)) % 128 = 0) ∧
      (BitVec.toNat (continuityTree7.x (2 : BitVec 5)) + State.TreeRec.ssize (continuityTree7.tree continuityTree7.myPart
        cu.tree) ≤ 1048576) ∧
      (cu.depth % 2 ^ State.TreeRec.log2g (continuityTree7.tree continuityTree7.myPart cu.tree) ≠ 0)) ∧
    ((continuityTree8.cur.isThr = true) ∧ (Acts continuityTree8) ∧ (nA.key = 0) ∧ (placeOf nA.loc = Place.ulm) ∧
      (BitVec.toNat (continuityTree8.x (1 : BitVec 5)) % 128 = 0) ∧
      (BitVec.toNat (continuityTree8.x (1 : BitVec 5)) + 128 ≤ 1048576) ∧
      (continuityTree8.cursorAt (continuityTree8.x (1 : BitVec 5)) = Except.ok (cuH, nA)) ∧
      ((continuityTree8.tree continuityTree8.myPart cuH.tree).v = true) ∧
      (continuityTree8.nodePool continuityTree8.myPart (continuityTree8.tree continuityTree8.myPart cuH.tree) = some (0, n1)) ∧
      (continuityTree8.poolBad continuityTree8.myPart (continuityTree8.tree continuityTree8.myPart cuH.tree).npool = false) ∧
      (State.holdLive (continuityTree8.tree continuityTree8.myPart cuH.tree) cuH = true) ∧
      (continuityTree8.x (2 : BitVec 5) = (0 : Word)) ∧
      (Instr.snaprel (3 : BitVec 5) (1 : BitVec 5) (2 : BitVec 5) ∈ [Instr.snaprel (3 : BitVec 5) (1 : BitVec 5) (2 : BitVec 5),
        Instr.snaprelAll (3 : BitVec 5) (1 : BitVec 5) (2 : BitVec 5)])) ∧
    ((continuityTree9.cur.isThr = true) ∧ (Acts continuityTree9) ∧ (nA.key = 0) ∧ (placeOf nA.loc = Place.ulm) ∧
      (BitVec.toNat (continuityTree9.x (1 : BitVec 5)) < 64) ∧ (continuityTree9.x (2 : BitVec 5) = (1 : Word)) ∧
      (continuityTree9.cur.isT7 = true) ∧
      ((continuityTree9.tree continuityTree9.myPart (BitVec.toNat (continuityTree9.x (1 : BitVec 5)))).v = true) ∧
      (continuityTree9.nodePool continuityTree9.myPart (continuityTree9.tree continuityTree9.myPart (BitVec.toNat
        (continuityTree9.x (1 : BitVec 5)))) = some (0, n1)) ∧
      (continuityTree9.poolBad continuityTree9.myPart (continuityTree9.tree continuityTree9.myPart (BitVec.toNat
        (continuityTree9.x (1 : BitVec 5)))).npool = false) ∧
      (Instr.snaprel (3 : BitVec 5) (1 : BitVec 5) (2 : BitVec 5) ∈ [Instr.snaprel (3 : BitVec 5) (1 : BitVec 5) (2 : BitVec 5),
        Instr.snaprelAll (3 : BitVec 5) (1 : BitVec 5) (2 : BitVec 5)])) ∧
    ((continuityTree10.cur.isThr = true) ∧ (Acts continuityTree10) ∧ (nA.key = 0) ∧ (placeOf nA.loc = Place.ulm) ∧
      (BitVec.toNat (continuityTree10.x (1 : BitVec 5)) % 128 = 0) ∧
      (BitVec.toNat (continuityTree10.x (1 : BitVec 5)) + 128 ≤ 1048576) ∧
      (BitVec.toNat (continuityTree10.x (2 : BitVec 5)) % 128 = 0) ∧
      (BitVec.toNat (continuityTree10.x (2 : BitVec 5)) + State.TreeRec.ssize (continuityTree10.tree continuityTree10.myPart
        cuH.tree) ≤ 1048576) ∧
      (continuityTree10.cursorWords (continuityTree10.x (1 : BitVec 5)) = Except.ok (bytesWords (continuityTree10.plain
        { loc := continuityTree10.cur.localLoc (BitVec.toNat (continuityTree10.x (1 : BitVec 5))) : Machine.Acc }.loc 128
        { loc := continuityTree10.cur.localLoc (BitVec.toNat (continuityTree10.x (1 : BitVec 5))) : Machine.Acc }.key))) ∧
      (State.checkCursor (bytesWords (continuityTree10.plain
        { loc := continuityTree10.cur.localLoc (BitVec.toNat (continuityTree10.x (1 : BitVec 5))) : Machine.Acc }.loc 128
        { loc := continuityTree10.cur.localLoc (BitVec.toNat (continuityTree10.x (1 : BitVec 5))) : Machine.Acc }.key)) =
        Except.ok cuH) ∧
      (field (continuityTree10.ox 3) 62 2 ≠ 3) ∧
      (continuityTree10.checkCompletion continuityTree10.cur (continuityTree10.ox 3) = Except.ok ()) ∧
      ((continuityTree10.tree continuityTree10.myPart cuH.tree).v = true) ∧
      (continuityTree10.nodePool continuityTree10.myPart (continuityTree10.tree continuityTree10.myPart cuH.tree) = some (0, n1)) ∧
      (continuityTree10.poolBad continuityTree10.myPart (continuityTree10.tree continuityTree10.myPart cuH.tree).npool = false) ∧
      (continuityTree10.statePool continuityTree10.myPart (continuityTree10.tree continuityTree10.myPart cuH.tree) = some (1, n2)) ∧
      (continuityTree10.poolBad continuityTree10.myPart (continuityTree10.tree continuityTree10.myPart cuH.tree).spool = false) ∧
      (State.holdLive (continuityTree10.tree continuityTree10.myPart cuH.tree) cuH = true) ∧
      (have n := continuityTree10.node n1 cuH.held; have q :=
        { src := [State.slotSeg (1, n2).1 (1, n2).2 n.ssize cuH.held], dst := [[{ loc := continuityTree10.cur.localLoc (BitVec.toNat (continuityTree10.x (2 : BitVec 5))), len := n.ssize, va := continuityTree10.x (2 : BitVec 5) : Seg }]], len := n.ssize, ck := field (continuityTree10.ox 3) 62 2, idx := field (continuityTree10.ox 3) 0 20, role := CopyRole.restore continuityTree10.myPart cuH.tree cuH.held : CopyReq };
        ((continuityTree10.putNode n1 cuH.held
        { key := n.key, digest := n.digest, v := n.v, pend := n.pend, bad := n.bad, depth := n.depth, holders := n.holders, children := n.children, parent := n.parent, lastUse := continuityTree10.timebase, ssize := n.ssize, srid := n.srid : Node }).noteNode continuityTree10.myPart cuH.tree cuH.held).copyReady
        continuityTree10.cur q = true) ∧
      ((continuityTree10.node n1 cuH.held).ssize ≠ 0)) ∧
    ((noTree.cur.isThr = true) ∧ (Acts noTree) ∧ (nA.key = 0) ∧ (placeOf nA.loc = Place.ulm) ∧
      ((noTree.x 1).toNat % 128 = 0) ∧ ((noTree.x 1).toNat + 128 ≤ 0x100000) ∧ (noTree.cursorAt (noTree.x 1) = Except.ok (cu, nA)) ∧
      ((noTree.tree noTree.myPart cu.tree).v = false) ∧ ((noTree.x 2).toNat % 128 = 0) ∧ (noTree.x 2 = 0)) ∧
    ((findS.cur.isThr = true) ∧ (Acts findS) ∧ (nA.key = 0) ∧ (placeOf nA.loc = Place.ulm) ∧
      (BitVec.toNat (findS.x (1 : BitVec 5)) % 128 = 0) ∧ (BitVec.toNat (findS.x (1 : BitVec 5)) + 128 ≤ 1048576) ∧
      (findS.cursorAt (findS.x (1 : BitVec 5)) = Except.ok (cuL, nA)) ∧ ((findS.tree findS.myPart cuL.tree).v = true) ∧
      (findS.nodePool findS.myPart (findS.tree findS.myPart cuL.tree) = some (0, n1)) ∧
      (findS.poolBad findS.myPart (findS.tree findS.myPart cuL.tree).npool = false) ∧
      (findS.readLog cuL.logBase ((cuL.logPtr - cuL.logBase) / 48) = Except.ok [bytesWords (findS.plain
        { loc := findS.cur.localLoc (BitVec.toNat (ofN (cuL.logBase + 48 * 0))) : Machine.Acc }.loc 48
        { loc := findS.cur.localLoc (BitVec.toNat (ofN (cuL.logBase + 48 * 0))) : Machine.Acc }.key)]) ∧
      ((((findS.releaseHold findS.myPart cuL).searchLog n1 (findS.tree findS.myPart cuL.tree).cap [bytesWords (findS.plain
        { loc := findS.cur.localLoc (BitVec.toNat (ofN (cuL.logBase + 48 * 0))) : Machine.Acc }.loc 48
        { loc := findS.cur.localLoc (BitVec.toNat (ofN (cuL.logBase + 48 * 0))) : Machine.Acc }.key)] 0).1).isSome = true)) := by
  (repeat' apply And.intro) <;> decide +kernel

theorem witness_MontageBins :
    ((montageBins1.cur.isThr = true ∨ Agent.isSeqNo 1 montageBins1.cur = true) ∧ (montageBins1.setOwned = true) ∧
      (Acts montageBins1) ∧ (montageBins1.monCfgOk montageBins1.cur.setNo (montageBins1.ox 0) = true) ∧
      (field (montageBins1.ox 1) 24 40 = 0) ∧
      (montageBins1.monReel montageBins1.cur.setNo (montageBins1.ox 1) = some (ulmLoc (field (montageBins1.lcmEntry (8 *
        montageBins1.cur.setNo + field (montageBins1.ox 1) 20 4)) 0 7) (field (montageBins1.ox 1) 0 20)))) ∧
    ((montageBins1.cur.isThr = true ∨ Agent.isSeqNo 1 montageBins1.cur = true) ∧ (montageBins1.setOwned = true) ∧
      (montageBins1.cur.isThr = true) ∧ (Acts montageBins1) ∧ (BitVec.toNat (montageBins1.x (3 : BitVec 5)) < 16) ∧
      (BitVec.toNat (montageBins1.x (3 : BitVec 5)) + (montageBins1.bin montageBins1.cur.setNo (BitVec.toNat (montageBins1.x (3
        : BitVec 5)))).len ≤ 1048576) ∧
      ((montageBins1.loadBytes montageBins1.cur (montageBins1.x (3 : BitVec 5)) (montageBins1.bin montageBins1.cur.setNo
        (BitVec.toNat (montageBins1.x (3 : BitVec 5)))).len).isOk = true)) ∧
    ((montageBins2.cur.isThr = true ∨ Agent.isSeqNo 1 montageBins2.cur = true) ∧ (montageBins2.setOwned = true) ∧
      (BitVec.toNat (montageBins2.x (3 : BitVec 5)) < 16) ∧ (Acts montageBins2) ∧
      ((montageBins2.bin montageBins2.cur.setNo (BitVec.toNat (montageBins2.x (3 : BitVec 5)))).state = 1)) ∧
    ((montageBins4.cur.isThr = true ∨ Agent.isSeqNo 1 montageBins4.cur = true) ∧ (montageBins4.setOwned = true) ∧
      (BitVec.toNat (montageBins4.x (3 : BitVec 5)) < 16) ∧ (Acts montageBins4) ∧
      ((montageBins4.bin montageBins4.cur.setNo (BitVec.toNat (montageBins4.x (3 : BitVec 5)))).state = 2) ∧
      (montageBins4.reelClear (montageBins4.bin montageBins4.cur.setNo (BitVec.toNat (montageBins4.x (3 : BitVec 5)))).hdrLoc
        (montageBins4.bin montageBins4.cur.setNo (BitVec.toNat (montageBins4.x (3 : BitVec 5)))).next = false)) := by
  (repeat' apply And.intro) <;> decide +kernel

theorem witness_TimeAndCounters :
    (BitVec.toNat (timeAndCounters1.x (1 : BitVec 5)) < 8) ∧
    ((timeAndCounters1.cur.isT7 = true) ∧ (BitVec.toNat (timeAndCounters1.x (1 : BitVec 5)) < 16) ∧
      (BitVec.toNat (timeAndCounters1.x (2 : BitVec 5)) < 65536) ∧ (field (timeAndCounters1.x (2 : BitVec 5)) 0 8 ≤ 13)) ∧
    ((timeAndCounters1.cur.isThr = true) ∧ (BitVec.toNat (timeAndCounters1.x (1 : BitVec 5)) < 256)) ∧
    ((timeAndCounters1.cur.isThr = true) ∧ (bitAt (timeAndCounters1.x (1 : BitVec 5)) 63 = false) ∧
      (field (timeAndCounters1.x (1 : BitVec 5)) 11 52 = 0)) ∧
    (timeAndCounters1.traced timeAndCounters1.cur.coreNo = false) ∧
    ((timeAndCounters1.cur.isT7 = true) ∧ (bitAt (timeAndCounters1.x (3 : BitVec 5)) 63 = true) ∧
      (field (timeAndCounters1.x (3 : BitVec 5)) 11 52 = 0)) ∧
    ((Servable timeAndCounters2) ∧ (8 ≤ BitVec.toNat (timeAndCounters2.x (2 : BitVec 5)))) ∧
    ((timeAndCounters3.traced timeAndCounters3.cur.coreNo = true) ∧
      ((timeAndCounters3.getDie (timeAndCounters3.cur.coreNo / 64)).trace.recs.length < 16384)) := by
  (repeat' apply And.intro) <;> decide +kernel

theorem witness_MatrixQueues :
    ((Agent.isSeqNo 1 matrixQueues1.cur = true) ∧ ((matrixQueues1.getSet matrixQueues1.cur.setNo).mxUce = false) ∧
      (State.mxcOk (matrixQueues1.ox (BitVec.toNat (1 : BitVec 5))) = true)) ∧
    ((Agent.isSeqNo 1 matrixQueues1.cur = true) ∧ ((matrixQueues1.getSet matrixQueues1.cur.setNo).mxUce = false) ∧
      ((matrixQueues1.getSet matrixQueues1.cur.setNo).engQ = [])) ∧
    ((Agent.isSeqNo 1 matrixQueues1.cur = true) ∧ ((matrixQueues1.getSet matrixQueues1.cur.setNo).mxUce = false) ∧
      ((matrixQueues1.getSet matrixQueues1.cur.setNo).engQ.length < 32) ∧
      ((∃ e, matrixQueues1.engHead matrixQueues1.cur.setNo = some e ∧ (e.inLine = true ∨ (State.engBk e).1 ≠ 2)) ∨
        (matrixQueues1.getSet matrixQueues1.cur.setNo).engQ = []) ∧
      (matrixQueues1.mulCheck (matrixQueues1.ox 6) (matrixQueues1.ox 7) = Except.ok ())) ∧
    ((Agent.isSeqNo 1 matrixQueues1.cur = true) ∧ ((matrixQueues1.getSet matrixQueues1.cur.setNo).mxUce = false) ∧
      ((matrixQueues1.getSet matrixQueues1.cur.setNo).engQ.length < 32) ∧
      ((∃ e, matrixQueues1.engHead matrixQueues1.cur.setNo = some e ∧ (e.inLine = true ∨ (State.engBk e).1 ≠ 2)) ∨
        (matrixQueues1.getSet matrixQueues1.cur.setNo).engQ = []) ∧
      (matrixQueues1.rdCheck (matrixQueues1.ox 5) (matrixQueues1.ox 4) (matrixQueues1.x (1 : BitVec 5)) = Except.ok
        (matrixQueues1.rdDest matrixQueues1.cur.setNo (field (matrixQueues1.ox 5) 34 4) (BitVec.toNat (matrixQueues1.x (1 :
        BitVec 5))) (field (matrixQueues1.ox 5) 0 9 * field (matrixQueues1.ox 4) 0 20)).1)) ∧
    ((Agent.isSeqNo 0 matrixQueues1.cur = false) ∧
      (Instr.mxldb (2 : BitVec 5) (1 : BitVec 5) ∈ [Instr.mxldb (2 : BitVec 5) (1 : BitVec 5), Instr.mxldbs (2 : BitVec 5) (1 :
        BitVec 5) (0 : BitVec 5), Instr.mxldbg (2 : BitVec 5) (1 : BitVec 5), Instr.mxstg (2 : BitVec 5) (1 : BitVec 5)])) ∧
    ((Agent.isSeqNo 1 matrixQueues2.cur = true) ∧ ((matrixQueues2.getSet matrixQueues2.cur.setNo).mxUce = false) ∧
      ((matrixQueues2.getSet matrixQueues2.cur.setNo).engQ ≠ [])) ∧
    ((Agent.isSeqNo 0 matrixQueues3.cur = true) ∧ ((matrixQueues3.getSet matrixQueues3.cur.setNo).loadQ.length < 8) ∧
      (State.wbOk (matrixQueues3.ox 0) = true) ∧ (wbEs (matrixQueues3.ox 0) = false) ∧ (wbBs (matrixQueues3.ox 0) = false) ∧
      (matrixQueues3.loadChecks matrixQueues3.cur (State.loadSpans
        { target := LoadTarget.wb (BitVec.toNat (2 : BitVec 5)), desc := matrixQueues3.ox 0, parts := State.colParts (matrixQueues3.ox 0) (matrixQueues3.x (1 : BitVec 5)) (matrixQueues3.ox 1) (List.replicate (wbN (matrixQueues3.ox 0)) (0, (0 : PReg))) : LoadEntry })
        = Except.ok ())) ∧
    ((Agent.isSeqNo 1 matrixQueues3.cur = false) ∧
      (Instr.mxcfg (1 : BitVec 5) ∈ [Instr.mxcfg (1 : BitVec 5), Instr.mxzero (2 : BitVec 5), Instr.mxmul (2 : BitVec 5) (1 :
        BitVec 5), Instr.mxrd (2 : BitVec 5) (1 : BitVec 5), Instr.mxfence])) ∧
    ((Agent.isSeqNo 0 matrixQueues4.cur = true) ∧ ((matrixQueues4.getSet matrixQueues4.cur.setNo).loadQ.length < 8) ∧
      (field (matrixQueues4.ox 0) 26 38 = 0) ∧ (field (matrixQueues4.ox 0) 9 3 ≤ 5) ∧ (field (matrixQueues4.ox 0) 17 9 ≤ 256) ∧
      (field (matrixQueues4.ox 0) 0 9 ≤ 256) ∧ (BitVec.toNat (matrixQueues4.ox 2) % 8 = 0) ∧
      (matrixQueues4.loadChecks matrixQueues4.cur (State.loadSpans
        { target := LoadTarget.stage (BitVec.toNat (2 : BitVec 5)), desc := matrixQueues4.ox 0, parts := List.map (fun i => (i, matrixQueues4.x (1 : BitVec 5) + ofN i * matrixQueues4.ox 1, field (matrixQueues4.ox 0) 17 9, 0, (0 : PReg))) (List.range (field (matrixQueues4.ox 0) 0 9)), tagAddr := matrixQueues4.ox 2 : LoadEntry })
        = Except.ok ())) ∧
    ((Agent.isSeqNo 0 matrixQueues5.cur = true) ∧ ((matrixQueues5.getSet matrixQueues5.cur.setNo).loadQ.length < 8) ∧
      (State.wbOk (matrixQueues5.ox 0) = true) ∧ (field (matrixQueues5.ox 1) 10 54 = 0) ∧
      (field (matrixQueues5.ox 1) 0 9 < wbN (matrixQueues5.ox 0)) ∧ (field (matrixQueues5.ox 2) 8 56 = 0) ∧
      (bitAt (matrixQueues5.ox 1) 9 = true ∨ matrixQueues5.slotMatches matrixQueues5.cur.setNo (BitVec.toNat (2 : BitVec 5))
        (matrixQueues5.ox 0) = true) ∧
      (matrixQueues5.elemMasks (1 : BitVec 5) (0 : BitVec 5) = Except.ok (BitVec.ofNat 128 (leNat (matrixQueues5.plain
        { loc := matrixQueues5.cur.localLoc (BitVec.toNat (matrixQueues5.x (1 : BitVec 5))) : Machine.Acc }.loc 16
        { loc := matrixQueues5.cur.localLoc (BitVec.toNat (matrixQueues5.x (1 : BitVec 5))) : Machine.Acc }.key)))) ∧
      (wbEs (matrixQueues5.ox 0) = false ∨ State.badMask (BitVec.ofNat 128 (leNat (matrixQueues5.plain
        { loc := matrixQueues5.cur.localLoc (BitVec.toNat (matrixQueues5.x (1 : BitVec 5))) : Machine.Acc }.loc 16
        { loc := matrixQueues5.cur.localLoc (BitVec.toNat (matrixQueues5.x (1 : BitVec 5))) : Machine.Acc }.key))) = none) ∧
      (wbBs (matrixQueues5.ox 0) = false ∨ State.blockMaskOk (matrixQueues5.ox 0) (field (matrixQueues5.ox 2) 0 8) = true) ∧
      (((matrixQueues5.touch (matrixQueues5.x (1 : BitVec 5)) 16).loadChecks matrixQueues5.cur (State.loadSpans
        { target := LoadTarget.wb (BitVec.toNat (2 : BitVec 5)), desc := matrixQueues5.ox 0, fresh := bitAt (matrixQueues5.ox 1) 9, parts := [(field (matrixQueues5.ox 1) 0 9, matrixQueues5.x (1 : BitVec 5) + if (0 : BitVec 5) = (0 : BitVec 5) then (16 : Word) else (0 : Word), colBytes (matrixQueues5.ox 0) (if wbBs (matrixQueues5.ox 0) = true then field (matrixQueues5.ox 2) 0 8 else 0), if wbBs (matrixQueues5.ox 0) = true then field (matrixQueues5.ox 2) 0 8 else 0, if wbEs (matrixQueues5.ox 0) = true then BitVec.ofNat 128 (leNat (matrixQueues5.plain { loc := matrixQueues5.cur.localLoc (BitVec.toNat (matrixQueues5.x (1 : BitVec 5))) : Machine.Acc }.loc 16 { loc := matrixQueues5.cur.localLoc (BitVec.toNat (matrixQueues5.x (1 : BitVec 5))) : Machine.Acc }.key)) else (0 : PReg))] : LoadEntry })).isOk
        = true)) ∧
    ((Agent.isSeqNo 0 matrixQueues6.cur = true) ∧ ((matrixQueues6.getSet matrixQueues6.cur.setNo).loadQ.length < 8) ∧
      (State.wbOk (matrixQueues6.ox 0) = true) ∧ (wbEs (matrixQueues6.ox 0) = true ∨ wbBs (matrixQueues6.ox 0) = true) ∧
      (matrixQueues6.ox 2 ≠ (0 : Word)) ∧
      (matrixQueues6.loadChecks matrixQueues6.cur (State.loadSpans
        { target := LoadTarget.wb (BitVec.toNat (2 : BitVec 5)), desc := matrixQueues6.ox 0, parts := State.colParts (matrixQueues6.ox 0) (matrixQueues6.x (1 : BitVec 5)) (matrixQueues6.ox 1) (lfsrMasks (matrixQueues6.ox 0) (wbN (matrixQueues6.ox 0)) (matrixQueues6.ox 2)) : LoadEntry })
        = Except.ok ())) := by
  (repeat' apply And.intro) <;> decide +kernel

theorem witness_SequencersAndSemaphores :
    ((sequencersAndSemaphores1.setOwned = true) ∧ (sequencersAndSemaphores1.mayFork 0 = true) ∧
      (Acts sequencersAndSemaphores1) ∧
      ((Tbl.get [] (sequencersAndSemaphores1.getSet sequencersAndSemaphores1.cur.setNo).forkQ 0).length < 16)) ∧
    ((sequencersAndSemaphores1.setOwned = true) ∧ (sequencersAndSemaphores1.mayFork 1 = true) ∧
      (Acts sequencersAndSemaphores1) ∧
      ((Tbl.get [] (sequencersAndSemaphores1.getSet sequencersAndSemaphores1.cur.setNo).forkQ 1).length < 16)) ∧
    ((sequencersAndSemaphores1.setOwned = true) ∧ (sequencersAndSemaphores1.mayFork 2 = true) ∧
      (Acts sequencersAndSemaphores1) ∧
      ((Tbl.get [] (sequencersAndSemaphores1.getSet sequencersAndSemaphores1.cur.setNo).forkQ 2).length < 16)) ∧
    ((sequencersAndSemaphores1.setOwned = true) ∧ (Acts sequencersAndSemaphores1) ∧
      (sequencersAndSemaphores1.cur.isT6 = false) ∧
      ((sequencersAndSemaphores1.sem sequencersAndSemaphores1.cur.setNo (BitVec.toNat (2 : BitVec 5))).toNat < field
        (sequencersAndSemaphores1.x (1 : BitVec 5)) 0 16)) ∧
    ((sequencersAndSemaphores2.setOwned = true) ∧ (sequencersAndSemaphores2.cur.isT6 = false) ∧
      (field (sequencersAndSemaphores2.x (3 : BitVec 5)) 62 2 ≠ 3) ∧
      (field (sequencersAndSemaphores2.x (3 : BitVec 5)) 0 48 ≠ 0) ∧
      (field (sequencersAndSemaphores2.x (3 : BitVec 5)) 0 48 ≤ Tbl.get 0 (sequencersAndSemaphores2.getSet
        sequencersAndSemaphores2.cur.setNo).forkSeq (field (sequencersAndSemaphores2.x (3 : BitVec 5)) 62 2)) ∧
      (sequencersAndSemaphores2.joined sequencersAndSemaphores2.cur.setNo (field (sequencersAndSemaphores2.x (3 : BitVec 5)) 62
        2) (field (sequencersAndSemaphores2.x (3 : BitVec 5)) 0 48) = false)) ∧
    ((sequencersAndSemaphores3.setOwned = true) ∧ (sequencersAndSemaphores3.mayFork 0 = true) ∧
      (Acts sequencersAndSemaphores3) ∧
      (16 ≤ (Tbl.get [] (sequencersAndSemaphores3.getSet sequencersAndSemaphores3.cur.setNo).forkQ 0).length)) ∧
    ((sequencersAndSemaphores3.setOwned = true) ∧ (sequencersAndSemaphores3.cur.isT6 = false) ∧
      (field (sequencersAndSemaphores3.x (3 : BitVec 5)) 62 2 ≠ 3) ∧
      (field (sequencersAndSemaphores3.x (3 : BitVec 5)) 0 48 ≠ 0) ∧
      (field (sequencersAndSemaphores3.x (3 : BitVec 5)) 0 48 ≤ Tbl.get 0 (sequencersAndSemaphores3.getSet
        sequencersAndSemaphores3.cur.setNo).forkSeq (field (sequencersAndSemaphores3.x (3 : BitVec 5)) 62 2)) ∧
      (sequencersAndSemaphores3.joined sequencersAndSemaphores3.cur.setNo (field (sequencersAndSemaphores3.x (3 : BitVec 5)) 62
        2) (field (sequencersAndSemaphores3.x (3 : BitVec 5)) 0 48) = true)) ∧
    ((sequencersAndSemaphores3.setOwned = true) ∧ (Acts sequencersAndSemaphores3) ∧
      (sequencersAndSemaphores3.cur.isT6 = false) ∧ (0 < field (sequencersAndSemaphores3.x (4 : BitVec 5)) 0 16) ∧
      (field (sequencersAndSemaphores3.x (4 : BitVec 5)) 0 16 ≤ (sequencersAndSemaphores3.sem sequencersAndSemaphores3.cur.setNo
        (BitVec.toNat (2 : BitVec 5))).toNat) ∧
      (sequencersAndSemaphores3.semFirst sequencersAndSemaphores3.cur.setNo (BitVec.toNat (2 : BitVec 5)) = none)) := by
  (repeat' apply And.intro) <;> decide +kernel

theorem witness_MessageEvents :
    ((messageEvents1.sendQ 0 = ([msgTo 1 0], (messageEvents1.getCore 0).niWait)) ∧
      (messageEvents1.injectable 0 (msgTo 1 0) = true) ∧ ((msgTo 1 0).kind ≠ 4) ∧ ((msgTo 1 0).kind ≠ 5) ∧
      ((msgTo 1 0).kind ≠ 6)) ∧
    ((messageEvents2.sendQ 0 = ((messageEvents2.getCore 0).sendBuf, [(3, msgTo 1 0)])) ∧
      ((messageEvents2.getCore 0).sendBuf.length < 4) ∧ (3 < 4096) ∧
      ((([] : List (Nat × Msg)).any fun e => decide (e.1 = 3)) = false) ∧
      ((messageEvents2.thread (Agent.ofKey 3)).wait = some { kind := WaitKind.send : Wait }) ∧
      ({ kind := WaitKind.send : Wait }.kind = WaitKind.send) ∧ (State.wantsReply (msgTo 1 0) = false)) ∧
    ((messageEvents3.mesh[0]? = some (msgTo 1 0)) ∧ ((msgTo 1 0).dst < 128) ∧ ((msgTo 1 0).nack = false) ∧
      ((msgTo 1 0).kind = 0) ∧ ((msgTo 1 0).loop = false) ∧ (messageEvents3.absent (msgTo 1 0) = false) ∧
      (messageEvents3.arrivalsHeld (msgTo 1 0).dst = false) ∧ (messageEvents3.canReceive 0 (msgTo 1 0) = true) ∧
      (messageEvents3.inBuffer (msgTo 1 0).dst 0 = []) ∧ (messageEvents3.windowRefuses (msgTo 1 0).dst (msgTo 1 0) = false) ∧
      (messageEvents3.entryState (msgTo 1 0).dst (msgTo 1 0).dh = HState.bound) ∧
      (hRemote (messageEvents3.handler0 (msgTo 1 0).dst (msgTo 1 0).dh) = false) ∧
      (messageEvents3.somePending (msgTo 1 0).dst (msgTo 1 0).dh = false) ∧
      ((messageEvents3.getCore (msgTo 1 0).dst).overflow = false) ∧ (messageEvents3.freeInbox (msgTo 1 0).dst = some 0)) ∧
    ((messageEvents3.entryState 0 1 ≠ HState.exited) ∧ (messageEvents3.timebase ≠ (0 : Word))) ∧
    ((messageEvents4.mesh[0]? = some (msgTo 1 0)) ∧ ((msgTo 1 0).dst < 128) ∧ ((msgTo 1 0).nack = false) ∧
      ((msgTo 1 0).kind ≠ 4) ∧ (messageEvents4.absent (msgTo 1 0) = true) ∧
      (messageEvents4.behindInMesh 0 (msgTo 1 0) = false) ∧ (messageEvents4.heldAtBridge (msgTo 1 0) = false)) ∧
    (messageEvents5.entryState 0 1 = HState.exited) ∧
    (({ msg := msgTo 1 0, notBefore := some (3 : Word), readySince := (9 : Word) : InMsg } ∈ (messageEvents6.getCore 0).inbox) ∧
      ({ msg := msgTo 1 0, notBefore := some (3 : Word), readySince := (9 : Word) : InMsg }.slot = 0) ∧
      ({ msg := msgTo 1 0, notBefore := some (3 : Word), readySince := (9 : Word) : InMsg }.notBefore = some (3 : Word)) ∧
      (BitVec.toNat (3 : Word) ≤ BitVec.toNat messageEvents6.timebase)) ∧
    ((messageEvents7.entryState 0 1 = HState.bound) ∧ (messageEvents7.entryReady 0 1 = true) ∧
      (messageEvents7.arrivalsHeld 0 = false) ∧ ((messageEvents7.pendPop 0 1).isSome = true) ∧
      ((messageEvents7.getCore 0).overflow = false) ∧ ((msgTo 1 0).loop = false) ∧ (messageEvents7.freeInbox 0 = some 0)) ∧
    ((messageEvents8.mesh[0]? = some rep) ∧ (rep.dst < 128) ∧ (rep.nack = false) ∧ (rep.kind = 4) ∧ (rep.received = true) ∧
      (messageEvents8.firstInBuffer 0 rep = true) ∧ (messageEvents8.arrivalsHeld rep.dst = false) ∧ (rep.ctxKind = 2) ∧
      (2 < 7) ∧
      (State.answered (messageEvents8.thread (Agent.thr rep.dst 2)) rep = some
        { tag := (3 : BitVec 16), rd := (4 : BitVec 5), gen := (5 : BitVec 13) : Outst }) ∧
      (Thread.live (messageEvents8.thread (Agent.thr rep.dst 2)) = true) ∧
      ((messageEvents8.thread (Agent.thr rep.dst 2)).gen.toNat = rep.ctxLow)) ∧
    ((messageEvents9.mesh[0]? = some ret) ∧ (ret.dst < 128) ∧ (ret.nack = true) ∧ (ret.kind = 0) ∧ (ret.received = true) ∧
      (messageEvents9.firstInBuffer 0 ret = true) ∧ (messageEvents9.arrivalsHeld ret.dst = false) ∧ (ret.ctxKind = 2) ∧
      (2 < 7) ∧ (Thread.live (messageEvents9.thread (Agent.thr ret.dst 2)) = true) ∧
      ((messageEvents9.thread (Agent.thr ret.dst 2)).gen.toNat = ret.ctxLow) ∧
      ((messageEvents9.thread (Agent.thr ret.dst 2)).cellBusy = false)) ∧
    ((messageEvents10.mesh[0]? = some edg) ∧ (144 ≤ edg.dst) ∧ (edg.nack = true) ∧ (edg.ctxLow = 6) ∧
      (messageEvents10.behindInMesh 0 edg = false) ∧ (messageEvents10.heldAtBridge edg = false)) := by
  (repeat' apply And.intro) <;> decide +kernel

theorem witness_ActivationEvents :
    ((0 < 6) ∧ ((activationEvents2.thread (Agent.thr 0 0)).wait = some { kind := WaitKind.ending none : Wait }) ∧
      ({ kind := WaitKind.ending none : Wait }.kind = WaitKind.ending none) ∧
      ((activationEvents2.thread (Agent.thr 0 0)).jbad = false) ∧
      ((activationEvents2.thread (Agent.thr 0 0)).resident = false) ∧
      ((activationEvents2.thread (Agent.thr 0 0)).hosted = none) ∧ ((activationEvents2.thread (Agent.thr 0 0)).launch = false) ∧
      ((activationEvents2.thread (Agent.thr 0 0)).slotAt = none) ∧ (activationEvents2.sendPending (Agent.thr 0 0) = false) ∧
      ((activationEvents2.thread (Agent.thr 0 0)).journal = [])) ∧
    ((0 < 6) ∧ ((activationEvents3.thread (Agent.thr 0 0)).wait = some { kind := WaitKind.ending none : Wait }) ∧
      ({ kind := WaitKind.ending none : Wait }.kind = WaitKind.ending none) ∧
      ((activationEvents3.thread (Agent.thr 0 0)).jbad = false) ∧
      ((activationEvents3.thread (Agent.thr 0 0)).resident = false) ∧
      ((activationEvents3.thread (Agent.thr 0 0)).hosted = none) ∧ ((activationEvents3.thread (Agent.thr 0 0)).launch = false) ∧
      ((activationEvents3.thread (Agent.thr 0 0)).slotAt = none) ∧ (activationEvents3.sendPending (Agent.thr 0 0) = false) ∧
      ((activationEvents3.thread (Agent.thr 0 0)).journal = [JEntry.store (2 ^ 48 + 4096) 0 (4096 : Word) (List.map some
        (wordBytes (4386 : Word))) 16 [] false]) ∧
      (activationEvents3.acrossBridge (Agent.thr 0 0).dieNo (2 ^ 48 + 4096) = false) ∧
      (placeOf (2 ^ 48 + 4096) = Place.ulm) ∧ (activationEvents3.blocked (2 ^ 48 + 4096) 8 true = false)) ∧
    ((0 < 6) ∧ (State.watchdogDue (activationEvents4.thread (Agent.thr 0 0)) = true)) ∧
    (((activationEvents4.thread (Agent.seq 0 0)).st = TState.run) ∧ ((activationEvents4.thread (Agent.seq 0 0)).wdLeft = 0) ∧
      (Tbl.get none (activationEvents4.getSet 0).cur 0 = some { seqNo := 3 : ForkEntry })) ∧
    ((activationEvents4.migrants[0]? = some { src := 1, dest := 3 : Migrant }) ∧
      ({ src := 1, dest := 3 : Migrant }.arrived = false) ∧ (activationEvents4.retraining = false)) ∧
    ((activationEvents4.forwards[0]? = some { upTo := (77 : Word) : Forward }) ∧
      (BitVec.toNat { upTo := (77 : Word) : Forward }.upTo ≤ BitVec.toNat activationEvents4.timebase)) ∧
    ((0 < 6) ∧ (Thread.live (activationEvents4.thread (Agent.thr 0 0)) = true) ∧
      (activationEvents4.missDue (activationEvents4.thread (Agent.thr 0 0)) = true)) ∧
    (State.watchdogDue (activationEvents4.thread (Agent.thr 0 6)) = true) ∧
    ((activationEvents1.takes 0 = true) ∧
      (activationEvents1.bestCand 0 = some
        { prio := activationEvents1.msgPrio 0 (im im7).msg, deadline := State.msgDeadline (im im7).msg, again := (im im7).retake.isSome, order := (im im7).order, tid := 0, src := Sum.inl (im im7) : State.Cand })
        ∧
      ({ prio := activationEvents1.msgPrio 0 (im im7).msg, deadline := State.msgDeadline (im im7).msg, again := (im im7).retake.isSome, order := (im im7).order, tid := 0, src := Sum.inl (im im7) : State.Cand }.src
        = Sum.inl (im im7)) ∧
      ((im im7).msg.kind = 0) ∧ ((im im7).retake = none) ∧
      ({ prio := activationEvents1.msgPrio 0 (im im7).msg, deadline := State.msgDeadline (im im7).msg, again := (im im7).retake.isSome, order := (im im7).order, tid := 0, src := Sum.inl (im im7) : State.Cand }.tid
        = 0) ∧
      (0 < 6) ∧ (activationEvents1.pregV 0 (hPreg (activationEvents1.handler0 0 (im im7).msg.dh)) = false)) ∧
    (((activationEvents6.getCore 0).t6q = [rq 8 [(4096 : Word)]]) ∧ (activationEvents6.t6Ready 0 = true) ∧ (0 < 128) ∧
      ((rq 8 [(4096 : Word)]).kind = 3) ∧ ((rq 8 [(4096 : Word)]).poisoned = false) ∧
      (activationEvents6.poisoned (ulmLoc 0 (field ((rq 8 [(4096 : Word)]).word 0) 0 20)) 8 = false) ∧
      (activationEvents6.sbBlocks 0 (field ((rq 8 [(4096 : Word)]).word 0) 0 20) 8 true = false) ∧
      ((activationEvents6.getCore 0).sendBuf.length < 4) ∧ ((activationEvents6.getCore 0).niWait = []) ∧
      ((rq 8 [(4096 : Word)]).sub = 8)) ∧
    (((activationEvents5.getCore 0).t6q = [msgTo 1 0]) ∧ (activationEvents5.t6Ready 0 = true) ∧ (0 < 128) ∧
      ((msgTo 1 0).kind ≠ 3)) ∧
    (((activationEvents7.getCore 0).t6q = [rq 9 [(4096 : Word), (6 : Word)]]) ∧ (activationEvents7.t6Ready 0 = true) ∧
      (0 < 128) ∧ ((rq 9 [(4096 : Word), (6 : Word)]).kind = 3) ∧ ((rq 9 [(4096 : Word), (6 : Word)]).poisoned = false) ∧
      (activationEvents7.poisoned (ulmLoc 0 (field ((rq 9 [(4096 : Word), (6 : Word)]).word 0) 0 20)) 8 = false) ∧
      (activationEvents7.sbBlocks 0 (field ((rq 9 [(4096 : Word), (6 : Word)]).word 0) 0 20) 8 true = false) ∧
      ((activationEvents7.getCore 0).sendBuf.length < 4) ∧ ((activationEvents7.getCore 0).niWait = []) ∧
      ((rq 9 [(4096 : Word), (6 : Word)]).sub = 9)) ∧
    (((activationEvents8.getCore 0).t6q = [rq 10 [(4096 : Word), (6 : Word), (5 : Word)]]) ∧
      (activationEvents8.t6Ready 0 = true) ∧ (0 < 128) ∧ ((rq 10 [(4096 : Word), (6 : Word), (5 : Word)]).kind = 3) ∧
      ((rq 10 [(4096 : Word), (6 : Word), (5 : Word)]).poisoned = false) ∧
      (activationEvents8.poisoned (ulmLoc 0 (field ((rq 10 [(4096 : Word), (6 : Word), (5 : Word)]).word 0) 0 20)) 8 = false) ∧
      (activationEvents8.sbBlocks 0 (field ((rq 10 [(4096 : Word), (6 : Word), (5 : Word)]).word 0) 0 20) 8 true = false) ∧
      ((activationEvents8.getCore 0).sendBuf.length < 4) ∧ ((activationEvents8.getCore 0).niWait = []) ∧
      ((rq 10 [(4096 : Word), (6 : Word), (5 : Word)]).sub = 10) ∧
      (activationEvents8.ulmWord 0 (field ((rq 10 [(4096 : Word), (6 : Word), (5 : Word)]).word 0) 0 20) = (rq 10 [(4096 :
        Word), (6 : Word), (5 : Word)]).word 2)) ∧
    (((activationEvents9.getCore 0).t6q = [rq 10 [(4096 : Word), (6 : Word), (5 : Word)]]) ∧
      (activationEvents9.t6Ready 0 = true) ∧ (0 < 128) ∧ ((rq 10 [(4096 : Word), (6 : Word), (5 : Word)]).kind = 3) ∧
      ((rq 10 [(4096 : Word), (6 : Word), (5 : Word)]).poisoned = false) ∧
      (activationEvents9.poisoned (ulmLoc 0 (field ((rq 10 [(4096 : Word), (6 : Word), (5 : Word)]).word 0) 0 20)) 8 = false) ∧
      (activationEvents9.sbBlocks 0 (field ((rq 10 [(4096 : Word), (6 : Word), (5 : Word)]).word 0) 0 20) 8 true = false) ∧
      ((activationEvents9.getCore 0).sendBuf.length < 4) ∧ ((activationEvents9.getCore 0).niWait = []) ∧
      ((rq 10 [(4096 : Word), (6 : Word), (5 : Word)]).sub = 10) ∧
      (activationEvents9.ulmWord 0 (field ((rq 10 [(4096 : Word), (6 : Word), (5 : Word)]).word 0) 0 20) ≠ (rq 10 [(4096 :
        Word), (6 : Word), (5 : Word)]).word 2)) ∧
    (((activationEvents10.getCore 0).t6q = [rq 16 [(4096 : Word), (6 : Word), (1 : Word)]]) ∧
      (activationEvents10.t6Ready 0 = true) ∧ (0 < 128) ∧ ((rq 16 [(4096 : Word), (6 : Word), (1 : Word)]).kind = 3) ∧
      ((rq 16 [(4096 : Word), (6 : Word), (1 : Word)]).poisoned = false) ∧
      (activationEvents10.poisoned (ulmLoc 0 (field ((rq 16 [(4096 : Word), (6 : Word), (1 : Word)]).word 0) 0 20)) 8 = false) ∧
      (activationEvents10.sbBlocks 0 (field ((rq 16 [(4096 : Word), (6 : Word), (1 : Word)]).word 0) 0 20) 8 true = false) ∧
      ((activationEvents10.getCore 0).sendBuf.length < 4) ∧ ((activationEvents10.getCore 0).niWait = []) ∧ (0 ≤ 8) ∧
      ((rq 16 [(4096 : Word), (6 : Word), (1 : Word)]).sub = 16 + 0)) := by
  (repeat' apply And.intro) <;> decide +kernel

theorem witness_ServiceEvents :
    ((0 < 6) ∧ (serviceEvents1.trapReady (Agent.thr 0 0) = true) ∧
      ((serviceEvents1.thread (Agent.thr 0 0)).pendTrap = [{ code := Cause.uncorrectable : PendTrap }]) ∧
      ({ code := Cause.uncorrectable : PendTrap }.code = Cause.uncorrectable) ∧
      ((serviceEvents1.thread (Agent.thr 0 0)).nr = false) ∧ ((serviceEvents1.thread (Agent.thr 0 0)).rtk < 2) ∧
      ((serviceEvents1.thread (Agent.thr 0 0)).resident = false) ∧ ((serviceEvents1.thread (Agent.thr 0 0)).hosted = none) ∧
      ((serviceEvents1.thread (Agent.thr 0 0)).slot = some 2)) ∧
    ((serviceEvents1.choose 0 = some (Agent.thr 0 (((serviceEvents1.getCore 0).rr + 0) % 6))) ∧
      (field (serviceEvents1.getCore 0).ckstat 0 2 = 0) ∧ (serviceEvents1.t7Full 0 = false)) ∧
    ((serviceEvents1.t7Full 0 = false) ∧ (bitAt (serviceEvents1.getCore 0).ckstat 16 = false) ∧
      (field (serviceEvents1.getCore 0).ckstat 0 2 = 0)) ∧
    (((serviceEvents2.getCore 0).preemptOut = false) ∧
      (BitVec.toNat (serviceEvents2.getCore 0).preemptFrom ≤ BitVec.toNat serviceEvents2.timebase) ∧
      (serviceEvents2.t7Full 0 = false) ∧ (serviceEvents2.takes 0 = true) ∧
      (List.findSome? (serviceEvents2.victimOf 0) (serviceEvents2.getCore 0).inbox = some 0)) ∧
    (((serviceEvents3.thread (Agent.thr 0 0)).wait = some { kind := WaitKind.saving true : Wait }) ∧
      ({ kind := WaitKind.saving true : Wait }.kind = WaitKind.saving true)) ∧
    (((serviceEvents4.thread (Agent.thr 0 0)).hosted = some { : Hosted }) ∧
      ((serviceEvents4.thread (Agent.thr 0 0)).st = TState.saved) ∧ ({ : Hosted }.parked = false) ∧
      ((serviceEvents4.thread (Agent.thr 0 0)).resuming = false) ∧ ((serviceEvents4.thread (Agent.thr 0 0)).restoring = false) ∧
      (((serviceEvents4.candidates 0).any fun c => decide (c.tid = 0)) = false) ∧ (serviceEvents4.t7Full 0 = false) ∧
      (serviceEvents4.takes 0 = true)) ∧
    (((serviceEvents5.thread (Agent.thr 0 0)).hosted = some { : Hosted }) ∧
      ((serviceEvents5.thread (Agent.thr 0 0)).st = TState.saved) ∧ ((serviceEvents5.thread (Agent.thr 0 0)).restoring = true) ∧
      ({ : Hosted }.ctxBuf = []) ∧ ({ : Hosted }.saveMsgs = [])) ∧
    (((serviceEvents6.getCore 0).started = true) ∧ ((serviceEvents6.getCore 0).t7q = [{ : Item }]) ∧
      ((serviceEvents6.getCore 0).t7cur = none) ∧ ((serviceEvents6.getCore 0).resetting = false) ∧
      ((serviceEvents6.thread (Agent.thr 0 7)).st = TState.free) ∧ ({ : Item }.kind = 0)) ∧
    ((serviceEvents7.choose 0 = some (Agent.thr 0 (((serviceEvents7.getCore 0).rr + 0) % 6))) ∧
      (field (serviceEvents7.getCore 0).ckstat 0 2 = 1)) ∧
    (((serviceEvents9.getCore 0).scan = some { rd := some (4 : BitVec 5) : Scan }) ∧
      ({ rd := some (4 : BitVec 5) : Scan }.rd = some (4 : BitVec 5)) ∧
      ((serviceEvents9.thread (Agent.thr 0 7)).st = TState.wait) ∧
      ((serviceEvents9.thread (Agent.thr 0 7)).wait = some { kind := WaitKind.scan, rd := (4 : BitVec 5) : Wait }) ∧
      (BitVec.toNat { rd := some (4 : BitVec 5) : Scan }.start + 200000 ≤ BitVec.toNat serviceEvents9.timebase)) ∧
    (((serviceEvents9.getCore 0).scan = some { rd := some (4 : BitVec 5) : Scan }) ∧
      ({ rd := some (4 : BitVec 5) : Scan }.rd = some (4 : BitVec 5)) ∧
      ((serviceEvents9.thread (Agent.thr 0 7)).st = TState.wait) ∧
      ((serviceEvents9.thread (Agent.thr 0 7)).wait = some { kind := WaitKind.scan, rd := (4 : BitVec 5) : Wait }) ∧
      (((serviceEvents9.getCore 0).t7q.any fun i => decide (i.kind = 3)) = true)) ∧
    (((serviceEvents10.getCore 0).stop = some { : StopReq }) ∧ ({ : StopReq }.atRest = false) ∧
      ((serviceEvents10.settleStops 0).coreAtRest 0 = true)) := by
  (repeat' apply And.intro) <;> decide +kernel

theorem witness_WaitEvents :
    (((qp.thread (Agent.ofKey 2)).st = TState.run) ∧
      ((qp.thread (Agent.ofKey 2)).wait = some { kind := WaitKind.qput 0 4 (77 : Word), rd := (3 : BitVec 5) : Wait }) ∧
      (qp.qMay (Agent.ofKey 2) 4 true = true) ∧ ((qp.qreg 0 4).entries.length < 16)) ∧
    ((waitEvents10.waiting (Agent.ofKey 2) = some { kind := WaitKind.join 0 1 5, rd := (3 : BitVec 5) : Wait }) ∧
      (waitEvents10.joined 0 1 5 = true)) ∧
    ((waitEvents11.waiting (Agent.ofKey 2) = some { kind := WaitKind.sem 0 4 2, rd := (3 : BitVec 5) : Wait }) ∧
      (waitEvents11.semGrant 0 4 (some (Agent.ofKey 2).key) = some 2)) ∧
    ((waitEvents12.getSet 0).flagPend = [(3 : Word), (4 : Word)]) ∧
    ((waitEvents1.waiting (Agent.ofKey 2) = some { kind := WaitKind.time (100 : Word) false false, rd := (3 : BitVec 5) : Wait }) ∧
      (waitEvents1.timeMet (Agent.ofKey 2) (100 : Word) false false = true)) ∧
    ((waitEvents2.waiting (Agent.ofKey 2) = some { kind := WaitKind.dc 0 5 (5 : Word), rd := (3 : BitVec 5) : Wait }) ∧
      ((waitEvents2.dc 0 5).poison = false) ∧ (false = true ∨ (waitEvents2.dc 0 5).value = (0 : BitVec 32))) ∧
    ((waitEvents3.waiting (Agent.ofKey 2) = some { kind := WaitKind.dc 0 5 (5 : Word), rd := (3 : BitVec 5) : Wait }) ∧
      ((waitEvents3.dc 0 5).poison = true) ∧ (Agent.ofKey 2 = Agent.thr (2 / 8 : Nat) (2 % 8)) ∧ (2 % 8 < 7) ∧
      (State.userLevel (waitEvents3.thread (Agent.ofKey 2)) Cause.depfault = false) ∧ (waitEvents3.t7Full (2 / 8 : Nat) = false) ∧ (bitAt (waitEvents3.getCore (2 / 8 : Nat)).ckstat 16 = false)) ∧
    ((waitEvents4.waiting (Agent.ofKey 2) = some
      { kind := WaitKind.bar 0 5 (0 : BitVec 16) (5 : Word), rd := (3 : BitVec 5) : Wait }) ∧
      ((waitEvents4.bar 0 5).poison = false) ∧ (false = true ∨ (waitEvents4.bar 0 5).phase ≠ (0 : BitVec 16))) ∧
    ((waitEvents5.waiting (Agent.ofKey 2) = some
      { kind := WaitKind.bar 0 5 (0 : BitVec 16) (5 : Word), rd := (3 : BitVec 5) : Wait }) ∧
      ((waitEvents5.bar 0 5).poison = true) ∧ (Agent.ofKey 2 = Agent.thr (2 / 8 : Nat) (2 % 8)) ∧ (2 % 8 < 7) ∧
      (State.userLevel (waitEvents5.thread (Agent.ofKey 2)) Cause.depfault = false) ∧ (waitEvents5.t7Full (2 / 8 : Nat) = false) ∧ (bitAt (waitEvents5.getCore (2 / 8 : Nat)).ckstat 16 = false)) ∧
    ((waitEvents6.waiting (Agent.ofKey 2) = some
      { kind := WaitKind.slate 0 5 (0 : BitVec 16) (5 : Word), rd := (3 : BitVec 5) : Wait }) ∧
      ((waitEvents6.getSlate 0 5).state ≠ 2) ∧
      (false = true ∨ (waitEvents6.getSlate 0 5).gen ≠ (0 : BitVec 16) ∨ (waitEvents6.getSlate 0 5).state ≠ 1)) ∧
    ((waitEvents7.waiting (Agent.ofKey 2) = some
      { kind := WaitKind.slate 0 5 (0 : BitVec 16) (5 : Word), rd := (3 : BitVec 5) : Wait }) ∧
      ((waitEvents7.getSlate 0 5).state = 2) ∧ (Agent.ofKey 2 = Agent.thr (2 / 8 : Nat) (2 % 8)) ∧ (2 % 8 < 7) ∧
      (State.userLevel (waitEvents7.thread (Agent.ofKey 2)) Cause.depfault = false) ∧ (waitEvents7.t7Full (2 / 8 : Nat) = false) ∧ (bitAt (waitEvents7.getCore (2 / 8 : Nat)).ckstat 16 = false)) ∧
    ((waitEvents8.waiting (Agent.ofKey 2) = some { kind := WaitKind.reel (2 ^ 48 + 4096), rd := (3 : BitVec 5) : Wait }) ∧
      (bitAt (waitEvents8.reelFill (2 ^ 48 + 4096)) 0 = true)) ∧
    ((waitEvents9.waiting (Agent.ofKey 2) = some { kind := WaitKind.qget (Agent.ofKey 2).unit 4, rd := (3 : BitVec 5) : Wait }) ∧
      (waitEvents9.qMay (Agent.ofKey 2) 4 false = true) ∧
      ((waitEvents9.qreg (Agent.ofKey 2).unit 4).entries = [((7 : Word), false), ((8 : Word), false)])) := by
  (repeat' apply And.intro) <;> decide +kernel

theorem witness_SetEvents :
    (((setEvents1.getSet 0).rowXfers[0]? = some rx) ∧
      (((List.take 0 (setEvents1.getSet 0).rowXfers).any fun y => decide (y.core = rx.core)) = false) ∧
      ((setEvents1.bin 0 rx.bin).state = 0)) ∧
    (((setEvents2.getSet 0).rowXfers[0]? = some rx) ∧
      (((List.take 0 (setEvents2.getSet 0).rowXfers).any fun y => decide (y.core = rx.core)) = false) ∧
      ((setEvents2.bin 0 rx.bin).state = 3)) ∧
    (((setEvents2.bin 0 3).state = 3) ∧ (setEvents2.reelFree (setEvents2.bin 0 3).hdrLoc (setEvents2.bin 0 3).next = true) ∧
      (setEvents2.reelSlot (setEvents2.bin 0 3).hdrLoc (setEvents2.bin 0 3).next + 32 ≤ memSize (setEvents2.bin 0 3).hdrLoc) ∧
      (memBase (setEvents2.bin 0 3).hdrLoc + setEvents2.reelSlot (setEvents2.bin 0 3).hdrLoc (setEvents2.bin 0 3).next + 32 ≤
        (setEvents2.bin 0 3).hdrLoc ∨ (setEvents2.bin 0 3).hdrLoc + 64 ≤
        memBase (setEvents2.bin 0 3).hdrLoc + setEvents2.reelSlot (setEvents2.bin 0 3).hdrLoc (setEvents2.bin 0 3).next)) ∧
    (((setEvents3.getSet 0).rowXfers[0]? = some rx) ∧
      (((List.take 0 (setEvents3.getSet 0).rowXfers).any fun y => decide (y.core = rx.core)) = false) ∧
      ((setEvents3.bin 0 rx.bin).state = 1) ∧ ((setEvents3.bin 0 rx.bin).rows = 0) ∧ (setEvents3.freeBuf 0 = some (0)) ∧
      ((setEvents3.bin 0 rx.bin).cap ≠ 1)) ∧
    (((setEvents4.getSet 0).rowXfers[0]? = some rx) ∧
      (((List.take 0 (setEvents4.getSet 0).rowXfers).any fun y => decide (y.core = rx.core)) = false) ∧
      ((setEvents4.bin 0 rx.bin).state = 1) ∧ (setEvents4.freeBuf 0 = none)) ∧
    (((setEvents5.getSet 0).rowXfers[0]? = some rx) ∧
      (((List.take 0 (setEvents5.getSet 0).rowXfers).any fun y => decide (y.core = rx.core)) = false) ∧
      ((setEvents5.bin 0 rx.bin).state = 2) ∧ (setEvents5.timebase.toNat < State.dueAt (setEvents5.bin 0 rx.bin)) ∧ ((setEvents5.bin 0 rx.bin).buf = some 4) ∧
      ((setEvents5.bin 0 rx.bin).cap ≠ (setEvents5.bin 0 rx.bin).rows + 1)) ∧
    ((0 < 3) ∧
      (Tbl.get [] (setEvents7.getSet 0).forkQ 0 = [{ entry := (256 : Word), arg := (5 : Word), seqNo := 2 : ForkEntry }]) ∧
      ((setEvents7.thread (Agent.seq 0 0)).st = TState.free) ∧ (Tbl.get none (setEvents7.getSet 0).cur 0 = none) ∧
      (setEvents7.setRuns 0 = true)) ∧
    ((setEvents8.engHead 0 = some mulE) ∧ (setEvents8.setRuns 0 = true) ∧
      (mulE.op = EngOp.mul 1 0 ((2 : Word) + (4 : Word) * (2 : Word) ^ 9 + (2 : Word) * (2 : Word) ^ 18) (0 : Word) (0 : Word)) ∧
      (setEvents8.mulMet 0 mulE 0 (0 : Word) (0 : Word) = true) ∧ (bitAt (0 : Word) 13 = false) ∧
      (field (Tbl.get { : WbSlot } (setEvents8.getSet 0).wb 0).hdr 62 2 = 2) ∧
      (field (Tbl.get { : AStage } (setEvents8.getSet 0).stages (field (0 : Word) 14 2)).hdr 62 2 = 2) ∧
      (wbF (Tbl.get { : WbSlot } (setEvents8.getSet 0).wb 0).hdr = mxBf ((2 : Word) + (4 : Word) * (2 : Word) ^ 9 + (2 : Word) *
        (2 : Word) ^ 18)) ∧
      (field (Tbl.get { : AStage } (setEvents8.getSet 0).stages (field (0 : Word) 14 2)).hdr 9 3 = mxAf ((2 : Word) + (4 : Word)
        * (2 : Word) ^ 9 + (2 : Word) * (2 : Word) ^ 18)) ∧
      (mxM ((2 : Word) + (4 : Word) * (2 : Word) ^ 9 + (2 : Word) * (2 : Word) ^ 18) ≤ 256) ∧
      (mxN ((2 : Word) + (4 : Word) * (2 : Word) ^ 9 + (2 : Word) * (2 : Word) ^ 18) ≤ 256)) ∧
    (((setEvents9.getSet 0).engQ =
      [({ mulE with op := EngOp.mul 1 0 (0 : Word) (128 : Word) (0 : Word), streaming := true, flags := (1 : BitVec 8) } :
      EngEntry)]) ∧
      ((({ mulE with op := EngOp.mul 1 0 (0 : Word) (128 : Word) (0 : Word), streaming := true, flags := (1 : BitVec 8) } :
        EngEntry)).streaming = true)) ∧
    (((setEvents11.getSet 0).loadQ = [ld]) ∧ (ld.started = false) ∧ (setEvents11.setRuns 0 = true) ∧
      ((setEvents11.getSet 0).engQ.any (State.mulBefore ld.serial ld.target) = false)) ∧
    (setEvents12.loadRunning 0 = some (({ ld with started := true } : LoadEntry), none)) ∧
    ((setEvents13.loadRunning 0 = some (({ ld with parts := [(0, (2097152 : Word), 4, 0, (0 : PReg))], started := true } :
      LoadEntry), some (Cause.noRange, ((0, (2097152 : Word), 4, 0, (0 : PReg)).2.1, (0, (2097152 : Word), 4, 0, (0 :
      PReg)).2.2.1).1 + ofN (0)))) ∧
      (setEvents13.t7Full (setEvents13.coreZero 0) = false) ∧ (Cause.noRange ≠ Cause.partialResidency)) ∧
    ((setEvents16.loadRunning 0 = some (({ ld with parts := [(0, (2097152 : Word), 4, 0, (0 : PReg))], started := true } :
      LoadEntry), some (Cause.partialResidency, ((0, (2097152 : Word), 4, 0, (0 : PReg)).2.1, (0, (2097152 : Word), 4, 0, (0 :
      PReg)).2.2.1).1 + ofN (0)))) ∧
      (setEvents16.t7Full (setEvents16.coreZero 0) = false)) ∧
    ((setEvents17.engHead 0 = some { serial := 4, op := EngOp.zero 1 : EngEntry }) ∧ (setEvents17.setRuns 0 = true) ∧
      ({ serial := 4, op := EngOp.zero 1 : EngEntry }.op = EngOp.zero 1)) ∧
    (((setEventsx2.getSet 0).rowXfers[0]? = some rx) ∧
      (((List.take 0 (setEventsx2.getSet 0).rowXfers).any fun y => decide (y.core = rx.core)) = false) ∧
      ((setEventsx2.bin 0 rx.bin).state = 2) ∧ (setEventsx2.timebase.toNat < State.dueAt (setEventsx2.bin 0 rx.bin)) ∧ ((setEventsx2.bin 0 rx.bin).cap = (setEventsx2.bin 0 rx.bin).rows + 1) ∧
      (setEventsx2.reelClear (setEventsx2.bin 0 rx.bin).hdrLoc (setEventsx2.bin 0 rx.bin).next = false)) ∧
    (((setEventsx1.bin 0 3).state = 2) ∧
      (BitVec.toNat (setEventsx1.bin 0 3).first + 10 * (setEventsx1.bin 0 3).tmo ≤ BitVec.toNat setEventsx1.timebase) ∧
      (setEventsx1.reelClear (setEventsx1.bin 0 3).hdrLoc (setEventsx1.bin 0 3).next = false)) := by
  (repeat' apply And.intro) <;> decide +kernel

theorem witness_CopyEvents :
    ((pz.copyWith (hb_u15 + (5 : BitVec 64)) = some (e0', cA)) ∧ (pz.t7Full (pz.t7CoreOf e0') = false) ∧
      (cA.role = CopyRole.plain) ∧ (cA.state ≠ CState.fault) ∧
      (pz.copyAdvanced (hb_u15 + (5 : BitVec 64)) = some (pz, e0', cA)) ∧
      (cA =
        { handle := cA.handle, issuer := cA.issuer, part := cA.part, secure := cA.secure, len := cA.len, src := cA.src, dst := cA.dst, ck := cA.ck, slot := cA.slot, idx := cA.idx, hdrLoc := cA.hdrLoc, ord := cA.ord, started := cA.started, state := cA.state, cause := cA.cause, prog := cA.prog, after := cA.after, role := cA.role : Copy })
        ∧
      (pz.copyNext cA = State.Next.bad 8)) ∧
    ((copyEvents9.copyWith (hb_u15 + (5 : BitVec 64)) = some (e0', cA)) ∧ (copyEvents9.copyRuns cA = true) ∧
      (copyEvents9.copyNext cA = State.Next.go 8) ∧ (cA.dst = [[sg (2 ^ 48 + 8192) 8]]) ∧
      (segAt cA.src cA.prog = some (sg (2 ^ 48 + 4096) 8)) ∧
      (segAt [sg (2 ^ 48 + 8192) 8] cA.prog = some (sg (2 ^ 48 + 8192) 8)) ∧ ((sg (2 ^ 48 + 8192) 8).key = 0) ∧
      (placeOf ((sg (2 ^ 48 + 8192) 8).loc + (cA.prog - (sg (2 ^ 48 + 8192) 8).off)) = Place.ulm ∨ ∃ d, placeOf ((sg (2 ^ 48 +
        8192) 8).loc + (cA.prog - (sg (2 ^ 48 + 8192) 8).off)) = Place.hbm d)) ∧
    ((copyEvents2.copyWith (hb_u15 + (5 : BitVec 64)) = some (e0', cF)) ∧ (copyEvents2.t7Full (copyEvents2.t7CoreOf e0') = false) ∧
      (cF.role = CopyRole.plain) ∧ (cF.state = CState.fault)) ∧
    ((copyEvents3.copyWith (hb_u15 + (5 : BitVec 64)) = some (e0', cN_u15)) ∧ (cN_u15.started = false) ∧
      (copyEvents3.engineWith cN_u15.after = none) ∧ (cN_u15.len ≠ 0)) ∧
    ((copyEvents4.copyAdvanced (hb_u15 + (5 : BitVec 64)) = some (copyEvents7, e0', cE)) ∧ (cE.len ≤ cE.prog) ∧
      (cE.role = CopyRole.plain)) ∧
    ((copyEvents5.copyAdvanced (hb_u15 + (5 : BitVec 64)) = some (copyEvents8, e0', cH)) ∧
      (copyEvents8.copyNext cH = State.Next.hole 0 (2097152 : Word)) ∧ (copyEvents5.t7Full (copyEvents5.t7CoreOf e0') = false)) ∧
    ((0 < 16) ∧ (copyEvents11.pregV 0 0 = true) ∧ (copyEvents11.pregState 0 0 = if true = true then 2 else 0) ∧
      (copyEvents11.residencyReq 0 0 true (if true = true then (0 : Word) else (0 : Word)) = Except.ok (rq_u15 true)) ∧
      (copyEvents11.copyReady (Agent.thr 0 7) (rq_u15 true) = true)) ∧
    ((State.readsAhead (copyEvents17.thread (Agent.thr 0 0)) = true) ∧
      (copyEvents17.nextStrip (Agent.thr 0 0) ((copyEvents17.thread (Agent.thr 0 0)).getSs 0) = some (((ssS rdS).nextStrip
        (Agent.thr 0 0) rdS).getD { : Strip }))) ∧
    ((copyEvents18.nextPush 0 0 0 = some pushW) ∧ (copyEvents18.pushHeld pushW = false) ∧
      (copyEvents18.acrossBridge (0 / 64) pushW.loc = false) ∧ (pushW.key = 0) ∧
      (placeOf pushW.loc = Place.ulm)) ∧
    ((w'.copyAdvanced (w'.residencyHandle 0 0) = some (copyEvents19, Agent.thr 0 0, (adv w').2.2)) ∧
      ((adv w').2.2.len ≤ (adv w').2.2.prog) ∧ ((adv w').2.2.role = CopyRole.residency 0 0 true) ∧ ((adv w').2.2.ck = 0)) := by
  (repeat' apply And.intro) <;> (first | decide +kernel | exact Or.inl (by decide +kernel))

theorem witness_ScheduleEvents :
    ((scheduleEvents1.postedA = []) ∧ (scheduleEvents1.retraining = false) ∧
      ([(1 : Word)].length ≠ 8 ∨ 0 % 64 ≠ 0 ∨ 0x1000 < 0 + 64)) ∧
    (((scheduleEvents9.getDie (0 % 2)).cpFifo = [pk]) ∧ ((scheduleEvents9.getDie (0 % 2)).cpHalted = false) ∧
      (scheduleEvents9.cpChecked pk = some (0, qR)) ∧
      ((scheduleEvents9.getDie (0 % 2)).cpPass = true ∨ ∀ n < 8, State.cpbrkMatches (Tbl.get (0 : Word) scheduleEvents9.cpbrk n)
        (0 % 2) (launchQh pk.words) (scheduleEvents9.stageHandler 0 qR) = false) ∧
      (scheduleEvents9.postedA = []) ∧
      ((scheduleEvents9.cpAcquire (0 % 2) pk qR).acceptLaunch 0 (launchQh pk.words) pk.words true false = Except.ok s1F)) ∧
    (((scheduleEvents10.getDie (0 % 2)).cpFifo = [pk]) ∧ ((scheduleEvents10.getDie (0 % 2)).cpHalted = false) ∧
      (scheduleEvents10.postedA = []) ∧ (scheduleEvents10.cpChecked pk = none)) ∧
    ((scheduleEvents13.taskQ 0 5 = some qB) ∧ (qB.entries[0]? = some eB) ∧ (eB.blocked = true) ∧
      (eB.doomed = false) ∧ (scheduleEvents13.launchBlocked eB.words = false)) ∧
    ((scheduleEvents14.taskQ 0 5 = some qB) ∧ (qB.entries[0]? = some eB) ∧ (eB.blocked = true) ∧
      (eB.released = false) ∧ (launchCtr (wordAt eB.words 2) = some (0, 3)) ∧ ((scheduleEvents14.dc 0 3).poison = true)) ∧
    ((scheduleEvents15.taskQ 0 5 = some qO) ∧ (scheduleEvents15.isStage 0 5 qO = true) ∧ (topReady qO.entries = some eO) ∧
      (scheduleEvents15.openReport 0 qO = some { tid := 2 : Report }) ∧ (eO.poisoned = false)) ∧
    ((scheduleEvents1.taskAt 0 1 = some (lm 5)) ∧ (scheduleEvents1.taskQ (lm 5).part (launchQh (lm 5).payload) = none)) ∧
    (((lw 5).length = 8) ∧ (64 % 64 = 0) ∧ (64 + 64 ≤ 0x1000) ∧ ((scheduleEvents1.getDie (0 % 2)).cpFifo.length < 256)) ∧
    ((cpFull.postedA = []) ∧ (cpFull.retraining = false) ∧ (256 ≤ (cpFull.getDie (0 % 2)).cpFifo.length)) ∧
    ((1 % 2 = 1) ∧ (bridgeDown.retraining = true) ∧ (bridgeDown.postedA = [])) ∧
    ((scheduleEvents2.taskAt 0 1 = some (lm 5)) ∧ (scheduleEvents2.taskQ (lm 5).part (launchQh (lm 5).payload) = some qF) ∧
      (qF.disc ≠ 1)) ∧
    ((scheduleEvents3.taskAt 0 1 = some (lm 5)) ∧ (scheduleEvents3.taskQ (lm 5).part (launchQh (lm 5).payload) = some qR) ∧
      (qR.disc = 1) ∧ (qR.entries.length < qR.depth) ∧ (scheduleEvents3.regionValid (lm 5).part qR.rcb = true) ∧
      (field (scheduleEvents3.rcbWord (lm 5).part qR.rcb 12) 0 16 < scheduleEvents3.effBudget (lm 5).part qR.rcb)) ∧
    ((scheduleEvents4.taskAt 0 1 = some (lm 5)) ∧
      (scheduleEvents4.taskQ (lm 5).part (launchQh (lm 5).payload) = some (full qR)) ∧ ((full qR).disc = 1) ∧
      ((full qR).depth ≤ (full qR).entries.length)) ∧
    ((scheduleEvents5.taskAt 0 0 = some (emm 5)) ∧ (scheduleEvents5.taskQ (emm 5).part (emm 5).tag = none)) ∧
    ((scheduleEvents6.taskAt 0 0 = some (emm 5)) ∧ (scheduleEvents6.taskQ (emm 5).part (emm 5).tag = some qF) ∧ (qF.disc ≠ 1) ∧
      (qF.entries.length < qF.depth)) ∧
    ((scheduleEvents7.taskAt 0 0 = some (emm 5)) ∧ (scheduleEvents7.taskQ (emm 5).part (emm 5).tag = some (full qF)) ∧
      ((full qF).disc ≠ 1) ∧ ((full qF).depth ≤ (full qF).entries.length)) ∧
    ((scheduleEvents8.taskAt 0 0 = some (emm 5)) ∧ (scheduleEvents8.taskQ (emm 5).part (emm 5).tag = some qR) ∧ (qR.disc = 1)) ∧
    ((scheduleEvents16.stageOf (scheduleEvents16.partOf (Agent.thr 0 0)) (field (scheduleEvents16.lcidOf 0) 0 7) = some (5, qE)) ∧
      (scheduleEvents16.taskQ (scheduleEvents16.partOf (Agent.thr 0 0)) 5 = some qE) ∧ (0 < 6) ∧
      (scheduleEvents16.coreServes 0 = true) ∧ (scheduleEvents16.niHeld 0 = false) ∧
      ((scheduleEvents16.getCore 0).stageNext = none) ∧
      (scheduleEvents16.entryReady 0 (scheduleEvents16.stageHandler (scheduleEvents16.partOf (Agent.thr 0 0)) qE) = true) ∧
      ((hMask (scheduleEvents16.handler0 0 (scheduleEvents16.stageHandler (scheduleEvents16.partOf (Agent.thr 0 0))
        qE))).testBit 0 = true) ∧
      (scheduleEvents16.threadFree 0 0 (scheduleEvents16.stageHandler (scheduleEvents16.partOf (Agent.thr 0 0)) qE) = true) ∧
      ((qE.reports.any fun r => decide (r.core = 0) && decide (r.tid = 0)) = false)) ∧
    ((scheduleEvents18.portHead 0 0 = some (ev 1)) ∧ (scheduleEvents18.portTurn 0 0 = true) ∧ (State.evType (ev 1) = 1) ∧ (scheduleEvents18.portRuns 0 0 = none)) ∧
    ((scheduleEvents19.portHead 0 0 = some (ev 1)) ∧ (scheduleEvents19.portTurn 0 0 = true) ∧ (State.evType (ev 1) = 1) ∧ (scheduleEvents19.portRuns 0 0 = some 0) ∧
      (scheduleEvents19.routeOf 0 0 (ev 1) = none)) ∧
    ((scheduleEvents20.portHead 0 0 = some (ev 1)) ∧ (scheduleEvents20.portTurn 0 0 = true) ∧ (State.evType (ev 1) = 1) ∧ (scheduleEvents20.portRuns 0 0 = some 0) ∧
      (scheduleEvents20.routeOf 0 0 (ev 1) = some (ofN rt)) ∧ (bitAt (ofN rt) 62 = false)) ∧
    ((scheduleEvents22.portHead 0 0 = some (ev 0)) ∧ (scheduleEvents22.portTurn 0 0 = true) ∧ (State.evType (ev 0) = 0)) ∧
    ((scheduleEvents23.portHead 0 0 = some (ev 3)) ∧ (scheduleEvents23.portTurn 0 0 = true) ∧ (2 < State.evType (ev 3))) ∧
    ((scheduleEvents24.portHead 0 0 = some (ev 2)) ∧ (scheduleEvents24.portTurn 0 0 = true) ∧ (State.evType (ev 2) = 2) ∧ (scheduleEvents24.portRuns 0 0 = some 0) ∧
      (scheduleEvents24.routeOf 0 0 (ev 2) = some (ofN rs)) ∧ (bitAt (ofN rs) 62 = true) ∧
      (State.memberOf (scheduleEvents24.getSlate 0 (field (ofN rs) 54 8)) (State.evSrc (ev 2)) = some 3)) ∧
    (((scheduleEvents27.getSlate 0 0).state = 1) ∧ ((scheduleEvents27.getSlate 0 0).pend ≠ 0) ∧
      (BitVec.toNat (scheduleEvents27.getSlate 0 0).tClose + 100 * (scheduleEvents27.getSlate 0 0).grace ≤ BitVec.toNat
        scheduleEvents27.timebase)) ∧
    ((bitAt (scheduleEvents28.redTree 0 0).dw0 63 = true) ∧ ((scheduleEvents28.redTree 0 0).waiting = []) ∧
      (List.filterMap ((scheduleEvents28.redTree 0 0).input 1) (scheduleEvents28.expectedPorts 0 (scheduleEvents28.redTree 0 0)
        1) ≠ []) ∧
      ((List.filterMap ((scheduleEvents28.redTree 0 0).input 1) (scheduleEvents28.expectedPorts 0 (scheduleEvents28.redTree 0 0)
        1)).length = (scheduleEvents28.expectedPorts 0 (scheduleEvents28.redTree 0 0) 1).length) ∧
      (1 ≠ scheduleEvents28.routerOf (scheduleEvents28.redTree 0 0).root) ∧
      (((scheduleEvents28.redTree 0 0).inputs.any fun e => decide (e.1 = 8 * nextRouter (scheduleEvents28.routerOf
        (scheduleEvents28.redTree 0 0).root) 1 + portFrom (nextRouter (scheduleEvents28.routerOf (scheduleEvents28.redTree 0
        0).root) 1) 1)) = false)) ∧
    ((scheduleEvents29.redTree 0 0).result = some ((5 : Word), (1 : BitVec 5), true)) ∧
    ((bitAt (scheduleEvents30.redTree 0 0).dw0 63 = true) ∧ ((scheduleEvents30.redTree 0 0).waiting = []) ∧
      (List.filterMap ((scheduleEvents30.redTree 0 0).input 1) (scheduleEvents30.expectedPorts 0 (scheduleEvents30.redTree 0 0)
        1) ≠ []) ∧
      ((List.filterMap ((scheduleEvents30.redTree 0 0).input 1) (scheduleEvents30.expectedPorts 0 (scheduleEvents30.redTree 0 0)
        1)).length = (scheduleEvents30.expectedPorts 0 (scheduleEvents30.redTree 0 0) 1).length) ∧
      (1 = scheduleEvents30.routerOf (scheduleEvents30.redTree 0 0).root) ∧ ((scheduleEvents30.redTree 0 0).result = none)) ∧
    ((0 < 8) ∧ (∀ p' < 8, p' ≠ 0 → (gS.getPart p').queues = []) ∧
      (gS.gafStages (0 % 2) 0 = [(5, qR), (6, q6)] ∨ gS.gafStages (0 % 2) 0 = [(6, q6), (5, qR)]) ∧
      (gS.gafCrossed 0 (5, qR).2 = false) ∧ (gS.gafCrossed 0 (6, q6).2 = false) ∧
      ((gS.recipients (0 % 2) 0 (gS.gafStages (0 % 2) 0) (fun q => (gS.stageCores 0 q).length) fun q => gS.gafCounts 0 q 48 8) =
        [(6, q6)]) ∧
      ((gS.donor (0 % 2) 0 (gS.gafStages (0 % 2) 0) [] (6, q6).1 fun q => decide (gS.gafCounts 0 q 56 8 < (gS.stageCores 0
        q).length) && (gS.stageCores 0 q).any (gS.movable 0 q)) = some (5, qR)) ∧
      (State.bestBy (fun x y => decide ((match gS.physOf x with | some c => gS.launches qR.rcb c | none => 0) < match gS.physOf y with | some c => gS.launches qR.rcb c | none => 0) || decide ((match gS.physOf x with | some c => gS.launches qR.rcb c | none => 0) = match gS.physOf y with | some c => gS.launches qR.rcb c | none => 0) && decide (y < x)) (List.filter (gS.movable 0 (5, qR).2) (gS.stageCores 0 (5, qR).2)) = some 1) ∧
      (gS.physOf 1 = some 1)) ∧
    ((scheduleEvents33.portHead 0 0 = some (ev 1)) ∧ (scheduleEvents33.portTurn 0 0 = true) ∧ (State.evType (ev 1) = 1) ∧ (scheduleEvents33.portRuns 0 0 = some 0) ∧
      (scheduleEvents33.routeOf 0 0 (ev 1) = some (ofN rs)) ∧ (bitAt (ofN rs) 62 = true) ∧
      ((scheduleEvents33.getSlate 0 (field (ofN rs) 54 8)).state = 0) ∧
      (State.memberOf (scheduleEvents33.getSlate 0 (field (ofN rs) 54 8)) (State.evSrc (ev 1)) = some 3) ∧
      (BitVec.toNat (extendTs scheduleEvents33.timebase (field (ev 1).w0 0 48)) < BitVec.toNat (scheduleEvents33.getSlate 0
        (field (ofN rs) 54 8)).tClose)) := by
  (repeat' apply And.intro) <;> decide +kernel

theorem witness_TableEvents :
    (((tableEvents1.getPart (tableEvents1.partOf (Agent.thr 0 7))).find (BitVec.toNat (2099200 : BitVec 64)) 1 = some (0, rng0)) ∧
      (rng0.poisoned = false) ∧
      ((tableEvents1.getPart (tableEvents1.partOf (Agent.thr 0 7))).walkBad (BitVec.toNat (2099200 : BitVec 64)) = false)) ∧
    ((tableEvents3.waiting (Agent.ofKey 2) = some { kind := WaitKind.rnginv 2097152 2101248 false, rd := (3 : BitVec 5) : Wait }) ∧
      ((tableEvents3.endSuspended (tableEvents3.partOf (Agent.ofKey 2)) 2097152 2101248 false).invDone (tableEvents3.partOf
        (Agent.ofKey 2)) 2097152 2101248 false = true)) ∧
    (tableEvents5.waiting (Agent.ofKey 2) = some { kind := WaitKind.lcmrem, rd := (3 : BitVec 5) : Wait }) ∧
    ((tableEvents6.moving 0 = some (cmpn, rng0)) ∧ (cmpn.prog < rng0.size) ∧ (rng0.key = 0) ∧
      (placeOf (cmpn.newBase + cmpn.prog) = Place.hbm 0)) ∧
    ((State.reset.postedB = []) ∧ (State.reset.retraining = false)) ∧
    ((tableEvents7.moving 0 = some (({ cmpn with prog := 4096 } : Compaction), rng0)) ∧
      (rng0.size ≤ (({ cmpn with prog := 4096 } : Compaction)).prog) ∧
      ((({ cmpn with prog := 4096 } : Compaction)).switched = false)) ∧
    ((tableEvents8.moving 0 = some (({ cmpn with prog := 4096, switched := true } : Compaction), rng0)) ∧
      ((({ cmpn with prog := 4096, switched := true } : Compaction)).switched = true) ∧
      ((tableEvents8.endSuspended (({ cmpn with prog := 4096, switched := true } : Compaction)).part rng0.vbase (rng0.vbase +
        rng0.size) false).invDone (({ cmpn with prog := 4096, switched := true } : Compaction)).part rng0.vbase (rng0.vbase +
        rng0.size) false = true)) := by
  (repeat' apply And.intro) <;> decide +kernel

theorem witness_DeviceEvents :
    ((2 < 128) ∧ (BitVec.toNat (6 : BitVec 64) % 2 = 0) ∧ ((ow.getPart (ow.partOf (Agent.thr 2 7))).dbg = false)) ∧
    ((0 < 3) ∧ (0 = 0 → ow.recovery = false ∧ ow.postedA = [] ∧ ow.retraining = false) ∧ (bitAt ow.owner 63 = true)) ∧
    ((0 < 3) ∧ (0 = 0 → ow.recovery = false ∧ ow.postedA = [] ∧ ow.retraining = false) ∧ (ow.isOwner 0 = true)) ∧
    ((ow.isOwner 0 = true) ∧ (ow.recovery = false) ∧ (ow.postedA = []) ∧ (ow.retraining = false) ∧ (ow.someRunning = false)) ∧
    ((0 < 9) ∧ (0 = 0 ∨ field (6 : BitVec 64) 0 5 < 8) ∧ (0 = ow.partOf (Agent.thr 2 7) + 1 ∨ 0 = 0)) ∧
    ((2 < 128) ∧
      (Writer.master 0 = Writer.master 0 ∧ ow.isOwner 0 = true ∧ ow.recovery = false ∧ ow.postedA = [] ∧ ow.retraining = false ∨ ∃ c, Writer.master 0 = Writer.t7 c ∧
        ow.partOf (Agent.thr c 7) = ow.partOf (Agent.thr 2 7)) ∧
      ((ow.getCore 2).scan = none) ∧ (bitAt (ow.getCore 2).ckstat 16 = true ∨ ow.scanReady 2 = true)) ∧
    ((1 < 16) ∧
      (Writer.master 0 = Writer.master 0 ∧ ow.isOwner 0 = true ∧ ow.recovery = false ∧ ow.postedA = [] ∧ ow.retraining = false ∨ ∃ c, Writer.master 0 = Writer.t7 c ∧
        ow.partOf (Agent.thr c 7) = (ow.getSet 1).part)) ∧
    ((bitAt (ow.redTree (0 % 2) (0 % 64)).dw0 63 = false) ∧
      (Writer.master 0 = Writer.master 0 ∧ ow.isOwner 0 = true ∧ ow.recovery = false ∧ ow.postedA = [] ∧ ow.retraining = false ∨ ∃ c, Writer.master 0 = Writer.t7 c ∧
        ow.partOf (Agent.thr c 7) = field (6 : BitVec 64) 60 3) ∧
      (field (6 : BitVec 64) 56 4 < 11) ∧ (field (6 : BitVec 64) 49 7 / 64 = 0 % 2) ∧
      (ow.partOfLogical (field (6 : BitVec 64) 49 7) = field (6 : BitVec 64) 60 3) ∧
      (ow.maskInside (0 % 2) (ow.redTree (0 % 2) (0 % 64)).members (field (6 : BitVec 64) 60 3) = true)) ∧
    ((2 < 128) ∧ (ow.postedA = []) ∧ (ow.retraining = false) ∧ (ow.isOwner 0 = false ∨ ow.coreUnlocked 2 = false ∨ 1048576 < 256 + [(1 : BitVec 8), (2 : BitVec 8)].length)) ∧
    ((0 < 8) ∧ (ow.isOwner 0 = true) ∧ ((ow.getPart 0).state = PState.unlocked) ∧ (2 < 128) ∧
      ((ow.getCore 2).assigned = false) ∧ (ow.actsFree 2 = true)) ∧
    ((0 < 8) ∧ (ow.isOwner 0 = true) ∧ ((ow.getPart 0).state = PState.unlocked) ∧ (1 < 16) ∧ ((ow.getSet 1).assigned = false)) ∧
    ((0 < 8) ∧ (ow.isOwner 0 = true) ∧ ((ow.getPart 0).state = PState.unlocked) ∧ (1 ≤ 3) ∧ (3 ≤ 63) ∧ (ow.keyGranted 3 = false)) ∧
    ((0 < 8) ∧ (ow.isOwner 0 = true) ∧ ((ow.getPart 0).state = PState.unlocked) ∧ (3 < 64) ∧
      (Tbl.get 0 (ow.getDie (0 % 2)).grantDc 3 = 0)) ∧
    ((0 < 8) ∧ ((ow.getPart 0).state ≠ PState.running)) ∧
    ((1 < 3) ∧ (1 = 0 → ow.recovery = false ∧ ow.postedA = [] ∧ ow.retraining = false) ∧ (ow.isOwner 1 = false)) ∧
    ((ow1.isOwner 0 = false) ∧ (ow1.postedA = []) ∧ (ow1.retraining = false)) ∧
    ((2 < 3) ∧ (2 = 0 → offd.recovery = false ∧ offd.postedA = [] ∧ offd.retraining = false) ∧ (bitAt offd.owner 63 = true) ∧ (bitAt offd.owner 62 = true) ∧
      (field offd.owner 58 2 = 2) ∧ (BitVec.toNat (offd.timebase - offd.offerAt) ≤ 100000000)) ∧
    ((bitAt offL.owner 62 = true) ∧ (100000000 < BitVec.toNat (offL.timebase - offL.offerAt))) ∧
    ((0 < 3) ∧ (0 = 0 → State.reset.recovery = false ∧ State.reset.postedA = [] ∧ State.reset.retraining = false) ∧ (bitAt State.reset.owner 63 = false)) ∧
    ((deviceEvents1.isOwner 0 = true) ∧ (deviceEvents1.recovery = false) ∧ (deviceEvents1.postedA = []) ∧ (deviceEvents1.retraining = false) ∧ (deviceEvents1.someRunning = true)) ∧
    ((0 < 8) ∧ ((deviceEvents1.getPart 0).state ≠ PState.unlocked)) ∧
    ((0 < 8) ∧ ((deviceEvents1.getPart 0).state = PState.running)) ∧
    ((2 < 128) ∧ (BitVec.toNat (6 : BitVec 64) % 2 = 0) ∧ ((dbgS.getCore 2).assigned = true) ∧
      ((dbgS.getPart (dbgS.partOf (Agent.thr 2 7))).dbg = true) ∧ (BitVec.toNat (6 : BitVec 64) < 1048576)) ∧
    ((0 < 8) ∧ ((lk.getPart 0).state = PState.locked)) ∧
    (((rst.getCore 2).resetting = true) ∧ (rst.t6Done 2 = true) ∧ ((rst.getCore 2).stop = none)) ∧
    ((rst.getSet 1).resetting = true) ∧
    ((wd_u20.portOwner (0 % 2) (field (ofN (6 + 2 ^ 63 + 2 * 2 ^ 36)) 51 3) = some 0) ∧
      (Writer.t7 2 = Writer.master 0 ∧ wd_u20.isOwner 0 = true ∧ wd_u20.recovery = false ∧ wd_u20.postedA = [] ∧ wd_u20.retraining = false ∨ ∃ c, Writer.t7 2 = Writer.t7 c ∧
        wd_u20.partOf (Agent.thr c 7) = 0) ∧
      (bitAt (Tbl.get (0 : BitVec 64) (wd_u20.getDie (0 % 2)).routes (3 % 256)) 63 = false) ∧
      (bitAt (ofN (6 + 2 ^ 63 + 2 * 2 ^ 36)) 62 = false) ∧
      (wd_u20.partOfLogical (field (ofN (6 + 2 ^ 63 + 2 * 2 ^ 36)) 36 7) = 0)) ∧
    ((2 < 128) ∧ (wd_u20.postedA = []) ∧ (wd_u20.retraining = false) ∧ (wd_u20.isOwner 0 = true) ∧ (wd_u20.coreUnlocked 2 = true) ∧
      (256 + [(1 : BitVec 8), (2 : BitVec 8)].length ≤ 1048576)) ∧
    ((wd_u20.isOwner 0 = true) ∧ (wd_u20.recovery = false) ∧ (wd_u20.postedA = []) ∧ (wd_u20.retraining = false) ∧ (2 < 64) ∧ (wd_u20.coreUnlocked 2 = true)) ∧
    ((0 < 8) ∧ (wd_u20.isOwner 0 = true) ∧ ((wd_u20.getPart 0).state = PState.unlocked) ∧ (2 < 128) ∧
      ((wd_u20.getCore 2).assigned = true) ∧ (wd_u20.partOf (Agent.thr 2 7) = 0) ∧ (wd_u20.actsFree 2 = true)) ∧
    ((0 < 8) ∧ (wd_u20.isOwner 0 = true) ∧ ((wd_u20.getPart 0).state = PState.unlocked) ∧ (5 ∈ (wd_u20.getPart 0).keys)) := by
  (repeat' apply And.intro) <;> (first | decide +kernel | exact Or.inl (by decide +kernel) | exact Or.inr ⟨2, by decide +kernel⟩)

theorem witness_HostEvents :
    ((3 < 16) ∧ (hs.isOwner 0 = true ∨ hs.recovery = true)) ∧
    (∀ n < 16, field (Tbl.get (0 : BitVec 64) hs.bootEnt n) 56 8 = 0) ∧
    (bitAt (1 : BitVec 16) 0 = true) ∧
    ((0 % 2 = 1 → hs.retraining = false) ∧ (hs.postedA = []) ∧ (hs.portRuns (0 % 2) 4 = some (0 % 8)) ∧ (32 % 16 = 0) ∧ (d16.length = 16) ∧
      (32 + 16 ≤ 4096) ∧ ((Tbl.get [] (hs.getDie (0 % 2)).fifos 4).length < 64)) ∧
    ((0 < 4) ∧ (hs.portRuns 0 0 = some 0) ∧ (d16.length = 16) ∧ ((Tbl.get [] (hs.getDie 0).fifos 0).length < 64)) ∧
    ((hostUp.postedA = []) ∧ (hostUp.retraining = false) ∧ ((hostUp.getPart (0 % 8)).state = PState.error ∨ hostUp.inbound (0 % 8) false kindR (BitVec.toNat (8 : BitVec 64))
      3 = none)) ∧
    ((hostUp.postedA = []) ∧ (hostUp.retraining = false) ∧ ((hostUp.getPart (0 % 8)).state ≠ PState.error) ∧ (BitVec.toNat (8 : BitVec 64) + [(1 : BitVec 8)].length ≤ 2 ^ 40) ∧
      (hostUp.inbound (0 % 8) false kindW (BitVec.toNat (8 : BitVec 64)) [(1 : BitVec 8)].length = none)) ∧
    ((0 < 4) ∧ (hostEvents2.portRuns 0 0 = none)) ∧
    (hostEvents2.retraining = true) ∧
    ((0 < 4) ∧ (fr_u22.portRuns 0 0 = some 0) ∧ (bitAt (fr_u22.frameWord 0 0 1) 63 = true) ∧
      (∀ x ∈ State.linePieces (alignDown 128 (BitVec.toNat (fr_u22.frameWord 0 0 0)) + field (fr_u22.frameWord 0 0 3) 32 32 % 2
        ^ field (fr_u22.frameWord 0 0 1) 56 4 * alignDown 128 (field (fr_u22.frameWord 0 0 1) 32 24)) (alignDown 128 (field
        (fr_u22.frameWord 0 0 1) 32 24)), (fr_u22.frameAt 0 x.1 x.2).isSome = true) ∧
      (field (fr_u22.frameWord 0 0 2) 62 2 ≠ 3)) ∧
    ((0 < 4) ∧ (fr2_u22.portRuns 0 0 = some 0) ∧ ((fr2_u22.frameOf 0 0).active = true) ∧
      ((fr2_u22.frameOf 0 0).waiting = []) ∧ (fr2_u22.frameBlocked 0 0 0 d16 = false)) ∧
    ((frOwned.portRuns 0 0 = some 0) ∧ ((frOwned.frameOf 0 0).active = true) ∧ ((frOwned.frameOf 0 0).waiting = []) ∧
      (frOwned.frameBlocked 0 0 0 d16 = true)) ∧
    ((hostEventsx1.postedA = []) ∧ (hostEventsx1.retraining = false) ∧ ((hostEventsx1.getPart (0 % 8)).state ≠ PState.error) ∧ (placeOf accR.loc = Place.hbm 0) ∧ (accR.key = 0) ∧
      (BitVec.toNat (2097160 : BitVec 64) + 3 ≤ 2 ^ 40) ∧
      (hostEventsx1.inbound (0 % 8) false kindR (BitVec.toNat (2097160 : BitVec 64)) 3 = some accR) ∧
      (hostEventsx1.engineOwns accR.loc 3 = false) ∧ (hostEventsx1.poisoned accR.loc 3 = false)) ∧
    ((hostEventsx1.postedA = []) ∧ (hostEventsx1.retraining = false) ∧ ((hostEventsx1.getPart (0 % 8)).state ≠ PState.error) ∧ (placeOf accR.loc = Place.hbm 0) ∧ (accR.key = 0) ∧
      (BitVec.toNat (2097160 : BitVec 64) + d16.length ≤ 2 ^ 40) ∧
      (hostEventsx1.inbound (0 % 8) false kindW (BitVec.toNat (2097160 : BitVec 64)) d16.length = some accR) ∧
      (hostEventsx1.engineOwns accR.loc d16.length = false)) ∧
    ((0 < 4) ∧ (hs.portRuns 0 0 = some 0) ∧ (bitAt (hs.frameWord 0 0 1) 63 = false)) := by
  (repeat' apply And.intro) <;> decide +kernel

/-- FloatResults: each form's condition, with no flag enabled; and an enabled flag, for a thread with a UTVEC and for one that T7 serves. -/
theorem witness_FloatResults_traps :
    let s := { floatResults1 with thr := [(0, { floatResults1.me with fcsr := 1 <<< 16 })] }
    let u := { floatResults1 with thr := [(0, { floatResults1.me with fcsr := 1 <<< 16, utvec := 0x500 })] }
    (s.cur.isThr = true ∧ s.me.slotOf false 1 = none ∧ s.me.slotOf false 2 = none ∧ s.fpTraps Flag.nv = true ∧ s.fpTraps 0 = false ∧
      Servable s) ∧ u.fpTraps Flag.nv = true ∧ u.me.utvec ≠ 0 := by
  decide +kernel

/-- The vector statements that raise flags (VectorIntegerResults to VectorSpecialFunctions): an enabled flag. -/
theorem witness_VectorFloatLanes_traps :
    let s := { vS with thr := [(0, { vS.me with fcsr := 31 <<< 16 })] }
    PlainV s [3, 2, 1] ∧ s.fpTraps Flag.nx = true ∧ Servable s := by
  decide +kernel

/-- FloatRules: comparisons of numbers, infinities and NaNs, and FMIN and FMAX of each kind of pair, in binary64. -/
theorem witness_FloatRules_pairs :
    let d := fp64.decode
    let one := 0x3FF0000000000000
    let nan := 0x7FF8000000000000
    let minus := 0x8000000000000000
    (d nan).isNan = true ∧ (d one).isNan = false ∧ d 0x7FF0000000000001 = .nan true ∧
    (fcmp 1 (d minus) (d one)).1 = true ∧ (fcmp 0 (d minus) (d 0)).1 = true ∧ (d minus).neg = true ∧ (d 0).neg = false := by
  decide +kernel

/-- IssuerChecks: a resident activation, and one member of every list of forms. -/
theorem witness_IssuerChecks_families :
    let s := { wA with thr := [(0, { wA.me with resident := true })] }
    (Servable s ∧ s.cur.isAct = true ∧ s.me.resident = true) ∧ wMS.cur.isSeq = true ∧
    Instr.fcvtD 1 2 ∈ [Instr.fcvtS 1 2 0, .fcvtD 1 2] ∧ Servable wA := by
  decide +kernel

/-- OperandExtension: an OXST that goes into the journal. -/
theorem witness_OperandExtension_journal :
    let s := withRange (wBy (.thr 0 0) { wTh [(4, 0x200010)] with ox := [(1, 11)] })
    (s.x 4).toNat % 8 = 0 ∧ (match s.storeWords (s.x 4) ((List.range ((0 : BitVec 3).toNat + 1)).map fun i => s.ox (1 + i)) with
      | .ok rs => decide (AllJournaled s rs ∧ rs ≠ [])
      | .error _ => false) = true := by
  decide +kernel

/-- What the stores and atomics at issue ask of the bridge between the dies, and the cache operations of the scope of the device. -/
theorem witness_bridge_up :
    (aN.acrossBridge aN.cur.dieNo (atAcc aN 16 8).loc = false) ∧
    (∀ i, i ≤ (1 : BitVec 3).toNat → o1.acrossBridge o1.cur.dieNo (o1.cur.localLoc (o1.x 4).toNat + 8 * i) = false) ∧
    ((o1.retraining && decide ((4 : BitVec 3).toNat = 4)) = false) ∧
    (vT.acrossBridge vT.cur.dieNo (vT.cur.localLoc (vT.x 4).toNat) = false) ∧
    (tasksAndFutures2.acrossBridge tasksAndFutures2.cur.dieNo (stAcc (tk tT []) 4096 64).loc = false ∧
      tasksAndFutures2.pushesPending tasksAndFutures2.cur = false ∧ tasksAndFutures4.pushesPending tasksAndFutures4.cur = false) ∧
    (countersBarriersSlates14.acrossBridge countersBarriersSlates14.cur.dieNo (atAcc (bmp []) 4096 32).loc = false ∧
      ∀ o ∈ [0, 24], placeOf ((atAcc (bmp []) 4096 32).loc + o) = .ulm) := by
  decide +kernel

/-- SystemInstructions: WAIT of T7 for a time that has come, with an item in its queue, and with neither; x0 for the time. -/
theorem witness_SystemInstructions_service :
    let s := { wA7 with timebase := 7 }
    let q := { wA7 with core := [(0, { t7q := [it0] })] }
    (s.cur = .thr 0 7 ∧ (1 : BitVec 5) ≠ 0 ∧ (s.x 1).toNat ≤ s.timebase.toNat) ∧ (q.cur = .thr 0 7 ∧ (q.getCore 0).t7q ≠ []) ∧
    (wA7.cur = .thr 0 7 ∧ (wA7.getCore 0).t7q = [] ∧ wA7.timebase.toNat < (wA7.x 1).toNat) := by
  decide +kernel

/-- Migration with NR clear, to the issuing core and to another of its partition. -/
theorem witness_Migration_commits :
    let s := { mg2 with thr := [(0, { mg2.me with actst := 0, journal := [.dcdec 0 0 1] })] }
    let s1 := s.partialCommit s.cur 3
    (s.cur = .thr 0 0 ∧ s.me.resident = false ∧ s.me.nr = false ∧ s.me.wait = none ∧ s.commitBlocked s.cur = false ∧
      s1.sendPending s.cur = false ∧ s1.pushesPending s.cur = false ∧ s.me.hosted = none) ∧
    (s.physOf (field (s.x 1) 0 7) = some 0 ∧ s.partOf (.thr 0 0) = s.myPart) ∧
    (s.physOf (field (s.x 2) 0 7) = some 1 ∧ s.partOf (.thr 1 0) = s.myPart) := by
  decide +kernel

/-- VectorStores: one lane of VST, VSTS and VSCAT that goes into the journal. -/
theorem witness_VectorStores_journal :
    let s := withRange (wBy (.thr 0 0) { wTh [(4, 0x200000), (5, 24)] with p := [(1, 1)] })
    let rs := fun (ls : List (Nat × Word × Acc)) => ls.map fun l =>
      ({ va := l.2.1, acc := l.2.2, bs := (leBytes 1 (laneAt (lanesOf 1 (s.me.getV 3)) l.1)).map some, cost := 16 } : StoreReq)
    let ok := fun (r : Res (List (Nat × Word × Acc))) => match r with
      | .ok ls => decide (AllJournaled s (rs ls) ∧ ls ≠ [])
      | .error _ => false
    PlainV s [3, 6] ∧ ok (s.laneChecks 1 true ((List.range 128).map fun i => s.x 4 + ofN (1 * i)) (s.me.getP 1) 128) = true ∧
    ok (s.laneChecks 1 true ((List.range 128).map fun i => s.x 4 + ofN i * s.x 5) (s.me.getP 1) 128) = true ∧
    ok (s.laneChecks 1 true ((lanesOf 1 (s.me.getV 6)).map fun o => s.x 4 + ofI (sxL 1 o)) (s.me.getP 1) 128) = true := by
  decide +kernel

/-- FloatLoadsStoresAndStreams: an FSTW and an FSTD that go into the journal. -/
theorem witness_FloatLoadsStoresAndStreams_journal :
    let s := withRange (wBy (.thr 0 0) { wTh [(4, 0x200000)] with f := [(1, 5)] })
    s.cur.isThr = true ∧ s.me.slotOf false 1 = none ∧ IntoJournal s (s.ea 4 8) 4 (stAcc s 0x200008 4) ∧
    IntoJournal s (s.ea 4 8) 8 (stAcc s 0x200008 8) := by
  decide +kernel

/-- RemoteOperations: at the end of a loop whose count the reply is to write, and elsewhere. -/
theorem witness_RemoteOperations_count :
    let s := { rN with thr := [(0, { rN.me with loopActive := true, loopLast := 0, loopReg := 4, loopStart := 0x20 })] }
    (Room s ∧ (s.x 1).toNat < 2 ^ 27 ∧ (s.x 1).toNat % 8 = 0 ∧ s.me.AtLoopEnd ∧ s.me.loopReg = 4) ∧
    ¬(rN.me.AtLoopEnd ∧ (rN.me.loopReg = 4 ∨ rN.me.awaits rN.me.loopReg = true)) := by
  decide +kernel

/-- QueueRegisters, Copies, Reels and the semaphores: no push of the agent is still to be written, and no bridge holds a cancellation. -/
theorem witness_nothing_pending :
    queueRegisters1.pushesPending queueRegisters1.cur = false ∧ queueRegisters2.pushesPending queueRegisters2.cur = false ∧
    c1.cancelHeld c1.cur (c1.x 1) = false ∧ reels2.pushesPending reels2.cur = false ∧
    sequencersAndSemaphores1.pushesPending sequencersAndSemaphores1.cur = false := by
  decide +kernel

/-- TasksAndFutures: TDEQ on an empty queue, with an X[b] that no memory answers to. -/
theorem witness_TasksAndFutures_empty :
    let s := tk { tT with actst := 4, x := [(1, 5), (2, 3)] } [] [(5, some { entries := [] })]
    (s.x 1).toNat < 4096 ∧ s.taskQ s.myPart (field (s.x 1) 0 12) = some {} ∧ Acts s ∧ ({} : TaskQ).head = none ∧ (s.x 2).toNat % 64 ≠ 0 := by
  decide +kernel

/-- CountersBarriersSlates: counters that come to 0 with a waiter, and the entries of the journal. -/
theorem witness_CountersBarriersSlates_counters :
    let w : Thread := { st := .wait, wait := some { kind := .dc 0 5 5 } }
    let s := cS (.thr 0 0) { cN with x := [(1, 5), (2, 2), (5, 1)] } (dieG [(5, { value := 2 })]) [(1, w)]
    (s.me.wait = none ∧ s.counterAt (s.x 1) = .ok (0, 5) ∧ Acts s ∧ s.pushesPending s.cur = false) ∧
    (field (s.x 6) 32 32 = 0 ∧ field (s.x 6) 0 32 = 0) ∧
    (field (s.x 2) 32 31 = 0 ∧ (s.dc 0 5).poison = false ∧ (s.x 2).getLsbD 63 = false ∧ field (s.x 2) 0 32 = (s.dc 0 5).value.toNat) ∧
    (field (s.x 5) 0 32 < (s.dc 0 5).value.toNat) ∧
    ((Agent.thr 0 1).key ≠ s.cur.key ∧ (s.thread (.thr 0 1)).wait = some { kind := .dc 0 5 5 } ∧ State.onDc 0 5 (.dc 0 5 5) = true) ∧
    (countersBarriersSlates5.me.wait = none ∧ countersBarriersSlates5.counterAt (countersBarriersSlates5.x 1) true = .ok (0, 5) ∧
      countersBarriersSlates5.holds countersBarriersSlates5.cur = true ∧ countersBarriersSlates5.me.jcnt + 80 ≤ 4096 ∧
      field (countersBarriersSlates5.x 2) 32 31 = 0) ∧
    (countersBarriersSlates5.barrierAt (countersBarriersSlates5.x 1) true = .ok (0, 5)) ∧
    (countersBarriersSlates4.pushesPending countersBarriersSlates4.cur = false) ∧
    (countersBarriersSlates1.pushesPending countersBarriersSlates1.cur = false ∧ field (countersBarriersSlates1.x 3) 32 31 = 0 ∧
      (countersBarriersSlates1.dc 0 5).poison = false ∧ (countersBarriersSlates1.x 3).getLsbD 63 = true) := by
  decide +kernel

/-- CountersBarriersSlates: BARARR as the last arrival with a waiter, as an earlier one, on a poisoned barrier and on one with N = 0; and
a BARINIT that a waiter keeps out. -/
theorem witness_CountersBarriersSlates_barriers :
    let w : Thread := { st := .wait, wait := some { kind := .bar 0 5 7 5 } }
    let s := fun (b : Barrier) => cS (.thr 0 0) cN (dieG [] [(5, b)]) [(1, w)]
    let ok := fun (b : Barrier) => (s b).me.wait = none ∧ (s b).barrierAt ((s b).x 1) = .ok (0, 5) ∧ Acts (s b) ∧
      (s b).pushesPending (s b).cur = false
    ok { n := 2, arrivals := 1, phase := 7 } ∧ (1 : BitVec 16) + 1 = 2 ∧ ok { n := 3, arrivals := 1 } ∧ ok { n := 3, poison := true } ∧ ok {} ∧
    (({} : Barrier).poison = false ∧ ({} : Barrier).n = 0) ∧
    ((s {}).someWaits (State.onBar 0 5) = true ∧ 1 ≤ ((s {}).x 2).toNat ∧ ((s {}).x 2).toNat ≤ 65535) ∧
    ((s {}).thread (.thr 0 1)).wait = some { kind := .bar 0 5 7 5 } ∧ State.onBar 0 5 (.bar 0 5 7 5) = true := by
  decide +kernel

/-- A machine with slate k at index 5 and thread 1 waiting on it, for the slate statements. -/
def slT (ox : List (Nat × Word)) (k : Slate) (t : Nat) : State :=
  { cS (.thr 0 0) { cN with ox := ox } (dieG [] [] [(5, k)])
      [(1, { st := .wait, wait := some { kind := .slate 0 5 2 5 } })] with timebase := ofN t }

def slNew : List (Nat × Word) := [(0, 100), (1, 200), (2, 3), (3, 0)]
def slClose : List (Nat × Word) := [(0, 100), (1, 200), (2, 3), (3, 1 <<< 35)]
def slOpened : Slate := { gen := 2, state := 1, tOpen := 1, tClose := 5, mask := 3 }
def slPassed : Slate := { marks := [(0, 300), (1, 300)] }
abbrev slOk (s : State) : Prop :=
  s.slateAt (s.x 1) = .ok (0, 5) ∧ Acts s ∧ s.checkSlopen = .ok () ∧ s.me.wait = none ∧ ∀ m, m < 8 → (s.getSet (8 * 0 + m)).bins = []

/-- CountersBarriersSlates: SLOPEN of a slate that is open, of one that its new window closes at once by its watermark or its time, of a
closed one, with CLOSE and without; SLWAIT on each state. -/
theorem witness_CountersBarriersSlates_slates :
    (slOk (slT slNew slOpened 10) ∧ bitAt ((slT slNew slOpened 10).ox 3) 35 = false) ∧
    (slOk (slT slNew {} 1000) ∧
      ({ tClose := 200, mask := 3 } : Slate).tClose.toNat + 100 * ({ tClose := 200, mask := 3 } : Slate).grace ≤ 1000) ∧
    (slOk (slT slNew slPassed 10) ∧ ({ slPassed with tClose := 200, mask := 3 } : Slate).pend = 0) ∧
    (slOk (slT slNew {} 10) ∧ ({ tClose := 200, mask := 3 } : Slate).pend ≠ 0) ∧
    (slOk (slT slClose slOpened 10) ∧ bitAt ((slT slClose slOpened 10).ox 3) 35 = true) ∧ (slOk (slT slClose {} 10)) ∧
    (Servable (slT slNew { slOpened with state := 2 } 10) ∧ (slT slNew { slOpened with state := 2 } 10).cur.isT6 = false ∧
      (slT slNew { slOpened with state := 2 } 10).slateAt ((slT slNew { slOpened with state := 2 } 10).x 1) = .ok (0, 5)) ∧
    (slOpened.gen = ((slT slNew slOpened 10).x 2).setWidth 16 ∧
      ¬(({} : Slate).gen = ((slT slNew {} 10).x 2).setWidth 16 ∧ ({} : Slate).state = 1)) ∧
    ((slT slNew slOpened 10).thread (.thr 0 1)).wait = some { kind := .slate 0 5 2 5 } ∧ State.onSlate 0 5 (.slate 0 5 2 5) = true := by
  refine ⟨⟨?_, ?_⟩, ⟨?_, ?_⟩, ⟨?_, ?_⟩, ⟨?_, ?_⟩, ⟨?_, ?_⟩, ?_, ?_, ?_, ?_, ?_⟩ <;> decide +kernel

/-- ContinuityTree: the state pool of the deposit stands in memory, and its states have a size. -/
theorem witness_ContinuityTree_pools :
    State.TreeRec.ssize (continuityTree6.tree continuityTree6.myPart cu.tree) ≠ 0 ∧
    (continuityTree6.statePool continuityTree6.myPart (continuityTree6.tree continuityTree6.myPart cu.tree)).all
      (fun x => decide (placeOf x.2.pbase ≠ .host)) = true := by
  decide +kernel

/-- MontageBins: a bin that no seal closed at this instant. -/
theorem witness_MontageBins_unsealed :
    (montageBins4.bin montageBins4.cur.setNo (montageBins4.x 3).toNat).lastSeal ≠ some montageBins4.timebase ∧
    (setEventsx2.bin 0 rx.bin).lastSeal ≠ some setEventsx2.timebase ∧ (setEvents5.bin 0 rx.bin).lastSeal ≠ some setEvents5.timebase := by
  decide +kernel

/-- MatrixQueues: malformed operands of each form, in MI and in MS. -/
theorem witness_MatrixQueues_malformed :
    let i := mx 1 { mxT with ox := [(1, 1 <<< 63)] } {}
    let bad := mx 0 { mxT with ox := [(0, 1 <<< 63)] } {}
    let tag := mx 0 { mxT with ox := [(2, 1)] } {}
    (i.cur.isSeqNo 1 = true ∧ (i.getSet i.cur.setNo).mxUce = false ∧ State.mxcOk (i.ox (1 : BitVec 5).toNat) = false) ∧
    (bad.cur.isSeqNo 0 = true ∧ State.wbOk (bad.ox 0) = false ∧ field (bad.ox 0) 26 38 ≠ 0) ∧
    (matrixQueues3.cur.isSeqNo 0 = true ∧ wbEs (matrixQueues3.ox 0) = false ∧ wbBs (matrixQueues3.ox 0) = false ∧
      State.wbOk (matrixQueues3.ox 0) = true ∧ wbN (matrixQueues3.ox 0) ≤ field (2 ^ 9 - 1 : Word) 0 9) ∧
    (tag.cur.isSeqNo 0 = true ∧ field (tag.ox 0) 26 38 = 0 ∧ field (tag.ox 0) 9 3 ≤ 5 ∧ field (tag.ox 0) 17 9 ≤ 256 ∧
      field (tag.ox 0) 0 9 ≤ 256 ∧ (tag.ox 2).toNat % 8 ≠ 0) := by
  decide +kernel

/-- MessageEvents: a grant that the engine lets go, and a thread that its loop's last instruction holds for a reply. -/
theorem witness_MessageEvents_replies :
    let th : Thread := { th2 with wait := some { kind := .reply, len := 4 } }
    let s := { messageEvents8 with thr := [(2, th)] }
    messageEvents2.sendHeld 3 = false ∧ State.replyHeld (messageEvents8.thread (.thr 0 2)) = false ∧ s.thread (.thr 0 2) = th ∧
    rep.ctxKind = 2 ∧ th.live = true ∧ th.gen.toNat = rep.ctxLow ∧ s.firstInBuffer 0 rep = true ∧ s.arrivalsHeld 0 = false ∧
    (match State.answered th rep with
      | some o => let u := ({ th with outst := th.outst.erase o } : Thread).setX o.rd (rep.word 0)
        decide (u.awaits u.loopReg = false)
      | none => false) = true ∧ th.landing = 0 := by
  decide +kernel

/-- ActivationEvents and ServiceEvents: no push of T6 is on its way, and the victim of a pre-emption has no trap due. -/
theorem witness_ActivationEvents_pushes :
    activationEvents6.pushesPending (.thr 0 6) = false ∧ activationEvents7.pushesPending (.thr 0 6) = false ∧
    activationEvents8.pushesPending (.thr 0 6) = false ∧ activationEvents9.pushesPending (.thr 0 6) = false ∧
    activationEvents10.pushesPending (.thr 0 6) = false ∧ serviceEvents2.trapReady (.thr 0 0) = false ∧
    activationEvents4.retraining = false := by
  decide +kernel

/-- SetEvents: rows of a bin that no seal closed at this instant. -/
theorem witness_SetEvents_unsealed :
    (∀ s ∈ [setEvents1, setEvents2, setEvents3, setEvents4, setEvents5, setEventsx1, setEventsx2],
      (s.bin 0 rx.bin).lastSeal ≠ some s.timebase) := by
  decide +kernel

/-- ScheduleEvents: nothing waits for the bridge, and a launch page write in recovery. -/
theorem witness_ScheduleEvents_lines :
    (∀ s ∈ [scheduleEvents9, scheduleEvents10, scheduleEventsx1], s.postedA = [] ∧ s.postedB = []) ∧
    (let s := { scheduleEvents1 with recovery := true }
     s.postedA = [] ∧ s.retraining = false ∧ s.recovery = true) := by
  decide +kernel

/-- DeviceEvents: two claims of one instant, an acceptance with a release of another master, and what the resets and routes ask. -/
theorem witness_DeviceEvents_together :
    (bitAt State.reset.owner 63 = false ∧ 1 ∈ [1, 2] ∧ ∀ j ∈ [1, 2], 1 ≤ j) ∧
    (0 < 3 ∧ 0 ≠ 2 ∧ offd.recovery = false ∧ offd.postedA = [] ∧ offd.retraining = false) ∧
    ((rst.getPart (rst.partOf (.thr 2 7))).stopping = false) ∧
    (bitAt (ofN (6 + 2 ^ 63 + 2 ^ 62 + 2 * 2 ^ 36)) 62 = true ∧
      wd_u20.slateInside (0 % 2) (wd_u20.getSlate (0 % 2) (field (ofN (6 + 2 ^ 63 + 2 ^ 62 + 2 * 2 ^ 36)) 54 8)) 0 = true) ∧
    (let s := { wd_u20 with die := [(0, { wd_u20.getDie 0 with
        slate := [(0, { mask := 1 })], routes := [(0, ofN (2 ^ 63 + 3 * 2 ^ 36))] })], core := [(3, { asid := 1, assigned := true })] }
     s.slateInside 0 (s.getSlate 0 0) 0 = false) ∧
    ((deviceEvents1.getPart 0).state ≠ .unlocked ∧ ∀ c ∈ deviceEvents1.coresOf 0, deviceEvents1.t6Done c = true) ∧
    (let s := { dbgS with thr := [(22, { st := .run })] }
     (s.getPart 0).state ≠ .unlocked ∧ 2 ∈ s.coresOf 0 ∧ s.t6Done 2 = false) ∧
    (ow.getPart (ow.partOf (.thr 2 7))).dbg = false := by
  decide +kernel

/-- A firmware that verifies against the fuses `bootFuse`, and one whose root is not its signature's. -/
def bootFw : Firmware := { root := lmsRoot [] 0 [] [] [] [] }
def bootFuse : BitVec 256 := BitVec.ofNat 256 ((sha256 (lmsKey [] bootFw.root)).foldl (fun n b => 256 * n + b.toNat) 0)

/-- HostEvents: an image that verifies, as the primary and as the secondary one, and one that does not. -/
theorem witness_HostEvents_boot :
    State.verified bootFuse bootFw = true ∧ State.verified bootFuse {} = false ∧
    ({ State.reset with fuses := bootFuse } : State).failedBoots < 2 ∧
    (∀ n, n < 16 → field (Tbl.get 0 State.reset.bootEnt n) 56 8 = 0) ∧ bitAt (1 : BitVec 16) 0 = true ∧
    3 ≤ ({ State.reset with failedBoots := 3 } : State).failedBoots ∧ bitAt (([1] : List (BitVec 16)).headD 0) 0 = true := by
  decide +kernel

/-- HostEvents: requests of a partition in ERROR, of one that owns nothing there, and of one that runs into a range of another. -/
theorem witness_HostEvents_requests :
    let e := { ow with part := [(0, { hp with state := .error })] }
    let f := { ow with part := [(0, { hp with ranges := [(0, some { vbase := 0x200000, size := 0x1000, perm := 7, pbase := 0x200000, owner := 3 })] })] }
    (∀ s ∈ [e, f, hostUp, hostEventsx1], s.postedA = [] ∧ s.postedB = [] ∧ s.retraining = false) ∧ (e.getPart 0).state = .error ∧
    (hostUp.inbound 0 false kindR 8 3 = none ∧ hostUp.inbound 0 false kindW 8 1 = none ∧ hostUp.foreign 0 8 = false ∧
      (hostUp.getPart 0).state ≠ .error) ∧
    (f.inbound 0 false kindR 0x200008 3 = none ∧ f.inbound 0 false kindW 0x200008 1 = none ∧ f.foreign 0 0x200008 = true ∧
      (f.getPart 0).state = .running) := by
  decide +kernel

/-- HostEvents: the event page of a VF whose partition does not run, and of one that does not hold the port; a line of a frame that
fails its check. -/
theorem witness_HostEvents_ports :
    let h := { hs with part := [] }
    let o := { hs with part := [(0, hp), (1, run0)] }
    let fr := { fr2_u22 with part := hs.part }
    (h.postedA = [] ∧ h.portOwner 0 4 = some (0 % 8) ∧ h.portRuns 0 4 = none) ∧
    (o.portOwner 0 4 ≠ some (1 % 8) ∧ (o.getPart (1 % 8)).state = .running) ∧
    (fr.portRuns 0 0 = some 0 ∧ (fr.frameOf 0 0).active = true ∧ (fr.frameOf 0 0).waiting = [] ∧ fr.frameBlocked 0 0 0 d16 = false ∧
      ∃ x ∈ fr.framePieces 0 0 d16.length, fr.frameAt 0 x.1 x.2 = none) ∧
    (∀ x ∈ fr2_u22.framePieces 0 0 d16.length, (fr2_u22.frameAt 0 x.1 x.2).isSome = true) := by
  decide +kernel

/-- FIPS 180-4, the digest of "abc". -/
theorem test_sha256_abc : (sha256 [0x61, 0x62, 0x63]).take 4 = [0xBA, 0x78, 0x16, 0xBF] ∧
    (sha256 [0x61, 0x62, 0x63]).drop 28 = [0xF2, 0x00, 0x15, 0xAD] := by
  decide +kernel

end Sys2Proof.Tests
end

/-! SUPPORT. The events of the network (O45): first what a unit's write of bytes, a step of the network and a release leave as it was, then
what each event does, and last the obligation. -/

namespace Sys2Proof.Machine

/-! ### Tables and units after a change -/

/-- An entry of a table whose values `g` changes only in what `π` does not show. -/
theorem Tbl.get_map_proj {α β : Type} (d : α) (π : α → β) (g : Nat × α → Nat × α)
    (hg : ∀ e, (g e).1 = e.1 ∧ π (g e).2 = π e.2) (t : List (Nat × α)) (n : Nat) :
    π (Tbl.get d (t.map g) n) = π (Tbl.get d t n) := by
  induction t with
  | nil => rfl
  | cons e t ih =>
    obtain ⟨k, v⟩ := e
    obtain ⟨hk, hv⟩ := hg (k, v)
    rw [List.map_cons]
    unfold Tbl.get
    rw [hk]
    split
    · exact hv
    · exact ih

namespace State

theorem getCore_modCore (s : State) (c b : Nat) (f : Core → Core) :
    (s.modCore c f).getCore b = if b = c then f (s.getCore c) else s.getCore b :=
  Tbl.get_put _ _ _ _ _

@[simp] theorem getCore_modCore_same (s : State) (c : Nat) (f : Core → Core) : (s.modCore c f).getCore c = f (s.getCore c) :=
  Tbl.get_put_same _ _ _ _

theorem getDie_modDie (s : State) (d b : Nat) (f : Die → Die) :
    (s.modDie d f).getDie b = if b = d then f (s.getDie d) else s.getDie b :=
  Tbl.get_put _ _ _ _ _

@[simp] theorem getDie_modDie_same (s : State) (d : Nat) (f : Die → Die) : (s.modDie d f).getDie d = f (s.getDie d) :=
  Tbl.get_put_same _ _ _ _

@[simp] theorem getSet_modSet_same (s : State) (n : Nat) (f : SetSt → SetSt) : (s.modSet n f).getSet n = f (s.getSet n) :=
  Tbl.get_put_same _ _ _ _

/-- The send buffer and the line just written. -/
@[simp] theorem sendQ_setSendQ (s : State) (u : Nat) (b : List Msg) (w : List (Nat × Msg)) : (s.setSendQ u b w).sendQ u = (b, w) := by
  unfold setSendQ sendQ
  by_cases h : u < 128 <;> simp [h]

@[simp] theorem setSendQ_mem (s : State) (u : Nat) (b : List Msg) (w : List (Nat × Msg)) : (s.setSendQ u b w).mem = s.mem := by
  unfold setSendQ; split <;> rfl
@[simp] theorem setSendQ_thr (s : State) (u : Nat) (b : List Msg) (w : List (Nat × Msg)) : (s.setSendQ u b w).thr = s.thr := by
  unfold setSendQ; split <;> rfl
@[simp] theorem setSendQ_mesh (s : State) (u : Nat) (b : List Msg) (w : List (Nat × Msg)) : (s.setSendQ u b w).mesh = s.mesh := by
  unfold setSendQ; split <;> rfl
@[simp] theorem setSendQ_lcm (s : State) (u : Nat) (b : List Msg) (w : List (Nat × Msg)) : (s.setSendQ u b w).lcm = s.lcm := by
  unfold setSendQ; split <;> rfl
@[simp] theorem setSendQ_timebase (s : State) (u : Nat) (b : List Msg) (w : List (Nat × Msg)) :
    (s.setSendQ u b w).timebase = s.timebase := by
  unfold setSendQ; split <;> rfl

/-- A change of a core that keeps its send buffer and its line keeps those of every unit. -/
theorem sendQ_modCore (s : State) (c u : Nat) (f : Core → Core)
    (hf : ∀ k, (f k).sendBuf = k.sendBuf ∧ (f k).niWait = k.niWait) : (s.modCore c f).sendQ u = s.sendQ u := by
  unfold sendQ
  rw [getCore_modCore]
  by_cases h : u = c
  · rw [if_pos h, (hf _).1, (hf _).2, h]; rfl
  · rw [if_neg h]; rfl

/-- The physical core of a logical index is the map's alone (R342). -/
theorem physOf_congr {s t : State} (h : t.lcm = s.lcm) (l : Nat) : t.physOf l = s.physOf l := by
  unfold physOf lcmEntry
  rw [h]

end State

/-! ### Lengths and places -/

theorem xorBytes_length_le (a b : List Byte) : (xorBytes a b).length ≤ a.length := by
  unfold xorBytes
  rw [List.length_zipWith]
  exact Nat.min_le_left _ _

theorem aesEncrypt_length_le (ks : List (List Byte)) (blk : List Byte) : (aesEncrypt ks blk).length ≤ 16 := by
  refine (xorBytes_length_le _ _).trans ?_
  unfold aesShift
  rw [List.length_map, List.length_range]

/-- A unit of 16 bytes is encrypted to no more than 16 (R240). -/
theorem xtsEncrypt_length_le (key : BitVec 512) (pa : Nat) (p : List Byte) : (xtsEncrypt key pa p).length ≤ 16 :=
  (xorBytes_length_le _ _).trans (aesEncrypt_length_le _ _)

/-- No place of HBM4E lies beyond the last channel of die 1 (R202). -/
theorem lt_of_placeOf_hbm {l d : Nat} (h : placeOf l = .hbm d) : l < 0x1C00000000 := by
  unfold placeOf at h
  split_ifs at h <;> omega

theorem chunks_length_le {α : Type} (n : Nat) : ∀ (k : Nat) (l : List α), ∀ c ∈ chunks n k l, c.length ≤ n
  | 0, _, c, h => by simp [chunks] at h
  | _ + 1, [], c, h => by simp [chunks] at h
  | k + 1, a :: t, c, h => by
    rw [chunks, List.mem_cons] at h
    rcases h with rfl | h
    · rw [List.length_take]; exact Nat.min_le_left _ _
    · exact chunks_length_le n k _ c h

/-! ### What a unit's write of bytes leaves -/

/-- What a write of bytes by a unit may touch: memory with its poison and the clocks of its values, the I-caches and L1s of the cores, and
of the dies the L2, the RDC and the mark that a write was applied; no thread, no other register, nothing of the Sets, the partitions
or the network (R205, R206, R212, R215, R231). -/
def UnitWrite (s t : State) : Prop :=
  t = { s with mem := t.mem, carried := t.carried, poison := t.poison, core := t.core, die := t.die } ∧
  (∀ c, t.getCore c =
    { s.getCore c with icache := (t.getCore c).icache, epoch := (t.getCore c).epoch, l1 := (t.getCore c).l1 }) ∧
  (∀ d, t.getDie d = { s.getDie d with wrote := (t.getDie d).wrote, l2 := (t.getDie d).l2, rdc := (t.getDie d).rdc })

theorem UnitWrite.refl (s : State) : UnitWrite s s := ⟨rfl, fun _ => rfl, fun _ => rfl⟩

theorem UnitWrite.trans {s t u : State} (h : UnitWrite s t) (g : UnitWrite t u) : UnitWrite s u := by
  obtain ⟨h1, h2, h3⟩ := h
  obtain ⟨g1, g2, g3⟩ := g
  refine ⟨?_, fun c => ?_, fun d => ?_⟩
  · rw [g1, h1]
  · rw [g2, h2]
  · rw [g3, h3]

theorem UnitWrite.foldl {α : Type} (f : State → α → State) (hf : ∀ s x, UnitWrite s (f s x)) (l : List α) :
    ∀ s, UnitWrite s (l.foldl f s) := by
  induction l with
  | nil => exact UnitWrite.refl
  | cons x l ih => exact fun s => (hf s x).trans (ih _)

theorem UnitWrite.modCore (s : State) (c : Nat) (f : Core → Core)
    (hf : ∀ k, f k = { k with icache := (f k).icache, epoch := (f k).epoch, l1 := (f k).l1 }) : UnitWrite s (s.modCore c f) := by
  refine ⟨rfl, fun b => ?_, fun _ => rfl⟩
  rw [State.getCore_modCore]
  by_cases h : b = c
  · rw [if_pos h, h]; exact hf _
  · rw [if_neg h]

theorem UnitWrite.modDie (s : State) (d : Nat) (f : Die → Die)
    (hf : ∀ k, f k = { k with wrote := (f k).wrote, l2 := (f k).l2, rdc := (f k).rdc }) : UnitWrite s (s.modDie d f) := by
  refine ⟨rfl, fun _ => rfl, fun b => ?_⟩
  rw [State.getDie_modDie]
  by_cases h : b = d
  · rw [if_pos h, h]; exact hf _
  · rw [if_neg h]

/-- A unit's write changes no thread. -/
theorem UnitWrite.thr {s t : State} (h : UnitWrite s t) : t.thr = s.thr := by rw [h.1]

/-- A unit's write changes nothing in the network. -/
theorem UnitWrite.mesh {s t : State} (h : UnitWrite s t) : t.mesh = s.mesh := by rw [h.1]

/-- A unit's write changes no inbox. -/
theorem UnitWrite.inbox {s t : State} (h : UnitWrite s t) (c : Nat) : (t.getCore c).inbox = (s.getCore c).inbox := by
  rw [h.2.1 c]

theorem UnitWrite.htab {s t : State} (h : UnitWrite s t) (c : Nat) : (t.getCore c).htab = (s.getCore c).htab := by
  rw [h.2.1 c]

theorem UnitWrite.overflow {s t : State} (h : UnitWrite s t) (c : Nat) : (t.getCore c).overflow = (s.getCore c).overflow := by
  rw [h.2.1 c]

namespace State

theorem carry_unitWrite (s : State) (l n : Nat) (k : Clock) : UnitWrite s (s.carry l n k) := by
  unfold carry
  split
  · exact UnitWrite.refl s
  · exact ⟨rfl, fun _ => rfl, fun _ => rfl⟩

theorem staleLines_unitWrite (s : State) (l n : Nat) : UnitWrite s (s.staleLines l n) := by
  unfold staleLines
  refine UnitWrite.foldl _ (fun t c => ?_) _ _
  dsimp only
  split
  · exact UnitWrite.modCore _ _ _ fun _ => rfl
  · exact UnitWrite.refl t

/-- Bytes put into memory, with what follows in the poison, the clocks and the I-caches. -/
theorem putMem_unitWrite (s : State) (m : List Host.Cell) (l n : Nat) (k : Clock) :
    UnitWrite s (((({ s with mem := m } : State).cleanse l n).carry l n k).staleLines l n) :=
  (show UnitWrite s (({ s with mem := m } : State).cleanse l n) from ⟨rfl, fun _ => rfl, fun _ => rfl⟩).trans
    ((carry_unitWrite _ _ _ _).trans (staleLines_unitWrite _ _ _))

theorem invalidateL1_unitWrite (s : State) (d x : Nat) (keep : Option Nat) : UnitWrite s (s.invalidateL1 d x keep) :=
  UnitWrite.foldl _ (fun _ _ => UnitWrite.modCore _ _ _ fun _ => rfl) _ _

theorem putL2_unitWrite (s : State) (d x : Nat) (dirty : Bool) : UnitWrite s (s.putL2 d x dirty) :=
  UnitWrite.modDie _ _ _ fun _ => rfl

theorem atHome_unitWrite (s : State) (l n : Nat) : UnitWrite s (s.atHome l n) := by
  unfold atHome
  split
  · exact UnitWrite.refl s
  · exact UnitWrite.foldl _ (fun t x => (invalidateL1_unitWrite t _ x none).trans (putL2_unitWrite _ _ _ _)) _ _

theorem ackAt_unitWrite (s : State) (d l n : Nat) : UnitWrite s (s.ackAt d l n) := by
  unfold ackAt
  split
  · exact UnitWrite.refl s
  split
  · exact UnitWrite.refl s
  refine UnitWrite.foldl _ (fun t x => ?_) _ _
  unfold ackSector
  split
  · exact UnitWrite.refl t
  dsimp only
  split
  · exact (invalidateL1_unitWrite _ _ _ _).trans (UnitWrite.modDie _ _ _ fun _ => rfl)
  · exact invalidateL1_unitWrite _ _ _ _

theorem markWrote_unitWrite (s : State) (d : Nat) : UnitWrite s (s.markWrote d) := by
  unfold markWrote
  split
  · exact UnitWrite.refl s
  · exact UnitWrite.modDie _ _ _ fun _ => rfl

theorem putBytes_unitWrite (s : State) (l : Nat) (bs : List Byte) : UnitWrite s (s.putBytes l bs) :=
  (putMem_unitWrite _ _ _ _ _).trans (atHome_unitWrite _ _ _)

theorem putPlainRaw_unitWrite (s : State) (l k : Nat) (bs : List Byte) : UnitWrite s (s.putPlainRaw l k bs) := by
  unfold putPlainRaw
  split
  · exact putMem_unitWrite _ _ _ _ _
  split
  · exact UnitWrite.refl s
  · exact putMem_unitWrite _ _ _ _ _

theorem putPlain_unitWrite (s : State) (l k : Nat) (bs : List Byte) (unc : Bool) : UnitWrite s (s.putPlain l k bs unc) := by
  unfold putPlain
  split
  · exact putPlainRaw_unitWrite _ _ _ _
  · exact (putPlainRaw_unitWrite _ _ _ _).trans (atHome_unitWrite _ _ _)

/-- A write of the context area changes memory and caches alone (R397). -/
theorem putVirt_unitWrite (s : State) (c va : Nat) (bs : List Byte) : UnitWrite s (s.putVirt c va bs) := by
  unfold putVirt
  refine UnitWrite.foldl _ (fun t e => ?_) _ _
  split
  · split
    · exact ((putPlain_unitWrite _ _ _ _ _).trans (markWrote_unitWrite _ _)).trans (ackAt_unitWrite _ _ _ _)
    · exact UnitWrite.refl t
  · exact UnitWrite.refl t

/-! ### Which bytes a unit's write reaches -/

/-- A write of plain bytes, under whatever key, leaves every byte beyond the 16-byte units that it touches (R240, R414). -/
theorem putPlainRaw_read (s : State) (l k : Nat) (bs : List Byte) (j : Nat) (hj : l + bs.length + 16 ≤ j) :
    Memory.read (s.putPlainRaw l k bs).mem j = Memory.read s.mem j := by
  unfold putPlainRaw
  split
  · rw [putRaw_mem, Memory.read_writeN_outside _ _ _ _ (by omega)]
  split
  · rfl
  dsimp only
  rw [staleLines_mem, carry_mem, cleanse_mem]
  refine Memory.read_writeN_outside _ _ _ _ (.inr ?_)
  have hlo : alignDown 16 l ≤ l := Nat.div_mul_le_self _ _
  rw [List.length_flatMap]
  refine (Nat.add_le_add_left (List.sum_le_card_nsmul _ 16 fun n hn => ?_) _).trans ?_
  · obtain ⟨i, _, rfl⟩ := List.mem_map.1 hn
    exact xtsEncrypt_length_le _ _ _
  · rw [List.length_map, List.length_range, smul_eq_mul]
    omega

end State

/-! ### The local memories after a unit's write -/

/-- Every byte of the local memories reads as before. -/
def SameLocal (s t : State) : Prop := ∀ l, 2 ^ 48 ≤ l → Memory.read t.mem l = Memory.read s.mem l

theorem SameLocal.of_mem {s t : State} (h : t.mem = s.mem) : SameLocal s t := fun _ _ => by rw [h]

theorem SameBytes.of_mem {s t : State} (h : t.mem = s.mem) : SameBytes s t := fun _ => by rw [h]

/-- A fold of steps over a list that leave the local memories alone. -/
theorem SameLocal.foldl {α : Type} (f : State → α → State) :
    ∀ (l : List α) (s : State), (∀ t, ∀ x ∈ l, SameLocal t (f t x)) → SameLocal s (l.foldl f s)
  | [], _, _ => fun _ _ => rfl
  | x :: l, s, hf => fun j hj => by
    rw [List.foldl_cons, SameLocal.foldl f l (f s x) (fun t y hy => hf t y (List.mem_cons_of_mem _ hy)) j hj,
      hf s x List.mem_cons_self j hj]

namespace State

@[simp] theorem putPlain_mem (s : State) (l k : Nat) (bs : List Byte) (unc : Bool) :
    (s.putPlain l k bs unc).mem = (s.putPlainRaw l k bs).mem := by
  unfold putPlain
  split
  · rfl
  · exact atHome_mem _ _ _

/-- The context area lies in HBM4E: a write of it reaches no local memory (R397). -/
theorem putVirt_sameLocal (s : State) (c va : Nat) (bs : List Byte) : SameLocal s (s.putVirt c va bs) := by
  unfold putVirt
  refine SameLocal.foldl _ _ _ fun t e he j hj => ?_
  split
  · split
    case h_1 acc _ d hd =>
      have hlen : e.1.length ≤ 64 :=
        chunks_length_le _ _ _ _ (List.fst_mem_of_mem_zipIdx he)
      have hl := lt_of_placeOf_hbm hd
      rw [ackAt_mem, markWrote_mem, putPlain_mem, putPlainRaw_read _ _ _ _ _ (by omega)]
    · rfl
  · rfl

/-! ### The handler table and the pending queues as a core sees them -/

/-- The handler-table block reads the same where HTAB and the ULM do (R335, R336). -/
theorem block_congr {s t : State} {c : Nat} (hm : SameLocal s t) (hh : (t.getCore c).htab = (s.getCore c).htab) (o : Nat) :
    t.block c o = s.block c o := by
  unfold block htabBase ulmWord ulm Memory.readN
  rw [hh]
  refine congrArg bytesWord (List.map_congr_left fun i _ => hm _ ?_)
  unfold ulmLoc
  omega

theorem entryState_congr {s t : State} {c : Nat} (hb : ∀ o, t.block c o = s.block c o) (h : Nat) :
    t.entryState c h = s.entryState c h := by
  unfold entryState handler0
  rw [hb]

theorem handler0_congr {s t : State} {c : Nat} (hb : ∀ o, t.block c o = s.block c o) (h : Nat) : t.handler0 c h = s.handler0 c h :=
  hb _

theorem slotAddr_congr {s t : State} {c : Nat} (hb : ∀ o, t.block c o = s.block c o) (i : Nat) : t.slotAddr c i = s.slotAddr c i := by
  unfold slotAddr poolBase
  rw [hb]

theorem freeInbox_congr {s t : State} {c : Nat} (hb : ∀ o, t.block c o = s.block c o)
    (hi : (t.getCore c).inbox = (s.getCore c).inbox) : t.freeInbox c = s.freeInbox c := by
  unfold freeInbox poolSlots
  rw [hb, hi]

/-- The pending queues of a partition rest on the partitions, the keys and memory alone (R268, R282). -/
theorem pendQueues_congr {s t : State} (hp : t.part = s.part) (hk : t.keys = s.keys) (hm : t.mem = s.mem) (p : Nat) :
    t.pendQueues p = s.pendQueues p := by
  unfold pendQueues pendList rcbWord rcbLoc plain keyOf getPart
  rw [hp, hk, hm]

/-- The partition of a core is that of its ASID (R43, R77). -/
theorem partOf_thr (s : State) (c tid : Nat) : s.partOf (.thr c tid) = field (s.getCore c).asid 0 3 := rfl

theorem somePending_congr {s t : State} {c : Nat} (hp : t.part = s.part) (hk : t.keys = s.keys) (hm : t.mem = s.mem)
    (ha : (t.getCore c).asid = (s.getCore c).asid) (h : Nat) : t.somePending c h = s.somePending c h := by
  unfold somePending
  rw [partOf_thr, partOf_thr, pendQueues_congr hp hk hm, ha]

end State

/-! ### Steps of the network (R16, R278, R279) -/

/-- What the network's own steps may change: the messages under way, the dies' counters and clocks, and of a core its count of arrivals
and its counters. -/
def NetStep (s t : State) : Prop :=
  t = { s with core := t.core, die := t.die, mesh := t.mesh } ∧
  ∀ c, t.getCore c = { s.getCore c with order := (t.getCore c).order, fixed := (t.getCore c).fixed }

theorem NetStep.refl (s : State) : NetStep s s := ⟨rfl, fun _ => rfl⟩

theorem NetStep.trans {s t u : State} (h : NetStep s t) (g : NetStep t u) : NetStep s u := by
  obtain ⟨h1, h2⟩ := h
  obtain ⟨g1, g2⟩ := g
  refine ⟨?_, fun c => ?_⟩
  · rw [g1, h1]
  · rw [g2, h2]

theorem NetStep.foldl {α : Type} (f : State → α → State) (hf : ∀ s x, NetStep s (f s x)) (l : List α) :
    ∀ s, NetStep s (l.foldl f s) := by
  induction l with
  | nil => exact NetStep.refl
  | cons x l ih => exact fun s => (hf s x).trans (ih _)

theorem NetStep.ite {s t u : State} {p : Prop} [Decidable p] (h : NetStep s t) (g : NetStep t u) :
    NetStep s (if p then u else t) := by
  split
  · exact h.trans g
  · exact h

theorem NetStep.modCore (s : State) (c : Nat) (f : Core → Core) (hf : ∀ k, f k = { k with order := (f k).order, fixed := (f k).fixed }) :
    NetStep s (s.modCore c f) := by
  refine ⟨rfl, fun b => ?_⟩
  rw [State.getCore_modCore]
  by_cases h : b = c
  · rw [if_pos h, h]; exact hf _
  · rw [if_neg h]

theorem NetStep.modDie (s : State) (d : Nat) (f : Die → Die) : NetStep s (s.modDie d f) := ⟨rfl, fun _ => rfl⟩

theorem NetStep.withMesh (s : State) (l : List Msg) : NetStep s { s with mesh := l } := ⟨rfl, fun _ => rfl⟩

section
variable {s t : State} (h : NetStep s t)
include h

theorem NetStep.thr : t.thr = s.thr := by rw [h.1]
theorem NetStep.mem : t.mem = s.mem := by rw [h.1]
theorem NetStep.part : t.part = s.part := by rw [h.1]
theorem NetStep.keys : t.keys = s.keys := by rw [h.1]
theorem NetStep.timebase : t.timebase = s.timebase := by rw [h.1]
theorem NetStep.inbox (c : Nat) : (t.getCore c).inbox = (s.getCore c).inbox := by rw [h.2 c]
theorem NetStep.overflow (c : Nat) : (t.getCore c).overflow = (s.getCore c).overflow := by rw [h.2 c]

theorem NetStep.block (c o : Nat) : t.block c o = s.block c o :=
  State.block_congr (SameLocal.of_mem h.mem) (by rw [h.2 c]) o

theorem NetStep.somePending (c hid : Nat) : t.somePending c hid = s.somePending c hid :=
  State.somePending_congr h.part h.keys h.mem (by rw [h.2 c]) hid

end

namespace State

theorem countDie_netStep (s : State) (d k : Nat) : NetStep s (s.countDie d k) := NetStep.modDie _ _ _

theorem countCore_netStep (s : State) (c k : Nat) : NetStep s (s.countCore c k) := NetStep.modCore _ _ _ fun _ => rfl

theorem mergeClock_netStep (s : State) (d : Nat) (k : Clock) : NetStep s (s.mergeClock d k) := by
  unfold mergeClock
  split
  · exact NetStep.refl s
  · exact NetStep.modDie _ _ _

@[simp] theorem mergeClock_mesh (s : State) (d : Nat) (k : Clock) : (s.mergeClock d k).mesh = s.mesh := by
  unfold mergeClock
  split <;> rfl

theorem returnMsg_netStep (s : State) (m : Msg) (code : Nat) : NetStep s (s.returnMsg m code) := by
  unfold returnMsg
  split
  · exact countDie_netStep _ _ _
  · refine NetStep.trans ?_ (NetStep.withMesh _ _)
    split
    · exact countCore_netStep _ _ _
    · exact NetStep.refl s

/-- A message that is neither a return nor a reply enters the mesh again, on its way to its sender (R279). -/
theorem returnMsg_mesh (s : State) {m : Msg} (code : Nat) (hn : m.nack = false) (hk : m.kind ≠ 4) :
    (s.returnMsg m code).mesh = s.mesh ++
      [{ m with hdr0 := setField (m.hdr0 ||| 0x100) 0 7 code, src := m.dst, dst := s.senderUnit m, received := false, refused := false
                loop := false, last := false }] := by
  unfold returnMsg
  rw [if_neg (by simp [hn, hk])]
  dsimp only
  split <;> rfl

/-- The message as it stands in the input buffer of its core (R33, R88, R268). -/
def asReceived (s : State) (m : Msg) : Msg :=
  { m with
    received := true, clock := [], arrNo := if m.dst < 128 then (s.getCore m.dst).order else 0
    refused := decide (m.dst < 128) && !m.nack && decide (m.kind ≠ 4) && s.windowRefuses m.dst m }

theorem receive_netStep (s : State) (i : Nat) (m : Msg) : NetStep s (s.receive i m) := by
  unfold receive
  exact (((mergeClock_netStep _ _ _).trans (NetStep.withMesh _ _)).ite (NetStep.modCore _ _ _ fun _ => rfl)).ite
    (countCore_netStep _ _ _)

@[simp] theorem countCore_mesh (s : State) (c k : Nat) : (s.countCore c k).mesh = s.mesh := rfl

@[simp] theorem receive_mesh (s : State) (i : Nat) (m : Msg) : (s.receive i m).mesh = s.mesh.eraseIdx i ++ [s.asReceived m] := by
  unfold receive
  simp only [apply_ite State.mesh, countCore_mesh, modCore_mesh, ite_self, mergeClock_mesh]
  rfl

/-! ### Arrival at a unit (R16, R268, R278) -/

@[simp] theorem asReceived_dst (s : State) (m : Msg) : (s.asReceived m).dst = m.dst := rfl
@[simp] theorem asReceived_channel (s : State) (m : Msg) : (s.asReceived m).channel = m.channel := rfl
@[simp] theorem asReceived_bytes (s : State) (m : Msg) : (s.asReceived m).bytes = m.bytes := rfl

/-- The first message of an input buffer is placed by `f`, where its place has room. -/
theorem arriveBy_first {s : State} {i : Nat} {m : Msg} (f : State → Msg → Option State) (hm : s.mesh[i]? = some m)
    (hr : m.received = true) (hf : s.firstInBuffer i m = true) : s.arriveBy i f = (f (s.dropMesh i) m).getD s := by
  unfold arriveBy
  simp [hm, hr, hf]

/-- A message that finds the input buffer empty is received and at once placed by `f`, where its place has room. -/
theorem arriveBy_empty {s : State} {i : Nat} {m : Msg} (f : State → Msg → Option State) (hm : s.mesh[i]? = some m)
    (hc : s.canReceive i m = true) (hb : s.inBuffer m.dst m.channel = []) :
    s.arriveBy i f = (f ((s.receive i m).dropMesh (s.mesh.length - 1)) (s.asReceived m)).getD (s.receive i m) := by
  have hi : i < s.mesh.length := (List.getElem?_eq_some_iff.1 hm).1
  have hlen : (s.mesh.eraseIdx i).length = s.mesh.length - 1 := List.length_eraseIdx_of_lt hi
  have hr : m.received = false := by
    have h := hc
    simp only [canReceive, Bool.and_eq_true, Bool.not_eq_true'] at h
    obtain ⟨⟨⟨hr, -⟩, -⟩, -⟩ := h
    exact hr
  have hget : (s.receive i m).mesh[s.mesh.length - 1]? = some (s.asReceived m) := by
    rw [receive_mesh, ← hlen, List.getElem?_concat_length]
  have hfirst : (s.receive i m).firstInBuffer (s.mesh.length - 1) (s.asReceived m) = true := by
    have hnone : ∀ e ∈ s.mesh, ¬(e.received = true ∧ e.dst = m.dst ∧ e.channel = m.channel) := by
      simpa [inBuffer, List.filter_eq_nil_iff] using hb
    have hany : ((s.mesh.eraseIdx i).any fun e => e.received && decide (e.dst = m.dst) && decide (e.channel = m.channel)) = false :=
      List.any_eq_false.2 fun e he => by simpa [and_assoc] using hnone e ((List.eraseIdx_sublist _ _).subset he)
    unfold firstInBuffer
    rw [receive_mesh, ← hlen, List.take_left, asReceived_dst, asReceived_channel, hany]
    rfl
  unfold arriveBy
  simp only [hm, hr, hc, Bool.false_eq_true, if_false, if_true]
  rw [hget]
  simp only [hfirst, if_true]

/-- Where a message was received last, dropping it leaves the mesh without it. -/
theorem dropMesh_receive_mesh {s : State} {i : Nat} {m : Msg} (hm : s.mesh[i]? = some m) :
    ((s.receive i m).dropMesh (s.mesh.length - 1)).mesh = s.mesh.eraseIdx i := by
  have hi : i < s.mesh.length := (List.getElem?_eq_some_iff.1 hm).1
  have hlen : (s.mesh.eraseIdx i).length = s.mesh.length - 1 := List.length_eraseIdx_of_lt hi
  unfold dropMesh
  rw [receive_mesh, ← hlen, List.eraseIdx_append_of_length_le (Nat.le_refl _), Nat.sub_self]
  simp

theorem dropMesh_netStep (s : State) (i : Nat) : NetStep s (s.dropMesh i) := NetStep.withMesh _ _

/-! ### Into the inbox (R278) -/

/-- A message for a BOUND entry that serves its messages itself, with none of them pending, enters the free inbox slot with the lowest
address. -/
theorem byEntry_inbox {s : State} {c k : Nat} {m : Msg} (he : s.entryState c m.dh = .bound) (hr : hRemote (s.handler0 c m.dh) = false)
    (hl : m.loop = false) (ho : (s.getCore c).overflow = false) (hf : s.freeInbox c = some k) :
    s.byEntry c m false = some (s.putInbox c k m) := by
  simp [byEntry, intoInbox, he, hr, hl, ho, hf]

theorem deliver_data {s : State} {c : Nat} {m : Msg} (hk : m.kind = 0) (hr : m.refused = false) (hp : s.somePending c m.dh = false) :
    s.deliver c m = s.byEntry c m false := by
  simp [deliver, hk, hr, hp]

theorem putInbox_thr (s : State) (c i : Nat) (m : Msg) : (s.putInbox c i m).thr = s.thr := by
  unfold putInbox putUlm
  rw [modCore_thr, (putBytes_unitWrite s _ _).thr]

theorem putInbox_mesh (s : State) (c i : Nat) (m : Msg) : (s.putInbox c i m).mesh = s.mesh := by
  unfold putInbox putUlm
  rw [modCore_mesh, (putBytes_unitWrite s _ _).mesh]

/-- The message stands behind those of the inbox, untaken, in its slot (R268). -/
theorem putInbox_inbox (s : State) (c i : Nat) (m : Msg) : ∃ e, ((s.putInbox c i m).getCore c).inbox = (s.getCore c).inbox ++ [e] ∧
    e.slot = i ∧ e.msg.hdr0 = m.hdr0 ∧ e.msg.payload = m.payload ∧ e.arrival = s.timebase ∧ e.taken = false := by
  unfold putInbox putUlm
  have hw := putBytes_unitWrite s (ulmLoc c (s.slotAddr c i)) m.bytes
  generalize s.putBytes (ulmLoc c (s.slotAddr c i)) m.bytes = t at hw
  dsimp only
  rw [getCore_modCore_same]
  exact ⟨_, by dsimp only; rw [hw.inbox], rfl, rfl, rfl, rfl, rfl⟩

theorem putInbox_bytes (s : State) (c i : Nat) (m : Msg) :
    Memory.readN (s.putInbox c i m).mem (ulmLoc c (s.slotAddr c i)) m.bytes.length = m.bytes := by
  unfold putInbox putUlm
  rw [modCore_mem, putBytes_mem, Memory.readN_writeN_same]

end State

/-! ### Replies (R124, R250, R281) -/

/-- A thread that waits for no reply goes on as it was. -/
theorem Thread.replied_of_free {t : Thread} (h : State.replyHeld t = false) : t.replied = t := by
  unfold Thread.replied
  cases hw : t.wait with
  | none => rfl
  | some w =>
    have hk : w.kind ≠ .reply := by simpa [State.replyHeld, hw] using h
    simp [hk]

/-- The pass of a loop that waited for the last reply to the loop's register ends (R124). -/
theorem Thread.replied_of_held {t : Thread} {w : Wait} (hw : t.wait = some w) (hk : w.kind = .reply)
    (ha : t.awaits t.loopReg = false) : t.replied = ({ t with wait := none } : Thread).next w.len := by
  simp [Thread.replied, hw, hk, ha]

theorem Thread.next_landing (t : Thread) (len : Nat) : (t.next len).landing = t.landing := by
  have h := (t.completed_next len).2
  rw [Thread.KeepsRest] at h
  rw [h]

theorem Thread.next_wait (t : Thread) (len : Nat) : (t.next len).wait = t.wait := by
  have h := (t.completed_next len).2
  rw [Thread.KeepsRest] at h
  rw [h]

namespace State

/-- Where no disposition waits for the boundary that it makes, an answer changes its thread alone (R250, R395). -/
theorem settle_thr {s : State} {c tid : Nat} {o : Outst} {f : Thread → Thread}
    (h : replyHeld (s.thread (.thr c tid)) = false ∨
      (f { s.thread (.thr c tid) with outst := (s.thread (.thr c tid)).outst.erase o }).replied.landing = 0) :
    s.settle (.thr c tid) o f = s.modThread (.thr c tid) fun t => (f { t with outst := t.outst.erase o }).replied := by
  unfold settle
  dsimp only
  rw [if_neg]
  rcases h with h | h <;> simp [h]

/-- The copies that an acquire discards stand in the cores and the dies (R232). -/
theorem dropOld_frame (s : State) (d : Nat) (c : Option Nat) :
    s.dropOld d c = { s with core := (s.dropOld d c).core, die := (s.dropOld d c).die } := by
  unfold dropOld
  dsimp only
  repeat' split
  all_goals rfl

/-- An acquire changes the cores' caches and the dies alone (R232). -/
theorem acquire_frame (s : State) (a : Agent) (k : Clock) :
    s.acquire a k = { s with core := (s.acquire a k).core, die := (s.acquire a k).die } := by
  unfold acquire
  rw [dropOld_frame]
  unfold mergeClock
  split <;> rfl

@[simp] theorem acquire_thr (s : State) (a : Agent) (k : Clock) : (s.acquire a k).thr = s.thr := by rw [acquire_frame]
@[simp] theorem acquire_mem (s : State) (a : Agent) (k : Clock) : (s.acquire a k).mem = s.mem := by rw [acquire_frame]
@[simp] theorem acquire_mesh (s : State) (a : Agent) (k : Clock) : (s.acquire a k).mesh = s.mesh := by rw [acquire_frame]

@[simp] theorem acquire_thread (s : State) (a b : Agent) (k : Clock) : (s.acquire a k).thread b = s.thread b := by
  unfold thread
  rw [acquire_thr]

/-- A reply for a live context that waits for it (R281). -/
theorem replyToCore_live {s : State} {c : Nat} {m : Msg} {o : Outst} (ha : answered (s.thread (.thr c m.ctxKind)) m = some o)
    (hl : (s.thread (.thr c m.ctxKind)).live = true) (hg : (s.thread (.thr c m.ctxKind)).gen.toNat = m.ctxLow) :
    s.replyToCore c m = some (s.completeReply (.thr c m.ctxKind) o m) := by
  simp [replyToCore, ha, hl, hg]

/-- The thread of an answered operation with the reply's value in its register, before a pass of its loop ends. -/
abbrev answeredThread (t : Thread) (o : Outst) (v : Word) : Thread := ({ t with outst := t.outst.erase o } : Thread).setX o.rd v

theorem wait_answeredThread (t : Thread) (o : Outst) (v : Word) : (answeredThread t o v).wait = t.wait := Thread.setX_wait _ _ _

theorem landing_answeredThread (t : Thread) (o : Outst) (v : Word) : (answeredThread t o v).landing = t.landing :=
  Thread.setX_landing _ _ _

theorem replyHeld_answeredThread (t : Thread) (o : Outst) (v : Word) : replyHeld (answeredThread t o v) = replyHeld t := by
  unfold replyHeld
  rw [wait_answeredThread]

/-- A reply writes the register that waits and changes nothing else of a thread, where no disposition waits for the boundary that it
makes (R250, R281). -/
theorem completeReply_effect {s : State} {c tid : Nat} {o : Outst} {m : Msg}
    (h : replyHeld (s.thread (.thr c tid)) = false ∨
      (answeredThread (s.thread (.thr c tid)) o (m.word 0)).replied.landing = 0) :
    (s.completeReply (.thr c tid) o m).mesh = s.mesh ∧ (s.completeReply (.thr c tid) o m).mem = s.mem ∧
    (s.completeReply (.thr c tid) o m).thread (.thr c tid) = (answeredThread (s.thread (.thr c tid)) o (m.word 0)).replied := by
  unfold completeReply
  rw [settle_thr (by rwa [acquire_thread])]
  simp

end State

/-- REPLY_ARRIVAL places the first reply of the input buffer of a core. -/
theorem exec_replyArrival_first {s : State} {i : Nat} {m : Msg} (hm : s.mesh[i]? = some m) (hd : m.dst < 128) (hn : m.nack = false)
    (hk : m.kind = 4) (hr : m.received = true) (hf : s.firstInBuffer i m = true) (ha : s.arrivalsHeld m.dst = false) :
    exec (.replyArrival i) s = .next (((s.dropMesh i).replyToCore m.dst m).getD s) := by
  have hg : s.goneCore m = false := by simp [State.goneCore, hr]
  rw [exec_replyArrival, execReplyArrival, ← State.arriveBy_first (fun t x => t.replyToCore x.dst x) hm hr hf]
  simp [hm, hn, hk, hd, hg, ha]
  omega

/-- REPLY_ARRIVAL: the reply leaves the mesh and writes the register that waits for it. -/
theorem replyArrival_runs {s : State} {i : Nat} {m : Msg} {o : Outst} (hm : s.mesh[i]? = some m) (hd : m.dst < 128)
    (hn : m.nack = false) (hk : m.kind = 4) (hr : m.received = true) (hf : s.firstInBuffer i m = true)
    (ha : s.arrivalsHeld m.dst = false) (ho : State.answered (s.thread (.thr m.dst m.ctxKind)) m = some o)
    (hl : (s.thread (.thr m.dst m.ctxKind)).live = true) (hg : (s.thread (.thr m.dst m.ctxKind)).gen.toNat = m.ctxLow)
    (h : State.replyHeld (s.thread (.thr m.dst m.ctxKind)) = false ∨
      (State.answeredThread (s.thread (.thr m.dst m.ctxKind)) o (m.word 0)).replied.landing = 0) :
    Runs (.replyArrival i) s fun t => t.mesh = s.mesh.eraseIdx i ∧ SameBytes s t ∧
      t.thread (.thr m.dst m.ctxKind) = (State.answeredThread (s.thread (.thr m.dst m.ctxKind)) o (m.word 0)).replied := by
  refine ⟨_, exec_replyArrival_first hm hd hn hk hr hf ha, ?_⟩
  rw [State.replyToCore_live (s := s.dropMesh i) ho hl hg, Option.getD_some]
  obtain ⟨hmesh, hmem, hthr⟩ := State.completeReply_effect (s := s.dropMesh i) (m := m) (o := o) h
  exact ⟨hmesh, SameBytes.of_mem hmem, hthr⟩

/-! ### Returns (R279, R280) -/

namespace State

theorem returnCell_congr {s t : State} {c : Nat} (hh : (t.getCore c).htab = (s.getCore c).htab) (k : Nat) :
    t.returnCell c k = s.returnCell c k := by
  unfold returnCell blockAddr htabBase
  rw [hh]

/-- A return of a message without a reply, to a live thread whose return cell is free (R279). -/
theorem returnToCore_live {s : State} {c : Nat} {m : Msg} (hk : m.kind = 0) (h7 : m.ctxKind < 7)
    (hl : (s.thread (.thr c m.ctxKind)).live = true) (hg : (s.thread (.thr c m.ctxKind)).gen.toNat = m.ctxLow)
    (hb : (s.thread (.thr c m.ctxKind)).cellBusy = false) :
    s.returnToCore c m = some (((s.putUlm c (s.returnCell c m.ctxKind) m.bytes).modThread (.thr c m.ctxKind) fun t =>
      { t with cellBusy := true }).nackTrap (.thr c m.ctxKind) m.sub (ofN (s.returnCell c m.ctxKind))) := by
  have h7' : m.ctxKind ≠ 7 := by omega
  simp [returnToCore, returnLive, hk, h7', hl, hg, hb]

end State

/-- MESSAGE_RETURN_ARRIVAL: a return for a live context goes into its return cell and is a pending NACK of it. -/
theorem messageReturnArrival_runs {s : State} {i : Nat} {m : Msg} (hm : s.mesh[i]? = some m) (hd : m.dst < 128)
    (hn : m.nack = true) (hk : m.kind = 0) (hr : m.received = true) (hf : s.firstInBuffer i m = true)
    (ha : s.arrivalsHeld m.dst = false) (h7 : m.ctxKind < 7) (hl : (s.thread (.thr m.dst m.ctxKind)).live = true)
    (hg : (s.thread (.thr m.dst m.ctxKind)).gen.toNat = m.ctxLow) (hb : (s.thread (.thr m.dst m.ctxKind)).cellBusy = false) :
    Runs (.messageReturnArrival i) s fun t => t.mesh = s.mesh.eraseIdx i ∧
      t.thread (.thr m.dst m.ctxKind) = { s.thread (.thr m.dst m.ctxKind) with
        cellBusy := true
        pendTrap := (s.thread (.thr m.dst m.ctxKind)).pendTrap ++
          [{ code := Cause.nack, sub := BitVec.ofNat 8 m.sub, tval := ofN (s.returnCell m.dst m.ctxKind) }] } ∧
      Memory.readN t.mem (ulmLoc m.dst (s.returnCell m.dst m.ctxKind)) m.bytes.length = m.bytes := by
  have hexec : exec (.messageReturnArrival i) s = .next (((s.dropMesh i).returnToCore m.dst m).getD s) := by
    have hg : s.goneCore m = false := by simp [State.goneCore, hr]
    rw [exec_messageReturnArrival, execMessageReturnArrival,
      ← State.arriveBy_first (fun t x => t.returnToCore x.dst x) hm hr hf]
    simp [hm, hn, hd, hg, ha]
    omega
  refine ⟨_, hexec, ?_⟩
  rw [State.returnToCore_live (s := s.dropMesh i) hk h7 hl hg hb, Option.getD_some]
  have hcell : (s.dropMesh i).returnCell m.dst m.ctxKind = s.returnCell m.dst m.ctxKind :=
    State.returnCell_congr rfl _
  have hw := State.putBytes_unitWrite (s.dropMesh i) (ulmLoc m.dst (s.returnCell m.dst m.ctxKind)) m.bytes
  have hst := (State.putBytes_stored (s.dropMesh i) (ulmLoc m.dst (s.returnCell m.dst m.ctxKind)) m.bytes).1
  unfold State.nackTrap State.putUlm
  rw [hcell]
  generalize (s.dropMesh i).putBytes (ulmLoc m.dst (s.returnCell m.dst m.ctxKind)) m.bytes = t at hw hst
  have ht : t.thread (.thr m.dst m.ctxKind) = s.thread (.thr m.dst m.ctxKind) := by
    unfold State.thread
    rw [hw.thr]
    rfl
  refine ⟨?_, ?_, ?_⟩
  · rw [State.modThread_mesh, State.modThread_mesh, hw.mesh]
    rfl
  · rw [State.thread_modThread_same, State.thread_modThread_same, ht]
  · rw [State.modThread_mem, State.modThread_mem, hst]

/-- EDGE_RETURN: a return to a reduction tree's root is counted. -/
theorem edgeReturn_runs {s : State} {i : Nat} {m : Msg} (hm : s.mesh[i]? = some m) (hd : 144 ≤ m.dst) (hn : m.nack = true)
    (hc : m.ctxLow = 6) (hb : s.behindInMesh i m = false) (hh : s.heldAtBridge m = false) :
    Runs (.edgeReturn i) s fun t => t.mesh = s.mesh.eraseIdx i ∧ t.thr = s.thr ∧ SameBytes s t ∧
      Tbl.get 0 (t.getDie (State.unitDie m.dst)).counters 7 = Tbl.get 0 (s.getDie (State.unitDie m.dst)).counters 7 + 1 := by
  have hexec : exec (.edgeReturn i) s = .next ((s.dropMesh i).countDie (State.unitDie m.dst) 7) := by
    rw [exec_edgeReturn, execEdgeReturn]
    simp [hm, hn, hc, hb, hh, Nat.not_lt.2 hd]
  refine ⟨_, hexec, rfl, rfl, fun _ => rfl, ?_⟩
  unfold State.countDie
  rw [State.getDie_modDie_same, Tbl.get_put_same]
  rfl

/-! ### Injection (R16, R275) -/

namespace State

@[simp] theorem sendQ_countCore (s : State) (c k u : Nat) : (s.countCore c k).sendQ u = s.sendQ u :=
  sendQ_modCore _ _ _ _ fun _ => ⟨rfl, rfl⟩

/-- A message of a KIND other than 4, 5 and 6 goes to the core that its DC names (R16). -/
theorem intoMesh_named {s : State} {u : Nat} {m : Msg} (h4 : m.kind ≠ 4) (h5 : m.kind ≠ 5) (h6 : m.kind ≠ 6) :
    s.intoMesh u m = { s with mesh := s.mesh ++ [{ m with dst := (s.physOf m.dc).getD m.dc }] } := by
  simp [intoMesh, h4, h5, h6]

end State

/-- MESSAGE_INJECT moves the head of a send buffer into the mesh, to the core that its DC names. -/
theorem messageInject_runs {s : State} {u : Nat} {m : Msg} {rest : List Msg} {line : List (Nat × Msg)}
    (hq : s.sendQ u = (m :: rest, line)) (hi : s.injectable u m = true) (h4 : m.kind ≠ 4) (h5 : m.kind ≠ 5) (h6 : m.kind ≠ 6) :
    Runs (.messageInject u) s fun t => t.sendQ u = (rest, line) ∧
      t.mesh = s.mesh ++ [{ m with dst := (s.physOf m.dc).getD m.dc }] ∧ t.thr = s.thr ∧ SameBytes s t := by
  have hphys : (s.setSendQ u rest line).physOf m.dc = s.physOf m.dc := State.physOf_congr (State.setSendQ_lcm _ _ _ _) _
  refine ⟨_, by rw [exec_messageInject, execMessageInject, hq]; simp only [hi]; rfl, ?_⟩
  dsimp only
  rw [State.intoMesh_named h4 h5 h6]
  split
  · have hphys' : ((s.setSendQ u rest line).countCore u 0x10).physOf m.dc = s.physOf m.dc := hphys
    refine ⟨(State.sendQ_countCore _ _ _ _).trans (State.sendQ_setSendQ _ _ _ _), ?_, State.setSendQ_thr _ _ _ _,
      SameBytes.of_mem (State.setSendQ_mem _ _ _ _)⟩
    rw [hphys', State.countCore_mesh, State.setSendQ_mesh]
  · refine ⟨State.sendQ_setSendQ _ _ _ _, ?_, State.setSendQ_thr _ _ _ _, SameBytes.of_mem (State.setSendQ_mem _ _ _ _)⟩
    rw [hphys, State.setSendQ_mesh]

/-! ### Releases and the send buffer (R231, R233, R275) -/

/-- A send buffer and a line without the clocks of their messages (R231). -/
def bareQ (q : List Msg × List (Nat × Msg)) : List Msg × List (Nat × Msg) :=
  (q.1.map Msg.bare, q.2.map fun x => (x.1, x.2.bare))

/-- What a release leaves: every byte of memory, the time, and the send buffers and lines but for clocks (R231, R233). -/
def ReleaseKeeps (s t : State) : Prop :=
  t.mem = s.mem ∧ t.timebase = s.timebase ∧ ∀ u, bareQ (t.sendQ u) = bareQ (s.sendQ u)

theorem ReleaseKeeps.refl (s : State) : ReleaseKeeps s s := ⟨rfl, rfl, fun _ => rfl⟩

theorem ReleaseKeeps.trans {s t u : State} (h : ReleaseKeeps s t) (g : ReleaseKeeps t u) : ReleaseKeeps s u := by
  obtain ⟨hm, ht, hq⟩ := h
  obtain ⟨gm, gt, gq⟩ := g
  exact ⟨gm.trans hm, gt.trans ht, fun n => (gq n).trans (hq n)⟩

theorem ReleaseKeeps.modDie (s : State) (d : Nat) (f : Die → Die) : ReleaseKeeps s (s.modDie d f) := ⟨rfl, rfl, fun _ => rfl⟩

namespace State

/-- The send buffers and lines are those of the cores and Sets. -/
theorem bareQ_sendQ_congr {s t : State}
    (hc : ∀ c, bareQ ((t.getCore c).sendBuf, (t.getCore c).niWait) = bareQ ((s.getCore c).sendBuf, (s.getCore c).niWait))
    (hs : ∀ n, bareQ ((t.getSet n).sendBuf, (t.getSet n).niWait) = bareQ ((s.getSet n).sendBuf, (s.getSet n).niWait)) (u : Nat) :
    bareQ (t.sendQ u) = bareQ (s.sendQ u) := by
  unfold sendQ
  split
  · exact hc _
  · exact hs _

theorem bareQ_forget (i : Nat) (b : List Msg) (w : List (Nat × Msg)) :
    bareQ (b.map (Msg.forget i), w.map fun e => (e.1, e.2.forget i)) = bareQ (b, w) := by
  simp [bareQ, Msg.forget, Msg.bare]

theorem dropCopies_releaseKeeps (s : State) (h : Nat) : ReleaseKeeps s (s.dropCopies h) := by
  refine ⟨rfl, rfl, bareQ_sendQ_congr (fun c => ?_) fun n => rfl⟩
  refine Tbl.get_map_proj ({} : Core) (fun k => bareQ (k.sendBuf, k.niWait)) _ (fun e => ?_) _ c
  split <;> exact ⟨rfl, rfl⟩

theorem epochChange_releaseKeeps (s : State) (h : Nat) : ReleaseKeeps s (s.epochChange h) := by
  refine (dropCopies_releaseKeeps s h).trans ⟨rfl, rfl, bareQ_sendQ_congr (fun c => ?_) fun n => ?_⟩
  · refine Tbl.get_map_proj ({} : Core) (fun k => bareQ (k.sendBuf, k.niWait)) _ (fun e => ?_) _ c
    exact ⟨rfl, bareQ_forget _ _ _⟩
  · refine Tbl.get_map_proj ({} : SetSt) (fun k => bareQ (k.sendBuf, k.niWait)) _ (fun e => ?_) _ n
    exact ⟨rfl, bareQ_forget _ _ _⟩

theorem countWrites_releaseKeeps (s : State) (h : Nat) : ReleaseKeeps s (s.countWrites h) := by
  unfold countWrites
  split
  · split
    · exact epochChange_releaseKeeps _ _
    · exact ReleaseKeeps.modDie _ _ _
  · exact ReleaseKeeps.refl s

theorem mergeClock_releaseKeeps (s : State) (d : Nat) (k : Clock) : ReleaseKeeps s (s.mergeClock d k) := by
  unfold mergeClock
  split
  · exact ReleaseKeeps.refl s
  · exact ReleaseKeeps.modDie _ _ _

theorem releaseOn_releaseKeeps (s : State) (d : Nat) : ReleaseKeeps s (s.releaseOn d) :=
  ((countWrites_releaseKeeps s 0).trans (countWrites_releaseKeeps _ 1)).trans (mergeClock_releaseKeeps _ _ _)

theorem release_releaseKeeps (s : State) (a : Agent) : ReleaseKeeps s (s.release a) :=
  (releaseOn_releaseKeeps s a.dieNo).trans ⟨rfl, rfl, fun _ => rfl⟩

/-- The NI accepts a message of an agent behind those of the send buffer; clocks are left aside (R229, R274). -/
theorem placeSend_effect (s : State) (u key : Nat) (m : Msg) : (s.placeSend u key m).mem = s.mem ∧
    bareQ ((s.placeSend u key m).sendQ u) = bareQ ((s.sendQ u).1 ++ [s.stamp m], (s.sendQ u).2) := by
  unfold placeSend
  dsimp only
  obtain ⟨hm, ht, hq⟩ : ReleaseKeeps s (if key < 4096 then s.release (Agent.ofKey key) else s.releaseOn (unitDie u)) := by
    split
    · exact release_releaseKeeps _ _
    · exact releaseOn_releaseKeeps _ _
  generalize (if key < 4096 then s.release (Agent.ofKey key) else s.releaseOn (unitDie u)) = t at hm ht hq
  refine ⟨(setSendQ_mem _ _ _ _).trans hm, ?_⟩
  have hstamp : (t.stamp m).bare = (s.stamp m).bare := by
    unfold stamp
    rw [ht]
  obtain ⟨h1, h2⟩ := Prod.mk.inj (hq u)
  rw [sendQ_setSendQ]
  unfold bareQ
  rw [List.map_append, List.map_append, h1, h2]
  exact congrArg (fun x => ((s.sendQ u).1.map Msg.bare ++ [x], (s.sendQ u).2.map fun x => (x.1, x.2.bare))) hstamp

@[simp] theorem retired_mem (s : State) (a : Agent) : (s.retired a).mem = s.mem := by
  unfold retired
  split
  · exact countEvents_mem _ _ _ _ _
  · rfl

theorem sendQ_retired (s : State) (a : Agent) (u : Nat) : (s.retired a).sendQ u = s.sendQ u := by
  unfold retired countEvent countEvents
  split
  · split
    · rfl
    · exact sendQ_modCore _ _ _ _ fun _ => ⟨rfl, rfl⟩
  · rfl

@[simp] theorem wake_mem (s : State) (a : Agent) (f : Thread → Thread) : (s.wake a f).mem = s.mem := retired_mem _ _

@[simp] theorem sendQ_wake (s : State) (a : Agent) (f : Thread → Thread) (u : Nat) : (s.wake a f).sendQ u = s.sendQ u :=
  sendQ_retired _ _ _

/-- An agent that is woken waits no more. -/
theorem wake_wait (s : State) (a : Agent) : ((s.wake a id).thread a).wait = none := by
  unfold wake
  rw [thread_modThread_same]
  dsimp only
  split <;> exact Thread.next_wait _ _

end State

/-- SEND_BUFFER_GRANT: the first request of the line takes the free entry, and the send that waited in RUN for it completes. -/
theorem sendBufferGrant_runs {s : State} {u key : Nat} {buf : List Msg} {rest : List (Nat × Msg)} {m : Msg} {w : Wait}
    (hq : s.sendQ u = (buf, (key, m) :: rest)) (hb : buf.length < 4) (hk : key < 4096)
    (hr : rest.any (fun e => decide (e.1 = key)) = false) (hw : (s.thread (Agent.ofKey key)).wait = some w) (hs : w.kind = .send)
    (hn : State.wantsReply m = false) (hh : s.sendHeld key = false) :
    Runs (.sendBufferGrant u) s fun t =>
      (t.sendQ u).1.map Msg.bare = (buf ++ [s.stamp m]).map Msg.bare ∧
      (t.sendQ u).2.map (fun x => (x.1, x.2.bare)) = rest.map (fun x => (x.1, x.2.bare)) ∧
      (t.thread (Agent.ofKey key)).wait = none ∧ SameBytes s t := by
  have hexec : exec (.sendBufferGrant u) s =
      .next (((s.setSendQ u buf rest).placeSend u key m).wake (Agent.ofKey key) id) := by
    rw [exec_sendBufferGrant, execSendBufferGrant, hq]
    simp [Nat.not_le.2 hb, hh, hk, hr, hw, hs, hn]
  obtain ⟨hmem, hsend⟩ := State.placeSend_effect (s.setSendQ u buf rest) u key m
  have hstamp : (s.setSendQ u buf rest).stamp m = s.stamp m := by
    unfold State.stamp
    rw [State.setSendQ_timebase]
  rw [State.sendQ_setSendQ, hstamp] at hsend
  obtain ⟨h1, h2⟩ := Prod.mk.inj hsend
  refine ⟨_, hexec, ?_, ?_, State.wake_wait _ _, SameBytes.of_mem ?_⟩
  · rw [State.sendQ_wake]; exact h1
  · rw [State.sendQ_wake]; exact h2
  · rw [State.wake_mem, hmem, State.setSendQ_mem]

/-! ### Arrival at a core (R278) -/

/-- The unit that a message came from does not rest on the mesh (R279). -/
theorem State.dropMesh_senderUnit (s : State) (i : Nat) (m : Msg) : (s.dropMesh i).senderUnit m = s.senderUnit m := rfl

/-- MESSAGE_ARRIVAL: a message whose core is absent goes back from the router with NACK NOCORE. -/
theorem messageArrival_absent_runs {s : State} {i : Nat} {m : Msg} (hm : s.mesh[i]? = some m) (hd : m.dst < 128)
    (hn : m.nack = false) (hk : m.kind ≠ 4) (ha : s.absent m = true) (hb : s.behindInMesh i m = false)
    (hh : s.heldAtBridge m = false) :
    Runs (.messageArrival i) s fun t => t.mesh = s.mesh.eraseIdx i ++
      [{ m with hdr0 := setField (m.hdr0 ||| 0x100) 0 7 2, src := m.dst, dst := s.senderUnit m, received := false, refused := false
                loop := false, last := false }] ∧
      t.thr = s.thr ∧ SameBytes s t := by
  have hexec : exec (.messageArrival i) s = .next ((s.dropMesh i).returnMsg m 2) := by
    rw [exec_messageArrival, execMessageArrival]
    simp [hm, hn, hk, ha, hb, hh, Nat.not_le.2 hd]
  have hstep := (State.dropMesh_netStep s i).trans (State.returnMsg_netStep (s.dropMesh i) m 2)
  refine ⟨_, hexec, ?_, hstep.thr, SameBytes.of_mem hstep.mem⟩
  rw [State.returnMsg_mesh _ _ hn hk, State.dropMesh_senderUnit]
  rfl

/-- MESSAGE_ARRIVAL: a message for a bound entry of a core that admits it enters the free inbox slot with the lowest address. -/
theorem messageArrival_inbox_runs {s : State} {i k : Nat} {m : Msg} (hm : s.mesh[i]? = some m) (hd : m.dst < 128)
    (hn : m.nack = false) (hk : m.kind = 0) (hl : m.loop = false) (ha : s.absent m = false) (hh : s.arrivalsHeld m.dst = false)
    (hc : s.canReceive i m = true) (hb : s.inBuffer m.dst 0 = []) (hw : s.windowRefuses m.dst m = false)
    (he : s.entryState m.dst m.dh = .bound) (hr : hRemote (s.handler0 m.dst m.dh) = false) (hp : s.somePending m.dst m.dh = false)
    (ho : (s.getCore m.dst).overflow = false) (hf : s.freeInbox m.dst = some k) :
    Runs (.messageArrival i) s fun t => t.mesh = s.mesh.eraseIdx i ∧ t.thr = s.thr ∧
      (∃ e, (t.getCore m.dst).inbox = (s.getCore m.dst).inbox ++ [e] ∧ e.slot = k ∧ e.msg.hdr0 = m.hdr0 ∧
        e.msg.payload = m.payload ∧ e.arrival = s.timebase ∧ e.taken = false) ∧
      Memory.readN t.mem (ulmLoc m.dst (s.slotAddr m.dst k)) m.bytes.length = m.bytes := by
  have hch : m.channel = 0 := by simp [Msg.channel, hn, hk]
  have hexec : exec (.messageArrival i) s = .next ((((s.receive i m).dropMesh (s.mesh.length - 1)).deliver m.dst
      (s.asReceived m)).getD (s.receive i m)) := by
    rw [exec_messageArrival, execMessageArrival]
    simp only [hm, hn, hk, ha, hh, Nat.not_le.2 hd]
    simp [State.arriveBy_empty (fun t x => t.deliver x.dst x) hm hc (by rw [hch, hb])]
  have hmesh := State.dropMesh_receive_mesh hm
  have hstep := (State.receive_netStep s i m).trans (State.dropMesh_netStep _ (s.mesh.length - 1))
  generalize (s.receive i m).dropMesh (s.mesh.length - 1) = t at hexec hmesh hstep
  have hblock : ∀ o, t.block m.dst o = s.block m.dst o := hstep.block m.dst
  have hdeliver : t.deliver m.dst (s.asReceived m) = some (t.putInbox m.dst k (s.asReceived m)) := by
    refine (State.deliver_data (m := s.asReceived m) hk (by simp [State.asReceived, hw]) (by rw [hstep.somePending]; exact hp)).trans ?_
    exact State.byEntry_inbox (by rw [State.entryState_congr hblock]; exact he) (by rw [State.handler0_congr hblock]; exact hr) hl
      (by rw [hstep.overflow]; exact ho) (by rw [State.freeInbox_congr hblock (hstep.inbox _)]; exact hf)
  rw [hdeliver, Option.getD_some] at hexec
  refine ⟨_, hexec, ?_, ?_, ?_, ?_⟩
  · rw [State.putInbox_mesh, hmesh]
  · rw [State.putInbox_thr, hstep.thr]
  · obtain ⟨e, h1, h2, h3, h4, h5, h6⟩ := State.putInbox_inbox t m.dst k (s.asReceived m)
    exact ⟨e, by rw [h1, hstep.inbox], h2, h3, h4, by rw [h5, hstep.timebase], h6⟩
  · have h := State.putInbox_bytes t m.dst k (s.asReceived m)
    rwa [State.slotAddr_congr hblock, State.asReceived_bytes] at h

/-! ### Changes of a handler entry (R22) -/

/-- No thread, no inbox, no overflow state, no HTAB and no byte of a local memory differs. -/
def InboxKeeps (s t : State) : Prop :=
  t.thr = s.thr ∧ SameLocal s t ∧
  ∀ c, (t.getCore c).inbox = (s.getCore c).inbox ∧ (t.getCore c).overflow = (s.getCore c).overflow ∧
    (t.getCore c).htab = (s.getCore c).htab

theorem InboxKeeps.refl (s : State) : InboxKeeps s s := ⟨rfl, fun _ _ => rfl, fun _ => ⟨rfl, rfl, rfl⟩⟩

theorem InboxKeeps.trans {s t u : State} (h : InboxKeeps s t) (g : InboxKeeps t u) : InboxKeeps s u := by
  obtain ⟨h1, h2, h3⟩ := h
  obtain ⟨g1, g2, g3⟩ := g
  refine ⟨g1.trans h1, fun j hj => (g2 j hj).trans (h2 j hj), fun c => ?_⟩
  obtain ⟨hi, ho, hh⟩ := h3 c
  obtain ⟨gi, go, gh⟩ := g3 c
  exact ⟨gi.trans hi, go.trans ho, gh.trans hh⟩

theorem InboxKeeps.foldl {α : Type} (f : State → α → State) (hf : ∀ s x, InboxKeeps s (f s x)) (l : List α) :
    ∀ s, InboxKeeps s (l.foldl f s) := by
  induction l with
  | nil => exact InboxKeeps.refl
  | cons x l ih => exact fun s => (hf s x).trans (ih _)

theorem NetStep.inboxKeeps {s t : State} (h : NetStep s t) : InboxKeeps s t :=
  ⟨h.thr, SameLocal.of_mem h.mem, fun c => ⟨h.inbox c, h.overflow c, by rw [h.2 c]⟩⟩

namespace State

theorem putVirt_inboxKeeps (s : State) (c va : Nat) (bs : List Byte) : InboxKeeps s (s.putVirt c va bs) :=
  have h := putVirt_unitWrite s c va bs
  ⟨h.thr, putVirt_sameLocal s c va bs, fun b => ⟨h.inbox b, h.overflow b, h.htab b⟩⟩

/-- A pending queue is rewritten in HBM4E. -/
theorem setPend_inboxKeeps (s : State) (c p : Nat) (rcb : Word) (l : List Msg) : InboxKeeps s (s.setPend c p rcb l) := by
  unfold setPend
  refine InboxKeeps.trans ?_ (InboxKeeps.foldl _ (fun _ _ => putVirt_inboxKeeps _ _ _ _) _ _)
  exact ⟨rfl, fun _ _ => rfl, fun _ => ⟨rfl, rfl, rfl⟩⟩

/-- The return of messages, one after the other. -/
theorem returnMsgs_netStep {α : Type} (f : α → Msg) (code : Nat) (l : List α) (s : State) :
    NetStep s (l.foldl (fun t m => t.returnMsg (f m) code) s) :=
  NetStep.foldl _ (fun _ _ => returnMsg_netStep _ _ _) l s

/-- The core without the waiting messages of its inbox for an EXITED entry, each of them returned (R22). -/
def returnWaiting (s : State) (core hid : Nat) : State :=
  ((s.getCore core).inbox.filter fun m => !m.taken && decide (m.msg.dh = hid)).foldl (fun t m => t.returnMsg m.msg 1)
    (s.modCore core fun k => { k with inbox := k.inbox.filter fun m => m.taken || !decide (m.msg.dh = hid) })

/-- A pending queue without the messages for an EXITED entry, each of them returned (R22). -/
def returnPending (core hid p : Nat) (t : State) (e : Word × List Msg) : State :=
  (e.2.filter (pendFor core hid)).foldl (fun t m => t.returnMsg m 1)
    (t.setPend core p e.1 (e.2.filter fun m => !pendFor core hid m))

theorem returnPending_inboxKeeps (core hid p : Nat) (t : State) (e : Word × List Msg) :
    InboxKeeps t (returnPending core hid p t e) :=
  (setPend_inboxKeeps _ _ _ _ _).trans (returnMsgs_netStep id 1 _ _).inboxKeeps

theorem returnWaiting_inbox (s : State) (core hid : Nat) : ((s.returnWaiting core hid).getCore core).inbox =
    (s.getCore core).inbox.filter fun m => m.taken || !decide (m.msg.dh = hid) := by
  unfold returnWaiting
  rw [(returnMsgs_netStep InMsg.msg 1 _ _).inbox, getCore_modCore_same]

theorem returnWaiting_thr (s : State) (core hid : Nat) : (s.returnWaiting core hid).thr = s.thr :=
  (returnMsgs_netStep InMsg.msg 1 _ _).thr

theorem returnWaiting_mem (s : State) (core hid : Nat) : (s.returnWaiting core hid).mem = s.mem :=
  (returnMsgs_netStep InMsg.msg 1 _ _).mem

theorem returnWaiting_pendQueues (s : State) (core hid p : Nat) : (s.returnWaiting core hid).pendQueues p = s.pendQueues p :=
  have h := returnMsgs_netStep InMsg.msg 1 _ (s.modCore core _)
  pendQueues_congr h.part h.keys h.mem p

end State

theorem exec_handlerEntryChange_exited {s : State} {core hid : Nat} (he : s.entryState core hid = .exited) :
    exec (.handlerEntryChange core hid) s = .next
      (((s.pendQueues (s.partOf (.thr core 0))).filter fun e => e.2.any (State.pendFor core hid)).foldl
        (State.returnPending core hid (s.partOf (.thr core 0))) (s.returnWaiting core hid)) := by
  rw [exec_handlerEntryChange, execHandlerEntryChange, if_pos he, ← s.returnWaiting_pendQueues core hid]
  rfl

/-- HANDLER_ENTRY_CHANGE to EXITED: no message for the entry waits in the inbox any more; where none was pending, memory keeps its
bytes. -/
theorem handlerEntryChange_exited_runs {s : State} {core hid : Nat} (he : s.entryState core hid = .exited) :
    Runs (.handlerEntryChange core hid) s fun t =>
      (∀ e ∈ (t.getCore core).inbox, e.taken = true ∨ e.msg.dh ≠ hid) ∧ t.thr = s.thr ∧
      (s.somePending core hid = false → SameBytes s t) := by
  refine ⟨_, exec_handlerEntryChange_exited he, ?_⟩
  obtain ⟨hthr, -, hcore⟩ := InboxKeeps.foldl _ (State.returnPending_inboxKeeps core hid (s.partOf (.thr core 0)))
    ((s.pendQueues (s.partOf (.thr core 0))).filter fun e => e.2.any (State.pendFor core hid)) (s.returnWaiting core hid)
  refine ⟨fun e hmemb => ?_, ?_, fun hnone => ?_⟩
  · rw [(hcore core).1, State.returnWaiting_inbox] at hmemb
    simpa using (List.mem_filter.1 hmemb).2
  · rw [hthr, State.returnWaiting_thr]
  · have hnil : ((s.pendQueues (s.partOf (.thr core 0))).filter fun e => e.2.any (State.pendFor core hid)) = [] :=
      List.filter_eq_nil_iff.2 (List.any_eq_false.1 hnone)
    rw [hnil]
    exact SameBytes.of_mem (State.returnWaiting_mem _ _ _)

/-- The instant since which a message is ready, 0 while its entry is not (R22, R35). -/
theorem readySince_eq_zero_iff {ready : Bool} {old now : Word} (hnow : now ≠ 0) :
    (if !ready then 0 else if old = 0 then now else old) = 0 ↔ ready = false := by
  cases ready with
  | false => simp
  | true =>
    rw [if_neg (by decide)]
    split
    case isTrue => simpa using hnow
    case isFalse h => simpa using h

/-- HANDLER_ENTRY_CHANGE to another state: the entry's messages are ready where it is BOUND without REMOTE, and held otherwise. -/
theorem handlerEntryChange_held_runs {s : State} {core hid : Nat} (he : s.entryState core hid ≠ .exited) (ht : s.timebase ≠ 0) :
    Runs (.handlerEntryChange core hid) s fun t =>
      (∀ e ∈ (t.getCore core).inbox, e.msg.dh = hid → (e.readySince = 0 ↔ s.entryReady core hid = false)) ∧
      (t.getCore core).inbox.length = (s.getCore core).inbox.length ∧ t.thr = s.thr ∧ SameBytes s t := by
  refine ⟨_, by rw [exec_handlerEntryChange, execHandlerEntryChange, if_neg he], ?_⟩
  refine ⟨?_, ?_, rfl, fun _ => rfl⟩
  · rw [State.getCore_modCore_same]
    intro e hmemb hdh
    obtain ⟨m, -, rfl⟩ := List.mem_map.1 hmemb
    by_cases hm : m.msg.dh = hid
    · rw [if_neg (not_not.2 hm)]
      exact readySince_eq_zero_iff ht
    · rw [if_pos hm] at hdh
      exact absurd hdh hm
  · rw [State.getCore_modCore_same]
    exact List.length_map _

/-! ### Pending messages and deferred ones (R22, R276) -/

/-- What is taken from the pending queues is a message for the entry, and nothing that its delivery rests on changes. -/
theorem State.pendPop_some {s s1 : State} {c h : Nat} {m : Msg} (hp : s.pendPop c h = some (s1, m)) : m.dh = h ∧ InboxKeeps s s1 := by
  unfold State.pendPop at hp
  obtain ⟨e, -, he⟩ := List.exists_of_findSome?_eq_some hp
  obtain ⟨m', hfind, heq⟩ := Option.map_eq_some_iff.1 he
  obtain ⟨rfl, rfl⟩ := Prod.mk.inj heq
  have hfor := List.find?_some hfind
  simp only [State.pendFor, Bool.and_eq_true, decide_eq_true_eq] at hfor
  exact ⟨hfor.2, State.setPend_inboxKeeps _ _ _ _ _⟩

/-- PENDING_DELIVERY: the first pending message for a ready entry enters the free inbox slot with the lowest address. -/
theorem pendingDelivery_runs {s s1 : State} {core hid k : Nat} {m : Msg} (he : s.entryState core hid = .bound)
    (hr : s.entryReady core hid = true) (ha : s.arrivalsHeld core = false) (hp : s.pendPop core hid = some (s1, m))
    (ho : (s.getCore core).overflow = false) (hl : m.loop = false) (hf : s.freeInbox core = some k) :
    Runs (.pendingDelivery core hid) s fun t => t.thr = s.thr ∧
      ∃ e, (t.getCore core).inbox = (s.getCore core).inbox ++ [e] ∧ e.slot = k ∧ e.msg.hdr0 = m.hdr0 ∧ e.taken = false := by
  obtain ⟨rfl, hthr, hlocal, hcore⟩ := State.pendPop_some hp
  obtain ⟨hinbox, hover, hhtab⟩ := hcore core
  have hblock := State.block_congr hlocal hhtab
  have hremote : hRemote (s.handler0 core m.dh) = false := by
    simpa [State.entryReady, he] using hr
  have hentry : s1.byEntry core m false = some (s1.putInbox core k m) :=
    State.byEntry_inbox (by rw [State.entryState_congr hblock]; exact he) (by rw [State.handler0_congr hblock]; exact hremote) hl
      (by rw [hover]; exact ho) (by rw [State.freeInbox_congr hblock hinbox]; exact hf)
  have hexec : exec (.pendingDelivery core m.dh) s = .next (s1.putInbox core k m) := by
    rw [exec_pendingDelivery, execPendingDelivery]
    simp [he, ha, hp, hentry]
  obtain ⟨e, h1, h2, h3, -, -, h6⟩ := State.putInbox_inbox s1 core k m
  exact ⟨_, hexec, by rw [State.putInbox_thr, hthr], e, by rw [h1, hinbox], h2, h3, h6⟩

/-- DEFER_READY: a deferred message whose time has come is ready again, with this instant as its arrival. -/
theorem deferReady_runs {s : State} {core slot : Nat}
    (h : ∃ e ∈ (s.getCore core).inbox, e.slot = slot ∧ ∃ w, e.notBefore = some w ∧ w.toNat ≤ s.timebase.toNat) :
    Runs (.deferReady core slot) s fun t => t.thr = s.thr ∧ SameBytes s t ∧
      ∀ e ∈ (t.getCore core).inbox, e.slot = slot → e.notBefore = none ∧ e.arrival = s.timebase := by
  refine ⟨_, exec_deferReady _ _ _, rfl, fun _ => rfl, ?_⟩
  have hdue : ((s.getCore core).inbox.any fun m =>
      decide (m.slot = slot) && m.notBefore.any fun t => decide (t.toNat ≤ s.timebase.toNat)) = true := by
    obtain ⟨e, hmem, hslot, w, hw, hle⟩ := h
    exact List.any_eq_true.2 ⟨e, hmem, by simp [hslot, hw, hle]⟩
  rw [State.getCore_modCore_same, if_pos hdue]
  intro e hmemb hslot
  obtain ⟨m, -, rfl⟩ := List.mem_map.1 hmemb
  by_cases hm : m.slot = slot
  · rw [if_pos hm]
    exact ⟨rfl, rfl⟩
  · rw [if_neg hm] at hslot
    exact absurd hslot hm

/-- Settles O45: each event of the network by its own lemma above. -/
theorem messageEvents : Obligations.MessageEvents := by
  unfold Obligations.MessageEvents
  intro s u i core hid slot k m
  refine ⟨fun rest line => messageInject_runs, fun buf key rest w => sendBufferGrant_runs, fun hm => ⟨?_, ?_, ?_, ?_, ?_⟩,
    handlerEntryChange_exited_runs, handlerEntryChange_held_runs, fun s1 => pendingDelivery_runs, deferReady_runs⟩
  · exact messageArrival_absent_runs hm
  · exact messageArrival_inbox_runs hm
  · rintro hd hn hk hr hf ha rfl
    exact messageReturnArrival_runs hm hd hn hk hr hf ha
  · exact edgeReturn_runs hm
  · rintro o hd hn hk hr hf ha rfl h7 ho hl hg
    have hruns := replyArrival_runs hm hd hn hk hr hf ha ho hl hg
    refine ⟨fun hfree => ?_, fun w hw hkind haw hland => ?_⟩
    · rw [Thread.replied_of_free (by rw [State.replyHeld_answeredThread, hfree])] at hruns
      exact hruns (.inl hfree)
    · have hreplied := Thread.replied_of_held ((State.wait_answeredThread _ o (m.word 0)).trans hw) hkind haw
      rw [hreplied, Thread.next_landing] at hruns
      exact hruns (.inr ((State.landing_answeredThread _ _ _).trans hland))

end Sys2Proof.Machine

/-! SUPPORT. The execution model (O8, O21, O22, O46, O47, O55, O56). First the reset state and the events of activations. -/

namespace Sys2Proof.Machine

/-- Settles O55: every table of the reset state is empty, so every unit reads as its default. -/
theorem resetState : Obligations.ResetState := by
  unfold Obligations.ResetState
  intro a r i c d p
  have hx : ({} : Thread).getX r = 0 := ite_self _
  refine ⟨rfl, hx, ?_⟩
  and_intros <;> rfl

/-! ### The events of activations -/

/-- A T6_RLD request, from core 0 to core 0, that reads no register. -/
def rldRequest : Msg := { hdr0 := mkHdr0 0 0 0 0 0 3 0 8 }

/-- A message whose clock has an entry for die 0. -/
def clockedMsg : Msg := { clock := [(0, 1)] }

/-- Core 0 with a T6_RLD request before a clocked message in T6's queue, on a die that wrote in its last write epoch. -/
def lastEpochState : State :=
  { core := [(0, { started := true, t6q := [rldRequest, clockedMsg] })]
    die := [(0, { wrote := true, w := 0xFFFFFFFF })] }

/-- Refutes O46. The reply to a T6_RLD is a release, and where it ends a die's write epoch with the counter at its last value, the epoch
change (R233) takes that die's entry out of every clock, those of the messages in T6's queue among them: the rest of the queue is then
not what it was. -/
theorem not_activationEvents : ¬ Obligations.ActivationEvents := by
  unfold Obligations.ActivationEvents
  intro h
  obtain ⟨-, -, -, -, -, h6, -⟩ := h lastEpochState 0 0 0 rldRequest [clockedMsg]
  obtain ⟨-, hserve⟩ := h6 (by decide +kernel) (by decide +kernel) (by decide)
  obtain ⟨hrld, -⟩ := hserve (by decide +kernel) (by decide +kernel) (by decide +kernel) (by decide +kernel) (by decide +kernel)
    (by decide +kernel) (by decide +kernel)
  obtain ⟨t, hexec, -, ⟨hq, -⟩, -⟩ := hrld (by decide +kernel)
  have ht : Out.stateOr (exec (.rldServe 0) lastEpochState) lastEpochState = t := by rw [hexec]; rfl
  rw [← ht] at hq
  exact absurd hq (by decide +kernel)

end Sys2Proof.Machine

namespace Sys2Proof.Machine

/-! ### Fetching from the local window (R45, R47, R203, R211) -/

/-- A location of an agent's local memory lies behind those of the physical addresses (log entry 7). -/
theorem Agent.le_localLoc (a : Agent) (x : Nat) : 2 ^ 48 ≤ a.localLoc x := by
  cases a with
  | thr c t => show 2 ^ 48 ≤ ulmLoc c x; unfold ulmLoc; omega
  | seq n q => show 2 ^ 48 ≤ seqLoc n q x; unfold seqLoc; omega

/-- A local memory begins at a sector boundary. -/
theorem Agent.localLoc_sector (a : Agent) (x : Nat) : alignDown 32 (a.localLoc x) + x % 32 = a.localLoc x := by
  cases a with
  | thr c t => show alignDown 32 (ulmLoc c x) + x % 32 = ulmLoc c x; unfold ulmLoc alignDown; omega
  | seq n q => show alignDown 32 (seqLoc n q x) + x % 32 = seqLoc n q x; unfold seqLoc alignDown; omega

theorem placeOf_local {l : Nat} (h : 2 ^ 48 ≤ l) : placeOf l = .ulm := by
  unfold placeOf
  rw [if_neg (by omega), if_neg (by omega), if_neg (by omega), if_neg (by omega), if_pos h]

theorem homeDie_local {l : Nat} (h : 2 ^ 48 ≤ l) : homeDie l = none := by
  unfold homeDie
  rw [placeOf_local h]

theorem Agent.le_alignDown_localLoc (a : Agent) (x : Nat) : 2 ^ 48 ≤ alignDown 32 (a.localLoc x) := by
  have h := a.le_localLoc x
  unfold alignDown
  omega

theorem Agent.window_le (a : Agent) : a.window ≤ 0x100000 := by
  cases a with
  | thr c t => exact Nat.le_refl _
  | seq n q => show 0x20000 ≤ 0x100000; decide

/-- What a fetch may change: the fetch buffer of its agent and the I-caches of the cores (R199). -/
def Fetched (a : Agent) (s t : State) : Prop :=
  t = { s with thr := t.thr, core := t.core } ∧
  t.thread a = { s.thread a with fbuf := (t.thread a).fbuf, fbufLoc := (t.thread a).fbufLoc } ∧
  ∀ c, t.getCore c = { s.getCore c with icache := (t.getCore c).icache }

namespace State

theorem fetchPlace_local {s : State} {a : Agent} {va : Word} (h : va.toNat + 2 ≤ a.window) :
    s.fetchPlace a va = .ok { loc := a.localLoc va.toNat } := by
  have hw := a.window_le
  unfold fetchPlace
  rw [if_neg (by omega), if_pos h]

theorem readSector_local {s : State} {a : Agent} {acc : Acc} {va : Word} (hl : 2 ^ 48 ≤ alignDown 32 acc.loc) (hk : acc.key = 0)
    (hp : s.poisoned (alignDown 32 acc.loc) 32 = false) :
    s.readSector a acc va = .ok (Memory.readN s.mem (alignDown 32 acc.loc) 32) := by
  simp [readSector, hp, placeOf_local hl, plain, hk]

theorem readFrom_local {s : State} {d l n : Nat} (hl : 2 ^ 48 ≤ l) : s.readFrom d l n = s := by
  simp [readFrom, readAtHome, ackAt, homeDie_local hl]

/-- A sector of a local memory that no I-cache holds is filled from memory as it stands (R199, R212). -/
theorem sectorFor_local {s : State} {a : Agent} {acc : Acc} {va : Word} (hl : 2 ^ 48 ≤ alignDown 32 acc.loc) (hk : acc.key = 0)
    (hp : s.poisoned (alignDown 32 acc.loc) 32 = false) (hb : s.blocked (alignDown 32 acc.loc) 32 false = false)
    (hi : ∀ c k, a = .thr c k → Tbl.get ({} : ICLine) (s.getCore c).icache (iKey acc.loc 0) = {}) :
    ∃ t v, s.sectorFor a acc va false = .ok (t, v) ∧ v.data = Memory.readN s.mem (alignDown 32 acc.loc) 32 ∧ Fetched a s t := by
  unfold sectorFor
  rw [if_neg (by simp [hb]), readSector_local hl hk hp]
  cases a with
  | seq n q => exact ⟨s, _, rfl, rfl, rfl, rfl, fun _ => rfl⟩
  | thr c k =>
    dsimp only
    rw [hk, hi c k rfl, readFrom_local hl]
    refine ⟨_, _, rfl, rfl, rfl, rfl, fun b => ?_⟩
    rw [getCore_modCore]
    split
    case isTrue hbc => rw [hbc]
    case isFalse => rfl

/-- An agent whose pc lies in its local window fills its fetch buffer with the block of the pc. -/
theorem fillBuf_local {s : State} {a : Agent} {va : Word} (hw : va.toNat + 2 ≤ a.window)
    (hp : s.poisoned (alignDown 32 (a.localLoc va.toNat)) 32 = false)
    (hb : s.blocked (alignDown 32 (a.localLoc va.toNat)) 32 false = false)
    (hi : ∀ c k, a = .thr c k → Tbl.get ({} : ICLine) (s.getCore c).icache (iKey (a.localLoc va.toNat) 0) = {}) :
    ∃ t v, s.fillBuf a va false = .ok (t, v) ∧ v.data = Memory.readN s.mem (alignDown 32 (a.localLoc va.toNat)) 32 ∧
      Fetched a s t := by
  have hwin := a.window_le
  obtain ⟨t, v, hsec, hdata, h1, h2, h3⟩ := sectorFor_local (acc := { loc := a.localLoc va.toNat }) (va := va)
    (a.le_alignDown_localLoc _) rfl hp hb hi
  unfold fillBuf
  rw [fetchPlace_local hw, show ∀ f : Acc → Res (State × ICVer), (Except.ok _ >>= f) = f _ from fun _ => rfl,
    useRtb_low _ _ _ _ (by omega), hsec]
  refine ⟨_, _, rfl, hdata, ?_, ?_, h3⟩
  · rw [h1]
    rfl
  · rw [thread_modThread_same, h2]

end State

/-- Bytes of a sector as a fetch picks a halfword from them. -/
theorem halfAt_readN (m : List Host.Cell) (l o : Nat) (h : o + 2 ≤ 32) :
    halfAt (Memory.readN m l 32) o = halfOfBytes (Memory.read m (l + o)) (Memory.read m (l + (o + 1))) := by
  have hget : ∀ i, i < 32 → (Memory.readN m l 32)[i]? = some (Memory.read m (l + i)) := fun i hi => by
    simp [Memory.readN, hi]
  unfold halfAt
  rw [hget _ (by omega), hget _ (by omega)]
  rfl

/-- A halfword of a sector, by the two bytes that stand at its location. -/
theorem halfAt_of_bytes {m : List Host.Cell} {l o : Nat} {h : BitVec 16} (ho : o + 2 ≤ 32)
    (h0 : Memory.read m (l + o) = h.extractLsb' 0 8) (h1 : Memory.read m (l + o + 1) = h.extractLsb' 8 8) :
    halfAt (Memory.readN m l 32) o = h := by
  rw [halfAt_readN m l o ho, h0, ← Nat.add_assoc, h1, halfOfBytes,
    BitVec.extractLsb'_append_extractLsb'_eq_extractLsb' (by rfl)]
  exact BitVec.extractLsb'_eq_self

theorem read_of_readN {m : List Host.Cell} {l n i : Nat} {bs : List Byte} (h : Memory.readN m l n = bs) (hi : i < n) :
    bs[i]? = some (Memory.read m (l + i)) := by
  rw [← h]
  simp [Memory.readN, hi]

/-- A byte of a halfword of a word. -/
theorem extractByte_of_half (w : BitVec 32) (i j : Nat) (h : j + 8 ≤ 16) :
    w.extractLsb' (i + j) 8 = (w.extractLsb' i 16).extractLsb' j 8 := by
  ext k hk
  simp [show j + k < 16 by omega, Nat.add_assoc]

/-- A halfword of the sector of a pc in a local window, by the two bytes that stand `j` bytes behind the pc. -/
theorem Agent.halfAt_localLoc {a : Agent} {m : List Host.Cell} {p : Nat} {bs : List Byte} {n : Nat} (j : Nat) {h : BitVec 16}
    (hm : Memory.readN m (a.localLoc p) n = bs) (hj : p % 32 + j + 2 ≤ 32) (hn : j + 2 ≤ n)
    (h0 : bs[j]? = some (h.extractLsb' 0 8)) (h1 : bs[j + 1]? = some (h.extractLsb' 8 8)) :
    halfAt (Memory.readN m (alignDown 32 (a.localLoc p)) 32) (p % 32 + j) = h := by
  have hread : ∀ i b, i < n → bs[i]? = some b → Memory.read m (a.localLoc p + i) = b := fun i b hlt hb =>
    Option.some.inj ((read_of_readN hm hlt).symm.trans hb)
  apply halfAt_of_bytes hj
  · rw [← Nat.add_assoc, a.localLoc_sector]
    exact hread j _ (by omega) h0
  · rw [← Nat.add_assoc, a.localLoc_sector]
    exact hread (j + 1) _ (by omega) h1

section
variable {s : State} {a : Agent} (hbuf : (s.thread a).fbuf = none) (hstale : (s.thread a).fbufStale = false)
  (hpc : (s.thread a).pc.toNat % 2 = 0)
  (hb : s.blocked (alignDown 32 (a.localLoc (s.thread a).pc.toNat)) 32 false = false)
  (hp : s.poisoned (alignDown 32 (a.localLoc (s.thread a).pc.toNat)) 32 = false)
  (hi : ∀ c k, a = .thr c k → Tbl.get ({} : ICLine) (s.getCore c).icache (iKey (a.localLoc (s.thread a).pc.toNat) 0) = {})
include hbuf hstale hpc hb hp hi

/-- A fetch at a pc in the local window, with no block in the fetch buffer: its halfwords come from memory as it stands. -/
theorem State.fetch_local (hw : (s.thread a).pc.toNat + 2 ≤ a.window) :
    ∃ t, Fetched a s t ∧
      let h := halfAt (Memory.readN s.mem (alignDown 32 (a.localLoc (s.thread a).pc.toNat)) 32) ((s.thread a).pc.toNat % 32)
      (isLong h = false → s.fetch a = .ok (t, h, none)) ∧
      (isLong h = true → (s.thread a).pc.toNat % 32 ≠ 30 → s.fetch a = .ok (t, h, some
        (halfAt (Memory.readN s.mem (alignDown 32 (a.localLoc (s.thread a).pc.toNat)) 32) ((s.thread a).pc.toNat % 32 + 2)))) := by
  obtain ⟨t, v, hfill, hdata, hfetched⟩ := State.fillBuf_local hw hp hb hi
  have hblock : s.fetchBlock a (s.thread a).pc = .ok (t, v.data) := by
    simp only [State.fetchBlock, State.bufAt, hbuf, Option.bind_none, hfill]
    rfl
  refine ⟨t, hfetched, fun hlong => ?_, fun hlong h30 => ?_⟩
  · simp only [State.fetch, hstale, check, hpc, hblock, hdata, Bool.false_eq_true, if_false, if_true, decide_true, bind, Except.bind,
      hlong, Bool.not_false]
  · simp only [State.fetch, hstale, check, hpc, hblock, hdata, Bool.false_eq_true, if_false, if_true, decide_true, bind, Except.bind,
      hlong, Bool.not_true, h30, ne_eq, not_false_eq_true]

/-- A long instruction that does not reach past its sector. -/
theorem State.fetch_long {w : BitVec 32} (h28 : (s.thread a).pc.toNat % 32 ≤ 28) (hw : (s.thread a).pc.toNat + 4 ≤ a.window)
    (hlong : isLong (w.extractLsb' 16 16) = true)
    (hm : Memory.readN s.mem (a.localLoc (s.thread a).pc.toNat) 4 = bytesOfWord w) :
    ∃ t, Fetched a s t ∧ s.fetch a = .ok (t, w.extractLsb' 16 16, some (w.extractLsb' 0 16)) := by
  obtain ⟨t, hfetched, -, hfetch⟩ := State.fetch_local hbuf hstale hpc hb hp hi (by omega)
  have hhi := Agent.halfAt_localLoc (h := w.extractLsb' 16 16) 0 hm (by omega) (by omega)
    (congrArg some (extractByte_of_half w 16 0 (by omega))) (congrArg some (extractByte_of_half w 16 8 (by omega)))
  have hlo := Agent.halfAt_localLoc (h := w.extractLsb' 0 16) 2 hm (by omega) (by omega)
    (congrArg some (extractByte_of_half w 0 0 (by omega))) (congrArg some (extractByte_of_half w 0 8 (by omega)))
  rw [Nat.add_zero] at hhi
  rw [hhi, hlo] at hfetch
  exact ⟨t, hfetched, hfetch hlong (by omega)⟩

/-- A compact instruction. -/
theorem State.fetch_compact {h : BitVec 16} (hw : (s.thread a).pc.toNat + 2 ≤ a.window) (hlong : isLong h = false)
    (hm : Memory.readN s.mem (a.localLoc (s.thread a).pc.toNat) 2 = bytesOfHalf h) :
    ∃ t, Fetched a s t ∧ s.fetch a = .ok (t, h, none) := by
  obtain ⟨t, hfetched, hfetch, -⟩ := State.fetch_local hbuf hstale hpc hb hp hi hw
  have hhalf := Agent.halfAt_localLoc (h := h) 0 hm (by omega) (by omega) rfl rfl
  rw [Nat.add_zero] at hhalf
  rw [hhalf] at hfetch
  exact ⟨t, hfetched, hfetch hlong⟩

end

/-! ### A step (R37, R45, R112) -/

theorem decoded_long {w : BitVec 32} {i : Instr} (h : decode32 w = some i) :
    decoded (w.extractLsb' 16 16) (some (w.extractLsb' 0 16)) = i := by
  have hw : w.extractLsb' 16 16 ++ w.extractLsb' 0 16 = w :=
    (BitVec.extractLsb'_append_extractLsb'_eq_extractLsb' (by rfl)).trans BitVec.extractLsb'_eq_self
  show (decode32 (w.extractLsb' 16 16 ++ w.extractLsb' 0 16)).getD _ = i
  rw [hw, h]
  rfl

theorem decoded_compact {c : BitVec 16} {i : Instr} (h : decode16 c = some i) : decoded c none = i := by
  show (decode16 c).getD _ = i
  rw [h]
  rfl

namespace State

@[simp] theorem select_cur (s : State) (a : Agent) : (s.select a).cur = a := by
  unfold select
  dsimp only
  split <;> rfl

/-- Whether the scoreboard holds an agent back does not depend on its fetch buffer. -/
theorem interlocked_fetched {a : Agent} {s t : State} (h : Fetched a s t) (i : Instr) : t.interlocked a i = s.interlocked a i := by
  obtain ⟨-, hthr, -⟩ := h
  unfold interlocked
  rw [hthr]
  rfl

end State

theorem Fetched.cur {a : Agent} {s t : State} (h : Fetched a s t) : t.cur = s.cur := by
  rw [h.1]

/-- An issue that has fetched executes what it fetched. -/
theorem issue_of_fetch {s t : State} {a : Agent} {i : Instr} {h0 : BitVec 16} {h1 : Option (BitVec 16)}
    (hpend : ((s.select a).thread a).pendTrap = []) (hfetch : (s.select a).fetch a = .ok (t, h0, h1))
    (hdec : decoded h0 h1 = i) : issue a s = execIssued i t := by
  simp only [issue, hpend, hfetch, hdec, List.isEmpty_nil, Bool.not_true, Bool.false_eq_true, if_false]

/-- A turn of the agenda that an agent may use, and one of an empty agenda that is an agent's, are its issue. -/
theorem step_of_turn {s : State} {a : Agent} {rest : List Turn}
    (h : let s1 : State := { s with freeCtr := s.freeCtr + 1, agenda := rest }
      (s.agenda = .issue a :: rest ∧ s1.mayIssue a = true) ∨ (s.agenda = [] ∧ rest = [] ∧ s1.nextIssuer = some a)) :
    step s = issue a { s with freeCtr := s.freeCtr + 1, agenda := rest } := by
  obtain ⟨hag, hmay⟩ | ⟨hag, rfl, hnext⟩ := h
  · simp only [step, hag, hmay, if_true]
  · rw [← hag] at hnext ⊢
    simp only [step, hag]
    simp only [hag] at hnext
    rw [hnext]

/-- Settles O56: the fetch of a long or a compact instruction from the local window, then `issue` and `step`. -/
theorem stepRunsDecoded : Obligations.StepRunsDecoded := by
  unfold Obligations.StepRunsDecoded
  intro s a rest i s1 s0 t loc runs
  refine ⟨fun hag => by simp only [step, hag]; rfl, fun hturn hpend hbuf hstale hpc hlock hb hp hi => ?_⟩
  have hruns : ∀ s2 h0 h1, Fetched a s0 s2 → s0.fetch a = .ok (s2, h0, h1) → decoded h0 h1 = i → runs := by
    intro s2 h0 h1 hf hfetch hdec
    have hcur : s2.cur = a := hf.cur.trans (State.select_cur s1 a)
    have hfree : ¬ s2.interlocked s2.cur i = true := by
      rw [hcur, State.interlocked_fetched hf, hlock]
      exact Bool.false_ne_true
    have hstep : step s = execIssued i s2 := (step_of_turn hturn).trans (issue_of_fetch hpend hfetch hdec)
    refine ⟨s2, hf.1, hf.2.1, hf.2.2, hcur, hstep.trans ((if_neg hfree).trans ?_)⟩
    cases exec i s2 with
    | next u => exact congrArg (fun b => Host.Outcome.next (s2.settleIssue b i u)) hcur
    | fault f => rfl
    | refused r => rfl
  constructor
  · intro w h28 hw hlong hm hdec
    obtain ⟨s2, hf, hfetch⟩ := State.fetch_long hbuf hstale hpc hb hp hi h28 hw hlong hm
    exact hruns s2 _ _ hf hfetch (decoded_long hdec)
  · intro h hw hlong hm hdec
    obtain ⟨s2, hf, hfetch⟩ := State.fetch_compact hbuf hstale hpc hb hp hi hw hlong hm
    exact hruns s2 _ _ hf hfetch (decoded_compact hdec)

end Sys2Proof.Machine

namespace Sys2Proof.Machine
/-! ### Fields of a word -/

/-- Each bit of a word with a field replaced. -/
theorem getLsbD_setField {n : Nat} (w : BitVec n) (lo width v i : Nat) (hi : i < n) :
    (setField w lo width v).getLsbD i = if lo ≤ i ∧ i < lo + width then v.testBit (i - lo) else w.getLsbD i := by
  simp only [setField, BitVec.getLsbD_or, BitVec.getLsbD_and, BitVec.getLsbD_not, BitVec.getLsbD_ofNat, Nat.testBit_mul_two_pow,
    Nat.testBit_two_pow_sub_one, Nat.testBit_mod_two_pow, hi, decide_true, Bool.true_and]
  by_cases hlo : lo ≤ i
  · by_cases hw : i < lo + width
    · simp [hlo, hw, show i - lo < width by omega]
    · simp [hlo, hw, show ¬ i - lo < width by omega]
  · simp [hlo]

/-- A field outside the one that was replaced. -/
theorem field_setField_other {n : Nat} (w : BitVec n) {lo width v l k : Nat} (h : l + k ≤ lo ∨ lo + width ≤ l) :
    field (setField w lo width v) l k = field w l k := by
  refine congrArg BitVec.toNat (BitVec.eq_of_getLsbD_eq fun i hi => ?_)
  simp only [BitVec.getLsbD_extractLsb', hi, decide_true, Bool.true_and]
  by_cases hn : l + i < n
  · rw [getLsbD_setField _ _ _ _ _ hn, if_neg (by omega)]
  · rw [BitVec.getLsbD_of_ge _ _ (by omega), BitVec.getLsbD_of_ge _ _ (by omega)]

/-- A field just written. -/
theorem field_setField_same {n : Nat} (w : BitVec n) {lo width v : Nat} (hn : lo + width ≤ n) (hv : v < 2 ^ width) :
    field (setField w lo width v) lo width = v := by
  have h : (setField w lo width v).extractLsb' lo width = BitVec.ofNat width v := BitVec.eq_of_getLsbD_eq fun i hi => by
    rw [BitVec.getLsbD_extractLsb', getLsbD_setField _ _ _ _ _ (by omega), if_pos (by omega), BitVec.getLsbD_ofNat]
    simp [hi]
  rw [field, h, BitVec.toNat_ofNat, Nat.mod_eq_of_lt hv]

/-- A bit outside the field that was replaced. -/
theorem bitAt_setField_other {n : Nat} (w : BitVec n) {lo width v i : Nat} (h : i < lo ∨ lo + width ≤ i) :
    bitAt (setField w lo width v) i = bitAt w i := by
  unfold bitAt
  by_cases hn : i < n
  · rw [getLsbD_setField _ _ _ _ _ hn, if_neg (by omega)]
  · rw [BitVec.getLsbD_of_ge _ _ (by omega), BitVec.getLsbD_of_ge _ _ (by omega)]

/-- A field that a mask does not reach. -/
theorem field_or_other {n : Nat} (w m : BitVec n) {l k : Nat} (h : m.extractLsb' l k = 0) : field (w ||| m) l k = field w l k := by
  unfold field
  rw [BitVec.extractLsb'_or, h]
  simp

end Sys2Proof.Machine

/-! ### What a release, a store and a count leave of threads and cores -/

namespace Sys2Proof.Machine

/-- A wait without the marks that what it waits for sets on it (R231, R258). -/
def Wait.unmarked (w : Wait) : Wait := { w with released := false, doomed := false, clock := [] }

/-- A thread without its clocks and the marks of its wait (R226, R231, R258). -/
def Thread.unmarked (t : Thread) : Thread := { t with seen := [], rel := [], wait := t.wait.map Wait.unmarked }

/-- A core without its messages, its caches, its counts and accounts, and its stage. -/
def Core.quiet (k : Core) : Core :=
  { k with inbox := [], t6q := [], sendBuf := [], niWait := [], icache := [], epoch := 0, l1 := [], pushQ := [], rtb := [], pm := []
           fixed := [], delay := [], stageNext := none, stageMoved := none }

/-- What a release, a store, a counter and the NI leave: who executes, the number of contexts on their way, every thread but for its
clocks and the marks of its wait, and every core but for its messages, caches and
counts. -/
structure KeepsThreads (s t : State) : Prop where
  cur : t.cur = s.cur
  migrants : t.migrants.length = s.migrants.length
  thread : ∀ a, (t.thread a).unmarked = (s.thread a).unmarked
  core : ∀ c, (t.getCore c).quiet = (s.getCore c).quiet

namespace KeepsThreads

theorem refl (s : State) : KeepsThreads s s := ⟨rfl, rfl, fun _ => rfl, fun _ => rfl⟩

theorem trans {s t u : State} (h : KeepsThreads s t) (g : KeepsThreads t u) : KeepsThreads s u :=
  ⟨g.cur.trans h.cur, g.migrants.trans h.migrants, fun a => (g.thread a).trans (h.thread a), fun c => (g.core c).trans (h.core c)⟩

theorem foldl {α : Type} {f : State → α → State} (hf : ∀ s x, KeepsThreads s (f s x)) (l : List α) :
    ∀ s, KeepsThreads s (l.foldl f s) := by
  induction l with
  | nil => exact refl
  | cons x l ih => exact fun s => (hf s x).trans (ih _)

/-- Nothing but the cores changes, and they in their messages, caches and counts alone. -/
theorem of_core {s t : State} (hcur : t.cur = s.cur) (hm : t.migrants = s.migrants) (ht : t.thr = s.thr)
    (hc : ∀ c, (t.getCore c).quiet = (s.getCore c).quiet) : KeepsThreads s t :=
  ⟨hcur, congrArg _ hm, fun a => by rw [State.thread, State.thread, ht], hc⟩

theorem of_eq {s t : State} (hcur : t.cur = s.cur) (hm : t.migrants = s.migrants) (ht : t.thr = s.thr) (hc : t.core = s.core) :
    KeepsThreads s t :=
  of_core hcur hm ht fun c => by rw [State.getCore, State.getCore, hc]

theorem modCore (s : State) (c : Nat) (f : Core → Core) (hf : ∀ k, (f k).quiet = k.quiet := by intro; rfl) : KeepsThreads s (s.modCore c f) :=
  of_core rfl rfl rfl fun b => by
    rw [State.getCore_modCore]
    split
    case isTrue h => rw [hf, h]
    case isFalse => rfl

theorem modThread (s : State) (a : Agent) (f : Thread → Thread) (hf : ∀ t, (f t).unmarked = t.unmarked := by intro; rfl) :
    KeepsThreads s (s.modThread a f) := by
  refine ⟨rfl, rfl, fun b => ?_, fun _ => rfl⟩
  by_cases h : b.key = a.key
  · rw [State.thread, h]
    exact (congrArg Thread.unmarked (State.thread_modThread_same s a f)).trans ((hf _).trans (by rw [State.thread, State.thread, h]))
  · rw [State.thread_modThread_other _ _ h]

/-- Every thread is changed, in its clocks and the marks of its wait alone. -/
theorem mapThreads (s : State) (g : Nat × Thread → Nat × Thread) (hg : ∀ e, (g e).1 = e.1 ∧ (g e).2.unmarked = e.2.unmarked) :
    KeepsThreads s { s with thr := s.thr.map g } :=
  ⟨rfl, rfl, fun _ => Tbl.get_map_proj ({} : Thread) Thread.unmarked g hg _ _, fun _ => rfl⟩

theorem of_unitWrite {s t : State} (h : UnitWrite s t) : KeepsThreads s t :=
  of_core (by rw [h.1]) (by rw [h.1]) h.thr fun c => by rw [h.2.1 c]; rfl

theorem of_cachesOnly {s t : State} (h : CachesOnly s t) : KeepsThreads s t := by
  obtain ⟨heq, hthr, hcore, -⟩ := h
  exact ⟨by rw [heq], by rw [heq], fun a => by rw [hthr a]; rfl, fun c => by rw [hcore c]; rfl⟩

end KeepsThreads

namespace State

theorem modDie_keepsThreads (s : State) (d : Nat) (f : Die → Die) : KeepsThreads s (s.modDie d f) := .of_eq rfl rfl rfl rfl

theorem dropCopies_keepsThreads (s : State) (h : Nat) : KeepsThreads s (s.dropCopies h) :=
  .of_core rfl rfl rfl fun c => by
    refine Tbl.get_map_proj ({} : Core) Core.quiet _ (fun e => ?_) _ c
    split <;> exact ⟨rfl, rfl⟩

theorem epochChange_keepsThreads (s : State) (h : Nat) : KeepsThreads s (s.epochChange h) := by
  refine (dropCopies_keepsThreads s h).trans ⟨rfl, List.length_map _, fun a => ?_, fun c => ?_⟩
  · refine Tbl.get_map_proj ({} : Thread) Thread.unmarked _ (fun e => ?_) _ _
    obtain ⟨n, t⟩ := e
    refine ⟨rfl, ?_⟩
    unfold Thread.unmarked
    cases ht : t.wait with
    | none => simp only [ht, Option.map_none]
    | some w => simp only [ht, Option.map_some, Wait.unmarked]
  · refine Tbl.get_map_proj ({} : Core) Core.quiet _ (fun e => ?_) _ c
    exact ⟨rfl, rfl⟩

theorem countWrites_keepsThreads (s : State) (h : Nat) : KeepsThreads s (s.countWrites h) := by
  unfold countWrites
  split
  · split
    · exact epochChange_keepsThreads _ _
    · exact modDie_keepsThreads _ _ _
  · exact .refl s

theorem mergeClock_keepsThreads (s : State) (d : Nat) (k : Clock) : KeepsThreads s (s.mergeClock d k) := by
  unfold mergeClock
  split
  · exact .refl s
  · exact modDie_keepsThreads _ _ _

theorem releaseOn_keepsThreads (s : State) (d : Nat) : KeepsThreads s (s.releaseOn d) :=
  ((countWrites_keepsThreads s 0).trans (countWrites_keepsThreads _ 1)).trans (mergeClock_keepsThreads _ _ _)

theorem release_keepsThreads (s : State) (a : Agent) : KeepsThreads s (s.release a) :=
  (releaseOn_keepsThreads s a.dieNo).trans (.modThread _ a fun t => { t with rel := (s.releaseOn a.dieNo).vcOf a.dieNo })

theorem setSendQ_keepsThreads (s : State) (u : Nat) (b : List Msg) (w : List (Nat × Msg)) : KeepsThreads s (s.setSendQ u b w) := by
  unfold setSendQ
  split
  · exact .modCore _ _ _
  · exact .of_eq rfl rfl rfl rfl

theorem placeSend_keepsThreads (s : State) (u key : Nat) (m : Msg) : KeepsThreads s (s.placeSend u key m) := by
  unfold placeSend
  refine KeepsThreads.trans ?_ (setSendQ_keepsThreads _ _ _ _)
  split
  · exact release_keepsThreads _ _
  · exact releaseOn_keepsThreads _ _

theorem requestSend_keepsThreads (s : State) (u key : Nat) (m : Msg) : KeepsThreads s (s.requestSend u key m) := by
  unfold requestSend
  dsimp only
  split
  · exact placeSend_keepsThreads _ _ _ _
  · exact setSendQ_keepsThreads _ _ _ _

theorem countEvents_keepsThreads (s : State) (c t ev n : Nat) : KeepsThreads s (s.countEvents c t ev n) := by
  unfold countEvents
  split
  · exact .refl s
  · exact .modCore _ _ _

theorem countMisses_keepsThreads (s : State) (a : Agent) (xs : List Nat) : KeepsThreads s (s.countMisses a xs) := by
  unfold countMisses
  split
  · exact .refl s
  · exact countEvents_keepsThreads _ _ _ _ _

/-! Counters and barriers (R368 to R371). -/

theorem releaseWaiters_keepsThreads (s : State) (p : WaitKind → Bool) (k : Clock) : KeepsThreads s (s.releaseWaiters p k) := by
  refine .mapThreads s _ fun e => ?_
  split
  case h_1 w hw =>
    split
    · exact ⟨rfl, by simp only [Thread.unmarked, hw]; rfl⟩
    · exact ⟨rfl, rfl⟩
  case h_2 => exact ⟨rfl, rfl⟩

theorem doomWaiters_keepsThreads (s : State) (p : WaitKind → Bool) : KeepsThreads s (s.doomWaiters p) := by
  refine .mapThreads s _ fun e => ?_
  split
  case h_1 w hw =>
    split
    · exact ⟨rfl, by simp only [Thread.unmarked, hw]; rfl⟩
    · exact ⟨rfl, rfl⟩
  case h_2 => exact ⟨rfl, rfl⟩

theorem onPackets_keepsThreads (s : State) (d i : Nat) (f : QEntry → QEntry) : KeepsThreads s (s.onPackets d i f) :=
  .of_eq rfl rfl rfl rfl

theorem releaseDc_keepsThreads (s : State) (d i : Nat) : KeepsThreads s (s.releaseDc d i) :=
  (releaseWaiters_keepsThreads _ _ _).trans (onPackets_keepsThreads _ _ _ _)

theorem poisonDc_keepsThreads (s : State) (d i : Nat) : KeepsThreads s (s.poisonDc d i) := by
  unfold poisonDc
  split
  · exact .refl s
  · exact (((modDie_keepsThreads _ _ _).trans (modDie_keepsThreads _ _ _)).trans (doomWaiters_keepsThreads _ _)).trans
      (onPackets_keepsThreads _ _ _ _)

theorem poisonBar_keepsThreads (s : State) (d i : Nat) : KeepsThreads s (s.poisonBar d i) := by
  unfold poisonBar
  split
  · exact .refl s
  · exact ((modDie_keepsThreads _ _ _).trans (modDie_keepsThreads _ _ _)).trans (doomWaiters_keepsThreads _ _)

theorem setDc_keepsThreads (s : State) (d i : Nat) (c : DepCtr) : KeepsThreads s (s.setDc d i c) := modDie_keepsThreads _ _ _

theorem setBar_keepsThreads (s : State) (d i : Nat) (b : Barrier) : KeepsThreads s (s.setBar d i b) := modDie_keepsThreads _ _ _

theorem decDc_keepsThreads (s : State) (d i : Nat) (amount : Word) (k : Clock) : KeepsThreads s (s.decDc d i amount k).1 := by
  have hmerged := (mergeClock_keepsThreads s d k).trans (setDc_keepsThreads _ d i { s.dc d i with clock := joinClock (s.dc d i).clock k })
  unfold decDc
  dsimp only
  split
  · exact hmerged
  split
  · exact hmerged.trans (poisonDc_keepsThreads _ _ _)
  split
  · exact hmerged.trans ((setDc_keepsThreads _ _ _ _).trans (releaseDc_keepsThreads _ _ _))
  split
  · exact hmerged.trans ((setDc_keepsThreads _ _ _ _).trans (releaseDc_keepsThreads _ _ _))
  · exact hmerged.trans (setDc_keepsThreads _ _ _ _)

theorem arriveBar_keepsThreads (s : State) (d i : Nat) (k : Clock) : KeepsThreads s (s.arriveBar d i k) := by
  have hmerged := (mergeClock_keepsThreads s d k).trans (setBar_keepsThreads _ d i { s.bar d i with clock := joinClock (s.bar d i).clock k })
  unfold arriveBar
  dsimp only
  split
  · exact hmerged
  split
  · exact hmerged.trans (poisonBar_keepsThreads _ _ _)
  split
  · exact hmerged.trans ((setBar_keepsThreads _ _ _ _).trans (releaseWaiters_keepsThreads _ _ _))
  · exact hmerged.trans (setBar_keepsThreads _ _ _ _)

theorem decDcBy_keepsThreads (s : State) (a : Agent) (d i : Nat) (amount : Word) : KeepsThreads s (s.decDcBy a d i amount).1 :=
  (release_keepsThreads s a).trans (decDc_keepsThreads _ _ _ _ _)

theorem decDcOn_keepsThreads (s : State) (e d i : Nat) (amount : Word) : KeepsThreads s (s.decDcOn e d i amount) :=
  (releaseOn_keepsThreads s e).trans (decDc_keepsThreads _ _ _ _ _)

theorem arriveBarBy_keepsThreads (s : State) (a : Agent) (d i : Nat) : KeepsThreads s (s.arriveBarBy a d i) :=
  (release_keepsThreads s a).trans (arriveBar_keepsThreads _ _ _ _)

/-! Stores (R24, R121). -/

theorem carryFrom_keepsThreads (s : State) (k : Clock) (l n : Nat) : KeepsThreads s (s.carryFrom k l n) := by
  unfold carryFrom
  split
  · exact .refl s
  split
  · exact .refl s
  · exact (KeepsThreads.of_unitWrite (carry_unitWrite _ _ _ _)).trans (mergeClock_keepsThreads _ _ _)

theorem writeSector_keepsThreads (h c : Nat) (old s : State) (x : Nat) : KeepsThreads s (writeSector h c old s x) := by
  have hput : ∀ (u : State) d x v, KeepsThreads u (u.putL1 d x v) := fun u d x v => by
    unfold putL1
    exact (KeepsThreads.modCore _ _ _).trans (.foldl (fun _ _ => modDie_keepsThreads _ _ _) _ _)
  have hmid : ∀ (u : State) d keep, KeepsThreads u (u.invalidateL1 d x keep) := fun u d keep =>
    .of_unitWrite (invalidateL1_unitWrite _ _ _ _)
  have hl2 : ∀ (u : State) d dirty, KeepsThreads u (u.putL2 d x dirty) := fun u d dirty => modDie_keepsThreads _ _ _
  unfold writeSector
  dsimp only
  split
  · exact ((hmid _ _ _).trans (hl2 _ _ _)).trans (hput _ _ _ _)
  · have h2 := ((hmid s h none).trans (hl2 _ h true)).trans (hmid _ (c / 64) none)
    have h3 : ∀ (u : State) (b : Bool) v, KeepsThreads u (if b = true then u.putRdc (c / 64) x v else u) := fun u b v => by
      split
      · exact modDie_keepsThreads _ _ _
      · exact .refl u
    split
    · exact (h2.trans (h3 _ _ _)).trans (hput _ _ _ _)
    · exact h2.trans (h3 _ _ _)

theorem storeAt_keepsThreads (s : State) (l k : Nat) (bs : List Byte) (unc : Bool) (src : Nat × Bool) :
    KeepsThreads s (s.storeAt l k bs unc src) := by
  unfold storeAt
  split
  · dsimp only
    split
    · exact modDie_keepsThreads _ _ _
    · exact .refl s
  · exact .of_eq rfl rfl rfl rfl
  · exact .of_unitWrite ((putPlain_unitWrite _ _ _ _ _).trans (markWrote_unitWrite _ _))
  · exact .of_unitWrite (putPlain_unitWrite _ _ _ _ _)
  · exact .refl s

theorem storeAs_keepsThreads (s : State) (a : Agent) (l k : Nat) (bs : List Byte) (unc : Bool) :
    KeepsThreads s (s.storeAs a l k bs unc) := by
  unfold storeAs
  split
  case h_1 c tid h hplace =>
    have hstored := (KeepsThreads.of_unitWrite (putPlainRaw_unitWrite s l k bs)).trans
      (carryFrom_keepsThreads _ (s.thread (.thr c tid)).rel l bs.length)
    refine KeepsThreads.trans ?_ (.of_unitWrite (markWrote_unitWrite _ _))
    split
    · exact hstored
    · exact hstored.trans ((countMisses_keepsThreads _ _ _).trans (.foldl (writeSector_keepsThreads _ _ _) _ _))
  case h_2 => exact storeAt_keepsThreads _ _ _ _ _ _
  case h_3 _ n q =>
    have hstored := (storeAt_keepsThreads s l k bs unc (s.partOf (.seq n q), s.secureOf (.seq n q))).trans
      (carryFrom_keepsThreads _ (s.thread (.seq n q)).rel l bs.length)
    dsimp only
    split
    · exact hstored
    · exact hstored.trans (.of_unitWrite (ackAt_unitWrite _ _ _ _))

theorem storeSome_keepsThreads (s : State) (a : Agent) (l k : Nat) (bs : List (Option Byte)) (unc : Bool) :
    KeepsThreads s (s.storeSome a l k bs unc) := by
  unfold storeSome
  split
  · exact storeAs_keepsThreads _ _ _ _ _ _
  · refine .foldl (fun t e => ?_) _ _
    split
    · exact storeAs_keepsThreads _ _ _ _ _ _
    · exact .refl t

theorem cleanSectors_keepsThreads (s : State) (xs : List Nat) : KeepsThreads s (s.cleanSectors xs) := by
  unfold cleanSectors
  split
  · exact .refl s
  · exact .of_eq rfl rfl rfl rfl

theorem performEntry_keepsThreads (a : Agent) (s : State) (e : JEntry) : KeepsThreads s (performEntry a s e) := by
  cases e with
  | store l k va bs cost xs u => exact (storeSome_keepsThreads _ _ _ _ _ _).trans (cleanSectors_keepsThreads _ _)
  | msg m => exact requestSend_keepsThreads _ _ _ _
  | dcdec d i n => exact decDcBy_keepsThreads _ _ _ _ _
  | bararr d i => exact arriveBarBy_keepsThreads _ _ _ _

end State
end Sys2Proof.Machine

/-! ### The journal and its commits (R24 to R26) -/

namespace Sys2Proof.Machine

/-! What a journal gives for a byte. -/

theorem journalByte_append_store (j : List JEntry) (loc key : Nat) (va : Word) (bs : List (Option Byte)) (cost : Nat) (xs : List Nat)
    (unc : Bool) (l : Nat) : journalByte (j ++ [.store loc key va bs cost xs unc]) l =
      if loc ≤ l ∧ l < loc + bs.length then ((bs[l - loc]?).getD none).or (journalByte j l) else journalByte j l := by
  simp only [journalByte, List.foldl_append, List.foldl_cons, List.foldl_nil]

theorem journalByte_append_other (j : List JEntry) {e : JEntry} (h : State.isStore e = false) (l : Nat) :
    journalByte (j ++ [e]) l = journalByte j l := by
  cases e with
  | store => cases h
  | msg | dcdec | bararr => simp only [journalByte, List.foldl_append, List.foldl_cons, List.foldl_nil]

/-- The stores of a journal alone give its bytes. -/
theorem journalByte_filter (j : List JEntry) (l : Nat) : journalByte (j.filter State.isStore) l = journalByte j l := by
  induction j using List.reverseRecOn with
  | nil => rfl
  | append_singleton j e ih =>
    rw [List.filter_append]
    cases e with
    | store =>
      rw [show [JEntry.store _ _ _ _ _ _ _].filter State.isStore = [.store _ _ _ _ _ _ _] from rfl, journalByte_append_store,
        journalByte_append_store, ih]
    | msg | dcdec | bararr =>
      rw [journalByte_append_other _ rfl, ← ih]
      exact congrArg (journalByte · l) (List.append_nil _)

/-- Where a location is read after bytes were written. -/
theorem Memory.read_writeN (m : List Host.Cell) (l : Nat) (bs : List Byte) (i : Nat) :
    Memory.read (Memory.writeN m l bs) i = if l ≤ i ∧ i < l + bs.length then (bs[i - l]?).getD 0 else Memory.read m i := by
  split
  case isTrue h =>
    have hi : i - l < bs.length := by omega
    have hread := Memory.read_writeN_inside bs m l (i - l) hi
    rw [show l + (i - l) = i by omega] at hread
    rw [hread, List.getElem?_eq_getElem hi]
    rfl
  case isFalse h => exact Memory.read_writeN_outside bs m l i (by omega)

namespace State

/-! What a commit does to memory. -/

/-- A write at a place of local or device memory, or of no byte. -/
def PlainPlace (l n : Nat) : Prop := 0 < n → placeOf l = .ulm ∨ ∃ d, placeOf l = .hbm d

@[simp] theorem putPlainRaw_zero_mem (s : State) (l : Nat) (bs : List Byte) :
    (s.putPlainRaw l 0 bs).mem = Memory.writeN s.mem l bs := putRaw_mem s l bs

/-- A store at a plain place writes its bytes, whoever performs it (R121, R240). -/
theorem storeAt_mem (s : State) {l : Nat} {bs : List Byte} (unc : Bool) (src : Nat × Bool) (h : PlainPlace l bs.length) :
    (s.storeAt l 0 bs unc src).mem = Memory.writeN s.mem l bs := by
  have hnone : placeOf l ≠ .ulm → (∀ d, placeOf l ≠ .hbm d) → Memory.writeN s.mem l bs = s.mem := fun hu hd => by
    cases bs with
    | nil => rfl
    | cons b bs =>
      obtain hp | ⟨d, hp⟩ := h (Nat.succ_pos _)
      · exact absurd hp hu
      · exact absurd hp (hd d)
  unfold storeAt
  cases hp : placeOf l with
  | mmio =>
    generalize (l - 0x4000000000) / 0x80000000 = d
    generalize (l - 0x4000000000) % 0x80000000 = o
    simp only [apply_ite State.mem, countDie_mem, ite_self, hnone, hp, ne_eq, reduceCtorEq, not_false_eq_true, implies_true]
  | host => exact (hnone (by simp [hp]) (by simp [hp])).symm
  | none => exact (hnone (by simp [hp]) (by simp [hp])).symm
  | hbm d => simp only [markWrote_mem, putPlain_mem, putPlainRaw_zero_mem]
  | ulm => simp only [putPlain_mem, putPlainRaw_zero_mem]

theorem storeAs_mem (s : State) (a : Agent) {l : Nat} {bs : List Byte} (unc : Bool) (h : PlainPlace l bs.length) :
    (s.storeAs a l 0 bs unc).mem = Memory.writeN s.mem l bs := by
  unfold storeAs
  split
  · simp only [markWrote_mem, apply_ite State.mem, foldl_mem _ (writeSector_mem _ _ _), countMisses_mem, carryFrom_mem,
      putPlainRaw_zero_mem, ite_self]
  · exact storeAt_mem _ _ _ h
  · simp only [apply_ite State.mem, ackAt_mem, carryFrom_mem, storeAt_mem _ _ _ h, ite_self]

/-- One byte of a store, if its instruction wrote it. -/
def storeByte (a : Agent) (l : Nat) (unc : Bool) (s : State) (e : Option Byte × Nat) : State :=
  match e.1 with
  | some b => s.storeAs a (l + e.2) 0 [b] unc
  | none => s

theorem storeByte_read (a : Agent) {l i : Nat} (unc : Bool) (s : State) (b : Option Byte)
    (h : placeOf (l + i) = .ulm ∨ ∃ d, placeOf (l + i) = .hbm d) (x : Nat) :
    Memory.read (storeByte a l unc s (b, i)).mem x = if x = l + i then b.getD (Memory.read s.mem x) else Memory.read s.mem x := by
  cases b with
  | none => simp [storeByte]
  | some b =>
    show Memory.read (s.storeAs a (l + i) 0 [b] unc).mem x = _
    rw [storeAs_mem _ _ _ fun _ => h, Memory.read_writeN]
    by_cases hx : x = l + i
    · simp [hx]
    · rw [if_neg hx, if_neg (by rw [List.length_singleton]; omega)]

/-- The bytes of a store that its instruction wrote, one by one. -/
theorem storeBytes_read (a : Agent) (l : Nat) (unc : Bool) (bs : List (Option Byte)) (n : Nat)
    (h : ∀ i, i < bs.length → placeOf (l + (n + i)) = .ulm ∨ ∃ d, placeOf (l + (n + i)) = .hbm d) (x : Nat) (s : State) :
    Memory.read ((bs.zipIdx n).foldl (storeByte a l unc) s).mem x =
      if l + n ≤ x ∧ x < l + n + bs.length then ((bs[x - (l + n)]?).getD none).getD (Memory.read s.mem x)
      else Memory.read s.mem x := by
  induction bs generalizing n s with
  | nil => simp
  | cons b bs ih =>
    have htail := ih (n + 1) (fun i hi => by
      have := h (i + 1) (by simpa using hi)
      rwa [show n + (i + 1) = n + 1 + i by omega] at this)
    rw [List.zipIdx_cons, List.foldl_cons, htail, storeByte_read (i := n) a unc s b (h 0 (Nat.succ_pos _)), List.length_cons]
    by_cases hx : x = l + n
    · subst hx
      rw [if_neg (by omega), if_pos rfl, if_pos (by omega), Nat.sub_self, List.getElem?_cons_zero]
      rfl
    · rw [if_neg hx]
      by_cases hin : l + (n + 1) ≤ x ∧ x < l + (n + 1) + bs.length
      · rw [if_pos hin, if_pos (by omega), show x - (l + n) = x - (l + (n + 1)) + 1 by omega, List.getElem?_cons_succ]
      · rw [if_neg hin, if_neg (by omega)]

/-- A store of the bytes that its instruction wrote: the others stay (R24). -/
theorem storeSome_read (s : State) (a : Agent) (l : Nat) (bs : List (Option Byte)) (unc : Bool)
    (h : ∀ i, i < bs.length → placeOf (l + i) = .ulm ∨ ∃ d, placeOf (l + i) = .hbm d) (x : Nat) :
    Memory.read (s.storeSome a l 0 bs unc).mem x =
      if l ≤ x ∧ x < l + bs.length then ((bs[x - l]?).getD none).getD (Memory.read s.mem x) else Memory.read s.mem x := by
  unfold storeSome
  split
  case isTrue hall =>
    have hplace : PlainPlace l (bs.map fun b => b.getD 0).length := fun h0 => by simpa using h 0 (by simpa using h0)
    rw [storeAs_mem _ _ _ hplace, Memory.read_writeN, List.length_map]
    split
    case isTrue hx =>
      have hi : x - l < bs.length := by omega
      obtain ⟨b, hb⟩ := Option.isSome_iff_exists.1 (List.all_eq_true.1 hall _ (List.getElem_mem hi))
      simp [hi, hb]
    case isFalse => rfl
  case isFalse => exact storeBytes_read a l unc bs 0 (by simpa using h) x s

/-! Releases, messages, decrements and arrivals write no byte (R231, R275, R368, R369). -/

@[simp] theorem releaseOn_mem (s : State) (d : Nat) : (s.releaseOn d).mem = s.mem := (releaseOn_releaseKeeps s d).1
@[simp] theorem release_mem (s : State) (a : Agent) : (s.release a).mem = s.mem := (release_releaseKeeps s a).1

@[simp] theorem requestSend_mem (s : State) (u key : Nat) (m : Msg) : (s.requestSend u key m).mem = s.mem := by
  unfold requestSend
  dsimp only
  split
  · exact (placeSend_effect s u key m).1
  · exact setSendQ_mem _ _ _ _

@[simp] theorem poisonDc_mem (s : State) (d i : Nat) : (s.poisonDc d i).mem = s.mem := by unfold poisonDc; split <;> rfl
@[simp] theorem poisonBar_mem (s : State) (d i : Nat) : (s.poisonBar d i).mem = s.mem := by unfold poisonBar; split <;> rfl

@[simp] theorem decDc_mem (s : State) (d i : Nat) (amount : Word) (k : Clock) : (s.decDc d i amount k).1.mem = s.mem := by
  have hmerged := mergeClock_mem s d k
  unfold decDc
  dsimp only
  split
  · exact hmerged
  split
  · exact (poisonDc_mem _ _ _).trans hmerged
  split
  · exact hmerged
  split <;> exact hmerged

@[simp] theorem arriveBar_mem (s : State) (d i : Nat) (k : Clock) : (s.arriveBar d i k).mem = s.mem := by
  have hmerged := mergeClock_mem s d k
  unfold arriveBar
  dsimp only
  split
  · exact hmerged
  split
  · exact (poisonBar_mem _ _ _).trans hmerged
  split <;> exact hmerged

@[simp] theorem cleanSectors_mem (s : State) (xs : List Nat) : (s.cleanSectors xs).mem = s.mem := by
  unfold cleanSectors
  split <;> rfl

theorem performEntry_mem_of_other (a : Agent) (s : State) {e : JEntry} (h : isStore e = false) : (performEntry a s e).mem = s.mem := by
  cases e with
  | store => cases h
  | msg m => exact requestSend_mem _ _ _ _
  | dcdec d i n => exact (decDc_mem _ _ _ _ _).trans (release_mem _ _)
  | bararr d i => exact (arriveBar_mem _ _ _ _).trans (release_mem _ _)

/-- Every store of a journal is one of plain bytes to local or device memory. -/
def PlainJournal (j : List JEntry) : Prop :=
  ∀ loc key va bs cost xs unc, JEntry.store loc key va bs cost xs unc ∈ j →
    key = 0 ∧ ∀ i, i < bs.length → placeOf (loc + i) = .ulm ∨ ∃ h, placeOf (loc + i) = .hbm h

/-- Performing the stores of a journal puts the youngest byte of each location into memory (R24, R26). -/
theorem performStores_read (a : Agent) (s : State) (j : List JEntry) (hj : PlainJournal j) (hst : ∀ e ∈ j, isStore e = true) (x : Nat) :
    Memory.read (j.foldl (performEntry a) s).mem x = (journalByte j x).getD (Memory.read s.mem x) := by
  induction j using List.reverseRecOn with
  | nil => rfl
  | append_singleton j e ih =>
    have hbefore := ih (fun _ _ _ _ _ _ _ h => hj _ _ _ _ _ _ _ (List.mem_append_left _ h))
      fun e h => hst e (List.mem_append_left _ h)
    have hlast := hst e (List.mem_append_right _ (List.mem_singleton_self _))
    rw [List.foldl_append, List.foldl_cons, List.foldl_nil]
    cases e with
    | store loc key va bs cost xs unc =>
      obtain ⟨rfl, hplace⟩ := hj _ _ _ _ _ _ _ (List.mem_append_right _ (List.mem_singleton_self _))
      have hread := storeSome_read (j.foldl (performEntry a) s) a loc bs unc hplace x
      rw [hbefore] at hread
      rw [journalByte_append_store, performEntry, cleanSectors_mem, hread]
      split
      · cases (bs[x - loc]?).getD none <;> rfl
      · rfl
    | msg | dcdec | bararr => cases hlast

theorem performOthers_mem (a : Agent) (j : List JEntry) (hj : ∀ e ∈ j, isStore e = false) (s : State) :
    (j.foldl (performEntry a) s).mem = s.mem := by
  induction j generalizing s with
  | nil => rfl
  | cons e j ih =>
    exact (ih (fun x h => hj x (List.mem_cons_of_mem _ h)) _).trans (performEntry_mem_of_other a s (hj e List.mem_cons_self))

theorem commit_read (s : State) (a : Agent) (hj : PlainJournal (s.thread a).journal) (x : Nat) :
    Memory.read (s.commit a).mem x = (journalByte (s.thread a).journal x).getD (Memory.read s.mem x) := by
  unfold commit
  rw [performOthers_mem a _ fun e he => by simpa using (List.mem_filter.1 he).2,
    performStores_read a _ _ (fun _ _ _ _ _ _ _ h => hj _ _ _ _ _ _ _ (List.mem_filter.1 h).1) fun e he => (List.mem_filter.1 he).2,
    journalByte_filter]
  rfl

end State

/-! What a partial commit leaves of threads (R26). -/

/-- The thread after its journal was committed with NR set, with the cause of the partial commit. -/
def Thread.partCommitted (t : Thread) (cause : Nat) : Thread :=
  { t with journal := [], actst := setField (setField t.actst 16 13 0 ||| 4) 3 2 cause }

namespace State

theorem commit_keepsThreads (s : State) (a : Agent) :
    KeepsThreads (s.modThread a fun t => { t with journal := [], actst := setField t.actst 16 13 0 }) (s.commit a) :=
  (KeepsThreads.foldl (performEntry_keepsThreads a) _ _).trans (.foldl (performEntry_keepsThreads a) _ _)

theorem partialCommit_keepsThreads (s : State) (a : Agent) (cause : Nat) :
    KeepsThreads (s.modThread a fun t => t.partCommitted cause) (s.partialCommit a cause) := by
  obtain ⟨hcur, hmig, hthr, hcore⟩ := commit_keepsThreads s a
  refine KeepsThreads.trans (t := (s.commit a).modThread a fun t => { t with actst := setField (t.actst ||| 4) 3 2 cause })
    ⟨hcur, hmig, fun b => ?_, hcore⟩ (countEvents_keepsThreads _ _ _ _ _)
  have hb := hthr b
  by_cases h : b.key = a.key
  · have hkey : ∀ u : State, u.thread b = u.thread a := fun u => by rw [thread, thread, h]
    simp only [hkey, thread_modThread_same] at hb ⊢
    exact congrArg (fun t : Thread => { t with actst := setField (t.actst ||| 4) 3 2 cause }) hb
  · simp only [thread_modThread_other _ _ h] at hb ⊢
    exact hb

@[simp] theorem partialCommit_cur (s : State) (a : Agent) (cause : Nat) : (s.partialCommit a cause).cur = s.cur :=
  (partialCommit_keepsThreads s a cause).cur

theorem partialCommit_thread (s : State) (a : Agent) (cause : Nat) :
    ((s.partialCommit a cause).thread a).unmarked = ((s.thread a).partCommitted cause).unmarked := by
  rw [(partialCommit_keepsThreads s a cause).thread, thread_modThread_same]

theorem partialCommit_mem (s : State) (a : Agent) (cause : Nat) : (s.partialCommit a cause).mem = (s.commit a).mem :=
  countEvents_mem _ _ _ _ _

end State

/-- ACTST after a partial commit (R26, R82). -/
theorem Thread.nr_partCommitted (t : Thread) (cause : Nat) : (t.partCommitted cause).nr = true := by
  show bitAt (setField (setField t.actst 16 13 0 ||| 4) 3 2 cause) 2 = true
  rw [bitAt_setField_other _ (by omega), bitAt, BitVec.getLsbD_or, show (4 : Word).getLsbD 2 = true from rfl, Bool.or_true]

theorem Thread.jcnt_partCommitted (t : Thread) (cause : Nat) : (t.partCommitted cause).jcnt = 0 := by
  show field (setField (setField t.actst 16 13 0 ||| 4) 3 2 cause) 16 13 = 0
  rw [field_setField_other _ (by omega), field_or_other _ _ rfl, field_setField_same _ (by omega) (by decide)]

theorem Thread.cause_partCommitted (t : Thread) {cause : Nat} (h : cause < 4) : field (t.partCommitted cause).actst 3 2 = cause :=
  field_setField_same _ (by omega) h

theorem Thread.rtk_partCommitted (t : Thread) (cause : Nat) : field (t.partCommitted cause).actst 0 2 = field t.actst 0 2 := by
  show field (setField (setField t.actst 16 13 0 ||| 4) 3 2 cause) 0 2 = _
  rw [field_setField_other _ (by omega), field_or_other _ _ rfl, field_setField_other _ (by omega)]

end Sys2Proof.Machine

namespace Sys2Proof.Machine

/-! ### What completing an instruction reads of its thread (R112, R124) -/

/-- The registers, the pc and the hardware loop of a thread, and nothing else of it. -/
def Thread.control (t : Thread) : Thread :=
  { x := t.x, pc := t.pc, loopStart := t.loopStart, loopLast := t.loopLast, loopReg := t.loopReg, loopActive := t.loopActive }

theorem Thread.control_setX (t : Thread) (r : BitVec 5) (v : Word) : (t.setX r v).control = t.control.setX r v := by
  unfold Thread.setX
  split <;> rfl

theorem Thread.control_next (t : Thread) (n : Nat) : (t.next n).control = t.control.next n := by
  have hset := t.control_setX t.loopReg (t.getX t.loopReg - 1)
  by_cases hend : t.AtLoopEnd
  · rw [Thread.next_loop t n hend, Thread.next_loop t.control n hend]
    by_cases hmore : t.loopReg ≠ 0 ∧ t.getX t.loopReg ≠ 1
    · rw [if_pos hmore]
      exact (congrArg (fun u : Thread => { u with pc := t.loopStart }) hset).trans (if_pos hmore).symm
    · rw [if_neg hmore]
      exact (congrArg (fun u : Thread => { u with pc := t.pc + ofN n, loopActive := false }) hset).trans (if_neg hmore).symm
  · exact (congrArg Thread.control (if_neg hend)).trans (if_neg hend).symm

/-- Threads that differ in their clocks and marks alone agree in everything else. -/
theorem Thread.of_unmarked {α : Type} (π : Thread → α) {t u : Thread} (h : t.unmarked = u.unmarked)
    (hπ : ∀ v : Thread, π v.unmarked = π v := by intro; rfl) : π t = π u :=
  (hπ t).symm.trans ((congrArg π h).trans (hπ u))

theorem Thread.control_partCommitted (t : Thread) (cause : Nat) : (t.partCommitted cause).control = t.control := rfl

theorem Thread.control_setX_next {t u : Thread} (h : t.control = u.control) (d : BitVec 5) (v : Word) (n : Nat) :
    ((t.setX d v).next n).control = ((u.setX d v).next n).control := by
  rw [Thread.control_next, Thread.control_next, Thread.control_setX, Thread.control_setX, h]

/-- A result and the completion of its instruction leave all of the thread but its control. -/
theorem Thread.rest_setX_next (t : Thread) (d : BitVec 5) (v : Word) (n : Nat) : t.KeepsRest ((t.setX d v).next n) := by
  obtain ⟨-, h⟩ := (t.setX d v).completed_next n
  rw [Thread.KeepsRest, h, t.setX_eq]

theorem Thread.getX_control {t u : Thread} (h : t.control = u.control) (r : BitVec 5) : t.getX r = u.getX r := by
  have hr := congrArg (Thread.getX · r) h
  exact hr

theorem Thread.pc_control {t u : Thread} (h : t.control = u.control) : t.pc = u.pc := by
  have hpc := congrArg Thread.pc h
  exact hpc

/-! ### The parts of an atomic (R230, R247) -/

namespace State

theorem readFrom_keepsThreads (s : State) (d l n : Nat) : KeepsThreads s (s.readFrom d l n) := .of_cachesOnly (readFrom_caches _ _ _ _)

theorem dropOld_keepsThreads (s : State) (d : Nat) (c : Option Nat) : KeepsThreads s (s.dropOld d c) := by
  have hrdc : KeepsThreads s (if (s.getDie d).rdc.isEmpty then s
      else s.modDie d fun x => { x with rdc := dropBelow (1 - d) (s.vcEntry d (s.clockIndex (1 - d))) x.rdc }) := by
    split
    · exact .refl s
    · exact modDie_keepsThreads _ _ _
  unfold dropOld
  dsimp only
  cases c with
  | none => exact hrdc
  | some n =>
    have hl1 : ∀ (u : State) v, KeepsThreads u (if (u.getCore n).l1.isEmpty then u
        else u.modCore n fun k => { k with l1 := dropBelow (1 - d) v k.l1 }) := fun u v => by
      split
      · exact .refl u
      · exact .modCore _ _ _
    exact hrdc.trans (hl1 _ _)

theorem acquire_keepsThreads (s : State) (a : Agent) (k : Clock) : KeepsThreads s (s.acquire a k) :=
  (mergeClock_keepsThreads _ _ _).trans (dropOld_keepsThreads _ _ _)

theorem exchangeFence_keepsThreads (s : State) (d : Nat) : KeepsThreads s (s.exchangeFence d) := by
  unfold exchangeFence
  dsimp only
  split
  · exact (mergeClock_keepsThreads s d s.fencePoint).trans (.of_eq rfl rfl rfl rfl)
  · exact mergeClock_keepsThreads _ _ _

theorem fenceRelease_keepsThreads (s : State) (a : Agent) (kind scope : Nat) : KeepsThreads s (s.fenceRelease a kind scope) := by
  unfold fenceRelease
  dsimp only
  split
  · exact .refl s
  split
  · exact (release_keepsThreads _ _).trans (exchangeFence_keepsThreads _ _)
  · exact release_keepsThreads _ _

theorem fenceAcquire_keepsThreads (s : State) (a : Agent) (kind scope : Nat) : KeepsThreads s (s.fenceAcquire a kind scope) := by
  unfold fenceAcquire
  split
  · exact .refl s
  · exact acquire_keepsThreads _ _ _

theorem atomRead_keepsThreads (s : State) (a : Agent) (acc : Acc) (n : Nat) : KeepsThreads s (s.atomRead a acc n) := by
  have hseen : ∀ (b : Bool) (k : Clock), KeepsThreads s (if b = true then s else s.modThread a fun t => { t with seen := joinClock t.seen k }) :=
    fun b k => by
      split
      · exact .refl s
      · exact .modThread _ _ _
  unfold atomRead
  dsimp only
  split
  · exact .refl s
  split
  · exact hseen _ _
  · exact (hseen _ _).trans (readFrom_keepsThreads _ _ _ _)

theorem atomWrite_keepsThreads (s : State) (a : Agent) (acc : Acc) (bs : List Byte) : KeepsThreads s (s.atomWrite a acc bs) := by
  have hstored := (storeAt_keepsThreads s acc.loc acc.key bs acc.rng.uncached (s.partOf a, s.secureOf a)).trans
    (carryFrom_keepsThreads _ (s.thread a).rel acc.loc bs.length)
  unfold atomWrite
  dsimp only
  split
  · exact hstored
  · exact hstored.trans (.of_unitWrite (ackAt_unitWrite _ _ _ _))

@[simp] theorem fenceRelease_mem (s : State) (a : Agent) (kind scope : Nat) : (s.fenceRelease a kind scope).mem = s.mem := by
  unfold fenceRelease exchangeFence
  simp only [apply_ite State.mem, mergeClock_mem, release_mem, ite_self]

@[simp] theorem fenceAcquire_mem (s : State) (a : Agent) (kind scope : Nat) : (s.fenceAcquire a kind scope).mem = s.mem := by
  unfold fenceAcquire
  simp only [apply_ite State.mem, acquire_mem, ite_self]

@[simp] theorem atomRead_mem (s : State) (a : Agent) (acc : Acc) (n : Nat) : (s.atomRead a acc n).mem = s.mem := by
  unfold atomRead
  simp only [apply_ite State.mem, readFrom_mem, modThread_mem, ite_self]

theorem atomWrite_mem (s : State) (a : Agent) (acc : Acc) {bs : List Byte} (hk : acc.key = 0) (h : PlainPlace acc.loc bs.length) :
    (s.atomWrite a acc bs).mem = Memory.writeN s.mem acc.loc bs := by
  unfold atomWrite
  simp only [hk, apply_ite State.mem, ackAt_mem, carryFrom_mem, storeAt_mem _ _ _ h, ite_self]

/-- The effect of an atomic that reads `old` and writes `v`, before it completes. -/
def atomEffect (s : State) (o : BitVec 5) (acc : Acc) (ea : Word) (v : Word) : State :=
  let s2 := ((s.useRtb s.cur ea.toNat 8 kindRW).fenceRelease s.cur (ordKind o) (ordScope o)).atomRead s.cur acc
  let s3 := s2.atomWrite s2.cur acc (wordBytes v)
  s3.fenceAcquire s3.cur (ordKind o) (ordScope o)

theorem atomEffect_keepsThreads (s : State) (o : BitVec 5) (acc : Acc) (ea v : Word) : KeepsThreads s (s.atomEffect o acc ea v) :=
  ((((KeepsThreads.of_cachesOnly (useRtb_caches _ _ _ _ _)).trans (fenceRelease_keepsThreads _ _ _ _)).trans
    (atomRead_keepsThreads _ _ _ _)).trans (atomWrite_keepsThreads _ _ _ _)).trans (fenceAcquire_keepsThreads _ _ _ _)

theorem atomEffect_mem (s : State) (o : BitVec 5) (acc : Acc) (ea v : Word) (hk : acc.key = 0)
    (h : PlainPlace acc.loc (wordBytes v).length) : (s.atomEffect o acc ea v).mem = Memory.writeN s.mem acc.loc (wordBytes v) := by
  have hrtb : (s.useRtb s.cur ea.toNat 8 kindRW).mem = s.mem := by rw [(useRtb_caches s s.cur ea.toNat 8 kindRW).1]
  unfold atomEffect
  dsimp only
  rw [fenceAcquire_mem, atomWrite_mem _ _ _ hk h, atomRead_mem, fenceRelease_mem, hrtb]

/-- An atomic of an activation with NR clear that passes its checks: the partial commit with cause ACTION, its effect, its result (R26,
R247). -/
theorem atomic_held {s : State} {d a o : BitVec 5} {f : Word → Option Word} {acc : Acc} {bs : List Byte} {v : Word}
    (hholds : s.holds s.cur = true) (hfree : s.commitBlocked s.cur = false) (hsent : (s.partialCommit s.cur 2).sendPending s.cur = false)
    (hplace : s.atomPlace (s.x a) 8 8 = .ok acc) (hblocked : s.blocked acc.loc 8 true = false)
    (hbridge : s.acrossBridge s.cur.dieNo acc.loc = false) (hfence : s.fenceWaits s.cur (ordKind o) (ordScope o) = false)
    (hread : (s.partialCommit s.cur 2).readVia (s.partialCommit s.cur 2) s.cur acc (s.x a) 8 = .ok bs) (hf : f (bytesWord bs) = some v) :
    s.atomic d a o f = .next ((((s.partialCommit s.cur 2).atomEffect o acc (s.x a) v).wx d (bytesWord bs)).adv 4) := by
  have hcur : (s.partialCommit s.cur 2).cur = s.cur := partialCommit_cur _ _ _
  unfold atomic act actAs
  simp only [hplace, waitClear, hblocked, hbridge, hfence, hholds, hfree, hsent, waitFor, Bool.not_false, if_true, Bool.false_eq_true,
    if_false, bind, Except.bind, hcur, hread, hf, finishOut, finish, atomEffect]

end State

/-- Settles O8: the bytes of a journal, the threads and the memory of a partial commit, and AMOADD behind one. -/
theorem journalRules : Obligations.JournalRules := by
  unfold Obligations.JournalRules
  refine ⟨?_, ?_, ?_, ?_⟩
  · intro j loc key va v cost xs unc
    have hlen : ((wordBytes v).map some).length = 8 := by rw [List.length_map]; rfl
    refine ⟨fun i hi => ?_, fun l hl => ?_⟩
    · have hin : i < (wordBytes v).length := hi
      rw [journalByte_append_store, hlen, if_pos (by omega), Nat.add_sub_cancel_left]
      simp [hin]
    · rw [journalByte_append_store, hlen, if_neg (by omega)]
  · intro s a cause hcause hact hwait t
    have ht := s.partialCommit_thread a cause
    have hactst : t.actst = ((s.thread a).partCommitted cause).actst := Thread.of_unmarked Thread.actst ht
    refine ⟨?_, ?_, Thread.of_unmarked Thread.journal ht, ?_, ?_, (Thread.of_unmarked Thread.x ht).trans rfl,
      (Thread.of_unmarked Thread.pc ht).trans rfl⟩
    · exact (congrArg (bitAt · 2) hactst).trans (Thread.nr_partCommitted _ _)
    · exact (congrArg (field · 16 13) hactst).trans (Thread.jcnt_partCommitted _ _)
    · exact (congrArg (field · 3 2) hactst).trans (Thread.cause_partCommitted _ hcause)
    · exact (congrArg (field · 0 2) hactst).trans (Thread.rtk_partCommitted _ _)
  · intro s a cause hj l
    rw [State.partialCommit_mem]
    exact s.commit_read a hj l
  · intro s d a b o acc bs s1 hholds hfree hsent hplace hblocked hbridge hfence hkey hloc hread
    refine ⟨_, (exec_amoadd d a b o s).trans (State.atomic_held hholds hfree hsent hplace hblocked hbridge hfence hread rfl), ?_⟩
    generalize hu : s1.atomEffect o acc (s.x a) (bytesWord bs + s.x b) = u
    have hkeeps : KeepsThreads s1 u := hu ▸ State.atomEffect_keepsThreads _ _ _ _ _
    have hcur : u.cur = s.cur := hkeeps.cur.trans (State.partialCommit_cur _ _ _)
    have hme : u.me.unmarked = (s.me.partCommitted 2).unmarked := by
      rw [State.me, hcur, hkeeps.thread]
      exact s.partialCommit_thread s.cur 2
    have hcontrol : ((u.me.setX d (bytesWord bs)).next 4).control = ((s.me.setX d (bytesWord bs)).next 4).control :=
      Thread.control_setX_next ((Thread.of_unmarked Thread.control hme).trans (Thread.control_partCommitted _ _)) _ _ _
    have hrest := Thread.rest_setX_next u.me d (bytesWord bs) 4
    have hme' : ((u.wx d (bytesWord bs)).adv 4).me = (u.me.setX d (bytesWord bs)).next 4 := by simp
    refine ⟨?_, ?_, ?_, fun r => ?_, ?_⟩
    · rw [hme', Thread.nr, congrArg Thread.actst hrest, Thread.of_unmarked Thread.actst hme]
      exact Thread.nr_partCommitted _ _
    · rw [hme', congrArg Thread.journal hrest, Thread.of_unmarked Thread.journal hme]
      rfl
    · have hmem := State.atomEffect_mem s1 o acc (s.x a) (bytesWord bs + s.x b) hkey fun _ => hloc
      rw [hu] at hmem
      exact ⟨by simpa [hmem] using Memory.readN_writeN_same _ _ _, fun l hl => by
        simpa [hmem] using Memory.read_writeN_outside _ _ _ _ hl⟩
    · exact (congrArg (Thread.getX · r) hme').trans (Thread.getX_control hcontrol r)
    · exact (congrArg Thread.pc hme').trans (Thread.pc_control hcontrol)

end Sys2Proof.Machine

namespace Sys2Proof.Machine

/-- What the completion of an instruction leaves of its thread (R112, R124). -/
theorem Thread.KeepsRest.of {α : Type} (π : Thread → α) {t u : Thread} (h : t.KeepsRest u)
    (hπ : ∀ (v : Thread) x pc l, π { v with x := x, pc := pc, loopActive := l } = π v := by intros; rfl) : π u = π t :=
  (congrArg π h).trans (hπ t _ _ _)

/-! ### Threads that lines, items and accounts leave alone -/

namespace State

@[simp] theorem leaveLines_thr (s : State) (a : Agent) : (s.leaveLines a).thr = s.thr := by
  have hline : ∀ p : Prop, [Decidable p] → ∀ n f, (if p then s else s.modSet n f).thr = s.thr := fun p _ n f => by
    split <;> rfl
  unfold leaveLines
  dsimp only
  split
  · rw [setSendQ_thr]
    exact hline _ _ _
  · exact hline _ _ _

theorem putUlm_unitWrite (s : State) (c a : Nat) (bs : List Byte) : UnitWrite s (s.putUlm c a bs) := putBytes_unitWrite _ _ _

@[simp] theorem enterItem_thr (s : State) (c : Nat) (it : Item) : (s.enterItem c it).thr = s.thr := by
  unfold enterItem
  dsimp only
  rw [modCore_thr]
  exact (putUlm_unitWrite _ _ _ _).thr

@[simp] theorem appendItem_thr (s : State) (c : Nat) (code sub : BitVec 8) (kind : Nat) (thr : Option Nat) (tval epc actid actst : Word)
    (ref : ItemRef) : (s.appendItem c code sub kind thr tval epc actid actst ref).thr = s.thr := by
  unfold appendItem
  dsimp only
  split
  · rfl
  · exact enterItem_thr _ _ _

@[simp] theorem settleStage_thr (s : State) (c : Nat) : (s.settleStage c).thr = s.thr := by
  unfold settleStage
  split
  · rfl
  · dsimp only
    split <;> rfl

@[simp] theorem settleStage_migrants (s : State) (c : Nat) : (s.settleStage c).migrants = s.migrants := by
  unfold settleStage
  split
  · rfl
  · dsimp only
    split <;> rfl

@[simp] theorem leaveLines_cur (s : State) (a : Agent) : (s.leaveLines a).cur = s.cur := by
  have hline : ∀ p : Prop, [Decidable p] → ∀ n f, (if p then s else s.modSet n f).cur = s.cur := fun p _ n f => by
    split <;> rfl
  unfold leaveLines
  dsimp only
  split
  · rw [(setSendQ_keepsThreads _ _ _ _).cur]
    exact hline _ _ _
  · exact hline _ _ _

@[simp] theorem appendItem_cur (s : State) (c : Nat) (code sub : BitVec 8) (kind : Nat) (thr : Option Nat) (tval epc actid actst : Word)
    (ref : ItemRef) : (s.appendItem c code sub kind thr tval epc actid actst ref).cur = s.cur := by
  unfold appendItem enterItem
  dsimp only
  split
  · rfl
  · rw [modCore_cur, (putUlm_unitWrite _ _ _ _).1]

@[simp] theorem dropFailed_thr (s : State) (a : Agent) (va : Nat) : (s.dropFailed a va).thr = s.thr := by
  unfold dropFailed
  split
  · rfl
  · dsimp only
    split
    · rfl
    split
    · unfold countEvent countEvents
      split <;> rfl
    split <;> rfl

end State

/-! ### Actions behind a partial commit (R26) -/

namespace State

theorem actAs_of_nr {s : State} (cause : Nat) (k : State → Out) (hheld : s.holds s.cur = false) (hsent : s.sendPending s.cur = false) :
    s.actAs cause k = k s := by
  unfold actAs
  simp only [hheld, hsent, Bool.false_eq_true, if_false]

theorem actAs_of_held {s : State} (cause : Nat) (k : State → Out) (hheld : s.holds s.cur = true) (hfree : s.commitBlocked s.cur = false)
    (hsent : (s.partialCommit s.cur cause).sendPending s.cur = false) : s.actAs cause k = k (s.partialCommit s.cur cause) := by
  unfold actAs
  simp only [hheld, hfree, hsent, Bool.false_eq_true, if_false, if_true]

/-! ### MIGRATE (R38, R135) -/

/-- The thread whose activation has ended, and which hosts no context, is FREE (R19). -/
theorem freeThread_st (s : State) {c tid : Nat} (htid : tid < 6) (h : (s.thread (.thr c tid)).hosted = none) :
    ((s.freeThread c tid).thread (.thr c tid)).st = .free := by
  unfold freeThread
  rw [thread, settleStage_thr]
  show (State.thread _ _).st = _
  rw [thread_modThread_same]
  simp [h, show tid ≠ 6 by omega]

@[simp] theorem freeThread_migrants (s : State) (c tid : Nat) : (s.freeThread c tid).migrants = s.migrants :=
  settleStage_migrants _ _

/-- The context of an activation leaves: its thread is FREE, and one more context is on its way (R38). -/
theorem departs_effect {s : State} {c tid p : Nat} (hcur : s.cur = .thr c tid) (htid : tid < 6) (hhosted : s.me.hosted = none) :
    ((s.departs p).thread (.thr c tid)).st = .free ∧ (s.departs p).migrants.length = s.migrants.length + 1 ∧
      ∃ m, (s.departs p).migrants.getLast? = some m ∧ m.dest = p ∧ m.th.control = (s.me.next 4).control ∧
        m.th.actst = s.me.actst ∧ m.th.journal = s.me.journal ∧ m.th.actid = s.me.actid := by
  obtain ⟨-, hrest⟩ := s.me.completed_next 4
  have hkeeps := release_keepsThreads (s.adv 4) s.cur
  have hcur0 : ((s.adv 4).release s.cur).cur = .thr c tid := hkeeps.cur.trans hcur
  have hme : ((s.adv 4).release s.cur).me.unmarked = (s.me.next 4).unmarked := by
    rw [me, hkeeps.cur, hkeeps.thread, ← me_adv]
    rfl
  have hlen : ((s.adv 4).release s.cur).migrants.length = s.migrants.length := hkeeps.migrants
  unfold departs
  generalize ((s.adv 4).release s.cur) = s0 at hme hlen hcur0
  have hhosted0 : (s0.thread (.thr c tid)).hosted = none := by
    rw [← hcur0]
    exact (Thread.of_unmarked Thread.hosted hme).trans ((hrest.of Thread.hosted).trans hhosted)
  rw [hcur]
  dsimp only
  refine ⟨freeThread_st _ htid (by rw [thread_modThread_same]; exact hhosted0), ?_, ?_⟩
  · rw [freeThread_migrants]
    show (s0.migrants ++ [_]).length = _
    rw [List.length_append, hlen]
    rfl
  · rw [freeThread_migrants]
    have hcontrol := Thread.of_unmarked Thread.control hme
    refine ⟨_, List.getLast?_concat, rfl, hcontrol, ?_, ?_, ?_⟩
    · exact (Thread.of_unmarked Thread.actst hme).trans (hrest.of Thread.actst)
    · exact (Thread.of_unmarked Thread.journal hme).trans (hrest.of Thread.journal)
    · exact (Thread.of_unmarked Thread.actid hme).trans (hrest.of Thread.actid)

/-! ### A trap of a thread that T7 serves (R390) -/

/-- A supervisor-level trap that finds room holds the executing thread, and changes nothing else of it. -/
theorem supervisorTrap_thread (s : State) (c tid : Nat) (imp : Bool) (code sub : BitVec 8) (tval epc : Word) :
    (s.supervisorTrap c tid imp code sub tval epc).thread (.thr c tid) = { s.thread (.thr c tid) with
      tcause := causeWord false imp code sub, tval := tval, epc := epc, st := .wait, wait := some { kind := .trapHeld } } := by
  unfold supervisorTrap
  dsimp only
  rw [thread, appendItem_thr]
  exact thread_modThread_same _ _ _

@[simp] theorem supervisorTrap_cur (s : State) (c tid : Nat) (imp : Bool) (code sub : BitVec 8) (tval epc : Word) :
    (s.supervisorTrap c tid imp code sub tval epc).cur = s.cur := appendItem_cur _ _ _ _ _ _ _ _ _ _ _

/-- A trap that T7 serves, of a thread of a core that is not OFF, with room in T7's queue (R388, R390). -/
theorem takeTrap_supervisor {s : State} {c tid : Nat} (imp : Bool) {code : BitVec 8} (sub : BitVec 8) (tval epc : Word) (htid : tid < 7)
    (huser : userLevel (s.thread (.thr c tid)) code = false) (hfull : s.t7Full c = false) (hoff : bitAt (s.getCore c).ckstat 16 = false) :
    s.takeTrap (.thr c tid) imp code sub tval epc = (s.leaveLines (.thr c tid)).supervisorTrap c tid imp code sub tval epc := by
  unfold takeTrap
  simp only [huser, hfull, hoff, Bool.false_eq_true, if_false, show tid ≠ 7 by omega]

theorem raise_heldByTrap {s : State} {code : BitVec 8} {tval : Word} (len : Nat) (hserv : Servable s)
    (hcode : code ≠ Cause.uncorrectable) (huser : userLevel s.me code = false) :
    HeldByTrap s code tval (s.raise ⟨code, tval, 0⟩ len) := by
  obtain ⟨hthr, htid, hfull, hoff⟩ := hserv
  unfold raise
  rw [if_neg hcode]
  obtain ⟨s1, hs1, hcaches, hsame⟩ : ∃ s1 : State, (if code = Cause.permission ∨ code = Cause.partialResidency ∨ code = Cause.worldViolation
      then s.dropFailed s.cur tval.toNat else s) = s1 ∧ CachesOnly s s1 ∧ s1.thr = s.thr := by
    refine ⟨_, rfl, ?_⟩
    split
    · exact ⟨dropFailed_caches _ _ _, dropFailed_thr _ _ _⟩
    · exact ⟨CachesOnly.rfl s, rfl⟩
  dsimp only
  rw [hs1]
  obtain ⟨heq, -, hcore, -⟩ := hcaches
  have hthread : ∀ a, s1.thread a = s.thread a := fun a => by rw [thread, thread, hsame]
  cases hcur : s.cur with
  | seq n q => rw [hcur] at hthr; cases hthr
  | thr c tid =>
    rw [hcur] at hfull hoff
    have htid : tid < 7 := by rwa [hcur] at htid
    have hfull1 : s1.t7Full c = false := by
      unfold t7Full
      rw [hcore c]
      exact hfull
    rw [me, hcur, ← hthread] at huser
    rw [takeTrap_supervisor false 0 tval s.pc htid huser hfull1 (by rw [hcore c]; exact hoff)]
    have hcur' : ((s1.leaveLines (.thr c tid)).supervisorTrap c tid false code 0 tval s.pc).cur = .thr c tid := by
      rw [supervisorTrap_cur, leaveLines_cur, heq]
      exact hcur
    have hkept : (s1.leaveLines (.thr c tid)).thread (.thr c tid) = s.me := by
      rw [thread, leaveLines_thr, me, hcur]
      exact hthread _
    unfold HeldByTrap
    rw [me, hcur', supervisorTrap_thread, hkept]
    rfl

end State

/-- What MIGRATE leaves in an activation whose partial commit it performed (R26, R38). -/
theorem Thread.committed_of {t u : Thread} (hactst : t.actst = (u.partCommitted 3).actst) (hjournal : t.journal = [])
    (hcontrol : t.control = (u.next 4).control) : t.nr = true ∧ t.journal = [] ∧ t.jcnt = 0 ∧ field t.actst 3 2 = 3 ∧
      t.pc = (u.next 4).pc ∧ ∀ r, t.getX r = (u.next 4).getX r := by
  refine ⟨?_, hjournal, ?_, ?_, Thread.pc_control hcontrol, Thread.getX_control hcontrol⟩
  · rw [Thread.nr, hactst]
    exact Thread.nr_partCommitted _ _
  · rw [Thread.jcnt, hactst]
    exact Thread.jcnt_partCommitted _ _
  · rw [hactst]
    exact Thread.cause_partCommitted _ (by decide)

/-- MIGRATE to a core of the issuer's partition: behind the partial commit it goes on, or departs (R38). -/
theorem execMigrate_within {s : State} {a : BitVec 5} {p : Nat} (hact : s.cur.isAct = true) (hres : s.me.resident = false)
    (hp : s.physOf (field (s.x a) 0 7) = some p) (hpart : s.partOf (.thr p 0) = s.myPart) : execMigrate a s =
      if p = s.cur.coreNo then s.actAs 3 fun s1 => .next (s1.adv 4)
      else s.actAs 3 fun s1 => if s1.pushesPending s1.cur then .next s1 else .next (s1.departs p) := by
  unfold execMigrate
  simp only [hact, hres, hp, hpart, Bool.not_true, Bool.or_self, Bool.false_eq_true, if_false, ne_eq, not_true_eq_false]

/-- MIGRATE to an absent core: a NACK is pending (R38, R135). -/
theorem execMigrate_absent {s : State} {a : BitVec 5} (hact : s.cur.isAct = true) (hres : s.me.resident = false)
    (hp : s.physOf (field (s.x a) 0 7) = none) : execMigrate a s = .next ((s.adv 4).modMe fun t => { t with
      pendTrap := t.pendTrap ++ [{ code := Cause.nack, sub := 2, tval := ofN (s.returnCell s.cur.coreNo s.cur.tid) }] }) := by
  unfold execMigrate
  simp only [hact, hres, hp, Bool.not_true, Bool.or_self, Bool.false_eq_true, if_false]

/-- MIGRATE to a core of another partition takes PERMISSION (R135). -/
theorem execMigrate_foreign {s : State} {a : BitVec 5} {p : Nat} (hact : s.cur.isAct = true) (hres : s.me.resident = false)
    (hp : s.physOf (field (s.x a) 0 7) = some p) (hpart : s.partOf (.thr p 0) ≠ s.myPart) :
    execMigrate a s = .next (s.raise ⟨Cause.permission, s.x a, 0⟩) := by
  unfold execMigrate
  simp only [hact, hres, hp, hpart, Bool.not_true, Bool.or_self, Bool.false_eq_true, if_false, ne_eq, not_false_eq_true, if_true, trapOut]

/-- Settles O22: the four outcomes of MIGRATE, behind the partial commit where NR is clear. -/
theorem migration : Obligations.Migration := by
  unfold Obligations.Migration
  intro s a c tid hcur htid hres
  have hact : s.cur.isAct = true := by
    rw [hcur]
    exact decide_eq_true htid
  have hno : s.cur.coreNo = c := by rw [hcur]; rfl
  have hheld : s.holds s.cur = !s.me.nr := by
    unfold State.holds
    rw [hact]
    rfl
  refine ⟨fun hnone => ?_, fun p hp hpart hnr hsent => ?_, fun p => ?_, fun p hserv hp hpart => ?_⟩
  case refine_1 =>
    obtain ⟨-, hrest⟩ := s.me.completed_next 4
    refine ⟨_, execMigrate_absent hact hres hnone, ?_, ?_, fun _ => rfl⟩
    · rw [State.pc, State.me_modMe, State.me_adv]
    · rw [State.me_modMe, State.me_adv]
      exact ⟨_, congrArg (· ++ _) (hrest.of Thread.pendTrap), rfl, rfl⟩
  case refine_2 =>
    have hexec := execMigrate_within hact hres hp hpart
    rw [hno] at hexec
    rw [hnr] at hheld
    refine ⟨fun hpc => ?_, fun hpc hhosted hpush => ?_⟩
    · rw [if_pos hpc, State.actAs_of_nr _ _ hheld hsent] at hexec
      exact ⟨_, hexec, advanced_adv s 4⟩
    · rw [if_neg hpc, State.actAs_of_nr _ _ hheld hsent, hpush] at hexec
      obtain ⟨hfree, hlen, m, hlast, hdest, hcontrol, -, -, hactid⟩ := State.departs_effect (p := p) hcur htid hhosted
      exact ⟨_, hexec, hfree, hlen, m, hlast, hdest, Thread.getX_control hcontrol, Thread.pc_control hcontrol, hactid⟩
  case refine_3 =>
    intro s1 committed hp hpart hnr hwait hfree hsent
    have hexec := execMigrate_within hact hres hp hpart
    rw [hno] at hexec
    rw [hnr] at hheld
    have hcur1 : s1.cur = .thr c tid := (State.partialCommit_cur _ _ _).trans hcur
    have hme : s1.me.unmarked = (s.me.partCommitted 3).unmarked := by
      rw [State.me, State.partialCommit_cur]
      exact s.partialCommit_thread s.cur 3
    have hcontrol : (s1.me.next 4).control = (s.me.next 4).control := by
      rw [Thread.control_next, Thread.control_next, Thread.of_unmarked Thread.control hme, Thread.control_partCommitted]
    have hactst : s1.me.actst = (s.me.partCommitted 3).actst := Thread.of_unmarked Thread.actst hme
    have hjournal : s1.me.journal = [] := Thread.of_unmarked Thread.journal hme
    refine ⟨fun hpc => ?_, fun hpc hhosted hpush => ?_⟩
    · rw [if_pos hpc, State.actAs_of_held _ _ hheld hfree hsent] at hexec
      obtain ⟨-, hrest⟩ := s1.me.completed_next 4
      refine ⟨_, hexec, ?_⟩
      show committed ((s1.adv 4).me)
      rw [State.me_adv]
      exact Thread.committed_of ((hrest.of Thread.actst).trans hactst) ((hrest.of Thread.journal).trans hjournal) hcontrol
    · have hpush1 : (s.partialCommit s.cur 3).pushesPending (s.partialCommit s.cur 3).cur = false := by
        rwa [State.partialCommit_cur]
      rw [if_neg hpc, State.actAs_of_held _ _ hheld hfree hsent, hpush1] at hexec
      have hhosted1 : s1.me.hosted = none := (Thread.of_unmarked Thread.hosted hme).trans hhosted
      obtain ⟨hst, hlen, m, hlast, hdest, hctl, hast, hjnl, hactid⟩ := State.departs_effect (p := p) hcur1 htid hhosted1
      refine ⟨_, hexec, hst, hlen.trans ?_, m, hlast, hdest, ?_, ?_⟩
      · exact congrArg (· + 1) (State.partialCommit_keepsThreads s s.cur 3).migrants
      · exact Thread.committed_of (hast.trans hactst) (hjnl.trans hjournal) (hctl.trans hcontrol)
      · have hid : s1.me.actid = (s.me.partCommitted 3).actid := Thread.of_unmarked Thread.actid hme
        exact hactid.trans hid
  case refine_4 =>
    refine ⟨_, execMigrate_foreign hact hres hp hpart, State.raise_heldByTrap 4 hserv (by decide) ?_⟩
    simp [State.userLevel, Cause.permission, Cause.futureEmpty, Cause.nack, Cause.fpTrap, Cause.ternaryInvalid, Cause.streamFault]

end Sys2Proof.Machine

namespace Sys2Proof.Machine

/-! ### Lines, counts and accounts (R174, R275, R383, R384, R407) -/

/-- What leaving a line, a count, an account or a settled stage may touch: of the cores the send buffer with its line, the counts and
accounts, and the stage; of the rest only Sets and dies. -/
def AccountsOnly (s t : State) : Prop :=
  t = { s with core := t.core, sets := t.sets, die := t.die } ∧
  ∀ c, t.getCore c = { s.getCore c with
    sendBuf := (t.getCore c).sendBuf, niWait := (t.getCore c).niWait, pm := (t.getCore c).pm, fixed := (t.getCore c).fixed
    delay := (t.getCore c).delay, stageNext := (t.getCore c).stageNext, stageMoved := (t.getCore c).stageMoved }

namespace AccountsOnly

theorem refl (s : State) : AccountsOnly s s := ⟨rfl, fun _ => rfl⟩

theorem trans {s t u : State} (h : AccountsOnly s t) (g : AccountsOnly t u) : AccountsOnly s u := by
  obtain ⟨h1, h2⟩ := h
  obtain ⟨g1, g2⟩ := g
  refine ⟨?_, fun c => ?_⟩
  · rw [g1, h1]
  · rw [g2, h2]

theorem modCore (s : State) (c : Nat) (f : Core → Core)
    (hf : ∀ k, f k = { k with sendBuf := (f k).sendBuf, niWait := (f k).niWait, pm := (f k).pm, fixed := (f k).fixed
                              delay := (f k).delay, stageNext := (f k).stageNext, stageMoved := (f k).stageMoved } := by intro; rfl) :
    AccountsOnly s (s.modCore c f) := by
  refine ⟨rfl, fun b => ?_⟩
  rw [State.getCore_modCore]
  split
  case isTrue h =>
    rw [h]
    exact hf _
  case isFalse => rfl

theorem modSet (s : State) (n : Nat) (f : SetSt → SetSt) : AccountsOnly s (s.modSet n f) := ⟨rfl, fun _ => rfl⟩
theorem modDie (s : State) (d : Nat) (f : Die → Die) : AccountsOnly s (s.modDie d f) := ⟨rfl, fun _ => rfl⟩

section
variable {s t : State} (h : AccountsOnly s t)
include h

theorem thr : t.thr = s.thr := by rw [h.1]
theorem cur : t.cur = s.cur := by rw [h.1]
theorem mem : t.mem = s.mem := by rw [h.1]
theorem thread (a : Agent) : t.thread a = s.thread a := by rw [State.thread, State.thread, h.thr]
theorem inbox (c : Nat) : (t.getCore c).inbox = (s.getCore c).inbox := by rw [h.2 c]
theorem t7q (c : Nat) : (t.getCore c).t7q = (s.getCore c).t7q := by rw [h.2 c]
theorem t7cur (c : Nat) : (t.getCore c).t7cur = (s.getCore c).t7cur := by rw [h.2 c]

theorem keepsThreads : KeepsThreads s t :=
  .of_core h.cur (by rw [h.1]) h.thr fun c => by rw [h.2 c]; rfl

end

end AccountsOnly

namespace State

theorem setSendQ_accounts (s : State) (u : Nat) (b : List Msg) (w : List (Nat × Msg)) : AccountsOnly s (s.setSendQ u b w) := by
  unfold setSendQ
  split
  · exact .modCore _ _ _
  · exact .modSet _ _ _

theorem leaveLines_accounts (s : State) (a : Agent) : AccountsOnly s (s.leaveLines a) := by
  have hline : ∀ p : Prop, [Decidable p] → ∀ n f, AccountsOnly s (if p then s else s.modSet n f) := fun p _ n f => by
    split
    · exact .refl s
    · exact .modSet _ _ _
  unfold leaveLines
  dsimp only
  split
  · exact (hline _ _ _).trans (setSendQ_accounts _ _ _ _)
  · exact hline _ _ _

theorem countCore_accounts (s : State) (c k : Nat) : AccountsOnly s (s.countCore c k) := .modCore _ _ _

theorem traceRetire_accounts (s : State) (c tid : Nat) (t : Thread) (kind : Nat) : AccountsOnly s (s.traceRetire c tid t kind) := by
  unfold traceRetire traceRecord
  split
  · exact .refl s
  · exact .modDie _ _ _

theorem accountDelay_accounts (s : State) (c : Nat) (hdr0 hdr1 arrival taken idle : Word) :
    AccountsOnly s (s.accountDelay c hdr0 hdr1 arrival taken idle) := by
  unfold accountDelay
  split
  · exact .refl s
  · exact .modCore _ _ _

theorem accountEnd_accounts (s : State) (c tid : Nat) (t : Thread) (kind : Nat) : AccountsOnly s (s.accountEnd c tid t kind) := by
  refine AccountsOnly.trans ?_ (accountDelay_accounts _ _ _ _ _ _ _)
  split
  · exact traceRetire_accounts _ _ _ _ _
  · exact .refl s

theorem settleStage_accounts (s : State) (c : Nat) : AccountsOnly s (s.settleStage c) := by
  unfold settleStage
  split
  · exact .refl s
  · dsimp only
    split
    · exact .refl s
    · exact .modCore _ _ _

/-! ### The end of an activation (R19, R28, R87) -/

/-- What a thread is after its activation (R19, R87). -/
def freed (s : State) (c tid : Nat) (t : Thread) : Thread :=
  { (if tid < 6 then Thread.blank t else t) with
    st := if t.hosted.isSome then .saved else if tid = 6 ∧ bitAt (s.getCore c).ckstat 16 then .off else .free
    held := .free
    wait := none, journal := [], jbad := false, pendTrap := [], launch := false, cctr := none, slot := none, slotAt := none
    loopActive := false, resident := false, ss := [], cellBusy := false, yielded := false, landing := 0 }

theorem freeThread_accounts (s : State) (c tid : Nat) :
    AccountsOnly (s.modThread (.thr c tid) (s.freed c tid)) (s.freeThread c tid) := settleStage_accounts _ _

theorem freeThread_thread (s : State) (c tid : Nat) : (s.freeThread c tid).thread (.thr c tid) = s.freed c tid (s.thread (.thr c tid)) :=
  ((freeThread_accounts s c tid).thread _).trans (thread_modThread_same _ _ _)

theorem freeThread_thread_other (s : State) (c tid : Nat) {a : Agent} (h : a.key ≠ (Agent.thr c tid).key) :
    (s.freeThread c tid).thread a = s.thread a :=
  ((freeThread_accounts s c tid).thread _).trans (thread_modThread_other _ _ h)

theorem edgeSend_keepsThreads (s : State) (m : Msg) : KeepsThreads s (s.edgeSend m) :=
  (releaseOn_keepsThreads s (unitDie m.src)).trans (.of_eq rfl rfl rfl rfl)

theorem sendFault_keepsThreads (s : State) (c part : Nat) (rcb : Word) (byCp : Bool) (code : BitVec 8) (payload : List Word) (told : Bool) :
    KeepsThreads s (s.sendFault c part rcb byCp code payload told) := by
  have hcount : KeepsThreads s (if told then s else s.countCore c 0x14) := by
    split
    · exact .refl s
    · exact (countCore_accounts _ _ _).keepsThreads
  unfold sendFault
  split
  · split
    · exact edgeSend_keepsThreads _ _
    · exact requestSend_keepsThreads _ _ _ _
  · dsimp only
    split
    · exact hcount.trans (modDie_keepsThreads _ _ _)
    · exact hcount

theorem completeLaunch_keepsThreads (s : State) (c : Nat) (t : Thread) (bad : Bool) : KeepsThreads s (s.completeLaunch c t bad) := by
  have hput : ∀ (u : State) p rcb i v, KeepsThreads u (u.putRcbWord p rcb i v) := fun u p rcb i v => by
    unfold putRcbWord
    split
    · exact .of_unitWrite (((putPlain_unitWrite _ _ _ _ _).trans (ackAt_unitWrite _ _ _ _)).trans (ackAt_unitWrite _ _ _ _))
    · exact .refl u
  unfold completeLaunch
  split
  · exact .refl s
  · dsimp only
    cases t.cctr with
    | none => exact hput _ _ _ _ _
    | some k => exact (decDcOn_keepsThreads _ _ _ _ _).trans (hput _ _ _ _ _)

theorem freeSlotOf_keepsThreads (s : State) (c : Nat) (t : Thread) : KeepsThreads s (s.freeSlotOf c t) := by
  unfold freeSlotOf freeSlot
  split
  · exact .refl s
  · exact .modCore _ _ _

/-- An escalation ends the activation of a thread of T0 to T5; what it sends and counts leaves every thread (R28, R393). -/
theorem escalate_frees (s : State) {c tid : Nat} (htid : tid ≠ 6) (byCp tell : Bool) (code sub : BitVec 8) (tval epc : Word) :
    ∃ u, KeepsThreads s u ∧ s.escalate c tid byCp tell code sub tval epc = u.freeThread c tid := by
  have hleft : KeepsThreads s ((s.leaveLines (.thr c tid)).countCore c 0x14) :=
    ((leaveLines_accounts _ _).trans (countCore_accounts _ _ _)).keepsThreads
  have htold : KeepsThreads s (if tell then ((s.leaveLines (.thr c tid)).countCore c 0x14).sendThreadFault c tid (s.thread (.thr c tid)) byCp
      code sub tval epc else (s.leaveLines (.thr c tid)).countCore c 0x14) := by
    split
    · exact hleft.trans (sendFault_keepsThreads _ _ _ _ _ _ _ _)
    · exact hleft
  unfold escalate
  rw [if_neg htid]
  exact ⟨_, ((htold.trans (accountEnd_accounts _ _ _ _ _).keepsThreads).trans (completeLaunch_keepsThreads _ _ _ _)).trans
    (freeSlotOf_keepsThreads _ _ _), rfl⟩

end State
end Sys2Proof.Machine

namespace Sys2Proof.Machine

/-! ### Retake (R28) -/

/-- The message of a thread's activation back in its inbox, with a count one higher (R28). -/
def Thread.handsBack (t : Thread) (now : Word) (m : InMsg) : InMsg :=
  if some m.slot = t.slot then
    { m with taken := false, retake := some (t.actid, t.rtk + 1), readySince := now, missCounted := t.missCounted }
  else m

namespace State

theorem retake_cases (s : State) (c tid : Nat) : ∃ u, AccountsOnly s u ∧ s.retake c tid =
    ((u.modCore c fun k => { k with inbox := k.inbox.map ((s.thread (.thr c tid)).handsBack s.timebase) }).freeThread c tid).modThread
      (.thr c tid) fun t => { t with gen := t.gen + 1 } :=
  ⟨_, ((leaveLines_accounts _ _).trans (countCore_accounts _ _ _)).trans (accountEnd_accounts _ _ _ _ _), rfl⟩

theorem freed_st (s : State) {c tid : Nat} (htid : tid < 6) (t : Thread) :
    (s.freed c tid t).st = if t.hosted.isSome then .saved else .free := by
  unfold freed
  simp [show tid ≠ 6 by omega]

/-- What a retake leaves: its thread at the end of its activation, every other thread, its message back in the inbox (R28). -/
theorem retake_effect (s : State) {c tid : Nat} (htid : tid < 6) :
    ((s.retake c tid).thread (.thr c tid)).st = (if (s.thread (.thr c tid)).hosted.isSome then .saved else .free) ∧
    ((s.retake c tid).thread (.thr c tid)).journal = [] ∧
    (∀ a : Agent, a.key ≠ (Agent.thr c tid).key → (s.retake c tid).thread a = s.thread a) ∧ (s.retake c tid).cur = s.cur ∧
    ((s.retake c tid).getCore c).inbox = (s.getCore c).inbox.map ((s.thread (.thr c tid)).handsBack s.timebase) ∧
    ((s.retake c tid).getCore c).t7q = (s.getCore c).t7q ∧ ((s.retake c tid).getCore c).t7cur = (s.getCore c).t7cur := by
  obtain ⟨u, hu, heq⟩ := retake_cases s c tid
  generalize hv : (u.modCore c fun k => { k with inbox := k.inbox.map ((s.thread (.thr c tid)).handsBack s.timebase) }) = v at heq
  have hvthread : ∀ a, v.thread a = s.thread a := fun a => by rw [← hv]; exact hu.thread a
  have hvcore : v.getCore c = { u.getCore c with inbox := (u.getCore c).inbox.map ((s.thread (.thr c tid)).handsBack s.timebase) } := by
    rw [← hv, getCore_modCore_same]
  have hvcur : v.cur = s.cur := by rw [← hv]; exact hu.cur
  have hfree := freeThread_accounts v c tid
  rw [heq]
  refine ⟨?_, ?_, fun a ha => ?_, hfree.cur.trans hvcur, (hfree.inbox c).trans ?_, (hfree.t7q c).trans ?_, (hfree.t7cur c).trans ?_⟩
  · rw [thread_modThread_same, freeThread_thread, hvthread]
    exact freed_st v htid _
  · rw [thread_modThread_same, freeThread_thread]
    rfl
  · rw [thread_modThread_other _ _ ha, freeThread_thread_other _ _ _ ha, hvthread]
  · show (v.getCore c).inbox = _
    rw [hvcore, hu.inbox]
  · show (v.getCore c).t7q = _
    rw [hvcore]
    exact hu.t7q c
  · show (v.getCore c).t7cur = _
    rw [hvcore]
    exact hu.t7cur c

/-- What an escalation of a thread of T0 to T5 leaves: its thread at the end of its activation, and of the others all but their marks. -/
theorem escalate_effect (s : State) {c tid : Nat} (htid : tid < 6) (byCp tell : Bool) (code sub : BitVec 8) (tval epc : Word) :
    let t := s.escalate c tid byCp tell code sub tval epc
    (t.thread (.thr c tid)).st = (if (s.thread (.thr c tid)).hosted.isSome then .saved else .free) ∧
    (t.thread (.thr c tid)).journal = [] ∧
    (∀ a : Agent, a.key ≠ (Agent.thr c tid).key → (t.thread a).unmarked = (s.thread a).unmarked) ∧ t.cur = s.cur ∧
    (∀ b, (t.getCore b).quiet = (s.getCore b).quiet) := by
  obtain ⟨u, hu, heq⟩ := escalate_frees s (show tid ≠ 6 by omega) byCp tell code sub tval epc
  have hfree := freeThread_accounts u c tid
  intro t
  rw [show t = u.freeThread c tid from heq]
  refine ⟨?_, ?_, fun a ha => ?_, hfree.cur.trans hu.cur, fun b => ?_⟩
  · rw [freeThread_thread, freed_st u htid, Thread.of_unmarked Thread.hosted (hu.thread _)]
  · rw [freeThread_thread]
    rfl
  · rw [freeThread_thread_other _ _ _ ha]
    exact hu.thread a
  · exact (hfree.keepsThreads.core b).trans (hu.core b)

/-! ### The translation of a core's addresses (R240) -/

/-- Translate reads the partitions and the keys, and of the core its ASID and its RTB. -/
theorem translate_congr {s t : State} {c : Nat} (tid : Nat) (hp : t.part = s.part) (hk : t.keys = s.keys)
    (ha : (t.getCore c).asid = (s.getCore c).asid) (hr : (t.getCore c).rtb = (s.getCore c).rtb) (va n : Nat) (k : Kind) (r : Bool) :
    t.translate (.thr c tid) va n k r = s.translate (.thr c tid) va n k r := by
  have hpart : ∀ p, t.getPart p = s.getPart p := fun p => by rw [getPart, getPart, hp]
  have hfault : t.rangeFault = s.rangeFault := by
    funext g sec p va n k r
    unfold rangeFault keyOf
    rw [hk]
  unfold translate translateFor secureOf
  rw [partOf_thr, partOf_thr, ha, hpart, hfault, show (Agent.thr c tid).coreNo = c from rfl, hr]

theorem areaFault_congr {s t : State} {c : Nat} (tid : Nat) (hp : t.part = s.part) (hk : t.keys = s.keys)
    (ha : (t.getCore c).asid = (s.getCore c).asid) (hr : (t.getCore c).rtb = (s.getCore c).rtb)
    (hh : (t.getCore c).htab = (s.getCore c).htab) (hm : t.mem = s.mem) : t.areaFault c tid = s.areaFault c tid := by
  unfold areaFault saveArea
  simp only [translate_congr 7 hp hk ha hr, block_congr (SameLocal.of_mem hm) hh]

/-! ### The end of T7's item (R132, R392) -/

theorem admitItems_nil {s : State} {c : Nat} (h : (s.getCore c).itemWait = []) : s.admitItems c = s := by
  unfold admitItems
  refine List.foldl_fixed' (fun _ => ?_) _
  rw [h]

theorem startItem_nil {s : State} {c : Nat} (h : (s.getCore c).t7q = []) : s.startItem c = s := by
  unfold startItem
  dsimp only
  rw [h]

/-- T7 of core `c` has no item and is FREE. -/
def idled (s : State) (c : Nat) : State :=
  (s.modCore c fun k => { k with t7cur := none }).modThread (.thr c 7) fun t => { t with st := .free, wait := none }

theorem endItem_none {s : State} {c : Nat} (hwait : (s.getCore c).itemWait = []) (hcur : (s.getCore c).t7cur = none) :
    s.endItem c = (s.idled c).startItem c := by
  unfold endItem idled
  rw [hcur]
  dsimp only
  rw [admitItems_nil (by rw [getCore_modCore_same]; exact hwait)]

theorem endItem_trap {s : State} {c tid : Nat} {it : Item} (hwait : (s.getCore c).itemWait = []) (hcur : (s.getCore c).t7cur = some it)
    (hkind : it.kind = 0) (hthr : it.thr = some tid) (href : it.ref = .nothing) (hcode : field (s.dispositionWord c it) 0 3 ≠ 5) :
    s.endItem c = ((s.idled c).disposeThread c it tid (field (s.dispositionWord c it) 0 3)).startItem c := by
  unfold endItem idled itemServes resumeRef
  rw [hcur]
  dsimp only
  rw [admitItems_nil (by rw [getCore_modCore_same]; exact hwait), if_neg hcode, hkind, hthr, href]
  rfl

theorem endItem_unpark {s : State} {c : Nat} {it : Item} (hwait : (s.getCore c).itemWait = []) (hcur : (s.getCore c).t7cur = some it)
    (hkind : it.kind = 2) (href : it.ref = .nothing) (hcode : field (s.dispositionWord c it) 0 3 = 5) :
    s.endItem c = ((s.idled c).unpark c (field (s.dispositionWord c it) 8 3)).startItem c := by
  unfold endItem idled itemServes resumeRef
  rw [hcur]
  dsimp only
  rw [admitItems_nil (by rw [getCore_modCore_same]; exact hwait), if_pos hcode, hkind, href]
  rfl

end State
end Sys2Proof.Machine

namespace Sys2Proof.Machine

/-- T7 is no other thread of its core. -/
theorem Agent.key_t7_ne (c : Nat) {tid : Nat} (h : tid < 7) : (Agent.thr c 7).key ≠ (Agent.thr c tid).key := by
  show 8 * c + 7 ≠ 8 * c + tid
  omega

namespace State

/-! What ERET leaves before the disposition of the item lands. -/

section
variable {s : State} {c : Nat} (hcur : s.cur = .thr c 7)
include hcur

theorem thread_adv_other {a : Agent} (h : a.key ≠ (Agent.thr c 7).key) (n : Nat) : (s.adv n).thread a = s.thread a :=
  thread_modThread_other s _ (by rwa [hcur])

/-- T7 has ended its item: it is FREE. -/
theorem idled_thread_other {a : Agent} (h : a.key ≠ (Agent.thr c 7).key) : ((s.adv 4).idled c).thread a = s.thread a :=
  (thread_modThread_other _ _ h).trans (thread_adv_other hcur h 4)

theorem idled_thread {tid : Nat} (h : tid < 7) : ((s.adv 4).idled c).thread (.thr c tid) = s.thread (.thr c tid) :=
  idled_thread_other hcur (Agent.key_t7_ne c h).symm

theorem idled_cur : ((s.adv 4).idled c).cur = .thr c 7 := hcur

omit hcur in
theorem idled_t7 : (((s.adv 4).idled c).thread (.thr c 7)).st = .free ∧ (((s.adv 4).idled c).thread (.thr c 7)).wait = none := by
  unfold idled
  rw [thread_modThread_same]
  exact ⟨rfl, rfl⟩

omit hcur in
theorem idled_getCore : ((s.adv 4).idled c).getCore c = { s.getCore c with t7cur := none } :=
  getCore_modCore_same (s.adv 4) c fun k => { k with t7cur := none }

omit hcur in
theorem idled_areaFault (tid : Nat) : ((s.adv 4).idled c).areaFault c tid = s.areaFault c tid :=
  areaFault_congr (s := s) (t := (s.adv 4).idled c) tid rfl rfl (by rw [idled_getCore]) (by rw [idled_getCore])
    (by rw [idled_getCore]) rfl

omit hcur in
theorem idled_mem : ((s.adv 4).idled c).mem = s.mem := rfl

theorem exec_eret {i : Instr} (hi : i ∈ [Instr.eretResume, .eretPreempt, .eretPark, .eretRetake, .eretKill, .eretUnpark]) :
    exec i s = .next ((s.adv 4).endItem c) := by
  have heret : ∀ e, s.eret e = .next ((s.adv 4).endItem c) := fun e => by
    unfold eret
    rw [hcur]
    rfl
  simp only [List.mem_cons, List.not_mem_nil, or_false] at hi
  rcases hi with rfl | rfl | rfl | rfl | rfl | rfl <;> exact heret _

end

/-! Where the disposition of a trap lands (R392). -/

section
variable {s : State} {c tid code : Nat} {it : Item} (hkind : it.kind = 0) (hheld : trapHeld (s.thread (.thr c tid)) = true)
include hkind hheld

theorem disposeThread_resume (hcode : code ∈ [0, 6, 7]) (hlanding : (s.thread (.thr c tid)).landing = 0) :
    s.disposeThread c it tid code = s.resumeHeld c tid := by
  have hacts : actsAsResume (s.thread (.thr c tid)) tid code = true := by
    simp only [List.mem_cons, List.not_mem_nil, or_false] at hcode
    unfold actsAsResume
    rcases hcode with rfl | rfl | rfl <;> rfl
  unfold disposeThread resumeTrap
  simp only [hkind, hheld, hacts, hlanding, Bool.not_true, Bool.false_eq_true, if_false, if_true,
    OfNat.zero_ne_ofNat]

theorem disposeThread_land (hacts : actsAsResume (s.thread (.thr c tid)) tid code = false) :
    s.disposeThread c it tid code = s.landDisposition c tid code (it.word.extractLsb' 56 8) (it.word.extractLsb' 48 8)
      (s.thread (.thr c tid)).tval (s.thread (.thr c tid)).epc := by
  unfold disposeThread
  simp only [hkind, hheld, hacts, Bool.not_true, Bool.false_eq_true, if_false, OfNat.zero_ne_ofNat]

end

/-- The save of a context that may be saved begins (R396). -/
theorem startSave_ok {s : State} {c tid : Nat} {parked : Bool} (h : s.areaFault c tid = none) :
    s.startSave c tid parked = (s.leaveLines (.thr c tid)).modThread (.thr c tid) fun t => { t with
      pc := if trapHeld t then t.epc else t.pc, st := .wait, landing := 0, wait := some { kind := .saving parked }
      ss := t.ss.map fun e => (e.1, { e.2 with ahead := [] }) } := by
  unfold startSave
  rw [h]

/-! Which dispositions a thread treats as RESUME (R392). -/

theorem actsAsResume_save {t : Thread} {tid code : Nat} (htid : tid < 6) (hres : t.resident = false) (hhosted : t.hosted = none)
    (hcode : code = 1 ∨ code = 2) : actsAsResume t tid code = false := by
  have h6 : tid ≠ 6 := by omega
  unfold actsAsResume
  rcases hcode with rfl | rfl <;> simp [hres, hhosted, h6]

theorem actsAsResume_retake {t : Thread} {tid : Nat} (htid : tid < 6) (hres : t.resident = false) : actsAsResume t tid 3 = false := by
  have h6 : tid ≠ 6 := by omega
  unfold actsAsResume
  simp [hres, h6]

theorem actsAsResume_kill (t : Thread) (tid : Nat) : actsAsResume t tid 4 = false := by
  unfold actsAsResume
  simp

theorem landDisposition_save {s : State} {c tid code : Nat} (cause sub : BitVec 8) (tval epc : Word) (hcode : code = 1 ∨ code = 2)
    (hdue : dueError (s.thread (.thr c tid)) = none) :
    s.landDisposition c tid code cause sub tval epc = s.startSave c tid (decide (code = 2)) := by
  unfold landDisposition
  rw [if_pos hcode, hdue]

theorem landDisposition_retake (s : State) (c tid : Nat) (cause sub : BitVec 8) (tval epc : Word) :
    s.landDisposition c tid 3 cause sub tval epc = s.retakeOrKill c tid cause sub tval epc := rfl

theorem landDisposition_kill (s : State) (c tid : Nat) (cause sub : BitVec 8) (tval epc : Word) :
    s.landDisposition c tid 4 cause sub tval epc = s.escalate c tid false true cause sub tval epc := rfl

/-- An activation that may be retaken is (R28). -/
theorem retakeOrKill_retake {s : State} {c tid : Nat} (code sub : BitVec 8) (tval epc : Word) (htid : tid < 6)
    (hnr : (s.thread (.thr c tid)).nr = false) (hrtk : (s.thread (.thr c tid)).rtk < 2) (hres : (s.thread (.thr c tid)).resident = false) :
    s.retakeOrKill c tid code sub tval epc = s.retake c tid := by
  unfold retakeOrKill
  simp only [htid, hnr, hrtk, hres, decide_true, Bool.not_false, Bool.and_self, if_true]

/-- One with NR set, or retaken twice, ends. -/
theorem retakeOrKill_kill {s : State} {c tid : Nat} (code sub : BitVec 8) (tval epc : Word)
    (h : (s.thread (.thr c tid)).nr = true ∨ 2 ≤ (s.thread (.thr c tid)).rtk) :
    s.retakeOrKill c tid code sub tval epc = s.escalate c tid false true code sub tval epc := by
  unfold retakeOrKill
  refine if_neg ?_
  simp only [Bool.and_eq_true, Bool.not_eq_true', decide_eq_true_eq, not_and]
  obtain h | h := h
  · simp [h]
  · omega

/-- T7 has ended its item in `v`, and none waits. -/
structure ItemEnded (c : Nat) (v : State) : Prop where
  cur : v.cur = .thr c 7
  free : (v.thread (.thr c 7)).st = .free
  none : (v.getCore c).t7cur = none
  empty : (v.getCore c).t7q = []

theorem ItemEnded.startItem {c : Nat} {v : State} (h : ItemEnded c v) : v.startItem c = v := startItem_nil h.empty

theorem ItemEnded.me {c : Nat} {v : State} (h : ItemEnded c v) : v.me.st = .free := by
  rw [State.me, h.cur, h.free]

theorem idled_itemEnded {s : State} {c : Nat} (hcur : s.cur = .thr c 7) (hq : (s.getCore c).t7q = []) : ItemEnded c ((s.adv 4).idled c) :=
  ⟨idled_cur hcur, idled_t7.1, by rw [idled_getCore], by rw [idled_getCore]; exact hq⟩

theorem ItemEnded.accounts {c : Nat} {u v : State} (h : ItemEnded c u) (huv : AccountsOnly u v) : ItemEnded c v :=
  ⟨huv.cur.trans h.cur, by rw [huv.thread, h.free], (huv.t7cur c).trans h.none, (huv.t7q c).trans h.empty⟩

theorem ItemEnded.modThread {c tid : Nat} {u : State} (h : ItemEnded c u) (htid : tid < 7) (f : Thread → Thread) :
    ItemEnded c (u.modThread (.thr c tid) f) :=
  ⟨h.cur, by rw [thread_modThread_other _ _ (Agent.key_t7_ne c htid), h.free], h.none, h.empty⟩

theorem ItemEnded.retake {c tid : Nat} {u : State} (h : ItemEnded c u) (htid : tid < 6) : ItemEnded c (u.retake c tid) := by
  obtain ⟨-, -, hthr, hcur, -, hq, hitem⟩ := u.retake_effect (c := c) htid
  exact ⟨hcur.trans h.cur, by rw [hthr _ (Agent.key_t7_ne c (by omega)), h.free], hitem.trans h.none, hq.trans h.empty⟩

theorem ItemEnded.escalate {c tid : Nat} {u : State} (h : ItemEnded c u) (htid : tid < 6) (byCp tell : Bool) (code sub : BitVec 8)
    (tval epc : Word) : ItemEnded c (u.escalate c tid byCp tell code sub tval epc) := by
  obtain ⟨-, -, hthr, hcur, hcore⟩ := u.escalate_effect (c := c) htid byCp tell code sub tval epc
  have hst := Thread.of_unmarked Thread.st (hthr (.thr c 7) (Agent.key_t7_ne c (by omega)))
  have hquiet := hcore c
  refine ⟨hcur.trans h.cur, hst.trans h.free, ?_, ?_⟩
  · have hitem := congrArg Core.t7cur hquiet
    exact hitem.trans h.none
  · have hq := congrArg Core.t7q hquiet
    exact hq.trans h.empty

/-! What ERET does, by the disposition of its item (R392). -/

section
variable {s : State} {c tid : Nat} {i : Instr} {it : Item} (hcur : s.cur = .thr c 7) (hwait : (s.getCore c).itemWait = [])
  (hi : i ∈ [Instr.eretResume, .eretPreempt, .eretPark, .eretRetake, .eretKill, .eretUnpark]) (hq : (s.getCore c).t7q = [])
  (hit : (s.getCore c).t7cur = some it)
include hcur hwait hi hq hit

omit hq in
/-- ERET at the end of the item of a trap: T7 is freed, and the disposition lands on the thread. -/
theorem eret_trap (hkind : it.kind = 0) (hthr : it.thr = some tid) (href : it.ref = .nothing)
    (hcode : field (s.dispositionWord c it) 0 3 ≠ 5)
    (hended : ItemEnded c (((s.adv 4).idled c).disposeThread c it tid (field (s.dispositionWord c it) 0 3))) :
    exec i s = .next (((s.adv 4).idled c).disposeThread c it tid (field (s.dispositionWord c it) 0 3)) :=
  (exec_eret hcur hi).trans (congrArg _ ((endItem_trap (s := s.adv 4) hwait hit hkind hthr href hcode).trans hended.startItem))

section
variable (hkind : it.kind = 0) (hthr : it.thr = some tid) (href : it.ref = .nothing) (htid : tid < 6)
  (hheld : trapHeld (s.thread (.thr c tid)) = true)
include hkind hthr href htid hheld

omit hq in
/-- The same with a disposition that is not RESUME. -/
theorem eret_lands {code : Nat} (hcode : field (s.dispositionWord c it) 0 3 = code) (h5 : code ≠ 5)
    (hacts : actsAsResume (s.thread (.thr c tid)) tid code = false) {v : State}
    (hland : ((s.adv 4).idled c).landDisposition c tid code (it.word.extractLsb' 56 8) (it.word.extractLsb' 48 8)
      (s.thread (.thr c tid)).tval (s.thread (.thr c tid)).epc = v) (hended : ItemEnded c v) : exec i s = .next v := by
  have hthread := idled_thread hcur (show tid < 7 by omega)
  have hdispose : ((s.adv 4).idled c).disposeThread c it tid (field (s.dispositionWord c it) 0 3) = v := by
    rw [hcode, disposeThread_land hkind (by rw [hthread]; exact hheld) (by rw [hthread]; exact hacts), hthread]
    exact hland
  rw [← hdispose] at hended ⊢
  exact eret_trap hcur hwait hi hit hkind hthr href (hcode ▸ h5) hended

/-- PREEMPT and PARK begin the save of the held thread's context. -/
theorem eret_saves (hcode : field (s.dispositionWord c it) 0 3 = 1 ∨ field (s.dispositionWord c it) 0 3 = 2)
    (hres : (s.thread (.thr c tid)).resident = false) (hhosted : (s.thread (.thr c tid)).hosted = none)
    (hfault : s.areaFault c tid = none) (hdue : dueError (s.thread (.thr c tid)) = none) :
    ∃ v, exec i s = .next v ∧ ItemEnded c v ∧ v.mem = s.mem ∧ v.thread (.thr c tid) = { s.thread (.thr c tid) with
      pc := (s.thread (.thr c tid)).epc, st := .wait, landing := 0
      wait := some { kind := .saving (field (s.dispositionWord c it) 0 3 == 2) }
      ss := (s.thread (.thr c tid)).ss.map fun e => (e.1, { e.2 with ahead := [] }) } := by
  have hthread := idled_thread hcur (show tid < 7 by omega)
  have hended := idled_itemEnded hcur hq
  have hfault' := (idled_areaFault (s := s) (c := c) tid).trans hfault
  have hmem := idled_mem (s := s) (c := c)
  have hlands := fun k hcd h5 hacts v => @eret_lands s c tid i it hcur hwait hi hit hkind hthr href htid hheld k hcd h5 hacts v
  generalize (s.adv 4).idled c = u at *
  generalize hcd : field (s.dispositionWord c it) 0 3 = code at *
  have hleft := u.leaveLines_accounts (.thr c tid)
  have hsaved := (hended.accounts hleft).modThread (show tid < 7 by omega) fun t => { t with
    pc := if trapHeld t then t.epc else t.pc, st := .wait, landing := 0, wait := some { kind := .saving (decide (code = 2)) }
    ss := t.ss.map fun e => (e.1, { e.2 with ahead := [] }) }
  have hland := (landDisposition_save (it.word.extractLsb' 56 8) (it.word.extractLsb' 48 8) (s.thread (.thr c tid)).tval
    (s.thread (.thr c tid)).epc hcode (by rw [hthread]; exact hdue)).trans (startSave_ok hfault')
  refine ⟨_, hlands code rfl (by omega) (actsAsResume_save htid hres hhosted hcode) _ hland hsaved, hsaved, hleft.mem.trans hmem, ?_⟩
  rw [thread_modThread_same, hleft.thread, hthread, if_pos hheld]
  rfl

/-- RETAKE of an activation that may be retaken puts its message back. -/
theorem eret_retakes (hcode : field (s.dispositionWord c it) 0 3 = 3) (hres : (s.thread (.thr c tid)).resident = false)
    (hnr : (s.thread (.thr c tid)).nr = false) (hrtk : (s.thread (.thr c tid)).rtk < 2) :
    ∃ v, exec i s = .next v ∧ ItemEnded c v ∧
      (v.thread (.thr c tid)).st = (if (s.thread (.thr c tid)).hosted.isSome then .saved else .free) ∧
      (v.thread (.thr c tid)).journal = [] ∧
      (v.getCore c).inbox = (s.getCore c).inbox.map ((s.thread (.thr c tid)).handsBack s.timebase) := by
  have hthread := idled_thread hcur (show tid < 7 by omega)
  have hdone := (idled_itemEnded hcur hq).retake htid
  obtain ⟨hst, hjournal, -, -, hback, -⟩ := ((s.adv 4).idled c).retake_effect (c := c) htid
  rw [hthread] at hst hback
  rw [idled_getCore] at hback
  exact ⟨_, eret_lands hcur hwait hi hit hkind hthr href htid hheld hcode (by omega) (actsAsResume_retake htid hres)
    ((landDisposition_retake _ _ _ _ _ _ _).trans (retakeOrKill_retake _ _ _ _ htid (by rwa [hthread]) (by rwa [hthread])
      (by rwa [hthread]))) hdone, hdone, hst, hjournal, hback⟩

/-- KILL, and RETAKE of an activation that may not be retaken, end the activation. -/
theorem eret_kills (hcode : field (s.dispositionWord c it) 0 3 = 4 ∨ (field (s.dispositionWord c it) 0 3 = 3 ∧
      (s.thread (.thr c tid)).resident = false ∧ ((s.thread (.thr c tid)).nr = true ∨ 2 ≤ (s.thread (.thr c tid)).rtk))) :
    ∃ v, exec i s = .next v ∧ ItemEnded c v ∧
      (v.thread (.thr c tid)).st = (if (s.thread (.thr c tid)).hosted.isSome then .saved else .free) ∧
      (v.thread (.thr c tid)).journal = [] := by
  have hthread := idled_thread hcur (show tid < 7 by omega)
  have hdone := (idled_itemEnded hcur hq).escalate htid false true (it.word.extractLsb' 56 8) (it.word.extractLsb' 48 8)
    (s.thread (.thr c tid)).tval (s.thread (.thr c tid)).epc
  obtain ⟨hst, hjournal, -⟩ := ((s.adv 4).idled c).escalate_effect (c := c) htid false true (it.word.extractLsb' 56 8)
    (it.word.extractLsb' 48 8) (s.thread (.thr c tid)).tval (s.thread (.thr c tid)).epc
  rw [hthread] at hst
  refine ⟨_, ?_, hdone, hst, hjournal⟩
  obtain h4 | ⟨h3, hres, hend⟩ := hcode
  · exact eret_lands hcur hwait hi hit hkind hthr href htid hheld h4 (by omega) (actsAsResume_kill _ _)
      (landDisposition_kill _ _ _ _ _ _ _) hdone
  · exact eret_lands hcur hwait hi hit hkind hthr href htid hheld h3 (by omega) (actsAsResume_retake htid hres)
      ((landDisposition_retake _ _ _ _ _ _ _).trans (retakeOrKill_kill _ _ _ _ (by rwa [hthread]))) hdone

/-- RESUME makes the held thread run at its EPC. -/
theorem eret_resumes (hcode : field (s.dispositionWord c it) 0 3 ∈ [0, 6, 7]) (hst : (s.thread (.thr c tid)).st = .wait)
    (hlanding : (s.thread (.thr c tid)).landing = 0) :
    ∃ v, exec i s = .next v ∧ ItemEnded c v ∧ v.mem = s.mem ∧ v.thread (.thr c tid) = { s.thread (.thr c tid) with
      pc := (s.thread (.thr c tid)).epc, st := .run, wait := none, landing := 0, cellBusy := false } := by
  have hthread := idled_thread hcur (show tid < 7 by omega)
  have hended := idled_itemEnded hcur hq
  have hmem := idled_mem (s := s) (c := c)
  have htrap := eret_trap hcur hwait hi hit hkind hthr href
  generalize (s.adv 4).idled c = u at *
  have hdispose := disposeThread_resume (s := u) hkind (by rw [hthread]; exact hheld) hcode (by rw [hthread]; exact hlanding)
  have hdone : ItemEnded c (u.resumeHeld c tid) := hended.modThread (show tid < 7 by omega) _
  have hne : field (s.dispositionWord c it) 0 3 ≠ 5 := by
    intro h5
    rw [h5] at hcode
    exact absurd hcode (by decide)
  rw [hdispose] at htrap
  refine ⟨_, htrap hne hdone, hdone, hmem, ?_⟩
  unfold resumeHeld
  rw [thread_modThread_same, hthread]
  refine (if_pos hheld).trans ?_
  rw [hst]
  rfl

end

/-- UNPARK makes the parked context of the thread that it names resumable. -/
theorem eret_unparks {k : Nat} (hkind : it.kind = 2) (href : it.ref = .nothing) (hk : k < 6)
    (hword : s.dispositionWord c it = ofN (5 + 256 * k)) :
    ∃ v, exec i s = .next v ∧ (v.thread (.thr c k)).hosted = (s.thread (.thr c k)).hosted.map fun h => { h with parked := false } := by
  have hcode : field (s.dispositionWord c it) 0 3 = 5 := by
    rw [hword]
    interval_cases k <;> rfl
  have hthr : field (s.dispositionWord c it) 8 3 = k := by
    rw [hword]
    interval_cases k <;> rfl
  have hdone : ItemEnded c (((s.adv 4).idled c).unpark c k) := (idled_itemEnded hcur hq).modThread (show k < 7 by omega) _
  have hend := endItem_unpark (s := s.adv 4) hwait hit hkind href hcode
  rw [show field ((s.adv 4).dispositionWord c it) 8 3 = k from hthr, hdone.startItem] at hend
  refine ⟨_, (exec_eret hcur hi).trans (congrArg _ hend), ?_⟩
  unfold unpark
  rw [thread_modThread_same, idled_thread hcur (show k < 7 by omega)]

end

/-- T7 takes the item that waits for it, at the service entry (R132, R391). -/
theorem startItem_cases {s : State} {c : Nat} {it : Item} {rest : List Item} (hq : (s.getCore c).t7q = it :: rest)
    (hfree : (s.thread (.thr c 7)).st = .free) (hcur : (s.getCore c).t7cur = none) (hres : (s.getCore c).resetting = false)
    (hkind : it.kind = 0) :
    ∃ f : Thread → Thread, s.startItem c = (s.modCore c fun k => { k with t7q := rest, t7cur := some it }).modThread (.thr c 7) f ∧
      ∀ t, (f t).st = .run ∧ (f t).pc = ofN (field (s.block c 0x1000) 0 20) ∧
        (f t).x = ((t.setX 4 (ofN (s.serviceSlot c it.slot))).setX 5 it.word).x := by
  unfold startItem
  dsimp only
  rw [hq]
  simp only [hfree, hcur, hres, hkind, ne_eq, not_true_eq_false, Option.isSome_none, Bool.false_eq_true, or_self, if_false,
    OfNat.zero_ne_ofNat]
  exact ⟨_, rfl, fun t => ⟨rfl, rfl, rfl⟩⟩

end State

/-- Settles O21: ERET frees T7, then the disposition of its item lands, by its code; then T7 takes its next item. -/
theorem returnFromTrap : Obligations.ReturnFromTrap := by
  unfold Obligations.ReturnFromTrap
  intro s c hcur hwait i hi
  refine ⟨?_, ?_, ?_, ?_, ?_⟩
  · intro it tid hit hq hkind hthr href htid hheld hres h code
    refine ⟨fun hcode hhosted hfault hdue => ?_, fun hcode hnr hrtk => ?_, fun hcode hnr => ?_⟩
    · obtain ⟨v, hexec, hended, hmem, hsaved⟩ := State.eret_saves hcur hwait hi hq hit hkind hthr href htid hheld (by simpa using hcode)
        hres hhosted hfault hdue
      exact ⟨v, hexec, hsaved, hended.me, hended.none, SameBytes.of_mem hmem⟩
    · obtain ⟨v, hexec, hended, hst, hjournal, hback⟩ := State.eret_retakes hcur hwait hi hq hit hkind hthr href htid hheld hcode hres
        hnr hrtk
      refine ⟨v, hexec, hst, hjournal, hended.me, hended.none, fun m hm hslot => ?_⟩
      rw [hback]
      refine ⟨_, List.mem_map_of_mem hm, ?_⟩
      rw [Thread.handsBack, if_pos hslot]
      exact ⟨rfl, rfl, rfl, rfl⟩
    · obtain ⟨v, hexec, hended, hst, hjournal⟩ := State.eret_kills hcur hwait hi hq hit hkind hthr href htid hheld (.inr ⟨hcode, hres, hnr⟩)
      exact ⟨v, hexec, hst, hjournal, hended.me, hended.none⟩
  · intro hit hq
    have hended := State.idled_itemEnded hcur hq
    refine ⟨_, (State.exec_eret hcur hi).trans (congrArg _ ((State.endItem_none (s := s.adv 4) hwait hit).trans hended.startItem)),
      hended.me, ?_, fun _ => rfl⟩
    rw [State.me, hended.cur]
    exact State.idled_t7.2
  · intro it tid hit hq hkind hthr href htid hst hheld hlanding
    refine ⟨fun hcode => ?_, fun hcode hhosted => ?_⟩
    · obtain ⟨v, hexec, hended, hmem, hrun⟩ := State.eret_resumes hcur hwait hi hq hit hkind hthr href htid hheld hcode hst hlanding
      exact ⟨v, hexec, hrun, hended.me, hended.none, SameBytes.of_mem hmem⟩
    · obtain ⟨v, hexec, -, hfree, hjournal⟩ := State.eret_kills hcur hwait hi hq hit hkind hthr href htid hheld (.inl hcode)
      rw [hhosted] at hfree
      exact ⟨v, hexec, hfree, hjournal⟩
  · intro it k h hit hq hkind href hk hword hhosted
    obtain ⟨v, hexec, hunparked⟩ := State.eret_unparks hcur hwait hi hq hit hkind href hk hword
    rw [hhosted] at hunparked
    exact ⟨v, hexec, hunparked⟩
  · intro it hit hq hresetting hkind
    have hcore := State.idled_getCore (s := s) (c := c)
    have hblock : ∀ o, ((s.adv 4).idled c).block c o = s.block c o := State.block_congr (SameLocal.of_mem rfl) (by rw [hcore])
    have hslot : ((s.adv 4).idled c).serviceSlot c it.slot = s.serviceSlot c it.slot := by
      unfold State.serviceSlot State.blockAddr State.htabBase
      rw [hcore]
    obtain ⟨f, hstart, hf⟩ := State.startItem_cases (s := (s.adv 4).idled c) (rest := []) (by rw [hcore]; exact hq) State.idled_t7.1
      (by rw [hcore]) (by rw [hcore]; exact hresetting) hkind
    rw [hblock, hslot] at hf
    have hucur := State.idled_cur hcur
    have hend := (State.exec_eret hcur hi).trans (congrArg _ ((State.endItem_none (s := s.adv 4) hwait hit).trans hstart))
    generalize (s.adv 4).idled c = u at *
    have hme : ((u.modCore c fun k => { k with t7q := [], t7cur := some it }).modThread (.thr c 7) f).me = f (u.thread (.thr c 7)) := by
      rw [State.me, show ((u.modCore c _).modThread (.thr c 7) f).cur = .thr c 7 from hucur, State.thread_modThread_same]
      rfl
    obtain ⟨hst, hpc, hx⟩ := hf (u.thread (.thr c 7))
    have hget : ∀ r, (f (u.thread (.thr c 7))).getX r =
        (((u.thread (.thr c 7)).setX 4 (ofN (s.serviceSlot c it.slot))).setX 5 it.word).getX r := fun r => by
      unfold Thread.getX
      rw [hx]
    have hcore' := State.getCore_modCore_same u c fun k => { k with t7q := [], t7cur := some it }
    refine ⟨_, hend, by rw [hme, hst], by rw [State.pc, hme, hpc], congrArg Core.t7cur hcore', congrArg Core.t7q hcore', ?_, ?_⟩
    · rw [State.x, hme, hget]
      simp [Thread.getX_setX]
    · rw [State.x, hme, hget]
      simp [Thread.getX_setX]

end Sys2Proof.Machine

namespace Sys2Proof.Machine

/-! ### Errors strike their objects (R215, R391) -/

theorem Tbl.mem_of_get {α : Type} {d v : α} {t : List (Nat × α)} {n : Nat} (h : Tbl.get d t n = v) (hv : v ≠ d) : (n, v) ∈ t := by
  induction t with
  | nil => exact absurd h.symm hv
  | cons e t ih =>
    obtain ⟨k, w⟩ := e
    unfold Tbl.get at h
    split at h
    case isTrue hk => rw [hk, h]; exact List.mem_cons_self
    case isFalse => exact List.mem_cons_of_mem _ (ih h)

/-- Only the cores and the dies have changed. -/
def CoresAndDies (s t : State) : Prop := t = { s with core := t.core, die := t.die }

namespace CoresAndDies

theorem refl (s : State) : CoresAndDies s s := rfl

theorem trans {s t u : State} (h : CoresAndDies s t) (g : CoresAndDies t u) : CoresAndDies s u := by
  unfold CoresAndDies at *
  rw [g, h]

theorem foldl {α : Type} {f : State → α → State} (hf : ∀ s x, CoresAndDies s (f s x)) (l : List α) :
    ∀ s, CoresAndDies s (l.foldl f s) := by
  induction l with
  | nil => exact refl
  | cons x l ih => exact fun s => (hf s x).trans (ih _)

theorem modCore (s : State) (c : Nat) (f : Core → Core) : CoresAndDies s (s.modCore c f) := rfl
theorem modDie (s : State) (d : Nat) (f : Die → Die) : CoresAndDies s (s.modDie d f) := rfl

end CoresAndDies

namespace State

theorem dropRdc_coresAndDies (s : State) (d x : Nat) : CoresAndDies s (s.dropRdc d x) := by
  unfold dropRdc
  split
  · exact .refl s
  · exact .modDie _ _ _

/-- Poisoning the sector of one byte marks it, and changes no thread and no byte of memory (R215). -/
theorem poisonSectors_coresAndDies (s : State) (l : Nat) :
    CoresAndDies { s with poison := Tbl.put false s.poison (l / 32) true } (s.poisonSectors l 1) := by
  have hsector : sectorsOf l 1 = [l / 32] := by
    simp [sectorsOf, unitsOf]
  unfold poisonSectors
  rw [if_neg Nat.one_ne_zero, hsector]
  refine CoresAndDies.trans ?_ (.foldl (fun _ _ => .modCore _ _ _) _ _)
  refine .foldl (fun t x => ?_) _ _
  exact ((dropRdc_coresAndDies _ _ _).trans (dropRdc_coresAndDies _ _ _)).trans (.foldl (fun _ _ => .modCore _ _ _) _ _)

theorem poisonSectors_poisoned (s : State) (l : Nat) : (s.poisonSectors l 1).poisoned l 1 = true := by
  have hin : (l / 32, true) ∈ (s.poisonSectors l 1).poison := by
    rw [poisonSectors_coresAndDies s l]
    exact Tbl.mem_of_get (Tbl.get_put_same false s.poison (l / 32) true) (by decide)
  exact List.any_eq_true.2 ⟨_, hin, by simp⟩

/-- A counter is poisoned, once and for all (R370). -/
theorem poisonDc_poison (s : State) (d i : Nat) : ((s.poisonDc d i).dc d i).poison = true := by
  unfold poisonDc
  split
  case isTrue h => exact h
  case isFalse =>
    have hdc : ∀ u : State, (u.countDie d 3).dc d i = u.dc d i := fun u => by
      rw [dc, countDie, getDie_modDie_same]
      rfl
    show (((s.setDc d i { s.dc d i with poison := true }).countDie d 3).dc d i).poison = true
    rw [hdc, dc, setDc, getDie_modDie_same, Tbl.get_put_same]

end State

/-! ### T7's queue takes an item (R391) -/

namespace State

/-- An item that finds room enters T7's queue behind the others; its record goes into its slot. -/
theorem appendItem_room {s : State} {c : Nat} (hfull : s.t7Full c = false) (code sub : BitVec 8) (kind : Nat) (thr : Option Nat)
    (tval epc actid actst : Word) (ref : ItemRef) : ∃ u it, UnitWrite s u ∧
      s.appendItem c code sub kind thr tval epc actid actst ref = u.modCore c fun k => { k with t7q := k.t7q ++ [it] } := by
  unfold appendItem
  dsimp only
  rw [hfull]
  exact ⟨_, _, putUlm_unitWrite _ _ _ _, rfl⟩

theorem appendItem_getCore {s : State} {c : Nat} (hfull : s.t7Full c = false) (code sub : BitVec 8) (kind : Nat) (thr : Option Nat)
    (tval epc actid actst : Word) (ref : ItemRef) :
    let k := (s.appendItem c code sub kind thr tval epc actid actst ref).getCore c
    k.t7q.length = (s.getCore c).t7q.length + 1 ∧ k.ckstat = (s.getCore c).ckstat := by
  obtain ⟨u, it, hu, heq⟩ := appendItem_room hfull code sub kind thr tval epc actid actst ref
  intro k
  have hk : k = { u.getCore c with t7q := (u.getCore c).t7q ++ [it] } := by
    show (s.appendItem c code sub kind thr tval epc actid actst ref).getCore c = _
    rw [heq]
    exact getCore_modCore_same u c _
  rw [hk, hu.2.1 c]
  exact ⟨List.length_append, rfl⟩

/-! ### A consumed error (R28, R395) -/

/-- An uncorrectable error that is taken at the boundary of an activation that may be retaken puts its message back (R28). -/
theorem exec_uncorrectableTrap_retake {s : State} {c tid : Nat} {p : PendTrap} {more : List PendTrap} (htid : tid < 6)
    (hready : s.trapReady (.thr c tid) = true) (hpend : (s.thread (.thr c tid)).pendTrap = p :: more) (hcode : p.code = Cause.uncorrectable)
    (hnr : (s.thread (.thr c tid)).nr = false) (hrtk : (s.thread (.thr c tid)).rtk < 2) (hres : (s.thread (.thr c tid)).resident = false) :
    exec (.uncorrectableTrap c tid) s =
      .next ((s.modThread (.thr c tid) fun t => { t with pendTrap := more }).retake c tid) := by
  have hkill := retakeOrKill_retake (s := s.modThread (.thr c tid) fun t => { t with pendTrap := more }) p.code p.sub p.tval
    ((s.modThread (.thr c tid) fun t => { t with pendTrap := more }).thread (.thr c tid)).pc htid
    (by rw [thread_modThread_same]; exact hnr) (by rw [thread_modThread_same]; exact hrtk) (by rw [thread_modThread_same]; exact hres)
  rw [exec_uncorrectableTrap, execUncorrectableTrap]
  rw [if_pos (by simp [hready, hpend, hcode])]
  refine congrArg _ (Eq.trans ?_ hkill)
  unfold takePending
  rw [hpend]
  exact if_pos ⟨hcode, by omega⟩

/-! ### Saves and restores (R396 to R398) -/

/-- The context of a thread is saved: the thread is SAVED and hosts it (R396). -/
theorem saveContext_thread (s : State) (c tid : Nat) (parked : Bool) :
    ((s.saveContext c tid parked).thread (.thr c tid)).st = .saved ∧
    ∃ h, ((s.saveContext c tid parked).thread (.thr c tid)).hosted = some h ∧ h.parked = parked ∧
      h.actid = (s.thread (.thr c tid)).actid ∧ h.journal = (s.thread (.thr c tid)).journal := by
  unfold saveContext
  dsimp only
  rw [thread_modThread_same]
  exact ⟨rfl, _, rfl, rfl, rfl, rfl⟩

/-- A context whose messages have all been placed is restored: the thread runs with its journal and slot (R398). -/
theorem restoreContext_thread (s : State) (c tid : Nat) {h : Hosted} (hctx : h.ctxBuf = []) (hsave : h.saveMsgs = []) :
    let t := s.restoreContext c tid h
    (t.thread (.thr c tid)).st = .run ∧ (t.thread (.thr c tid)).hosted = none ∧ (t.thread (.thr c tid)).journal = h.journal ∧
      (t.thread (.thr c tid)).slot = h.slot ∧ t.mem = s.mem := by
  unfold restoreContext
  rw [hctx, hsave]
  exact ⟨congrArg Thread.st (thread_setThread_same _ _ _), congrArg Thread.hosted (thread_setThread_same _ _ _),
    congrArg Thread.journal (thread_setThread_same _ _ _), congrArg Thread.slot (thread_setThread_same _ _ _), rfl⟩

end State
end Sys2Proof.Machine

namespace Sys2Proof.Machine

namespace State

/-! ### Strikes of the checker (R399, R400) -/

/-- A saturating field leaves the others. -/
theorem field_satField_other (w : Word) {lo width l k : Nat} (h : l + k ≤ lo ∨ lo + width ≤ l) :
    field (satField w lo width) l k = field w l k := field_setField_other w h

/-- A first strike counts one and raises its item (R399). -/
theorem strikeCore_first {s : State} {c : Nat} (sub : BitVec 8) (tval : Word) (note : Word → Word) (hfull : s.t7Full c = false)
    (hnote : field (note (s.getCore c).ckstat) 0 2 = 0) :
    let t := s.strikeCore c sub tval note
    field (t.getCore c).ckstat 0 2 = 1 ∧ (t.getCore c).t7q.length = (s.getCore c).t7q.length + 1 ∧ t.thr = s.thr := by
  intro t
  have hcore := getCore_modCore_same s c fun k => { k with ckstat := setField (note (s.getCore c).ckstat) 0 2 1 }
  have ht : t = (s.modCore c fun k => { k with ckstat := setField (note (s.getCore c).ckstat) 0 2 1 }).appendItem c Cause.checkerMismatch sub
      6 none tval 0 0 0 := by
    show s.strikeCore c sub tval note = _
    unfold strikeCore
    dsimp only
    rw [hnote, if_pos rfl, show min 2 (0 + 1) = 1 from rfl]
  have hfull' : (s.modCore c fun k => { k with ckstat := setField (note (s.getCore c).ckstat) 0 2 1 }).t7Full c = false := by
    unfold t7Full
    rw [hcore]
    exact hfull
  obtain ⟨hlen, hckstat⟩ := appendItem_getCore hfull' Cause.checkerMismatch sub 6 none tval 0 0 0 .nothing
  rw [ht, appendItem_thr]
  refine ⟨?_, ?_, rfl⟩
  · rw [hckstat, hcore]
    exact field_setField_same _ (by omega) (by decide)
  · rw [hlen, hcore]

/-- A second strike takes the core OFF (R400). -/
theorem strikeCore_second {s : State} {c : Nat} (sub : BitVec 8) (tval : Word) (note : Word → Word)
    (hnote : field (note (s.getCore c).ckstat) 0 2 = 1) :
    s.strikeCore c sub tval note = (s.modCore c fun k => { k with ckstat := setField (note (s.getCore c).ckstat) 0 2 2 }).coreOff c
      Cause.checkerMismatch 1 tval := by
  unfold strikeCore
  dsimp only
  rw [hnote]
  rfl

/-! ### A core goes OFF (R33, R400) -/

/-- What ending the activations of T0 to T5 of core `c` leaves: T6 but for its marks, and CKSTAT. -/
structure KeepsT6 (c : Nat) (s t : State) : Prop where
  t6 : (t.thread (.thr c 6)).unmarked = (s.thread (.thr c 6)).unmarked
  ckstat : (t.getCore c).ckstat = (s.getCore c).ckstat

namespace KeepsT6

theorem refl (c : Nat) (s : State) : KeepsT6 c s s := ⟨rfl, rfl⟩

theorem trans {c : Nat} {s t u : State} (h : KeepsT6 c s t) (g : KeepsT6 c t u) : KeepsT6 c s u :=
  ⟨g.t6.trans h.t6, g.ckstat.trans h.ckstat⟩

theorem foldl {α : Type} {c : Nat} {f : State → α → State} (l : List α) (hf : ∀ s, ∀ x ∈ l, KeepsT6 c s (f s x)) :
    ∀ s, KeepsT6 c s (l.foldl f s) := by
  induction l with
  | nil => exact refl c
  | cons x l ih =>
    exact fun s => (hf s x List.mem_cons_self).trans (ih (fun s y hy => hf s y (List.mem_cons_of_mem _ hy)) _)

theorem of_keepsThreads {c : Nat} {s t : State} (h : KeepsThreads s t) : KeepsT6 c s t := by
  refine ⟨h.thread _, ?_⟩
  have hck := congrArg Core.ckstat (h.core c)
  exact hck

theorem modThread {c tid : Nat} (htid : tid < 6) (s : State) (f : Thread → Thread) : KeepsT6 c s (s.modThread (.thr c tid) f) :=
  ⟨congrArg _ (thread_modThread_other s f (show 8 * c + 6 ≠ 8 * c + tid by omega)), rfl⟩

end KeepsT6

theorem escalate_keepsT6 (s : State) {c tid : Nat} (htid : tid < 6) (byCp tell : Bool) (code sub : BitVec 8) (tval epc : Word) :
    KeepsT6 c s (s.escalate c tid byCp tell code sub tval epc) := by
  obtain ⟨-, -, hthr, -, hcore⟩ := s.escalate_effect (c := c) htid byCp tell code sub tval epc
  refine ⟨hthr _ (show 8 * c + 6 ≠ 8 * c + tid by omega), ?_⟩
  have hck := congrArg Core.ckstat (hcore c)
  exact hck

theorem dropHosted_keepsT6 (s : State) {c tid : Nat} (htid : tid < 6) (byCp tell : Bool) (code sub : BitVec 8) (tval : Word) :
    KeepsT6 c s (s.dropHosted c tid byCp tell code sub tval) := by
  unfold dropHosted
  split
  · exact .refl c s
  case h_2 h hh =>
    have hended := ((countCore_accounts s c 0x14).trans (accountEnd_accounts _ c tid (s.hostedThread h) 3)).keepsThreads.trans
      (freeSlotOf_keepsThreads _ c (s.hostedThread h))
    have hunhost : ∀ u : State, KeepsT6 c u (u.unhost c tid) := fun u =>
      (KeepsT6.modThread htid u _).trans (.of_keepsThreads (settleStage_accounts _ _).keepsThreads)
    have htell : ∀ u : State, KeepsThreads u (if tell then u.sendThreadFault c tid (s.hostedThread h) byCp code sub tval 0 else u) :=
      fun u => by
        split
        · exact sendFault_keepsThreads _ _ _ _ _ _ _ _
        · exact .refl u
    exact (KeepsT6.of_keepsThreads ((hended.trans (htell _)).trans (completeLaunch_keepsThreads _ _ _ _))).trans (hunhost _)

theorem leaveMap_keepsT6 (s : State) (c : Nat) : KeepsT6 c s (s.leaveMap c) := by
  unfold leaveMap
  dsimp only
  split
  · exact .refl c s
  · refine ⟨rfl, ?_⟩
    rw [getCore_modCore_same]
    rfl

theorem returnAll_keepsT6 (s : State) (c : Nat) : KeepsT6 c s (s.returnAll c) := by
  have hfold : ∀ (l : List Msg) (u : State), KeepsT6 c u (l.foldl (fun s m => s.returnMsg m 2) u) := fun l =>
    .foldl l fun u m _ => by
      have hnet := returnMsg_netStep u m 2
      refine ⟨congrArg (fun thr => Thread.unmarked (Tbl.get {} thr (Agent.thr c 6).key)) hnet.thr, ?_⟩
      rw [hnet.2 c]
  unfold returnAll
  dsimp only
  refine KeepsT6.trans ⟨?_, ?_⟩ (hfold _ _)
  · rfl
  · rw [getCore_modCore_same]
    rfl

/-- Threads of core `c` that a fold turns OFF. -/
theorem foldl_off_st (c : Nat) (p : Nat → Prop) [DecidablePred p] (l : List Nat) (s : State) (k : Nat) :
    ((l.foldl (fun u i => if p i then u else u.modThread (.thr c i) fun t => { t with st := .off, wait := none, pendTrap := [] }) s).thread
      (.thr c k)).st = if k ∈ l ∧ ¬ p k then .off else (s.thread (.thr c k)).st := by
  induction l generalizing s with
  | nil => simp
  | cons i l ih =>
    rw [List.foldl_cons, ih]
    by_cases hp : p i
    · have hiff : (k ∈ i :: l ∧ ¬ p k) ↔ (k ∈ l ∧ ¬ p k) := by
        rw [List.mem_cons]
        exact ⟨fun ⟨hk, hn⟩ => ⟨hk.resolve_left fun he => hn (he ▸ hp), hn⟩, fun ⟨hk, hn⟩ => ⟨.inr hk, hn⟩⟩
      simp only [if_pos hp, hiff]
    · rw [if_neg hp]
      by_cases hk : k = i
      · subst hk
        simp only [List.mem_cons, true_or, hp, not_false_eq_true, and_true, if_true, thread_modThread_same, ite_self]
      · have hkey : (Agent.thr c k).key ≠ (Agent.thr c i).key := show 8 * c + k ≠ 8 * c + i by omega
        rw [thread_modThread_other s _ hkey]
        simp only [List.mem_cons, hk, false_or]

theorem t6Runs_congr {t u : Thread} (h : t.unmarked = u.unmarked) : t6Runs t = t6Runs u := by
  unfold t6Runs
  rw [Thread.of_unmarked Thread.st h, Thread.of_unmarked Thread.held h]

/-- Bit 16 of CKSTAT is set, and bit 17 cleared, as a core goes OFF. -/
theorem bitAt_off (w : Word) : bitAt (setField (w ||| 0x10000) 17 1 0) 16 = true := by
  rw [bitAt_setField_other _ (by omega)]
  unfold bitAt
  rw [BitVec.getLsbD_or, show BitVec.getLsbD (0x10000 : Word) 16 = true from by decide, Bool.or_true]

/-- A core that begins to go OFF: CKSTAT says so, and T7's items are dropped. -/
def offBegun (s : State) (c : Nat) : State :=
  s.modCore c fun k =>
    { k with
      ckstat := setField (k.ckstat ||| 0x10000) 17 1 0, t7q := [], itemWait := [], t7cur := none
      scan := if k.scan.any fun x => x.rd.isNone then k.scan else none }

/-- The activations of T0 to T5 are ended, the core has left the map and its messages have returned. -/
def offEnded (s : State) (c : Nat) (code sub : BitVec 8) (tval : Word) : State :=
  (((List.range 6).foldl (fun s i =>
    let t := s.thread (.thr c i)
    let s' := if t.live then s.escalate c i true true code sub tval t.pc else s
    s'.dropHosted c i true true code sub tval) (s.offBegun c)).leaveMap c).returnAll c

/-- T6 is freed too, where it has an activation and does not run. -/
def offT6 (s : State) (c : Nat) : State :=
  let t6 := s.thread (.thr c 6)
  if t6Runs t6 then s else if t6.live then (s.accountRetire c 6 3).freeThread c 6 else s

/-- The three steps in which a core goes OFF, and then its threads. -/
theorem coreOff_eq (s : State) (c : Nat) (code sub : BitVec 8) (tval : Word) :
    s.coreOff c code sub tval =
      (List.range 8).foldl (fun u i =>
        if i = 6 ∧ t6Runs ((s.offEnded c code sub tval).thread (.thr c 6)) then u
        else u.modThread (.thr c i) fun t => { t with st := .off, wait := none, pendTrap := [] })
      ((s.offEnded c code sub tval).offT6 c) := rfl

theorem offEnded_keepsT6 (s : State) (c : Nat) (code sub : BitVec 8) (tval : Word) :
    KeepsT6 c (s.offBegun c) (s.offEnded c code sub tval) := by
  refine ((KeepsT6.foldl _ (fun u i hi => ?_) _).trans (leaveMap_keepsT6 _ c)).trans (returnAll_keepsT6 _ c)
  have hi6 : i < 6 := List.mem_range.1 hi
  refine KeepsT6.trans ?_ (dropHosted_keepsT6 _ hi6 _ _ _ _ _)
  split
  · exact escalate_keepsT6 _ hi6 _ _ _ _ _ _
  · exact .refl c u

theorem offT6_of_runs {s : State} {c : Nat} (h : t6Runs (s.thread (.thr c 6)) = true) : s.offT6 c = s := if_pos h

theorem offT6_ckstat (s : State) (c : Nat) : ((s.offT6 c).getCore c).ckstat = (s.getCore c).ckstat := by
  unfold offT6
  dsimp only
  split
  · rfl
  split
  · have hacc := congrArg Core.ckstat ((accountEnd_accounts s c 6 (s.thread (.thr c 6)) 3).2 c)
    have hfree := congrArg Core.ckstat ((freeThread_accounts (s.accountRetire c 6 3) c 6).2 c)
    exact hfree.trans hacc
  · rfl

theorem foldl_off_getCore (c : Nat) (p : Nat → Prop) [DecidablePred p] (l : List Nat) (s : State) :
    (l.foldl (fun u i => if p i then u else u.modThread (.thr c i) fun t => { t with st := .off, wait := none, pendTrap := [] }) s).getCore c =
      s.getCore c := by
  induction l generalizing s with
  | nil => rfl
  | cons i l ih =>
    rw [List.foldl_cons, ih]
    split <;> rfl

/-- A core that goes OFF says so in CKSTAT, and every thread of it is OFF but a T6 that runs (R33, R400). -/
theorem coreOff_effect (s : State) (c : Nat) (code sub : BitVec 8) (tval : Word) :
    let t := s.coreOff c code sub tval
    bitAt (t.getCore c).ckstat 16 = true ∧ (∀ k, k < 8 → k ≠ 6 → (t.thread (.thr c k)).st = .off) ∧
      (t.thread (.thr c 6)).st = if t6Runs (s.thread (.thr c 6)) then (s.thread (.thr c 6)).st else .off := by
  intro t
  have hended := offEnded_keepsT6 s c code sub tval
  have ht : t = _ := coreOff_eq s c code sub tval
  have hoff := fun k => foldl_off_st c (fun i => i = 6 ∧ t6Runs ((s.offEnded c code sub tval).thread (.thr c 6)) = true) (List.range 8)
    ((s.offEnded c code sub tval).offT6 c) k
  rw [← ht] at hoff
  refine ⟨?_, fun k hk hk6 => (hoff k).trans (if_pos ⟨List.mem_range.2 hk, fun h => hk6 h.1⟩), ?_⟩
  · rw [ht, foldl_off_getCore, offT6_ckstat, hended.ckstat, offBegun, getCore_modCore_same]
    exact bitAt_off _
  · have ht6 : ((s.offEnded c code sub tval).thread (.thr c 6)).unmarked = (s.thread (.thr c 6)).unmarked := hended.t6
    rw [hoff, ← t6Runs_congr ht6]
    by_cases hr : t6Runs ((s.offEnded c code sub tval).thread (.thr c 6)) = true
    · rw [if_neg (fun h => h.2 ⟨rfl, hr⟩), if_pos hr, offT6_of_runs hr]
      exact Thread.of_unmarked Thread.st ht6
    · rw [if_pos ⟨by decide, fun h => hr h.2⟩, if_neg hr]

end State
end Sys2Proof.Machine

namespace Sys2Proof.Machine

namespace State

theorem countEvents_accounts (s : State) (c t ev n : Nat) : AccountsOnly s (s.countEvents c t ev n) := by
  unfold countEvents
  split
  · exact .refl s
  · exact .modCore _ _ _

/-! ### The events of T7, one by one -/

theorem runs_sectorError (s : State) (l : Nat) :
    Runs (.uncorrectableError (.sector l)) s fun t => t.poisoned l 1 = true ∧ t.thr = s.thr ∧ SameBytes s t := by
  have hframe := poisonSectors_coresAndDies s l
  have hthr := congrArg State.thr hframe
  have hmem := congrArg State.mem hframe
  exact ⟨_, rfl, poisonSectors_poisoned s l, hthr, .of_mem hmem⟩

theorem runs_counterError (s : State) (i l : Nat) :
    Runs (.uncorrectableError (.counter i l)) s fun t => (t.dc i l).poison = true ∧ SameBytes s t :=
  ⟨_, rfl, poisonDc_poison s i l, .of_mem (poisonDc_mem s i l)⟩

theorem runs_journalError (s : State) (c tid : Nat) :
    Runs (.uncorrectableError (.journal c tid)) s fun t =>
      t.thread (.thr c tid) =
        { s.thread (.thr c tid) with jbad := !(s.thread (.thr c tid)).journal.isEmpty || (s.thread (.thr c tid)).jbad } ∧ SameBytes s t :=
  ⟨_, rfl, thread_modThread_same _ _ _, .of_mem rfl⟩

/-- The slot that the retaken activation had gets its message back (R28). -/
theorem handsBack_slot {th : Thread} {k : Nat} (hslot : th.slot = some k) (now : Word) {l : List InMsg} {e : InMsg}
    (he : e ∈ l.map (th.handsBack now)) (hk : e.slot = k) : e.taken = false ∧ e.retake = some (th.actid, th.rtk + 1) := by
  obtain ⟨m, -, rfl⟩ := List.mem_map.1 he
  unfold Thread.handsBack at hk ⊢
  split
  case isTrue => exact ⟨rfl, rfl⟩
  case isFalse hne =>
    rw [if_neg hne] at hk
    exact absurd (hk ▸ hslot.symm) hne

theorem runs_uncorrectableTrap {s : State} {c tid k : Nat} {p : PendTrap} {more : List PendTrap} (htid : tid < 6)
    (hready : s.trapReady (.thr c tid) = true) (hpend : (s.thread (.thr c tid)).pendTrap = p :: more) (hcode : p.code = Cause.uncorrectable)
    (hnr : (s.thread (.thr c tid)).nr = false) (hrtk : (s.thread (.thr c tid)).rtk < 2) (hres : (s.thread (.thr c tid)).resident = false)
    (hhosted : (s.thread (.thr c tid)).hosted = none) (hslot : (s.thread (.thr c tid)).slot = some k) :
    Runs (.uncorrectableTrap c tid) s fun t => (t.thread (.thr c tid)).st = .free ∧ ∀ e ∈ (t.getCore c).inbox, e.slot = k →
      e.taken = false ∧ e.retake = some ((s.thread (.thr c tid)).actid, (s.thread (.thr c tid)).rtk + 1) := by
  refine ⟨_, exec_uncorrectableTrap_retake htid hready hpend hcode hnr hrtk hres, ?_⟩
  obtain ⟨hst, -, -, -, hinbox, -, -⟩ := retake_effect (s.modThread (.thr c tid) fun t => { t with pendTrap := more }) (c := c) htid
  rw [thread_modThread_same] at hst hinbox
  refine ⟨?_, fun e he hk => ?_⟩
  · rw [hst, hhosted]
    rfl
  · rw [hinbox] at he
    exact handsBack_slot (th := { s.thread (.thr c tid) with pendTrap := more }) hslot _ he hk

theorem runs_preemptRequest {s : State} {c i : Nat} (hout : (s.getCore c).preemptOut = false)
    (hfrom : (s.getCore c).preemptFrom.toNat ≤ s.timebase.toNat) (hfull : s.t7Full c = false) (htakes : s.takes c = true)
    (hvictim : (s.getCore c).inbox.findSome? (s.victimOf c) = some i) (hready : s.trapReady (.thr c i) = false) :
    Runs (.preemptRequest c) s fun t => (t.getCore c).preemptOut = true ∧
      (t.getCore c).t7q.length = (s.getCore c).t7q.length + 1 ∧ t.thr = s.thr := by
  have hexec : exec (.preemptRequest c) s = .next ((s.appendItem c Cause.preempt 1 3 (some i) (s.thread (.thr c i)).actid
      (s.thread (.thr c i)).epc (s.thread (.thr c i)).actid (s.thread (.thr c i)).actst).modCore c fun k => { k with preemptOut := true }) := by
    rw [exec_preemptRequest, execPreemptRequest]
    dsimp only
    rw [hvictim, hout, hfull, htakes, decide_eq_false (Nat.not_lt.2 hfrom)]
    dsimp only
    rw [hready]
    rfl
  obtain ⟨hlen, -⟩ := appendItem_getCore hfull Cause.preempt 1 3 (some i) (s.thread (.thr c i)).actid
    (s.thread (.thr c i)).epc (s.thread (.thr c i)).actid (s.thread (.thr c i)).actst .nothing
  refine ⟨_, hexec, ?_, ?_, appendItem_thr _ _ _ _ _ _ _ _ _ _ _⟩
  · rw [getCore_modCore_same]
  · rw [getCore_modCore_same]
    exact hlen

theorem runs_saveComplete {s : State} {c tid : Nat} {w : Wait} {parked : Bool} (hwait : (s.thread (.thr c tid)).wait = some w)
    (hkind : w.kind = .saving parked) :
    Runs (.saveComplete c tid) s fun t => (t.thread (.thr c tid)).st = .saved ∧
      ∃ h, (t.thread (.thr c tid)).hosted = some h ∧ h.parked = parked ∧ h.actid = (s.thread (.thr c tid)).actid ∧
        h.journal = (s.thread (.thr c tid)).journal := by
  refine ⟨s.saveContext c tid parked, ?_, saveContext_thread s c tid parked⟩
  rw [exec_saveComplete, execSaveComplete, hwait]
  dsimp only
  rw [hkind]

theorem runs_resumptionItem {s : State} {c tid : Nat} {h : Hosted} (hhosted : (s.thread (.thr c tid)).hosted = some h)
    (hst : (s.thread (.thr c tid)).st = .saved) (hparked : h.parked = false) (hresuming : (s.thread (.thr c tid)).resuming = false)
    (hrestoring : (s.thread (.thr c tid)).restoring = false) (hbusy : ((s.candidates c).any fun e => decide (e.tid = tid)) = false)
    (hfull : s.t7Full c = false) (htakes : s.takes c = true) :
    Runs (.resumptionItem c tid) s fun t => (t.thread (.thr c tid)).resuming = true ∧
      (t.getCore c).t7q.length = (s.getCore c).t7q.length + 1 := by
  have hexec : ∃ v w : Word, exec (.resumptionItem c tid) s = .next ((s.appendItem c 0 0 4 (some tid) v w h.actid h.actst).modThread
      (.thr c tid) fun t => { t with resuming := true }) := by
    rw [exec_resumptionItem, execResumptionItem]
    dsimp only
    rw [hhosted]
    dsimp only
    rw [if_neg (by simp [hst, hparked, hresuming, hrestoring, hbusy, hfull, htakes])]
    exact ⟨_, _, rfl⟩
  obtain ⟨v, w, hexec⟩ := hexec
  obtain ⟨hlen, -⟩ := appendItem_getCore hfull 0 0 4 (some tid) v w h.actid h.actst .nothing
  refine ⟨_, hexec, ?_, hlen⟩
  rw [thread_modThread_same]

theorem runs_restoreComplete {s : State} {c tid : Nat} {h : Hosted} (hhosted : (s.thread (.thr c tid)).hosted = some h)
    (hst : (s.thread (.thr c tid)).st = .saved) (hrestoring : (s.thread (.thr c tid)).restoring = true) (hctx : h.ctxBuf = [])
    (hsave : h.saveMsgs = []) :
    Runs (.restoreComplete c tid) s fun t => (t.thread (.thr c tid)).st = .run ∧ (t.thread (.thr c tid)).hosted = none ∧
      (t.thread (.thr c tid)).journal = h.journal ∧ (t.thread (.thr c tid)).slot = h.slot ∧ SameBytes s t := by
  obtain ⟨hrun, hnone, hjournal, hslot, hmem⟩ := restoreContext_thread s c tid hctx hsave
  refine ⟨s.restoreContext c tid h, ?_, hrun, hnone, hjournal, hslot, .of_mem hmem⟩
  rw [exec_restoreComplete, execRestoreComplete]
  rw [hhosted]
  exact if_pos ⟨hrestoring, hst⟩

theorem runs_serviceItemStart {s : State} {c : Nat} {it : Item} {rest : List Item} (hstarted : (s.getCore c).started = true)
    (hq : (s.getCore c).t7q = it :: rest) (hcur : (s.getCore c).t7cur = none) (hres : (s.getCore c).resetting = false)
    (hfree : (s.thread (.thr c 7)).st = .free) (hkind : it.kind = 0) :
    Runs (.serviceItemStart c) s fun t => (t.getCore c).t7cur = some it ∧ (t.getCore c).t7q = rest ∧ (t.thread (.thr c 7)).st = .run ∧
      (t.thread (.thr c 7)).pc = ofN (field (s.block c 0x1000) 0 20) ∧ SameBytes s t := by
  obtain ⟨f, hstart, hf⟩ := startItem_cases hq hfree hcur hres hkind
  obtain ⟨hst, hpc, -⟩ := hf (s.thread (.thr c 7))
  have hexec : exec (.serviceItemStart c) s = .next (s.startItem c) := by
    rw [exec_serviceItemStart, execServiceItemStart, if_pos hstarted]
  have hcore : (s.startItem c).getCore c = { s.getCore c with t7q := rest, t7cur := some it } := by
    rw [hstart]
    exact getCore_modCore_same s c fun k => { k with t7q := rest, t7cur := some it }
  have hthread : (s.startItem c).thread (.thr c 7) = f (s.thread (.thr c 7)) := by
    rw [hstart]
    exact thread_modThread_same _ _ _
  have hmem : (s.startItem c).mem = s.mem := by
    rw [hstart]
    rfl
  refine ⟨_, hexec, ?_, ?_, ?_, ?_, .of_mem hmem⟩
  · rw [hcore]
  · rw [hcore]
  · rw [hthread, hst]
  · rw [hthread, hpc]

/-! ### The checker and the known answers (R399, R400) -/

theorem t7Full_accounts {s t : State} (h : AccountsOnly s t) (c : Nat) : t.t7Full c = s.t7Full c := by
  unfold t7Full
  rw [h.t7q c, h.t7cur c]

theorem ckstat_accounts {s t : State} (h : AccountsOnly s t) (c : Nat) : (t.getCore c).ckstat = (s.getCore c).ckstat := by
  rw [h.2 c]

/-- A mismatch is counted, among the core's accounts. -/
theorem countMismatch_accounts (s : State) (c tid : Nat) : AccountsOnly s ((s.countCore c 0x17).countEvent c tid 0x09) :=
  (countCore_accounts _ _ _).trans (countEvents_accounts _ _ _ _ _)

theorem exec_checkerMismatch_strike {s : State} {c : Nat} {o : Agent} (ho : s.choose c = some o) :
    exec (.checkerMismatch c) s = .next (((s.countCore c 0x17).countEvent c o.tid 0x09).strikeCore c 0 (s.thread o).pc
      fun w => satField w 32 16) := by
  rw [exec_checkerMismatch, execCheckerMismatch, ho]

theorem runs_checkerMismatch_first {s : State} {c : Nat} {o : Agent} (ho : s.choose c = some o)
    (hck : field (s.getCore c).ckstat 0 2 = 0) (hfull : s.t7Full c = false) :
    Runs (.checkerMismatch c) s fun t => field (t.getCore c).ckstat 0 2 = 1 ∧
      (t.getCore c).t7q.length = (s.getCore c).t7q.length + 1 ∧ t.thr = s.thr := by
  have hacc := countMismatch_accounts s c o.tid
  have hnote : field (satField (((s.countCore c 0x17).countEvent c o.tid 0x09).getCore c).ckstat 32 16) 0 2 = 0 := by
    rw [field_satField_other _ (by omega), ckstat_accounts hacc, hck]
  obtain ⟨hstrikes, hlen, hthr⟩ := strikeCore_first 0 (s.thread o).pc (fun w => satField w 32 16) ((t7Full_accounts hacc c).trans hfull) hnote
  refine ⟨_, exec_checkerMismatch_strike ho, hstrikes, hlen.trans ?_, hthr.trans hacc.thr⟩
  rw [hacc.t7q c]

theorem runs_checkerMismatch_second {s : State} {c : Nat} {o : Agent} (ho : s.choose c = some o)
    (hck : field (s.getCore c).ckstat 0 2 = 1) :
    Runs (.checkerMismatch c) s fun t => bitAt (t.getCore c).ckstat 16 = true ∧
      (∀ k, k < 8 → k ≠ 6 → (t.thread (.thr c k)).st = .off) ∧
      (t.thread (.thr c 6)).st = if t6Runs (s.thread (.thr c 6)) then (s.thread (.thr c 6)).st else .off := by
  have hacc := countMismatch_accounts s c o.tid
  have hnote : field (satField (((s.countCore c 0x17).countEvent c o.tid 0x09).getCore c).ckstat 32 16) 0 2 = 1 := by
    rw [field_satField_other _ (by omega), ckstat_accounts hacc, hck]
  refine ⟨_, exec_checkerMismatch_strike ho, ?_⟩
  rw [strikeCore_second 0 (s.thread o).pc (fun w => satField w 32 16) hnote, ← hacc.thread]
  exact coreOff_effect _ c Cause.checkerMismatch 1 (s.thread o).pc

theorem runs_knownAnswerMismatch {s : State} {c : Nat} (hfull : s.t7Full c = false) (hoff : bitAt (s.getCore c).ckstat 16 = false)
    (hck : field (s.getCore c).ckstat 0 2 = 0) :
    Runs (.knownAnswerMismatch c false) s fun t => field (t.getCore c).ckstat 0 2 = 1 ∧
      (t.getCore c).t7q.length = (s.getCore c).t7q.length + 1 ∧ t.thr = s.thr := by
  have hnote : field (satField (setField (s.getCore c).ckstat 6 1 1) 24 8) 0 2 = 0 := by
    rw [field_satField_other _ (by omega), field_setField_other _ (by omega), hck]
  refine ⟨_, ?_, strikeCore_first 3 (Config.freeWord s.freeCtr c) (fun w => satField (setField w 6 1 1) 24 8) hfull hnote⟩
  rw [exec_knownAnswerMismatch, execKnownAnswerMismatch]
  simp only [Bool.false_eq_true, if_false, hoff]

end State
end Sys2Proof.Machine

namespace Sys2Proof.Machine

namespace State

/-! ### A scan ends (R136) -/

/-- What a scan that ends with `result` leaves of its core and of T7, which waited for it. -/
theorem endScan_effect {s : State} {c : Nat} {k : Scan} {d : BitVec 5} (result : Nat) (hscan : (s.getCore c).scan = some k) (hrd : k.rd = some d)
    (hst : (s.thread (.thr c 7)).st = .wait) (hwait : (s.thread (.thr c 7)).wait = some { kind := .scan, rd := d }) :
    let t := s.endScan c result
    (t.getCore c).scan = none ∧ (t.getCore c).ckstat = scanStat (s.getCore c).ckstat result ∧ SameBytes s t ∧
      t.thread (.thr c 7) = (({ s.thread (.thr c 7) with wait := none, st := .run } : Thread).setX d (ofN (result - 1))).next 4 := by
  intro t
  have hacc := fun u : State => countEvents_accounts u c 7 0x02 1
  have ht : ∃ (f : Core → Core) (g : Thread → Thread), t = ((s.modCore c f).countEvent c 7 0x02).modThread (.thr c 7) g ∧
      (f (s.getCore c)).scan = none ∧ (f (s.getCore c)).ckstat = scanStat (s.getCore c).ckstat result ∧
      g (s.thread (.thr c 7)) = (({ s.thread (.thr c 7) with wait := none, st := .run } : Thread).setX d (ofN (result - 1))).next 4 := by
    show ∃ f g, s.endScan c result = _ ∧ _
    unfold endScan
    rw [hscan]
    dsimp only
    rw [hrd]
    refine ⟨_, _, rfl, rfl, rfl, ?_⟩
    rw [hwait, hst]
    rfl
  obtain ⟨f, g, ht, hfscan, hfck, hg⟩ := ht
  have hcore := (hacc (s.modCore c f)).2 c
  rw [getCore_modCore_same] at hcore
  have hscan' := congrArg Core.scan hcore
  have hck' := congrArg Core.ckstat hcore
  have hmem := (hacc (s.modCore c f)).mem
  rw [ht]
  refine ⟨hscan'.trans hfscan, hck'.trans hfck, .of_mem hmem, ?_⟩
  rw [thread_modThread_same]
  exact (congrArg g ((hacc (s.modCore c f)).thread _)).trans hg

/-- Bit 20 of CKSTAT after a scan that passed, and after one that failed. -/
theorem bitAt_scanStat_passed (w : Word) : bitAt (scanStat w 1) 20 = false := by
  unfold scanStat
  dsimp only
  rw [if_pos rfl, bitAt_setField_other _ (by omega), bitAt, getLsbD_setField _ _ _ _ _ (by omega), if_pos (by omega)]
  rfl

theorem bitAt_scanStat_failed (w : Word) : bitAt (scanStat w 2) 20 = true := by
  unfold scanStat
  dsimp only
  rw [if_neg (by decide), if_pos rfl, bitAt, getLsbD_setField _ _ _ _ _ (by omega), if_pos (by omega)]
  rfl

theorem exec_scanComplete_due {s : State} {c : Nat} {k : Scan} (hscan : (s.getCore c).scan = some k)
    (hdue : k.start.toNat + 200000 ≤ s.timebase.toNat) (pass : Bool) :
    exec (.scanComplete c pass) s = .next (s.endScan c (if pass then 1 else 2)) := by
  rw [exec_scanComplete, execScanComplete, hscan]
  exact if_neg (Nat.not_lt.2 hdue)

theorem exec_scanAbort_urgent {s : State} {c : Nat} {k : Scan} (hscan : (s.getCore c).scan = some k)
    (hany : (s.getCore c).t7q.any (fun i => decide (i.kind = 3)) = true) : exec (.scanAbort c) s = .next (s.endScan c 3) := by
  rw [exec_scanAbort, execScanAbort, hscan]
  dsimp only
  rw [hany, Bool.or_true, if_pos rfl]

/-! ### A core comes to rest (R404) -/

/-- Only the threads have changed. -/
def ThreadsOnly (s t : State) : Prop := t = { s with thr := t.thr }

theorem ThreadsOnly.foldl {α : Type} {f : State → α → State} (hf : ∀ s x, ThreadsOnly s (f s x)) (l : List α) :
    ∀ s, ThreadsOnly s (l.foldl f s) := by
  induction l with
  | nil => exact fun _ => rfl
  | cons x l ih =>
    intro s
    have hfirst := hf s x
    have hrest := ih (f s x)
    unfold ThreadsOnly at *
    rw [List.foldl_cons, hrest, hfirst]

theorem settleStops_threadsOnly (s : State) (c : Nat) : ThreadsOnly s (s.settleStops c) :=
  .foldl (fun t i => by
    split
    · exact rfl
    · exact rfl) _ s

/-- What marking the groups at rest leaves: the cores, the bytes of memory and the stop records. -/
structure KeepsStops (s t : State) : Prop where
  core : t.core = s.core
  mem : t.mem = s.mem
  stopRec : ∀ d, (t.getDie d).stopRec = (s.getDie d).stopRec

theorem markGroups_keepsStops (s : State) : KeepsStops s s.markGroups := by
  unfold markGroups
  induction List.range 64 generalizing s with
  | nil => exact ⟨rfl, rfl, fun _ => rfl⟩
  | cons i l ih =>
    rw [List.foldl_cons]
    obtain ⟨hcore, hmem, hrec⟩ := ih (if s.groupAtRest (i / 32) (i % 32) then
      s.modDie (i / 32) fun x => { x with hgc := Tbl.put 0 x.hgc (i % 32) (setField (Tbl.get 0 x.hgc (i % 32)) 2 1 1) } else s)
    refine ⟨hcore.trans ?_, hmem.trans ?_, fun d => (hrec d).trans ?_⟩
    · split <;> rfl
    · split <;> rfl
    · split
      · rw [getDie_modDie]
        split
        case isTrue h => rw [h]
        case isFalse => rfl
      · rfl

/-- A core at rest has its stop marked, and a record that begins with the time (R404). -/
theorem runs_coreAtRest {s : State} {c : Nat} {r : StopReq} (hstop : (s.getCore c).stop = some r) (hrest : r.atRest = false)
    (hat : (s.settleStops c).coreAtRest c = true) :
    Runs (.coreAtRest c) s fun t => (t.getCore c).stop = some { r with atRest := true } ∧ SameBytes s t ∧
      (Tbl.get [] (t.getDie (c / 64)).stopRec (c % 64)).head? = some s.timebase := by
  have hexec : ∃ l, exec (.coreAtRest c) s = .next (((s.settleStops c).modDie (c / 64) fun d =>
      { d with stopRec := Tbl.put [] d.stopRec (c % 64) (s.timebase :: l) }).modCore c fun k =>
      { k with stop := some { r with atRest := true } }).markGroups := by
    rw [exec_coreAtRest, execCoreAtRest, hstop]
    dsimp only
    rw [hrest, hat, if_neg (by decide)]
    exact ⟨_, rfl⟩
  obtain ⟨l, hexec⟩ := hexec
  have hthreads := settleStops_threadsOnly s c
  generalize s.settleStops c = s1 at hexec hthreads
  obtain ⟨hcore, hmem, hrec⟩ := markGroups_keepsStops ((s1.modDie (c / 64) fun d =>
      { d with stopRec := Tbl.put [] d.stopRec (c % 64) (s.timebase :: l) }).modCore c fun k =>
      { k with stop := some { r with atRest := true } })
  have hmem1 := congrArg State.mem hthreads
  refine ⟨_, hexec, ?_, .of_mem (hmem.trans hmem1), ?_⟩
  · rw [getCore, hcore]
    exact congrArg Core.stop (getCore_modCore_same _ c fun k => { k with stop := some { r with atRest := true } })
  · rw [hrec]
    have hput := congrArg Die.stopRec (getDie_modDie_same s1 (c / 64) fun d =>
      { d with stopRec := Tbl.put [] d.stopRec (c % 64) (s.timebase :: l) })
    refine (congrArg (fun r => (Tbl.get [] r (c % 64)).head?) hput).trans ?_
    rw [Tbl.get_put_same]
    rfl

end State
end Sys2Proof.Machine

namespace Sys2Proof.Machine

namespace State

/-- A scan that passed, that failed and that gave way, each ends with its result in SCANRUN's register (R136). -/
theorem runs_scanEnds {s : State} {c : Nat} {k : Scan} {d : BitVec 5} (hscan : (s.getCore c).scan = some k) (hrd : k.rd = some d)
    (hst : (s.thread (.thr c 7)).st = .wait) (hwait : (s.thread (.thr c 7)).wait = some { kind := .scan, rd := d }) :
    let goes := fun (t : State) (n : Nat) => (t.getCore c).scan = none ∧ SameBytes s t ∧ t.thread (.thr c 7) =
      (({ s.thread (.thr c 7) with wait := none, st := .run } : Thread).setX d (ofN n)).next 4
    (k.start.toNat + 200000 ≤ s.timebase.toNat →
      Runs (.scanComplete c true) s (fun t => goes t 0 ∧ bitAt (t.getCore c).ckstat 20 = false) ∧
      Runs (.scanComplete c false) s (fun t => goes t 1 ∧ bitAt (t.getCore c).ckstat 20 = true)) ∧
    ((s.getCore c).t7q.any (fun i => decide (i.kind = 3)) = true → Runs (.scanAbort c) s (fun t => goes t 2)) := by
  intro goes
  obtain ⟨hnone1, hck1, hbytes1, hthread1⟩ := endScan_effect 1 hscan hrd hst hwait
  obtain ⟨hnone2, hck2, hbytes2, hthread2⟩ := endScan_effect 2 hscan hrd hst hwait
  obtain ⟨hnone3, -, hbytes3, hthread3⟩ := endScan_effect 3 hscan hrd hst hwait
  refine ⟨fun hdue => ⟨⟨_, exec_scanComplete_due hscan hdue true, ⟨hnone1, hbytes1, hthread1⟩, ?_⟩,
    ⟨_, exec_scanComplete_due hscan hdue false, ⟨hnone2, hbytes2, hthread2⟩, ?_⟩⟩,
    fun hany => ⟨_, exec_scanAbort_urgent hscan hany, hnone3, hbytes3, hthread3⟩⟩
  · exact (congrArg (bitAt · 20) hck1).trans (bitAt_scanStat_passed _)
  · exact (congrArg (bitAt · 20) hck2).trans (bitAt_scanStat_failed _)

end State

/-- Settles O47: each event of T7's services has its effect, one lemma for each event. -/
theorem serviceEvents : Obligations.ServiceEvents := by
  unfold Obligations.ServiceEvents
  intro s core tid i l a th itemMore
  exact ⟨State.runs_sectorError s l, State.runs_journalError s core tid, State.runs_counterError s i l,
    fun _ _ _ => State.runs_uncorrectableTrap, State.runs_preemptRequest, fun _ _ => State.runs_saveComplete,
    fun _ => State.runs_resumptionItem, fun _ => State.runs_restoreComplete, fun _ _ => State.runs_serviceItemStart,
    fun _ => State.runs_checkerMismatch_first, fun _ => State.runs_checkerMismatch_second, State.runs_knownAnswerMismatch,
    fun _ _ => State.runs_scanEnds, fun _ => State.runs_coreAtRest⟩

end Sys2Proof.Machine

/-! SUPPORT. The encoding (O4, O57, O58). First the fields of the words that the formats of R48 and R56 build. -/

namespace Sys2Proof

/-- A field above the low part of two joined words is a field of the high part. -/
theorem field_above {n w l k : Nat} {x : BitVec n} {y : BitVec w} {f : BitVec k} (h : x.extractLsb' l k = f) :
    (x ++ y).extractLsb' (l + w) k = f := by
  rw [BitVec.extractLsb'_append_eq_of_le (Nat.le_add_left w l), Nat.add_sub_cancel, h]

/-- Two fields that meet, joined again. -/
theorem extractLsb'_append_adjacent {n : Nat} (w : BitVec n) (l k m : Nat) :
    w.extractLsb' (l + k) m ++ w.extractLsb' l k = w.extractLsb' l (m + k) :=
  BitVec.extractLsb'_append_extractLsb'_eq_extractLsb' rfl

section
open BitVec (extractLsb'_append_eq_left extractLsb'_append_eq_right)
variable (m : BitVec 8) (d a b : BitVec 5)

@[simp] theorem fMajor_rWord (fn : BitVec 9) : fMajor (rWord m d a b fn) = m :=
  field_above (field_above (field_above extractLsb'_append_eq_left))
@[simp] theorem fD_rWord (fn : BitVec 9) : fD (rWord m d a b fn) = d :=
  field_above (field_above (field_above extractLsb'_append_eq_right))
@[simp] theorem fA_rWord (fn : BitVec 9) : fA (rWord m d a b fn) = a := field_above (field_above extractLsb'_append_eq_right)
@[simp] theorem fB_rWord (fn : BitVec 9) : fB (rWord m d a b fn) = b := field_above extractLsb'_append_eq_right
@[simp] theorem fFn_rWord (fn : BitVec 9) : fFn (rWord m d a b fn) = fn := extractLsb'_append_eq_right

@[simp] theorem fMajor_iWord (imm : BitVec 14) : fMajor (iWord m d a imm) = m := field_above (field_above extractLsb'_append_eq_left)
@[simp] theorem fD_iWord (imm : BitVec 14) : fD (iWord m d a imm) = d := field_above (field_above extractLsb'_append_eq_right)
@[simp] theorem fA_iWord (imm : BitVec 14) : fA (iWord m d a imm) = a := field_above extractLsb'_append_eq_right
@[simp] theorem fImm_iWord (imm : BitVec 14) : fImm (iWord m d a imm) = imm := extractLsb'_append_eq_right

@[simp] theorem fMajor_jWord (off : BitVec 19) : fMajor (jWord m d off) = m := field_above extractLsb'_append_eq_left
@[simp] theorem fD_jWord (off : BitVec 19) : fD (jWord m d off) = d := field_above extractLsb'_append_eq_right
@[simp] theorem fOff19_jWord (off : BitVec 19) : fOff19 (jWord m d off) = off := extractLsb'_append_eq_right

@[simp] theorem fMajor_bWord (cond : BitVec 3) (off : BitVec 11) : fMajor (bWord m cond a b off) = m :=
  field_above (field_above (field_above extractLsb'_append_eq_left))
@[simp] theorem fCond_bWord (cond : BitVec 3) (off : BitVec 11) : fCond (bWord m cond a b off) = cond :=
  field_above (field_above (field_above extractLsb'_append_eq_right))
@[simp] theorem fBa_bWord (cond : BitVec 3) (off : BitVec 11) : fBa (bWord m cond a b off) = a :=
  field_above (field_above extractLsb'_append_eq_right)
@[simp] theorem fBb_bWord (cond : BitVec 3) (off : BitVec 11) : fBb (bWord m cond a b off) = b := field_above extractLsb'_append_eq_right
@[simp] theorem fOff11_bWord (cond : BitVec 3) (off : BitVec 11) : fOff11 (bWord m cond a b off) = off := extractLsb'_append_eq_right

@[simp] theorem fMajor_vWord (p : BitVec 3) (s : BitVec 2) (fn : BitVec 4) : fMajor (vWord m d a b p s fn) = m :=
  field_above (field_above (field_above (field_above (field_above extractLsb'_append_eq_left))))
@[simp] theorem fD_vWord (p : BitVec 3) (s : BitVec 2) (fn : BitVec 4) : fD (vWord m d a b p s fn) = d :=
  field_above (field_above (field_above (field_above (field_above extractLsb'_append_eq_right))))
@[simp] theorem fA_vWord (p : BitVec 3) (s : BitVec 2) (fn : BitVec 4) : fA (vWord m d a b p s fn) = a :=
  field_above (field_above (field_above (field_above extractLsb'_append_eq_right)))
@[simp] theorem fB_vWord (p : BitVec 3) (s : BitVec 2) (fn : BitVec 4) : fB (vWord m d a b p s fn) = b :=
  field_above (field_above (field_above extractLsb'_append_eq_right))
@[simp] theorem fP_vWord (p : BitVec 3) (s : BitVec 2) (fn : BitVec 4) : fP (vWord m d a b p s fn) = p :=
  field_above (field_above extractLsb'_append_eq_right)
@[simp] theorem fSz_vWord (p : BitVec 3) (s : BitVec 2) (fn : BitVec 4) : fSz (vWord m d a b p s fn) = s :=
  field_above extractLsb'_append_eq_right
@[simp] theorem fFn4_vWord (p : BitVec 3) (s : BitVec 2) (fn : BitVec 4) : fFn4 (vWord m d a b p s fn) = fn := extractLsb'_append_eq_right

@[simp] theorem cOp_cWord (op : BitVec 6) (hi lo : BitVec 5) : cOp (cWord op hi lo) = op := field_above extractLsb'_append_eq_left
@[simp] theorem cHi_cWord (op : BitVec 6) (hi lo : BitVec 5) : cHi (cWord op hi lo) = hi := field_above extractLsb'_append_eq_right
@[simp] theorem cLo_cWord (op : BitVec 6) (hi lo : BitVec 5) : cLo (cWord op hi lo) = lo := extractLsb'_append_eq_right

/-! Operands inside a function field, a destination field or an immediate (R51). -/

@[simp] theorem fpFn_rounding (r : BitVec 3) (f : BitVec 1) (c : BitVec 5) : (r ++ f ++ c : BitVec 9).extractLsb' 6 3 = r :=
  field_above extractLsb'_append_eq_left
@[simp] theorem fpFn_format (r : BitVec 3) (f : BitVec 1) (c : BitVec 5) : (r ++ f ++ c : BitVec 9).extractLsb' 5 1 = f :=
  field_above extractLsb'_append_eq_right
@[simp] theorem fpFn_code (r : BitVec 3) (f : BitVec 1) (c : BitVec 5) : (r ++ f ++ c : BitVec 9).extractLsb' 0 5 = c :=
  extractLsb'_append_eq_right

@[simp] theorem fenceFn_kind (k s c : BitVec 3) : (k ++ s ++ c : BitVec 9).extractLsb' 6 3 = k := field_above extractLsb'_append_eq_left
@[simp] theorem fenceFn_scope (k s c : BitVec 3) : (k ++ s ++ c : BitVec 9).extractLsb' 3 3 = s := field_above extractLsb'_append_eq_right
@[simp] theorem fenceFn_code (k s c : BitVec 3) : (k ++ s ++ c : BitVec 9).extractLsb' 0 3 = c := extractLsb'_append_eq_right

@[simp] theorem atomFn_order (o : BitVec 5) (c : BitVec 4) : (o ++ c : BitVec 9).extractLsb' 4 5 = o := extractLsb'_append_eq_left
@[simp] theorem atomFn_code (o : BitVec 5) (c : BitVec 4) : (o ++ c : BitVec 9).extractLsb' 0 4 = c := extractLsb'_append_eq_right

@[simp] theorem sysFn_code (c : BitVec 2) (n : BitVec 7) : (c ++ n : BitVec 9).extractLsb' 7 2 = c := extractLsb'_append_eq_left
@[simp] theorem sysFn_number (c : BitVec 2) (n : BitVec 7) : (c ++ n : BitVec 9).extractLsb' 0 7 = n := extractLsb'_append_eq_right

@[simp] theorem cmpD_condition (c : BitVec 2) (q : BitVec 3) : (c ++ q : BitVec 5).extractLsb' 3 2 = c := extractLsb'_append_eq_left
@[simp] theorem cmpD_predicate (c : BitVec 2) (q : BitVec 3) : (c ++ q : BitVec 5).extractLsb' 0 3 = q := extractLsb'_append_eq_right

@[simp] theorem cvtB_half (h : BitVec 1) (c : BitVec 4) : (h ++ c : BitVec 5).extractLsb' 4 1 = h := extractLsb'_append_eq_left
@[simp] theorem cvtB_formats (h : BitVec 1) (c : BitVec 4) : (h ++ c : BitVec 5).extractLsb' 0 4 = c := extractLsb'_append_eq_right

@[simp] theorem shiftImm_amount (c : BitVec 8) (n : BitVec 6) : (c ++ n : BitVec 14).extractLsb' 0 6 = n := extractLsb'_append_eq_right
end

theorem shiftImm_code (c : BitVec 8) (n : BitVec 6) : (c ++ n : BitVec 14).extractLsb' 12 2 = c.extractLsb' 6 2 :=
  field_above rfl

@[simp] theorem fcvtSFn_rounding (r : BitVec 3) (c : BitVec 6) : (r ++ c : BitVec 9).extractLsb' 6 3 = r :=
  BitVec.extractLsb'_append_eq_left

theorem fcvtSFn_format (r : BitVec 3) (c : BitVec 6) : (r ++ c : BitVec 9).extractLsb' 5 1 = c.extractLsb' 5 1 :=
  BitVec.extractLsb'_append_eq_of_add_le (by decide)

theorem fcvtSFn_code (r : BitVec 3) (c : BitVec 6) : (r ++ c : BitVec 9).extractLsb' 0 5 = c.extractLsb' 0 5 :=
  BitVec.extractLsb'_append_eq_of_add_le (by decide)

@[simp] theorem sysNumber_parts (n : BitVec 12) : n.extractLsb' 7 5 ++ n.extractLsb' 0 7 = n :=
  (extractLsb'_append_adjacent n 0 7 5).trans BitVec.extractLsb'_eq_self

@[simp] theorem compactImm_parts (i : BitVec 10) : i.extractLsb' 5 5 ++ i.extractLsb' 0 5 = i :=
  (extractLsb'_append_adjacent i 0 5 5).trans BitVec.extractLsb'_eq_self

/-- A word by its number. -/
theorem exists_eq_ofNat {n : Nat} (x : BitVec n) : ∃ k < 2 ^ n, x = BitVec.ofNat n k :=
  ⟨x.toNat, x.isLt, by simp⟩

/-! ### The row that a word names (R51, R57) -/

/-- The major opcodes of format R, each with its group. -/
theorem candidate32_rWord (d a b : BitVec 5) (fn : BitVec 9) :
    candidate32 (rWord 0xC1#8 d a b fn) = groupInt (rWord 0xC1#8 d a b fn) ∧
    candidate32 (rWord 0xCB#8 d a b fn) = groupMulDiv (rWord 0xCB#8 d a b fn) ∧
    candidate32 (rWord 0xDB#8 d a b fn) = groupFp (rWord 0xDB#8 d a b fn) ∧
    candidate32 (rWord 0xE0#8 d a b fn) = groupAtom (rWord 0xE0#8 d a b fn) ∧
    candidate32 (rWord 0xE1#8 d a b fn) = groupFence (rWord 0xE1#8 d a b fn) ∧
    candidate32 (rWord 0xE2#8 d a b fn) = groupSys (rWord 0xE2#8 d a b fn) ∧
    candidate32 (rWord 0xE3#8 d a b fn) = groupMsg (rWord 0xE3#8 d a b fn) ∧
    candidate32 (rWord 0xE4#8 d a b fn) = groupQreg (rWord 0xE4#8 d a b fn) ∧
    candidate32 (rWord 0xE5#8 d a b fn) = groupOx (rWord 0xE5#8 d a b fn) ∧
    candidate32 (rWord 0xED#8 d a b fn) = groupPred (rWord 0xED#8 d a b fn) ∧
    candidate32 (rWord 0xEE#8 d a b fn) = groupMx (rWord 0xEE#8 d a b fn) ∧
    candidate32 (rWord 0xEF#8 d a b fn) = groupEng (rWord 0xEF#8 d a b fn) ∧
    candidate32 (rWord 0xF0#8 d a b fn) = groupCpy (rWord 0xF0#8 d a b fn) ∧
    candidate32 (rWord 0xF1#8 d a b fn) = groupReel (rWord 0xF1#8 d a b fn) ∧
    candidate32 (rWord 0xF2#8 d a b fn) = groupTask (rWord 0xF2#8 d a b fn) ∧
    candidate32 (rWord 0xF3#8 d a b fn) = groupSync (rWord 0xF3#8 d a b fn) ∧
    candidate32 (rWord 0xF4#8 d a b fn) = groupTbl (rWord 0xF4#8 d a b fn) ∧
    candidate32 (rWord 0xF5#8 d a b fn) = groupSnap (rWord 0xF5#8 d a b fn) ∧
    candidate32 (rWord 0xF6#8 d a b fn) = groupMon (rWord 0xF6#8 d a b fn) ∧
    candidate32 (rWord 0xF7#8 d a b fn) = groupCnt (rWord 0xF7#8 d a b fn) := by
  and_intros
  all_goals
    rw [candidate32.eq_def, fMajor_rWord]
    rfl

/-- The major opcodes of format V, each with its group. -/
theorem candidate32_vWord (d a b : BitVec 5) (p : BitVec 3) (s : BitVec 2) (fn : BitVec 4) :
    candidate32 (vWord 0xE6#8 d a b p s fn) = groupVint1 (vWord 0xE6#8 d a b p s fn) ∧
    candidate32 (vWord 0xE7#8 d a b p s fn) = groupVint2 (vWord 0xE7#8 d a b p s fn) ∧
    candidate32 (vWord 0xE8#8 d a b p s fn) = groupVfp (vWord 0xE8#8 d a b p s fn) ∧
    candidate32 (vWord 0xE9#8 d a b p s fn) = groupVmem (vWord 0xE9#8 d a b p s fn) ∧
    candidate32 (vWord 0xEA#8 d a b p s fn) = groupVperm (vWord 0xEA#8 d a b p s fn) ∧
    candidate32 (vWord 0xEB#8 d a b p s fn) = groupVcvt (vWord 0xEB#8 d a b p s fn) ∧
    candidate32 (vWord 0xEC#8 d a b p s fn) = groupVspec (vWord 0xEC#8 d a b p s fn) := by
  and_intros
  all_goals
    rw [candidate32.eq_def, fMajor_vWord]
    rfl

/-- The first halfword of the instruction's word gives its length (R45), and its major and function code, or its op4, name the
instruction's row with the operands in their fields, or the first row of those that share the word. -/
def NamesRow (i : Instr) : Prop :=
  match encode i with
  | .full w => isLong (w.extractLsb' 16 16) = true ∧ candidate32 w = some i.canon
  | .half h => isLong h = false ∧ candidate16 h = some i.canon
  | .event => True

open Laws.Encoded (top_r top_i top_j top_b top_v top_c) in
/-- Every word names its own row, format by format: the major opcode, read back, leaves one group of `candidate32`, which `whnf` opens
at its function code; the code, read back, leaves one row; and the row's operands, read back, are the instruction's. -/
theorem namesRow (i : Instr) : NamesRow i := by
  cases i
  -- Words without an operand.
  case ifence | eretResume | eretPreempt | eretPark | eretRetake | eretKill | eretUnpark | utret | halt | endAct | mxfence | monopen
      | cEnd | brk | nop | yield =>
    exact ⟨rfl, rfl⟩
  -- Format R, the function field a code alone.
  case add | sub | addw | subw | and | or | xor | andn | orn | sll | srl | sra | rol | ror | slt | sltu | seq | min | max | minu |
      maxu | clz | ctz | popc | brev | bswap | sextB | sextH | sextW | zextB | zextH | zextW | mul | mulh | mulhu | mulhsu | mulw |
      div | divu | rem | remu | madd | fcvtD | pref | trap | waitI | migrate | scanrun | sendI | sendl | sendlRpl | reduce | defer |
      rld | rst | rcas | qbind | qput | qget | qtry | qlen | oxset | oxget | pand | por | pxor | pnot | mxcfg | mxzero | mxldb |
      mxldbs | mxldbg | mxstg | mxmul | mxrd | forkMs | forkMi | forkCs | join | sempost | semwait | engstat | cpy | cpym | cpycan |
      cpyst | stcfg | stend | ststat | reelinit | reelawait | reelrel | reelst | tenq | tdeq | futld | futst | launch | barinit |
      bararr | barwait | dcinit | dcdec | dcwait | slopen | slopenClose | slwait | slstat | bump | rngmap | rngunmap | rngsplit |
      rngmerge | rngprot | rngresAdd | rngresRemove | rnginv | rngcmp | rngqry | lcmremRemove | lcmremPlace | qtmapMap | qtmapUnmap
      | qtpinPin | qtpinUnpin | snapinitCursor | snapinitCreate | snapinitDestroy | snapinitQuery | snaphash | snapput | snapfind |
      snapget | snaprel | snaprelAll | monput | monseal | monstat | monclose | rdts | rdcyc | rdvc | pmcfg | pmrd | dlyrd | dbgmark
      =>
    refine .intro (top_r rfl) ?_
    simp only [candidate32_rWord]
    conv_lhs => whnf
    rw [fFn_rWord]
    exact congrArg some (by simp only [fD_rWord, fA_rWord, fB_rWord]; rfl)
  -- Format R, the function field holding operands above its code.
  case fadd | fsub | fmul | fdiv | fsqrt | fma | fms | fnma | fmin | fmax | fcmpEq | fcmpLt | fcmpLe | fcmpUn | fclass | fcvti |
      fcvtf | fmvxf | fmvfx | fsgn | fsgnn | fsgnx =>
    refine .intro (top_r rfl) ?_
    simp only [candidate32_rWord]
    conv_lhs => whnf
    rw [fFn_rWord, fpFn_code]
    exact congrArg some (by simp only [fD_rWord, fA_rWord, fB_rWord, fpFn_rounding, fpFn_format]; rfl)
  case fcvtS =>
    refine .intro (top_r rfl) ?_
    simp only [candidate32_rWord]
    conv_lhs => whnf
    rw [fFn_rWord, fcvtSFn_code, fcvtSFn_format]
    exact congrArg some (by simp only [fD_rWord, fA_rWord, fcvtSFn_rounding]; rfl)
  case amoadd | amoand | amoor | amoxor | amomin | amomax | amominu | amomaxu | amoswap | cas =>
    refine .intro (top_r rfl) ?_
    simp only [candidate32_rWord]
    conv_lhs => whnf
    rw [fFn_rWord, atomFn_code]
    exact congrArg some (by simp only [fD_rWord, fA_rWord, fB_rWord, atomFn_order]; rfl)
  case fence | icinv | dcinv | dcwb | dcfl =>
    refine .intro (top_r rfl) ?_
    simp only [candidate32_rWord]
    conv_lhs => whnf
    rw [fFn_rWord, fenceFn_code]
    exact congrArg some (by simp only [fD_rWord, fA_rWord, fB_rWord, fenceFn_kind, fenceFn_scope]; rfl)
  -- Format R, the function field holding an operand below its code: one code for every value of the operand.
  case shadd | ramo | oxld | oxst | pset | pcnt | pfirst =>
    rename_i n
    obtain ⟨k, hk, rfl⟩ := exists_eq_ofNat n
    interval_cases k
    all_goals
      refine .intro (top_r rfl) ?_
      simp only [candidate32_rWord]
      conv_lhs => whnf
      rw [fFn_rWord]
      exact congrArg some (by simp only [fD_rWord, fA_rWord, fB_rWord]; rfl)
  -- A system register: the code and the low part of the number in the function field.
  case mfs | mts =>
    refine .intro (top_r rfl) ?_
    simp only [candidate32_rWord]
    conv_lhs => whnf
    rw [fFn_rWord, sysFn_code]
    exact congrArg some (by simp only [fD_rWord, fA_rWord, fB_rWord, sysFn_number, sysNumber_parts]; rfl)
  -- Format I.
  case addi | andi | ori | xori | slti | sltiu | ldb | ldbu | ldh | ldhu | ldw | ldwu | ldd | stb | sth | stw | std | jalr | loopI |
      fldw | fldd | fstw | fstd =>
    refine .intro (top_i rfl) ?_
    rw [candidate32.eq_def, fMajor_iWord]
    exact congrArg some (by simp only [fD_iWord, fA_iWord, fImm_iWord]; rfl)
  case slli | srli | srai | rori =>
    refine .intro (top_i rfl) ?_
    rw [candidate32.eq_def, fMajor_iWord]
    conv_lhs => whnf
    rw [fImm_iWord, shiftImm_code]
    exact congrArg some (by simp only [fD_iWord, fA_iWord, shiftImm_amount]; rfl)
  -- Formats J, B and V.
  case lui | addpc | jal =>
    refine .intro (top_j rfl) ?_
    rw [candidate32.eq_def, fMajor_jWord]
    exact congrArg some (by simp only [fD_jWord, fOff19_jWord]; rfl)
  case beq | bne | blt | bge | bltu | bgeu | bbs | bbc =>
    refine .intro (top_b rfl) ?_
    rw [candidate32.eq_def, fMajor_bWord]
    conv_lhs => whnf
    rw [fCond_bWord]
    exact congrArg some (by simp only [fBa_bWord, fBb_bWord, fOff11_bWord]; rfl)
  case vadd | vsub | vmul | vmulh | vmadd | vand | vor | vxor | vsll | vsrl | vsra | vmin | vmax | vminu | vmaxu | vabs | vadds |
      vsubs | vcmp | vsel | vdot4 | vtdot4 | vpopc | vmv | vfadd | vfsub | vfmul | vfma | vfms | vfmin | vfmax | vfdiv | vfsqrt |
      vfrcp | vfrsq | vfcmp | vld | vlds | vgath | vst | vsts | vscat | vldb | vredsum | vredmin | vredmax | vscan | vperm | vbcast
      | vslide | vins | vext | vzip | vcvt | vnarrow | vwiden | unpk3 | unpk4 | vpwl | vsupd | vprune =>
    refine .intro (top_v rfl) ?_
    simp only [candidate32_vWord]
    conv_lhs => whnf
    rw [fFn4_vWord]
    exact congrArg some (by
      simp only [fD_vWord, fA_vWord, fB_vWord, fP_vWord, fSz_vWord, cmpD_condition, cmpD_predicate, cvtB_half, cvtB_formats]
      rfl)
  -- Compact forms.
  case cMv | cAdd | cSub | cAnd | cOr | cXor | cSll | cSrl | cSra | cMul | cSlt | cLdx | cStx | cAddi | cLi | cSlli | cSrli | cSrai
      | cAndi | cOri | cXori | cSpadj | cJ | cJal | cBeqz | cBnez | cSld | cSst | cPld | cPst | cSlw | cSsw =>
    refine .intro (top_c (by decide)) ?_
    rw [candidate16.eq_def, cOp_cWord]
    exact congrArg some (by simp only [cHi_cWord, cLo_cWord, compactImm_parts]; rfl)
  case cJmpr | cCallr =>
    refine .intro (top_c (by decide)) ?_
    rw [candidate16.eq_def, cOp_cWord]
    conv_lhs => whnf
    rw [cHi_cWord]
    exact congrArg some (by simp only [cLo_cWord]; rfl)
  -- Machine events.
  all_goals exact trivial

/-! ### Decoding (R45, R59) -/

/-- Rows that share a word have the same word. -/
theorem encode_canon (i : Instr) : encode i.canon = encode i := by
  cases i <;> rfl

/-- Rows that share a word have the same limits. -/
theorem wellFormed_canon (i : Instr) : i.canon.wellFormed = i.wellFormed := by
  cases i <;> rfl

/-- A row is accepted where it is the row of the word, well formed, and the word is its own. -/
theorem decode32_of_candidate {w : BitVec 32} {i : Instr} (hrow : candidate32 w = some i) (hwf : i.wellFormed = true)
    (henc : encode i = .full w) : decode32 w = some i := by
  simp [decode32, hrow, hwf, henc]

theorem decode16_of_candidate {h : BitVec 16} {i : Instr} (hrow : candidate16 h = some i) (hwf : i.wellFormed = true)
    (henc : encode i = .half h) : decode16 h = some i := by
  simp [decode16, hrow, hwf, henc]

/-- The bytes of a long word are read back as the word. -/
theorem decode_bytesOfWord {w : BitVec 32} {i : Instr} (hlong : isLong (w.extractLsb' 16 16) = true) (hdec : decode32 w = some i)
    (rest : List (BitVec 8)) : decode (bytesOfWord w ++ rest) = .ok (i, rest) := by
  have hhi : halfOfBytes (w.extractLsb' 16 8) (w.extractLsb' 24 8) = w.extractLsb' 16 16 := extractLsb'_append_adjacent w 16 8 8
  have hlo : halfOfBytes (w.extractLsb' 0 8) (w.extractLsb' 8 8) = w.extractLsb' 0 16 := extractLsb'_append_adjacent w 0 8 8
  have hw : w.extractLsb' 16 16 ++ w.extractLsb' 0 16 = w :=
    (extractLsb'_append_adjacent w 0 16 16).trans BitVec.extractLsb'_eq_self
  simp [decode, bytesOfWord, hhi, hlo, hw, hlong, hdec]

/-- The bytes of a compact halfword are read back as the halfword. -/
theorem decode_bytesOfHalf {h : BitVec 16} {i : Instr} (hshort : isLong h = false) (hdec : decode16 h = some i)
    (rest : List (BitVec 8)) : decode (bytesOfHalf h ++ rest) = .ok (i, rest) := by
  have hh : halfOfBytes (h.extractLsb' 0 8) (h.extractLsb' 8 8) = h :=
    (extractLsb'_append_adjacent h 0 8 8).trans BitVec.extractLsb'_eq_self
  simp [decode, bytesOfHalf, hh, hshort, hdec]

/-- Settles O58: the word of an instruction names its row, whose word is the same, and its bytes give the word back. -/
theorem decodeEncode : Obligations.DecodeEncode := by
  unfold Obligations.DecodeEncode
  intro i rest hwf hevent
  rw [← wellFormed_canon] at hwf
  have hrow := namesRow i
  unfold NamesRow at hrow
  cases henc : encode i with
  | full w =>
    rw [henc] at hrow
    obtain ⟨hlong, hcand⟩ := hrow
    exact decode_bytesOfWord hlong (decode32_of_candidate hcand hwf ((encode_canon i).trans henc)) rest
  | half h =>
    rw [henc] at hrow
    obtain ⟨hshort, hcand⟩ := hrow
    exact decode_bytesOfHalf hshort (decode16_of_candidate hcand hwf ((encode_canon i).trans henc)) rest
  | event => exact absurd henc hevent

/-- Settles O57, by running the decoder on the fifteen words. -/
theorem decodeWords : Obligations.DecodeWords := by
  unfold Obligations.DecodeWords
  decide +kernel

end Sys2Proof

namespace Sys2Proof.Machine

/-! ### The compact arithmetic forms (R57) -/

/-- A shift amount is the low six bits of its register (R116). -/
theorem shamt_eq (w : Word) : shamt w = w.toNat % 64 := BitVec.extractLsb'_toNat 0 6 w

/-- The result of a comparison of signed words (R2, R116). -/
theorem b2w_slt (v w : Word) : b2w (v.slt w) = if v.toInt < w.toInt then 1 else 0 := by
  simp [b2w, BitVec.slt_iff_toInt_lt]

/-- A shift by three places multiplies by 8. -/
theorem shiftLeft_three (w : Word) : w <<< 3 = w * 8 := by
  rw [BitVec.shiftLeft_eq_mul_twoPow]
  rfl

/-- Settles O4: each arithmetic form is one write of X[d] with the result of its expansion, then the completion. -/
theorem compactResults : Obligations.CompactResults := by
  unfold Obligations.CompactResults
  intro s d a i k
  exact ⟨runs_setReg (exec_cMv ..) (BitVec.add_zero _).symm, runs_setReg (exec_cAdd ..) rfl, runs_setReg (exec_cSub ..) rfl,
    runs_setReg (exec_cAnd ..) rfl, runs_setReg (exec_cOr ..) rfl, runs_setReg (exec_cXor ..) rfl,
    runs_setReg (exec_cSll ..) (by rw [shamt_eq]), runs_setReg (exec_cSrl ..) (by rw [shamt_eq]),
    runs_setReg (exec_cSra ..) (by rw [shamt_eq]), runs_setReg (exec_cMul ..) rfl, runs_setReg (exec_cSlt ..) (b2w_slt _ _).symm,
    runs_setReg (exec_cAddi ..) rfl, runs_setReg (exec_cLi ..) rfl, runs_setReg (exec_cSlli ..) rfl,
    runs_setReg (exec_cSrli ..) rfl, runs_setReg (exec_cSrai ..) rfl, runs_setReg (exec_cAndi ..) rfl,
    runs_setReg (exec_cOri ..) rfl, runs_setReg (exec_cXori ..) rfl, runs_setReg (exec_cSpadj ..) (by rw [shiftLeft_three]; rfl),
    ⟨_, exec_nop s, advanced_adv s 2⟩, ⟨s.prefetch_caches _, ⟨_, exec_pref a s, advanced_adv _ 4⟩⟩,
    runs_setReg (exec_oxget ..) rfl⟩

end Sys2Proof.Machine

/-! SUPPORT. The system registers (O18): who may read or write one, and what a read and a write by number do (R74 to R85). -/

namespace Sys2Proof.Machine

namespace State

/-- A write through a mask takes the mask's bits from the new value and keeps the others (R6, R79). -/
theorem getLsbD_maskIn (old new mask : Word) (i : Nat) :
    (maskIn old new mask).getLsbD i = if mask.getLsbD i then new.getLsbD i else old.getLsbD i := by
  have hold : (decide (i < 64) && old.getLsbD i) = old.getLsbD i := by
    by_cases h : i < 64
    · simp [h]
    · rw [BitVec.getLsbD_of_ge _ _ (by omega), Bool.and_false]
  unfold maskIn
  rw [BitVec.getLsbD_or, BitVec.getLsbD_and, BitVec.getLsbD_and, BitVec.getLsbD_not]
  cases mask.getLsbD i
  · simpa [Bool.and_comm] using hold
  · simp

/-- A cause that R389 does not name is taken at supervisor level on every thread (R388). -/
theorem userLevel_eq_false (t : Thread) {code : BitVec 8}
    (h : code ∉ [Cause.futureEmpty, Cause.nack, Cause.fpTrap, Cause.ternaryInvalid, Cause.streamFault]) : userLevel t code = false := by
  simp only [List.mem_cons, List.not_mem_nil, or_false, not_or] at h
  obtain ⟨h1, h2, h3, h4, h5⟩ := h
  simp only [userLevel, h1, h2, h3, h4, h5, decide_false, Bool.or_self, Bool.and_false]

/-- An agent that T7 serves is not T7. -/
theorem isT7_of_servable {s : State} (h : Servable s) : s.cur.isT7 = false := by
  obtain ⟨-, htid, -, -⟩ := h
  cases hcur : s.cur with
  | seq n q => rfl
  | thr c tid =>
    rw [hcur] at htid
    exact decide_eq_false (Nat.ne_of_lt htid)

end State

/-- An instruction whose meaning is a precise trap that T7 serves holds its thread (R388, R390). -/
theorem runs_trapOut {i : Instr} {s : State} {code : BitVec 8} {tval : Word} (hexec : exec i s = trapOut s code tval) (hserv : Servable s)
    (hcode : code ≠ Cause.uncorrectable)
    (huser : code ∉ [Cause.futureEmpty, Cause.nack, Cause.fpTrap, Cause.ternaryInvalid, Cause.streamFault]) :
    Runs i s (HeldByTrap s code tval) :=
  ⟨_, hexec, State.raise_heldByTrap 4 hserv hcode (State.userLevel_eq_false _ huser)⟩

/-! ### MFS (R74, R78, R79) -/

section
variable {s : State} {d : BitVec 5} {n : BitVec 12} {r : State.SysReg} {acc : State.SysAccess}

/-- A register that the agent may read. -/
theorem runs_mfs_readable (hreg : State.sysReg n.toNat = some (r, acc)) (hacc : s.mayAccess s.cur acc false = true) :
    Runs (.mfs d n) s (RegStep s d (s.readSys r) 4) := by
  refine runs_setReg ?_ rfl
  rw [exec_mfs, execMfs, hreg]
  exact if_pos hacc

/-- A number that R78 assigns to no register. -/
theorem runs_mfs_unassigned (hserv : Servable s) (hreg : State.sysReg n.toNat = none) :
    Runs (.mfs d n) s (HeldByTrap s Cause.illegalInstruction (encode (.mfs d n)).word) := by
  refine runs_trapOut ?_ hserv (by decide) (by decide)
  rw [exec_mfs, execMfs, hreg]
  rfl

/-- A register that the agent may not read. -/
theorem runs_mfs_forbidden (hserv : Servable s) (hreg : State.sysReg n.toNat = some (r, acc))
    (hacc : s.mayAccess s.cur acc false = false) : Runs (.mfs d n) s (HeldByTrap s Cause.privilege (encode (.mfs d n)).word) := by
  refine runs_trapOut ?_ hserv (by decide) (by decide)
  rw [exec_mfs, execMfs, hreg]
  dsimp only
  rw [hacc]
  rfl

/-! ### MTS (R79 to R85) -/

variable {a : BitVec 5}

/-- A write of a thread's own register is a change of that thread, and the completion. -/
theorem runs_mts_own (f : Thread → Thread) (hreg : State.sysReg n.toNat = some (r, acc)) (hacc : s.mayAccess s.cur acc true = true)
    (hown : State.sharedReg r = false) (hwrite : s.writeOwnSys r (s.x a) = s.modMe f) : Runs (.mts a n) s (ThreadStep s f 4) := by
  refine ⟨_, ?_, threadStep_adv s f 4⟩
  rw [exec_mts, execMts, hreg]
  dsimp only
  rw [hacc, hown, hwrite]
  rfl

/-- A write of a register of a core or a Set by an agent that acts at issue (R24, R79). -/
theorem exec_mts_shared (hreg : State.sysReg n.toNat = some (r, acc)) (hacc : s.mayAccess s.cur acc true = true)
    (hshared : State.sharedReg r = true) (hheld : s.holds s.cur = false) (hsent : s.sendPending s.cur = false) :
    exec (.mts a n) s = .next ((s.writeShared r (s.x a)).adv 4) := by
  rw [exec_mts, execMts, hreg]
  dsimp only
  rw [hacc, hshared, if_neg (by decide), if_pos rfl]
  exact State.actAs_of_nr 2 _ hheld hsent

/-- A register that the agent may not write. -/
theorem runs_mts_forbidden (hserv : Servable s) (hreg : State.sysReg n.toNat = some (r, acc))
    (hacc : s.mayAccess s.cur acc true = false) : Runs (.mts a n) s (HeldByTrap s Cause.privilege (encode (.mts a n)).word) := by
  refine runs_trapOut ?_ hserv (by decide) (by decide)
  rw [exec_mts, execMts, hreg]
  dsimp only
  rw [hacc]
  rfl

end

/-- T7's write of HTAB changes the base field of its core's register alone (R79, R335). -/
theorem runs_mts_htab {s : State} {c : Nat} (a : BitVec 5) (hcur : s.cur = .thr c 7) (hsent : s.sendPending s.cur = false) :
    Runs (.mts a 0x200) s fun t =>
      (t.getCore c).htab = State.maskIn (s.getCore c).htab (s.x a) 0xFFF80 ∧ SameBytes s t ∧ t.me = s.me.next 4 := by
  have hacc : s.mayAccess s.cur .svc true = true := by rw [hcur]; rfl
  have hheld : s.holds s.cur = false := by rw [hcur]; rfl
  refine ⟨_, exec_mts_shared rfl hacc rfl hheld hsent, ?_, fun _ => rfl, State.me_adv _ _⟩
  have hcore := State.getCore_modCore_same s s.cur.coreNo fun k => { k with htab := State.maskIn k.htab (s.x a) 0xFFF80 }
  rw [hcur] at hcore
  unfold State.writeShared
  rw [hcur]
  exact congrArg Core.htab hcore

/-- Settles O18: MFS by its three outcomes; MTS of a thread's own register is one change of the thread, of HTAB one change of the core. -/
theorem systemRegisters : Obligations.SystemRegisters := by
  unfold Obligations.SystemRegisters
  refine ⟨fun s d n => ⟨fun r acc => runs_mfs_readable, runs_mfs_unassigned, fun r acc => runs_mfs_forbidden, fun hserv => ?_⟩,
    fun s a => ⟨?_, ?_, ?_, ?_, fun c => runs_mts_htab a, fun hserv => runs_mts_forbidden hserv rfl rfl, State.getLsbD_maskIn⟩⟩
  case refine_1 =>
    have hsvc : s.mayAccess s.cur .svc false = false := State.isT7_of_servable hserv
    exact ⟨runs_mfs_readable (r := .fcsr) (acc := .rw) rfl rfl, runs_mfs_readable (r := .actid) (acc := .ro) rfl rfl,
      runs_mfs_readable (r := .pc) (acc := .ro) rfl rfl, runs_mfs_forbidden hserv rfl hsvc, runs_mfs_forbidden hserv rfl hsvc⟩
  case refine_2 =>
    have hrm : field (s.x a) 0 3 = (s.x a).toNat % 8 := BitVec.extractLsb'_toNat 0 3 (s.x a)
    exact runs_mts_own _ (acc := .rw) (r := .fcsr) rfl rfl rfl (by unfold State.writeOwnSys; dsimp only; rw [hrm])
  case refine_3 => exact runs_mts_own _ (acc := .rw) (r := .vcsr) rfl rfl rfl rfl
  case refine_4 => exact runs_mts_own _ (acc := .rw) (r := .utvec) rfl rfl rfl rfl
  case refine_5 => exact runs_mts_own _ (acc := .rw) (r := .utepc) rfl rfl rfl rfl

end Sys2Proof.Machine

/-! SUPPORT. The ends of waits (O48): what waking an agent leaves, and what each event does to the agent that waits for it. -/

namespace Sys2Proof.Machine

namespace State

/-! ### Waking an agent (R19, R112) -/

/-- The retirement of a blocking instruction is counted, and nothing else (R382). -/
theorem retired_accounts (s : State) (a : Agent) : AccountsOnly s (s.retired a) := by
  unfold retired
  split
  · exact countEvents_accounts _ _ _ _ _
  · exact .refl s

@[simp] theorem retired_sets (s : State) (a : Agent) : (s.retired a).sets = s.sets := by
  unfold retired countEvent countEvents
  split
  · split <;> rfl
  · rfl

/-- An agent that is woken and was not stopped runs behind its instruction. -/
theorem wake_thread {s : State} {a : Agent} {w : Wait} (f : Thread → Thread) (hst : (s.thread a).st ≠ .stopped)
    (hwait : (s.thread a).wait = some w) :
    (s.wake a f).thread a = { (f { s.thread a with wait := none }).next w.len with st := .run } := by
  unfold wake
  rw [thread_modThread_same, (retired_accounts s a).thread, hwait]
  exact if_neg hst

theorem wake_thread_other (s : State) {a b : Agent} (f : Thread → Thread) (h : b.key ≠ a.key) : (s.wake a f).thread b = s.thread b := by
  unfold wake
  rw [thread_modThread_other _ _ h, (retired_accounts s a).thread]

@[simp] theorem sem_wake (s : State) (a : Agent) (f : Thread → Thread) (n i : Nat) : (s.wake a f).sem n i = s.sem n i := by
  unfold wake sem getSet
  rw [modThread_sets, retired_sets]

@[simp] theorem qreg_wake (s : State) (a : Agent) (f : Thread → Thread) (u q : Nat) : (s.wake a f).qreg u q = s.qreg u q := by
  have hcore : ((s.retired a).getCore u).q = (s.getCore u).q := by rw [(retired_accounts s a).2 u]
  have hset : (s.wake a f).getSet (u - 128) = s.getSet (u - 128) := by
    unfold wake getSet
    rw [modThread_sets, retired_sets]
  unfold qreg
  rw [hset, ← hcore]
  rfl

/-- What an agent that is waiting waits for. -/
theorem waiting_eq_some {s : State} {a : Agent} {w : Wait} (h : s.waiting a = some w) :
    (s.thread a).st = .wait ∧ (s.thread a).wait = some w := by
  unfold waiting at h
  split at h
  case isTrue hst => exact ⟨hst, h⟩
  case isFalse => cases h

/-! ### Queue registers and semaphores (R174, R287) -/

@[simp] theorem setQreg_thr (s : State) (u q : Nat) (v : QReg) : (s.setQreg u q v).thr = s.thr := by
  unfold setQreg; split <;> rfl
@[simp] theorem setQreg_mem (s : State) (u q : Nat) (v : QReg) : (s.setQreg u q v).mem = s.mem := by
  unfold setQreg; split <;> rfl

/-- The queue register just written. -/
@[simp] theorem qreg_setQreg (s : State) (u q : Nat) (v : QReg) : (s.setQreg u q v).qreg u q = v := by
  unfold setQreg qreg
  by_cases h : u < 128
  · simp only [if_pos h, getCore_modCore_same, Tbl.get_put_same]
  · simp only [if_neg h, getSet_modSet_same, Tbl.get_put_same]

/-- A head that is not poisoned leaves its queue register, and the agent that takes it goes on with it (R287). -/
theorem qTake_sound {s : State} {a : Agent} {q : Nat} (d : BitVec 5) {v : Word} {rest : List (Word × Bool)}
    (h : (s.qreg a.unit q).entries = (v, false) :: rest) :
    s.qTake a q d = (s.setQreg a.unit q { s.qreg a.unit q with entries := rest }).wake a fun t => t.setX d v := by
  unfold qTake
  dsimp only
  rw [h]
  rfl

/-- A grant takes its count (R174). -/
theorem sem_semTake (s : State) (n i : Nat) (who : Option Nat) (c : Nat) :
    (s.semTake n i who c).sem n i = s.sem n i - BitVec.ofNat 16 c := by
  unfold semTake sem
  rw [getSet_modSet_same, Tbl.get_put_same]

/-! ### Poison (R370, R374) -/

/-- The waiter of a poisoned counter, barrier or slate is held by DEPFAULT at its instruction. -/
theorem waitPoisoned_thread {s : State} {c tid : Nat} (x : Word) (htid : tid < 7)
    (huser : userLevel (s.thread (.thr c tid)) Cause.depfault = false) (hfull : s.t7Full c = false)
    (hoff : bitAt (s.getCore c).ckstat 16 = false) :
    ∃ t, s.waitPoisoned (.thr c tid) x = .next t ∧ t.thread (.thr c tid) = { s.thread (.thr c tid) with
      tcause := causeWord false false Cause.depfault 0, tval := x, epc := (s.thread (.thr c tid)).pc
      st := .wait, wait := some { kind := .trapHeld } } := by
  refine ⟨_, rfl, ?_⟩
  rw [takeTrap_supervisor false 0 x _ htid huser hfull hoff, supervisorTrap_thread, (leaveLines_accounts _ _).thread]

end State

/-- An event that changes no thread and no byte, and then wakes an agent that is not stopped, ends its wait. -/
theorem wakes_of_wake {ins : Instr} {s s1 : State} {a : Agent} {k : WaitKind} {rd : BitVec 5} {len : Nat} {rel bad : Bool} {clk : Clock}
    {f : Thread → Thread} {also : State → Prop} (hexec : exec ins s = .next (s1.wake a f)) (hthr : s1.thr = s.thr)
    (hmem : s1.mem = s.mem) (hst : (s.thread a).st ≠ .stopped)
    (hwait : (s.thread a).wait = some ⟨k, rd, len, rel, bad, clk⟩) (halso : also (s1.wake a f)) :
    Wakes ins s a len f also := by
  have hthread : ∀ b, s1.thread b = s.thread b := fun b => by rw [State.thread, State.thread, hthr]
  refine ⟨_, hexec, ?_, fun b hb => ?_, .of_mem ((State.wake_mem _ _ _).trans hmem), halso⟩
  · rw [State.wake_thread f (by rwa [hthread]) (by rwa [hthread]), hthread]
    rfl
  · rw [State.wake_thread_other _ _ hb, hthread]
    rfl

/-! ### The events, one by one (R85, R133, R173, R174, R287, R290, R371, R374) -/

section
variable {s : State} {agent : Nat} {kind : WaitKind} {rd : BitVec 5} {len : Nat} {rel bad : Bool} {clk : Clock}

/-- An event that changes no thread and no byte, and then wakes an agent in WAIT, ends its wait. -/
theorem wakes_of_waiting {ins : Instr} {s1 : State} {f : Thread → Thread} {also : State → Prop}
    (h : s.waiting (.ofKey agent) = some ⟨kind, rd, len, rel, bad, clk⟩)
    (hexec : exec ins s = .next (s1.wake (.ofKey agent) f)) (hthr : s1.thr = s.thr) (hmem : s1.mem = s.mem)
    (halso : also (s1.wake (.ofKey agent) f)) : Wakes ins s (.ofKey agent) len f also := by
  obtain ⟨hst, hwait⟩ := State.waiting_eq_some h
  exact wakes_of_wake hexec hthr hmem (by rw [hst]; decide) hwait halso

/-- An event that is an acquire of what the agent in WAIT waited for, and then wakes it, ends its wait (R229, R232). -/
theorem wakes_of_acquire {ins : Instr} {k : Clock} {f : Thread → Thread}
    (h : s.waiting (.ofKey agent) = some ⟨kind, rd, len, rel, bad, clk⟩)
    (hexec : exec ins s = .next ((s.acquire (.ofKey agent) k).wake (.ofKey agent) f)) : Wakes ins s (.ofKey agent) len f :=
  wakes_of_waiting h hexec (State.acquire_thr _ _ _) (State.acquire_mem _ _ _) trivial

/-- An event that finds what the agent waits for poisoned gives it DEPFAULT (R370, R374). -/
theorem runs_waitPoisoned {ins : Instr} {a : Agent} {x : Word} (hexec : exec ins s = s.waitPoisoned a x)
    (hserv : ∃ core tid, a = .thr core tid ∧ tid < 7 ∧ State.userLevel (s.thread a) Cause.depfault = false ∧
      s.t7Full core = false ∧ bitAt (s.getCore core).ckstat 16 = false) :
    Runs ins s fun t => (t.thread a).tcause = State.causeWord false false Cause.depfault 0 ∧ (t.thread a).tval = x ∧
      (t.thread a).epc = (s.thread a).pc ∧ (t.thread a).st = .wait ∧ (t.thread a).wait = some { kind := .trapHeld } := by
  obtain ⟨c, tid, rfl, htid, huser, hfull, hoff⟩ := hserv
  obtain ⟨t, hnext, hthread⟩ := State.waitPoisoned_thread x htid huser hfull hoff
  refine ⟨t, hexec.trans hnext, ?_⟩
  dsimp only
  rw [hthread]
  exact ⟨rfl, rfl, rfl, rfl, rfl⟩

/-- The test by which a waiter of a counter, barrier or slate finds poison, in the words of R370 and R371. -/
theorem findsPoison_iff {p : Bool} : (bad = true ∨ (!rel && p) = true) ↔ bad = true ∨ (rel = false ∧ p = true) := by
  rw [Bool.and_eq_true, Bool.not_eq_true']

theorem not_findsPoison {p : Bool} (hbad : bad = false) (h : rel = true ∨ p = false) : ¬(bad = true ∨ (!rel && p) = true) := by
  rw [findsPoison_iff, hbad]
  rcases h with hrel | hsound
  · simp [hrel]
  · simp [hsound]

/-- WAIT: the time has come, or an item is there (R133). -/
theorem wakes_waitTimeReached {v : Word} {item noTime : Bool}
    (h : s.waiting (.ofKey agent) = some ⟨.time v item noTime, rd, len, rel, bad, clk⟩)
    (hmet : s.timeMet (.ofKey agent) v item noTime = true) : Wakes (.waitTimeReached agent) s (.ofKey agent) len id := by
  refine wakes_of_waiting h ?_ rfl rfl trivial
  rw [exec_waitTimeReached, execWaitTimeReached, h]
  exact if_pos hmet

section Counter
variable {d i : Nat} {x : Word} (h : s.waiting (.ofKey agent) = some ⟨.dc d i x, rd, len, rel, bad, clk⟩)
include h

/-- DCWAIT, released or at zero (R371). -/
theorem wakes_dcwaitRelease (hbad : bad = false) (hdone : rel = true ∨ ((s.dc d i).poison = false ∧ (s.dc d i).value = 0)) :
    Wakes (.dcwaitRelease agent) s (.ofKey agent) len id := by
  refine wakes_of_acquire h (k := if rel then clk else (s.dc d i).clock) ?_
  rw [exec_dcwaitRelease, execDcwaitRelease, h]
  dsimp only
  rw [if_neg (not_findsPoison hbad (hdone.imp_right And.left)), if_pos (hdone.imp_right And.right)]

theorem exec_dcwaitRelease_poisoned (hbad : bad = true ∨ (rel = false ∧ (s.dc d i).poison = true)) :
    exec (.dcwaitRelease agent) s = s.waitPoisoned (.ofKey agent) x := by
  rw [exec_dcwaitRelease, execDcwaitRelease, h]
  exact if_pos (findsPoison_iff.2 hbad)

end Counter

section Barrier
variable {d i : Nat} {ph : BitVec 16} {x : Word} (h : s.waiting (.ofKey agent) = some ⟨.bar d i ph x, rd, len, rel, bad, clk⟩)
include h

/-- BARWAIT, released or past its phase (R371). -/
theorem wakes_barwaitRelease (hbad : bad = false) (hdone : rel = true ∨ ((s.bar d i).poison = false ∧ (s.bar d i).phase ≠ ph)) :
    Wakes (.barwaitRelease agent) s (.ofKey agent) len fun t => t.setX rd (ofN (s.bar d i).phase.toNat) := by
  refine wakes_of_acquire h (k := if rel then clk else (s.bar d i).clock) ?_
  rw [exec_barwaitRelease, execBarwaitRelease, h]
  dsimp only
  rw [if_neg (not_findsPoison hbad (hdone.imp_right And.left)), if_pos (hdone.imp_right And.right)]
  rfl

theorem exec_barwaitRelease_poisoned (hbad : bad = true ∨ (rel = false ∧ (s.bar d i).poison = true)) :
    exec (.barwaitRelease agent) s = s.waitPoisoned (.ofKey agent) x := by
  rw [exec_barwaitRelease, execBarwaitRelease, h]
  exact if_pos (findsPoison_iff.2 hbad)

end Barrier

section Slate
variable {d i : Nat} {g : BitVec 16} {x : Word} (h : s.waiting (.ofKey agent) = some ⟨.slate d i g x, rd, len, rel, bad, clk⟩)
include h

/-- SLWAIT, released or of a generation that has closed (R374). -/
theorem wakes_slwaitRelease (hbad : bad = false)
    (hdone : rel = true ∨ ((s.getSlate d i).state ≠ 2 ∧ ((s.getSlate d i).gen ≠ g ∨ (s.getSlate d i).state ≠ 1))) :
    Wakes (.slwaitRelease agent) s (.ofKey agent) len fun t => t.setX rd (s.getSlate d i).word := by
  refine wakes_of_acquire h (k := []) ?_
  rw [exec_slwaitRelease, execSlwaitRelease, h]
  dsimp only
  rw [if_neg (not_findsPoison hbad (hdone.imp_right fun hd => decide_eq_false hd.1)), if_pos (hdone.imp_right And.right)]
  rfl

theorem exec_slwaitRelease_poisoned (hbad : bad = true ∨ (rel = false ∧ (s.getSlate d i).state = 2)) :
    exec (.slwaitRelease agent) s = s.waitPoisoned (.ofKey agent) x := by
  rw [exec_slwaitRelease, execSlwaitRelease, h]
  exact if_pos (findsPoison_iff.2 (hbad.imp_right (And.imp_right decide_eq_true)))

end Slate

/-- REELAWAIT: the read slot is filled (R290). -/
theorem wakes_reelawaitFill {l : Nat} (h : s.waiting (.ofKey agent) = some ⟨.reel l, rd, len, rel, bad, clk⟩)
    (hfill : bitAt (s.reelFill l) 0 = true) :
    Wakes (.reelawaitFill agent) s (.ofKey agent) len fun t => t.setX rd (s.reelResult l) := by
  refine wakes_of_acquire h (k := s.reelClock l 0) ?_
  rw [exec_reelawaitFill, execReelawaitFill, h]
  exact if_pos hfill

/-- QGET: a head that is not poisoned is there (R287). -/
theorem wakes_qgetWake {q : Nat} {v : Word} {rest : List (Word × Bool)}
    (h : s.waiting (.ofKey agent) = some ⟨.qget (Agent.ofKey agent).unit q, rd, len, rel, bad, clk⟩)
    (hmay : s.qMay (.ofKey agent) q false = true) (hhead : (s.qreg (Agent.ofKey agent).unit q).entries = (v, false) :: rest) :
    Wakes (.qgetWake agent) s (.ofKey agent) len (fun t => t.setX rd v)
      fun t => (t.qreg (Agent.ofKey agent).unit q).entries = rest := by
  have hheld : s.qHeld (.ofKey agent) q = false := by
    unfold State.qHeld
    rw [hhead]
  refine wakes_of_waiting (s1 := s.setQreg (Agent.ofKey agent).unit q { s.qreg (Agent.ofKey agent).unit q with entries := rest }) h ?_
    (State.setQreg_thr _ _ _ _) (State.setQreg_mem _ _ _ _) ?_
  · rw [exec_qgetWake, execQgetWake, h]
    dsimp only
    rw [hmay, hhead, hheld, State.qTake_sound rd hhead]
    rfl
  · rw [State.qreg_wake, State.qreg_setQreg]

/-- QPUT, which waits in RUN: there is room (R287). -/
theorem wakes_qputRoom {u q : Nat} {v : Word} (hst : (s.thread (.ofKey agent)).st = .run)
    (hwait : (s.thread (.ofKey agent)).wait = some ⟨.qput u q v, rd, len, rel, bad, clk⟩)
    (hmay : s.qMay (.ofKey agent) q true = true) (hroom : (s.qreg u q).entries.length < 16) :
    Wakes (.qputRoom agent) s (.ofKey agent) len id fun t => (t.qreg u q).entries = (s.qreg u q).entries ++ [(v, false)] := by
  refine wakes_of_wake (s1 := s.setQreg u q { s.qreg u q with entries := (s.qreg u q).entries ++ [(v, false)] }) ?_
    (State.setQreg_thr _ _ _ _) (State.setQreg_mem _ _ _ _) (by rw [hst]; decide) hwait ?_
  · rw [exec_qputRoom, execQputRoom, hwait]
    dsimp only
    rw [if_neg (not_not_intro hst), hmay, if_neg (by decide), if_neg (Nat.not_le.2 hroom)]
  · rw [State.qreg_wake, State.qreg_setQreg]

/-- JOIN: the program has ended (R173). -/
theorem wakes_joinWake {n q sq : Nat} (h : s.waiting (.ofKey agent) = some ⟨.join n q sq, rd, len, rel, bad, clk⟩)
    (hended : s.joined n q sq = true) :
    Wakes (.joinWake agent) s (.ofKey agent) len fun t => t.setX rd (s.joinValue n q sq) := by
  refine wakes_of_waiting h ?_ rfl rfl trivial
  rw [exec_joinWake, execJoinWake, h]
  exact if_pos hended

/-- SEMWAIT: the first waiter of its line finds its count (R174). -/
theorem wakes_semwaitGrant {n i k c : Nat} (h : s.waiting (.ofKey agent) = some ⟨.sem n i k, rd, len, rel, bad, clk⟩)
    (hgrant : s.semGrant n i (some (Agent.ofKey agent).key) = some c) :
    Wakes (.semwaitGrant agent) s (.ofKey agent) len id fun t => t.sem n i = s.sem n i - BitVec.ofNat 16 c := by
  refine wakes_of_waiting (s1 := s.semTake n i (some (Agent.ofKey agent).key) c) h ?_ rfl rfl ?_
  · rw [exec_semwaitGrant, execSemwaitGrant, h]
    dsimp only
    rw [hgrant]
  · rw [State.sem_wake, State.sem_semTake]

end

/-- The oldest raise on its way to a Set is ORed into SFLAGS (R85). -/
theorem runs_flagToSflags {s : State} {set : Nat} {w : Word} {rest : List Word} (h : (s.getSet set).flagPend = w :: rest) :
    Runs (.flagToSflags set) s fun t => t.thr = s.thr ∧ SameBytes s t ∧
      t.getSet set = { s.getSet set with flagPend := rest, sflags := (s.getSet set).sflags ||| w } := by
  refine ⟨_, ?_, ?_, ?_, State.getSet_modSet_same s set fun k => { k with flagPend := rest, sflags := k.sflags ||| w }⟩
  · rw [exec_flagToSflags, execFlagToSflags, h]
  · exact State.modSet_thr _ _ _
  · exact .of_mem (State.modSet_mem _ _ _)

/-- Settles O48: one lemma for each event, and for each of the three that can find poison one for DEPFAULT. -/
theorem waitEvents : Obligations.WaitEvents := by
  unfold Obligations.WaitEvents
  intro s agent set rd len rel bad clk a waitsFor depfault servable
  exact ⟨fun _ _ _ => wakes_waitTimeReached,
    fun _ _ _ h => ⟨wakes_dcwaitRelease h, fun hbad => runs_waitPoisoned (exec_dcwaitRelease_poisoned h hbad)⟩,
    fun _ _ _ _ h => ⟨wakes_barwaitRelease h, fun hbad => runs_waitPoisoned (exec_barwaitRelease_poisoned h hbad)⟩,
    fun _ _ _ _ h => ⟨wakes_slwaitRelease h, fun hbad => runs_waitPoisoned (exec_slwaitRelease_poisoned h hbad)⟩,
    fun _ => wakes_reelawaitFill, fun _ _ _ => wakes_qgetWake, fun _ _ _ => wakes_qputRoom, fun _ _ _ => wakes_joinWake,
    fun _ _ _ _ => wakes_semwaitGrant, fun _ _ => runs_flagToSflags⟩

end Sys2Proof.Machine

/-! SUPPORT. The number formats in vector registers (O29). First the lanes of a register that is written under a predicate, then what an
instruction that raises flags leaves, completed or trapped, and last the lane conversions and the unpacking of ternary bytes and Q4 blocks
(R97, R100, R139, R140, R156 to R159). -/

namespace Sys2Proof.Machine

/-! ### Registers as lists of lanes (R139) -/

/-- Bit `j` of digit `i` of the number that a list of digits of `w` bits writes, least significant first. -/
theorem testBit_digits {α : Type} {w : Nat} (f : α → Nat) (hf : ∀ x, f x < 2 ^ w) (l : List α) (i : Nat) {j : Nat} (hj : j < w) :
    (l.foldr (fun x r => f x + 2 ^ w * r) 0).testBit (w * i + j) = ((l[i]?.map f).getD 0).testBit j := by
  induction l generalizing i with
  | nil => simp
  | cons x l ih =>
    rw [List.foldr_cons, Nat.add_comm, Nat.testBit_two_pow_mul_add _ (hf x)]
    cases i with
    | zero => simp [hj]
    | succ i =>
      have hdig : w * (i + 1) + j = w * i + j + w := by ring
      rw [hdig, if_neg (by omega), Nat.add_sub_cancel, ih]
      rfl

/-- Bit `j` of lane `i` of the register of a list. -/
theorem getLsbD_ofLanes (e : Nat) (l : List Nat) {i j : Nat} (hj : j < 8 * e) (h : 8 * e * i + j < 1024) :
    (ofLanes e l).getLsbD (8 * e * i + j) = (laneAt l i).testBit j := by
  unfold ofLanes laneAt
  rw [BitVec.getLsbD_ofNat, decide_eq_true h, Bool.true_and,
    testBit_digits (fun x => x % 2 ^ (8 * e)) (fun x => Nat.mod_lt _ (Nat.two_pow_pos _)) l i hj]
  cases l[i]? with
  | none => rfl
  | some x => simp [hj]

/-- Bit `j` of the predicate bits of lane `i`. -/
theorem getLsbD_predOf (e : Nat) (l : List Bool) {i j : Nat} (hj : j < e) (h : e * i + j < 128) :
    (predOf e l).getLsbD (e * i + j) = (l[i]?).getD false := by
  unfold predOf
  have hf : ∀ b : Bool, (if b then 2 ^ e - 1 else 0) < 2 ^ e := fun b => by
    have := Nat.two_pow_pos e
    split <;> omega
  rw [BitVec.getLsbD_ofNat, decide_eq_true h, Bool.true_and, testBit_digits (fun b => if b then 2 ^ e - 1 else 0) hf l i hj]
  cases l[i]? with
  | none => simp
  | some b => cases b <;> simp [hj]

/-- The mask of the bytes that `mask` selects among the first `n`. -/
theorem testBit_byteMask (mask : PReg) (n k : Nat) :
    ((List.range n).foldl (fun r i => if bitAt mask i then r + 255 * 256 ^ i else r) 0).testBit k =
      (decide (k / 8 < n) && bitAt mask (k / 8)) ∧
    (List.range n).foldl (fun r i => if bitAt mask i then r + 255 * 256 ^ i else r) 0 < 2 ^ (8 * n) := by
  induction n with
  | zero => simp
  | succ n ih =>
    obtain ⟨hbit, hlt⟩ := ih
    rw [List.range_succ, List.foldl_append, List.foldl_cons, List.foldl_nil]
    generalize (List.range n).foldl (fun r i => if bitAt mask i then r + 255 * 256 ^ i else r) 0 = m at hbit hlt
    have hpow : 2 ^ (8 * (n + 1)) = 256 * 2 ^ (8 * n) := by rw [Nat.mul_succ, pow_add]; ring
    have h256 : 256 ^ n = 2 ^ (8 * n) := (pow_mul 2 8 n).symm
    rw [hpow, h256]
    by_cases hn : bitAt mask n = true
    · rw [if_pos hn, show m + 255 * 2 ^ (8 * n) = 2 ^ (8 * n) * 255 + m by ring]
      refine ⟨?_, by omega⟩
      rw [Nat.testBit_two_pow_mul_add _ hlt, hbit, show (255 : Nat) = 2 ^ 8 - 1 from rfl, Nat.testBit_two_pow_sub_one]
      split
      case isTrue hk => rw [decide_eq_true (show k / 8 < n by omega), decide_eq_true (show k / 8 < n + 1 by omega)]
      case isFalse hk =>
        by_cases hlast : k / 8 = n
        · rw [hlast, hn, decide_eq_true (show k - 8 * n < 8 by omega), decide_eq_true (show n < n + 1 by omega)]
          rfl
        · rw [decide_eq_false (show ¬k - 8 * n < 8 by omega), decide_eq_false (show ¬k / 8 < n + 1 by omega)]
          rfl
    · rw [if_neg hn, hbit]
      refine ⟨?_, by omega⟩
      by_cases hlast : k / 8 = n
      · rw [hlast, Bool.eq_false_of_not_eq_true hn, Bool.and_false, Bool.and_false]
      · rw [show decide (k / 8 < n + 1) = decide (k / 8 < n) from decide_eq_decide.2 (by omega)]

theorem getLsbD_mergeBytes (old new : VReg) (mask : PReg) {k : Nat} (hk : k < 1024) :
    (mergeBytes old new mask).getLsbD k = if bitAt mask (k / 8) then new.getLsbD k else old.getLsbD k := by
  unfold mergeBytes
  obtain ⟨hbit, -⟩ := testBit_byteMask mask 128 k
  have hm := hbit
  rw [decide_eq_true (show k / 8 < 128 by omega), Bool.true_and] at hm
  simp only [BitVec.getLsbD_or, BitVec.getLsbD_and, BitVec.getLsbD_not, BitVec.getLsbD_ofNat, decide_eq_true hk, hm, Bool.true_and]
  cases bitAt mask (k / 8) <;> simp

/-- Lane `i` lies within the register. -/
theorem lane_bits_lt {e i : Nat} (hi : i < 128 / e) : e * i + e ≤ 128 := by
  calc e * i + e = e * (i + 1) := by ring
    _ ≤ e * (128 / e) := Nat.mul_le_mul_left e hi
    _ ≤ 128 := Nat.mul_div_le 128 e

theorem laneAt_lanesOf (v : VReg) {e i : Nat} (hi : i < 128 / e) :
    laneAt (lanesOf e v) i = v.toNat / 2 ^ (8 * e * i) % 2 ^ (8 * e) := by
  simp [laneAt, lanesOf, hi]

/-- A lane of a list of computed lanes. -/
theorem laneAt_map_range (f : Nat → Nat) {n i : Nat} (hi : i < n) : laneAt ((List.range n).map f) i = f i := by
  simp [laneAt, hi]

theorem laneAt_lt (v : VReg) (e i : Nat) : laneAt (lanesOf e v) i < 2 ^ (8 * e) := by
  by_cases hi : i < 128 / e
  · rw [laneAt_lanesOf v hi]
    exact Nat.mod_lt _ (Nat.two_pow_pos _)
  · simp [laneAt, lanesOf, hi]

theorem testBit_laneAt (v : VReg) {e i : Nat} (hi : i < 128 / e) (j : Nat) :
    (laneAt (lanesOf e v) i).testBit j = (decide (j < 8 * e) && v.getLsbD (8 * e * i + j)) := by
  rw [laneAt_lanesOf v hi, Nat.testBit_mod_two_pow, Nat.testBit_div_two_pow, Nat.add_comm j]
  rfl

/-- A lane of a register written under a predicate of whole lanes: the new lane where the predicate is true, else the old one. -/
theorem laneAt_mergeBytes {e i : Nat} (old : VReg) (l : List Nat) (bs : List Bool) (hi : i < 128 / e) :
    laneAt (lanesOf e (mergeBytes old (ofLanes e l) (predOf e bs))) i =
      if (bs[i]?).getD false then laneAt l i % 2 ^ (8 * e) else laneAt (lanesOf e old) i := by
  have hlane := lane_bits_lt hi
  refine Nat.eq_of_testBit_eq fun j => ?_
  rw [testBit_laneAt _ hi]
  by_cases hj : j < 8 * e
  · have hlt : 8 * e * i + j < 1024 := by
      have : 8 * e * i = 8 * (e * i) := by ring
      omega
    have hbyte : (8 * e * i + j) / 8 = e * i + j / 8 := by
      rw [show 8 * e * i + j = 8 * (e * i) + j by ring]
      omega
    have hmask : bitAt (predOf e bs) ((8 * e * i + j) / 8) = (bs[i]?).getD false := by
      rw [hbyte]
      exact getLsbD_predOf e bs (by omega) (by omega)
    rw [getLsbD_mergeBytes _ _ _ hlt, hmask, getLsbD_ofLanes e l hj hlt, decide_eq_true hj, Bool.true_and]
    split
    · rw [Nat.testBit_mod_two_pow, decide_eq_true hj, Bool.true_and]
    · rw [testBit_laneAt _ hi, decide_eq_true hj, Bool.true_and]
  · rw [decide_eq_false hj, Bool.false_and]
    split
    · rw [Nat.testBit_mod_two_pow, decide_eq_false hj, Bool.false_and]
    · rw [testBit_laneAt _ hi, decide_eq_false hj, Bool.false_and]

/-- The predicate of whole lanes that is true everywhere selects every byte. -/
theorem laneAt_mergeBytes_all {e i : Nat} (old : VReg) (l : List Nat) (hi : i < 128 / e) :
    laneAt (lanesOf e (mergeBytes old (ofLanes e l) (BitVec.allOnes 128))) i = laneAt l i % 2 ^ (8 * e) := by
  have hlane := lane_bits_lt hi
  refine Nat.eq_of_testBit_eq fun j => ?_
  rw [testBit_laneAt _ hi, Nat.testBit_mod_two_pow]
  by_cases hj : j < 8 * e
  · have hlt : 8 * e * i + j < 1024 := by
      have : 8 * e * i = 8 * (e * i) := by ring
      omega
    have hmask : bitAt (BitVec.allOnes 128) ((8 * e * i + j) / 8) = true := by
      unfold bitAt
      rw [BitVec.getLsbD_allOnes]
      exact decide_eq_true (by omega)
    rw [getLsbD_mergeBytes _ _ _ hlt, hmask, if_pos rfl, getLsbD_ofLanes e l hj hlt]
  · rw [decide_eq_false hj, Bool.false_and, Bool.false_and]

theorem wrapN_natCast (w n : Nat) : wrapN w (n : Int) = n % 2 ^ w := by
  unfold wrapN
  exact_mod_cast Int.toNat_natCast (n % 2 ^ w)

/-! ### Flags of lanes (R97, R140) -/

/-- A computed list of lanes with the number of each. -/
theorem zipIdx_map_range {α : Type} (f : Nat → α) (n : Nat) :
    List.zipIdx ((List.range n).map f) = (List.range n).map fun i => (f i, i) :=
  List.ext_getElem (by simp) fun i _ _ => by simp

/-- The flags of the active lanes of a computed list, lane by lane. -/
theorem laneFlags_map_range (g : PReg) (e n : Nat) (r : Nat → Nat × FFlags) :
    laneFlags g e ((List.range n).map r) =
      (List.range n).foldl (fun fl i => if active g e i then fl ||| (r i).2 else fl) 0 := by
  rw [laneFlags, zipIdx_map_range, List.foldl_map]

theorem laneRaises_eq (e : Nat) (g : PReg) (fl : Nat → FFlags) :
    laneRaises e g fl = (List.range (128 / e)).foldl (fun w i => if active g e i then w ||| fl i else w) 0 :=
  laneFlags_map_range g e (128 / e) fun i => (0, fl i)

/-! ### Completing an instruction that raises flags (R97, R112, R114) -/

theorem Thread.raised_zero (t : Thread) : t.raised 0 = t := by
  unfold Thread.raised field ofN
  simp

namespace State

theorem raiseFlags_of_ne (s : State) {fl : FFlags} (h : fl ≠ 0) :
    s.raiseFlags fl = (s.modMe fun t => t.raised fl).modSet s.cur.setNo fun k =>
      { k with flagPend := k.flagPend ++ [ofN (fl.toNat + flagBitOf s.cur)] } := by
  unfold raiseFlags
  rw [if_neg h]
  rfl

@[simp] theorem raiseFlags_cur (s : State) (fl : FFlags) : (s.raiseFlags fl).cur = s.cur := by
  by_cases h : fl = 0
  · rw [raiseFlags, if_pos h]
  · rw [raiseFlags_of_ne s h]
    rfl

/-- Raising flags changes the threads and the Sets alone (R80, R81, R85). -/
theorem raiseFlags_frame (s : State) (fl : FFlags) :
    s.raiseFlags fl = { s with thr := (s.raiseFlags fl).thr, sets := (s.raiseFlags fl).sets } := by
  by_cases h : fl = 0
  · rw [raiseFlags, if_pos h]
  · rw [raiseFlags_of_ne s h]
    rfl

@[simp] theorem me_raiseFlags (s : State) (fl : FFlags) : (s.raiseFlags fl).me = s.me.raised fl := by
  by_cases h : fl = 0
  · rw [raiseFlags, if_pos h, h, Thread.raised_zero]
  · rw [raiseFlags_of_ne s h]
    exact me_modMe s fun t => t.raised fl

theorem raiseFlags_othersKeep (s : State) (fl : FFlags) : OthersKeep s (s.raiseFlags fl) := by
  intro a ha
  by_cases h : fl = 0
  · rw [raiseFlags, if_pos h]
  · rw [raiseFlags_of_ne s h]
    exact thread_modThread_other s (fun t => t.raised fl) ha

theorem getSet_modSet (s : State) (n m : Nat) (f : SetSt → SetSt) :
    (s.modSet n f).getSet m = if m = n then f (s.getSet n) else s.getSet m :=
  Tbl.get_put _ _ _ _ _

theorem raiseFlags_sent (s : State) (fl : FFlags) : FlagsSent s (s.raiseFlags fl) fl := by
  intro n
  by_cases h : fl = 0
  · rw [raiseFlags, if_pos h, if_neg (by simp [h])]
  · rw [raiseFlags_of_ne s h, getSet_modSet]
    by_cases hn : n = s.cur.setNo
    · rw [if_pos hn, if_pos ⟨hn, h⟩, hn]
      rfl
    · rw [if_neg hn, if_neg fun c => hn c.1]
      rfl

/-! ### Taking FP_TRAP -/

theorem setSendQ_flagPend (s : State) (u : Nat) (b : List Msg) (w : List (Nat × Msg)) (n : Nat) :
    ((s.setSendQ u b w).getSet n).flagPend = (s.getSet n).flagPend := by
  unfold setSendQ
  split
  · rfl
  · rw [getSet_modSet]
    split
    case isTrue h => rw [h]
    case isFalse => rfl

/-- A waiter that leaves its lines leaves the raises on their way to SFLAGS. -/
theorem leaveLines_flagPend (s : State) (a : Agent) (n : Nat) : ((s.leaveLines a).getSet n).flagPend = (s.getSet n).flagPend := by
  unfold leaveLines
  extract_lets s1
  have hline : (s1.getSet n).flagPend = (s.getSet n).flagPend := by
    unfold s1
    split
    · rfl
    · rw [getSet_modSet]
      split
      case isTrue h => rw [h]
      case isFalse => rfl
  split
  · rw [setSendQ_flagPend, hline]
  · exact hline

@[simp] theorem appendItem_getSet (s : State) (c : Nat) (code sub : BitVec 8) (kind : Nat) (thr : Option Nat) (tval epc actid actst : Word)
    (ref : ItemRef) (n : Nat) : (s.appendItem c code sub kind thr tval epc actid actst ref).getSet n = s.getSet n := by
  unfold appendItem enterItem getSet
  dsimp only
  split
  · rfl
  · rw [modCore_sets, (putUlm_unitWrite _ _ _ _).1]

/-- FP_TRAP is taken at user level wherever a handler stands (R388, R389). -/
theorem userLevel_fpTrap (t : Thread) : userLevel t Cause.fpTrap = decide (t.utvec ≠ 0) := by
  unfold userLevel
  rw [show decide (Cause.fpTrap = Cause.futureEmpty) = false from rfl, show decide (Cause.fpTrap = Cause.nack) = false from rfl,
    show decide (Cause.fpTrap = Cause.fpTrap) = true from rfl, Bool.false_or, Bool.false_or, Bool.true_or, Bool.true_or, Bool.and_true]

/-- A trap that is taken, at user or at supervisor level: its own thread after it, no other one changed, and the raises on their way to
SFLAGS as they were (R388 to R390). -/
theorem takeTrap_taken {s : State} {c tid : Nat} {code : BitVec 8} (imp : Bool) (sub : BitVec 8) (tval epc : Word)
    (h : userLevel (s.thread (.thr c tid)) code = true ∨ tid < 7 ∧ s.t7Full c = false ∧ bitAt (s.getCore c).ckstat 16 = false) :
    let t := s.takeTrap (.thr c tid) imp code sub tval epc
    let old := s.thread (.thr c tid)
    t.cur = s.cur ∧ (∀ b : Agent, b.key ≠ (Agent.thr c tid).key → t.thread b = s.thread b) ∧
    (∀ n, (t.getSet n).flagPend = (s.getSet n).flagPend) ∧
    t.thread (.thr c tid) = if userLevel old code then
        { old with utepc := epc, tval := tval, tcause := causeWord true imp code sub, pc := old.utvec, st := .run, wait := none }
      else { old with tcause := causeWord false imp code sub, tval := tval, epc := epc, st := .wait, wait := some { kind := .trapHeld } } := by
  have hleft : ∀ b, (s.leaveLines (.thr c tid)).thread b = s.thread b := (leaveLines_accounts s _).thread
  cases huser : userLevel (s.thread (.thr c tid)) code with
  | true =>
    unfold takeTrap
    dsimp only
    rw [if_pos huser]
    refine ⟨leaveLines_cur s _, fun b hb => (thread_modThread_other _ _ hb).trans (hleft b), fun n => leaveLines_flagPend s _ n, ?_⟩
    rw [userTrap, thread_modThread_same, hleft]
    exact (if_pos huser).symm
  | false =>
    rw [huser] at h
    obtain h | ⟨htid, hfull, hoff⟩ := h
    · cases h
    rw [takeTrap_supervisor imp sub tval epc htid huser hfull hoff]
    refine ⟨(supervisorTrap_cur _ _ _ _ _ _ _ _).trans (leaveLines_cur s _), fun b hb => ?_, fun n => ?_, ?_⟩
    · unfold supervisorTrap
      dsimp only
      rw [thread, appendItem_thr]
      exact (thread_modThread_other _ _ hb).trans (hleft b)
    · unfold supervisorTrap
      dsimp only
      rw [appendItem_getSet]
      exact leaveLines_flagPend s _ n
    · rw [supervisorTrap_thread, hleft]
      exact (if_neg (by rw [huser]; decide)).symm

end State

section
variable {s u : State} {w : Thread → Thread} (fl : FFlags) (honly : OnlyMe s u) (hme : u.me = w s.me)
include honly hme

/-- The flags raised after a change of the executing thread alone: threads and Sets differ, the one thread and the one raise. -/
theorem raiseFlags_of_onlyMe :
    let r := u.raiseFlags fl
    r.cur = s.cur ∧ r = { s with thr := r.thr, sets := r.sets } ∧ OthersKeep s r ∧ FlagsSent s r fl ∧ r.me = (w s.me).raised fl := by
  obtain ⟨hframe, hothers⟩ := honly
  have hcur : u.cur = s.cur := by rw [hframe]
  have hset : ∀ n, u.getSet n = s.getSet n := fun n => by rw [hframe]; rfl
  refine ⟨(State.raiseFlags_cur u fl).trans hcur, ?_, fun a ha => ?_, fun n => ?_, ?_⟩
  · rw [State.raiseFlags_frame, hframe]
  · rw [State.raiseFlags_othersKeep u fl a (by rwa [hcur]), hothers a ha]
  · have h := State.raiseFlags_sent u fl n
    rwa [hcur, hset] at h
  · rw [State.me_raiseFlags, hme]

/-- Such an instruction completes (R112, R124). -/
theorem flagStep_of_onlyMe (len : Nat) : FlagStep s w fl len ((u.raiseFlags fl).adv len) := by
  obtain ⟨hcur, hframe, hothers, hsent, hrme⟩ := raiseFlags_of_onlyMe fl honly hme
  refine ⟨?_, fun a ha => ?_, hsent, ?_⟩
  · rw [State.adv, State.modMe, State.modThread, State.setThread, hframe]
  · exact (State.thread_modThread_other _ _ (by rwa [hcur])).trans (hothers a ha)
  · rw [State.me_adv, hrme]

/-- Such an instruction takes the FP_TRAP of one of its flags (R97, R114). -/
theorem fpTrapped_of_onlyMe (hthr : s.cur.isThr = true) (hpc : (w s.me).pc = s.me.pc) (hutvec : (w s.me).utvec = s.me.utvec)
    (hserv : s.me.utvec ≠ 0 ∨ Servable s) : FpTrapped s w fl
      (((u.raiseFlags fl).modMe fun t => { t with pc := t.pc + 4 }).takeTrap s.cur false Cause.fpTrap 0 s.pc (s.pc + 4)) := by
  obtain ⟨hcur, hframe, hothers, hsent, hrme⟩ := raiseFlags_of_onlyMe fl honly hme
  generalize u.raiseFlags fl = r at hcur hframe hothers hsent hrme
  generalize hv : (r.modMe fun t => { t with pc := t.pc + 4 }) = v
  have hvcur : v.cur = s.cur := by rw [← hv]; exact hcur
  have hvothers : ∀ a : Agent, a.key ≠ s.cur.key → v.thread a = s.thread a := fun a ha => by
    rw [← hv]
    exact (State.thread_modThread_other _ _ (by rwa [hcur])).trans (hothers a ha)
  have hvcore : ∀ c, v.getCore c = s.getCore c := fun c => by rw [← hv, hframe]; rfl
  have hvset : ∀ n, (v.getSet n).flagPend = (s.getSet n).flagPend ++
      if n = s.cur.setNo ∧ fl ≠ 0 then [ofN (fl.toNat + State.flagBitOf s.cur)] else [] := fun n => by
    rw [← hv]
    show (r.getSet n).flagPend = _
    rw [hsent n]
    split
    · rfl
    · rw [List.append_nil]
  cases hc : s.cur with
  | seq n q => rw [hc] at hthr; cases hthr
  | thr c tid =>
    have hvme : v.thread (.thr c tid) = { (w s.me).raised fl with pc := s.pc + 4 } := by
      rw [← hc, ← hvcur, ← hrme, show s.pc = r.me.pc by rw [hrme]; exact hpc.symm, ← hv]
      exact State.me_modMe r _
    have huser : State.userLevel (v.thread (.thr c tid)) Cause.fpTrap = decide (s.me.utvec ≠ 0) := by
      rw [State.userLevel_fpTrap, hvme, ← hutvec]
      rfl
    have hroom : State.userLevel (v.thread (.thr c tid)) Cause.fpTrap = true ∨
        tid < 7 ∧ v.t7Full c = false ∧ bitAt (v.getCore c).ckstat 16 = false := by
      rw [huser, State.t7Full, hvcore]
      obtain h | ⟨-, htid, hfull, hoff⟩ := hserv
      · exact .inl (decide_eq_true h)
      · rw [hc] at htid hfull hoff
        exact .inr ⟨htid, hfull, hoff⟩
    obtain ⟨htcur, hto, hts, htme⟩ := State.takeTrap_taken false 0 s.pc (s.pc + 4) hroom
    refine ⟨fun a ha => ?_, fun n => ?_, ?_⟩
    · rw [hto a (by rwa [hc] at ha)]
      exact hvothers a ha
    · rw [hts, hvset, hc]
    · rw [State.me, htcur, hvcur, hc, htme, huser, hvme]
      by_cases h : s.me.utvec ≠ 0
      · rw [if_pos (decide_eq_true h), if_pos h, ← hutvec]
        rfl
      · rw [if_neg fun c => h (of_decide_eq_true c), if_neg h]

end

/-- A vector or floating-point instruction that binds no stream completes or takes FP_TRAP (R97, R112, R114, R140). -/
theorem flagRuns_of_complete {i : Instr} {s : State} {w : Thread → Thread} {fl : FFlags} {upd : State → State}
    (hexec : exec i s = s.complete [] fl upd) (hthr : s.cur.isThr = true) (honly : OnlyMe s (upd s)) (hme : (upd s).me = w s.me)
    (hpc : (w s.me).pc = s.me.pc) (hutvec : (w s.me).utvec = s.me.utvec) : FlagRuns i s w fl := by
  unfold State.complete at hexec
  refine ⟨fun h => ?_, fun h hserv => ?_⟩
  · rw [if_neg (by simp [h])] at hexec
    exact ⟨_, hexec, flagStep_of_onlyMe fl honly hme 4⟩
  · have hroom : ¬(!State.userLevel s.me Cause.fpTrap && decide (s.cur.tid < 7) && s.t7Full s.cur.coreNo) = true := by
      rw [State.userLevel_fpTrap]
      obtain hv | ⟨-, -, hfull, -⟩ := hserv
      · rw [decide_eq_true hv]
        exact Bool.false_ne_true
      · rw [hfull, Bool.and_false]
        exact Bool.false_ne_true
    rw [if_pos h, if_neg hroom] at hexec
    exact ⟨_, hexec, fpTrapped_of_onlyMe fl honly hme hthr hpc hutvec hserv⟩

/-! ### Vector instructions without streams (R140, R143) -/

namespace State

theorem vSrc_plain {s : State} {r : BitVec 5} (h : s.me.slotOf true r = none) : s.vSrc r = .ok (s.me.getV r) := by
  unfold vSrc
  rw [h]

theorem slotsOf_plain {s : State} {rs : List (BitVec 5)} (h : ∀ r ∈ rs, s.me.slotOf true r = none) : s.slotsOf true rs = [] := by
  rw [slotsOf, List.filterMap_eq_nil_iff.2 h]
  rfl

theorem vOut_plain {s : State} {srcs : List (BitVec 5)} {d : BitVec 5} (mask : PReg) (v : VReg) (fl : FFlags) (also : State → State)
    (hsrcs : ∀ r ∈ srcs, s.me.slotOf true r = none) (hd : s.me.slotOf true d = none) : s.vOut srcs d mask v fl also =
      s.complete [] fl fun t => also (t.modMe fun m => m.setV d (mergeBytes (m.getV d) v mask)) := by
  unfold vOut
  rw [hd, slotsOf_plain hsrcs]

theorem isSeq_of_isThr {a : Agent} (h : a.isThr = true) : a.isSeq = false := by
  cases a with
  | thr c t => rfl
  | seq n q => cases h

/-- A conversion whose registers no stream binds: the lanes that it writes, and their flags (R156, R157). -/
theorem vConv_plain {s : State} {d a : BitVec 5} (enc : Enc) (p : BitVec 3) (ei eo si so : Nat) (c : BitVec 4) (src : Nat → Option Nat)
    (hthr : s.cur.isThr = true) (ha : s.me.slotOf true a = none) :
    let conv := convLane (laneFmt si (c.extractLsb' 2 2).toNat) (laneFmt so (c.extractLsb' 0 2).toNat) s.rm s.satm
    let live := fun j => (src j).isSome && active (s.me.getP p.toNat) eo j
    let val := fun j => ((src j).map fun i => conv (laneAt (lanesOf ei (s.me.getV a)) i)).getD (0, 0)
    s.vConv enc d a p ei eo si so c src =
      s.vOut [a] d (predOf eo ((List.range (128 / eo)).map live)) (ofLanes eo ((List.range (128 / eo)).map fun j => (val j).1))
        ((List.range (128 / eo)).foldl (fun fl j => if live j then fl ||| (val j).2 else fl) 0) := by
  intro conv live val
  have hlive : ∀ j, (((src j).map fun i => conv (laneAt (lanesOf ei (s.me.getV a)) i)).isSome && active (s.me.getP p.toNat) eo j) = live j :=
    fun j => by rw [Option.isSome_map]
  unfold vConv
  rw [if_neg (by simp [isSeq_of_isThr hthr]), vSrc_plain ha]
  let rs := (List.range (128 / eo)).map fun j => match src j with
    | some i => some (conv (laneAt (lanesOf ei (s.me.getV a)) i))
    | none => none
  let lives := (List.zipIdx rs).map fun r => r.1.isSome && active (s.me.getP p.toNat) eo r.2
  let vals := rs.map fun r => r.getD (0, 0)
  show s.vOut [a] d (predOf eo lives) (ofLanes eo (vals.map (·.1))) ((lives.zip vals).foldl (fun fl r => if r.1 then fl ||| r.2.2 else fl) 0) = _
  have hrs : rs = (List.range (128 / eo)).map fun j => (src j).map fun i => conv (laneAt (lanesOf ei (s.me.getV a)) i) :=
    List.map_congr_left fun j _ => by cases src j <;> rfl
  have hlives : lives = (List.range (128 / eo)).map live := by
    simp only [lives, hrs, zipIdx_map_range, List.map_map, Function.comp_def, hlive]
  have hvals : vals = (List.range (128 / eo)).map val := by
    simp only [vals, hrs, List.map_map, Function.comp_def, val]
  rw [hlives, hvals, List.map_map, List.zip_map', List.foldl_map]
  rfl

end State

/-- An instruction whose outcome is that of a vector result (R140). -/
theorem flagRuns_of_vOut {i : Instr} {s : State} {srcs : List (BitVec 5)} {d : BitVec 5} {mask : PReg} {v : VReg} {fl : FFlags}
    (hexec : exec i s = s.vOut srcs d mask v fl) (hthr : s.cur.isThr = true) (hsrcs : ∀ r ∈ srcs, s.me.slotOf true r = none)
    (hd : s.me.slotOf true d = none) : FlagRuns i s (fun t => t.setV d (mergeBytes (s.me.getV d) v mask)) fl := by
  rw [State.vOut_plain mask v fl id hsrcs hd] at hexec
  exact flagRuns_of_complete hexec hthr (State.onlyMe_modMe s _) (State.me_modMe s _) rfl rfl

section
variable {ins : Instr} {s : State} {d a : BitVec 5} {enc : Enc} {p : BitVec 3} {ei eo si so : Nat} {c : BitVec 4} {src : Nat → Option Nat}

/-- A conversion writes the lanes that `src` names a source for and the predicate makes active, and raises their flags (R156, R157). -/
theorem vConv_runs (hexec : exec ins s = s.vConv enc d a p ei eo si so c src) (hthr : s.cur.isThr = true)
    (ha : s.me.slotOf true a = none) (hd : s.me.slotOf true d = none) :
    let conv := convLane (laneFmt si (c.extractLsb' 2 2).toNat) (laneFmt so (c.extractLsb' 0 2).toNat) s.rm s.satm
    let live := fun j => (src j).isSome && active (s.me.getP p.toNat) eo j
    let val := fun j => ((src j).map fun i => conv (laneAt (lanesOf ei (s.me.getV a)) i)).getD (0, 0)
    ∃ v, (∀ j, j < 128 / eo → laneAt (lanesOf eo v) j =
        if live j then (val j).1 % 2 ^ (8 * eo) else laneAt (lanesOf eo (s.me.getV d)) j) ∧
      FlagRuns ins s (fun t => t.setV d v) ((List.range (128 / eo)).foldl (fun fl j => if live j then fl ||| (val j).2 else fl) 0) := by
  intro conv live val
  rw [State.vConv_plain enc p ei eo si so c src hthr ha] at hexec
  refine ⟨_, fun j hj => ?_, flagRuns_of_vOut hexec hthr (by simpa using ha) hd⟩
  rw [laneAt_mergeBytes _ _ _ hj, laneAt_map_range _ hj, List.getElem?_map, List.getElem?_range hj]
  rfl

/-- A conversion with a source for every lane (R157). -/
theorem vConv_lanesRun {at' : Nat → Nat} (hexec : exec ins s = s.vConv enc d a p ei eo si so c fun j => some (at' j))
    (hthr : s.cur.isThr = true) (ha : s.me.slotOf true a = none) (hd : s.me.slotOf true d = none) :
    let conv := convLane (laneFmt si (c.extractLsb' 2 2).toNat) (laneFmt so (c.extractLsb' 0 2).toNat) s.rm s.satm
    LanesRun ins s d p eo (fun j => (conv (laneAt (lanesOf ei (s.me.getV a)) (at' j))).1)
      fun j => (conv (laneAt (lanesOf ei (s.me.getV a)) (at' j))).2 := by
  intro conv
  obtain ⟨v, hlanes, hruns⟩ := vConv_runs hexec hthr ha hd
  refine ⟨v, fun j hj => ?_, ?_⟩
  · rw [wrapN_natCast]
    exact hlanes j hj
  · rw [laneRaises_eq]
    exact hruns

end

/-! ### The instructions (R156 to R159) -/

section
variable {s : State} {d a : BitVec 5}

/-- VNARROW writes the lanes of one half (R157). -/
theorem vnarrow_runs (h : BitVec 1) (c : BitVec 4) (p : BitVec 3) (z : BitVec 2) (hthr : s.cur.isThr = true)
    (ha : s.me.slotOf true a = none) (hd : s.me.slotOf true d = none) :
    let e := 2 ^ z.toNat
    let n := 64 / e
    let conv := convLane (laneFmt (z.toNat + 1) (c.extractLsb' 2 2).toNat) (laneFmt z.toNat (c.extractLsb' 0 2).toNat) s.rm s.satm
    let src := fun j => laneAt (lanesOf (2 * e) (s.me.getV a)) (j - h.toNat * n)
    let half := fun j => decide (h.toNat * n ≤ j ∧ j < h.toNat * n + n)
    ∃ v, (∀ j, j < 128 / e → laneAt (lanesOf e v) j =
        if half j && active (s.me.getP p.toNat) e j then (conv (src j)).1 % 2 ^ (8 * e) else laneAt (lanesOf e (s.me.getV d)) j) ∧
      FlagRuns (.vnarrow d a h c p z) s (fun t => t.setV d v)
        (laneRaises e (s.me.getP p.toNat) fun j => if half j then (conv (src j)).2 else 0) := by
  intro e n conv src half
  obtain ⟨v, hlanes, hruns⟩ := vConv_runs (exec_vnarrow d a h c p z s) hthr ha hd
  refine ⟨v, fun j hj => (hlanes j hj).trans ?_, ?_⟩
  · by_cases hhalf : h.toNat * n ≤ j ∧ j < h.toNat * n + n
    · simp [half, hhalf, e, n, esz, conv, src]
    · simp [half, hhalf, e, n, esz]
  · convert hruns using 1
    rw [laneRaises_eq]
    refine List.foldl_ext _ _ _ fun fl j _ => ?_
    by_cases hhalf : h.toNat * n ≤ j ∧ j < h.toNat * n + n
    · simp [half, hhalf, e, n, esz, conv, src]
    · simp [half, hhalf, e, n, esz]

/-- Flags that enable no FP_TRAP: those of R81. -/
theorem fpTraps_of_field {fl : FFlags} (h : field fl 0 5 = 0) : s.fpTraps fl = false := by
  unfold State.fpTraps
  rw [h, Nat.zero_and]
  rfl

/-- UNPK3 where no invalid byte traps: the lanes and the mask that it writes (R101, R102, R158). -/
theorem execUnpk3_written {b : BitVec 5} (q : BitVec 3) (hthr : s.cur.isThr = true) (ha : s.me.slotOf true a = none) :
    let byte := fun (j : Nat) => laneAt (lanesOf 1 (s.me.getV a)) (((s.x b).toNat % 128 + j) % 128)
    let fl := if (List.range 25).any fun j => decide (243 ≤ byte j) then Flag.ternbad else 0
    (fl = 0 ∨ s.me.vcsr.getLsbD 8 = false) → execUnpk3 d a b q s =
      s.vOut [a] d (BitVec.allOnes 128)
        (ofLanes 1 ((List.range 128).map fun k => if k < 125 ∧ byte (k / 5) < 243 then wrapN 8 (ternT (byte (k / 5)) (k % 5)) else 0)) fl
        fun t => t.modMe fun r => r.setP q.toNat (predOf 1 ((List.range 128).map fun k => decide (k < 125) && decide (243 ≤ byte (k / 5)))) := by
  intro byte fl hok
  unfold execUnpk3
  rw [if_neg (by simp [State.isSeq_of_isThr hthr]), State.vSrc_plain ha]
  cases hbad : (List.range 25).find? fun j => decide (243 ≤ byte j) with
  | none =>
    have hfl : fl = 0 := if_neg (by
      rw [List.find?_eq_none] at hbad
      rw [List.any_eq_true]
      exact fun ⟨j, hj, hge⟩ => hbad j hj hge)
    rw [hfl]
    simp only [bind, Except.bind]
    rw [hbad]
    rfl
  | some j =>
    have hfl : fl = Flag.ternbad := if_pos (List.any_eq_true.2 ⟨j, List.mem_of_find?_eq_some hbad, by simpa using List.find?_some hbad⟩)
    have hoff : bitAt s.me.vcsr 8 = false := hok.resolve_left (by rw [hfl]; decide)
    rw [hfl]
    simp only [bind, Except.bind]
    rw [hbad]
    simp only [hoff]
    rfl

/-- UNPK3 writes 125 ternary lanes and the mask of the invalid ones (R101, R102, R158). -/
theorem unpk3_runs {b : BitVec 5} (q : BitVec 3) (hthr : s.cur.isThr = true) (ha : s.me.slotOf true a = none)
    (hd : s.me.slotOf true d = none) :
    let byte := fun (j : Nat) => laneAt (lanesOf 1 (s.me.getV a)) (((s.x b).toNat % 128 + j) % 128)
    let fl := if (List.range 25).any fun j => decide (243 ≤ byte j) then Flag.ternbad else 0
    (fl = 0 ∨ s.me.vcsr.getLsbD 8 = false) → ∃ (v : VReg) (m : PReg),
      (∀ j, j < 128 → m.getLsbD j = (decide (j < 125) && decide (243 ≤ byte (j / 5)))) ∧
      (∀ k, k < 128 → laneAt (lanesOf 1 v) k = if k < 125 ∧ byte (k / 5) < 243 then wrapN 8 (ternT (byte (k / 5)) (k % 5)) else 0) ∧
      Runs (.unpk3 d a b q) s (FlagStep s (fun t => (t.setV d v).setP q.toNat m) fl 4) := by
  intro byte fl hok
  have hexec := (exec_unpk3 d a b q s).trans (execUnpk3_written (d := d) (b := b) q hthr ha hok)
  rw [State.vOut_plain _ _ _ _ (by simpa using ha) hd] at hexec
  have hfl : field fl 0 5 = 0 := by
    unfold fl
    split <;> rfl
  refine ⟨_, _, fun j hj => ?_, fun k hk => ?_, (flagRuns_of_complete hexec hthr
    ((State.onlyMe_modMe s _).trans (State.onlyMe_modMe _ _)) ((State.me_modMe _ _).trans (by rw [State.me_modMe])) ?_ ?_).1
    (fpTraps_of_field hfl)⟩
  · have h := getLsbD_predOf 1 ((List.range 128).map fun k => decide (k < 125) && decide (243 ≤ byte (k / 5))) (i := j) (j := 0)
      Nat.one_pos (by omega)
    rw [Nat.one_mul, Nat.add_zero, List.getElem?_map, List.getElem?_range hj] at h
    exact h
  · rw [laneAt_mergeBytes_all _ _ hk, laneAt_map_range _ hk]
    refine Nat.mod_eq_of_lt ?_
    split
    · exact (Int.toNat_lt_of_ne_zero (by decide)).2 (Int.emod_lt_of_pos _ (by decide))
    · decide
  · rw [Thread.setP_pc]; rfl
  · rw [Thread.setP_utvec]; rfl

/-- Every lane of the register is active under the predicate that is true everywhere. -/
theorem active_allOnes {e i : Nat} (he : 0 < e) (hi : i < 128 / e) : active (BitVec.allOnes 128) e i = true := by
  have := lane_bits_lt hi
  unfold active bitAt
  rw [BitVec.getLsbD_allOnes]
  exact decide_eq_true (by omega)

/-- UNPK4 under the predicate of every lane, or of an invalid block: it writes 32 decoded lanes (R98 to R100, R159). -/
theorem unpk4_runs {b : BitVec 5} (p : BitVec 3) (z : BitVec 2) (hthr : s.cur.isThr = true) (ha : s.me.slotOf true a = none)
    (hd : s.me.slotOf true d = none) :
    let e := unpk4Size z
    let g := s.me.getP p.toNat
    let block := (List.range 17).map fun k => BitVec.ofNat 8 (laneAt (lanesOf 1 (s.me.getV a)) (((s.x b).toNat % 128 + k) % 128))
    let scale := ((block[16]?).getD 0).toNat
    g = BitVec.allOnes 128 ∨ scale % 64 = 63 →
    ∃ v, (∀ i, i < 128 / e → laneAt (lanesOf e v) i = if i < 32 then (unpk4Lane z scale (q4Code block i)).1 % 2 ^ (8 * e) else 0) ∧
      FlagRuns (.unpk4 d a b p z) s (fun t => t.setV d v)
        (laneRaises e g (fun i => if i < 32 then (unpk4Lane z scale (q4Code block i)).2 else 0) |||
          (if scale % 64 = 63 then Flag.blkinv else 0)) := by
  intro e g block scale hall
  have he : 0 < e := by
    unfold e unpk4Size
    split <;> decide
  let r := fun i => if 32 ≤ i then (0, 0) else if active g e i = true ∨ scale % 64 = 63 then unpk4Lane z scale (q4Code block i)
    else ((Config.unpk4Inactive (s.me.getV a) (s.x b) g z.toNat i).toNat, 0)
  have hr : ∀ i, i < 128 / e → r i = if i < 32 then unpk4Lane z scale (q4Code block i) else (0, 0) := fun i hi => by
    have hdec : active g e i = true ∨ scale % 64 = 63 := hall.imp_left fun h => by rw [h]; exact active_allOnes he hi
    by_cases h : i < 32
    · exact (if_neg (by omega)).trans ((if_pos hdec).trans (if_pos h).symm)
    · exact (if_pos (by omega)).trans (if_neg h).symm
  have hexec : exec (.unpk4 d a b p z) s = s.vOut [a] d (BitVec.allOnes 128) (ofLanes e (((List.range (128 / e)).map r).map (·.1)))
      (laneFlags g e ((List.range (128 / e)).map r) ||| flagIf (decide (scale % 64 = 63)) Flag.blkinv) := by
    rw [exec_unpk4, execUnpk4, if_neg (by simp [State.isSeq_of_isThr hthr]), State.vSrc_plain ha]
    rfl
  have hflags : laneFlags g e ((List.range (128 / e)).map r) =
      laneRaises e g fun i => if i < 32 then (unpk4Lane z scale (q4Code block i)).2 else 0 := by
    rw [laneRaises_eq, laneFlags_map_range]
    refine List.foldl_ext _ _ _ fun fl i hi => ?_
    rw [hr i (List.mem_range.1 hi)]
    by_cases h : i < 32 <;> simp [h]
  have hblk : flagIf (decide (scale % 64 = 63)) Flag.blkinv = if scale % 64 = 63 then Flag.blkinv else 0 := by simp [flagIf]
  rw [hflags, hblk] at hexec
  refine ⟨_, fun i hi => ?_, flagRuns_of_vOut hexec hthr (by simpa using ha) hd⟩
  rw [laneAt_mergeBytes_all _ _ hi, List.map_map, laneAt_map_range _ hi, Function.comp_apply, hr i hi]
  by_cases h : i < 32 <;> simp [h]

/-- Flags that another flag covers add nothing to it. -/
theorem foldl_flags_covered {B : FFlags} (p : Nat → Bool) (x : Nat → FFlags) (hx : ∀ i, x i ||| B = B) (l : List Nat) (fl : FFlags) :
    (l.foldl (fun w i => if p i then w ||| x i else w) fl) ||| B = fl ||| B := by
  induction l generalizing fl with
  | nil => rfl
  | cons i l ih =>
    rw [List.foldl_cons, ih]
    split
    · rw [BitVec.or_assoc, hx]
    · rfl

/-- What every code of an invalid block decodes to (R100, R159). -/
theorem unpk4Lane_invalid {scale : Nat} (z : BitVec 2) (c : Nat) (h : scale % 64 = 63) :
    unpk4Lane z scale c = (if z = 0 then 0 else if z = 1 then 0x7E00 else if z = 2 then 0x7FC00000 else 0x7FC0, Flag.blkinv) := by
  unfold unpk4Lane
  rw [if_pos h]
  match z with
  | 0 => rfl
  | 1 => rfl
  | 2 => rfl
  | 3 => rfl

/-- UNPK4 of an invalid block: the canonical NaN, or 0, in all 32 lanes, and BLKINV (R100, R159). -/
theorem unpk4_runs_invalid {b : BitVec 5} (p : BitVec 3) (z : BitVec 2) (hthr : s.cur.isThr = true) (ha : s.me.slotOf true a = none)
    (hd : s.me.slotOf true d = none) :
    let e := unpk4Size z
    let nan := if z = 0 then 0 else if z = 1 then 0x7E00 else if z = 2 then 0x7FC00000 else 0x7FC0
    laneAt (lanesOf 1 (s.me.getV a)) (((s.x b).toNat % 128 + 16) % 128) % 64 = 63 → ∃ v,
      (∀ i, i < 128 / e → laneAt (lanesOf e v) i = if i < 32 then nan else 0) ∧
      Runs (.unpk4 d a b p z) s (FlagStep s (fun t => t.setV d v) Flag.blkinv 4) := by
  intro e nan hbad
  let block := (List.range 17).map fun k => BitVec.ofNat 8 (laneAt (lanesOf 1 (s.me.getV a)) (((s.x b).toNat % 128 + k) % 128))
  have hscale : ((block[16]?).getD 0).toNat % 64 = 63 := by
    show (BitVec.ofNat 8 (laneAt (lanesOf 1 (s.me.getV a)) (((s.x b).toNat % 128 + 16) % 128))).toNat % 64 = 63
    rw [BitVec.toNat_ofNat]
    omega
  obtain ⟨v, hlanes, hruns⟩ := unpk4_runs (d := d) (b := b) p z hthr ha hd (.inr hscale)
  have hfits : nan % 2 ^ (8 * e) = nan := by
    unfold nan e
    match z with
    | 0 => rfl
    | 1 => rfl
    | 2 => rfl
    | 3 => rfl
  refine ⟨v, fun i hi => ?_, ?_⟩
  · refine (hlanes i hi).trans ?_
    rw [unpk4Lane_invalid z _ hscale, hfits]
  · have hflags := foldl_flags_covered (B := Flag.blkinv) (active (s.me.getP p.toNat) e)
      (fun i => if i < 32 then (unpk4Lane z _ (q4Code block i)).2 else 0)
      (fun i => by
        rw [unpk4Lane_invalid z _ hscale]
        split
        · exact BitVec.or_self
        · exact BitVec.zero_or) (List.range (128 / e)) 0
    rw [← laneRaises_eq, show (0 : FFlags) ||| Flag.blkinv = Flag.blkinv from BitVec.zero_or] at hflags
    rw [if_pos hscale, hflags] at hruns
    exact hruns.1 (fpTraps_of_field rfl)

end

/-- Settles O29: the lane conversions by the lanes that they name a source for, UNPK3 and UNPK4 by the lanes that they decode. -/
theorem vectorConversions : Obligations.VectorConversions := by
  unfold Obligations.VectorConversions
  intro s d a b h c p q z e V conv byte bad hplain
  obtain ⟨hthr, hslots⟩ := hplain
  have ha : s.me.slotOf true a = none := hslots a (by simp)
  have hd : s.me.slotOf true d = none := hslots d (by simp)
  exact ⟨vConv_lanesRun (exec_vcvt d a c p z s) hthr ha hd, fun _ => vConv_lanesRun (exec_vwiden d a h c p z s) hthr ha hd,
    fun _ => vnarrow_runs h c p z hthr ha hd, unpk3_runs q hthr ha hd,
    fun hp => hp ▸ unpk4_runs p z hthr ha hd (.inl hp), unpk4_runs_invalid p z hthr ha hd⟩

end Sys2Proof.Machine

/-! SUPPORT. The events of the Set (O49). First what a release and a step of the network leave of the Sets, then the events of the
sequencers, the engine queue, the loader and the Montage unit (R107, R171, R184, R189 to R191, R298, R299). -/

namespace Sys2Proof.Machine

/-! ### Cells of a table -/

/-- An entry of a table from which the keys that `p` refuses have been removed. -/
theorem Tbl.get_filter_key {α : Type} (d : α) (p : Nat → Bool) (t : List (Nat × α)) (n : Nat) :
    Tbl.get d (t.filter fun e => p e.1) n = if p n then Tbl.get d t n else d := by
  induction t with
  | nil => simp [Tbl.get]
  | cons e t ih =>
    obtain ⟨k, v⟩ := e
    rw [List.filter_cons]
    by_cases hk : k = n
    · subst hk
      cases hp : p k <;> simp [Tbl.get, ih, hp]
    · cases hp : p k <;> simp [Tbl.get, ih, hk]

/-- A fold whose step `i` rewrites the cells of its own group `S i`, each from what it holds, and leaves the others: no cell is in two
groups, so after `n` steps the cells of the first `n` groups are rewritten once. -/
theorem foldl_cells {σ β : Type} (cell : σ → Nat → β) (step : σ → Nat → σ) (S : Nat → Nat → Prop) (G : Nat → Nat → β → β)
    (hin : ∀ k i x, S i x → cell (step k i) x = G i x (cell k x)) (hout : ∀ k i x, ¬S i x → cell (step k i) x = cell k x)
    (hdisj : ∀ i j x, S i x → S j x → i = j) (k : σ) (n : Nat) :
    (∀ i, i < n → ∀ x, S i x → cell ((List.range n).foldl step k) x = G i x (cell k x)) ∧
    ∀ x, (∀ i, i < n → ¬S i x) → cell ((List.range n).foldl step k) x = cell k x := by
  induction n with
  | zero => exact ⟨fun i hi => absurd hi (Nat.not_lt_zero i), fun _ _ => rfl⟩
  | succ n ih =>
    obtain ⟨hdone, hkept⟩ := ih
    rw [List.range_succ, List.foldl_append, List.foldl_cons, List.foldl_nil]
    refine ⟨fun i hi x hx => ?_, fun x hx => ?_⟩
    · by_cases hlast : i = n
      · subst hlast
        rw [hin _ _ _ hx, hkept x fun j hj hS => absurd (hdisj j i x hS hx) (by omega)]
      · rw [hout _ _ _ fun hS => hlast (hdisj i n x hx hS), hdone i (by omega) x hx]
    · rw [hout _ _ _ (hx n (by omega)), hkept x fun i hi => hx i (by omega)]

/-! ### What marking the groups leaves (R402) -/

section
variable {s t : State} (h : CoresAndDies s t)
include h

theorem CoresAndDies.thr : t.thr = s.thr := by rw [h]
theorem CoresAndDies.mem : t.mem = s.mem := by rw [h]
theorem CoresAndDies.timebase : t.timebase = s.timebase := by rw [h]
theorem CoresAndDies.mesh : t.mesh = s.mesh := by rw [h]
theorem CoresAndDies.thread (a : Agent) : t.thread a = s.thread a := by rw [State.thread, h.thr]; rfl
theorem CoresAndDies.getSet (n : Nat) : t.getSet n = s.getSet n := by rw [State.getSet, h]; rfl

end

namespace State

theorem markGroups_coresAndDies (s : State) : CoresAndDies s s.markGroups :=
  .foldl (fun t i => by
    split
    · exact .modDie _ _ _
    · exact .refl t) _ s

theorem settleSet_coresAndDies (s : State) (n : Nat) : CoresAndDies s (s.settleSet n) := by
  unfold settleSet
  split
  · exact markGroups_coresAndDies s
  · exact .refl s

@[simp] theorem settleSet_core (s : State) (n : Nat) : (s.settleSet n).core = s.core := by
  unfold settleSet
  split
  · exact (markGroups_keepsStops s).core
  · rfl

end State

/-! ### Sequencer programs (R171) -/

/-- A FREE sequencer starts the oldest program of its fork queue with the registers of R171. -/
theorem runs_sequencerProgramStart {s : State} {set q : Nat} {e : ForkEntry} {rest : List ForkEntry} (hq : q < 3)
    (hfork : Tbl.get [] (s.getSet set).forkQ q = e :: rest) (hfree : (s.thread (.seq set q)).st = .free)
    (hcur : Tbl.get none (s.getSet set).cur q = none) (hruns : s.setRuns set = true) :
    Runs (.sequencerProgramStart set q) s fun t =>
      let n := t.thread (.seq set q)
      n.pc = e.entry ∧ n.p = e.p ∧ n.ox = e.ox ∧ n.st = .run ∧ n.journal = [] ∧
      (∀ r, n.getX r = if r = 2 then 0x20000 else if r = 10 then e.arg else 0) ∧
      Tbl.get [] (t.getSet set).forkQ q = rest ∧ Tbl.get none (t.getSet set).cur q = some e ∧ SameBytes s t := by
  have hexec : exec (.sequencerProgramStart set q) s = .next (s.startSeq set q e) := by
    rw [exec_sequencerProgramStart, execSequencerProgramStart, hfork]
    exact if_pos ⟨hq, hfree, by rw [hcur]; rfl, hruns⟩
  have hset : (s.startSeq set q e).getSet set = { s.getSet set with
      forkQ := Tbl.put [] (s.getSet set).forkQ q ((Tbl.get [] (s.getSet set).forkQ q).drop 1)
      cur := Tbl.put none (s.getSet set).cur q (some e) } :=
    State.getSet_modSet_same s set fun k => { k with
      forkQ := Tbl.put [] k.forkQ q ((Tbl.get [] k.forkQ q).drop 1), cur := Tbl.put none k.cur q (some e) }
  refine ⟨_, hexec, ?_⟩
  have hthread := State.thread_modThread_same (s.modSet set fun k => { k with
      forkQ := Tbl.put [] k.forkQ q ((Tbl.get [] k.forkQ q).drop 1), cur := Tbl.put none k.cur q (some e) }) (.seq set q)
  refine ⟨?_, ?_, ?_, ?_, ?_, fun r => ?_, ?_, ?_, SameBytes.of_mem (s := s) rfl⟩
  case refine_7 => rw [hset, hfork]; exact Tbl.get_put_same ([] : List ForkEntry) _ q rest
  case refine_8 => rw [hset]; exact Tbl.get_put_same none _ q (some e)
  all_goals rw [State.startSeq, hthread]
  · simp
  · simp
  · simp
  · simp
  · simp
  rw [Thread.getX_setX, Thread.getX_setX]
  by_cases h0 : r = 0
  · subst h0
    rfl
  · by_cases h2 : r = 2
    · subst h2
      rfl
    · rw [if_neg h0, if_neg h0, if_neg h2, if_neg h2]
      congr 1
      rw [Thread.getX, if_neg h0]
      rfl

/-! ### The head of the engine queue streams (R185, R187, R189) -/

/-- Every entry of the engine queue of a Set with this serial streams. -/
def EngStreams (set ser : Nat) (t : State) : Prop := ∀ x ∈ (t.getSet set).engQ, x.serial = ser → x.streaming = true

namespace State

@[simp] theorem semTake_mem (s : State) (n i : Nat) (who : Option Nat) (c : Nat) : (s.semTake n i who c).mem = s.mem := rfl

theorem getSet_modEng (s : State) (n ser : Nat) (f : EngEntry → EngEntry) : (s.modEng n ser f).getSet n =
    { s.getSet n with engQ := (s.getSet n).engQ.map fun e => if e.serial = ser then f e else e } :=
  getSet_modSet_same s n fun k => { k with engQ := k.engQ.map fun e => if e.serial = ser then f e else e }

/-- The barrier of a new head enters the line of its semaphore: of the Set nothing else changes (R174, R189). -/
theorem settleHead_getSet (s : State) (n : Nat) : (s.settleHead n).getSet n =
    { s.getSet n with engQ := ((s.settleHead n).getSet n).engQ, semLine := ((s.settleHead n).getSet n).semLine } := by
  unfold settleHead
  split
  · rfl
  · split
    · rw [getSet_modSet_same, getSet_modEng]
    · rfl

@[simp] theorem settleHead_mem (s : State) (n : Nat) : (s.settleHead n).mem = s.mem := by
  unfold settleHead
  split
  · rfl
  · split <;> rfl

theorem settleHead_streams {s : State} {n ser : Nat} (h : EngStreams n ser s) : EngStreams n ser (s.settleHead n) := by
  unfold settleHead
  split
  · exact h
  · split
    · intro x hx
      rw [getSet_modSet_same, getSet_modEng] at hx
      obtain ⟨y, hy, rfl⟩ := List.mem_map.1 hx
      split
      · exact h y hy
      · exact h y hy
    · exact h

/-- An entry that begins to stream, and the head that follows it: the rest of the Set is as it was. -/
theorem streams_modEng_settleHead (s : State) (n ser : Nat) (f : EngEntry → EngEntry) (hf : ∀ e, (f e).streaming = true) :
    let t := (s.modEng n ser f).settleHead n
    EngStreams n ser t ∧ t.mem = s.mem ∧
    t.getSet n = { s.getSet n with engQ := (t.getSet n).engQ, semLine := (t.getSet n).semLine } := by
  refine ⟨settleHead_streams fun x hx hser => ?_, settleHead_mem _ _, ?_⟩
  · rw [getSet_modEng] at hx
    obtain ⟨y, -, rfl⟩ := List.mem_map.1 hx
    split at hser
    case isTrue h => rw [if_pos h]; exact hf y
    case isFalse h => exact absurd hser h
  · rw [settleHead_getSet, getSet_modEng]

end State

/-! ### Tiles (R107, R187, R189) -/

namespace SetSt

@[simp] theorem flagTile_tiles (k : SetSt) (t : Nat) (w : Word) : (k.flagTile t w).tiles = k.tiles := rfl
@[simp] theorem putTag_tiles (k : SetSt) (t i : Nat) (w : Word) : (k.putTag t i w).tiles = k.tiles := rfl

theorem zeroTile_tile (k : SetSt) (t : Nat) {r c : Nat} (hr : r < 256) (hc : c < 256) :
    Tbl.get 0 (k.zeroTile t).tiles (65536 * t + 256 * r + c) = 0 := by
  refine (Tbl.get_filter_key 0 (fun x => !decide (x / 65536 = t)) k.tiles _).trans (if_neg ?_)
  rw [decide_eq_true (by omega)]
  exact Bool.false_ne_true

section
variable {cfg : Word} {t : Nat} {a : ASource} (w : WbSlot) (hbad : a.bad = [])
include hbad

/-- One entry of a product: the accumulation of R107 into its cell. -/
theorem mulEntry_tiles (i : Nat) (k : SetSt) (j : Nat) : (mulEntry cfg t a w i k j).tiles =
    Tbl.put 0 k.tiles (65536 * t + 256 * i + j)
      (accEntry cfg a.fmt (Tbl.get [] a.rows i) w j (Tbl.get 0 k.tiles (65536 * t + 256 * i + j))).1 := by
  unfold mulEntry
  rw [hbad]
  rfl

/-- One row of a product: its cells accumulate, the others stay. -/
theorem mulRow_tiles (tags : Bool) (k : SetSt) (i : Nat) :
    (∀ j, j < mxN cfg → Tbl.get 0 (mulRow cfg t tags a w k i).tiles (65536 * t + 256 * i + j) =
      (accEntry cfg a.fmt (Tbl.get [] a.rows i) w j (Tbl.get 0 k.tiles (65536 * t + 256 * i + j))).1) ∧
    ∀ x, (∀ j, j < mxN cfg → x ≠ 65536 * t + 256 * i + j) → Tbl.get 0 (mulRow cfg t tags a w k i).tiles x = Tbl.get 0 k.tiles x := by
  have hstart : ∃ k2 : SetSt, k2.tiles = k.tiles ∧ mulRow cfg t tags a w k i = (List.range (mxN cfg)).foldl (mulEntry cfg t a w i) k2 := by
    refine ⟨_, ?_, rfl⟩
    rw [hbad]
    cases tags <;> rfl
  obtain ⟨k2, hk2, heq⟩ := hstart
  have hfold := foldl_cells (fun k : SetSt => Tbl.get 0 k.tiles) (mulEntry cfg t a w i) (fun j x => x = 65536 * t + 256 * i + j)
    (fun j _ v => (accEntry cfg a.fmt (Tbl.get [] a.rows i) w j v).1)
    (fun k j x hx => by subst hx; exact (congrArg (Tbl.get 0 · _) (mulEntry_tiles w hbad i k j)).trans (Tbl.get_put_same _ _ _ _))
    (fun k j x hx => (congrArg (Tbl.get 0 · _) (mulEntry_tiles w hbad i k j)).trans (Tbl.get_put_other _ _ _ hx))
    (fun j j' x hx hx' => by omega) k2 (mxN cfg)
  rw [heq, ← hk2]
  exact ⟨fun j hj => hfold.1 j hj _ rfl, fun x hx => hfold.2 x fun j hj hS => hx j hj hS⟩

/-- The rows of a product: every entry of the product accumulates once, the other cells stay. -/
theorem mulRows_tiles (tags : Bool) (k : SetSt) {m : Nat} (hn : mxN cfg ≤ 256) :
    let k' := (List.range m).foldl (mulRow cfg t tags a w) k
    (∀ r c, r < m → c < mxN cfg → Tbl.get 0 k'.tiles (65536 * t + 256 * r + c) =
      (accEntry cfg a.fmt (Tbl.get [] a.rows r) w c (Tbl.get 0 k.tiles (65536 * t + 256 * r + c))).1) ∧
    ∀ x, (∀ r c, r < m → c < mxN cfg → x ≠ 65536 * t + 256 * r + c) → Tbl.get 0 k'.tiles x = Tbl.get 0 k.tiles x := by
  have hfold := foldl_cells (fun k : SetSt => Tbl.get 0 k.tiles) (mulRow cfg t tags a w)
    (fun i x => ∃ j, j < mxN cfg ∧ x = 65536 * t + 256 * i + j)
    (fun i x v => (accEntry cfg a.fmt (Tbl.get [] a.rows i) w (x - (65536 * t + 256 * i)) v).1)
    (fun k i x ⟨j, hj, hx⟩ => by
      subst hx
      rw [Nat.add_sub_cancel_left]
      exact (mulRow_tiles w hbad tags k i).1 j hj)
    (fun k i x hx => (mulRow_tiles w hbad tags k i).2 x fun j hj he => hx ⟨j, hj, he⟩)
    (fun i i' x ⟨j, hj, hx⟩ ⟨j', hj', hx'⟩ => by omega) k m
  refine ⟨fun r c hr hc => ?_, fun x hx => hfold.2 x fun r hr ⟨c, hc, he⟩ => hx r c hr hc he⟩
  have h := hfold.1 r hr _ ⟨c, hc, rfl⟩
  rwa [Nat.add_sub_cancel_left] at h

end

/-- The product of R189 with a READY slot and a READY stage of the formats that MXC names. -/
theorem multiply_tiles {k : SetSt} {t wb : Nat} {cfg op6 : Word}
    (hw : field (Tbl.get {} k.wb wb).hdr 62 2 = 2) (hg : field (Tbl.get {} k.stages (field op6 14 2)).hdr 62 2 = 2)
    (hwf : wbF (Tbl.get {} k.wb wb).hdr = mxBf cfg) (hgf : field (Tbl.get {} k.stages (field op6 14 2)).hdr 9 3 = mxAf cfg)
    (hn : mxN cfg ≤ 256) :
    let k' := k.multiply t wb cfg op6 none 0
    let w := Tbl.get {} k.wb wb
    let g := Tbl.get {} k.stages (field op6 14 2)
    (∀ r c, r < mxM cfg → c < mxN cfg → Tbl.get 0 k'.tiles (65536 * t + 256 * r + c) =
      (accEntry cfg (mxAf cfg) (Tbl.get [] g.rows r) w c (Tbl.get 0 k.tiles (65536 * t + 256 * r + c))).1) ∧
    ∀ x, (∀ r c, r < mxM cfg → c < mxN cfg → x ≠ 65536 * t + 256 * r + c) → Tbl.get 0 k'.tiles x = Tbl.get 0 k.tiles x := by
  intro k' w g
  have hk' : ∃ k1 : SetSt, k1.tiles = k.tiles ∧ k' = (List.range (mxM cfg)).foldl
      (mulRow cfg t (bitAt op6 12) { m := mxM cfg, fmt := field g.hdr 9 3, rows := g.rows, tags := g.tags } w) k1 := by
    have hstart : k' = (List.range (if decide (field w.hdr 62 2 = 0) || (decide (field w.hdr 62 2 = 3) || decide (field g.hdr 62 2 = 3)) ||
        (decide (wbF w.hdr ≠ mxBf cfg) || decide (field g.hdr 9 3 ≠ mxAf cfg)) || decide ((0 : Word) ≠ 0) then 0
        else min (mxM cfg) (mxM cfg))).foldl (mulRow cfg t (bitAt op6 12)
        { m := mxM cfg, fmt := field g.hdr 9 3, rows := g.rows, tags := g.tags } w) (k.flagTile t (0 ||| ofN
          (b2n (decide (field w.hdr 62 2 = 0)) * 2 ^ 14 +
          b2n (decide (field w.hdr 62 2 = 3) || decide (field g.hdr 62 2 = 3)) * 2 ^ 13 +
          b2n (decide (wbF w.hdr ≠ mxBf cfg) || decide (field g.hdr 9 3 ≠ mxAf cfg)) * 2 ^ 15))) := rfl
    rw [hw, hg, hwf, hgf, if_neg (by simp), Nat.min_self, ← hgf] at hstart
    exact ⟨_, flagTile_tiles k t _, hstart⟩
  obtain ⟨k1, hk1, heq⟩ := hk'
  rw [heq, ← hk1, ← hgf]
  exact mulRows_tiles w rfl (bitAt op6 12) k1 hn

end SetSt

/-- MXZERO at the head of the engine queue clears its tile and its flag word (R187). -/
theorem runs_engineEntryStart_zero {s : State} {set tl : Nat} {e : EngEntry} (hhead : s.engHead set = some e) (hruns : s.setRuns set = true)
    (hop : e.op = .zero tl) : Runs (.engineEntryStart set) s fun t => EngStreams set e.serial t ∧ SameBytes s t ∧
      (∀ r c, r < 256 → c < 256 → Tbl.get 0 (t.getSet set).tiles (65536 * tl + 256 * r + c) = 0) ∧
      Tbl.get 0 (t.getSet set).tfw tl = 0 := by
  have hexec : exec (.engineEntryStart set) s = .next (((s.modSet set fun k => k.zeroTile tl).modEng set e.serial fun e =>
      { e with streaming := true, inLine := false, buf := none, flags := 0 }).settleHead set) := by
    rw [exec_engineEntryStart, execEngineEntryStart, hhead]
    simp only [hop, hruns, State.engStart, Bool.and_self, if_true]
  obtain ⟨hstreams, hmem, hset⟩ := State.streams_modEng_settleHead (s.modSet set fun k => k.zeroTile tl) set e.serial
    (fun e => { e with streaming := true, inLine := false, buf := none, flags := 0 }) fun _ => rfl
  rw [State.getSet_modSet_same] at hset
  refine ⟨_, hexec, hstreams, .of_mem hmem, fun r c hr hc => ?_, ?_⟩
  · rw [hset]
    exact SetSt.zeroTile_tile _ _ hr hc
  · rw [hset]
    exact Tbl.get_put_same (0 : Word) _ tl 0

/-- An MXMUL of a stage whose barrier and operands are met adds its products to its tile (R107, R189). -/
theorem runs_engineEntryStart_mul {s : State} {set tl wb : Nat} {cfg op6 op7 : Word} {e : EngEntry} (hhead : s.engHead set = some e)
    (hruns : s.setRuns set = true) (hop : e.op = .mul tl wb cfg op6 op7) (hmet : s.mulMet set e wb op6 op7 = true)
    (hsrc : bitAt op6 13 = false) :
    let k := s.getSet set
    let w := Tbl.get ({} : WbSlot) k.wb wb
    let g := Tbl.get ({} : AStage) k.stages (field op6 14 2)
    field w.hdr 62 2 = 2 → field g.hdr 62 2 = 2 → wbF w.hdr = mxBf cfg → field g.hdr 9 3 = mxAf cfg → mxN cfg ≤ 256 →
    Runs (.engineEntryStart set) s fun t => EngStreams set e.serial t ∧ SameBytes s t ∧
      (∀ r c, r < mxM cfg → c < mxN cfg → Tbl.get 0 (t.getSet set).tiles (65536 * tl + 256 * r + c) =
        (accEntry cfg (mxAf cfg) (Tbl.get [] g.rows r) w c (Tbl.get 0 k.tiles (65536 * tl + 256 * r + c))).1) ∧
      ∀ x, (∀ r c, r < mxM cfg → c < mxN cfg → x ≠ 65536 * tl + 256 * r + c) →
        Tbl.get 0 (t.getSet set).tiles x = Tbl.get 0 k.tiles x := by
  intro k w g hw hg hwf hgf hn
  obtain ⟨s1, hs1, hmem1, hset1⟩ : ∃ s1 : State, (if field op6 16 2 = 2 then s.semTake set (field op6 18 4) none 1 else s) = s1 ∧
      s1.mem = s.mem ∧ s1.getSet set = { k with sem := (s1.getSet set).sem, semLine := (s1.getSet set).semLine } := by
    refine ⟨_, rfl, ?_⟩
    split
    · refine ⟨rfl, ?_⟩
      unfold State.semTake
      rw [State.getSet_modSet_same]
    · exact ⟨rfl, rfl⟩
  have hexec : exec (.engineEntryStart set) s = .next (((s1.modSet set fun k => k.multiply tl wb cfg op6 none 0).modEng set e.serial fun e =>
      { e with streaming := true, inLine := false, buf := none, flags := 0 }).settleHead set) := by
    rw [exec_engineEntryStart, execEngineEntryStart, hhead]
    simp only [hop, hruns, hmet, State.engStart, Bool.and_self, if_true, hsrc, hs1, Bool.false_eq_true, if_false]
  obtain ⟨hstreams, hmem, hset⟩ := State.streams_modEng_settleHead (s1.modSet set fun k => k.multiply tl wb cfg op6 none 0) set e.serial
    (fun e => { e with streaming := true, inLine := false, buf := none, flags := 0 }) fun _ => rfl
  rw [State.getSet_modSet_same] at hset
  refine ⟨_, hexec, hstreams, .of_mem (hmem.trans hmem1), ?_⟩
  rw [hset, hset1]
  exact SetSt.multiply_tiles hw hg hwf hgf hn

/-! ### The completion of an entry of the engine queue (R190, R191) -/

namespace State

@[simp] theorem semPost_mem (s : State) (n i c : Nat) : (s.semPost n i c).mem = s.mem := rfl
@[simp] theorem semPost_thr (s : State) (n i c : Nat) : (s.semPost n i c).thr = s.thr := rfl

theorem semPost_getSet (s : State) (n i c : Nat) : (s.semPost n i c).getSet n = { s.getSet n with
    sem := Tbl.put 0 (s.getSet n).sem i (BitVec.ofNat 16 (min ((s.sem n i).toNat + c) 0xFFFF)) } :=
  getSet_modSet_same s n _

theorem semPost_sem (s : State) (n i c : Nat) : ((s.semPost n i c).sem n i).toNat = min ((s.sem n i).toNat + c) 0xFFFF := by
  rw [sem, semPost_getSet]
  refine (congrArg BitVec.toNat (Tbl.get_put_same (0 : BitVec 16) _ i _)).trans ?_
  rw [BitVec.toNat_ofNat, Nat.mod_eq_of_lt (by omega)]

@[simp] theorem raiseOn_zero (s : State) (a : Agent) : s.raiseOn a 0 = s := rfl

@[simp] theorem raiseOn_mem (s : State) (a : Agent) (fl : FFlags) : (s.raiseOn a fl).mem = s.mem := by
  have h := raiseFlags_frame ({ s with cur := a } : State) fl
  exact (congrArg State.mem h).trans rfl

theorem raiseOn_thread (s : State) (a : Agent) (fl : FFlags) : (s.raiseOn a fl).thread a = (s.thread a).raised fl := by
  have h := me_raiseFlags ({ s with cur := a } : State) fl
  rw [me, raiseFlags_cur] at h
  exact h

/-- Raising flags on an agent leaves of a Set all but the raises on their way. -/
theorem raiseOn_getSet (s : State) (a : Agent) (fl : FFlags) (n : Nat) :
    (s.raiseOn a fl).getSet n = { s.getSet n with flagPend := ((s.raiseOn a fl).getSet n).flagPend } := by
  have h := raiseFlags_sent ({ s with cur := a } : State) fl n
  have hfl : (s.raiseOn a fl).getSet n = (({ s with cur := a } : State).raiseFlags fl).getSet n := rfl
  have hs : ({ s with cur := a } : State).getSet n = s.getSet n := rfl
  rw [hfl, h, hs]
  split <;> rfl

/-- The tile buffer of an entry that completes is let go when nothing else holds it (R299). -/
def letGo (s : State) (n : Nat) (buf : Option Nat) : State :=
  match buf with
  | some b => if (s.tileBuf n b).released ∧ !s.bufRead n b then s.setTileBuf n b {} else s
  | none => s

theorem letGo_frame (s : State) (n : Nat) (buf : Option Nat) : s.letGo n buf = { s with sets := (s.letGo n buf).sets } := by
  unfold letGo
  split
  · split <;> rfl
  · rfl

theorem letGo_getSet (s : State) (n : Nat) (buf : Option Nat) :
    (s.letGo n buf).getSet n = { s.getSet n with bufs := ((s.letGo n buf).getSet n).bufs } := by
  unfold letGo
  split
  · split
    · rw [setTileBuf, getSet_modSet_same]
    · rfl
  · rfl

/-- The completion of an entry but for its post. -/
def engDone (s : State) (n : Nat) (e : EngEntry) : State :=
  (((s.modSet n fun k => { k with engQ := k.engQ.filter fun x => !decide (x.serial = e.serial) }).retireSb
    (.mxrd n e.serial)).raiseOn (.seq n 1) e.flags).letGo n e.buf

theorem engComplete_eq (s : State) (n : Nat) (e : EngEntry) : s.engComplete n e = match engPost e with
    | some i => (s.engDone n e).semPost n i 1
    | none => s.engDone n e := rfl

@[simp] theorem engDone_mem (s : State) (n : Nat) (e : EngEntry) : (s.engDone n e).mem = s.mem := by
  rw [engDone, letGo_frame]
  exact raiseOn_mem _ _ _

theorem engDone_thr_of_noFlags (s : State) (n : Nat) {e : EngEntry} (h : e.flags = 0) : (s.engDone n e).thr = s.thr := by
  rw [engDone, letGo_frame, h]
  rfl

theorem engDone_thread (s : State) (n : Nat) (e : EngEntry) :
    (s.engDone n e).thread (.seq n 1) = (s.thread (.seq n 1)).raised e.flags := by
  rw [engDone, letGo_frame]
  exact raiseOn_thread _ _ _

/-- Before its post the completion of an entry leaves the semaphores. -/
theorem engDone_getSet (s : State) (n : Nat) (e : EngEntry) : ((s.engDone n e).getSet n).engQ =
      (s.getSet n).engQ.filter (fun x => !decide (x.serial = e.serial)) ∧ ((s.engDone n e).getSet n).sem = (s.getSet n).sem := by
  have hset : ((s.modSet n fun k => { k with engQ := k.engQ.filter fun x => !decide (x.serial = e.serial) }).retireSb
      (.mxrd n e.serial)).getSet n = { s.getSet n with engQ := (s.getSet n).engQ.filter fun x => !decide (x.serial = e.serial) } :=
    getSet_modSet_same s n fun k => { k with engQ := k.engQ.filter fun x => !decide (x.serial = e.serial) }
  rw [engDone, letGo_getSet, raiseOn_getSet, hset]
  exact ⟨rfl, rfl⟩

end State

/-- The oldest entry of the engine queue completes: it leaves the queue, its flags reach MI, and its post is made. -/
theorem runs_engineEntryComplete {s : State} {set : Nat} {e : EngEntry} {rest : List EngEntry} (hq : (s.getSet set).engQ = e :: rest)
    (hstream : e.streaming = true) : Runs (.engineEntryComplete set) s fun t =>
      (t.getSet set).engQ = (s.getSet set).engQ.filter (fun x => !decide (x.serial = e.serial)) ∧ SameBytes s t ∧
      (e.flags = 0 → t.thr = s.thr) ∧ (e.flags ≠ 0 → t.thread (.seq set 1) = (s.thread (.seq set 1)).raised e.flags) ∧
      ∀ j, State.engPost e = some j → (t.sem set j).toNat = min ((s.sem set j).toNat + 1) 0xFFFF := by
  have hexec : exec (.engineEntryComplete set) s = .next ((s.engComplete set e).settleSet set) := by
    rw [exec_engineEntryComplete, execEngineEntryComplete, hq]
    exact if_pos hstream
  obtain ⟨hengQ, hsem⟩ := State.engDone_getSet s set e
  have hsettle := State.settleSet_coresAndDies (s.engComplete set e) set
  have hsems (j : Nat) : ((s.engComplete set e).settleSet set).sem set j = (s.engComplete set e).sem set j :=
    congrArg (fun k : SetSt => Tbl.get 0 k.sem j) (hsettle.getSet set)
  refine ⟨_, hexec, ?_⟩
  simp only [hsettle.getSet, hsettle.thr, hsettle.thread, SameBytes, hsettle.mem, hsems]
  rw [State.engComplete_eq]
  cases hpost : State.engPost e with
  | none =>
    exact ⟨hengQ, fun _ => by rw [State.engDone_mem], State.engDone_thr_of_noFlags s set, fun _ => State.engDone_thread s set e,
      fun _ h => by cases h⟩
  | some i =>
    refine ⟨?_, fun _ => by rw [State.semPost_mem, State.engDone_mem], State.engDone_thr_of_noFlags s set,
      fun _ => State.engDone_thread s set e, fun j hj => ?_⟩
    · dsimp only
      rw [State.semPost_getSet]
      exact hengQ
    · cases hj
      have hold : (s.engDone set e).sem set i = s.sem set i := by rw [State.sem, hsem]; rfl
      exact (State.semPost_sem _ set i 1).trans (by rw [hold])

/-! ### A read at the home of a sector (R205, R221) -/

namespace State

theorem putL1_coresAndDies (s : State) (c x : Nat) (v : CSec) : CoresAndDies s (s.putL1 c x v) := by
  unfold putL1
  extract_lets old new gone
  exact CoresAndDies.trans (.modCore s c fun k => { k with l1 := new }) (.foldl (fun _ _ => .modDie _ _ _) _ _)

theorem readAtHome_coresAndDies (s : State) (l n : Nat) : CoresAndDies s (s.readAtHome l n) := by
  unfold readAtHome
  split
  · exact .refl s
  · exact .foldl (fun t x => .foldl (fun t c => (putL1_coresAndDies t c x _).trans (.modDie _ _ _)) _ t) _ s

theorem ackSector_coresAndDies (h d : Nat) (s : State) (x : Nat) : CoresAndDies s (ackSector h d s x) := by
  unfold ackSector
  split
  · exact .refl s
  · have hinv : CoresAndDies s (s.invalidateL1 d x none) := .foldl (fun _ _ => .modCore _ _ _) _ s
    dsimp only
    split
    · exact hinv.trans (.modDie _ _ _)
    · exact hinv

theorem readFrom_coresAndDies (s : State) (d l n : Nat) : CoresAndDies s (s.readFrom d l n) := by
  rw [readFrom]
  refine (readAtHome_coresAndDies s l n).trans ?_
  unfold ackAt
  split
  · exact .refl _
  · split
    · exact .refl _
    · exact .foldl (fun t x => ackSector_coresAndDies _ _ t x) _ _

/-! ### The bytes and the target of a load (R180 to R184) -/

theorem loadByte_coresAndDies {s t : State} (h : CoresAndDies s t) (n va : Nat) : t.loadByte n va = s.loadByte n va := by
  rw [h]
  rfl

theorem loadSpan_coresAndDies {s t : State} (h : CoresAndDies s t) (n : Nat) (va : Word) (len : Nat) :
    t.loadSpan n va len = s.loadSpan n va len := by
  unfold loadSpan
  simp only [loadByte_coresAndDies h]

end State

/-- The state of a load's target, in the header of its slot or stage (R180, R183). -/
def SetSt.loadState (k : SetSt) : LoadTarget → Nat
  | .wb j => field (Tbl.get ({} : WbSlot) k.wb j).hdr 62 2
  | .stage j => field (Tbl.get ({} : AStage) k.stages j).hdr 62 2

theorem SetSt.loadState_congr {k k' : SetSt} (hwb : k'.wb = k.wb) (hst : k'.stages = k.stages) (t : LoadTarget) :
    k'.loadState t = k.loadState t := by
  cases t with
  | wb j => rw [loadState, hwb, loadState]
  | stage j => rw [loadState, hst, loadState]

namespace State

@[simp] theorem setLoadState_mem (s : State) (n : Nat) (t : LoadTarget) (st : Nat) : (s.setLoadState n t st).mem = s.mem := rfl
@[simp] theorem setLoadState_thr (s : State) (n : Nat) (t : LoadTarget) (st : Nat) : (s.setLoadState n t st).thr = s.thr := rfl

/-- Of a Set the state of a load's target touches its slots and stages alone. -/
theorem setLoadState_getSet (s : State) (n : Nat) (t : LoadTarget) (st : Nat) : (s.setLoadState n t st).getSet n =
    { s.getSet n with wb := ((s.setLoadState n t st).getSet n).wb, stages := ((s.setLoadState n t st).getSet n).stages } := by
  rw [setLoadState, getSet_modSet_same]
  cases t <;> rfl

theorem setLoadState_loadState (s : State) (n : Nat) (t : LoadTarget) {st : Nat} (h : st < 4) :
    ((s.setLoadState n t st).getSet n).loadState t = st := by
  rw [setLoadState, getSet_modSet_same]
  cases t with
  | wb i =>
    refine (congrArg (fun w : WbSlot => field w.hdr 62 2) (Tbl.get_put_same ({} : WbSlot) _ i _)).trans ?_
    exact field_setField_same _ (by decide) h
  | stage i =>
    refine (congrArg (fun w : AStage => field w.hdr 62 2) (Tbl.get_put_same ({} : AStage) _ i _)).trans ?_
    exact field_setField_same _ (by decide) h

/-- A slot keeps its columns and masks when its state changes. -/
theorem setLoadState_slot (s : State) (n i st : Nat) :
    let w := Tbl.get ({} : WbSlot) ((s.setLoadState n (.wb i) st).getSet n).wb i
    let w0 := Tbl.get ({} : WbSlot) (s.getSet n).wb i
    w.cols = w0.cols ∧ w.bmask = w0.bmask ∧ w.emask = w0.emask := by
  intro w w0
  have hw : w = { w0 with hdr := setField w0.hdr 62 2 st } := by
    unfold w
    rw [setLoadState, getSet_modSet_same]
    exact Tbl.get_put_same ({} : WbSlot) _ i _
  rw [hw]
  exact ⟨rfl, rfl, rfl⟩

/-- A post that may be made touches the semaphores of its Set alone. -/
theorem semPostIf_frame (s : State) (n i : Nat) (b : Bool) : let t := if b then s.semPost n i 1 else s
    t.mem = s.mem ∧ t.thr = s.thr ∧ t.core = s.core ∧ t.getSet n = { s.getSet n with sem := (t.getSet n).sem } := by
  cases b with
  | false => exact ⟨rfl, rfl, rfl, rfl⟩
  | true => exact ⟨rfl, rfl, rfl, by rw [if_pos rfl, semPost_getSet]⟩

/-- A load that leaves its queue keeps the slots and the stages, and only its own entry leaves. -/
theorem loadEnd_frame (s : State) (n : Nat) (e : LoadEntry) : (s.loadEnd n e).mem = s.mem ∧ (s.loadEnd n e).thr = s.thr ∧
    (s.loadEnd n e).core = s.core ∧ (s.loadEnd n e).getSet n = { s.getSet n with
      loadQ := (s.getSet n).loadQ.filter fun x => !decide (x.serial = e.serial), sem := ((s.loadEnd n e).getSet n).sem } := by
  obtain ⟨u, hu⟩ : ∃ u, u = s.modSet n fun k => { k with loadQ := k.loadQ.filter fun x => !decide (x.serial = e.serial) } := ⟨_, rfl⟩
  have hset : u.getSet n = { s.getSet n with loadQ := (s.getSet n).loadQ.filter fun x => !decide (x.serial = e.serial) } := by
    rw [hu, getSet_modSet_same]
  obtain ⟨i, b, heq⟩ : ∃ (i : Nat) (b : Bool), s.loadEnd n e = if b then u.semPost n i 1 else u := by
    unfold loadEnd
    rw [← hu]
    cases e.target <;> exact ⟨_, _, rfl⟩
  obtain ⟨hmem, hthr, hcore, hpost⟩ := semPostIf_frame u n i b
  rw [← heq, hset] at hpost
  rw [← heq] at hmem hthr hcore
  rw [hu] at hmem hthr hcore
  exact ⟨hmem, hthr, hcore, hpost⟩

end State

/-- Of the machine only the slots and the stages of one Set differ. -/
def SlotsOnly (n : Nat) (s t : State) : Prop :=
  t = { s with sets := t.sets } ∧ t.getSet n = { s.getSet n with wb := (t.getSet n).wb, stages := (t.getSet n).stages }

namespace SlotsOnly

theorem refl (n : Nat) (s : State) : SlotsOnly n s s := ⟨rfl, rfl⟩

theorem trans {n : Nat} {s t u : State} (h : SlotsOnly n s t) (g : SlotsOnly n t u) : SlotsOnly n s u := by
  obtain ⟨hf, hset⟩ := h
  obtain ⟨gf, gset⟩ := g
  exact ⟨by rw [gf, hf], by rw [gset, hset]⟩

theorem foldl {α : Type} {n : Nat} {f : State → α → State} (hf : ∀ s x, SlotsOnly n s (f s x)) (l : List α) :
    ∀ s, SlotsOnly n s (l.foldl f s) := by
  induction l with
  | nil => exact refl n
  | cons x l ih => exact fun s => (hf s x).trans (ih _)

theorem modSet {n : Nat} {s : State} {f : SetSt → SetSt} (h : ∀ k, f k = { k with wb := (f k).wb, stages := (f k).stages }) :
    SlotsOnly n s (s.modSet n f) := ⟨rfl, by rw [State.getSet_modSet_same]; exact h _⟩

end SlotsOnly

namespace State

theorem setLoadState_slotsOnly (s : State) (n : Nat) (t : LoadTarget) (st : Nat) : SlotsOnly n s (s.setLoadState n t st) :=
  ⟨rfl, setLoadState_getSet s n t st⟩

theorem loadPart_slotsOnly (n : Nat) (e : LoadEntry) (s : State) (p : Nat × Word × Nat × Nat × PReg) : SlotsOnly n s (loadPart n e s p) := by
  refine ⟨rfl, ?_⟩
  rw [loadPart, getSet_modSet_same]
  cases e.target <;> rfl

theorem loadTags_slotsOnly (s : State) (n : Nat) (e : LoadEntry) : SlotsOnly n s (s.loadTags n e) := by
  unfold loadTags
  split
  · exact .refl n s
  · split
    · exact .refl n s
    · exact .foldl (fun _ _ => .modSet fun _ => rfl) _ s

/-- A load of one column puts its bytes and its masks into the slot. -/
theorem loadPart_slot (s : State) (n : Nat) {e : LoadEntry} {j : Nat} (he : e.target = .wb j) (c : Nat) (va : Word) (len bm : Nat) (em : PReg) :
    let w := Tbl.get ({} : WbSlot) ((loadPart n e s (c, va, len, bm, em)).getSet n).wb j
    Tbl.get [] w.cols c = s.loadSpan n va len ∧ Tbl.get 0 w.bmask c = bm ∧ Tbl.get 0 w.emask c = em := by
  intro w
  obtain ⟨w0, hw⟩ : ∃ w0 : WbSlot, w = { w0 with
      cols := Tbl.put [] w0.cols c (s.loadSpan n va len), bmask := Tbl.put 0 w0.bmask c bm, emask := Tbl.put 0 w0.emask c em } := by
    unfold w
    rw [loadPart, getSet_modSet_same, he]
    exact ⟨_, Tbl.get_put_same ({} : WbSlot) _ j _⟩
  rw [hw]
  exact ⟨Tbl.get_put_same _ _ c _, Tbl.get_put_same _ _ c _, Tbl.get_put_same _ _ c _⟩

end State

/-! ### The events of the loader (R184) -/

section
variable {s : State} {set : Nat} {e : LoadEntry}

/-- A load starts once the earlier products of its target have completed. -/
theorem runs_weightLoadStart {rest : List LoadEntry} (hq : (s.getSet set).loadQ = e :: rest) (hnew : e.started = false)
    (hruns : s.setRuns set = true) (hbefore : (s.getSet set).engQ.any (State.mulBefore e.serial e.target) = false) :
    Runs (.weightLoadStart set) s fun t => (t.getSet set).loadState e.target = 1 ∧
      ((t.getSet set).loadQ.head?.map (·.started)) = some true ∧ t.thr = s.thr ∧ SameBytes s t := by
  have hexec : exec (.weightLoadStart set) s = .next (s.loadStart set e) := by
    rw [exec_weightLoadStart, execWeightLoadStart, hq]
    simp only [hnew, hruns, hbefore, Bool.not_true, Bool.or_self, Bool.false_eq_true, if_false]
  refine ⟨_, hexec, State.setLoadState_loadState _ set e.target (by decide), ?_, rfl, .of_mem rfl⟩
  rw [State.loadStart, State.setLoadState_getSet, State.getSet_modSet_same, hq, List.map_cons, if_pos rfl]
  rfl

/-- A load that nothing stops writes its bytes: the target is READY. -/
theorem runs_weightLoadComplete (hrun : s.loadRunning set = some (e, none)) :
    Runs (.weightLoadComplete set) s fun t => (t.getSet set).loadState e.target = 2 ∧
      (∀ x ∈ (t.getSet set).loadQ, x.serial ≠ e.serial) ∧ t.thr = s.thr ∧ SameBytes s t ∧
      ∀ j c va n bm em, e.target = .wb j → e.parts = [(c, va, n, bm, em)] →
        let w := Tbl.get ({} : WbSlot) (t.getSet set).wb j
        Tbl.get [] w.cols c = s.loadSpan set va n ∧ Tbl.get 0 w.bmask c = bm ∧ Tbl.get 0 w.emask c = em := by
  obtain ⟨u, hu, hread⟩ : ∃ u, ((s.loadPlaces set e).map (· / 32)).eraseDups.foldl (fun t x => t.readFrom (set / 8) (32 * x) 32) s = u ∧
      CoresAndDies s u := ⟨_, rfl, .foldl (fun _ _ => State.readFrom_coresAndDies _ _ _ _) _ s⟩
  have hexec : exec (.weightLoadComplete set) s = .next ((u.loadFinish set e).settleSet set) := by
    rw [exec_weightLoadComplete, execWeightLoadComplete, hrun]
    dsimp only
    rw [hu]
  obtain ⟨v, hv, hwrite⟩ : ∃ v, (e.parts.foldl (State.loadPart set e) u).loadTags set e = v ∧ SlotsOnly set u v :=
    ⟨_, rfl, SlotsOnly.trans (.foldl (State.loadPart_slotsOnly set e) _ u) (State.loadTags_slotsOnly _ set e)⟩
  have hready := State.setLoadState_slotsOnly v set e.target 2
  obtain ⟨hframe, hslots⟩ := hwrite.trans hready
  obtain ⟨hmem, hthr, -, hend⟩ := State.loadEnd_frame (v.setLoadState set e.target 2) set e
  have hsettle := State.settleSet_coresAndDies (u.loadFinish set e) set
  have hfinish : u.loadFinish set e = (v.setLoadState set e.target 2).loadEnd set e := by rw [State.loadFinish, hv]
  refine ⟨_, hexec, ?_⟩
  simp only [hsettle.getSet, hsettle.thr, SameBytes, hsettle.mem]
  rw [hfinish, hend, hmem, hthr]
  refine ⟨State.setLoadState_loadState v set e.target (by decide), fun x hx => by simpa using (List.mem_filter.1 hx).2, ?_, fun _ => ?_, ?_⟩
  · rw [hframe, ← hread.thr]
  · rw [hframe, ← hread.mem]
  · intro j c va n bm em hj hparts
    obtain ⟨hcols, hbm, hem⟩ := State.setLoadState_slot v set j 2
    have hv' : v = State.loadPart set e u (c, va, n, bm, em) := by
      rw [← hv, hparts, State.loadTags, hj]
      rfl
    obtain ⟨hc, hb, hm⟩ := State.loadPart_slot u set hj c va n bm em
    rw [hj]
    dsimp only at hcols hbm hem ⊢
    rw [hcols, hbm, hem, hv', hc, hb, hm, State.loadSpan_coresAndDies hread]
    exact ⟨rfl, rfl, rfl⟩

variable {code : BitVec 8} {va : Word} (hrun : s.loadRunning set = some (e, some (code, va))) (hroom : s.t7Full (s.coreZero set) = false)
include hrun hroom

/-- A load that meets a fault leaves its target POISON and an item for T7 of core 0 of the Set. -/
theorem runs_weightLoadFault (hcode : code ≠ Cause.partialResidency) : Runs (.weightLoadFault set) s fun t =>
    (t.getSet set).loadState e.target = 3 ∧ (∀ x ∈ (t.getSet set).loadQ, x.serial ≠ e.serial) ∧
    (t.getCore (s.coreZero set)).t7q.length = (s.getCore (s.coreZero set)).t7q.length + 1 ∧ t.thr = s.thr := by
  have hexec : exec (.weightLoadFault set) s = .next ((s.loadFault set e code va).settleSet set) := by
    rw [exec_weightLoadFault, execWeightLoadFault, hrun]
    exact if_neg hcode
  obtain ⟨-, hthr, hcore, hend⟩ := State.loadEnd_frame (s.setLoadState set e.target 3) set e
  have hcell : ((s.setLoadState set e.target 3).loadEnd set e).getCore (s.coreZero set) = s.getCore (s.coreZero set) := by
    rw [State.getCore, hcore]
    rfl
  have hfull : ((s.setLoadState set e.target 3).loadEnd set e).t7Full (s.coreZero set) = false := by
    rw [State.t7Full, hcell]
    exact hroom
  have hitem := (State.appendItem_getCore hfull code 3 2 none va 0 0 0 .nothing).1
  have hsettle := State.settleSet_coresAndDies (s.loadFault set e code va) set
  refine ⟨_, hexec, ?_⟩
  rw [hcell] at hitem
  simp only [hsettle.getSet, hsettle.thr]
  rw [State.getCore, State.settleSet_core]
  rw [State.loadFault, State.appendItem_getSet, State.appendItem_thr, hend, hthr]
  exact ⟨State.setLoadState_loadState s set e.target (by decide), fun x hx => by simpa using (List.mem_filter.1 hx).2, hitem, rfl⟩

/-- A load that meets a hole waits for T7 of core 0 of the Set. -/
theorem runs_weightLoadSuspend (hcode : code = Cause.partialResidency) : Runs (.weightLoadSuspend set) s fun t =>
    ((t.getSet set).loadQ.head?.map (·.suspended)) = some true ∧
    (t.getCore (s.coreZero set)).t7q.length = (s.getCore (s.coreZero set)).t7q.length + 1 ∧ t.thr = s.thr := by
  obtain ⟨rest, hq⟩ : ∃ rest, (s.getSet set).loadQ = e :: rest := by
    unfold State.loadRunning at hrun
    split at hrun
    · cases hrun
    · next e' rest hq =>
      split at hrun
      · have he : e' = e := congrArg Prod.fst (Option.some.inj hrun)
        exact ⟨rest, he ▸ hq⟩
      · cases hrun
  obtain ⟨u, hu⟩ : ∃ u, u = s.modSet set fun k =>
      { k with loadQ := k.loadQ.map fun x => if x.serial = e.serial then { x with suspended := true } else x } := ⟨_, rfl⟩
  have hexec : exec (.weightLoadSuspend set) s = .next (u.appendItem (u.coreZero set) code 3 2 none va 0 0 0 (.load set)) := by
    rw [exec_weightLoadSuspend, execWeightLoadSuspend, hrun, hu]
    exact if_neg (not_not_intro hcode)
  have hzero : u.coreZero set = s.coreZero set := by rw [hu]; rfl
  have hcell : u.getCore (s.coreZero set) = s.getCore (s.coreZero set) := by rw [hu]; rfl
  have hfull : u.t7Full (s.coreZero set) = false := by
    rw [State.t7Full, hcell]
    exact hroom
  have hitem := (State.appendItem_getCore hfull code 3 2 none va 0 0 0 (.load set)).1
  rw [hcell] at hitem
  refine ⟨_, hexec, ?_⟩
  simp only [hzero, State.appendItem_getSet, State.appendItem_thr]
  refine ⟨?_, hitem, by rw [hu]; rfl⟩
  rw [hu, State.getSet_modSet_same, hq, List.map_cons, if_pos rfl]
  rfl

end

/-! ### What a release leaves of the threads and the Sets (R231, R233) -/

/-- A Set without its messages: the matrix engine, the bins and the rows on their way stay. -/
def SetSt.bare (k : SetSt) : SetSt := { k with sendBuf := [], niWait := [] }

/-- Only clocks, caches and messages differ: every byte of memory, the time, the threads but for their clocks, and the Sets but for
their messages stay. -/
structure ClocksMove (s t : State) : Prop where
  mem : t.mem = s.mem
  timebase : t.timebase = s.timebase
  threads : ThreadsAre s t
  sets : ∀ n, (t.getSet n).bare = (s.getSet n).bare

namespace ClocksMove

theorem refl (s : State) : ClocksMove s s := ⟨rfl, rfl, fun _ => rfl, fun _ => rfl⟩

theorem trans {s t u : State} (h : ClocksMove s t) (g : ClocksMove t u) : ClocksMove s u :=
  ⟨g.mem.trans h.mem, g.timebase.trans h.timebase, fun a => (g.threads a).trans (h.threads a), fun n => (g.sets n).trans (h.sets n)⟩

theorem of_thr {s t : State} (hmem : t.mem = s.mem) (htime : t.timebase = s.timebase) (hthr : t.thr = s.thr) (hsets : t.sets = s.sets) :
    ClocksMove s t :=
  ⟨hmem, htime, fun a => by rw [State.thread, hthr]; rfl, fun n => by rw [State.getSet, hsets]; rfl⟩

theorem of_coresAndDies {s t : State} (h : CoresAndDies s t) : ClocksMove s t := .of_thr h.mem h.timebase h.thr (by rw [h])

section
variable {s t : State} (h : ClocksMove s t)
include h

theorem bin (n i : Nat) : t.bin n i = s.bin n i :=
  (congrArg (fun k : SetSt => Tbl.get ({} : Bin) k.bins i) (h.sets n) :)
theorem tileBuf (n i : Nat) : t.tileBuf n i = s.tileBuf n i :=
  (congrArg (fun k : SetSt => Tbl.get ({} : TileBuf) k.bufs i) (h.sets n) :)
theorem rowXfers (n : Nat) : (t.getSet n).rowXfers = (s.getSet n).rowXfers :=
  (congrArg SetSt.rowXfers (h.sets n) :)
theorem sameBytes : SameBytes s t := .of_mem h.mem

end

end ClocksMove

namespace State

theorem epochChange_clocksMove (s : State) (h : Nat) : ClocksMove s (s.epochChange h) := by
  refine ⟨rfl, rfl, fun a => ?_, fun n => ?_⟩
  · refine Tbl.get_map_proj ({} : Thread) Thread.bare _ (fun e => ?_) _ _
    refine ⟨rfl, ?_⟩
    simp only [Thread.bare, Option.map_map]
    rfl
  · refine Tbl.get_map_proj ({} : SetSt) SetSt.bare _ (fun e => ?_) _ n
    exact ⟨rfl, rfl⟩

theorem countWrites_clocksMove (s : State) (h : Nat) : ClocksMove s (s.countWrites h) := by
  unfold countWrites
  split
  · split
    · exact epochChange_clocksMove s h
    · exact .of_coresAndDies (.modDie _ _ _)
  · exact .refl s

theorem mergeClock_clocksMove (s : State) (d : Nat) (k : Clock) : ClocksMove s (s.mergeClock d k) := by
  unfold mergeClock
  split
  · exact .refl s
  · exact .of_coresAndDies (.modDie _ _ _)

theorem dropOld_clocksMove (s : State) (d : Nat) (c : Option Nat) : ClocksMove s (s.dropOld d c) :=
  .of_coresAndDies (dropOld_frame s d c)

theorem releaseOn_clocksMove (s : State) (d : Nat) : ClocksMove s (s.releaseOn d) :=
  ((countWrites_clocksMove s 0).trans (countWrites_clocksMove _ 1)).trans (mergeClock_clocksMove _ _ _)

/-- An edge agent sends straight into the mesh: of the rest of the machine only clocks move. -/
theorem edgeSend_clocksMove (s : State) (m : Msg) : ClocksMove s (s.edgeSend m) :=
  (releaseOn_clocksMove s (unitDie m.src)).trans (.of_thr rfl rfl rfl rfl)

/-- The message that an edge agent sends is the last of the mesh. -/
theorem edgeSend_last (s : State) (m : Msg) (hkind : m.kind = 4) :
    ((s.edgeSend m).mesh.getLast?.map fun x => (x.payload, x.dst, x.kind)) = some (m.payload, m.dst, 4) := by
  unfold edgeSend
  dsimp only
  rw [List.getLast?_concat, if_pos hkind, Option.map_some]
  exact congrArg (fun n => some (m.payload, m.dst, n)) hkind

end State

/-! ### The reply to a row (R271, R298) -/

theorem kind_mkHdr0 (m : Msg) {tag dh dc sh sc kind len sub : Nat} (h : m.hdr0 = mkHdr0 tag dh dc sh sc kind len sub) :
    m.kind = kind % 16 := by
  rw [Msg.kind, h, mkHdr0, ofN, field, BitVec.extractLsb'_toNat, BitVec.toNat_ofNat, Nat.shiftRight_eq_div_pow]
  omega

theorem State.rowReply_kind (s : State) (n : Nat) (x : RowXfer) (status : Nat) : (s.rowReply n x status).kind = 4 :=
  kind_mkHdr0 (kind := 4) _ rfl

/-- Row `i` has left the rows on their way with this status: its core gets the reply, and of the threads only clocks move. -/
def RowAnswered (s : State) (set i : Nat) (x : RowXfer) (t : State) (status : Nat) : Prop :=
  (t.getSet set).rowXfers = (s.getSet set).rowXfers.eraseIdx i ∧ ThreadsAre s t ∧
  (t.mesh.getLast?.map fun m => (m.payload, m.dst, m.kind)) = some ([ofN status], x.core, 4)

/-- The Montage unit answers the row that it has placed or refused. -/
theorem rowAnswered_edgeSend {s u : State} {set i : Nat} (x : RowXfer) (status : Nat) (hthr : u.thr = s.thr)
    (hrows : (u.getSet set).rowXfers = (s.getSet set).rowXfers.eraseIdx i) :
    RowAnswered s set i x (u.edgeSend (s.rowReply set x status)) status := by
  have hmove := State.edgeSend_clocksMove u (s.rowReply set x status)
  refine ⟨(hmove.rowXfers set).trans hrows, fun a => (hmove.threads a).trans ?_, ?_⟩
  · rw [State.thread, hthr]
    rfl
  · exact State.edgeSend_last u _ (State.rowReply_kind s set x status)

/-! ### Bins and tile buffers (R296 to R300) -/

namespace State

@[simp] theorem setBin_bin (s : State) (n i : Nat) (b : Bin) : (s.setBin n i b).bin n i = b := by
  rw [bin, setBin, getSet_modSet_same]
  exact Tbl.get_put_same ({} : Bin) _ i b

@[simp] theorem setTileBuf_tileBuf (s : State) (n k : Nat) (b : TileBuf) : (s.setTileBuf n k b).tileBuf n k = b := by
  rw [tileBuf, setTileBuf, getSet_modSet_same]
  exact Tbl.get_put_same ({} : TileBuf) _ k b

@[simp] theorem setTileBuf_bin (s : State) (n k i : Nat) (b : TileBuf) : (s.setTileBuf n k b).bin n i = s.bin n i := by
  rw [bin, setTileBuf, getSet_modSet_same]
  rfl

@[simp] theorem setBin_tileBuf (s : State) (n i k : Nat) (b : Bin) : (s.setBin n i b).tileBuf n k = s.tileBuf n k := by
  rw [tileBuf, setBin, getSet_modSet_same]
  rfl

@[simp] theorem setBin_rowXfers (s : State) (n i : Nat) (b : Bin) : ((s.setBin n i b).getSet n).rowXfers = (s.getSet n).rowXfers := by
  rw [setBin, getSet_modSet_same]

@[simp] theorem setTileBuf_rowXfers (s : State) (n k : Nat) (b : TileBuf) :
    ((s.setTileBuf n k b).getSet n).rowXfers = (s.getSet n).rowXfers := by
  rw [setTileBuf, getSet_modSet_same]

/-- A bin that seals into a slot that is not clear stays SEALING (R299). -/
theorem sealBin_waits (s : State) (n i cause : Nat) (h : s.reelClear (s.bin n i).hdrLoc (s.bin n i).next = false) :
    s.sealBin n i cause = s.setBin n i { s.bin n i with
      state := 3, cause := cause, closing := false, sealT := s.timebase, lastSeal := some s.timebase } := by
  unfold sealBin trySeal
  refine if_neg ?_
  rw [setBin_bin]
  rintro ⟨-, hfree⟩
  have hclear : s.reelClear (s.bin n i).hdrLoc (s.bin n i).next = true := (Bool.and_eq_true_iff.1 hfree).1
  rw [h] at hclear
  cases hclear

/-- A row that does not fill its tile stands in its buffer, and the bin counts it (R298). -/
theorem fillRow_placed (s : State) (n : Nat) (x : RowXfer) {b : Bin} (k : Nat) (hcap : b.rows + 1 ≠ b.cap) :
    ∃ u, s.fillRow n x b k = (u, 0) ∧ u.thr = s.thr ∧ u.mem = s.mem ∧ (u.getSet n).rowXfers = (s.getSet n).rowXfers ∧
      Tbl.get [] (u.tileBuf n k).rows b.rows = x.data ∧ Tbl.get 0 (u.tileBuf n k).tags b.rows = x.tag ∧
      u.bin n x.bin = { b with rows := b.rows + 1 } := by
  refine ⟨_, if_neg hcap, rfl, rfl, by simp, ?_, ?_, setBin_bin _ _ _ _⟩
  · rw [setBin_tileBuf, setTileBuf_tileBuf]
    exact Tbl.get_put_same _ _ _ _
  · rw [setBin_tileBuf, setTileBuf_tileBuf]
    exact Tbl.get_put_same _ _ _ _

/-- The last row of a tile seals it with cause FULL; the bin stays SEALING while its next slot is not clear (R298, R299). -/
theorem fillRow_full (s : State) (n : Nat) (x : RowXfer) {b : Bin} (k : Nat) (hcap : b.rows + 1 = b.cap)
    (hclear : s.reelClear b.hdrLoc b.next = false) : ∃ u, s.fillRow n x b k = (u, 1) ∧ u.thr = s.thr ∧
      (u.getSet n).rowXfers = (s.getSet n).rowXfers ∧ (u.bin n x.bin).state = 3 ∧ (u.bin n x.bin).cause = 0 := by
  refine ⟨_, if_pos hcap, ?_⟩
  rw [sealBin_waits _ n x.bin 0 (by rw [setBin_bin]; exact hclear)]
  refine ⟨rfl, by simp, ?_, ?_⟩ <;> rw [setBin_bin]

/-- Row `i` of those on their way to a Set is taken from them. -/
def takeRow (s : State) (n i : Nat) : State := s.modSet n fun k => { k with rowXfers := k.rowXfers.eraseIdx i }

theorem takeRow_getSet (s : State) (n i : Nat) : (s.takeRow n i).getSet n = { s.getSet n with rowXfers := (s.getSet n).rowXfers.eraseIdx i } :=
  getSet_modSet_same s n fun k => { k with rowXfers := k.rowXfers.eraseIdx i }

@[simp] theorem takeRow_bin (s : State) (n i j : Nat) : (s.takeRow n i).bin n j = s.bin n j := by
  rw [bin, takeRow_getSet]
  rfl

@[simp] theorem takeRow_freeBuf (s : State) (n i : Nat) : (s.takeRow n i).freeBuf n = s.freeBuf n := by
  unfold freeBuf tileBuf
  rw [takeRow_getSet]

/-- No seal of this instant takes the row of a bin that has not sealed at this instant (R302). -/
theorem lastRow_none {s : State} {n : Nat} {x : RowXfer} (h : (s.bin n x.bin).lastSeal ≠ some s.timebase) : s.lastRow n x = none := by
  have hseal : s.sealedNow (s.bin n x.bin) = none := if_pos (.inl h)
  unfold lastRow
  dsimp only
  rw [hseal]
  rfl

end State

/-! ### The arrival of a row (R298) -/

section
variable {s : State} {set i : Nat} {x : RowXfer} (hx : (s.getSet set).rowXfers[i]? = some x)
  (hfirst : (((s.getSet set).rowXfers.take i).any fun y => decide (y.core = x.core)) = false)
  (hseal : (s.bin set x.bin).lastSeal ≠ some s.timebase)
include hx hfirst hseal

/-- The oldest row of its core enters its bin, and the unit answers with the status. -/
theorem runs_montageRowArrival {u : State} {status : Nat} (henter : (s.takeRow set i).enterRow set x = (u, status)) (hthr : u.thr = s.thr)
    (hrows : (u.getSet set).rowXfers = ((s.takeRow set i).getSet set).rowXfers) {P : State → Prop}
    (hP : ∀ t, RowAnswered s set i x t status → ClocksMove u t → P t) : Runs (.montageRowArrival set i) s P := by
  have hplace : (s.takeRow set i).placeRow set x = (u, status) := by
    unfold State.placeRow
    rw [State.lastRow_none (by rw [State.takeRow_bin]; exact hseal)]
    exact henter
  have hexec : exec (.montageRowArrival set i) s = .next (((s.takeRow set i).placeRow set x).1.edgeSend
      (s.rowReply set x ((s.takeRow set i).placeRow set x).2)) := by
    rw [exec_montageRowArrival, execMontageRowArrival, hx]
    exact if_neg (by rw [hfirst]; exact Bool.false_ne_true)
  rw [hplace] at hexec
  rw [State.takeRow_getSet] at hrows
  exact ⟨_, hexec, hP _ (rowAnswered_edgeSend x status hthr hrows) (State.edgeSend_clocksMove u _)⟩

/-- A row that its bin refuses: the bin is CLOSED or SEALING, or is OPEN and no tile buffer is free. -/
theorem runs_montageRowArrival_refused {status : Nat} (henter : (s.takeRow set i).enterRow set x = (s.takeRow set i, status)) :
    Runs (.montageRowArrival set i) s fun t => RowAnswered s set i x t status ∧ t.bin set x.bin = s.bin set x.bin :=
  runs_montageRowArrival hx hfirst hseal henter rfl rfl fun t hans hmove => ⟨hans, by rw [hmove.bin, State.takeRow_bin]⟩

/-- A row that is placed: it stands in buffer `j` behind the rows before it. -/
theorem runs_montageRowArrival_placed {v : State} {b : Bin} {j : Nat}
    (henter : (s.takeRow set i).enterRow set x = v.fillRow set x b j) (hv : v.thr = s.thr ∧ v.mem = s.mem ∧
      (v.getSet set).rowXfers = ((s.takeRow set i).getSet set).rowXfers) (hcap : b.rows + 1 ≠ b.cap) :
    Runs (.montageRowArrival set i) s fun t => RowAnswered s set i x t 0 ∧
      (Tbl.get [] (t.tileBuf set j).rows b.rows = x.data ∧ Tbl.get 0 (t.tileBuf set j).tags b.rows = x.tag) ∧
      t.bin set x.bin = { b with rows := b.rows + 1 } ∧ SameBytes s t := by
  obtain ⟨hvthr, hvmem, hvrows⟩ := hv
  obtain ⟨u, hfill, hthr, hmem, hrows, hdata, htag, hbin⟩ := State.fillRow_placed v set x j hcap
  refine runs_montageRowArrival hx hfirst hseal (henter.trans hfill) (hthr.trans hvthr) (hrows.trans hvrows) fun t hans hmove => ?_
  rw [hmove.tileBuf, hmove.bin]
  exact ⟨hans, ⟨hdata, htag⟩, hbin, .of_mem (hmove.mem.trans (hmem.trans hvmem))⟩

end

namespace State

section
variable {s : State} {n : Nat} {x : RowXfer}

theorem enterRow_closed (h : (s.bin n x.bin).state = 0) : s.enterRow n x = (s, 3) := by
  unfold enterRow
  rw [if_neg (by omega)]
  dsimp only
  rw [h]
  rfl

theorem enterRow_sealing (h : (s.bin n x.bin).state = 3) : s.enterRow n x = (s, 2) := by
  unfold enterRow
  rw [if_neg (by omega)]
  dsimp only
  rw [h]
  rfl

theorem enterRow_noBuffer (h : (s.bin n x.bin).state = 1) (hfree : s.freeBuf n = none) : s.enterRow n x = (s, 2) := by
  unfold enterRow
  rw [if_neg (by omega)]
  dsimp only
  rw [h, hfree]
  rfl

theorem enterRow_open {k : Nat} (h : (s.bin n x.bin).state = 1) (hfree : s.freeBuf n = some k) :
    s.enterRow n x = (s.setTileBuf n k { held := true }).fillRow n x
      { s.bin n x.bin with state := 2, buf := some k, first := s.timebase, rows := 0 } k := by
  unfold enterRow
  rw [if_neg (by omega)]
  dsimp only
  rw [h, hfree]
  rfl

theorem enterRow_filling (h : (s.bin n x.bin).state = 2) (hdue : s.timebase.toNat < dueAt (s.bin n x.bin)) :
    s.enterRow n x = s.fillRow n x (s.bin n x.bin) ((s.bin n x.bin).buf.getD 0) := by
  unfold enterRow
  rw [if_neg (by omega)]
  dsimp only
  rw [h]
  rfl

end

end State

/-- The arriving row: refused by a CLOSED or a SEALING bin and where no tile buffer is free, placed in an OPEN or a FILLING bin, and the
last of its tile in a FILLING bin (R298). -/
theorem runs_montageRowArrival_cases {s : State} {set i : Nat} {x : RowXfer} (hx : (s.getSet set).rowXfers[i]? = some x)
    (hfirst : (((s.getSet set).rowXfers.take i).any fun y => decide (y.core = x.core)) = false)
    (hseal : (s.bin set x.bin).lastSeal ≠ some s.timebase) :
    let b := s.bin set x.bin
    let placed := fun (t : State) (j : Nat) => Tbl.get [] (t.tileBuf set j).rows b.rows = x.data ∧
      Tbl.get 0 (t.tileBuf set j).tags b.rows = x.tag ∧ (t.bin set x.bin).rows = b.rows + 1 ∧ (t.bin set x.bin).state = 2
    (b.state = 0 → Runs (.montageRowArrival set i) s fun t => RowAnswered s set i x t 3 ∧ t.bin set x.bin = b) ∧
    (b.state = 3 → Runs (.montageRowArrival set i) s fun t => RowAnswered s set i x t 2 ∧ t.bin set x.bin = b) ∧
    (b.state = 1 → s.freeBuf set = none → Runs (.montageRowArrival set i) s fun t =>
      RowAnswered s set i x t 2 ∧ t.bin set x.bin = b) ∧
    (∀ j, b.state = 1 → b.rows = 0 → s.freeBuf set = some j → b.cap ≠ 1 → Runs (.montageRowArrival set i) s fun t =>
      RowAnswered s set i x t 0 ∧ placed t j ∧ (t.bin set x.bin).first = s.timebase ∧ SameBytes s t) ∧
    (∀ j, b.state = 2 → s.timebase.toNat < State.dueAt b → b.buf = some j → b.cap ≠ b.rows + 1 →
      Runs (.montageRowArrival set i) s fun t => RowAnswered s set i x t 0 ∧ placed t j ∧ SameBytes s t) ∧
    (b.state = 2 → s.timebase.toNat < State.dueAt b → b.cap = b.rows + 1 → s.reelClear b.hdrLoc b.next = false →
      Runs (.montageRowArrival set i) s fun t =>
        RowAnswered s set i x t 1 ∧ (t.bin set x.bin).state = 3 ∧ (t.bin set x.bin).cause = 0) := by
  intro b placed
  have hbin : (s.takeRow set i).bin set x.bin = b := State.takeRow_bin _ _ _ _
  have hbuf : (s.takeRow set i).freeBuf set = s.freeBuf set := State.takeRow_freeBuf _ _ _
  refine ⟨fun h0 => ?closed, fun h3 => ?sealing, fun h1 hfree => ?noBuffer, fun j h1 hrows hfree hcap => ?opened,
    fun j h2 hdue hj hcap => ?filling, fun h2 hdue hcap hclear => ?full⟩
  case closed => exact runs_montageRowArrival_refused hx hfirst hseal (State.enterRow_closed (by rw [hbin]; exact h0))
  case sealing => exact runs_montageRowArrival_refused hx hfirst hseal (State.enterRow_sealing (by rw [hbin]; exact h3))
  case noBuffer =>
    exact runs_montageRowArrival_refused hx hfirst hseal (State.enterRow_noBuffer (by rw [hbin]; exact h1) (by rw [hbuf]; exact hfree))
  case opened =>
    have henter := State.enterRow_open (s := s.takeRow set i) (x := x) (by rw [hbin]; exact h1) (hbuf.trans hfree)
    rw [hbin] at henter
    obtain ⟨t, hexec, hans, ⟨hdata, htag⟩, ht, hmem⟩ := runs_montageRowArrival_placed hx hfirst hseal henter
      ⟨rfl, rfl, State.setTileBuf_rowXfers _ _ _ _⟩ (Ne.symm hcap)
    refine ⟨t, hexec, hans, ⟨?_, ?_, ?_, ?_⟩, ?_, hmem⟩
    · rw [hrows]; exact hdata
    · rw [hrows]; exact htag
    · rw [ht, hrows]
    · rw [ht]
    · rw [ht]; rfl
  case filling =>
    have henter := State.enterRow_filling (s := s.takeRow set i) (x := x) (by rw [hbin]; exact h2) (by rw [hbin]; exact hdue)
    rw [hbin, hj] at henter
    obtain ⟨t, hexec, hans, ⟨hdata, htag⟩, ht, hmem⟩ := runs_montageRowArrival_placed hx hfirst hseal henter ⟨rfl, rfl, rfl⟩ (Ne.symm hcap)
    exact ⟨t, hexec, hans, ⟨hdata, htag, by rw [ht], by rw [ht]; exact h2⟩, hmem⟩
  case full =>
    have henter := State.enterRow_filling (s := s.takeRow set i) (x := x) (by rw [hbin]; exact h2) (by rw [hbin]; exact hdue)
    rw [hbin] at henter
    obtain ⟨u, hfill, hthr, hrows, hstate, hcause⟩ := State.fillRow_full (s.takeRow set i) set x (b := b) (b.buf.getD 0) hcap.symm hclear
    refine runs_montageRowArrival hx hfirst hseal (henter.trans hfill) hthr hrows fun t hans hmove => ?_
    rw [hmove.bin]
    exact ⟨hans, hstate, hcause⟩

/-! ### Words in memory -/

@[simp] theorem length_leBytes (n v : Nat) : (leBytes n v).length = n := by
  induction n generalizing v with
  | zero => rfl
  | succ n ih => rw [leBytes, List.length_cons, ih]

@[simp] theorem length_wordBytes (w : Word) : (wordBytes w).length = 8 := length_leBytes 8 _

theorem leNat_leBytes (n v : Nat) : leNat (leBytes n v) = v % 256 ^ n := by
  induction n generalizing v with
  | zero => rw [leBytes, leNat, Nat.pow_zero, Nat.mod_one]
  | succ n ih =>
    have hmod : v % 256 ^ (n + 1) = v % 256 + 256 * (v / 256 % 256 ^ n) := by rw [Nat.pow_succ', Nat.mod_mul]
    rw [leBytes, leNat, ih, BitVec.toNat_ofNat, hmod]

@[simp] theorem bytesWord_wordBytes (w : Word) : bytesWord (wordBytes w) = w := by
  refine BitVec.eq_of_toNat_eq ?_
  rw [bytesWord, wordBytes, leNat_leBytes, ofN, BitVec.toNat_ofNat]
  have := w.isLt
  omega

namespace Memory

/-- A run of what was written is read back. -/
theorem readN_writeN_append (m : List Host.Cell) (l : Nat) (a b c : List Byte) :
    readN (writeN m l (a ++ (b ++ c))) (l + a.length) b.length = b := by
  apply List.ext_getElem
  · simp [readN]
  · intro i h1 h2
    simp only [readN, List.getElem_map, List.getElem_range, Nat.add_assoc]
    rw [read_writeN_inside _ _ _ _ (by simp only [List.length_append]; omega)]
    simp [h2]

/-- A run of bytes apart from those that were written reads as before. -/
theorem readN_writeN_apart (m : List Host.Cell) (l : Nat) (bs : List Byte) {k n : Nat} (h : k + n ≤ l ∨ l + bs.length ≤ k) :
    readN (writeN m l bs) k n = readN m k n := by
  refine List.map_congr_left fun i hi => read_writeN_outside _ _ _ _ ?_
  rw [List.mem_range] at hi
  omega

end Memory

/-! ### A fill of a reel slot (R289) -/

namespace State

section
variable {s t : State} {h : Nat} (hw : ∀ i, i < 8 → t.reelWord h i = s.reelWord h i)
include hw

/-- What a reel says of its slots stands in the doublewords of its header. -/
theorem reel_congr : t.reelN h = s.reelN h ∧ t.reelRp h = s.reelRp h ∧ t.reelFill h = s.reelFill h ∧
    (∀ i, t.reelPos h i = s.reelPos h i) ∧ ∀ i, t.reelClear h i = s.reelClear h i := by
  have hn : t.reelN h = s.reelN h := by rw [reelN, hw 0 (by decide), reelN]
  have hrp : t.reelRp h = s.reelRp h := by rw [reelRp, hw 1 (by decide), reelRp]
  have hfill : t.reelFill h = s.reelFill h := by rw [reelFill, hw 3 (by decide), hw 2 (by decide), reelFill]
  have hpos (i : Nat) : t.reelPos h i = s.reelPos h i := by rw [reelPos, hn, hrp, reelPos]
  refine ⟨hn, hrp, hfill, hpos, fun i => ?_⟩
  rw [reelClear, reelValid, hw 1 (by decide), hn, hpos, hfill, reelClear, reelValid]

end

/-- A write apart from a header leaves its doublewords. -/
theorem reelWord_of_writeN {s t : State} {h l : Nat} {bs : List Byte} (hmem : t.mem = Memory.writeN s.mem l bs)
    (hapart : l + bs.length ≤ h ∨ h + 64 ≤ l) (i : Nat) (hi : i < 8) : t.reelWord h i = s.reelWord h i := by
  rw [reelWord, hmem, Memory.readN_writeN_apart _ _ _ (by omega), reelWord]

/-- The bytes of doublewords 1 to 7 of a header, as the unit writes them (R288). -/
theorem putReel_mem (s : State) (h rp : Nat) (fill psn : BitVec 128) : ∃ w, (s.putReel h rp fill psn).mem =
    Memory.writeN s.mem (h + 8) (wordsBytes [w, fill.extractLsb' 0 64, fill.extractLsb' 64 64,
      psn.extractLsb' 0 64, psn.extractLsb' 64 64, 0, 0]) :=
  ⟨_, putBytes_mem _ _ _⟩

theorem putReel_fill (s : State) (h rp : Nat) (fill psn : BitVec 128) : (s.putReel h rp fill psn).reelFill h = fill := by
  obtain ⟨w, hmem⟩ := putReel_mem s h rp fill psn
  have hbytes : wordsBytes [w, fill.extractLsb' 0 64, fill.extractLsb' 64 64, psn.extractLsb' 0 64, psn.extractLsb' 64 64, 0, 0] =
      wordBytes w ++ (wordBytes (fill.extractLsb' 0 64) ++ (wordBytes (fill.extractLsb' 64 64) ++
        wordsBytes [psn.extractLsb' 0 64, psn.extractLsb' 64 64, 0, 0])) := rfl
  have hlow : (s.putReel h rp fill psn).reelWord h 2 = fill.extractLsb' 0 64 := by
    have hread := Memory.readN_writeN_append s.mem (h + 8) (wordBytes w) (wordBytes (fill.extractLsb' 0 64))
      (wordBytes (fill.extractLsb' 64 64) ++ wordsBytes [psn.extractLsb' 0 64, psn.extractLsb' 64 64, 0, 0])
    rw [← hbytes, ← hmem, length_wordBytes, length_wordBytes] at hread
    exact (congrArg bytesWord hread).trans (bytesWord_wordBytes _)
  have hhigh : (s.putReel h rp fill psn).reelWord h 3 = fill.extractLsb' 64 64 := by
    have hread := Memory.readN_writeN_append s.mem (h + 8) (wordBytes w ++ wordBytes (fill.extractLsb' 0 64))
      (wordBytes (fill.extractLsb' 64 64)) (wordsBytes [psn.extractLsb' 0 64, psn.extractLsb' 64 64, 0, 0])
    rw [List.append_assoc, ← hbytes, ← hmem, List.length_append, length_wordBytes, length_wordBytes, length_wordBytes] at hread
    exact (congrArg bytesWord hread).trans (bytesWord_wordBytes _)
  rw [reelFill, hlow, hhigh]
  refine BitVec.eq_of_getLsbD_eq fun i hi => ?_
  rw [BitVec.getLsbD_append]
  split
  case isTrue hlt => rw [BitVec.getLsbD_extractLsb', decide_eq_true hlt, Bool.true_and, Nat.zero_add]
  case isFalse hge => rw [BitVec.getLsbD_extractLsb', decide_eq_true (by omega), Bool.true_and, Nat.add_sub_cancel' (by omega)]

/-- A fill of a clear slot sets its FILL bit, and writes of memory the header's doublewords 1 to 7 alone. -/
theorem fillSlot_clear {s : State} {h i : Nat} (hclear : s.reelClear h i = true) :
    UnitWrite s (s.fillSlot h i false) ∧ bitAt ((s.fillSlot h i false).reelFill h) (s.reelPos h i) = true ∧
    ∃ bs, bs.length = 56 ∧ (s.fillSlot h i false).mem = Memory.writeN s.mem (h + 8) bs := by
  have heq : s.fillSlot h i false = s.putReel h (s.reelRp h) (s.reelFill h ||| BitVec.ofNat 128 (2 ^ s.reelPos h i)) (s.reelPsn h) :=
    if_pos hclear
  have hpos : s.reelPos h i < 128 := by
    simp only [reelClear, Bool.and_eq_true, decide_eq_true_eq] at hclear
    omega
  rw [heq, putReel_fill]
  obtain ⟨w, hmem⟩ := putReel_mem s h (s.reelRp h) (s.reelFill h ||| BitVec.ofNat 128 (2 ^ s.reelPos h i)) (s.reelPsn h)
  refine ⟨putBytes_unitWrite _ _ _, ?_, _, ?_, hmem⟩
  · rw [bitAt, BitVec.getLsbD_or, BitVec.getLsbD_ofNat, Nat.testBit_two_pow_self, decide_eq_true hpos]
    simp
  · simp [wordsBytes]

/-- A fill by a unit: of memory it writes the header's doublewords 1 to 7, and of the threads only clocks move. -/
theorem fillSlotOn_clear {s : State} (d : Nat) {h i : Nat} (hclear : s.reelClear h i = true) :
    ThreadsAre s (s.fillSlotOn d h i false) ∧ bitAt ((s.fillSlotOn d h i false).reelFill h) (s.reelPos h i) = true ∧
    ∃ bs, bs.length = 56 ∧ (s.fillSlotOn d h i false).mem = Memory.writeN s.mem (h + 8) bs := by
  obtain ⟨u, hu, hmove⟩ : ∃ u, ((s.mergeClock d (s.reelClock h 1)).dropOld d none).releaseOn d = u ∧ ClocksMove s u :=
    ⟨_, rfl, ((mergeClock_clocksMove s d _).trans (dropOld_clocksMove _ d none)).trans (releaseOn_clocksMove _ d)⟩
  have hwords (i : Nat) (_ : i < 8) : u.reelWord h i = s.reelWord h i := by rw [reelWord, hmove.mem, reelWord]
  obtain ⟨-, -, -, hpos, hcl⟩ := reel_congr hwords
  obtain ⟨hwrite, hbit, bs, hlen, hmem⟩ := fillSlot_clear ((hcl i).trans hclear)
  rw [hpos] at hbit
  rw [hmove.mem] at hmem
  have heq : s.fillSlotOn d h i false = (u.fillSlot h i false).joinReelClock h 0 (u.vcOf d) := by rw [fillSlotOn, hu]
  rw [heq]
  refine ⟨fun a => Eq.trans ?_ (hmove.threads a), hbit, bs, hlen, hmem⟩
  rw [thread, joinReelClock, hwrite.thr]
  rfl

end State

/-! ### The seal of a tile (R299) -/

section
variable {s : State} {set bin : Nat}

/-- A FILLING bin whose timeout has passed seals with cause TIMEOUT; it stays SEALING while its next slot is not clear. -/
theorem runs_binTimeout (hstate : (s.bin set bin).state = 2)
    (hdue : (s.bin set bin).first.toNat + 10 * (s.bin set bin).tmo ≤ s.timebase.toNat)
    (hclear : s.reelClear (s.bin set bin).hdrLoc (s.bin set bin).next = false) : Runs (.binTimeout set bin) s fun t =>
      (t.bin set bin).state = 3 ∧ (t.bin set bin).cause = 1 ∧ (t.bin set bin).sealT = s.timebase ∧
      (t.bin set bin).rows = (s.bin set bin).rows ∧ t.thr = s.thr ∧ SameBytes s t := by
  have hexec : exec (.binTimeout set bin) s = .next (s.sealBin set bin 1) := by
    rw [exec_binTimeout, execBinTimeout]
    exact if_pos ⟨hstate, hdue⟩
  rw [State.sealBin_waits s set bin 1 hclear] at hexec
  refine ⟨_, hexec, ?_⟩
  beta_reduce
  rw [State.setBin_bin]
  exact ⟨rfl, rfl, rfl, rfl, rfl, .of_mem rfl⟩

theorem length_tileDesc (i : Nat) (b : Bin) : (wordsBytes (State.tileDesc i b)).length = 32 := by
  simp [wordsBytes, State.tileDesc]

/-- A descriptor goes into a slot of its memory. -/
theorem putSlot_mem {h i : Nat} {bs : List Byte} (hfit : s.reelSlot h i + bs.length ≤ memSize h) :
    (s.putSlot h i bs).thr = s.thr ∧ (s.putSlot h i bs).mem = Memory.writeN s.mem (memBase h + s.reelSlot h i) bs := by
  rw [State.putSlot, if_pos hfit]
  exact ⟨(State.putBytes_unitWrite _ _ _).thr, State.putBytes_mem _ _ _⟩

/-- After the descriptor and its fill a seal changes the tile buffer and the bin alone. -/
theorem placeSeal_frame (s : State) (n i : Nat) :
    let b := s.bin n i
    let u := (s.putSlot b.hdrLoc b.next (wordsBytes (State.tileDesc i b))).fillSlotOn (n / 8) b.hdrLoc b.next false
    (s.placeSeal n i).thr = u.thr ∧ (s.placeSeal n i).mem = u.mem ∧ (s.placeSeal n i).bin n i = { b with
      state := if b.closing then 0 else 1, next := (b.next + 1) % s.reelN b.hdrLoc, sealNo := (b.sealNo + 1) % 2 ^ 24
      rows := 0, buf := none, first := 0, closing := false } := by
  intro b u
  refine ⟨?_, ?_, State.setBin_bin _ _ _ _⟩
  · unfold State.placeSeal
    dsimp only
    split <;> rfl
  · unfold State.placeSeal
    dsimp only
    split <;> rfl

/-- A SEALING bin whose next slot is free completes its seal: the descriptor stands in the slot, whose FILL bit is set, and the bin goes
on to the next slot. -/
theorem runs_sealComplete (hstate : (s.bin set bin).state = 3) (hfree : s.reelFree (s.bin set bin).hdrLoc (s.bin set bin).next = true)
    (hfit : s.reelSlot (s.bin set bin).hdrLoc (s.bin set bin).next + 32 ≤ memSize (s.bin set bin).hdrLoc) :
    let b := s.bin set bin
    let slot := memBase b.hdrLoc + s.reelSlot b.hdrLoc b.next
    slot + 32 ≤ b.hdrLoc ∨ b.hdrLoc + 64 ≤ slot → Runs (.sealComplete set bin) s fun t =>
      (t.bin set bin).state = (if b.closing then 0 else 1) ∧ (t.bin set bin).rows = 0 ∧ (t.bin set bin).buf = none ∧
      (t.bin set bin).next = (b.next + 1) % s.reelN b.hdrLoc ∧ ThreadsAre s t ∧
      Memory.readN t.mem slot 32 = wordsBytes (State.tileDesc bin b) ∧
      bitAt (t.reelFill b.hdrLoc) (s.reelPos b.hdrLoc b.next) = true := by
  intro b slot hapart
  have hexec : exec (.sealComplete set bin) s = .next (s.placeSeal set bin) := by
    rw [exec_sealComplete, execSealComplete, State.trySeal]
    exact congrArg _ (if_pos ⟨hstate, hfree⟩)
  have hlen := length_tileDesc bin b
  obtain ⟨hthr1, hmem1⟩ := putSlot_mem (s := s) (h := b.hdrLoc) (i := b.next) (bs := wordsBytes (State.tileDesc bin b))
    (by rw [hlen]; exact hfit)
  obtain ⟨-, -, -, hpos, hcl⟩ := State.reel_congr (State.reelWord_of_writeN hmem1 (by rw [hlen]; exact hapart))
  have hclear : s.reelClear b.hdrLoc b.next = true := (Bool.and_eq_true_iff.1 hfree).1
  obtain ⟨hthreads, hbit, bs, hbs, hmem2⟩ := State.fillSlotOn_clear (set / 8) ((hcl b.next).trans hclear)
  rw [hpos] at hbit
  obtain ⟨hthr, hmem, hbin⟩ := placeSeal_frame s set bin
  obtain ⟨-, -, hfill, -, -⟩ := State.reel_congr (h := b.hdrLoc) fun i _ => congrArg (fun m => bytesWord (Memory.readN m (b.hdrLoc + 8 * i) 8)) hmem
  refine ⟨_, hexec, ?_⟩
  beta_reduce
  rw [hbin]
  refine ⟨rfl, rfl, rfl, rfl, fun a => ?_, ?_, ?_⟩
  · refine Eq.trans ?_ ((hthreads a).trans ?_)
    · exact congrArg (fun l => (Tbl.get ({} : Thread) l a.key).bare) hthr
    · exact congrArg (fun l => (Tbl.get ({} : Thread) l a.key).bare) hthr1
  · rw [hmem, hmem2, Memory.readN_writeN_apart _ _ _ (by omega), hmem1, ← hlen]
    exact Memory.readN_writeN_same _ _ _
  · rw [hfill]
    exact hbit

end

/-- Settles O49: the sequencers, the engine queue, the loader and the Montage unit, event by event. -/
theorem setEvents : Obligations.SetEvents := by
  unfold Obligations.SetEvents
  intro s set q i bin
  refine ⟨?program, ?start, ?complete, ?loadStart, ?loadComplete, ?loadStop, ?row, ?timeout, ?sealing⟩
  case program => exact fun e rest hq hfork hfree hcur hruns => runs_sequencerProgramStart hq hfork hfree hcur hruns
  case start =>
    refine fun e hhead hruns => ⟨fun tl hop => runs_engineEntryStart_zero hhead hruns hop, ?_⟩
    exact fun tl wb cfg op6 op7 hop hmet hsrc hw hg hwf hgf _ hn =>
      runs_engineEntryStart_mul hhead hruns hop hmet hsrc hw hg hwf hgf hn
  case complete => exact fun e rest hq hstream => runs_engineEntryComplete hq hstream
  case loadStart => exact fun e rest hq hnew hruns hbefore => runs_weightLoadStart hq hnew hruns hbefore
  case loadComplete => exact fun e hrun => runs_weightLoadComplete hrun
  case loadStop =>
    exact fun e code va hrun hroom => ⟨fun hcode => runs_weightLoadFault hrun hroom hcode, fun hcode => runs_weightLoadSuspend hrun hroom hcode⟩
  case row => exact fun x hx hfirst hseal => runs_montageRowArrival_cases hx hfirst hseal
  case timeout => exact fun hstate hdue hclear => runs_binTimeout hstate hdue hclear
  case sealing => exact fun hstate hfree hfit hapart => runs_sealComplete hstate hfree hfit hapart

end Sys2Proof.Machine

/-! SUPPORT. The integer instructions (O1 to O3): the words of their results, bit by bit, and the division of R119. -/

namespace Sys2Proof.Machine

/-! ### Words of results (R2, R116) -/

theorem b2w_ult (v w : Word) : b2w (v.ult w) = if v.toNat < w.toNat then 1 else 0 := by
  simp [b2w, BitVec.ult_iff_toNat_lt]

theorem b2w_beq (v w : Word) : b2w (v == w) = if v = w then 1 else 0 := by simp [b2w]

theorem ite_slt (v w a b : Word) : (if v.slt w then a else b) = if v.toInt < w.toInt then a else b := by
  simp only [BitVec.slt_iff_toInt_lt]

theorem ite_ult (v w a b : Word) : (if v.ult w then a else b) = if v.toNat < w.toNat then a else b := by
  simp only [BitVec.ult_iff_toNat_lt]

/-- The low bits of a word, read as a field. -/
theorem setWidth_eq_low {n : Nat} (h : n ≤ 64) (w : Word) : w.setWidth n = w.extractLsb' 0 n := BitVec.setWidth_eq_extractLsb' h

/-- The upper immediate of LUI and ADDPC is a multiple of 8,192 (R118). -/
theorem upperImm_eq (u : BitVec 19) : (u ++ (0 : BitVec 13)).signExtend 64 = u.signExtend 64 * 8192 := by
  rw [show (8192 : Word) = BitVec.twoPow 64 13 from rfl, ← BitVec.shiftLeft_eq_mul_twoPow]
  refine BitVec.eq_of_getLsbD_eq fun i hi => ?_
  rw [BitVec.getLsbD_signExtend, BitVec.getLsbD_shiftLeft, BitVec.getLsbD_signExtend, BitVec.getLsbD_append, BitVec.msb_append]
  by_cases hlow : i < 13
  · simp [hlow, show i < 32 by omega]
  · have hlen : (i < 19 + 13) = (i - 13 < 19) := by rw [eq_iff_iff]; omega
    simp [hlow, hi, hlen, show i - 13 < 64 by omega]

/-- Settles O1: each instruction is one write of X[d] with the result of its rule, then the completion. -/
theorem integerResults : Obligations.IntegerResults := by
  unfold Obligations.IntegerResults
  intro s d a b n
  exact ⟨runs_setReg (exec_add ..) rfl, runs_setReg (exec_sub ..) rfl,
    runs_setReg (exec_addw ..) (by rw [sextW, setWidth_eq_low (by decide)]; rfl),
    runs_setReg (exec_subw ..) (by rw [sextW, setWidth_eq_low (by decide)]; rfl),
    runs_setReg (exec_and ..) rfl, runs_setReg (exec_or ..) rfl, runs_setReg (exec_xor ..) rfl,
    runs_setReg (exec_andn ..) rfl, runs_setReg (exec_orn ..) rfl,
    runs_setReg (exec_sll ..) (by rw [shamt_eq]), runs_setReg (exec_srl ..) (by rw [shamt_eq]),
    runs_setReg (exec_sra ..) (by rw [shamt_eq]), runs_setReg (exec_rol ..) (by rw [shamt_eq]),
    runs_setReg (exec_ror ..) (by rw [shamt_eq]),
    runs_setReg (exec_slt ..) (b2w_slt _ _).symm, runs_setReg (exec_sltu ..) (b2w_ult _ _).symm,
    runs_setReg (exec_seq ..) (b2w_beq _ _).symm,
    runs_setReg (exec_min ..) (ite_slt _ _ _ _).symm, runs_setReg (exec_max ..) (ite_slt _ _ _ _).symm,
    runs_setReg (exec_minu ..) (ite_ult _ _ _ _).symm, runs_setReg (exec_maxu ..) (ite_ult _ _ _ _).symm,
    runs_setReg (exec_clz ..) rfl, runs_setReg (exec_ctz ..) rfl, runs_setReg (exec_popc ..) rfl,
    runs_setReg (exec_brev ..) rfl, runs_setReg (exec_bswap ..) rfl,
    runs_setReg (exec_sextB ..) (by rw [setWidth_eq_low (by decide)]; rfl),
    runs_setReg (exec_sextH ..) (by rw [setWidth_eq_low (by decide)]; rfl),
    runs_setReg (exec_sextW ..) (by rw [sextW, setWidth_eq_low (by decide)]; rfl),
    runs_setReg (exec_zextB ..) (by rw [setWidth_eq_low (by decide)]; rfl),
    runs_setReg (exec_zextH ..) (by rw [setWidth_eq_low (by decide)]; rfl),
    runs_setReg (exec_zextW ..) (by rw [setWidth_eq_low (by decide)]; rfl),
    runs_setReg (exec_shadd ..) rfl⟩

/-! ### Bits (R116) -/

/-- CLZ: every bit above the leading one is 0. -/
theorem clz64_bits (w : Word) : clz64 w ≤ 64 ∧ (∀ i, i < 64 → 64 - clz64 w ≤ i → w.getLsbD i = false) ∧
    (clz64 w < 64 → w.getLsbD (63 - clz64 w) = true) := by
  unfold clz64
  by_cases h : w = 0
  · simp [h]
  · have hne : w.toNat ≠ 0 := fun e => h (BitVec.eq_of_toNat_eq e)
    have hlog : w.toNat.log2 < 64 := (Nat.log2_lt hne).2 w.isLt
    rw [if_neg h]
    refine ⟨by omega, fun i hi hle => ?_, fun _ => ?_⟩
    · refine Nat.testBit_lt_two_pow (lt_of_lt_of_le Nat.lt_log2_self (Nat.pow_le_pow_right (by decide) ?_))
      omega
    · rw [show 63 - (63 - w.toNat.log2) = w.toNat.log2 by omega]
      exact Nat.testBit_log2 hne

/-- CTZ: every bit below the trailing one is 0. -/
theorem ctz64_bits (w : Word) : ctz64 w ≤ 64 ∧ (∀ i, i < ctz64 w → w.getLsbD i = false) ∧
    (ctz64 w < 64 → w.getLsbD (ctz64 w) = true) := by
  unfold ctz64 lowBit
  cases hfind : (List.range 64).find? fun i => w.toNat.testBit i with
  | none =>
    rw [List.find?_eq_none] at hfind
    exact ⟨le_refl _, fun i hi => Bool.eq_false_of_not_eq_true (hfind i (List.mem_range.2 hi)), fun h => absurd h (lt_irrefl _)⟩
  | some k =>
    obtain ⟨hbit, hmem, hbelow⟩ := List.find?_range_eq_some.1 hfind
    exact ⟨(List.mem_range.1 hmem).le, fun i hi => by simpa only [Bool.not_eq_true'] using (show (!w.getLsbD i) = true from hbelow i hi), fun _ => hbit⟩

/-- POPC counts the places of the set bits. -/
theorem popNat_eq (n v : Nat) : popNat n v = ((List.range n).filter v.testBit).length := by
  induction n generalizing v with
  | zero => rfl
  | succ n ih =>
    have htail : ((fun i => v.testBit i) ∘ Nat.succ) = (v / 2).testBit := funext fun i => Nat.testBit_succ v i
    rw [popNat, ih, List.range_succ_eq_map, List.filter_cons, List.filter_map, htail, Nat.testBit_zero]
    obtain h | h := Nat.mod_two_eq_zero_or_one v <;> simp [h, Nat.add_comm]

/-- The reversal of the low `n` bits, at the top of a doubleword. -/
def revLow (w : Word) (n : Nat) : Nat := (List.range n).foldl (fun r i => if bitAt w i then r + 2 ^ (63 - i) else r) 0

/-- One bit more comes in below the bits reversed before. -/
theorem revLow_succ (w : Word) (n : Nat) : revLow w (n + 1) = if bitAt w n then revLow w n + 2 ^ (63 - n) else revLow w n := by
  rw [revLow, List.range_succ, List.foldl_append]
  rfl

theorem testBit_revLow (w : Word) {n : Nat} (hn : n ≤ 64) : 2 ^ (64 - n) ∣ revLow w n ∧
    ∀ j, j < 64 → (revLow w n).testBit j = (decide (64 - n ≤ j) && w.getLsbD (63 - j)) := by
  induction n with
  | zero => exact ⟨by simp [revLow], fun j hj => by simp [revLow, show ¬64 ≤ j by omega]⟩
  | succ n ih =>
    obtain ⟨⟨q, hq⟩, hbits⟩ := ih (by omega)
    have hpow : 2 ^ (64 - n) = 2 ^ (64 - (n + 1)) * 2 := by rw [← pow_succ]; congr 1; omega
    have hplace : 63 - n = 64 - (n + 1) := by omega
    rw [revLow_succ]
    by_cases hbit : bitAt w n = true
    · rw [if_pos hbit, hplace]
      refine ⟨⟨q * 2 + 1, by rw [hq, hpow]; ring⟩, fun j hj => ?_⟩
      rw [hq, Nat.testBit_two_pow_mul_add _ (Nat.pow_lt_pow_right (by decide) (by omega)), Nat.testBit_two_pow]
      have hold := hbits j hj
      rw [hq, Nat.testBit_two_pow_mul] at hold
      by_cases hlow : j < 64 - n
      · by_cases hj' : 64 - (n + 1) = j
        · have : 63 - j = n := by omega
          simp only [hlow, if_true, hj', le_refl, decide_true, Bool.true_and, this]
          exact hbit.symm
        · rw [if_pos hlow, decide_eq_false hj', decide_eq_false (show ¬64 - (n + 1) ≤ j by omega), Bool.false_and]
      · rw [if_neg hlow, decide_eq_true (show 64 - (n + 1) ≤ j by omega), Bool.true_and]
        simpa [show 64 - n ≤ j by omega] using hold
    · rw [if_neg hbit]
      refine ⟨⟨q * 2, by rw [hq, hpow]; ring⟩, fun j hj => ?_⟩
      rw [hbits j hj]
      by_cases hj' : 63 - j = n
      · rw [hj', show w.getLsbD n = false from Bool.eq_false_of_not_eq_true hbit, Bool.and_false, Bool.and_false]
      · rw [show decide (64 - n ≤ j) = decide (64 - (n + 1) ≤ j) from decide_eq_decide.2 (by omega)]

/-- BREV reverses the order of the bits. -/
theorem getLsbD_revBits (w : Word) {i : Nat} (hi : i < 64) : (revBits w).getLsbD i = w.getLsbD (63 - i) := by
  obtain ⟨-, hbits⟩ := testBit_revLow w (le_refl 64)
  show (BitVec.ofNat 64 (revLow w 64)).getLsbD i = _
  rw [BitVec.getLsbD_ofNat, hbits i hi]
  simp [hi]

/-! ### Bytes (R2) -/

theorem leNat_eq_foldr (l : List Byte) : leNat l = l.foldr (fun b r => b.toNat + 2 ^ 8 * r) 0 := by
  induction l with
  | nil => rfl
  | cons b l ih => rw [leNat, ih]; rfl

/-- Byte `j` of the word of a list of bytes. -/
theorem byte_bytesWord (l : List Byte) {j : Nat} (hj : j < 8) : (bytesWord l).extractLsb' (8 * j) 8 = (l[j]?).getD 0 := by
  refine BitVec.eq_of_getLsbD_eq fun i hi => ?_
  rw [BitVec.getLsbD_extractLsb', bytesWord, ofN, BitVec.getLsbD_ofNat, leNat_eq_foldr,
    testBit_digits BitVec.toNat (fun b => b.isLt) l j hi]
  cases l[j]? with
  | none => simp
  | some b =>
    rw [decide_eq_true hi, decide_eq_true (show 8 * j + i < 64 by omega)]
    rfl

/-- Byte `j` of a number written in bytes. -/
theorem leBytes_getElem? {n j : Nat} (hj : j < n) (v : Nat) : (leBytes n v)[j]? = some (BitVec.ofNat 8 (v / 256 ^ j)) := by
  induction n generalizing v j with
  | zero => omega
  | succ n ih =>
    rw [leBytes]
    cases j with
    | zero => simp
    | succ j => rw [List.getElem?_cons_succ, ih (by omega), Nat.div_div_eq_div_mul, pow_succ, Nat.mul_comm]

theorem wordBytes_getElem? (w : Word) {j : Nat} (hj : j < 8) : (wordBytes w)[j]? = some (w.extractLsb' (8 * j) 8) := by
  rw [wordBytes, leBytes_getElem? hj, show (256 : Nat) = 2 ^ 8 from rfl, ← pow_mul, ← Nat.shiftRight_eq_div_pow]
  rfl

/-- BSWAP reverses the order of the bytes. -/
theorem byte_swapped (w : Word) {j : Nat} (hj : j < 8) :
    (bytesWord (wordBytes w).reverse).extractLsb' (8 * j) 8 = w.extractLsb' (8 * (7 - j)) 8 := by
  have hlen : (wordBytes w).length = 8 := length_wordBytes w
  rw [byte_bytesWord _ hj, List.getElem?_reverse (by omega), hlen, show 8 - 1 - j = 7 - j by omega, wordBytes_getElem? w (by omega)]
  rfl

/-- The word of a shift by an immediate, field by field (R48, R117). -/
theorem shiftWord_eq (d a : BitVec 5) (sel : BitVec 2) (n : BitVec 6) :
    Enc.full (iWord 0xC6#8 d a (sel ++ 0#6 ++ n)) = Enc.full (0xC6#8 ++ d ++ a ++ sel ++ 0#6 ++ n) := by
  unfold iWord
  simp only [BitVec.append_assoc, BitVec.cast_eq]

/-- Settles O2: the immediate forms are writes of X[d]; the bit operations are read off their definitions bit by bit. -/
theorem immediateAndBitResults : Obligations.ImmediateAndBitResults := by
  unfold Obligations.ImmediateAndBitResults
  refine ⟨fun s d a i n u => ?_, fun w => ⟨clz64_bits w, ctz64_bits w, popNat_eq 64 w.toNat, fun i => getLsbD_revBits w,
    fun j => byte_swapped w⟩⟩
  exact ⟨runs_setReg (exec_addi ..) rfl, runs_setReg (exec_andi ..) rfl, runs_setReg (exec_ori ..) rfl,
    runs_setReg (exec_xori ..) rfl, runs_setReg (exec_slli ..) rfl, runs_setReg (exec_srli ..) rfl,
    runs_setReg (exec_srai ..) rfl, runs_setReg (exec_rori ..) rfl, runs_setReg (exec_slti ..) (b2w_slt _ _).symm,
    runs_setReg (exec_sltiu ..) (b2w_ult _ _).symm, runs_setReg (exec_lui ..) (upperImm_eq u).symm,
    runs_setReg (exec_addpc ..) (by rw [upperImm_eq]), rfl, rfl, rfl, rfl, rfl, rfl,
    shiftWord_eq d a 0 n, shiftWord_eq d a 1 n, shiftWord_eq d a 2 n, shiftWord_eq d a 3 n⟩

/-! ### Division (R119) -/

/-- Where the quotient exists and fits, DIV gives it and REM its remainder (R119). -/
theorem divS_remS_of_fits {a b : Word} (hb : b ≠ 0) (h : ¬(a.toInt = -2 ^ 63 ∧ b.toInt = -1)) :
    (divS a b).toInt = a.toInt.tdiv b.toInt ∧ (remS a b).toInt = a.toInt.tmod b.toInt := by
  have hcorner : ¬(a = 0x8000000000000000 ∧ b = BitVec.allOnes 64) := by
    rintro ⟨rfl, rfl⟩
    exact h ⟨rfl, rfl⟩
  have hword : a ≠ BitVec.intMin 64 ∨ b ≠ -1#64 := Classical.not_and_iff_not_or_not.1 hcorner
  rw [divS, remS, if_neg hb, if_neg hcorner, if_neg (not_or.2 ⟨hb, hcorner⟩)]
  constructor
  · rw [← BitVec.toInt_sdiv_of_ne_or_ne a b hword, ofI, BitVec.ofInt_toInt]
  · rw [← BitVec.toInt_srem, ofI, BitVec.ofInt_toInt]

/-- The corner where the quotient does not fit (R119). -/
theorem corner_of_toInt {a b : Word} (ha : a.toInt = -2 ^ 63) (hb : b.toInt = -1) :
    a = 0x8000000000000000 ∧ b = BitVec.allOnes 64 :=
  ⟨BitVec.eq_of_toInt_eq ha, BitVec.eq_of_toInt_eq hb⟩

/-- DIV by 0 saturates toward the sign of A, 0/0 toward the positive end (R119). -/
theorem divS_zero (a : Word) : divS a 0 = if a.toInt < 0 then 0x8000000000000000 else 0x7FFFFFFFFFFFFFFF := by
  rw [divS, if_pos rfl, ite_slt]
  rfl

/-- The unsigned quotient and its remainder, of a divisor that is not 0 (R119). -/
theorem divU_remU_of_ne {a b : Word} (hb : b ≠ 0) : (divU a b).toNat = a.toNat / b.toNat ∧ (remU a b).toNat = a.toNat % b.toNat := by
  have hlt := a.isLt
  rw [divU, remU, if_neg hb, if_neg hb]
  exact ⟨Nat.mod_eq_of_lt (lt_of_le_of_lt (Nat.div_le_self _ _) hlt), Nat.mod_eq_of_lt (lt_of_le_of_lt (Nat.mod_le _ _) hlt)⟩

/-- Settles O3: products and MADD are writes of X[d]; the quotients by their corners, else as the library's division. -/
theorem multiplyDivideResults : Obligations.MultiplyDivideResults := by
  unfold Obligations.MultiplyDivideResults
  refine ⟨fun s d a b => ?words, fun A B => ⟨?_, ?_, ?_, ?_, fun hb h => ?_, fun hb => ?_⟩⟩
  case words =>
    exact ⟨runs_setReg (exec_mul ..) rfl, runs_setReg (exec_mulh ..) rfl, runs_setReg (exec_mulhu ..) rfl,
      runs_setReg (exec_mulhsu ..) rfl, runs_setReg (exec_mulw ..) (by rw [sextW, setWidth_eq_low (by decide)]; rfl),
      runs_setReg (exec_div ..) rfl, runs_setReg (exec_divu ..) rfl, runs_setReg (exec_rem ..) rfl,
      runs_setReg (exec_remu ..) rfl, runs_setReg (exec_madd ..) rfl, rfl, rfl, rfl, rfl, rfl, rfl, rfl, rfl, rfl, rfl⟩
  case refine_1 => rintro rfl h; exact (divS_zero A).trans (if_neg (by omega))
  case refine_2 => rintro rfl h; exact (divS_zero A).trans (if_pos h)
  case refine_3 => rintro rfl; exact ⟨rfl, if_pos (.inl rfl), rfl⟩
  case refine_4 =>
    intro ha hb
    obtain ⟨rfl, rfl⟩ := corner_of_toInt ha hb
    exact ⟨rfl, rfl⟩
  case refine_5 =>
    obtain ⟨hdiv, hrem⟩ := divS_remS_of_fits hb h
    rw [hdiv, hrem]
    exact ⟨rfl, (Int.mul_tdiv_add_tmod _ _).symm⟩
  case refine_6 =>
    obtain ⟨hdiv, hrem⟩ := divU_remU_of_ne hb (a := A)
    rw [hdiv, hrem]
    exact ⟨rfl, (Nat.div_add_mod _ _).symm⟩

end Sys2Proof.Machine

/-! SUPPORT. Transfers of control, the hardware loop and the issue choice (O9, O10). -/

namespace Sys2Proof.Machine

/-! ### Transfers (R46, R49, R122, R123) -/

/-- An offset counted in halfwords (R49). -/
theorem halfwords_eq {n : Nat} (o : BitVec n) : halfwords o = o.signExtend 64 * 2 := BitVec.shiftLeft_eq_mul_twoPow _ 1

/-- A transfer that links nothing: as one that links x0 (R112, R122). -/
theorem jumped_jump (s : State) (v target : Word) : Jumped s 0 v target (s.jump target) := by
  refine ⟨State.onlyMe_modMe s _, ?_, fun r => ?_, congrArg Thread.pc (State.me_jump s target), ?_⟩
  · rw [Thread.KeepsRest, State.me_jump]
  · rw [State.x, State.me_jump, Thread.withX]
    split
    case isTrue h => rw [h]; rfl
    case isFalse => rfl
  · rw [State.me_jump]

/-- A branch by its condition (R122, R124). -/
theorem runs_branch {i : Instr} {s : State} {taken : Bool} {n len : Nat} {o : BitVec n} {cond : Prop}
    (hexec : exec i s = s.branch taken (halfwords o) len) (hcond : taken = true ↔ cond) :
    (cond → Runs i s (Jumped s 0 0 (s.pc + o.signExtend 64 * 2))) ∧ (¬cond → Runs i s (Advanced s len)) := by
  rw [State.branch, halfwords_eq] at hexec
  constructor <;> intro h
  · rw [if_pos (hcond.2 h)] at hexec
    exact ⟨_, hexec, jumped_jump s 0 _⟩
  · rw [if_neg (mt hcond.1 h)] at hexec
    exact ⟨_, hexec, advanced_adv s len⟩

theorem runs_link {i : Instr} {s : State} {d : BitVec 5} {target : Word} {len : Nat} (hexec : exec i s = s.link d target len) :
    Runs i s (Jumped s d (s.pc + ofN len) target) := ⟨_, hexec, jumped_link s d _ target⟩

/-- A register-relative transfer to an even target (R46, R123). -/
theorem runs_linkReg_even {i : Instr} {s : State} {d : BitVec 5} {target : Word} {len : Nat}
    (hexec : exec i s = s.linkReg d target len) (h : target.getLsbD 0 = false) : Runs i s (Jumped s d (s.pc + ofN len) target) := by
  rw [State.linkReg, bitAt, h] at hexec
  exact runs_link hexec

/-- A register-relative transfer to an odd target (R46, R123). -/
theorem runs_linkReg_odd {i : Instr} {s : State} {d : BitVec 5} {target : Word} {len : Nat} (hserv : Servable s)
    (hexec : exec i s = s.linkReg d target len) (h : target.getLsbD 0 = true) : Runs i s (HeldByTrap s Cause.misaligned target) := by
  rw [State.linkReg, bitAt, h] at hexec
  exact runs_trapOut hexec hserv (by decide) (by decide)

theorem not_slt_iff (v w : Word) : (!v.slt w) = true ↔ w.toInt ≤ v.toInt := by
  rw [Bool.not_eq_true', ← Bool.not_eq_true, BitVec.slt_iff_toInt_lt, not_lt]

theorem not_ult_iff (v w : Word) : (!v.ult w) = true ↔ w.toNat ≤ v.toNat := by
  rw [Bool.not_eq_true', ← Bool.not_eq_true, BitVec.ult_iff_toNat_lt, not_lt]

/-- The bit that BBS and BBC test (R122). -/
theorem bitAt_shamt (v w : Word) : bitAt v (shamt w) = v.getLsbD (w.toNat % 64) := by rw [bitAt, shamt_eq]

/-- Settles O9: each transfer by its condition or its target. -/
theorem controlTransfers : Obligations.ControlTransfers := by
  unfold Obligations.ControlTransfers
  refine ⟨fun s a b o c => ?branches, fun s d a i o c => ?jumps⟩
  case branches =>
    exact ⟨runs_branch (exec_beq ..) beq_iff_eq, runs_branch (exec_bne ..) bne_iff_ne,
      runs_branch (exec_blt ..) BitVec.slt_iff_toInt_lt, runs_branch (exec_bge ..) (not_slt_iff _ _),
      runs_branch (exec_bltu ..) BitVec.ult_iff_toNat_lt, runs_branch (exec_bgeu ..) (not_ult_iff _ _),
      runs_branch (exec_bbs ..) (by rw [bitAt_shamt]), runs_branch (exec_bbc ..) (by rw [bitAt_shamt, Bool.not_eq_true']),
      runs_branch (exec_cBeqz ..) beq_iff_eq, runs_branch (exec_cBnez ..) bne_iff_ne, rfl, rfl, rfl, rfl, rfl, rfl, rfl, rfl⟩
  case jumps =>
    refine ⟨?_, ?_, ?_, runs_linkReg_even (exec_jalr ..), runs_linkReg_even (exec_cJmpr ..), runs_linkReg_even (exec_cCallr ..),
      fun hserv => runs_linkReg_odd hserv (exec_jalr ..), fun hserv h ins hins => ?odd⟩
    case odd =>
      simp only [List.mem_cons, List.not_mem_nil, or_false] at hins
      obtain rfl | rfl := hins
      · exact runs_linkReg_odd hserv (exec_cJmpr ..) h
      · exact runs_linkReg_odd hserv (exec_cCallr ..) h
    all_goals rw [← halfwords_eq]
    · exact runs_link (exec_jal ..)
    · exact runs_link (exec_cJ ..)
    · exact runs_link (exec_cJal ..)

/-! ### What a fetch keeps (R199, R211) -/

/-- No x register of any thread and no byte of memory differs. -/
def KeepsRegisters (s t : State) : Prop := t.cur = s.cur ∧ t.mem = s.mem ∧ ∀ a, (t.thread a).x = (s.thread a).x

theorem KeepsRegisters.refl (s : State) : KeepsRegisters s s := ⟨rfl, rfl, fun _ => rfl⟩

theorem KeepsRegisters.trans {s t u : State} (h : KeepsRegisters s t) (g : KeepsRegisters t u) : KeepsRegisters s u := by
  obtain ⟨hcur, hmem, hx⟩ := h
  obtain ⟨gcur, gmem, gx⟩ := g
  exact ⟨gcur.trans hcur, gmem.trans hmem, fun a => (gx a).trans (hx a)⟩

theorem CachesOnly.keepsRegisters {s t : State} (h : CachesOnly s t) : KeepsRegisters s t := by
  obtain ⟨hframe, hthr, -, -⟩ := h
  exact ⟨by rw [hframe], by rw [hframe], fun a => by rw [hthr a]⟩

theorem KeepsRegisters.modThread (s : State) (a : Agent) {f : Thread → Thread} (hf : ∀ t, (f t).x = t.x) :
    KeepsRegisters s (s.modThread a f) := by
  refine ⟨rfl, rfl, fun b => ?_⟩
  by_cases h : b.key = a.key
  · have e : ∀ u : State, u.thread b = u.thread a := fun u => by rw [State.thread, h]; rfl
    rw [e, e, State.thread_modThread_same, hf]
  · rw [State.thread_modThread_other _ _ h]

/-- Memory's part in a fetch: the I-cache may be filled, and the caches of the home take note (R199, R212). -/
theorem State.sectorFor_keepsRegisters {s t : State} {a : Agent} {acc : Acc} {va : Word} {again : Bool} {v : ICVer}
    (h : s.sectorFor a acc va again = .ok (t, v)) : KeepsRegisters s t := by
  unfold State.sectorFor at h
  split at h
  · cases h
  · cases a with
    | seq n q =>
      cases hread : s.readSector (.seq n q) acc va with
      | error e => rw [hread] at h; cases h
      | ok bs => rw [hread] at h; cases h; exact .refl s
    | thr c tid =>
      dsimp only at h
      split at h
      · cases h; exact .refl s
      · cases hread : s.readSector (.thr c tid) acc va with
        | error e => rw [hread] at h; cases h
        | ok bs => rw [hread] at h; cases h; exact (State.readFrom_caches _ _ _ _).keepsRegisters.trans ⟨rfl, rfl, fun _ => rfl⟩

theorem State.fetchBlock_keepsRegisters {s t : State} {a : Agent} {va : Word} {bs : List Byte}
    (h : s.fetchBlock a va = .ok (t, bs)) : KeepsRegisters s t := by
  unfold State.fetchBlock at h
  split at h
  · cases h; exact .refl s
  · unfold State.fillBuf at h
    cases hplace : s.fetchPlace a va with
    | error e => rw [hplace] at h; cases h
    | ok acc =>
      cases hsec : (s.useRtb a va.toNat 2 kindX).sectorFor a acc va false with
      | error e => rw [hplace] at h; simp only [bind, Except.bind, hsec] at h; cases h
      | ok r =>
        rw [hplace] at h
        simp only [bind, Except.bind, hsec] at h
        cases h
        exact (State.useRtb_caches _ _ _ _ _).keepsRegisters.trans
          ((State.sectorFor_keepsRegisters hsec).trans (.modThread _ _ fun _ => rfl))

/-! ### LOOP (R124) -/

/-- LOOP with a count opens the loop frame. -/
theorem runs_loopI_open {s : State} {d : BitVec 5} (i : BitVec 14) (h : s.x d ≠ 0) : Runs (.loopI d i) s fun t => OnlyMe s t ∧
    t.me = { s.me with
      loopStart := s.pc + 4, loopLast := s.pc + i.signExtend 64 * 2, loopReg := d, loopActive := true, pc := s.pc + 4 } := by
  refine ⟨_, (exec_loopI ..).trans (if_neg h), State.onlyMe_modMe s _, ?_⟩
  rw [State.me_modMe, halfwords_eq]
  rfl

/-- LOOP with count 0 goes past the last instruction. -/
theorem runs_loopI_skip {s s1 : State} {d : BitVec 5} {i : BitVec 14} {bs : List Byte} (h : s.x d = 0)
    (hfetch : s.fetchBlock s.cur (s.pc + i.signExtend 64 * 2) = .ok (s1, bs)) : Runs (.loopI d i) s fun t =>
      t.pc = s.pc + i.signExtend 64 * 2 +
        (if (halfAt bs ((s.pc + i.signExtend 64 * 2).toNat % 32)).extractLsb' 14 2 = 3 then 4 else 2) ∧
      t.me.loopActive = false ∧ (∀ r, t.x r = s.x r) ∧ SameBytes s t := by
  obtain ⟨hcur, hmem, hx⟩ := State.fetchBlock_keepsRegisters hfetch
  rw [← halfwords_eq] at hfetch ⊢
  have hexec := exec_loopI d i s
  rw [execLoopI] at hexec
  rw [if_pos h, hfetch] at hexec
  refine ⟨_, hexec, ?_, ?_, fun r => ?_, .of_mem hmem⟩
  · rw [State.pc, State.me_modMe]
    simp [isLong]
  · rw [State.me_modMe]
  · rw [State.x, State.me_modMe, State.x]
    have hme : s1.me.x = s.me.x := by rw [State.me, hcur]; exact hx _
    show Thread.getX _ r = _
    unfold Thread.getX
    rw [← hme]

/-! ### The issue choice (R37, R58) -/

/-- The choice among T0 to T5, when neither T7 nor T6 is ready. -/
theorem State.choose_act {s : State} {c i : Nat} (h : s.choose c = some (.thr c i)) (hi : i < 6) :
    s.ready (.thr c 7) = false ∧ s.ready (.thr c 6) = false ∧ s.ready (.thr c i) = true ∧
      ((s.thread (.thr c i)).yielded = true → ∀ k, k < 6 → s.ready (.thr c k) = true → (s.thread (.thr c k)).yielded = true) := by
  unfold State.choose at h
  by_cases h7 : s.ready (.thr c 7) = true
  · rw [if_pos h7] at h
    cases h
    omega
  by_cases h6 : s.ready (.thr c 6) = true
  · rw [if_neg h7, if_pos h6] at h
    cases h
    omega
  rw [if_neg h7, if_neg h6] at h
  refine ⟨Bool.eq_false_of_not_eq_true h7, Bool.eq_false_of_not_eq_true h6, ?_⟩
  dsimp only at h
  generalize hok : (((List.range 6).map fun i => ((s.getCore c).rr + i) % 6).filter fun i => s.ready (.thr c i)) = ok at h
  have hmem : ∀ k, k ∈ ok ↔ k < 6 ∧ s.ready (.thr c k) = true := by
    intro k
    rw [← hok, List.mem_filter, List.mem_map]
    refine and_congr_left fun _ => ⟨?_, fun hk => ⟨(k + 6 - (s.getCore c).rr % 6) % 6, ?_, ?_⟩⟩
    · rintro ⟨j, -, rfl⟩
      exact Nat.mod_lt _ (by decide)
    · exact List.mem_range.2 (Nat.mod_lt _ (by decide))
    · omega
  split at h
  case h_1 k hfind =>
    cases h
    have hnot := List.find?_some hfind
    refine ⟨((hmem i).1 (List.mem_of_find?_eq_some hfind)).2, fun hy => ?_⟩
    rw [hy] at hnot
    cases hnot
  case h_2 hfind =>
    rw [List.find?_eq_none] at hfind
    obtain ⟨k, hk, heq⟩ := Option.map_eq_some_iff.1 h
    cases heq
    refine ⟨((hmem i).1 (List.mem_of_mem_head? hk)).2, fun _ j hj hready => ?_⟩
    simpa using hfind j ((hmem j).2 ⟨hj, hready⟩)

/-- Settles O10: LOOP by its count, YIELD, and the issue choice in the order of its three stages. -/
theorem loopAndYield : Obligations.LoopAndYield := by
  unfold Obligations.LoopAndYield
  refine ⟨fun s d i => ⟨runs_loopI_open i, fun h s1 bs => runs_loopI_skip h⟩, fun s => ?yield, fun s c => ⟨?t7, ?t6, fun i => State.choose_act⟩⟩
  case yield =>
    have hact : (decide (s.cur.tid < 6) && s.cur.isThr) = s.cur.isAct := by
      cases s.cur with
      | thr c t => exact Bool.and_true _
      | seq n q => rfl
    obtain ⟨honly, hme⟩ := threadStep_adv s (fun t => { t with yielded := decide (s.cur.tid < 6) && s.cur.isThr }) 2
    exact ⟨_, exec_yield s, honly, by rw [hme, hact]⟩
  case t7 => exact fun h => if_pos h
  case t6 =>
    intro h7 h6
    rw [State.choose, if_neg (by simp [h7]), if_pos h6]

end Sys2Proof.Machine

/-! SUPPORT. Traps, the checks of the issuer and the system instructions (O13, O19, O20). -/

namespace Sys2Proof.Machine

/-! ### The item of a trap (R390, R391) -/

/-- A field of the word of a number. -/
theorem field_ofN (n : Nat) {lo width : Nat} (h : lo + width ≤ 64) : field (ofN n) lo width = n / 2 ^ lo % 2 ^ width := by
  refine Nat.eq_of_testBit_eq fun i => ?_
  unfold field ofN
  rw [BitVec.testBit_toNat, BitVec.getLsbD_extractLsb', BitVec.getLsbD_ofNat, Nat.testBit_mod_two_pow, Nat.testBit_div_two_pow, Nat.add_comm i]
  by_cases hi : i < width
  · simp [hi, show lo + i < 64 by omega]
  · simp [hi]

/-- The item word names the code of a trap and its thread. -/
theorem field_itemWord (code sub : BitVec 8) {tid : Nat} (htid : tid < 8) :
    field (State.itemWord code sub 0 tid) 56 8 = code.toNat ∧ field (State.itemWord code sub 0 tid) 40 3 = tid := by
  have hcode := code.isLt
  have hsub := sub.isLt
  rw [State.itemWord, field_ofN _ (by decide), field_ofN _ (by decide)]
  constructor <;> omega

theorem UnitWrite.t7q {s t : State} (h : UnitWrite s t) (c : Nat) : (t.getCore c).t7q = (s.getCore c).t7q := by
  obtain ⟨-, hcore, -⟩ := h
  rw [hcore c]

namespace State

/-- What T7's queue gets when an item finds room: the item behind the others, under its word (R391). -/
theorem appendItem_last {s : State} {c : Nat} (hfull : s.t7Full c = false) (code sub : BitVec 8) (kind : Nat) (thr : Option Nat)
    (tval epc actid actst : Word) (ref : ItemRef) :
    ∃ it, ((s.appendItem c code sub kind thr tval epc actid actst ref).getCore c).t7q = (s.getCore c).t7q ++ [it] ∧
      it.kind = kind ∧ it.thr = thr ∧ it.act = actid ∧ it.word = itemWord code sub kind (thr.getD 0) := by
  unfold appendItem enterItem
  dsimp only
  rw [hfull, if_neg Bool.false_ne_true]
  refine ⟨_, Eq.trans (congrArg Core.t7q (getCore_modCore_same _ c _)) (congrArg (· ++ _) ((s.putUlm_unitWrite c _ _).t7q c)), ?_⟩
  exact ⟨rfl, rfl, rfl, rfl⟩

/-- A precise trap that T7 serves and that no range caused (R388, R390). -/
theorem raise_supervisor {s : State} {c tid len : Nat} {code : BitVec 8} {tval : Word} (hcur : s.cur = .thr c tid) (htid : tid < 7)
    (hfull : s.t7Full c = false) (hoff : bitAt (s.getCore c).ckstat 16 = false) (huser : userLevel s.me code = false)
    (hcode : code ∉ [Cause.uncorrectable, Cause.permission, Cause.partialResidency, Cause.worldViolation]) :
    s.raise ⟨code, tval, 0⟩ len = (s.leaveLines (.thr c tid)).supervisorTrap c tid false code 0 tval s.pc := by
  simp only [List.mem_cons, List.not_mem_nil, or_false, not_or] at hcode
  obtain ⟨hunc, hperm, hres, hworld⟩ := hcode
  rw [me, hcur] at huser
  unfold raise
  dsimp only
  rw [if_neg hunc, if_neg (by simp [hperm, hres, hworld]), hcur]
  exact takeTrap_supervisor false 0 tval s.pc htid huser hfull hoff

end State

/-- T7's queue of core `c` gets one item, for a trap of thread `tid` with this code (R390, R391). -/
def TrapItem (s : State) (c tid : Nat) (code : BitVec 8) (t : State) : Prop :=
  (t.getCore c).t7q.length = (s.getCore c).t7q.length + 1 ∧
  ∃ it, (t.getCore c).t7q.getLast? = some it ∧ it.kind = 0 ∧ it.thr = some tid ∧ it.act = s.me.actid ∧
    field it.word 56 8 = code.toNat ∧ field it.word 40 3 = tid

/-- Such a trap holds its thread and gives T7 one item (R388 to R391). -/
theorem raise_trapItem {s : State} {c tid : Nat} (len : Nat) {code : BitVec 8} (tval : Word) (hcur : s.cur = .thr c tid) (htid : tid < 7)
    (hfull : s.t7Full c = false) (hoff : bitAt (s.getCore c).ckstat 16 = false) (huser : State.userLevel s.me code = false)
    (hcode : code ∉ [Cause.uncorrectable, Cause.permission, Cause.partialResidency, Cause.worldViolation]) :
    HeldByTrap s code tval (s.raise ⟨code, tval, 0⟩ len) ∧ TrapItem s c tid code (s.raise ⟨code, tval, 0⟩ len) := by
  have hserv : Servable s := by
    unfold Servable
    rw [hcur]
    exact ⟨rfl, htid, hfull, hoff⟩
  refine ⟨State.raise_heldByTrap len hserv (fun h => hcode (by simp [h])) huser, ?_⟩
  rw [State.raise_supervisor hcur htid hfull hoff huser hcode, State.supervisorTrap]
  have haccounts := s.leaveLines_accounts (.thr c tid)
  obtain ⟨hword, hthr⟩ := field_itemWord code 0 (show tid < 8 by omega)
  rw [State.thread_modThread_same, haccounts.thread]
  generalize hs1 : (s.leaveLines (.thr c tid)).modThread (.thr c tid) _ = s1
  have hcore : s1.getCore c = (s.leaveLines (.thr c tid)).getCore c := hs1 ▸ rfl
  have hfull1 : s1.t7Full c = false := by
    rw [State.t7Full, hcore, haccounts.t7q, haccounts.t7cur]
    exact hfull
  obtain ⟨it, hq, hkind, hthread, hact, hitem⟩ := State.appendItem_last hfull1 code 0 0 (some tid) tval s.pc (s.thread (.thr c tid)).actid
    (s.thread (.thr c tid)).actst .nothing
  unfold TrapItem
  rw [hq, hcore, haccounts.t7q, List.length_append, List.getLast?_concat, State.me, hcur]
  refine ⟨rfl, it, rfl, hkind, hthread, hact, ?_, ?_⟩
  · rw [hitem]; exact hword
  · rw [hitem]; exact hthr

/-- Settles O19: the three instructions raise their causes, and the trap taken is the one of `raise_trapItem`. -/
theorem trapsTaken : Obligations.TrapsTaken := by
  unfold Obligations.TrapsTaken
  intro s c tid a w e held hcur htid hfull hoff
  have hraise : ∀ (len : Nat) (code : BitVec 8) (tval : Word), code ∈ [Cause.syscall, Cause.breakpoint, Cause.illegalInstruction] →
      HeldByTrap s code tval (s.raise ⟨code, tval, 0⟩ len) ∧ TrapItem s c tid code (s.raise ⟨code, tval, 0⟩ len) := by
    intro len code tval hmem
    simp only [List.mem_cons, List.not_mem_nil, or_false] at hmem
    obtain rfl | rfl | rfl := hmem <;>
      exact raise_trapItem len tval hcur htid hfull hoff (State.userLevel_eq_false _ (by decide)) (by decide)
  refine ⟨⟨_, ?trap, hraise 4 _ _ (by simp)⟩, fun hgroups => ⟨_, ?brk, hraise 2 _ _ (by simp)⟩, ⟨_, rfl, hraise 4 _ _ (by simp)⟩⟩
  case trap =>
    rw [exec_trap, execTrap, if_neg]
    · rfl
    · simp [hcur, Agent.isT7, Agent.isSeq, show tid ≠ 7 by omega]
  case brk =>
    have hnone : s.brkGroups s.cur.dieNo (s.coreHgm c) = [] := by
      rw [hcur, State.brkGroups, ← hgroups, State.groupsOf, List.filter_filter, Agent.dieNo, Agent.setNo, Nat.div_div_eq_div_mul]
      simp only [Bool.and_comm]
    rw [exec_brk, execBrk]
    dsimp only
    rw [hcur] at hnone ⊢
    dsimp only
    rw [hnone]
    rfl

/-! ### UTRET and WAIT (R132, R133) -/

theorem runs_utret {s : State} (h7 : s.cur.isT7 = false) (hthr : s.cur.isThr = true) (heven : s.me.utepc.getLsbD 0 = false) :
    Runs .utret s fun t => OnlyMe s t ∧ t.me = { s.me with pc := s.me.utepc, cellBusy := false } := by
  refine ⟨(s.jump s.me.utepc).modMe fun t => { t with cellBusy := false }, ?_,
    (State.onlyMe_modMe s _).trans (State.onlyMe_modMe (s.jump s.me.utepc) _), ?_⟩
  · rw [exec_utret, execUtret, if_neg (by simp [h7, State.isSeq_of_isThr hthr]), bitAt, heven]
    rfl
  · rw [State.me_modMe]
    exact congrArg (fun t : Thread => { t with cellBusy := false }) (State.me_jump s _)

/-- A thread blocked by its own instruction (R19). -/
theorem waits_blockOn (s : State) (w : Wait) : ∃ t, s.blockOn w = .next t ∧ Waits s w t :=
  ⟨_, rfl, State.onlyMe_modMe s _, State.me_modMe s _⟩

section
variable {s : State} {a : BitVec 5}

/-- WAIT by an agent that may wait for a time: whether it is met (R133). -/
theorem exec_waitI_eq (h6 : s.cur.isT6 = false) (hseq : s.cur.isSeq = false) : exec (.waitI a) s =
    if s.timeMet s.cur (s.x a) s.cur.isT7 (s.cur.isT7 && decide (a = 0)) then .next (s.adv 4)
    else s.blockOn { kind := .time (s.x a) s.cur.isT7 (s.cur.isT7 && decide (a = 0)) } := by
  rw [exec_waitI, execWaitI, h6, hseq]
  rfl

theorem runs_waitI_met (h6 : s.cur.isT6 = false) (hseq : s.cur.isSeq = false)
    (hmet : s.timeMet s.cur (s.x a) s.cur.isT7 (s.cur.isT7 && decide (a = 0)) = true) : Runs (.waitI a) s (Advanced s 4) :=
  ⟨_, (exec_waitI_eq h6 hseq).trans (if_pos hmet), advanced_adv s 4⟩

theorem runs_waitI_waits (h6 : s.cur.isT6 = false) (hseq : s.cur.isSeq = false)
    (hmet : s.timeMet s.cur (s.x a) s.cur.isT7 (s.cur.isT7 && decide (a = 0)) = false) :
    Runs (.waitI a) s (Waits s { kind := .time (s.x a) s.cur.isT7 (s.cur.isT7 && decide (a = 0)) }) := by
  obtain ⟨t, hblock, hwaits⟩ := waits_blockOn s { kind := .time (s.x a) s.cur.isT7 (s.cur.isT7 && decide (a = 0)) }
  exact ⟨t, ((exec_waitI_eq h6 hseq).trans (if_neg (by rw [hmet]; decide))).trans hblock, hwaits⟩

end

/-- An activation thread is neither T6 nor T7 nor a sequencer (R18). -/
theorem Agent.of_isAct {a : Agent} (h : a.isAct = true) : a.isT6 = false ∧ a.isT7 = false ∧ a.isSeq = false := by
  cases a with
  | seq n q => cases h
  | thr c t =>
    have ht : t < 6 := of_decide_eq_true h
    exact ⟨decide_eq_false (by omega), decide_eq_false (by omega), rfl⟩

/-- WAIT by an activation: the time alone counts (R133). -/
theorem runs_waitI_act {s : State} {a : BitVec 5} (hact : s.cur.isAct = true) :
    ((s.x a).toNat ≤ s.timebase.toNat → Runs (.waitI a) s (Advanced s 4)) ∧
    (s.timebase.toNat < (s.x a).toNat → Runs (.waitI a) s (Waits s { kind := .time (s.x a) false false })) := by
  obtain ⟨h6, h7, hseq⟩ := Agent.of_isAct hact
  constructor <;> intro h
  · refine runs_waitI_met h6 hseq ?_
    simp [State.timeMet, h7, h]
  · have hwaits := runs_waitI_waits (a := a) h6 hseq (by simp [State.timeMet, h7, h])
    rwa [h7, Bool.false_and] at hwaits

/-- WAIT by T7: a service item ends it too, and with x0 for the time alone (R133). -/
theorem runs_waitI_t7 {s : State} {c : Nat} {a : BitVec 5} (hcur : s.cur = .thr c 7) :
    ((a ≠ 0 ∧ (s.x a).toNat ≤ s.timebase.toNat) ∨ (s.getCore c).t7q ≠ [] → Runs (.waitI a) s (Advanced s 4)) ∧
    ((s.getCore c).t7q = [] → a = 0 ∨ s.timebase.toNat < (s.x a).toNat →
      Runs (.waitI a) s (Waits s { kind := .time (s.x a) true (a == 0) })) := by
  have h6 : s.cur.isT6 = false := by rw [hcur]; rfl
  have h7 : s.cur.isT7 = true := by rw [hcur]; rfl
  have hseq : s.cur.isSeq = false := by rw [hcur]; rfl
  have hcore : s.cur.coreNo = c := by rw [hcur]; rfl
  refine ⟨fun h => runs_waitI_met h6 hseq ?_, fun hempty h => ?_⟩
  · rw [State.timeMet, h7, hcore]
    obtain ⟨ha, htime⟩ | hitem := h
    · simp [htime, show ¬a = 0#5 from ha]
    · simp [hitem]
  · have hwaits := runs_waitI_waits (a := a) h6 hseq (by
      rw [State.timeMet, h7, hcore, hempty]
      obtain ha | htime := h
      · simp [ha]
      · simp [htime])
    rwa [h7, Bool.true_and, ← beq_eq_decide] at hwaits

/-! ### SCANRUN (R136) -/

theorem Thread.is_refl (t : Thread) : t.Is t := rfl

/-- A change of the executing thread alone, as its effect is stated where clocks are left aside. -/
theorem gives_of_onlyMe {s t : State} {d : BitVec 5} {v : Word} (honly : OnlyMe s t) (hme : t.me = (s.me.setX d v).next 4) :
    Gives s d v t := by
  obtain ⟨-, hothers⟩ := honly
  exact ⟨fun a ha => by rw [hothers a ha]; exact Thread.is_refl _, by rw [hme]; exact Thread.is_refl _⟩

/-- Emptying an L1 changes cores and dies alone (R136). -/
theorem State.emptyL1_coresAndDies (s : State) (c : Nat) : CoresAndDies s (s.emptyL1 c) :=
  (CoresAndDies.modCore s c _).trans (.foldl (fun _ _ => .modDie _ _ _) _ _)

/-- SCANRUN by T7, in its two cases (R136). -/
theorem exec_scanrun_eq {s : State} (d a : BitVec 5) (hseq : s.cur.isSeq = false) (h7 : s.cur.isT7 = true) : exec (.scanrun d a) s =
    if !s.scanReady s.cur.coreNo || (s.getCore s.cur.coreNo).scan.isSome then
      (s.modCore s.cur.coreNo fun k =>
        { k with ckstat := setField k.ckstat 18 2 (field (Config.freeWord s.freeCtr s.cur.coreNo) 0 2) }).setReg d 3
    else ((s.emptyL1 s.cur.coreNo).modCore s.cur.coreNo fun k =>
      { k with scan := some { abortPrio := field (s.x a) 0 6, rd := some d, start := s.timebase } }).blockOn { kind := .scan, rd := d } := by
  rw [exec_scanrun, execScanrun, if_neg (by rw [hseq]; exact Bool.false_ne_true), if_neg (by simp [h7])]

section
variable {s : State} {c : Nat} (d a : BitVec 5) (hcur : s.cur = .thr c 7)
include hcur

/-- SCANRUN on a core that is not ready, or in a scan: BUSY, with a code that R401 leaves open (log entry 61). -/
theorem runs_scanrun_busy (hbusy : s.scanReady c = false ∨ (s.getCore c).scan.isSome = true) : Runs (.scanrun d a) s fun t =>
    Gives s d 3 t ∧ SameBytes s t ∧
    ∀ k, t.getCore k = if k = c then { s.getCore c with ckstat := setField (s.getCore c).ckstat 18 2 (field (t.getCore c).ckstat 18 2) }
      else s.getCore k := by
  let code := field (Config.freeWord s.freeCtr c) 0 2
  have hcode : code < 2 ^ 2 := BitVec.isLt _
  have hexec : exec (.scanrun d a) s = (s.modCore c fun k => { k with ckstat := setField k.ckstat 18 2 code }).setReg d 3 := by
    rw [exec_scanrun_eq d a (by rw [hcur]; rfl) (by rw [hcur]; rfl), hcur, if_pos]
    · rfl
    · obtain h | h := hbusy <;> simp [Agent.coreNo, h]
  refine ⟨_, hexec, ?_, fun _ => rfl, fun k => ?_⟩
  · obtain ⟨⟨-, hothers⟩, -, -⟩ := regStep_adv (s.modCore c fun k => { k with ckstat := setField k.ckstat 18 2 code }) d 3 4
    refine ⟨fun b hb => ?_, ?_⟩
    · rw [hothers b hb]
      exact Thread.is_refl _
    · rw [State.me_adv, State.me_wx]
      exact Thread.is_refl _
  · have hcores : ∀ j, ((((s.modCore c fun k => { k with ckstat := setField k.ckstat 18 2 code }).wx d 3).adv 4).getCore j) =
        if j = c then { s.getCore c with ckstat := setField (s.getCore c).ckstat 18 2 code } else s.getCore j :=
      fun j => State.getCore_modCore s c j fun k => { k with ckstat := setField k.ckstat 18 2 code }
    rw [hcores, hcores, if_pos rfl, field_setField_same _ (by decide) hcode]

/-- SCANRUN on a core that is ready waits for its scan. -/
theorem runs_scanrun_starts (hready : s.scanReady c = true) (hscan : (s.getCore c).scan = none) : Runs (.scanrun d a) s fun t =>
    (t.getCore c).scan = some { abortPrio := (s.x a).toNat % 64, rd := some d, start := s.timebase } ∧
    t.me = { s.me with st := .wait, wait := some { kind := .scan, rd := d } } ∧ SameBytes s t := by
  have hprio : field (s.x a) 0 6 = (s.x a).toNat % 64 := BitVec.extractLsb'_toNat 0 6 (s.x a)
  have hexec : exec (.scanrun d a) s = ((s.emptyL1 c).modCore c fun k =>
      { k with scan := some { abortPrio := field (s.x a) 0 6, rd := some d, start := s.timebase } }).blockOn { kind := .scan, rd := d } := by
    rw [exec_scanrun_eq d a (by rw [hcur]; rfl) (by rw [hcur]; rfl), hcur, if_neg (by simp [Agent.coreNo, hready, hscan])]
    rfl
  have hempty := State.emptyL1_coresAndDies s c
  have hcur' : (s.emptyL1 c).cur = s.cur := by rw [hempty]
  refine ⟨_, hexec, ?_, ?_, .of_mem hempty.mem⟩
  · rw [← hprio]
    exact congrArg Core.scan (State.getCore_modCore_same (s.emptyL1 c) c fun k =>
      { k with scan := some { abortPrio := field (s.x a) 0 6, rd := some d, start := s.timebase } })
  · rw [State.me_modMe]
    have hme : (s.emptyL1 c).me = s.me := by rw [State.me, hcur', hempty.thread]; rfl
    exact congrArg (fun t : Thread => { t with st := .wait, wait := some { kind := .scan, rd := d } }) hme

end

/-! ### HALT (R134) -/

/-- A stop moves no register and no pc (R44). -/
theorem State.settleStops_control (s : State) (c : Nat) (a : Agent) : ((s.settleStops c).thread a).control = (s.thread a).control := by
  unfold State.settleStops
  generalize s.t7Full c = full
  generalize List.range 8 = l
  induction l generalizing s with
  | nil => rfl
  | cons i l ih =>
    rw [List.foldl_cons, ih]
    split
    · by_cases h : a.key = (Agent.thr c i).key
      · have e : ∀ u : State, u.thread a = u.thread (.thr c i) := fun u => by rw [State.thread, h]; rfl
        rw [e, e, State.stopThread, State.thread_modThread_same]
        rfl
      · rw [State.stopThread, State.thread_modThread_other _ _ h]
    · rfl

theorem CoresAndDies.cur {s t : State} (h : CoresAndDies s t) : t.cur = s.cur := by rw [h]

/-- A change of the threads alone keeps the cores, memory and the executing agent. -/
theorem State.ThreadsOnly.keeps {s t : State} (h : State.ThreadsOnly s t) : t.core = s.core ∧ t.mem = s.mem ∧ t.cur = s.cur := by
  rw [h]
  exact ⟨rfl, rfl, rfl⟩

/-- What a stop of one core keeps: the core's own state, memory, registers and pc (R44, R402). -/
theorem State.settleStops_keeps (u : State) (c : Nat) :
    ((u.settleStops c).markGroups.getCore c).stop = (u.getCore c).stop ∧ (u.settleStops c).markGroups.mem = u.mem ∧
    (u.settleStops c).markGroups.me.control = u.me.control := by
  have hmarks := State.markGroups_coresAndDies (u.settleStops c)
  obtain ⟨hcore, hmem, hcur⟩ := (State.settleStops_threadsOnly u c).keeps
  refine ⟨?_, hmarks.mem.trans hmem, ?_⟩
  · rw [State.getCore, (State.markGroups_keepsStops _).core, hcore]
    rfl
  · rw [State.me, hmarks.cur, hcur, hmarks.thread, State.settleStops_control]
    rfl

/-- A core with no stop takes the request and settles its threads (R402). -/
theorem State.stopCore_fresh {s : State} {c : Nat} (r : StopReq) (h : (s.getCore c).stop = none) :
    s.stopCore c r = (s.modCore c fun k => { k with stop := some r }).settleStops c := by
  rw [stopCore, h]
  rfl

/-- HALT by T7 of a core without halt groups (R134). -/
theorem exec_halt_alone {s : State} {c : Nat} (hcur : s.cur = .thr c 7) (hgroups : s.groupsOf c = []) : exec .halt s =
    .next ((s.adv 4).stopCore c
      { die := c / 64, group := field (Config.freeWord (s.adv 4).freeCtr c) 0 5, source := 0, alone := true }).markGroups := by
  have hhalt : ∀ u : State, u.groupsOf c = [] → u.haltFrom c =
      u.stopCore c { die := c / 64, group := field (Config.freeWord u.freeCtr c) 0 5, source := 0, alone := true } := by
    intro u hu
    rw [State.haltFrom, hu]
  rw [exec_halt, execHalt, if_neg (by rw [hcur]; exact Bool.false_ne_true), if_neg (by simp [hcur, Agent.isT7]), hcur]
  exact congrArg (fun u : State => Host.Outcome.next u.markGroups) (hhalt (s.adv 4) hgroups)

/-- HALT of a core without halt groups completes and stops that core alone. -/
theorem runs_halt_alone {s : State} {c : Nat} (hcur : s.cur = .thr c 7) (hstop : (s.getCore c).stop = none) (hgroups : s.groupsOf c = []) :
    Runs .halt s fun t => ((t.getCore c).stop.map fun r => (r.source, r.alone)) = some (0, true) ∧ SameBytes s t ∧
      (∀ r, t.x r = (s.me.next 4).getX r) ∧ t.pc = (s.me.next 4).pc := by
  refine ⟨_, exec_halt_alone hcur hgroups, ?_⟩
  generalize hr : StopReq.mk _ _ _ _ _ = r
  rw [State.stopCore_fresh r (show ((s.adv 4).getCore c).stop = none from hstop)]
  generalize hu : (s.adv 4).modCore c _ = u
  obtain ⟨hcore, hmem, hme⟩ := State.settleStops_keeps u c
  have humem : u.mem = s.mem := by rw [← hu]; rfl
  have hume : u.me.control = (s.me.next 4).control := by rw [← hu, ← State.me_adv]; rfl
  have hustop : (u.getCore c).stop = some r := by rw [← hu, State.getCore_modCore_same]
  refine ⟨?_, .of_mem (hmem.trans humem), Thread.getX_control (hme.trans hume), Thread.pc_control (hme.trans hume)⟩
  rw [hcore, hustop, ← hr]
  rfl

/-- Settles O20: each system instruction by the case of its rule. -/
theorem systemInstructions : Obligations.SystemInstructions := by
  unfold Obligations.SystemInstructions
  intro s d a
  exact ⟨runs_utret, fun hact => (runs_waitI_act hact).1, fun hact => (runs_waitI_act hact).2, fun c => runs_waitI_t7,
    fun c => runs_scanrun_busy d a, fun c => runs_scanrun_starts d a, fun c hcur _ => runs_halt_alone hcur⟩

end Sys2Proof.Machine

/-! SUPPORT. The checks of the issuer (O13). -/

namespace Sys2Proof.Machine

/-! ### The checks of the issuer (R60, R113, R141) -/

/-- A form that asks for an agent it does not have: its first check, as `exec` writes it. -/
theorem runs_illegalIssuer {ins : Instr} {s : State} {o : Out} {c : Bool} (hexec : exec ins s = if c = true then illegalIssuer s (encode ins) else o)
    (hc : c = true) : Runs ins s fun t => t = s.raise ⟨Cause.illegalIssuer, (encode ins).word, 0⟩ :=
  ⟨_, hexec.trans (if_pos hc), rfl⟩

/-- The same, on a thread that traps in order: it is held. -/
theorem runs_illegalIssuer_held {ins : Instr} {s : State} {o : Out} {c : Bool} (hserv : Servable s)
    (hexec : exec ins s = if c = true then illegalIssuer s (encode ins) else o) (hc : c = true) :
    Runs ins s (HeldByTrap s Cause.illegalIssuer (encode ins).word) :=
  runs_trapOut (hexec.trans (if_pos hc)) hserv (by decide) (by decide)

/-- A thread that is numbered 6 is T6. -/
theorem Agent.isT6_of_tid {a : Agent} (hthr : a.isThr = true) (h6 : a.tid = 6) : a.isT6 = true := by
  cases a with
  | seq n q => cases hthr
  | thr c tid => exact decide_eq_true h6

/-- A form of T7 alone, issued by another thread (R134). -/
theorem runs_privilege_held {ins : Instr} {s : State} {o p : Out} (hserv : Servable s)
    (hexec : exec ins s = if s.cur.isSeq = true then p else if (!s.cur.isT7) = true then privileged s (encode ins) else o) :
    Runs ins s (HeldByTrap s Cause.privilege (encode ins).word) := by
  have hseq : s.cur.isSeq = false := State.isSeq_of_isThr hserv.1
  have h7 : s.cur.isT7 = false := State.isT7_of_servable hserv
  refine runs_trapOut (hexec.trans ?_) hserv (by decide) (by decide)
  rw [hseq, h7]
  rfl

/-- A sequencer and T7 run no activation (R18). -/
theorem Agent.isAct_eq_false {a : Agent} (h : a.isSeq = true ∨ a.isT7 = true ∨ a.isT6 = true) : a.isAct = false := by
  refine Bool.eq_false_iff.2 fun hact => ?_
  obtain ⟨h6, h7, hseq⟩ := Agent.of_isAct hact
  simp [h6, h7, hseq] at h

/-- Settles O13: in each form the check of the issuer comes first. -/
theorem issuerChecks : Obligations.IssuerChecks := by
  unfold Obligations.IssuerChecks
  intro s d a b k r q f y z c i
  simp only [List.forall_mem_cons, List.not_mem_nil, false_imp_iff, implies_true, and_true]
  refine ⟨fun hseq => ?sequencer, fun hserv => ?privilege, fun hserv h6 => ?t6, fun hserv _ hresident => ?resident, fun h7 => ?t7⟩
  case sequencer =>
    have hact := Agent.isAct_eq_false (.inl hseq)
    and_intros
    all_goals exact runs_illegalIssuer rfl (by simp [hseq, hact])
  case privilege =>
    and_intros
    all_goals exact runs_privilege_held hserv rfl
  case t6 =>
    have h6' : s.cur.isT6 = true := Agent.isT6_of_tid hserv.1 h6
    have hact := Agent.isAct_eq_false (.inr (.inr h6'))
    exact ⟨runs_illegalIssuer_held hserv rfl (by simp [h6']), runs_illegalIssuer_held hserv rfl (by simp [hact])⟩
  case resident => exact runs_illegalIssuer_held hserv rfl (by simp [hresident])
  case t7 =>
    have hact := Agent.isAct_eq_false (.inr (.inl h7))
    and_intros
    all_goals exact runs_illegalIssuer rfl (by simp [h7, hact])

end Sys2Proof.Machine

/-! SUPPORT. Loads and the checks of an access (O5, O6). -/

namespace Sys2Proof.Machine

/-! ### Loads (R120) -/

/-- The bits of a width read as signed. -/
theorem sxN_eq_toInt {w : Nat} (hw : 0 < w) (v : Nat) : sxN w v = (BitVec.ofNat w v).toInt := by
  have hpow : 2 ^ w = 2 * 2 ^ (w - 1) := by
    rw [← Nat.pow_succ']
    congr 1
    omega
  have hcast : ((2 ^ w : Nat) : Int) = 2 ^ w := by push_cast; rfl
  rw [BitVec.toInt_eq_toNat_cond, BitVec.toNat_ofNat, sxN, hcast]
  refine ite_congr (propext ⟨?_, ?_⟩) (fun _ => rfl) (fun _ => rfl) <;> omega

theorem ofI_sxN {w : Nat} (hw : 0 < w) (v : Nat) : ofI (sxN w v) = (BitVec.ofNat w v).signExtend 64 := by
  rw [sxN_eq_toInt hw]
  rfl

section
variable {ins : Instr} {s : State} {d : BitVec 5} {ea : Word} {n len : Nat} {bs : List Byte}

/-- A load whose access succeeds (R120). -/
theorem loadReg_step (signed : Bool) (h : s.load ea n = .ok bs) : ∃ t, s.loadReg d ea n signed len = .next t ∧
    LoadStep s ea n d (if signed then ofI (sxN (8 * n) (leNat bs)) else bytesWord bs) len t := by
  refine ⟨_, ?_, State.touch_caches s ea n, regStep_adv _ _ _ _⟩
  rw [State.loadReg, h]
  rfl

theorem runs_load_signed (h : s.load ea n = .ok bs) (hexec : exec ins s = s.loadReg d ea n true len) (hn : 0 < 8 * n) :
    Runs ins s (LoadStep s ea n d ((BitVec.ofNat (8 * n) (leNat bs)).signExtend 64) len) := by
  rw [← ofI_sxN hn]
  obtain ⟨t, hload, hstep⟩ := loadReg_step (d := d) (len := len) true h
  exact ⟨t, hexec.trans hload, hstep⟩

theorem runs_load_unsigned (h : s.load ea n = .ok bs) (hexec : exec ins s = s.loadReg d ea n false len) :
    Runs ins s (LoadStep s ea n d (bytesWord bs) len) := by
  obtain ⟨t, hload, hstep⟩ := loadReg_step (d := d) (len := len) false h
  exact ⟨t, hexec.trans hload, hstep⟩

end

/-- Settles O5: each load is `State.loadReg` at its address and size. -/
theorem loadResults : Obligations.LoadResults := by
  unfold Obligations.LoadResults
  intro s d a i k bs
  exact ⟨fun h => ⟨runs_load_signed h rfl (by decide), runs_load_unsigned h rfl⟩,
    fun h => ⟨runs_load_signed h rfl (by decide), runs_load_unsigned h rfl⟩,
    fun h => ⟨runs_load_signed h rfl (by decide), runs_load_unsigned h rfl⟩,
    fun h => runs_load_unsigned h rfl, fun h => runs_load_unsigned h rfl, fun h => runs_load_unsigned h rfl,
    fun h => runs_load_unsigned h rfl, fun h => runs_load_signed h rfl (by decide)⟩

/-! ### Accesses to the local memory (R24, R120, R203) -/

/-- A bit of the address above bit 55 stops an access (R120). -/
theorem State.resolve_noRange {s : State} (a : Agent) {va : Word} (n : Nat) (k : Kind) (h : 2 ^ 56 ≤ va.toNat) :
    s.resolve a va n k = trapR Cause.noRange va :=
  if_pos (by omega)

/-- An access within the local window goes there (R120, R203). -/
theorem State.resolve_local {s : State} {a : Agent} {va : Word} {n : Nat} (k : Kind) (h : va.toNat + n ≤ a.window) :
    s.resolve a va n k = .ok { loc := a.localLoc va.toNat } := by
  have hwindow := a.window_le
  exact (if_neg (by omega)).trans (if_pos h)

/-- The poison of bytes is poison of each (R215). -/
theorem State.poisoned_byte {s : State} {l n i : Nat} (h : s.poisoned l n = false) (hi : i < n) : s.poisoned (l + i) 1 = false := by
  simp only [State.poisoned, List.any_eq_false, Bool.and_eq_true, decide_eq_true_eq, not_and] at h ⊢
  rintro e he ⟨⟨hbad, -⟩, hlo⟩
  have hnot := h e he ⟨⟨hbad, by omega⟩, by omega⟩
  omega

/-- What the agent reads at a location of its own: memory, its own journal's bytes in place (R24). -/
def State.ownBytes (s : State) (j : List JEntry) (l n : Nat) : List Byte :=
  (List.range n).map fun i => (journalByte j (l + i)).getD (Memory.read s.mem (l + i))

theorem State.ownBytes_nil (s : State) (l n : Nat) : s.ownBytes [] l n = Memory.readN s.mem l n := rfl

theorem State.length_ownBytes (s : State) (j : List JEntry) (l n : Nat) : (s.ownBytes j l n).length = n := by simp [State.ownBytes]

theorem State.getElem?_ownBytes (s : State) (j : List JEntry) (l : Nat) {n i : Nat} (hi : i < n) :
    (s.ownBytes j l n)[i]? = some ((journalByte j (l + i)).getD (Memory.read s.mem (l + i))) := by
  simp [State.ownBytes, hi]

section
variable {s : State} {a : Agent} {ea : Word} {n : Nat} (hwindow : ea.toNat + n ≤ a.window)
  (hfree : s.blocked (a.localLoc ea.toNat) n false = false) (hclean : s.poisoned (a.localLoc ea.toNat) n = false)
include hwindow hfree hclean

/-- A read of the agent's local memory that nothing holds and no error has struck (R24, R203, R209, R215). -/
theorem State.loadBytes_local : s.loadBytes a ea n = .ok (s.ownBytes (s.thread a).journal (a.localLoc ea.toNat) n) := by
  have hplace : placeOf (a.localLoc ea.toNat) = .ulm := placeOf_local (a.le_localLoc _)
  have hhome : homeDie (a.localLoc ea.toNat) = none := homeDie_local (a.le_localLoc _)
  have hview : s.viewOf a { loc := a.localLoc ea.toNat } n = s := by
    unfold State.viewOf
    rw [hhome]
    cases a <;> rfl
  have hpoison : ((List.range n).any fun i => s.poisoned (a.localLoc ea.toNat + i) 1 &&
      (journalByte (s.thread a).journal (a.localLoc ea.toNat + i)).isNone) = false := by
    simp only [List.any_eq_false, List.mem_range]
    intro i hi
    rw [State.poisoned_byte hclean hi]
    exact Bool.false_ne_true
  have hbytes : s.plain (a.localLoc ea.toNat) n 0 = Memory.readN s.mem (a.localLoc ea.toNat) n := if_pos (.inl rfl)
  rw [State.loadBytes, State.resolve_local _ hwindow]
  show s.readAcc a { loc := a.localLoc ea.toNat } ea n = _
  rw [State.readAcc, hview, State.readVia]
  simp only [hplace, hfree, hpoison, hbytes, ne_eq, not_true_eq_false, decide_false, Bool.and_false, Bool.false_and, Bool.false_eq_true,
    if_false]
  split
  case isTrue hempty =>
    rw [List.isEmpty_iff.1 hempty]
    rfl
  case isFalse =>
    refine congrArg Except.ok (List.map_congr_left fun i hi => ?_)
    rw [read_of_readN rfl (List.mem_range.1 hi), Option.getD_some]

end

/-- An aligned load from it. -/
theorem State.load_local {s : State} {ea : Word} {n : Nat} (halign : ea.toNat % n = 0) (hwindow : ea.toNat + n ≤ s.cur.window)
    (hfree : s.blocked (s.cur.localLoc ea.toNat) n false = false) (hclean : s.poisoned (s.cur.localLoc ea.toNat) n = false) :
    s.load ea n = .ok (s.ownBytes s.me.journal (s.cur.localLoc ea.toNat) n) := by
  rw [State.load, check, decide_eq_true halign]
  exact State.loadBytes_local hwindow hfree hclean

/-! ### Accesses that stop (R120) -/

/-- A load that is not aligned. -/
theorem State.load_misaligned {s : State} {ea : Word} {n : Nat} (h : ea.toNat % n ≠ 0) : s.load ea n = trapR Cause.misaligned ea := by
  rw [State.load, check, decide_eq_false h]
  rfl

/-- A load of an address beyond 56 bits. -/
theorem State.load_noRange {s : State} {ea : Word} {n : Nat} (halign : ea.toNat % n = 0) (h : 2 ^ 56 ≤ ea.toNat) :
    s.load ea n = trapR Cause.noRange ea := by
  rw [State.load, check, decide_eq_true halign, if_pos rfl]
  show s.loadBytes s.cur ea n = _
  rw [State.loadBytes, State.resolve_noRange _ _ _ h]
  rfl

/-- A store of an address beyond 56 bits. -/
theorem State.storeCheck_noRange {s : State} (a : Agent) {ea : Word} (n : Nat) (h : 2 ^ 56 ≤ ea.toNat) :
    s.storeCheck a ea n = trapR Cause.noRange ea := by
  rw [State.storeCheck, State.resolve_noRange _ _ _ h]
  rfl

/-- A load that traps. -/
theorem State.loadReg_trap {s : State} {ea : Word} {n : Nat} {code : BitVec 8} (d : BitVec 5) (signed : Bool) (len : Nat)
    (h : s.load ea n = trapR code ea) : s.loadReg d ea n signed len = .next (s.raise ⟨code, ea, 0⟩ len) := by
  rw [State.loadReg, h]
  rfl

/-- A store that is not aligned. -/
theorem State.storeScalar_misaligned {s : State} {ea : Word} {bs : List Byte} (len : Nat) (h : ea.toNat % bs.length ≠ 0) :
    s.storeScalar ea bs len = .next (s.raise ⟨Cause.misaligned, ea, 0⟩ len) := by
  rw [State.storeScalar, check, decide_eq_false h]
  rfl

/-- A store whose checks refuse it. -/
theorem State.storeScalar_trap {s : State} {ea : Word} {bs : List Byte} {code : BitVec 8} (len : Nat) (halign : ea.toNat % bs.length = 0)
    (h : s.storeCheck s.cur ea bs.length = trapR code ea) : s.storeScalar ea bs len = .next (s.raise ⟨code, ea, 0⟩ len) := by
  rw [State.storeScalar, check, decide_eq_true halign, h]
  rfl

section
variable {ins : Instr} {s : State} {ea : Word} (hserv : Servable s)
include hserv

/-- A load that traps for its address holds its thread. -/
theorem runs_load_trap {d : BitVec 5} {n : Nat} {signed : Bool} {code : BitVec 8} (h : s.load ea n = trapR code ea)
    (hcode : code ∈ [Cause.misaligned, Cause.noRange]) (hexec : exec ins s = s.loadReg d ea n signed) :
    Runs ins s (HeldByTrap s code ea) := by
  refine runs_trapOut (hexec.trans (State.loadReg_trap d signed 4 h)) hserv ?_ ?_ <;>
    · simp only [List.mem_cons, List.not_mem_nil, or_false] at hcode
      obtain rfl | rfl := hcode <;> decide

theorem runs_store_misaligned {n : Nat} {x : Word} (h : ea.toNat % n ≠ 0) (hexec : exec ins s = s.storeScalar ea (leBytes n x.toNat)) :
    Runs ins s (HeldByTrap s Cause.misaligned ea) :=
  runs_trapOut (hexec.trans (State.storeScalar_misaligned 4 (by rwa [length_leBytes]))) hserv (by decide) (by decide)

theorem runs_store_noRange {n : Nat} {x : Word} (halign : ea.toNat % n = 0) (h : 2 ^ 56 ≤ ea.toNat)
    (hexec : exec ins s = s.storeScalar ea (leBytes n x.toNat)) : Runs ins s (HeldByTrap s Cause.noRange ea) :=
  runs_trapOut (hexec.trans (State.storeScalar_trap 4 (by rwa [length_leBytes]) (State.storeCheck_noRange _ _ h))) hserv (by decide)
    (by decide)

end

/-- Settles O6: a local read is `State.ownBytes`; the checks of R120 come before everything else. -/
theorem accessRules : Obligations.AccessRules := by
  unfold Obligations.AccessRules
  refine ⟨fun s ea n _ halign hwindow hfree hclean => ⟨_, State.load_local halign hwindow hfree hclean, s.length_ownBytes _ _ _,
    fun i hi => s.getElem?_ownBytes _ _ hi⟩, fun s d a i hserv => ?_⟩
  simp only [List.forall_mem_cons, List.not_mem_nil, false_imp_iff, implies_true, and_true]
  have hload : ∀ {n : Nat}, (s.x a + i.signExtend 64).toNat % n ≠ 0 → s.load (s.x a + i.signExtend 64) n = trapR Cause.misaligned _ :=
    State.load_misaligned
  refine ⟨fun h => ?half, fun h => ?word, fun h => ?double, fun h8 h => ?beyond⟩
  case half =>
    exact ⟨runs_load_trap hserv (hload h) (by simp) rfl, runs_load_trap hserv (hload h) (by simp) rfl,
      runs_store_misaligned hserv h rfl⟩
  case word =>
    exact ⟨runs_load_trap hserv (hload h) (by simp) rfl, runs_load_trap hserv (hload h) (by simp) rfl,
      runs_store_misaligned hserv h rfl⟩
  case double => exact ⟨runs_load_trap hserv (hload h) (by simp) rfl, runs_store_misaligned hserv h rfl⟩
  case beyond =>
    have halign : ∀ {n : Nat}, n ∣ 8 → (s.x a + i.signExtend 64).toNat % n = 0 := fun hn =>
      Nat.mod_eq_zero_of_dvd (hn.trans (Nat.dvd_of_mod_eq_zero h8))
    have hload : ∀ {ins : Instr} (n : Nat) (signed : Bool), n ∣ 8 → exec ins s = s.loadReg d (s.x a + i.signExtend 64) n signed →
        Runs ins s (HeldByTrap s Cause.noRange (s.x a + i.signExtend 64)) := fun n signed hn hexec =>
      runs_load_trap hserv (State.load_noRange (halign hn) h) (by simp) hexec
    have hstore : ∀ {ins : Instr} (n : Nat), n ∣ 8 → exec ins s = s.storeScalar (s.x a + i.signExtend 64) (leBytes n (s.x d).toNat) →
        Runs ins s (HeldByTrap s Cause.noRange (s.x a + i.signExtend 64)) := fun n hn hexec =>
      runs_store_noRange hserv (halign hn) h hexec
    exact ⟨hload 1 true (by decide) rfl, hload 1 false (by decide) rfl, hload 2 true (by decide) rfl, hload 2 false (by decide) rfl,
      hload 4 true (by decide) rfl, hload 4 false (by decide) rfl, hload 8 false (by decide) rfl,
      hstore 1 (by decide) rfl, hstore 2 (by decide) rfl, hstore 4 (by decide) rfl, hstore 8 (by decide) rfl⟩

end Sys2Proof.Machine

/-! SUPPORT. Stores, at issue and through the journal (O7). -/

namespace Sys2Proof.Machine

/-! ### What a store at issue keeps (R24, R205, R212, R215, R231, R326, R382) -/

/-- As `StoreFrame`, with every thread as it was. -/
def StoreKeeps (s t : State) : Prop :=
  t = { s with mem := t.mem, carried := t.carried, poison := t.poison, core := t.core, die := t.die } ∧
  (∀ c, t.getCore c =
    { s.getCore c with
      icache := (t.getCore c).icache, epoch := (t.getCore c).epoch, l1 := (t.getCore c).l1, rtb := (t.getCore c).rtb
      pm := (t.getCore c).pm }) ∧
  (∀ d, t.getDie d =
    { s.getDie d with wrote := (t.getDie d).wrote, vc := (t.getDie d).vc, l2 := (t.getDie d).l2, rdc := (t.getDie d).rdc })

namespace StoreKeeps

theorem refl (s : State) : StoreKeeps s s := ⟨rfl, fun _ => rfl, fun _ => rfl⟩

theorem trans {s t u : State} (h : StoreKeeps s t) (g : StoreKeeps t u) : StoreKeeps s u := by
  obtain ⟨hrest, hcore, hdie⟩ := h
  obtain ⟨grest, gcore, gdie⟩ := g
  refine ⟨?_, fun c => ?_, fun d => ?_⟩
  · rw [grest, hrest]
  · rw [gcore, hcore]
  · rw [gdie, hdie]

theorem foldl {α : Type} {f : State → α → State} (hf : ∀ s x, StoreKeeps s (f s x)) (l : List α) : ∀ s, StoreKeeps s (l.foldl f s) := by
  induction l with
  | nil => exact refl
  | cons x l ih => exact fun s => (hf s x).trans (ih _)

theorem of_unitWrite {s t : State} (h : UnitWrite s t) : StoreKeeps s t := by
  obtain ⟨hrest, hcore, hdie⟩ := h
  refine ⟨hrest, fun c => ?_, fun d => ?_⟩
  · rw [hcore]
  · rw [hdie]

theorem modCore (s : State) (c : Nat) (f : Core → Core) (hf : ∀ k, f k = { k with rtb := (f k).rtb, pm := (f k).pm }) :
    StoreKeeps s (s.modCore c f) := by
  refine ⟨rfl, fun b => ?_, fun _ => rfl⟩
  rw [State.getCore_modCore]
  by_cases h : b = c
  · rw [if_pos h, h, hf]
  · rw [if_neg h]

theorem modDie (s : State) (d : Nat) (f : Die → Die) (hf : ∀ k, f k = { k with vc := (f k).vc }) : StoreKeeps s (s.modDie d f) := by
  refine ⟨rfl, fun _ => rfl, fun b => ?_⟩
  rw [State.getDie_modDie]
  by_cases h : b = d
  · rw [if_pos h, h, hf]
  · rw [if_neg h]

theorem cur {s t : State} (h : StoreKeeps s t) : t.cur = s.cur := by
  obtain ⟨hrest, -⟩ := h
  rw [hrest]

theorem thread {s t : State} (h : StoreKeeps s t) (a : Agent) : t.thread a = s.thread a := by
  obtain ⟨hrest, -⟩ := h
  rw [hrest]
  rfl

theorem me {s t : State} (h : StoreKeeps s t) : t.me = s.me := by
  rw [State.me, h.cur, h.thread]
  rfl

/-- Such a store, with its instruction completed (R124). -/
theorem storeFrame {s t : State} (h : StoreKeeps s t) (len : Nat) : StoreFrame s (t.adv len) ∧ (t.adv len).me = s.me.next len := by
  have hme : (t.adv len).me = s.me.next len := by rw [State.me_adv, h.me]
  obtain ⟨-, hothers⟩ := State.onlyMe_modMe t fun th => th.next len
  have hothers' : OthersKeep s (t.adv len) := fun a ha => by
    rw [← h.cur] at ha
    exact (hothers a ha).trans (h.thread a)
  obtain ⟨hrest, hcore, hdie⟩ := h
  have hadv : t.adv len = { t with thr := (t.adv len).thr } := rfl
  refine ⟨⟨?_, hothers', hcore, hdie⟩, hme⟩
  rw [hadv, hrest]

end StoreKeeps

namespace State

theorem countEvents_storeKeeps (s : State) (c t ev n : Nat) : StoreKeeps s (s.countEvents c t ev n) := by
  unfold countEvents
  split
  · exact .refl s
  · exact .modCore _ _ _ fun _ => rfl

theorem countMisses_storeKeeps (s : State) (a : Agent) (xs : List Nat) : StoreKeeps s (s.countMisses a xs) := by
  unfold countMisses
  split
  · exact .refl s
  · exact countEvents_storeKeeps _ _ _ _ _

theorem mergeClock_storeKeeps (s : State) (d : Nat) (k : Clock) : StoreKeeps s (s.mergeClock d k) := by
  unfold mergeClock
  split
  · exact .refl s
  · exact .modDie _ _ _ fun _ => rfl

theorem carryFrom_storeKeeps (s : State) (k : Clock) (l n : Nat) : StoreKeeps s (s.carryFrom k l n) := by
  unfold carryFrom
  split
  · exact .refl s
  split
  · exact .refl s
  · exact (StoreKeeps.of_unitWrite (carry_unitWrite _ _ _ _)).trans (mergeClock_storeKeeps _ _ _)

theorem putL1_unitWrite (s : State) (c x : Nat) (v : CSec) : UnitWrite s (s.putL1 c x v) :=
  (UnitWrite.modCore s c _ fun _ => rfl).trans (.foldl _ (fun _ _ => putL2_unitWrite _ _ _ _) _ _)

theorem putRdc_unitWrite (s : State) (d x : Nat) (v : CSec) : UnitWrite s (s.putRdc d x v) := UnitWrite.modDie _ _ _ fun _ => rfl

/-- What a write does to the caches is within what a unit's write may touch (R205, R221). -/
theorem writeSector_unitWrite (h c : Nat) (old s : State) (x : Nat) : UnitWrite s (writeSector h c old s x) := by
  unfold writeSector
  dsimp only
  split
  · exact ((invalidateL1_unitWrite _ _ _ _).trans (putL2_unitWrite _ _ _ _)).trans (putL1_unitWrite _ _ _ _)
  · have hhome := ((invalidateL1_unitWrite s h x none).trans (putL2_unitWrite _ h x true)).trans (invalidateL1_unitWrite _ (c / 64) x none)
    have hrdc : ∀ (u : State) (b : Bool) v, UnitWrite u (if b = true then u.putRdc (c / 64) x v else u) := fun u b v => by
      split
      · exact putRdc_unitWrite _ _ _ _
      · exact .refl u
    split
    · exact (hhome.trans (hrdc _ _ _)).trans (putL1_unitWrite _ _ _ _)
    · exact hhome.trans (hrdc _ _ _)

/-- A store at issue into local or device memory (R24, R121). -/
theorem storeAs_storeKeeps (s : State) (a : Agent) {l : Nat} (k : Nat) (bs : List Byte) (unc : Bool)
    (h : placeOf l = .ulm ∨ ∃ d, placeOf l = .hbm d) : StoreKeeps s (s.storeAs a l k bs unc) := by
  have hat : ∀ src, StoreKeeps s (s.storeAt l k bs unc src) ∧ StoreKeeps s (s.storeAt l k bs false src) := fun src => by
    unfold storeAt
    obtain hp | ⟨d, hp⟩ := h
    · rw [hp]
      exact ⟨.of_unitWrite (putPlain_unitWrite _ _ _ _ _), .of_unitWrite (putPlain_unitWrite _ _ _ _ _)⟩
    · rw [hp]
      exact ⟨.of_unitWrite ((putPlain_unitWrite _ _ _ _ _).trans (markWrote_unitWrite _ _)),
        .of_unitWrite ((putPlain_unitWrite _ _ _ _ _).trans (markWrote_unitWrite _ _))⟩
  unfold storeAs
  split
  case h_1 c tid d hplace =>
    have hstored := (StoreKeeps.of_unitWrite (putPlainRaw_unitWrite s l k bs)).trans
      (carryFrom_storeKeeps _ (s.thread (.thr c tid)).rel l bs.length)
    refine StoreKeeps.trans ?_ (.of_unitWrite (markWrote_unitWrite _ _))
    split
    · exact hstored
    · exact hstored.trans ((countMisses_storeKeeps _ _ _).trans (.foldl (fun _ _ => .of_unitWrite (writeSector_unitWrite _ _ _ _ _)) _ _))
  case h_2 => exact (hat _).2
  case h_3 n q =>
    have hstored := (hat (s.partOf (.seq n q), s.secureOf (.seq n q))).1.trans (carryFrom_storeKeeps _ (s.thread (.seq n q)).rel l bs.length)
    dsimp only
    split
    · exact hstored
    · exact hstored.trans (.of_unitWrite (ackAt_unitWrite _ _ _ _))

theorem cleanSectors_storeKeeps (s : State) (xs : List Nat) : StoreKeeps s (s.cleanSectors xs) := by
  unfold cleanSectors
  split
  · exact .refl s
  · exact ⟨rfl, fun _ => rfl, fun _ => rfl⟩

end State

/-! ### The RTB (R326, R382) -/

/-- Nothing differs but the RTB and the counted events of the cores. -/
def RtbOnly (s t : State) : Prop :=
  t = { s with core := t.core } ∧ ∀ c, t.getCore c = { s.getCore c with rtb := (t.getCore c).rtb, pm := (t.getCore c).pm }

theorem RtbOnly.refl (s : State) : RtbOnly s s := ⟨rfl, fun _ => rfl⟩

theorem RtbOnly.modCore (s : State) (c : Nat) (f : Core → Core) (hf : ∀ k, f k = { k with rtb := (f k).rtb, pm := (f k).pm }) :
    RtbOnly s (s.modCore c f) := by
  refine ⟨rfl, fun b => ?_⟩
  rw [State.getCore_modCore]
  by_cases h : b = c
  · rw [if_pos h, h, hf]
  · rw [if_neg h]

theorem RtbOnly.storeKeeps {s t : State} (h : RtbOnly s t) : StoreKeeps s t := by
  obtain ⟨hrest, hcore⟩ := h
  refine ⟨?_, fun c => ?_, fun d => ?_⟩
  · rw [hrest]
  · rw [hcore]
  · rw [hrest]
    rfl

theorem RtbOnly.mem {s t : State} (h : RtbOnly s t) : t.mem = s.mem := by
  obtain ⟨hrest, -⟩ := h
  rw [hrest]

/-- The use of an RTB entry, or the miss of one. -/
theorem State.useRtb_rtbOnly (s : State) (a : Agent) (va n : Nat) (k : Kind) : RtbOnly s (s.useRtb a va n k) := by
  unfold useRtb
  split
  · exact .refl s
  dsimp only
  split
  · exact .refl s
  split
  · exact .modCore _ _ _ fun _ => rfl
  unfold countEvent countEvents
  split
  · exact .refl s
  · exact .modCore _ _ _ fun _ => rfl

/-! ### One store at issue -/

/-- A store at issue of plain bytes in plaintext local or device memory. -/
structure StoreReq.Plain (r : StoreReq) : Prop where
  key : r.acc.key = 0
  place : placeOf r.acc.loc = .ulm ∨ ∃ d, placeOf r.acc.loc = .hbm d
  bytes : r.bs.all Option.isSome = true

/-- The bytes of a store that writes each of them. -/
def StoreReq.data (r : StoreReq) : List Byte := r.bs.map fun b => b.getD 0

theorem StoreReq.length_data (r : StoreReq) : r.data.length = r.bs.length := List.length_map _

namespace State

/-- Only T7 writes MMIO in another way (R207). -/
theorem storeBy_eq (s : State) (a : Agent) {l : Nat} (k : Nat) (bs : List Byte) (unc : Bool) (h : placeOf l = .ulm ∨ ∃ d, placeOf l = .hbm d) :
    s.storeBy a l k bs unc = s.storeAs a l k bs unc := by
  unfold storeBy
  split
  case h_1 hmmio =>
    obtain hp | ⟨d, hp⟩ := h <;>
      · rw [hp] at hmmio
        cases hmmio
  case h_2 => rfl

theorem storeNow_eq (a : Agent) (s : State) {r : StoreReq} (h : r.Plain) : storeNow a s r =
    ((s.useRtb a r.va.toNat r.bs.length kindW).storeAs a r.acc.loc 0 r.data r.acc.rng.uncached).cleanSectors r.clean := by
  unfold storeNow
  dsimp only
  rw [h.bytes, if_pos rfl, storeBy_eq _ _ _ _ _ h.place, h.key]
  rfl

theorem storeNow_storeKeeps (a : Agent) (s : State) {r : StoreReq} (h : r.Plain) : StoreKeeps s (storeNow a s r) := by
  rw [storeNow_eq a s h]
  exact ((useRtb_rtbOnly _ _ _ _ _).storeKeeps.trans (storeAs_storeKeeps _ _ _ _ _ h.place)).trans (cleanSectors_storeKeeps _ _)

theorem storeNow_mem (a : Agent) (s : State) {r : StoreReq} (h : r.Plain) :
    (storeNow a s r).mem = Memory.writeN s.mem r.acc.loc r.data := by
  rw [storeNow_eq a s h, cleanSectors_mem, storeAs_mem _ _ _ fun _ => h.place, (useRtb_rtbOnly _ _ _ _ _).mem]

/-- Stores at issue, in order (R153). -/
theorem foldl_storeNow_storeKeeps (a : Agent) {rs : List StoreReq} (h : ∀ r ∈ rs, r.Plain) (s : State) :
    StoreKeeps s (rs.foldl (storeNow a) s) := by
  induction rs generalizing s with
  | nil => exact .refl s
  | cons r rs ih =>
    obtain ⟨hr, hrs⟩ := List.forall_mem_cons.1 h
    exact (storeNow_storeKeeps a s hr).trans (ih hrs _)

theorem foldl_storeNow_mem (a : Agent) {rs : List StoreReq} (h : ∀ r ∈ rs, r.Plain) (s : State) :
    (rs.foldl (storeNow a) s).mem = rs.foldl (fun m r => Memory.writeN m r.acc.loc r.data) s.mem := by
  induction rs generalizing s with
  | nil => rfl
  | cons r rs ih =>
    obtain ⟨hr, hrs⟩ := List.forall_mem_cons.1 h
    rw [List.foldl_cons, List.foldl_cons, ih hrs, storeNow_mem a s hr]

end State

/-! ### Stores through the journal (R24, R25) -/

theorem Thread.next_straight (t : Thread) (n : Nat) (h : ¬t.AtLoopEnd) : t.next n = { t with pc := t.pc + ofN n } := if_neg h

/-- The journal takes no part in the completion of an instruction (R124). -/
theorem Thread.next_journaled (t : Thread) (j : List JEntry) (w : Word) (n : Nat) :
    ({ t with journal := j, actst := w } : Thread).next n = { t.next n with journal := j, actst := w } := by
  have hset : ∀ (r : BitVec 5) (v : Word), ({ t with journal := j, actst := w } : Thread).setX r v =
      { t.setX r v with journal := j, actst := w } := fun r v => by
    unfold Thread.setX
    split <;> rfl
  by_cases hend : t.AtLoopEnd
  · rw [Thread.next_loop t n hend, Thread.next_loop _ n (show Thread.AtLoopEnd { t with journal := j, actst := w } from hend), hset]
    by_cases hmore : t.loopReg ≠ 0 ∧ t.getX t.loopReg ≠ 1
    · rw [if_pos hmore]
      exact if_pos hmore
    · rw [if_neg hmore]
      exact if_neg hmore
  · rw [Thread.next_straight t n hend, Thread.next_straight _ n (show ¬Thread.AtLoopEnd { t with journal := j, actst := w } from hend)]

/-- The entry that a checked store leaves in the journal. -/
def StoreReq.entry (r : StoreReq) : JEntry := .store r.acc.loc r.acc.key r.va r.bs r.cost r.clean r.acc.rng.uncached

/-- `t` is `s` with these entries behind the journal of the executing activation, of `cost` bytes, and an RTB used. -/
structure JournalStep (s t : State) (es : List JEntry) (cost : Nat) : Prop where
  rest : t = { s with thr := t.thr, core := t.core }
  others : OthersKeep s t
  cores : ∀ c, t.getCore c = { s.getCore c with rtb := (t.getCore c).rtb, pm := (t.getCore c).pm }
  me : t.me = { s.me with journal := s.me.journal ++ es, actst := t.me.actst }
  jcnt : s.me.jcnt + cost < 2 ^ 13 → t.me.jcnt = s.me.jcnt + cost

namespace JournalStep

theorem refl (s : State) : JournalStep s s [] 0 :=
  ⟨rfl, fun _ _ => rfl, fun _ => rfl, by rw [List.append_nil], fun _ => rfl⟩

theorem cur {s t : State} {es : List JEntry} {cost : Nat} (h : JournalStep s t es cost) : t.cur = s.cur := by rw [h.rest]

theorem mem {s t : State} {es : List JEntry} {cost : Nat} (h : JournalStep s t es cost) : t.mem = s.mem := by rw [h.rest]

theorem trans {s t u : State} {es fs : List JEntry} {m n : Nat} (h : JournalStep s t es m) (g : JournalStep t u fs n) :
    JournalStep s u (es ++ fs) (m + n) where
  rest := by rw [g.rest, h.rest]
  others a ha := (g.others a (by rwa [h.cur])).trans (h.others a ha)
  cores c := by rw [g.cores, h.cores]
  me := by rw [g.me, h.me, List.append_assoc]
  jcnt hroom := by rw [g.jcnt (by rw [h.jcnt (by omega)]; omega), h.jcnt (by omega), Nat.add_assoc]

end JournalStep

theorem Thread.journaled_actst {t u : Thread} {j : List JEntry} {w : Word} (h : t = { u with journal := j, actst := w }) :
    t = { u with journal := j, actst := t.actst } := by rw [h]

/-- One store into the journal. -/
theorem State.storeJournal_step (s : State) (r : StoreReq) : JournalStep s (State.storeJournal s.cur s r) [r.entry] r.cost := by
  have hrtb := s.useRtb_rtbOnly s.cur r.va.toNat r.bs.length kindW
  have hkeeps := hrtb.storeKeeps
  obtain ⟨hrest, hcores⟩ := hrtb
  unfold storeJournal addJournal
  generalize hu : s.useRtb s.cur r.va.toNat r.bs.length kindW = u at *
  have hcur := hkeeps.cur
  have hme : (u.modThread s.cur fun t => { t with journal := t.journal ++ [r.entry], actst := setField t.actst 16 13 (t.jcnt + r.cost) }).me =
      { s.me with journal := s.me.journal ++ [r.entry], actst := setField s.me.actst 16 13 (s.me.jcnt + r.cost) } := by
    rw [← hcur, ← hkeeps.me]
    exact State.me_modMe u _
  refine ⟨?_, fun a ha => ?_, hcores, ?_, fun hroom => ?_⟩
  · rw [hrest]
    rfl
  · rw [State.thread_modThread_other _ _ ha]
    exact hkeeps.thread a
  · exact Thread.journaled_actst hme
  · exact (congrArg Thread.jcnt hme).trans (field_setField_same _ (by decide) hroom)

/-- Beside the RTB it changes the executing activation alone. -/
theorem State.storeJournal_onlyMe (s : State) (r : StoreReq) :
    OnlyMe (s.useRtb s.cur r.va.toNat r.bs.length kindW) (State.storeJournal s.cur s r) := by
  have hcur := (s.useRtb_rtbOnly s.cur r.va.toNat r.bs.length kindW).storeKeeps.cur
  have hmod : ∀ (u : State) (a : Agent) (f : Thread → Thread), u.cur = a → OnlyMe u (u.modThread a f) := by
    rintro u _ f rfl
    exact State.onlyMe_modMe u f
  unfold storeJournal addJournal
  exact hmod _ _ _ hcur

/-- The stores of an instruction into the journal, in order. -/
theorem State.foldl_storeJournal_step (rs : List StoreReq) (s : State) :
    JournalStep s (rs.foldl (State.storeJournal s.cur) s) (rs.map StoreReq.entry) (rs.map StoreReq.cost).sum := by
  induction rs generalizing s with
  | nil => exact .refl s
  | cons r rs ih =>
    have hstep := s.storeJournal_step r
    have hrest := ih (State.storeJournal s.cur s r)
    rw [hstep.cur] at hrest
    exact hstep.trans hrest

/-! ### The stores of an instruction (R121, R153) -/

theorem noteWhole_concat (rs : List StoreReq) (r : StoreReq) :
    noteWhole (rs ++ [r]) = rs ++ [{ r with clean := wholeSectors (rs ++ [r]) }] := by
  simp [noteWhole]

/-- What is noted on the last store is the sectors alone. -/
theorem map_noteWhole {β : Type} (f : StoreReq → β) (hf : ∀ r xs, f { r with clean := xs } = f r) (rs : List StoreReq) :
    (noteWhole rs).map f = rs.map f := by
  obtain rfl | ⟨rs, r, rfl⟩ := rs.eq_nil_or_concat'
  · rfl
  · rw [noteWhole_concat, List.map_append, List.map_append, List.map_singleton, List.map_singleton, hf]

theorem forall_mem_noteWhole {p : StoreReq → Prop} (hp : ∀ r xs, p r → p { r with clean := xs }) {rs : List StoreReq}
    (h : ∀ r ∈ rs, p r) : ∀ r ∈ noteWhole rs, p r := by
  obtain rfl | ⟨rs, r, rfl⟩ := rs.eq_nil_or_concat'
  · exact h
  · rw [List.forall_mem_append, List.forall_mem_singleton] at h
    obtain ⟨hinit, hlast⟩ := h
    rw [noteWhole_concat, List.forall_mem_append, List.forall_mem_singleton]
    exact ⟨hinit, hp _ _ hlast⟩

namespace State

theorem noneWaits {s : State} {rs : List StoreReq}
    (h : ∀ r ∈ rs, s.blocked r.acc.loc r.bs.length true = false ∧ s.acrossBridge s.cur.dieNo r.acc.loc = false) :
    ((noteWhole rs).any fun r => s.blocked r.acc.loc r.bs.length true || s.acrossBridge s.cur.dieNo r.acc.loc) = false := by
  have hnote := forall_mem_noteWhole (p := fun r => s.blocked r.acc.loc r.bs.length true = false ∧
    s.acrossBridge s.cur.dieNo r.acc.loc = false) (fun _ _ hr => hr) h
  rw [List.any_eq_false]
  intro r hr
  obtain ⟨hfree, hnear⟩ := hnote r hr
  simp [hfree, hnear]

/-- The stores of one instruction that nothing holds, all at issue (R121). -/
theorem storeAll_now {s : State} {rs : List StoreReq} (done : State → State) (h : ∀ r ∈ rs, s.journaled s.cur r.acc.loc = false ∧
    s.blocked r.acc.loc r.bs.length true = false ∧ s.acrossBridge s.cur.dieNo r.acc.loc = false) :
    s.storeAll rs done = .next (done ((noteWhole rs).foldl (storeNow s.cur) s)) := by
  have hnone : (rs.filter fun r => s.journaled s.cur r.acc.loc) = [] :=
    List.filter_eq_nil_iff.2 fun r hr => by simp [(h r hr).1]
  have hall : (rs.filter fun r => !s.journaled s.cur r.acc.loc) = rs := List.filter_eq_self.2 fun r hr => by simp [(h r hr).1]
  unfold storeAll
  dsimp only
  rw [noneWaits fun r hr => (h r hr).2, hnone, hall]
  rfl

/-- The stores of one instruction that nothing holds, all into a journal with room (R24, R25, R121). -/
theorem storeAll_journal {s : State} {rs : List StoreReq} (done : State → State) (h : AllJournaled s rs) :
    s.storeAll rs done = .next (done ((noteWhole rs).foldl (storeJournal s.cur) s)) := by
  obtain ⟨hrs, hroom⟩ := h
  have hall : (rs.filter fun r => s.journaled s.cur r.acc.loc) = rs := List.filter_eq_self.2 fun r hr => (hrs r hr).1
  have hnone : (rs.filter fun r => !s.journaled s.cur r.acc.loc) = [] := List.filter_eq_nil_iff.2 fun r hr => by simp [(hrs r hr).1]
  have hcost : ((noteWhole rs).map (·.cost)).sum = (rs.map (·.cost)).sum := by rw [map_noteWhole _ fun _ _ => rfl]
  unfold storeAll
  dsimp only
  rw [noneWaits fun r hr => (hrs r hr).2, hall, hnone, hcost, if_neg Bool.false_ne_true]
  split
  case isTrue hempty =>
    rw [List.isEmpty_iff.1 hempty]
    rfl
  case isFalse hsome =>
    obtain ⟨r, hr⟩ : ∃ r, r ∈ rs := List.exists_mem_of_ne_nil rs fun h => hsome (by rw [h]; rfl)
    have hholds : s.holds s.cur = true := (Bool.and_eq_true_iff.1 (hrs r hr).1).1
    rw [held, hholds, if_pos rfl, if_pos hroom]
    rfl

/-- Stores at issue of one instruction that then completes: their frame and the bytes they write. -/
theorem storeAll_atIssue {s : State} {rs : List StoreReq} (len : Nat) (h : ∀ r ∈ rs, s.journaled s.cur r.acc.loc = false ∧
    s.blocked r.acc.loc r.bs.length true = false ∧ s.acrossBridge s.cur.dieNo r.acc.loc = false) (hplain : ∀ r ∈ rs, r.Plain) :
    ∃ t, (s.storeAll rs fun t => t.adv len) = .next t ∧ StoreFrame s t ∧ t.me = s.me.next len ∧
      t.mem = rs.foldl (fun m r => Memory.writeN m r.acc.loc r.data) s.mem := by
  have hnote := forall_mem_noteWhole (p := StoreReq.Plain) (fun _ _ hr => ⟨hr.key, hr.place, hr.bytes⟩) hplain
  obtain ⟨hframe, hme⟩ := (foldl_storeNow_storeKeeps s.cur hnote s).storeFrame len
  refine ⟨_, storeAll_now _ h, hframe, hme, (foldl_storeNow_mem s.cur hnote s).trans ?_⟩
  have hmap := map_noteWhole (fun r => (r.acc.loc, r.data)) (fun _ _ => rfl) rs
  have hfold : ∀ qs : List StoreReq, qs.foldl (fun m r => Memory.writeN m r.acc.loc r.data) s.mem =
      (qs.map fun r => (r.acc.loc, r.data)).foldl (fun m e => Memory.writeN m e.1 e.2) s.mem := fun qs => by rw [List.foldl_map]
  rw [hfold, hfold, hmap]

/-- Stores of one instruction into the journal that then completes. -/
theorem storeAll_recorded {s : State} {rs : List StoreReq} (len : Nat) (h : AllJournaled s rs) :
    ∃ u, (s.storeAll rs fun t => t.adv len) = .next (u.adv len) ∧
      JournalStep s u ((noteWhole rs).map StoreReq.entry) (rs.map (·.cost)).sum := by
  have hstep := foldl_storeJournal_step (noteWhole rs) s
  rw [map_noteWhole StoreReq.cost fun _ _ => rfl] at hstep
  exact ⟨_, storeAll_journal _ h, hstep⟩

end State

/-! ### Scalar stores (R120, R121) -/

/-- A scalar store that has passed its checks. -/
def scalarReq (ea : Word) (acc : Acc) (bs : List Byte) : StoreReq :=
  { va := ea, acc := acc, bs := bs.map some, cost := 8 + alignUp 8 bs.length }

theorem data_map_some (ea : Word) (acc : Acc) (bs : List Byte) : (scalarReq ea acc bs).data = bs := by
  rw [StoreReq.data, scalarReq, List.map_map]
  exact List.map_id bs

theorem all_map_some (bs : List Byte) : (bs.map some).all Option.isSome = true := by simp

/-- Fewer than 32 bytes cover no sector whole. -/
theorem wholeSectors_small {r : StoreReq} (h : r.bs.length < 32) : wholeSectors [r] = [] := by
  unfold wholeSectors
  refine if_pos ?_
  rw [List.flatMap_singleton]
  exact (List.length_filterMap_le _ _).trans_lt (by rwa [List.length_zipIdx])

theorem noteWhole_small {r : StoreReq} (h : r.bs.length < 32) (hclean : r.clean = []) : noteWhole [r] = [r] := by
  have hnote := noteWhole_concat [] r
  rw [List.nil_append, List.nil_append, wholeSectors_small h, ← hclean] at hnote
  exact hnote

section
variable {s : State} {ea : Word} {n len : Nat} {acc : Acc} {bs : List Byte} (hlen : bs.length = n)
include hlen

/-- A scalar store whose checks pass (R120, R121). -/
theorem storeScalar_checked (halign : ea.toNat % n = 0) (hcheck : s.storeCheck s.cur ea n = .ok acc) :
    s.storeScalar ea bs len = s.storeAll [scalarReq ea acc bs] fun t => t.adv len := by
  subst hlen
  rw [State.storeScalar, check, decide_eq_true halign, hcheck]
  rfl

theorem storeScalar_now (h : AtIssue s ea n acc) (hkey : acc.key = 0) :
    ∃ t, s.storeScalar ea bs len = .next t ∧ Stored s t acc.loc bs ∧ StoreFrame s t ∧ t.me = s.me.next len := by
  obtain ⟨halign, hcheck, hissue, hfree, hnear, hplace⟩ := h
  have hone : ∀ r ∈ [scalarReq ea acc bs], s.journaled s.cur r.acc.loc = false ∧ s.blocked r.acc.loc r.bs.length true = false ∧
      s.acrossBridge s.cur.dieNo r.acc.loc = false := by
    rw [List.forall_mem_singleton, scalarReq, List.length_map, hlen]
    exact ⟨hissue, hfree, hnear⟩
  obtain ⟨t, hall, hframe, hme, hmem⟩ := State.storeAll_atIssue len hone
    (List.forall_mem_singleton.2 ⟨hkey, hplace, all_map_some bs⟩)
  rw [List.foldl_cons, List.foldl_nil, data_map_some] at hmem
  refine ⟨t, (storeScalar_checked hlen halign hcheck).trans hall, ⟨?_, fun l hl => ?_⟩, hframe, hme⟩
  · rw [hmem]
    exact Memory.readN_writeN_same bs s.mem acc.loc
  · rw [hmem]
    exact Memory.read_writeN_outside bs s.mem acc.loc l hl

/-- Such a store through the journal (R24, R25, R121). -/
theorem storeScalar_journal (h : IntoJournal s ea n acc) (hsmall : n < 32) : ∃ t, s.storeScalar ea bs len = .next t ∧ SameBytes s t ∧
    CachesOnly s (s.useRtb s.cur ea.toNat n kindW) ∧ OnlyMe (s.useRtb s.cur ea.toNat n kindW) t ∧
    t.me.journal = s.me.journal ++ [.store acc.loc acc.key ea (bs.map some) (8 + alignUp 8 n) [] acc.rng.uncached] ∧
    t.me.jcnt = s.me.jcnt + (8 + alignUp 8 n) ∧ t.me.pc = (s.me.next len).pc ∧ ∀ r, t.x r = (s.me.next len).getX r := by
  obtain ⟨halign, hcheck, hjournal, hfree, hnear, hroom⟩ := h
  have hall : AllJournaled s [scalarReq ea acc bs] := by
    refine ⟨?_, ?_⟩
    · rw [List.forall_mem_singleton, scalarReq, List.length_map, hlen]
      exact ⟨hjournal, hfree, hnear⟩
    · show s.me.jcnt + ((8 + alignUp 8 bs.length) + 0) ≤ 4096
      rw [hlen]
      exact hroom
  have hnote := noteWhole_small (r := scalarReq ea acc bs) (by rw [scalarReq, List.length_map]; omega) rfl
  have hexec := (storeScalar_checked (len := len) hlen halign hcheck).trans (State.storeAll_journal _ hall)
  rw [hnote, List.foldl_cons, List.foldl_nil] at hexec
  have hstep := s.storeJournal_step (scalarReq ea acc bs)
  have hme : ((State.storeJournal s.cur s (scalarReq ea acc bs)).adv len).me = { s.me.next len with
      journal := s.me.journal ++ [(scalarReq ea acc bs).entry], actst := (State.storeJournal s.cur s (scalarReq ea acc bs)).me.actst } := by
    rw [State.me_adv, hstep.me, Thread.next_journaled]
  have honly : OnlyMe (s.useRtb s.cur ea.toNat n kindW) ((State.storeJournal s.cur s (scalarReq ea acc bs)).adv len) := by
    have hrec := s.storeJournal_onlyMe (scalarReq ea acc bs)
    rw [show (scalarReq ea acc bs).bs.length = n from (List.length_map _).trans hlen] at hrec
    exact hrec.trans (State.onlyMe_modMe (State.storeJournal s.cur s (scalarReq ea acc bs)) fun t => t.next len)
  refine ⟨_, hexec, .of_mem hstep.mem, State.useRtb_caches _ _ _ _ _, honly, ?_, ?_, ?_, fun r => ?_⟩
  · rw [hme, StoreReq.entry, scalarReq, hlen]
  · have hjcnt := hstep.jcnt (by
      show s.me.jcnt + (8 + alignUp 8 bs.length) < _
      rw [hlen]
      omega)
    rw [hme, ← hlen]
    exact hjcnt
  · rw [hme]
  · rw [State.x, hme]
    rfl

end

/-- Settles O7: each store is `State.storeScalar` at its address and size. -/
theorem storeResults : Obligations.StoreResults := by
  unfold Obligations.StoreResults
  refine ⟨fun s x b i k acc hkey => ?now, fun s x b i k acc => ?journal⟩
  case now =>
    have hdone : ∀ {ins : Instr} {ea : Word} (n len : Nat), exec ins s = s.storeScalar ea (leBytes n (s.x x).toNat) len → AtIssue s ea n acc →
        Runs ins s fun t => Stored s t acc.loc (leBytes n (s.x x).toNat) ∧ StoreFrame s t ∧ t.me = s.me.next len :=
      fun n len hexec h => by
        obtain ⟨t, hstore, hstored⟩ := storeScalar_now (len := len) (length_leBytes n (s.x x).toNat) h hkey
        exact ⟨t, hexec.trans hstore, hstored⟩
    exact ⟨hdone 1 4 rfl, hdone 2 4 rfl, hdone 4 4 rfl, hdone 8 4 rfl, hdone 8 2 rfl, hdone 8 2 rfl, hdone 8 2 rfl, hdone 4 2 rfl⟩
  case journal =>
    have hdone : ∀ {ins : Instr} {ea : Word} (n len : Nat), n < 32 → exec ins s = s.storeScalar ea (leBytes n (s.x x).toNat) len →
        IntoJournal s ea n acc → Runs ins s _ := fun n len hn hexec h => by
      obtain ⟨t, hstore, hstored⟩ := storeScalar_journal (len := len) (length_leBytes n (s.x x).toNat) h hn
      exact ⟨t, hexec.trans hstore, hstored⟩
    exact ⟨hdone 1 4 (by decide) rfl, hdone 2 4 (by decide) rfl, hdone 4 4 (by decide) rfl, hdone 8 4 (by decide) rfl,
      hdone 8 2 (by decide) rfl, hdone 8 2 (by decide) rfl, hdone 8 2 (by decide) rfl, hdone 4 2 (by decide) rfl⟩

end Sys2Proof.Machine

/-! SUPPORT. The operand extension (O14). -/

namespace Sys2Proof.Machine

/-! ### Doublewords of the local memory (R137, R203) -/

theorem Agent.localLoc_add (a : Agent) (x y : Nat) : a.localLoc (x + y) = a.localLoc x + y := by
  cases a with
  | thr c t => show ulmLoc c (x + y) = ulmLoc c x + y; unfold ulmLoc; omega
  | seq n q => show seqLoc n q (x + y) = seqLoc n q x + y; unfold seqLoc; omega

/-- The addresses of consecutive doublewords. -/
theorem dwordAddr_succ (ea : Word) (i : Nat) : ea + ofN (8 * (i + 1)) = ea + 8 + ofN (8 * i) := by
  rw [BitVec.add_assoc]
  congr 1
  unfold ofN
  rw [Nat.mul_add, Nat.add_comm, BitVec.ofNat_add]
  rfl

/-- An access to the local memory leaves no trace in an RTB or a cache (R205, R326). -/
theorem State.touch_local {s : State} {ea : Word} {n : Nat} (hn : 0 < n) (h : ea.toNat + n ≤ s.cur.window) : s.touch ea n = s := by
  have hhome : homeDie (s.cur.localLoc ea.toNat) = none := homeDie_local (s.cur.le_localLoc _)
  have hwindow := s.cur.window_le
  unfold touch touchBy
  rw [State.resolve_local _ h]
  dsimp only
  rw [State.useRtb_low _ _ _ _ (by omega), touchAcc, hhome]

/-- `k` doublewords of the window, one after the other: what holds of the first and of the rest. -/
structure DwordsIn (s : State) (ea : Word) (k : Nat) : Prop where
  within : ea.toNat + 8 * k ≤ s.cur.window

namespace DwordsIn
variable {s : State} {ea : Word} {k : Nat}

theorem head (h : DwordsIn s ea (k + 1)) : ea.toNat + 8 ≤ s.cur.window := by
  have := h.within
  omega

theorem toNat_next (h : DwordsIn s ea (k + 1)) : (ea + 8).toNat = ea.toNat + 8 := by
  have hhead := h.head
  have hwindow := s.cur.window_le
  rw [BitVec.toNat_add, Nat.mod_eq_of_lt]
  · rfl
  · show ea.toNat + 8 < 2 ^ 64
    omega

theorem tail (h : DwordsIn s ea (k + 1)) : DwordsIn s (ea + 8) k := by
  have hall := h.within
  refine ⟨?_⟩
  rw [h.toNat_next]
  omega

/-- The location of a doubleword behind the first. -/
theorem loc_next (h : DwordsIn s ea (k + 1)) (i : Nat) :
    s.cur.localLoc (ea + 8).toNat + 8 * i = s.cur.localLoc ea.toNat + 8 * (i + 1) := by
  rw [h.toNat_next, Agent.localLoc_add]
  omega

end DwordsIn

/-- What OXLD reads in the local memory. -/
theorem State.loadWords_local {s : State} {k : Nat} {ea : Word} (h : DwordsIn s ea k)
    (hfree : ∀ i, i < k → s.blocked (s.cur.localLoc ea.toNat + 8 * i) 8 false = false ∧
      s.poisoned (s.cur.localLoc ea.toNat + 8 * i) 8 = false) :
    s.loadWords ea k = .ok ((List.range k).map fun i => bytesWord (s.ownBytes s.me.journal (s.cur.localLoc ea.toNat + 8 * i) 8)) := by
  induction k generalizing ea with
  | zero => rfl
  | succ k ih =>
    obtain ⟨hfree0, hclean0⟩ := hfree 0 (Nat.succ_pos k)
    have hfirst := State.loadBytes_local h.head hfree0 hclean0
    have hrest := ih h.tail fun i hi => by
      rw [h.loc_next]
      exact hfree (i + 1) (by omega)
    simp only [h.loc_next] at hrest
    rw [State.loadWords, hfirst, hrest, List.range_succ_eq_map, List.map_cons, List.map_map]
    rfl

/-- Such a read leaves no trace. -/
theorem State.touchWords_local {s : State} {k : Nat} {ea : Word} (h : DwordsIn s ea k) : s.touchWords ea k = s := by
  have hfold : ∀ l : List Nat, (∀ i ∈ l, i < k) → l.foldl (fun t i => t.touch (ea + ofN (8 * i)) 8) s = s := by
    intro l hl
    induction l with
    | nil => rfl
    | cons i l ih =>
      obtain ⟨hi, hrest⟩ := List.forall_mem_cons.1 hl
      have hwindow := s.cur.window_le
      have hall := h.within
      have haddr : (ea + ofN (8 * i)).toNat = ea.toNat + 8 * i := by
        rw [BitVec.toNat_add, ofN, BitVec.toNat_ofNat]
        omega
      rw [List.foldl_cons, State.touch_local (by decide) (by omega)]
      exact ih hrest
  exact hfold _ fun i hi => List.mem_range.1 hi

/-- The checks of a store into the local memory (R120, R121). -/
theorem State.storeCheck_local {s : State} {ea : Word} {n : Nat} (h : ea.toNat + n ≤ s.cur.window)
    (hallowed : s.storeRefused s.cur (s.cur.localLoc ea.toNat) = false) :
    s.storeCheck s.cur ea n = .ok { loc := s.cur.localLoc ea.toNat } := by
  rw [State.storeCheck, State.resolve_local _ h]
  show (do check (!s.storeRefused s.cur (s.cur.localLoc ea.toNat)) Cause.permission ea; Except.ok _) = _
  rw [hallowed]
  rfl

/-- One checked doubleword of OXST. -/
def dwordReq (va : Word) (acc : Acc) (w : Word) : StoreReq := { va := va, acc := acc, bs := (wordBytes w).map some, cost := 16 }

theorem dwordReq_data (va : Word) (acc : Acc) (w : Word) : (dwordReq va acc w).data = wordBytes w := by
  rw [StoreReq.data, dwordReq, List.map_map]
  exact List.map_id _

/-- What OXST is to store in the local memory. -/
theorem State.storeWords_local {s : State} {ws : List Word} {ea : Word} (h : DwordsIn s ea ws.length)
    (hallowed : ∀ i, i < ws.length → s.storeRefused s.cur (s.cur.localLoc ea.toNat + 8 * i) = false) :
    s.storeWords ea ws = .ok ((List.zipIdx ws).map fun e =>
      dwordReq (ea + ofN (8 * e.2)) { loc := s.cur.localLoc ea.toNat + 8 * e.2 } e.1) := by
  induction ws generalizing ea with
  | nil => rfl
  | cons w ws ih =>
    have hfirst := State.storeCheck_local h.head (hallowed 0 (Nat.succ_pos _))
    have hrest := ih h.tail fun i hi => by
      rw [h.loc_next]
      exact hallowed (i + 1) (by rw [List.length_cons]; omega)
    simp only [h.loc_next, ← dwordAddr_succ] at hrest
    rw [State.storeWords, hfirst, hrest, List.zipIdx_cons, List.map_cons, List.zipIdx_succ, List.map_map,
      show ea + ofN (8 * 0) = ea from BitVec.add_zero ea]
    rfl

/-! ### What checked doublewords are (R137) -/

/-- The checked stores of OXST, one by one. -/
theorem State.storeWords_ok {s : State} {ws : List Word} {ea : Word} {rs : List StoreReq} (h : s.storeWords ea ws = .ok rs) :
    rs.map (·.bs) = ws.map (fun w => (wordBytes w).map some) ∧ rs.map (·.va) = (List.range ws.length).map (fun i => ea + ofN (8 * i)) ∧
    (∀ r ∈ rs, r.cost = 16) := by
  induction ws generalizing ea rs with
  | nil =>
    rw [State.storeWords, Except.ok.injEq] at h
    subst h
    exact ⟨rfl, rfl, fun r hr => absurd hr List.not_mem_nil⟩
  | cons w ws ih =>
    rw [State.storeWords] at h
    cases hacc : s.storeCheck s.cur ea 8 with
    | error e => rw [hacc] at h; cases h
    | ok acc =>
      cases hrest : s.storeWords (ea + 8) ws with
      | error e => rw [hacc, hrest] at h; cases h
      | ok qs =>
        rw [hacc, hrest] at h
        obtain ⟨hbs, hva, hcost⟩ := ih hrest
        cases h
        refine ⟨?_, ?_, List.forall_mem_cons.2 ⟨rfl, hcost⟩⟩
        · rw [List.map_cons, List.map_cons, hbs]
        · rw [List.map_cons, hva, List.length_cons, List.range_succ_eq_map, List.map_cons, List.map_map,
            show ea + ofN (8 * 0) = ea from BitVec.add_zero ea]
          refine congrArg (ea :: ·) (List.map_congr_left fun i _ => ?_)
          exact (dwordAddr_succ ea i).symm

/-- OXLD reads as many doublewords as it asks for. -/
theorem State.loadWords_length {s : State} {k : Nat} {ea : Word} {ws : List Word} (h : s.loadWords ea k = .ok ws) : ws.length = k := by
  induction k generalizing ea ws with
  | zero =>
    rw [State.loadWords, Except.ok.injEq] at h
    rw [← h]
    rfl
  | succ k ih =>
    rw [State.loadWords] at h
    cases hfirst : s.loadBytes s.cur ea 8 with
    | error e => rw [hfirst] at h; cases h
    | ok b =>
      cases hrest : s.loadWords (ea + 8) k with
      | error e => rw [hfirst, hrest] at h; cases h
      | ok qs =>
        rw [hfirst, hrest] at h
        cases h
        exact congrArg (· + 1) (ih hrest)

/-! ### OXLD -/

/-- The ox registers after consecutive ones were written. -/
theorem Thread.getOx_foldl_setOx (d k : Nat) (ws : List Word) (n : Nat) (t : Thread) :
    ((ws.zipIdx n).foldl (fun t w => t.setOx (d + w.2) w.1) t).getOx k =
      if d + n ≤ k ∧ k < d + n + ws.length then ws.getD (k - (d + n)) 0 else t.getOx k := by
  induction ws generalizing n t with
  | nil => exact (if_neg (by rw [List.length_nil]; omega)).symm
  | cons w ws ih =>
    rw [List.zipIdx_cons, List.foldl_cons, ih, Thread.getOx_setOx, List.length_cons]
    by_cases hk : k = d + n
    · subst hk
      rw [if_neg (by omega), if_pos rfl, if_pos (by omega), Nat.sub_self]
      rfl
    · rw [if_neg hk]
      refine ite_congr (propext ⟨fun h => by omega, fun h => by omega⟩) (fun h => ?_) fun _ => rfl
      rw [show k - (d + n) = k - (d + (n + 1)) + 1 by omega, List.getD_cons_succ]

/-- They take no part in control. -/
theorem Thread.control_foldl_setOx (d : Nat) (l : List (Word × Nat)) (t : Thread) :
    (l.foldl (fun t w => t.setOx (d + w.2) w.1) t).control = t.control := by
  induction l generalizing t with
  | nil => rfl
  | cons e l ih => exact ih _

theorem Thread.getOx_next (t : Thread) (len k : Nat) : (t.next len).getOx k = t.getOx k := by
  obtain ⟨-, hrest⟩ := t.completed_next len
  rw [hrest]
  rfl

theorem CachesOnly.cur {s t : State} (h : CachesOnly s t) : t.cur = s.cur := by
  obtain ⟨hrest, -⟩ := h
  rw [hrest]

/-- Reads leave the executing thread its clocks aside. -/
theorem CachesOnly.me {s t : State} (h : CachesOnly s t) : t.me = { s.me with seen := t.me.seen } := by
  have hcur := h.cur
  obtain ⟨-, hthread, -⟩ := h
  have hme := hthread s.cur
  rw [State.me, State.me, hcur]
  exact hme

/-- OXLD of doublewords that its accesses give (R137). -/
theorem runs_oxld {s : State} {d a : BitVec 5} {n : BitVec 3} {ws : List Word} (halign : (s.x a).toNat % 8 = 0)
    (h : s.loadWords (s.x a) (n.toNat + 1) = .ok ws) :
    Runs (.oxld d a n) s fun t => CachesOnly s (s.touchWords (s.x a) (n.toNat + 1)) ∧ OnlyMe (s.touchWords (s.x a) (n.toNat + 1)) t ∧
      t.pc = (s.me.next 4).pc ∧ (∀ r, t.x r = (s.me.next 4).getX r) ∧
      ∀ k, t.ox k = if d.toNat ≤ k ∧ k < d.toNat + (n.toNat + 1) then ws.getD (k - d.toNat) 0 else s.ox k := by
  have hcaches := State.touchWords_caches s (s.x a) (n.toNat + 1)
  have hme := hcaches.me
  generalize hu : s.touchWords (s.x a) (n.toNat + 1) = u at *
  have hexec : exec (.oxld d a n) s =
      .next ((u.modMe fun t => (List.zipIdx ws).foldl (fun t w => t.setOx (d.toNat + w.2) w.1) t).adv 4) := by
    rw [exec_oxld, execOxld, check, decide_eq_true halign, h, hu]
    rfl
  have hcontrol : ((u.modMe fun t => (List.zipIdx ws).foldl (fun t w => t.setOx (d.toNat + w.2) w.1) t).adv 4).me.control =
      (s.me.next 4).control := by
    rw [State.me_adv, State.me_modMe, Thread.control_next, Thread.control_foldl_setOx, Thread.control_next, hme]
    rfl
  refine ⟨_, hexec, hcaches, (State.onlyMe_modMe u _).trans (State.onlyMe_modMe _ _), Thread.pc_control hcontrol,
    Thread.getX_control hcontrol, fun k => ?_⟩
  rw [State.ox, State.me_adv, State.me_modMe, Thread.getOx_next, Thread.getOx_foldl_setOx, Nat.add_zero, State.loadWords_length h, hme]
  rfl

/-- OXLD in the local memory (R24, R137, R203). -/
theorem runs_oxld_local {s : State} {d a : BitVec 5} {n : BitVec 3} (halign : (s.x a).toNat % 8 = 0)
    (hwindow : (s.x a).toNat + 8 * (n.toNat + 1) ≤ s.cur.window)
    (hfree : ∀ i, i ≤ n.toNat → s.blocked (s.cur.localLoc (s.x a).toNat + 8 * i) 8 false = false ∧
      s.poisoned (s.cur.localLoc (s.x a).toNat + 8 * i) 8 = false) :
    ∃ t, exec (.oxld d a n) s = .next t ∧ OnlyMe s t ∧ t.pc = (s.me.next 4).pc ∧ (∀ r, t.x r = (s.me.next 4).getX r) ∧
      ∀ k, t.ox k = if d.toNat ≤ k ∧ k < d.toNat + (n.toNat + 1) then
          bytesWord (s.ownBytes s.me.journal (s.cur.localLoc (s.x a).toNat + 8 * (k - d.toNat)) 8)
        else s.ox k := by
  have hin : DwordsIn s (s.x a) (n.toNat + 1) := ⟨hwindow⟩
  obtain ⟨t, hexec, -, honly, hpc, hx, hox⟩ := runs_oxld (d := d) halign (State.loadWords_local hin fun i hi => hfree i (by omega))
  rw [State.touchWords_local hin] at honly
  refine ⟨t, hexec, honly, hpc, hx, fun k => (hox k).trans ?_⟩
  refine ite_congr rfl (fun hk => ?_) fun _ => rfl
  rw [List.getD_eq_getElem?_getD, List.getElem?_map, List.getElem?_range (by omega)]
  rfl

/-! ### OXST -/

/-- Stores into the journal, with the completion of their instruction. -/
theorem JournalStep.recorded {s u : State} {rs : List StoreReq}
    (h : JournalStep s u ((noteWhole rs).map StoreReq.entry) (rs.map (·.cost)).sum) (hroom : s.me.jcnt + (rs.map (·.cost)).sum ≤ 4096) :
    Recorded s rs (u.adv 4) := by
  have hme : (u.adv 4).me = { s.me.next 4 with journal := s.me.journal ++ (noteWhole rs).map StoreReq.entry, actst := u.me.actst } := by
    rw [State.me_adv, h.me, Thread.next_journaled]
  obtain ⟨-, hothers⟩ := State.onlyMe_modMe u fun t => t.next 4
  refine ⟨?_, fun a ha => ?_, h.cores, ?_, ?_⟩
  · rw [show u.adv 4 = { u with thr := (u.adv 4).thr } from rfl, h.rest]
  · exact (hothers a (by rwa [h.cur])).trans (h.others a ha)
  · exact Thread.journaled_actst hme
  · have hjcnt : (u.adv 4).me.jcnt = u.me.jcnt := by
      rw [hme]
      rfl
    exact hjcnt.trans (h.jcnt (by omega))

/-- Bytes written behind others. -/
theorem Memory.writeN_append (m : List Host.Cell) (l : Nat) (a b : List Byte) :
    Memory.writeN m l (a ++ b) = Memory.writeN (Memory.writeN m l a) (l + a.length) b := by
  induction a generalizing m l with
  | nil => rfl
  | cons x a ih =>
    rw [List.cons_append, Memory.writeN, Memory.writeN, ih, List.length_cons]
    congr 1
    omega

/-- Consecutive doublewords, written one by one. -/
theorem Memory.foldl_writeN_dwords (l : Nat) (ws : List Word) (n : Nat) (m : List Host.Cell) :
    (ws.zipIdx n).foldl (fun m e => Memory.writeN m (l + 8 * e.2) (wordBytes e.1)) m =
      Memory.writeN m (l + 8 * n) (ws.flatMap wordBytes) := by
  induction ws generalizing n m with
  | nil => rfl
  | cons w ws ih =>
    rw [List.zipIdx_cons, List.foldl_cons, ih, List.flatMap_cons, Memory.writeN_append, length_wordBytes]
    rfl

/-- Stores leave every byte that none of them covers. -/
theorem Memory.foldl_writeN_outside {rs : List StoreReq} {l : Nat}
    (h : ∀ r ∈ rs, l < r.acc.loc ∨ r.acc.loc + r.data.length ≤ l) (m : List Host.Cell) :
    Memory.read (rs.foldl (fun m r => Memory.writeN m r.acc.loc r.data) m) l = Memory.read m l := by
  induction rs generalizing m with
  | nil => rfl
  | cons r rs ih =>
    obtain ⟨hr, hrs⟩ := List.forall_mem_cons.1 h
    rw [List.foldl_cons, ih hrs, Memory.read_writeN_outside _ _ _ _ hr]

section
variable {s : State} {a b : BitVec 5} {n : BitVec 3} {rs : List StoreReq}

/-- OXST whose checks pass (R137). -/
theorem exec_oxst_checked (halign : (s.x b).toNat % 8 = 0)
    (h : s.storeWords (s.x b) ((List.range (n.toNat + 1)).map fun i => s.ox (a.toNat + i)) = .ok rs) :
    exec (.oxst a b n) s = s.storeAll rs fun t => t.adv 4 := by
  rw [exec_oxst, execOxst, check, decide_eq_true halign, h]
  rfl

/-- Each checked store of OXST has eight bytes, all written. -/
theorem oxst_bytes (h : s.storeWords (s.x b) ((List.range (n.toNat + 1)).map fun i => s.ox (a.toNat + i)) = .ok rs) :
    ∀ r ∈ rs, r.bs.length = 8 ∧ r.bs.all Option.isSome = true := by
  obtain ⟨hbs, -, -⟩ := State.storeWords_ok h
  intro r hr
  obtain ⟨w, -, hw⟩ := List.mem_map.1 (hbs ▸ List.mem_map_of_mem hr)
  rw [← hw]
  exact ⟨(List.length_map _).trans (length_wordBytes w), all_map_some _⟩

end

/-- OXST in the local memory, of a form that is not journaled (R24, R137, R203). -/
theorem runs_oxst_local {s : State} {a b : BitVec 5} {n : BitVec 3} (halign : (s.x b).toNat % 8 = 0)
    (hwindow : (s.x b).toNat + 8 * (n.toNat + 1) ≤ s.cur.window)
    (hfree : ∀ i, i ≤ n.toNat → s.storeRefused s.cur (s.cur.localLoc (s.x b).toNat + 8 * i) = false ∧
      s.journaled s.cur (s.cur.localLoc (s.x b).toNat + 8 * i) = false ∧
      s.blocked (s.cur.localLoc (s.x b).toNat + 8 * i) 8 true = false ∧
      s.acrossBridge s.cur.dieNo (s.cur.localLoc (s.x b).toNat + 8 * i) = false) :
    ∃ t, exec (.oxst a b n) s = .next t ∧ StoreFrame s t ∧ t.me = s.me.next 4 ∧
      Stored s t (s.cur.localLoc (s.x b).toNat) ((List.range (n.toNat + 1)).flatMap fun i => wordBytes (s.ox (a.toNat + i))) := by
  generalize hws : (List.range (n.toNat + 1)).map (fun i => s.ox (a.toNat + i)) = ws
  have hlen : ws.length = n.toNat + 1 := by rw [← hws, List.length_map, List.length_range]
  have hin : DwordsIn s (s.x b) ws.length := ⟨by rw [hlen]; exact hwindow⟩
  have hwords := State.storeWords_local hin fun i hi => (hfree i (by omega)).1
  have hreqs : ∀ r ∈ ws.zipIdx.map (fun e => dwordReq (s.x b + ofN (8 * e.2)) { loc := s.cur.localLoc (s.x b).toNat + 8 * e.2 } e.1),
      (s.journaled s.cur r.acc.loc = false ∧ s.blocked r.acc.loc r.bs.length true = false ∧
        s.acrossBridge s.cur.dieNo r.acc.loc = false) ∧ r.Plain := by
    rw [List.forall_mem_map]
    intro e he
    have hi : e.2 < ws.length := by simpa using (List.mem_zipIdx' he).1
    obtain ⟨-, hissue, hfree', hnear⟩ := hfree e.2 (by omega)
    refine ⟨⟨hissue, hfree', hnear⟩, rfl, .inl (placeOf_local ?_), all_map_some _⟩
    exact (s.cur.le_localLoc _).trans (Nat.le_add_right _ _)
  obtain ⟨t, hall, hframe, hme, hmem⟩ := State.storeAll_atIssue 4 (fun r hr => (hreqs r hr).1) fun r hr => (hreqs r hr).2
  have hexec := (exec_oxst_checked (a := a) (n := n) halign (by rw [hws]; exact hwords)).trans hall
  have hbytes : (List.range (n.toNat + 1)).flatMap (fun i => wordBytes (s.ox (a.toNat + i))) = ws.flatMap wordBytes := by
    rw [← hws, List.flatMap_map]
  have hwritten : t.mem = Memory.writeN s.mem (s.cur.localLoc (s.x b).toNat) (ws.flatMap wordBytes) := by
    rw [hmem, List.foldl_map]
    simp only [dwordReq_data]
    exact Memory.foldl_writeN_dwords (s.cur.localLoc (s.x b).toNat) ws 0 s.mem
  rw [hbytes]
  refine ⟨t, hexec, hframe, hme, ?_, fun l hl => ?_⟩
  · rw [hwritten]
    exact Memory.readN_writeN_same _ _ _
  · rw [hwritten]
    exact Memory.read_writeN_outside _ _ _ _ hl

/-- OXST at issue, wherever in local memory its doublewords lie (R137). -/
theorem runs_oxst_ulm {s : State} {a b : BitVec 5} {n : BitVec 3} {rs : List StoreReq} (halign : (s.x b).toNat % 8 = 0)
    (hwords : s.storeWords (s.x b) ((List.range (n.toNat + 1)).map fun i => s.ox (a.toNat + i)) = .ok rs)
    (h : ∀ r ∈ rs, s.journaled s.cur r.acc.loc = false ∧ s.blocked r.acc.loc 8 true = false ∧ r.acc.key = 0 ∧
      s.acrossBridge s.cur.dieNo r.acc.loc = false ∧ placeOf r.acc.loc = .ulm) :
    Runs (.oxst a b n) s fun t => StoreFrame s t ∧ t.me = s.me.next 4 ∧ rs.length = n.toNat + 1 ∧
      ∀ l, (∀ r ∈ rs, l < r.acc.loc ∨ r.acc.loc + 8 ≤ l) → Memory.read t.mem l = Memory.read s.mem l := by
  have hbytes := oxst_bytes hwords
  obtain ⟨hbs, -, -⟩ := State.storeWords_ok hwords
  have hlen : rs.length = n.toNat + 1 := by
    have hmap := congrArg List.length hbs
    rwa [List.length_map, List.length_map, List.length_map, List.length_range] at hmap
  obtain ⟨t, hall, hframe, hme, hmem⟩ := State.storeAll_atIssue (s := s) (rs := rs) 4
    (fun r hr => by
      obtain ⟨hissue, hfree, -, hnear, -⟩ := h r hr
      rw [(hbytes r hr).1]
      exact ⟨hissue, hfree, hnear⟩)
    fun r hr => by
      obtain ⟨-, -, hkey, -, hplace⟩ := h r hr
      exact ⟨hkey, .inl hplace, (hbytes r hr).2⟩
  refine ⟨t, (exec_oxst_checked halign hwords).trans hall, hframe, hme, hlen, fun l hl => ?_⟩
  rw [hmem]
  refine Memory.foldl_writeN_outside (fun r hr => ?_) s.mem
  rw [r.length_data, (hbytes r hr).1]
  exact hl r hr

/-- OXST into the journal (R24, R25, R137). -/
theorem runs_oxst_journal {s : State} {a b : BitVec 5} {n : BitVec 3} {rs : List StoreReq} (halign : (s.x b).toNat % 8 = 0)
    (hwords : s.storeWords (s.x b) ((List.range (n.toNat + 1)).map fun i => s.ox (a.toNat + i)) = .ok rs) (h : AllJournaled s rs) :
    Runs (.oxst a b n) s (Recorded s rs) := by
  obtain ⟨u, hall, hstep⟩ := State.storeAll_recorded 4 h
  obtain ⟨-, hroom⟩ := h
  exact ⟨_, (exec_oxst_checked halign hwords).trans hall, hstep.recorded hroom⟩

/-- OXLD and OXST of an address that is not a multiple of 8 (R137). -/
theorem runs_ox_misaligned {s : State} {d a : BitVec 5} {n : BitVec 3} (hserv : Servable s) (h : (s.x a).toNat % 8 ≠ 0) :
    ∀ i ∈ [Instr.oxld d a n, .oxst d a n], Runs i s (HeldByTrap s Cause.misaligned (s.x a)) := by
  simp only [List.forall_mem_cons, List.not_mem_nil, false_imp_iff, implies_true, and_true]
  constructor <;> refine runs_trapOut ?_ hserv (by decide) (by decide)
  · rw [exec_oxld, execOxld, check, decide_eq_false h]
    rfl
  · rw [exec_oxst, execOxst, check, decide_eq_false h]
    rfl

/-- Settles O14: OXLD by `runs_oxld`, OXST by the stores that its doublewords are. -/
theorem operandExtension : Obligations.OperandExtension := by
  unfold Obligations.OperandExtension
  refine ⟨⟨fun s d a => rfl, fun s d a n => ?load, fun s a b n => runs_oxst_local⟩, fun s d a n ws => runs_oxld,
    fun s d a n hserv => runs_ox_misaligned hserv, fun s d a => ?copy, fun s a b n rs halign hwords => ?store⟩
  case load => exact runs_oxld_local
  case copy => exact ⟨_, rfl, threadStep_adv s _ 4⟩
  case store =>
    obtain ⟨hbs, hva, hcost⟩ := State.storeWords_ok hwords
    rw [List.map_map] at hbs
    rw [List.length_map, List.length_range] at hva
    exact ⟨runs_oxst_journal halign hwords, hbs, hva, hcost, runs_oxst_ulm halign hwords⟩

end Sys2Proof.Machine

/-! SUPPORT. Floating-point instructions on registers that no stream binds (O11). -/

namespace Sys2Proof.Machine

/-! ### Unbound registers (R126, R143) -/

theorem fSrc_unbound {s : State} {r : BitVec 5} (h : s.me.slotOf false r = none) : s.fSrc r = .ok (s.f r) := by
  rw [State.fSrc, h]
  rfl

theorem slotsOf_unbound {s : State} {rs : List (BitVec 5)} (h : ∀ r ∈ rs, s.me.slotOf false r = none) : s.slotsOf false rs = [] := by
  rw [State.slotsOf, List.filterMap_eq_nil_iff.2 h]
  rfl

theorem fOut_unbound {s : State} {srcs : List (BitVec 5)} {d : BitVec 5} (v : Word) (fl : FFlags)
    (hsrcs : ∀ r ∈ srcs, s.me.slotOf false r = none) (hd : s.me.slotOf false d = none) :
    s.fOut srcs d v fl = s.complete [] fl fun t => t.modMe fun m => m.setF d v := by
  rw [State.fOut, slotsOf_unbound hsrcs, hd]

/-! ### The shapes of the FP instructions -/

section
variable {ins : Instr} {s : State} {d a b : BitVec 5} {f : BitVec 1} (hthr : s.cur.isThr = true)
include hthr

/-- An instruction that writes F[d] and raises flags. -/
theorem flagRuns_setF {q : Nat × FFlags} (hexec : exec ins s = s.complete [] q.2 fun t => t.modMe fun m => m.setF d (ofN q.1)) :
    FlagRuns ins s (fun t => t.setF d (ofN q.1)) q.2 :=
  flagRuns_of_complete hexec hthr (State.onlyMe_modMe s _) (State.me_modMe s _) rfl rfl

/-- An instruction that writes X[d] and raises flags. -/
theorem flagRuns_setX {q : Word × FFlags} (hexec : exec ins s = s.complete [] q.2 fun t => t.wx d q.1) :
    FlagRuns ins s (fun t => t.setX d q.1) q.2 :=
  flagRuns_of_complete hexec hthr (State.onlyMe_modMe s _) (State.me_modMe s _) (Thread.setX_pc _ _ _) (Thread.setX_utvec _ _ _)

variable (ha : s.me.slotOf false a = none)

theorem flagRuns_fp0 {e : Enc} {q : Nat × FFlags} (hd : s.me.slotOf false d = none)
    (hexec : exec ins s = if s.cur.isSeq then illegalIssuer s e else s.fOut [] d (ofN q.1) q.2) :
    FlagRuns ins s (fun t => t.setF d (ofN q.1)) q.2 := by
  refine flagRuns_setF hthr (hexec.trans ?_)
  rw [State.isSeq_of_isThr hthr, if_neg Bool.false_ne_true, fOut_unbound _ _ (fun r hr => absurd hr List.not_mem_nil) hd]

include ha

theorem flagRuns_fp1 {e : Enc} {op : Nat → Nat × FFlags} (hd : s.me.slotOf false d = none) (hexec : exec ins s = s.fp1 e d a f op) :
    FlagRuns ins s (fun t => t.setF d (ofN (op (fpCode f (s.f a))).1)) (op (fpCode f (s.f a))).2 := by
  refine flagRuns_setF hthr (hexec.trans ?_)
  rw [State.fp1, State.isSeq_of_isThr hthr, if_neg Bool.false_ne_true, fSrc_unbound ha]
  exact fOut_unbound _ _ (List.forall_mem_singleton.2 ha) hd

theorem flagRuns_fpX1 {e : Enc} {op : Nat → Word × FFlags} (hexec : exec ins s = s.fpX1 e d a f op) :
    FlagRuns ins s (fun t => t.setX d (op (fpCode f (s.f a))).1) (op (fpCode f (s.f a))).2 := by
  refine flagRuns_setX hthr (hexec.trans ?_)
  rw [State.fpX1, State.isSeq_of_isThr hthr, if_neg Bool.false_ne_true, fSrc_unbound ha, slotsOf_unbound (List.forall_mem_singleton.2 ha)]
  rfl

variable (hb : s.me.slotOf false b = none)
include hb

theorem flagRuns_fp2 {e : Enc} {op : Nat → Nat → Nat × FFlags} (hd : s.me.slotOf false d = none) (hexec : exec ins s = s.fp2 e d a b f op) :
    FlagRuns ins s (fun t => t.setF d (ofN (op (fpCode f (s.f a)) (fpCode f (s.f b))).1)) (op (fpCode f (s.f a)) (fpCode f (s.f b))).2 := by
  refine flagRuns_setF hthr (hexec.trans ?_)
  rw [State.fp2, State.isSeq_of_isThr hthr, if_neg Bool.false_ne_true, fSrc_unbound ha, fSrc_unbound hb]
  exact fOut_unbound _ _ (by simp [ha, hb]) hd

theorem flagRuns_fp3 {e : Enc} {op : Nat → Nat → Nat → Nat × FFlags} (hd : s.me.slotOf false d = none)
    (hexec : exec ins s = s.fp3 e d a b f op) :
    FlagRuns ins s (fun t => t.setF d (ofN (op (fpCode f (s.f a)) (fpCode f (s.f b)) (fpCode f (s.f d))).1))
      (op (fpCode f (s.f a)) (fpCode f (s.f b)) (fpCode f (s.f d))).2 := by
  refine flagRuns_setF hthr (hexec.trans ?_)
  rw [State.fp3, State.isSeq_of_isThr hthr, if_neg Bool.false_ne_true, fSrc_unbound ha, fSrc_unbound hb, fSrc_unbound hd]
  exact fOut_unbound _ _ (by simp [ha, hb, hd]) hd

theorem flagRuns_fpCmp {e : Enc} {c : Nat} (hexec : exec ins s = s.fpCmp e c d a b f) :
    FlagRuns ins s
      (fun t => t.setX d (b2w (fcmp c ((fpFmt f).decode (fpCode f (s.f a))) ((fpFmt f).decode (fpCode f (s.f b)))).1))
      (fcmp c ((fpFmt f).decode (fpCode f (s.f a))) ((fpFmt f).decode (fpCode f (s.f b)))).2 := by
  have hexec' : exec ins s = s.complete []
      (fcmp c ((fpFmt f).decode (fpCode f (s.f a))) ((fpFmt f).decode (fpCode f (s.f b)))).2 fun t =>
        t.wx d (b2w (fcmp c ((fpFmt f).decode (fpCode f (s.f a))) ((fpFmt f).decode (fpCode f (s.f b)))).1) := by
    rw [hexec, State.fpCmp, State.isSeq_of_isThr hthr, if_neg Bool.false_ne_true, fSrc_unbound ha, fSrc_unbound hb,
      slotsOf_unbound (by simp [ha, hb])]
    rfl
  exact flagRuns_setX (q := (_, _)) hthr hexec'

end

/-- The low word of an FP32 code, sign-extended (R129). -/
theorem moveWord_eq (f : BitVec 1) (v : Word) : (if f = 1 then ofI (sxN 32 (fpCode f v)) else ofN (fpCode f v)) =
    if f = 1 then (v.extractLsb' 0 32).signExtend 64 else v := by
  by_cases hf : f = 1
  · rw [if_pos hf, if_pos hf, ofI_sxN (by decide), fpCode, if_pos hf]
    congr 1
    exact BitVec.eq_of_toNat_eq (by simp)
  · rw [if_neg hf, if_neg hf, fpCode, if_neg hf]
    exact BitVec.ofNat_toNat 64 v

/-- Settles O11: each FP instruction by its shape. -/
theorem floatResults : Obligations.FloatResults := by
  unfold Obligations.FloatResults
  intro s d a b r f k F A B C m done doneX hthr ha hb hd
  have one : ∀ {ins : Instr} {e : Enc} {op : Nat → Nat × FFlags}, exec ins s = s.fp1 e d a f op → done ins (op A) :=
    fun hexec => flagRuns_fp1 hthr ha hd hexec
  have two : ∀ {ins : Instr} {e : Enc} {op : Nat → Nat → Nat × FFlags}, exec ins s = s.fp2 e d a b f op → done ins (op A B) :=
    fun hexec => flagRuns_fp2 hthr ha hb hd hexec
  have three : ∀ {ins : Instr} {e : Enc} {op : Nat → Nat → Nat → Nat × FFlags}, exec ins s = s.fp3 e d a b f op → done ins (op A B C) :=
    fun hexec => flagRuns_fp3 hthr ha hb hd hexec
  have oneX : ∀ {ins : Instr} {e : Enc} {op : Nat → Word × FFlags}, exec ins s = s.fpX1 e d a f op → doneX ins (op A) :=
    fun hexec => flagRuns_fpX1 hthr ha hexec
  have compare : ∀ {ins : Instr} {e : Enc} {c : Nat}, exec ins s = s.fpCmp e c d a b f →
      doneX ins (b2w (fcmp c (F.decode A) (F.decode B)).1, (fcmp c (F.decode A) (F.decode B)).2) :=
    fun hexec => flagRuns_fpCmp hthr ha hb hexec
  have zero : ∀ {ins : Instr} {e : Enc} {q : Nat × FFlags},
      (exec ins s = if s.cur.isSeq then illegalIssuer s e else s.fOut [] d (ofN q.1) q.2) → done ins q :=
    fun hexec => flagRuns_fp0 hthr hd hexec
  refine ⟨two rfl, two rfl, two rfl, two rfl, one rfl, three rfl, three rfl, three rfl, two rfl, two rfl,
    compare rfl, compare rfl, compare rfl, compare rfl, ?classify, ?single, ?double, ?integer, zero rfl, ?move, zero rfl,
    two rfl, two rfl, two rfl⟩
  case classify => exact oneX (op := fun x => (F.classWord x, 0)) (exec_fclass d a f s)
  case single =>
    exact flagRuns_fp1 (f := 0) (op := fun x => ((roundFP fp32 m false (fp64.decode x)).1,
      (fp64.decode x).snan ||| (roundFP fp32 m false (fp64.decode x)).2)) hthr ha hd (exec_fcvtS d a r s)
  case double =>
    exact flagRuns_fp1 (f := 1) (op := fun x => ((roundFP fp64 0 false (fp32.decode x)).1, (fp32.decode x).snan)) hthr ha hd
      (exec_fcvtD d a s)
  case integer =>
    exact oneX (op := fun x => (ofI (convInt m (kindLo k.toNat) (kindHi k.toNat) (F.decode x)).1,
      (convInt m (kindLo k.toNat) (kindHi k.toNat) (F.decode x)).2.1)) (exec_fcvti d a k r f s)
  case move =>
    rw [← moveWord_eq]
    exact oneX (op := fun x => (if f = 1 then ofI (sxN 32 x) else ofN x, 0)) (exec_fmvxf d a f s)

end Sys2Proof.Machine

/-! SUPPORT. Floating-point loads and stores and the stream configuration (O31). -/

namespace Sys2Proof.Machine

/-! ### Floating-point loads and stores (R120, R126) -/

/-- Floating-point flags that are not raised trap nothing (R97). -/
theorem State.fpTraps_zero (s : State) : s.fpTraps 0 = false := by
  unfold fpTraps
  rw [show field (0 : FFlags) 0 5 = 0 from by decide, Nat.zero_and]
  rfl

theorem State.raiseFlags_zero (s : State) : s.raiseFlags 0 = s := if_pos rfl

section
variable {s : State} {d b : BitVec 5} {i : BitVec 14}

/-- A load into an unbound f register (R120, R126). -/
theorem floatLoad_step {ins : Instr} {e : Enc} {n : Nat} {bs : List Byte} (hthr : s.cur.isThr = true) (hd : s.me.slotOf false d = none)
    (h : s.load (s.ea b i) n = .ok bs) (hexec : exec ins s = if s.cur.isSeq then illegalIssuer s e else finishOut s (do
      let b' ← s.load (s.ea b i) n
      .ok ((s.touch (s.ea b i) n).fOut [] d (bytesWord b')))) :
    CachesOnly s (s.touch (s.ea b i) n) ∧ Runs ins s (ThreadStep (s.touch (s.ea b i) n) (fun t => t.setF d (bytesWord bs)) 4) := by
  have hcaches := State.touch_caches s (s.ea b i) n
  refine ⟨hcaches, ?_⟩
  generalize s.touch (s.ea b i) n = u at *
  have hslot : u.me.slotOf false d = none := by rw [hcaches.me]; exact hd
  refine ⟨_, ?_, threadStep_adv u (fun t => t.setF d (bytesWord bs)) 4⟩
  rw [hexec, State.isSeq_of_isThr hthr, if_neg Bool.false_ne_true, h]
  show u.fOut [] d (bytesWord bs) = _
  rw [fOut_unbound _ _ (fun r hr => absurd hr List.not_mem_nil) hslot, State.complete, u.fpTraps_zero, if_neg Bool.false_ne_true,
    State.raiseFlags_zero]
  rfl

/-- The store of an unbound f register (R126). -/
def floatReq (s : State) (d b : BitVec 5) (i : BitVec 14) (acc : Acc) (n : Nat) : StoreReq :=
  { va := s.ea b i, acc := acc, bs := (leBytes n (s.f d).toNat).map some, cost := 16 }

/-- How FSTW and FSTD are performed (R120). -/
def floatStore (s : State) (e : Enc) (d b : BitVec 5) (i : BitVec 14) (n : Nat) : Out :=
  if s.cur.isSeq then illegalIssuer s e
  else s.streamOut (do
    let v ← s.fSrc d
    check (decide ((s.ea b i).toNat % n = 0)) Cause.misaligned (s.ea b i)
    let acc ← s.storeCheck s.cur (s.ea b i) n
    .ok (s.storeAll [{ va := s.ea b i, acc := acc, bs := (leBytes n v.toNat).map some, cost := 16 }]
      fun t => (t.popAll (s.slotsOf false [d])).adv 4))

section
variable {ins : Instr} {e : Enc} {n : Nat} {acc : Acc} (hthr : s.cur.isThr = true) (hd : s.me.slotOf false d = none)
  (hexec : exec ins s = floatStore s e d b i n)
include hthr hd hexec

theorem floatStore_checked (halign : (s.ea b i).toNat % n = 0) (hcheck : s.storeCheck s.cur (s.ea b i) n = .ok acc) :
    exec ins s = s.storeAll [floatReq s d b i acc n] fun t => t.adv 4 := by
  rw [hexec, floatStore, State.isSeq_of_isThr hthr, if_neg Bool.false_ne_true, fSrc_unbound hd, check, decide_eq_true halign, hcheck,
    slotsOf_unbound (List.forall_mem_singleton.2 hd)]
  rfl

/-- Such a store at issue. -/
theorem runs_floatStore_now (hkey : acc.key = 0) (h : AtIssue s (s.ea b i) n acc) : Runs ins s fun t =>
    Stored s t acc.loc (leBytes n (s.f d).toNat) ∧ StoreFrame s t ∧ t.me = s.me.next 4 := by
  obtain ⟨halign, hcheck, hissue, hfree, hnear, hplace⟩ := h
  obtain ⟨t, hall, hframe, hme, hmem⟩ := State.storeAll_atIssue (s := s) (rs := [floatReq s d b i acc n]) 4
    (List.forall_mem_singleton.2 ⟨hissue, by rw [floatReq, List.length_map, length_leBytes]; exact hfree, hnear⟩)
    (List.forall_mem_singleton.2 ⟨hkey, hplace, all_map_some _⟩)
  have hdata : (floatReq s d b i acc n).data = leBytes n (s.f d).toNat := by
    rw [StoreReq.data, floatReq, List.map_map]
    exact List.map_id _
  rw [List.foldl_cons, List.foldl_nil, hdata] at hmem
  refine ⟨t, (floatStore_checked hthr hd hexec halign hcheck).trans hall, ⟨?_, fun l hl => ?_⟩, hframe, hme⟩
  · rw [hmem]
    exact Memory.readN_writeN_same _ _ _
  · rw [hmem]
    exact Memory.read_writeN_outside _ _ _ _ hl

/-- Such a store through the journal: sixteen bytes whatever its size (R25). -/
theorem runs_floatStore_journal (hcost : 8 + alignUp 8 n = 16) (h : IntoJournal s (s.ea b i) n acc) :
    Runs ins s (Recorded s [floatReq s d b i acc n]) := by
  obtain ⟨halign, hcheck, hjournal, hfree, hnear, hroom⟩ := h
  have hall : AllJournaled s [floatReq s d b i acc n] := by
    refine ⟨List.forall_mem_singleton.2 ⟨hjournal, by rw [floatReq, List.length_map, length_leBytes]; exact hfree, hnear⟩, ?_⟩
    rw [hcost] at hroom
    exact hroom
  obtain ⟨u, hexec', hstep⟩ := State.storeAll_recorded 4 hall
  obtain ⟨-, hroom'⟩ := hall
  exact ⟨_, (floatStore_checked hthr hd hexec halign hcheck).trans hexec', hstep.recorded hroom'⟩

end

end

/-! ### Stream slots (R262, R265) -/

section
variable {s : State} {d : BitVec 5} (hthr : s.cur.isThr = true)
include hthr

theorem runs_stcfg (hvalid : s.streamValid d.toNat s.streamOf = true) (hidle : s.pushing d.toNat = false) :
    Runs (.stcfg d) s (ThreadStep s
      (fun t => { t.setSs d.toNat s.streamOf with vcsr := t.vcsr &&& ~~~(ofN (2 ^ (4 + d.toNat))) }) 4) := by
  refine ⟨_, ?_, threadStep_adv s _ 4⟩
  rw [exec_stcfg, execStcfg, State.isSeq_of_isThr hthr, hvalid, hidle]
  rfl

theorem runs_stcfg_refused (hvalid : s.streamValid d.toNat s.streamOf = false) (hutvec : s.me.utvec = 0) (hserv : Servable s) :
    Runs (.stcfg d) s (HeldByTrap s Cause.streamFault (ofN d.toNat)) := by
  refine ⟨s.raise ⟨Cause.streamFault, ofN d.toNat, 0⟩, ?_, State.raise_heldByTrap 4 hserv (by decide) ?_⟩
  · rw [exec_stcfg, execStcfg, State.isSeq_of_isThr hthr, hvalid]
    rfl
  · rw [State.userLevel, hutvec]
    rfl

theorem runs_stend (hidle : s.pushing d.toNat = false) : Runs (.stend d) s (ThreadStep s (fun t => t.setSs d.toNat {}) 4) := by
  refine ⟨_, ?_, threadStep_adv s _ 4⟩
  rw [exec_stend, execStend, State.isSeq_of_isThr hthr, hidle]
  rfl

/-- The status word of a slot (R265). -/
def streamStatus (st : Stream) : Word :=
  if st.bound then ofN (2 ^ 63 + b2n st.write * 2 ^ 62 + b2n (st.ahead.any fun e => e.fault.isSome) * 2 ^ 61 + (st.total - st.pos) % 2 ^ 48)
  else 0

theorem runs_ststat (a : BitVec 5) : Runs (.ststat d a) s (RegStep s d (streamStatus (s.me.getSs a.toNat)) 4) := by
  refine runs_setReg ?_ rfl
  rw [exec_ststat, execStstat, State.isSeq_of_isThr hthr]
  rfl

end

/-- The fields of the status of a bound slot. -/
theorem streamStatus_bound {st : Stream} (h : st.bound = true) :
    (streamStatus st).getLsbD 63 = true ∧ (streamStatus st).getLsbD 62 = st.write ∧
    ((streamStatus st).getLsbD 61 = true ↔ ∃ e ∈ st.ahead, e.fault ≠ none) ∧
    field (streamStatus st) 0 48 = (st.total - st.pos) % 2 ^ 48 := by
  have hfault : (st.ahead.any fun e => e.fault.isSome) = true ↔ ∃ e ∈ st.ahead, e.fault ≠ none := by
    simp [Option.isSome_iff_ne_none]
  rw [streamStatus, h, if_pos rfl, ← hfault, field_ofN _ (by decide)]
  have hleft : (st.total - st.pos) % 2 ^ 48 < 2 ^ 48 := Nat.mod_lt _ (by decide)
  generalize (st.total - st.pos) % 2 ^ 48 = left at hleft
  generalize (st.ahead.any fun e => e.fault.isSome) = fault
  generalize st.write = write
  have hbit : ∀ n i : Nat, i < 64 → (ofN n).getLsbD i = decide (n / 2 ^ i % 2 = 1) := fun n i hi => by
    rw [ofN, BitVec.getLsbD_ofNat, decide_eq_true hi, Bool.true_and, Nat.testBit_eq_decide_div_mod_eq]
  rw [hbit _ _ (by decide), hbit _ _ (by decide), hbit _ _ (by decide)]
  cases write <;> cases fault <;>
    · simp only [b2n, if_true, Bool.false_eq_true, if_false, decide_eq_true_eq, decide_eq_false_iff_not, iff_true, iff_false]
      omega

/-- Settles O31: the float loads and stores by the shared load and store, the stream instructions one by one. -/
theorem floatLoadsStoresAndStreams : Obligations.FloatLoadsStoresAndStreams := by
  unfold Obligations.FloatLoadsStoresAndStreams
  refine ⟨fun s d b i bs acc hthr hd => ?memory, fun s d a hthr => ?streams⟩
  case memory =>
    exact ⟨fun h => floatLoad_step hthr hd h rfl, fun h => floatLoad_step hthr hd h rfl, runs_floatStore_now hthr hd rfl,
      runs_floatStore_now hthr hd rfl, runs_floatStore_journal hthr hd rfl (by decide), runs_floatStore_journal hthr hd rfl (by decide)⟩
  case streams =>
    have hstat := runs_ststat (d := d) hthr a
    refine ⟨runs_stcfg hthr, runs_stcfg_refused hthr, runs_stend hthr, fun hfree => ?_, fun hbound => ⟨_, hstat, streamStatus_bound hbound⟩⟩
    rw [streamStatus, hfree] at hstat
    exact hstat

end Sys2Proof.Machine

/-! SUPPORT. Comparisons and roundings of floating-point numbers (O12). -/

namespace Sys2Proof.Machine

/-! ### NaNs (R93, R128) -/

/-- NV stands for a signalling NaN among the operands. -/
theorem snan_or (x y : Num) : x.snan ||| y.snan = if x = .nan true ∨ y = .nan true then Flag.nv else 0 := by
  have hone : ∀ z : Num, z.snan = if z = .nan true then Flag.nv else 0 := fun z => by
    cases z with
    | nan signalling => cases signalling <;> rfl
    | inf _ | real _ _ _ _ => rfl
  rw [hone, hone]
  by_cases hx : x = .nan true <;> by_cases hy : y = .nan true <;> simp [hx, hy]

theorem snan_of_number {x : Num} (h : x.isNan = false) : x.snan = 0 := by
  cases x with
  | nan signalling => cases h
  | inf _ | real _ _ _ _ => rfl

/-- No NaN is below or above a number. -/
theorem Num.lt_of_nan {x y : Num} (h : x.isNan = true ∨ y.isNan = true) : x.lt y = false := by
  cases x with
  | nan _ => rfl
  | inf _ | real _ _ _ _ =>
    cases y with
    | nan _ => rfl
    | inf _ | real _ _ _ _ => exact h.elim nofun nofun

theorem fcmp_nan {x y : Num} (h : x.isNan = true ∨ y.isNan = true) :
    (fcmp 0 x y).1 = false ∧ (fcmp 1 x y).1 = false ∧ (fcmp 2 x y).1 = false ∧ (fcmp 3 x y).1 = true ∧
    (fcmp 1 x y).2 = Flag.nv ∧ (fcmp 2 x y).2 = Flag.nv := by
  have hany : (x.isNan || y.isNan) = true := Bool.or_eq_true_iff.2 h
  have heqv : x.eqv y = false := by
    unfold Num.eqv
    obtain h | h := h <;> simp [h]
  have hflag : (x.snan ||| y.snan) ||| flagIf true Flag.nv = Flag.nv := by
    rw [snan_or]
    split <;> rfl
  simp only [fcmp, hany, heqv, Num.lt_of_nan h, hflag, Bool.or_self, and_self]

theorem fcmp_number {x y : Num} (hx : x.isNan = false) (hy : y.isNan = false) :
    (fcmp 3 x y).1 = false ∧ (∀ c, (fcmp c x y).2 = 0) ∧
    ((fcmp 2 x y).1 = true ↔ (fcmp 1 x y).1 = true ∨ (fcmp 0 x y).1 = true) := by
  have hany : (x.isNan || y.isNan) = false := by rw [hx, hy]; rfl
  have hflag : x.snan ||| y.snan = 0 := by rw [snan_of_number hx, snan_of_number hy]; rfl
  have hno : (0 : FFlags) ||| flagIf false Flag.nv = 0 := rfl
  refine ⟨hany, fun c => ?_, ?_⟩
  · unfold fcmp
    rw [hany, hflag]
    dsimp only
    split
    · rfl
    · exact hno
    · exact hno
    · rfl
  · simp only [fcmp, Bool.or_eq_true]

/-! ### Comparison of numbers (R128) -/

/-- The value of a finite number. -/
def realValue (n : Bool) (m : Nat) (e : Int) : ℚ := (if n then -1 else 1 : ℚ) * (m : ℚ) * (2 : ℚ) ^ e

/-- A finite number over a power of two that divides its own. -/
theorem realValue_eq (n : Bool) (m : Nat) {e k : Int} (h : k ≤ e) :
    realValue n m e = ((if n then -((m * 2 ^ (e - k).toNat : Nat) : Int) else ((m * 2 ^ (e - k).toNat : Nat) : Int) : Int) : ℚ) * 2 ^ k := by
  have hpow : (2 : ℚ) ^ e = (2 : ℚ) ^ (e - k).toNat * 2 ^ k := by
    rw [← zpow_natCast, ← zpow_add₀ (by decide)]
    congr 1
    omega
  unfold realValue
  rw [hpow]
  cases n <;>
    · simp only [if_true, Bool.false_eq_true, if_false]
      push_cast
      ring

theorem real_lt_iff (n n' : Bool) (m m' : Nat) (e e' : Int) (more more' : Bool) :
    (Num.real n m e more).lt (.real n' m' e' more') = true ↔ realValue n m e < realValue n' m' e' := by
  have hpos : (0 : ℚ) < 2 ^ min e e' := zpow_pos (by decide) _
  rw [realValue_eq n m (min_le_left e e'), realValue_eq n' m' (min_le_right e e'), mul_lt_mul_iff_left₀ hpos, Int.cast_lt]
  unfold Num.lt
  rw [decide_eq_true_eq]
  push_cast
  rfl

theorem real_eqv_iff (n n' : Bool) (m m' : Nat) (e e' : Int) (more more' : Bool) :
    (Num.real n m e more).eqv (.real n' m' e' more') = true ↔ realValue n m e = realValue n' m' e' := by
  have hlt := real_lt_iff n n' m m' e e' more more'
  have hgt := real_lt_iff n' n m' m e' e more' more
  unfold Num.eqv
  simp only [Num.isNan, Bool.not_false, Bool.true_and, Bool.and_eq_true, Bool.not_eq_true', Bool.eq_false_iff, ne_eq, hlt, hgt, not_lt]
  exact ⟨fun ⟨h1, h2⟩ => le_antisymm h2 h1, fun h => ⟨h.ge, h.le⟩⟩

/-- Of two numbers at most one is below the other. -/
theorem Num.lt_asymm {x y : Num} (h : x.lt y = true) : y.lt x = false := by
  cases x with
  | nan _ => cases h
  | inf s =>
    cases y with
    | nan _ => cases h
    | inf t => revert h; cases s <;> cases t <;> decide
    | real n m e more =>
      have hs : s = true := h
      exact congrArg (!·) hs
  | real n m e more =>
    cases y with
    | nan _ => cases h
    | inf t =>
      have ht : (!t) = true := h
      show t = false
      simpa using ht
    | real n' m' e' more' =>
      rw [real_lt_iff] at h
      rw [Bool.eq_false_iff, ne_eq, real_lt_iff]
      exact not_lt.2 h.le

/-- A number that is equal to another is not below it. -/
theorem Num.lt_of_eqv {x y : Num} (h : x.eqv y = true) : x.lt y = false := by
  simp only [Num.eqv, Bool.and_eq_true, Bool.not_eq_true'] at h
  exact h.1.2

theorem fcmp_real (n n' : Bool) (m m' : Nat) (e e' : Int) :
    ((fcmp 0 (.real n m e false) (.real n' m' e' false)).1 = true ↔ realValue n m e = realValue n' m' e') ∧
    ((fcmp 1 (.real n m e false) (.real n' m' e' false)).1 = true ↔ realValue n m e < realValue n' m' e') ∧
    ((fcmp 2 (.real n m e false) (.real n' m' e' false)).1 = true ↔ realValue n m e ≤ realValue n' m' e') := by
  refine ⟨real_eqv_iff n n' m m' e e' false false, real_lt_iff n n' m m' e e' false false, ?_⟩
  show (Num.lt (.real n m e false) (.real n' m' e' false) || Num.eqv (.real n m e false) (.real n' m' e' false)) = true ↔ _
  rw [Bool.or_eq_true, real_eqv_iff, real_lt_iff]
  exact le_iff_lt_or_eq.symm

theorem fcmp_inf (n n' : Bool) (m : Nat) (e : Int) (more : Bool) :
    (fcmp 0 (.real n m e more) (.inf n')).1 = false ∧ (fcmp 0 (.inf n') (.real n m e more)).1 = false ∧
    (fcmp 1 (.real n m e more) (.inf n')).1 = !n' ∧ (fcmp 1 (.inf n') (.real n m e more)).1 = n' ∧
    (fcmp 0 (.inf n) (.inf n')).1 = (n == n') ∧ (fcmp 1 (.inf n) (.inf n')).1 = (n && !n') := by
  cases n <;> cases n' <;> exact ⟨rfl, rfl, rfl, rfl, rfl, rfl⟩

/-! ### FMIN and FMAX (R104, R128) -/

section
variable {f : Fmt} {a b : Nat}

/-- On two numbers: the code of the lesser, or the other. -/
theorem minMax_number (max : Bool) (ha : (f.decode a).isNan = false) (hb : (f.decode b).isNan = false) : (f.minMax max a b).1 =
    if ((f.decode a).lt (f.decode b) || ((f.decode a).eqv (f.decode b) && (f.decode a).neg && !(f.decode b).neg)) != max then a else b := by
  unfold Fmt.minMax
  dsimp only
  rw [ha, hb]
  rfl

theorem number_of_lt {x y : Num} (h : x.lt y = true) : x.isNan = false ∧ y.isNan = false := by
  constructor <;> refine Bool.eq_false_iff.2 fun hnan => ?_
  · rw [Num.lt_of_nan (.inl hnan)] at h
    cases h
  · rw [Num.lt_of_nan (.inr hnan)] at h
    cases h

theorem number_of_eqv {x y : Num} (h : x.eqv y = true) : x.isNan = false ∧ y.isNan = false := by
  simp only [Num.eqv, Bool.and_eq_true, Bool.not_eq_true'] at h
  obtain ⟨⟨hnan, -⟩, -⟩ := h
  exact hnan

/-- The first operand is the lesser. -/
theorem minMax_of_less (ha : (f.decode a).isNan = false) (hb : (f.decode b).isNan = false)
    (h : ((f.decode a).lt (f.decode b) || ((f.decode a).eqv (f.decode b) && (f.decode a).neg && !(f.decode b).neg)) = true) :
    (f.minMax false a b).1 = a ∧ (f.minMax true a b).1 = b := by
  rw [minMax_number _ ha hb, minMax_number _ ha hb, h]
  exact ⟨rfl, rfl⟩

/-- It is not. -/
theorem minMax_of_not_less (ha : (f.decode a).isNan = false) (hb : (f.decode b).isNan = false)
    (h : ((f.decode a).lt (f.decode b) || ((f.decode a).eqv (f.decode b) && (f.decode a).neg && !(f.decode b).neg)) = false) :
    (f.minMax false a b).1 = b ∧ (f.minMax true a b).1 = a := by
  rw [minMax_number _ ha hb, minMax_number _ ha hb, h]
  exact ⟨rfl, rfl⟩

theorem minMax_flags (max : Bool) (a b : Nat) :
    (f.minMax max a b).2 = if f.decode a = .nan true ∨ f.decode b = .nan true then Flag.nv else 0 := by
  rw [← snan_or]
  unfold Fmt.minMax
  dsimp only
  split
  · rfl
  split <;> rfl

end

/-- FMIN and FMAX of codes among which there is a NaN. -/
theorem minMax_nan (f : Fmt) (a b : Nat) (max : Bool) :
    ((f.decode a).isNan = true → (f.decode b).isNan = true → (f.minMax max a b).1 = f.qnan) ∧
    ((f.decode a).isNan = true → (f.decode b).isNan = false → (f.minMax max a b).1 = b) ∧
    ((f.decode a).isNan = false → (f.decode b).isNan = true → (f.minMax max a b).1 = a) := by
  unfold Fmt.minMax
  dsimp only
  refine ⟨fun ha hb => ?_, fun ha hb => ?_, fun ha hb => ?_⟩ <;>
    · rw [ha, hb]
      rfl

/-- FMIN and FMAX of two numbers, the first below the second, or the second below the first, or zeros of different signs. -/
theorem minMax_ordered (f : Fmt) (a b : Nat) :
    ((f.decode a).lt (f.decode b) = true → (f.minMax false a b).1 = a ∧ (f.minMax true a b).1 = b) ∧
    ((f.decode b).lt (f.decode a) = true → (f.minMax false a b).1 = b ∧ (f.minMax true a b).1 = a) ∧
    ((f.decode a).eqv (f.decode b) = true → (f.decode a).neg = true → (f.decode b).neg = false →
      (f.minMax false a b).1 = a ∧ (f.minMax true a b).1 = b) ∧
    ((f.decode a).eqv (f.decode b) = true → (f.decode a).neg = false → (f.decode b).neg = true →
      (f.minMax false a b).1 = b ∧ (f.minMax true a b).1 = a) := by
  refine ⟨fun h => ?_, fun h => ?_, fun h ha hb => ?_, fun h ha hb => ?_⟩
  · obtain ⟨hna, hnb⟩ := number_of_lt h
    exact minMax_of_less hna hnb (by rw [h, Bool.true_or])
  · obtain ⟨hnb, hna⟩ := number_of_lt h
    refine minMax_of_not_less hna hnb ?_
    rw [Num.lt_asymm h, Num.eqv, h]
    simp
  · obtain ⟨hna, hnb⟩ := number_of_eqv h
    exact minMax_of_less hna hnb (by rw [h, ha, hb]; simp)
  · obtain ⟨hna, hnb⟩ := number_of_eqv h
    exact minMax_of_not_less hna hnb (by rw [Num.lt_of_eqv h, ha, Bool.and_false]; rfl)

/-! ### Rounding to an integer (R94) -/

section
variable (neg : Bool) (m d : Nat)

theorem roundShift_even : (roundShift 0 neg m d false).1 =
    if 2 ^ d < 2 * (m % 2 ^ d) ∨ (2 * (m % 2 ^ d) = 2 ^ d ∧ m / 2 ^ d % 2 = 1) then m / 2 ^ d + 1 else m / 2 ^ d := by
  simp [roundShift]

theorem roundShift_zero : (roundShift 1 neg m d false).1 = m / 2 ^ d := rfl

theorem roundShift_down : (roundShift 2 neg m d false).1 = if m % 2 ^ d ≠ 0 ∧ neg = true then m / 2 ^ d + 1 else m / 2 ^ d := by
  simp [roundShift]

theorem roundShift_up : (roundShift 3 neg m d false).1 = if m % 2 ^ d ≠ 0 ∧ neg = false then m / 2 ^ d + 1 else m / 2 ^ d := by
  simp [roundShift]

theorem roundShift_away : (roundShift 4 neg m d false).1 =
    if 2 ^ d < 2 * (m % 2 ^ d) ∨ 2 * (m % 2 ^ d) = 2 ^ d then m / 2 ^ d + 1 else m / 2 ^ d := by
  simp [roundShift]

end

theorem roundShift_inexact (mode : Nat) (neg : Bool) (m d : Nat) :
    (roundShift mode neg m d false).2 = true ↔ m % 2 ^ d ≠ 0 := by
  show (decide (m % 2 ^ d ≠ 0) || false) = true ↔ _
  rw [Bool.or_false, decide_eq_true_eq]

/-- The multiples of 2^d next to a number: the one below it and the next. -/
theorem div_pow_bounds (m d : Nat) : m = m / 2 ^ d * 2 ^ d + m % 2 ^ d ∧ m % 2 ^ d < 2 ^ d ∧ (m / 2 ^ d + 1) * 2 ^ d = m / 2 ^ d * 2 ^ d + 2 ^ d :=
  ⟨(Nat.div_add_mod' m (2 ^ d)).symm, Nat.mod_lt _ (Nat.two_pow_pos d), Nat.succ_mul _ _⟩

/-- What each rounding mode of R94 gives on the magnitude m / 2^d. -/
theorem roundShift_rules (neg : Bool) (m d : Nat) :
    let near := fun q : Nat => 2 * (q * 2 ^ d) ≤ 2 * m + 2 ^ d ∧ 2 * m ≤ 2 * (q * 2 ^ d) + 2 ^ d
    let r := fun mode => (roundShift mode neg m d false).1
    (near (r 0) ∧ (m % 2 ^ d * 2 = 2 ^ d → r 0 % 2 = 0)) ∧
    (r 1 * 2 ^ d ≤ m ∧ m < (r 1 + 1) * 2 ^ d) ∧
    (neg = false → r 2 = r 1) ∧ (neg = true → m ≤ r 2 * 2 ^ d ∧ r 2 * 2 ^ d < m + 2 ^ d) ∧
    (neg = true → r 3 = r 1) ∧ (neg = false → m ≤ r 3 * 2 ^ d ∧ r 3 * 2 ^ d < m + 2 ^ d) ∧
    (near (r 4) ∧ (m % 2 ^ d * 2 = 2 ^ d → m ≤ r 4 * 2 ^ d)) := by
  intro near r
  obtain ⟨hsum, hlt, hnext⟩ := div_pow_bounds m d
  simp only [near, r, roundShift_even, roundShift_zero, roundShift_down, roundShift_up, roundShift_away]
  generalize hq : m / 2 ^ d = q at *
  generalize hr : m % 2 ^ d = k at *
  generalize hP : q * 2 ^ d = P at *
  refine ⟨?nearest, ⟨by omega, by omega⟩, fun hneg => ?_, fun hneg => ?_, fun hneg => ?_, fun hneg => ?_, ?away⟩
  case nearest => split <;> omega
  case away => split <;> omega
  · simp [hneg]
  · simp only [hneg, and_true]
    split <;> omega
  · simp [hneg]
  · simp only [hneg, and_true]
    split <;> omega

/-- Settles O12: comparisons by the values compared, roundings by the multiples of 2^d next to the number. -/
theorem floatRules : Obligations.FloatRules := by
  unfold Obligations.FloatRules
  refine ⟨⟨fun x y => fcmp_nan, fun x y => ⟨snan_or x y, snan_or x y⟩, fun x y => fcmp_number, fun n n' m m' e e' => fcmp_real n n' m m' e e',
    fcmp_inf, fun f a b => ?minmax⟩, fun neg m d => ?round⟩
  case minmax =>
    obtain ⟨hlo, hlo1, hlo2⟩ := minMax_nan f a b false
    obtain ⟨hhi, hhi1, hhi2⟩ := minMax_nan f a b true
    obtain ⟨hless, hgreater, hneg, hpos⟩ := minMax_ordered f a b
    exact ⟨fun hx hy => ⟨hlo hx hy, hhi hx hy⟩, fun hx hy => ⟨hlo1 hx hy, hhi1 hx hy⟩, fun hx hy => ⟨hlo2 hx hy, hhi2 hx hy⟩,
      hless, hgreater, hneg, hpos, minMax_flags false a b, minMax_flags true a b⟩
  case round =>
    obtain ⟨heven, hzero, hdown, hdown', hup, hup', haway⟩ := roundShift_rules neg m d
    exact ⟨heven, hzero, hdown, hdown', hup, hup', haway, fun mode => roundShift_inexact mode neg m d⟩

end Sys2Proof.Machine

/-! SUPPORT. Writes of the registers of the MMIO map, by the owner, T7 and the debug port (O53). -/

namespace Sys2Proof.Machine

/-! ### What a write reaches (R207, R419, R423) -/

namespace State

theorem hostWrite_direct {s : State} {w : Writer} (h : w = .master 0 → s.postedA = [] ∧ s.retraining = false) (d q : Nat) (v : Word) :
    s.hostWrite w d q v = s.mmioWrite8 w d q v := by
  unfold hostWrite
  refine if_neg fun hpost => ?_
  obtain ⟨hw, hwait⟩ := hpost
  obtain ⟨hposted, hretrain⟩ := h hw
  simp [hposted, hretrain] at hwait

/-- A write over PF0 with nothing held on link A is applied at once. -/
theorem hostBytes_direct {s : State} (hposted : s.postedA = []) (hretrain : s.retraining = false) (pa : Nat) (bs : List Byte) :
    s.hostBytes (.master 0) pa bs = { s.mmioWrite (.master 0) pa bs with postedA := [] } := by
  simp [hostBytes, postWrite, onLinkB, applyLink, applyInOrder, applyPosted, hposted, hretrain]

/-- OWNCTL takes a master's write outside recovery. -/
theorem mmioWrite8_ownctl {s : State} {m : Nat} (hrec : m = 0 → s.recovery = false) (v : Word) :
    s.mmioWrite8 (.master m) 0 0 v = s.writeOwnctl m v := by
  have hin : s.inRecovery (.master m) = false := by
    simp only [inRecovery, Bool.and_eq_false_iff, decide_eq_false_iff_not]
    by_cases hm : m = 0
    · exact .inl (hrec hm)
    · exact .inr hm
  simp [mmioWrite8, hin, mmioListed, listedDie0]

end State

/-- What a claim, an offer, an acceptance or a release by master `m` needs to reach OWNCTL. -/
def ReachesOwnctl (s : State) (m : Nat) : Prop := m = 0 → s.recovery = false ∧ s.postedA = [] ∧ s.retraining = false

theorem ReachesOwnctl.withOwner {s : State} {m : Nat} (h : ReachesOwnctl s m) (o : Word) : ReachesOwnctl { s with owner := o } m := h

theorem hostWrite_ownctl {s : State} {m : Nat} (h : ReachesOwnctl s m) (v : Word) :
    s.hostWrite (.master m) 0 0 v = s.writeOwnctl m v := by
  rw [State.hostWrite_direct fun hw => (h (Writer.master.inj hw)).2, State.mmioWrite8_ownctl fun hm => (h hm).1]

namespace State

variable {s : State}

theorem writeOwnctl_claim (m : Nat) : s.writeOwnctl m (ofN (1 * 2 ^ 56)) = s.claim m := rfl
theorem writeOwnctl_accept (m : Nat) : s.writeOwnctl m (ofN (3 * 2 ^ 56)) = s.accept m := rfl
theorem writeOwnctl_release (m : Nat) : s.writeOwnctl m (ofN (4 * 2 ^ 56)) = s.ownerRelease m := rfl

theorem writeOwnctl_offer (m dest : Nat) : s.writeOwnctl m (ofN (2 * 2 ^ 56 + dest % 4)) = s.offer m (dest % 4) := by
  have hop : field (ofN (2 * 2 ^ 56 + dest % 4)) 56 8 = 2 := by rw [field_ofN _ (by decide)]; omega
  have hdest : field (ofN (2 * 2 ^ 56 + dest % 4)) 0 2 = dest % 4 := by rw [field_ofN _ (by decide)]; omega
  unfold writeOwnctl
  rw [hop, hdest]
  rfl

theorem isOwner_claimed {m n : Nat} (hm : m < 3) (hne : n ≠ m) :
    isOwner { s with owner := ofN (2 ^ 63 + m * 2 ^ 60) } n = false := by
  have hfield : field (ofN (2 ^ 63 + m * 2 ^ 60)) 60 2 = m := by rw [field_ofN _ (by decide)]; omega
  rw [isOwner, hfield, decide_eq_false (Ne.symm hne), Bool.and_false]

theorem bitAt_claimed {m : Nat} (hm : m < 3) : bitAt (ofN (2 ^ 63 + m * 2 ^ 60)) 63 = true := by
  obtain rfl | rfl | rfl : m = 0 ∨ m = 1 ∨ m = 2 := by omega
  all_goals rfl

end State

/-- A claim by an MCTP master on a device that is owned leaves its owner. -/
theorem claim_owned {u : State} (hown : bitAt u.owner 63 = true) {j : Nat} (hj : j ≠ 0) :
    (u.hostWrite (.master j) 0 0 (ofN (1 * 2 ^ 56))).owner = u.owner := by
  rw [hostWrite_ownctl fun h => absurd h hj, State.writeOwnctl_claim, State.claim, if_pos hown]
  rfl

/-- One claim on an unowned device. -/
theorem claim_unowned {s : State} {m : Nat} (hm : m < 3) (hreach : ReachesOwnctl s m) (hown : bitAt s.owner 63 = false) :
    s.hostWrite (.master m) 0 0 (ofN (1 * 2 ^ 56)) = { s with owner := ofN (2 ^ 63 + m * 2 ^ 60) } := by
  rw [hostWrite_ownctl hreach, State.writeOwnctl_claim, State.claim, hown, if_neg Bool.false_ne_true, Nat.mod_eq_of_lt (by omega)]

/-- Of the claims of one cycle on an unowned device the lowest index wins. -/
theorem claims_owner {s : State} {m : Nat} {ms : List Nat} (hm : m < 3) (hreach : ReachesOwnctl s m) (hown : bitAt s.owner 63 = false)
    (hmem : m ∈ ms) (hleast : ∀ j ∈ ms, m ≤ j) :
    (((List.range 3).filter fun i => ms.contains i).foldl (fun t i => t.hostWrite (.master i) 0 0 (ofN (1 * 2 ^ 56))) s).owner =
      ofN (2 ^ 63 + m * 2 ^ 60) := by
  have hbelow : ∀ j, j < m → ms.contains j = false := fun j hj =>
    Bool.eq_false_iff.2 fun h => absurd (hleast j (List.contains_iff_mem.1 h)) (by omega)
  have hlater : ∀ (u : State) (j : Nat), j ≠ 0 → u.owner = ofN (2 ^ 63 + m * 2 ^ 60) →
      (if ms.contains j = true then u.hostWrite (.master j) 0 0 (ofN (1 * 2 ^ 56)) else u).owner = ofN (2 ^ 63 + m * 2 ^ 60) := by
    intro u j hj hu
    split
    · exact (claim_owned (hu ▸ State.bitAt_claimed hm) hj).trans hu
    · exact hu
  have hfirst : (if ms.contains m = true then s.hostWrite (.master m) 0 0 (ofN (1 * 2 ^ 56)) else s).owner =
      ofN (2 ^ 63 + m * 2 ^ 60) := by
    rw [if_pos (List.contains_iff_mem.2 hmem), claim_unowned hm hreach hown]
  rw [List.foldl_filter, show List.range 3 = [0, 1, 2] from rfl, List.foldl_cons, List.foldl_cons, List.foldl_cons, List.foldl_nil]
  obtain rfl | rfl | rfl : m = 0 ∨ m = 1 ∨ m = 2 := by omega
  · exact hlater _ 2 (by decide) (hlater _ 1 (by decide) hfirst)
  · rw [hbelow 0 (by decide), if_neg Bool.false_ne_true]
    exact hlater _ 2 (by decide) hfirst
  · rw [hbelow 0 (by decide), hbelow 1 (by decide), if_neg Bool.false_ne_true, if_neg Bool.false_ne_true]
    exact hfirst

/-- An acceptance by the master that the offer names, within its time. -/
theorem accept_offered {s : State} {m : Nat} (hm : m < 3) (hreach : ReachesOwnctl s m) (howned : bitAt s.owner 63 = true)
    (hoffer : bitAt s.owner 62 = true) (hnew : field s.owner 58 2 = m) (htime : (s.timebase - s.offerAt).toNat ≤ 100000000) :
    s.hostWrite (.master m) 0 0 (ofN (3 * 2 ^ 56)) = { s with owner := ofN (2 ^ 63 + m * 2 ^ 60) } := by
  rw [hostWrite_ownctl hreach, State.writeOwnctl_accept, State.accept, if_pos ⟨howned, hoffer, hnew, htime⟩,
    Nat.mod_eq_of_lt (by omega)]

theorem exec_claim_one {s : State} {m : Nat} (hm : m < 3) (hreach : ReachesOwnctl s m) : exec (.claim [m]) s = .next (s.claim m) := by
  have hone : (List.range 3).filter (fun i => [m].contains i) = [m] := by
    obtain rfl | rfl | rfl : m = 0 ∨ m = 1 ∨ m = 2 := by omega
    all_goals rfl
  rw [exec_claim, execClaim, hone, List.foldl_cons, List.foldl_nil, hostWrite_ownctl hreach, State.writeOwnctl_claim]

theorem exec_offer_reaches {s : State} {m : Nat} (dest : Nat) (hm : m < 3) (hreach : ReachesOwnctl s m) :
    exec (.offer m dest) s = .next (s.offer m (dest % 4)) := by
  rw [exec_offer, execOffer, Nat.mod_eq_of_lt hm, hostWrite_ownctl hreach, State.writeOwnctl_offer]

theorem exec_release_reaches {s : State} {m : Nat} (hm : m < 3) (hreach : ReachesOwnctl s m) :
    exec (.release m) s = .next (s.ownerRelease m) := by
  rw [exec_release, execRelease, Nat.mod_eq_of_lt hm, hostWrite_ownctl hreach, State.writeOwnctl_release]

theorem execAccept_release (m r : Nat) (s : State) : execAccept (m, some r) s =
    .next ((s.hostWrite (.master (m % 3)) 0 0 (ofN (3 * 2 ^ 56))).hostWrite (.master (r % 3)) 0 0 (ofN (4 * 2 ^ 56))) := rfl

/-- A release in the cycle of an acceptance comes after it, and from another master it is refused (R426). -/
theorem exec_accept_release {s : State} {m r : Nat} (hm : m < 3) (hreach : ReachesOwnctl s m) (howned : bitAt s.owner 63 = true)
    (hoffer : bitAt s.owner 62 = true) (hnew : field s.owner 58 2 = m) (htime : (s.timebase - s.offerAt).toNat ≤ 100000000)
    (hr : r < 3) (hne : r ≠ m) (hreachr : ReachesOwnctl s r) :
    exec (.accept (m, some r)) s = .next (State.refuse { s with owner := ofN (2 ^ 63 + m * 2 ^ 60) } 0) := by
  rw [exec_accept, execAccept_release, Nat.mod_eq_of_lt hm, accept_offered hm hreach howned hoffer hnew htime, Nat.mod_eq_of_lt hr,
    hostWrite_ownctl (hreachr.withOwner _), State.writeOwnctl_release, State.ownerRelease, State.isOwner_claimed hm hne,
    if_neg Bool.false_ne_true]

theorem exec_accept_alone {s : State} {m : Nat} (hm : m < 3) (hreach : ReachesOwnctl s m) (howned : bitAt s.owner 63 = true)
    (hoffer : bitAt s.owner 62 = true) (hnew : field s.owner 58 2 = m) (htime : (s.timebase - s.offerAt).toNat ≤ 100000000) :
    exec (.accept (m, none)) s = .next { s with owner := ofN (2 ^ 63 + m * 2 ^ 60) } := by
  rw [exec_accept, execAccept, Nat.mod_eq_of_lt hm, accept_offered hm hreach howned hoffer hnew htime]

/-- R419 and R420: claims, offers, acceptances and releases by master `m`. -/
theorem runs_ownership {s : State} {m : Nat} (dest : Nat) (hm : m < 3) (hreach : ReachesOwnctl s m) :
    (bitAt s.owner 63 = false → Runs (.claim [m]) s (fun t => t = { s with owner := ofN (2 ^ 63 + m * 2 ^ 60) }) ∧
      ∀ ms, m ∈ ms → (∀ j ∈ ms, m ≤ j) → Runs (.claim ms) s fun t => t.owner = ofN (2 ^ 63 + m * 2 ^ 60)) ∧
    (bitAt s.owner 63 = true → Runs (.claim [m]) s fun t => t = s.refuse 0) ∧
    (s.isOwner m = true → Runs (.offer m dest) s fun t =>
      t = { s with owner := setField (setField s.owner 62 1 1) 58 2 (dest % 4), offerAt := s.timebase }) ∧
    (s.isOwner m = false → Runs (.offer m dest) s fun t => t = s.refuse 0) ∧
    (bitAt s.owner 63 = true → bitAt s.owner 62 = true → field s.owner 58 2 = m →
      (s.timebase - s.offerAt).toNat ≤ 100000000 →
      let u : State := { s with owner := ofN (2 ^ 63 + m * 2 ^ 60) }
      Runs (.accept (m, none)) s (fun t => t = u) ∧
      ∀ r, r < 3 → r ≠ m → ReachesOwnctl s r → Runs (.accept (m, some r)) s fun t => t = u.refuse 0) ∧
    (s.isOwner m = true → Runs (.release m) s fun t => t = { s with owner := setField s.owner 63 1 0 }) ∧
    (s.isOwner m = false → Runs (.release m) s fun t => t = s.refuse 0) := by
  refine ⟨fun hfree => ⟨⟨_, exec_claim_one hm hreach, ?_⟩, fun ms hmem hleast => ⟨_, exec_claim ms s, ?_⟩⟩,
    fun howned => ⟨_, exec_claim_one hm hreach, if_pos howned⟩,
    fun hown => ⟨_, exec_offer_reaches dest hm hreach, if_pos hown⟩,
    fun hown => ⟨_, exec_offer_reaches dest hm hreach, if_neg (by simp [hown])⟩,
    fun howned hoffered hnew htime => ⟨⟨_, exec_accept_alone hm hreach howned hoffered hnew htime, rfl⟩,
      fun r hr hne hreachr => ⟨_, exec_accept_release hm hreach howned hoffered hnew htime hr hne hreachr, rfl⟩⟩,
    fun hown => ⟨_, exec_release_reaches hm hreach, if_pos hown⟩,
    fun hown => ⟨_, exec_release_reaches hm hreach, if_neg (by simp [hown])⟩⟩
  · rw [State.claim, hfree, if_neg Bool.false_ne_true, Nat.mod_eq_of_lt (by omega)]
  · exact claims_owner hm hreach hfree hmem hleast

end Sys2Proof.Machine

/-! SUPPORT. Writes of the core, Set, die and device registers of the MMIO map (O53). -/

namespace Sys2Proof.Machine

/-! ### Who may write (R207) -/

/-- The owner over PF0, out of recovery and with nothing before it on link A. -/
def ByPf0 (s : State) : Prop := s.isOwner 0 = true ∧ s.recovery = false ∧ s.postedA = [] ∧ s.retraining = false

/-- The writer is the owner over PF0, or T7 of a core of partition `q`. -/
def Reaches (s : State) (w : Writer) (q : Nat) : Prop := (w = .master 0 ∧ ByPf0 s) ∨ ∃ c, w = .t7 c ∧ s.partOf (.thr c 7) = q

section
variable {s : State} {w : Writer} {q : Nat}

theorem ByPf0.inRecovery (h : ByPf0 s) : s.inRecovery (.master 0) = false := by
  obtain ⟨-, hrec, -⟩ := h
  simp [State.inRecovery, hrec]

theorem ByPf0.byOwner (h : ByPf0 s) : s.byOwner (.master 0) = true := by
  obtain ⟨hown, -⟩ := h
  simp [State.byOwner, hown]

theorem ByPf0.hostWrite (h : ByPf0 s) (d o : Nat) (v : Word) : s.hostWrite (.master 0) d o v = s.mmioWrite8 (.master 0) d o v := by
  obtain ⟨-, -, hflows⟩ := h
  exact State.hostWrite_direct (fun _ => hflows) d o v

theorem Reaches.inRecovery (h : Reaches s w q) : s.inRecovery w = false := by
  obtain ⟨rfl, hpf0⟩ | ⟨c, rfl, -⟩ := h
  · exact hpf0.inRecovery
  · rfl

theorem Reaches.hostWrite (h : Reaches s w q) (d o : Nat) (v : Word) : s.hostWrite w d o v = s.mmioWrite8 w d o v := by
  obtain ⟨rfl, hpf0⟩ | ⟨c, rfl, -⟩ := h
  · exact hpf0.hostWrite d o v
  · exact State.hostWrite_direct (w := .t7 c) (fun h => nomatch h) d o v

theorem Reaches.mine (h : Reaches s w q) : (s.byOwner w || State.byT7Of s q w) = true := by
  obtain ⟨rfl, hpf0⟩ | ⟨c, rfl, hpart⟩ := h
  · rw [hpf0.byOwner, Bool.true_or]
  · simp [State.byT7Of, hpart]

end

/-! ### The registers by their place in the map (R207) -/

namespace State

variable {s : State} {w : Writer} {d : Nat}

/-- The control words of core `64 d + i`: CRST, SCANCTL and HTABINIT. -/
theorem mmioWrite8_coreReg (hrec : s.inRecovery w = false) {i j : Nat} (hi : i < 64) (hj : j < 3) (v : Word) :
    s.mmioWrite8 w d (0x60000 + 32 * i + 8 * j) v =
      if j = 0 then
        if s.byOwner w || s.byT7Of (s.partOf (.thr (64 * d + i) 7)) w then
          if bitAt v 0 then s.startCoreReset (64 * d + i) else s
        else s.refuse d
      else if j = 1 then
        if s.byOwner w || s.byT7Of (s.partOf (.thr (64 * d + i) 7)) w then s.writeScanctl (64 * d + i) v else s.refuse d
      else if s.byOwner w && s.coreUnlocked (64 * d + i) then
        s.modCore (64 * d + i) fun k => { k with htabInit := v &&& 0xFFF80 }
      else s.refuse d := by
  have hlisted : mmioListed d (0x60000 + 32 * i + 8 * j) = true := by
    simp [mmioListed, listedBoth]
    omega
  have hcore : (0x60000 + 32 * i + 8 * j - 0x60000) / 32 = i := by omega
  have hword : (0x60000 + 32 * i + 8 * j - 0x60000) / 8 % 4 = j := by omega
  unfold mmioWrite8
  rw [hrec, hlisted, hcore, hword]
  dsimp only
  rw [Bool.false_and, if_neg Bool.false_ne_true, Bool.not_true, if_neg Bool.false_ne_true]
  repeat rw [if_neg (by omega)]
  rw [if_pos (by omega)]
  obtain rfl | rfl | rfl : j = 0 ∨ j = 1 ∨ j = 2 := by omega
  all_goals rfl

/-- SRST of Set `8 d + i`. -/
theorem mmioWrite8_setReset (hrec : s.inRecovery w = false) {i : Nat} (hi : i < 8) (v : Word) :
    s.mmioWrite8 w d (0x61000 + 8 * i) v =
      if s.byOwner w || s.byT7Of (s.getSet (8 * d + i)).part w then
        if bitAt v 0 then s.startSetReset (8 * d + i) else s
      else s.refuse d := by
  have hlisted : mmioListed d (0x61000 + 8 * i) = true := by
    simp [mmioListed, listedBoth]
    omega
  have hset : (0x61000 + 8 * i - 0x61000) / 8 = i := by omega
  unfold mmioWrite8
  rw [hrec, hlisted, hset]
  dsimp only
  rw [Bool.false_and, if_neg Bool.false_ne_true, Bool.not_true, if_neg Bool.false_ne_true]
  repeat rw [if_neg (by omega)]
  rw [if_pos (by omega)]

/-- Entry `i` of the ingress routing table. -/
theorem mmioWrite8_route (hrec : s.inRecovery w = false) {i : Nat} (hi : i < 256) (v : Word) :
    s.mmioWrite8 w d (0x20000 + 8 * i) v = s.writeRoute w d i v := by
  have hlisted : mmioListed d (0x20000 + 8 * i) = true := by
    simp [mmioListed, listedBoth]
    omega
  have hentry : (0x20000 + 8 * i - 0x20000) / 8 = i := by omega
  unfold mmioWrite8
  rw [hrec, hlisted, hentry]
  dsimp only
  rw [Bool.false_and, if_neg Bool.false_ne_true, Bool.not_true, if_neg Bool.false_ne_true]
  repeat rw [if_neg (by omega)]
  rw [if_pos (by omega)]

/-- The first doubleword of reduction tree `i`. -/
theorem mmioWrite8_tree (hrec : s.inRecovery w = false) {i : Nat} (hi : i < 64) (v : Word) :
    s.mmioWrite8 w d (0x30000 + 32 * i + 8 * 0) v = s.writeTree w d i 0 v := by
  have hlisted : mmioListed d (0x30000 + 32 * i + 8 * 0) = true := by
    simp [mmioListed, listedBoth]
    omega
  have htree : (0x30000 + 32 * i + 8 * 0 - 0x30000) / 32 = i := by omega
  have hword : (0x30000 + 32 * i + 8 * 0 - 0x30000) / 8 % 4 = 0 := by omega
  unfold mmioWrite8
  rw [hrec, hlisted, htree, hword]
  dsimp only
  rw [Bool.false_and, if_neg Bool.false_ne_true, Bool.not_true, if_neg Bool.false_ne_true]
  repeat rw [if_neg (by omega)]
  rw [if_pos (by omega)]

/-- The MSI-X trigger register of function `f`. -/
theorem mmioWrite8_msix (hrec : s.inRecovery w = false) {f : Nat} (hf : f < 9) (v : Word) :
    s.mmioWrite8 w 0 (0x400 + 8 * f) v = s.triggerMsix w f v := by
  have hlisted : mmioListed 0 (0x400 + 8 * f) = true := by
    simp [mmioListed, listedDie0]
    omega
  have hfn : (0x400 + 8 * f - 0x400) / 8 = f := by omega
  unfold mmioWrite8
  rw [hrec, hlisted, hfn]
  dsimp only
  rw [Bool.false_and, if_neg Bool.false_ne_true, Bool.not_true, if_neg Bool.false_ne_true, if_pos (by omega), if_neg (by decide)]
  repeat rw [if_neg (by omega)]
  rw [if_pos (by omega)]

/-- CPBRK `n`, from the debug port. -/
theorem mmioWrite8_cpbrk {n : Nat} (hn : n < 8) (v : Word) : s.mmioWrite8 .debug 0 (0x2000 + 8 * n) v = s.writeCpbrk .debug n v := by
  have hlisted : mmioListed 0 (0x2000 + 8 * n) = true := by
    simp [mmioListed, listedDie0]
    omega
  have hreg : (0x2000 + 8 * n - 0x2000) / 8 = n := by omega
  unfold mmioWrite8
  rw [hlisted, hreg]
  dsimp only
  rw [inRecovery, Bool.false_and, if_neg Bool.false_ne_true, Bool.not_true, if_neg Bool.false_ne_true, if_neg (by omega),
    if_neg (by omega), if_pos (by omega), if_neg (by decide), byDebug, Bool.or_true, if_pos rfl]

theorem mmioWrite8_domain (hrec : s.inRecovery w = false) (v : Word) :
    s.mmioWrite8 w 0 0x008 v = if s.byOwner w then s.writeDomain v else s.refuse 0 := by
  simp [mmioWrite8, hrec, mmioListed, listedDie0]

theorem mmioWrite8_ltp (hrec : s.inRecovery w = false) (v : Word) :
    s.mmioWrite8 w 0 0x010 v = if s.byOwner w then s.writeLtp v else s.refuse 0 := by
  simp [mmioWrite8, hrec, mmioListed, listedDie0]

theorem mmioWrite8_tbslew (hrec : s.inRecovery w = false) (v : Word) :
    s.mmioWrite8 w 0 0x020 v = if s.byOwner w then s.writeTbslew v else s.refuse 0 := by
  simp [mmioWrite8, hrec, mmioListed, listedDie0]

theorem mmioWrite8_tbstep (hrec : s.inRecovery w = false) (v : Word) :
    s.mmioWrite8 w 0 0x028 v = if s.byOwner w then s.writeTbstep v else s.refuse 0 := by
  simp [mmioWrite8, hrec, mmioListed, listedDie0]

/-- In recovery PF0 reaches the mailbox alone. -/
theorem mmioWrite8_recovery {q : Nat} (hrec : s.inRecovery w = true) (hq : q < 0x100000) (v : Word) :
    s.mmioWrite8 w d q v = s.refuse d := by
  unfold mmioWrite8
  rw [hrec, decide_eq_true hq]
  simp

/-- TRCCTL and TRCMASK, from the debug port. -/
theorem mmioWrite8_trcctl (v : Word) : s.mmioWrite8 .debug d 0x70000 v = s.writeTrcctl d v := by
  simp [mmioWrite8, inRecovery, byDebug, mmioListed, listedBoth]

theorem mmioWrite8_trcmask (v : Word) :
    s.mmioWrite8 .debug d 0x70008 v = s.modDie d fun x => { x with trace := { x.trace with mask := v } } := by
  simp [mmioWrite8, inRecovery, byDebug, mmioListed, listedBoth]

end State

end Sys2Proof.Machine

/-! SUPPORT. The events that write registers of the MMIO map (O53). -/

namespace Sys2Proof.Machine

/-- A field of a word that a mask keeps. -/
theorem field_and_kept {n : Nat} (w m : BitVec n) {l k : Nat} (h : m.extractLsb' l k = BitVec.allOnes k) :
    field (w &&& m) l k = field w l k := by
  unfold field
  rw [BitVec.extractLsb'_and, h, BitVec.and_allOnes]

theorem State.clearPosted {t : State} (h : t.postedA = []) : { t with postedA := [] } = t := by
  rw [← h]

variable {s : State} {w : Writer} {die core p : Nat} {v : Word}

/-! ### The device's own registers (R208, R420) -/

theorem runs_offerTimeout (hoffer : bitAt s.owner 62 = true) (htime : 100000000 < (s.timebase - s.offerAt).toNat) :
    Runs .offerTimeout s fun t => t = { s with owner := setField (setField s.owner 62 1 0) 58 2 0 } :=
  ⟨_, if_pos ⟨hoffer, htime⟩, rfl⟩

theorem runs_domainWrite (h : ByPf0 s) (v : Word) :
    (s.someRunning = false → Runs (.domainWrite v) s (fun t => t = { s with domain := ofN (field v 0 4) }) ∧
      Runs (.tbstepWrite v) s (fun t => t = { s with timebase := s.timebase + ofN (field v 0 48) })) ∧
    (s.someRunning = true → Runs (.domainWrite v) s (fun t => t = s.refuse 0) ∧ Runs (.tbstepWrite v) s (fun t => t = s.refuse 0)) ∧
    Runs (.tbslewWrite v) s (fun t => t = { s with
      tbslew := zext64 (BitVec.ofInt 32 (max (-100000) (min 100000 (v.extractLsb' 0 32).toInt))) }) := by
  have hdomain : exec (.domainWrite v) s = .next (s.writeDomain v) := by
    rw [exec_domainWrite, execDomainWrite, h.hostWrite, State.mmioWrite8_domain h.inRecovery, if_pos h.byOwner]
  have htbstep : exec (.tbstepWrite v) s = .next (s.writeTbstep v) := by
    rw [exec_tbstepWrite, execTbstepWrite, h.hostWrite, State.mmioWrite8_tbstep h.inRecovery, if_pos h.byOwner]
  have htbslew : exec (.tbslewWrite v) s = .next (s.writeTbslew v) := by
    rw [exec_tbslewWrite, execTbslewWrite, h.hostWrite, State.mmioWrite8_tbslew h.inRecovery, if_pos h.byOwner]
  refine ⟨fun hrun => ⟨⟨_, hdomain, ?_⟩, ⟨_, htbstep, ?_⟩⟩, fun hrun => ⟨⟨_, hdomain, if_pos hrun⟩, ⟨_, htbstep, if_pos hrun⟩⟩,
    ⟨_, htbslew, rfl⟩⟩
  · exact if_neg (by simp [hrun])
  · exact if_neg (by simp [hrun])

/-- Writes over PF0 that are not the owner's are refused. -/
theorem runs_domainWrite_refused (hown : s.isOwner 0 = false) (hflows : s.postedA = [] ∧ s.retraining = false) (v : Word) :
    Runs (.domainWrite v) s (fun t => t = s.refuse 0) ∧ Runs (.tbslewWrite v) s (fun t => t = s.refuse 0) := by
  have hby : s.byOwner (.master 0) = false := by simp [State.byOwner, hown]
  constructor
  · refine ⟨_, exec_domainWrite v s, ?_⟩
    rw [State.hostWrite_direct fun _ => hflows]
    cases hrec : s.inRecovery (.master 0)
    case false => rw [State.mmioWrite8_domain hrec, hby, if_neg Bool.false_ne_true]
    case true => rw [State.mmioWrite8_recovery hrec (by decide)]
  · refine ⟨_, exec_tbslewWrite v s, ?_⟩
    rw [State.hostWrite_direct fun _ => hflows]
    cases hrec : s.inRecovery (.master 0)
    case false => rw [State.mmioWrite8_tbslew hrec, hby, if_neg Bool.false_ne_true]
    case true => rw [State.mmioWrite8_recovery hrec (by decide)]

theorem runs_msixTrigger {fn : Nat} (hfn : fn < 9) (hvec : fn = 0 ∨ field v 0 5 < 8) (hmine : fn = s.partOf (.thr core 7) + 1 ∨ fn = 0) :
    Runs (.msixTrigger (.t7 core) fn v) s fun t =>
      t = { s with msix := Tbl.put 0 s.msix fn (Tbl.get 0 s.msix fn ||| BitVec.ofNat 32 (2 ^ field v 0 5)) } := by
  refine ⟨_, (exec_msixTrigger _ fn v s).trans (if_pos hfn), ?_⟩
  rw [State.hostWrite_direct (w := .t7 core) (fun h => nomatch h), State.mmioWrite8_msix rfl hfn]
  refine if_neg ?_
  have hmay : (decide (fn = 0) || decide (s.partOf (.thr core 7) + 1 = fn)) = true := by
    simp only [Bool.or_eq_true, decide_eq_true_eq]
    omega
  simp only [hmay, Bool.not_true, Bool.false_or, decide_eq_true_eq]
  omega

/-- A breakpoint register written by the debug port: HIT stays only where both have it, and the CP resumes when it clears (R406). -/
theorem runs_cpbrkWrite (s : State) (n : Nat) (v : Word) :
    let old := Tbl.get 0 s.cpbrk (n % 8)
    Runs (.cpbrkWrite n v) s fun t => t.thr = s.thr ∧ SameBytes s t ∧
      Tbl.get 0 t.cpbrk (n % 8) = setField (v &&& 0xDFC00000000FFFFF) 61 1 (b2n (bitAt old 61 && bitAt v 61)) ∧
      (bitAt old 61 = true → bitAt v 61 = false → (t.getDie (field old 54 1)).cpHalted = false) := by
  intro old
  refine ⟨_, exec_cpbrkWrite n v s, ?_⟩
  rw [State.mmioWrite8_cpbrk (Nat.mod_lt n (by decide)), State.writeCpbrk]
  have hhit : (bitAt old 61 && !(State.byDebug .debug && !bitAt v 61)) = (bitAt old 61 && bitAt v 61) := by
    rw [State.byDebug, Bool.true_and, Bool.not_not]
  dsimp only
  rw [hhit]
  split
  case isTrue => exact ⟨rfl, .of_mem rfl, Tbl.get_put_same _ _ _ _, fun _ _ => by rw [State.getDie_modDie_same]⟩
  case isFalse h =>
    refine ⟨rfl, .of_mem rfl, Tbl.get_put_same _ _ _ _, fun hold hv => absurd ?_ h⟩
    change (bitAt old 61 && !(bitAt old 61 && bitAt v 61)) = true
    simp [hold, hv]

/-! ### Core and Set controls (R208, R408) -/

theorem runs_coreReset (hcore : core < 128) (h : Reaches s w (s.partOf (.thr core 7))) :
    Runs (.coreReset w core) s fun t => t = s.modCore core fun k => { k with resetting := true } := by
  have hindex : 64 * (core / 64 % 2) + core % 64 = core := by omega
  refine ⟨_, exec_coreReset w core s, ?_⟩
  rw [h.hostWrite]
  have := State.mmioWrite8_coreReg (d := core / 64 % 2) h.inRecovery (Nat.mod_lt core (by decide : 0 < 64)) (by decide : 0 < 3) 1
  rw [hindex, if_pos rfl, if_pos h.mine] at this
  exact this

theorem runs_scanctlStart (hcore : core < 128) (h : Reaches s w (s.partOf (.thr core 7))) (hscan : (s.getCore core).scan = none)
    (hready : bitAt (s.getCore core).ckstat 16 = true ∨ s.scanReady core = true) :
    Runs (.scanctlStart w core v) s fun t => (t.getCore core).scan.map (·.abortPrio) = some (field v 8 6) ∧
      (t.getCore core).scan.map (·.start) = some s.timebase ∧ t.thr = s.thr ∧ SameBytes s t := by
  have hindex : 64 * (core / 64 % 2) + core % 64 = core := by omega
  have hstart : bitAt (v ||| 1) 0 = true := by simp [bitAt]
  have hprio : field (v ||| 1) 8 6 = field v 8 6 := field_or_other v 1 (by decide)
  have hwrite := State.mmioWrite8_coreReg (d := core / 64 % 2) h.inRecovery (Nat.mod_lt core (by decide : 0 < 64)) (by decide : 1 < 3)
    (v ||| 1)
  rw [show 0x60000 + 32 * (core % 64) + 8 * 1 = 0x60008 + 32 * (core % 64) by omega, hindex, if_neg (by decide), if_pos rfl,
    if_pos h.mine, State.writeScanctl, hstart, if_pos rfl, if_pos ⟨by simp [hscan], hready⟩,
    hprio] at hwrite
  have hexec := exec_scanctlStart w core v s
  rw [execScanctlStart, h.hostWrite, hwrite] at hexec
  have hempty := s.emptyL1_coresAndDies core
  refine ⟨_, hexec, ?_, ?_, ?_, .of_mem ?_⟩
  · rw [State.getCore_modCore_same]
    rfl
  · rw [State.getCore_modCore_same]
    rfl
  · exact hempty.thr
  · exact hempty.mem

theorem runs_setReset {set : Nat} (hset : set < 16) (h : Reaches s w (s.getSet set).part) :
    Runs (.setReset w set) s fun t => t = s.modSet set fun k => { k with resetting := true } := by
  have hindex : 8 * (set / 8 % 2) + set % 8 = set := by omega
  have hwrite := State.mmioWrite8_setReset (d := set / 8 % 2) h.inRecovery (Nat.mod_lt set (by decide : 0 < 8)) 1
  rw [hindex, if_pos h.mine] at hwrite
  refine ⟨_, exec_setReset w set s, ?_⟩
  rw [h.hostWrite, hwrite]
  rfl

/-! ### Trace sessions (R407) -/

theorem State.writeTrcctl_open {v : Word} (h : bitAt v 0 = true) (d : Nat) : s.writeTrcctl d v = s.modDie d fun x =>
    { x with trace := { x.trace with
        status := 1, ctlMode := bitAt v 1, stopMode := bitAt v 1, live := x.trace.mask, loss := false, recs := [] } } := by
  simp only [writeTrcctl, h, if_true]

theorem State.writeTrcctl_close {v : Word} (h : bitAt v 0 = false) (d : Nat) : s.writeTrcctl d v = s.modDie d fun x =>
    { x with trace := { x.trace with status := if x.trace.status = 1 then 2 else x.trace.status, ctlMode := bitAt v 1 } } := by
  simp only [writeTrcctl, h, Bool.false_eq_true, if_false]

theorem runs_traceOpen (s : State) (die : Nat) (v : Word) (stop : Bool) :
    Runs (.traceOpen die v stop) s fun t => t.thr = s.thr ∧ SameBytes s t ∧ (t.getDie (die % 2)).trace =
      { status := 1, stopMode := stop, ctlMode := stop, mask := v, live := v, loss := false, recs := [] } := by
  have hopen : bitAt (ofN (1 + 2 * b2n stop)) 0 = true := by cases stop <;> rfl
  have hmode : bitAt (ofN (1 + 2 * b2n stop)) 1 = stop := by cases stop <;> rfl
  have hexec := exec_traceOpen die v stop s
  rw [execTraceOpen, State.mmioWrite8_trcmask, State.mmioWrite8_trcctl, State.writeTrcctl_open hopen] at hexec
  refine ⟨_, hexec, rfl, .of_mem rfl, ?_⟩
  rw [State.getDie_modDie_same, State.getDie_modDie_same, hmode]

theorem runs_traceClose (s : State) (die : Nat) :
    Runs (.traceClose die) s fun t => t.thr = s.thr ∧ SameBytes s t ∧ (t.getDie (die % 2)).trace = { (s.getDie (die % 2)).trace with
      status := if (s.getDie (die % 2)).trace.status = 1 then 2 else (s.getDie (die % 2)).trace.status } := by
  have hclose : ∀ b : Bool, bitAt (ofN (2 * b2n b)) 0 = false := by decide
  have hmode : ∀ b : Bool, bitAt (ofN (2 * b2n b)) 1 = b := by decide
  have hexec := exec_traceClose die s
  rw [execTraceClose, State.mmioWrite8_trcctl, State.writeTrcctl_close (hclose _)] at hexec
  refine ⟨_, hexec, rfl, .of_mem rfl, ?_⟩
  rw [State.getDie_modDie_same, hmode]

/-! ### Ingress and trees (R341, R376) -/

/-- A route of a port of partition `p` that T7 of it or the owner writes over an entry that is not valid. -/
theorem exec_ingressRouteWrite_mine {i : Nat} (hport : s.portOwner (die % 2) (field v 51 3) = some p) (h : Reaches s w p)
    (hfree : bitAt (Tbl.get 0 (s.getDie (die % 2)).routes (i % 256)) 63 = false) :
    exec (.ingressRouteWrite w die i v) s = .next
      (if decide (s.partOfLogical (field v 36 7) = p) &&
          (!bitAt v 62 || s.slateInside (die % 2) (s.getSlate (die % 2) (field v 54 8)) p) then
        s.modDie (die % 2) fun x => { x with routes := Tbl.put 0 x.routes (i % 256) (v &&& 0xFFFFFFFFFFF00000) }
      else s.countDie (die % 2) 6) := by
  rw [exec_ingressRouteWrite, execIngressRouteWrite, h.hostWrite, State.mmioWrite8_route h.inRecovery (Nat.mod_lt i (by decide)),
    State.writeRoute]
  obtain ⟨rfl, hpf0⟩ | ⟨c, rfl, hpart⟩ := h
  · simp only [hpf0.byOwner, hfree, hport, Bool.not_true, Bool.false_and, Bool.or_false, Bool.false_eq_true, if_false]
    rfl
  · simp only [hpart, hfree, hport, decide_true, Bool.not_true, Bool.false_and, Bool.or_false, Bool.false_eq_true, if_false]
    rfl

theorem runs_ingressRouteWrite {i : Nat} (hport : s.portOwner (die % 2) (field v 51 3) = some p) (h : Reaches s w p)
    (hfree : bitAt (Tbl.get 0 (s.getDie (die % 2)).routes (i % 256)) 63 = false) :
    (s.partOfLogical (field v 36 7) = p →
      bitAt v 62 = false ∨ s.slateInside (die % 2) (s.getSlate (die % 2) (field v 54 8)) p = true →
      Runs (.ingressRouteWrite w die i v) s fun t =>
        t = s.modDie (die % 2) fun x => { x with routes := Tbl.put 0 x.routes (i % 256) (v &&& 0xFFFFFFFFFFF00000) }) ∧
    (s.partOfLogical (field v 36 7) ≠ p ∨
        (bitAt v 62 = true ∧ s.slateInside (die % 2) (s.getSlate (die % 2) (field v 54 8)) p = false) →
      Runs (.ingressRouteWrite w die i v) s fun t => t = s.countDie (die % 2) 6) := by
  have hexec := exec_ingressRouteWrite_mine hport h hfree
  refine ⟨fun hcore hslate => ⟨_, hexec, if_pos ?_⟩, fun houtside => ⟨_, hexec, if_neg ?_⟩⟩
  · rw [decide_eq_true hcore]
    obtain hslate | hslate := hslate <;> simp [hslate]
  · obtain hcore | ⟨hslate, hmembers⟩ := houtside
    · simp [hcore]
    · simp [hslate, hmembers]

/-- Die counters touch no tree, thread or byte. -/
theorem countDies_keep (l : List Nat) (s : State) (d k e : Nat) :
    let t := l.foldl (fun u _ => u.countDie d k) s
    t.thr = s.thr ∧ t.mem = s.mem ∧ (t.getDie e).trees = (s.getDie e).trees := by
  induction l generalizing s with
  | nil => exact ⟨rfl, rfl, rfl⟩
  | cons _ l ih =>
    obtain ⟨hthr, hmem, htrees⟩ := ih (s.countDie d k)
    refine ⟨hthr, hmem, htrees.trans ?_⟩
    rw [State.countDie, State.getDie_modDie]
    split
    case isTrue h => rw [h]
    case isFalse => rfl

/-- Tree `i` of die `d` takes a new first doubleword and is empty. -/
def State.newTree (s : State) (d i : Nat) (v : Word) : State :=
  let new := { s.redTree d i with dw0 := v &&& 0xFFFFFFFFFE000000, round := 0, inputs := [], result := none }
  s.modDie d fun x => { x with trees := Tbl.put {} x.trees i new }

theorem runs_reductionTreeWrite {tree : Nat} (hfree : bitAt (s.redTree (die % 2) (tree % 64)).dw0 63 = false)
    (h : Reaches s w (field v 60 3)) (hfn : field v 56 4 < 11) (hroot : field v 49 7 / 64 = die % 2)
    (hcore : s.partOfLogical (field v 49 7) = field v 60 3)
    (hmask : s.maskInside (die % 2) (s.redTree (die % 2) (tree % 64)).members (field v 60 3) = true) :
    Runs (.reductionTreeWrite w die tree 0 v) s fun t => t.thr = s.thr ∧ SameBytes s t ∧ t.redTree (die % 2) (tree % 64) =
      { s.redTree (die % 2) (tree % 64) with dw0 := v &&& 0xFFFFFFFFFE000000, round := 0, inputs := [], result := none } := by
  have hpart : field (v &&& 0xFFFFFFFFFE000000) 60 3 = field v 60 3 := field_and_kept v _ (by decide)
  have hkind : field (v &&& 0xFFFFFFFFFE000000) 56 4 = field v 56 4 := field_and_kept v _ (by decide)
  have hhome : field (v &&& 0xFFFFFFFFFE000000) 49 7 = field v 49 7 := field_and_kept v _ (by decide)
  have hexec : ∃ l : List Nat, exec (.reductionTreeWrite w die tree 0 v) s =
      .next (l.foldl (fun u _ => u.countDie (die % 2) 7) (s.newTree (die % 2) (tree % 64) v)) := by
    rw [exec_reductionTreeWrite, execReductionTreeWrite, h.hostWrite,
      show (0 : Nat) % 4 = 0 from rfl, State.mmioWrite8_tree h.inRecovery (Nat.mod_lt tree (by decide)), State.writeTree]
    change bitAt (Tbl.get {} (s.getDie (die % 2)).trees (tree % 64)).dw0 63 = false at hfree
    change s.maskInside (die % 2) (Tbl.get {} (s.getDie (die % 2)).trees (tree % 64)).members (field v 60 3) = true at hmask
    simp only [if_true, hpart, hkind, hhome, h.mine, hfree, hcore, hroot, hmask, show ¬ 11 ≤ field v 56 4 by omega,
      show ¬ 2 ≤ 0 by decide, Bool.not_true, Bool.false_and, Bool.or_false, Bool.false_eq_true, if_false, decide_false, ne_eq, not_true_eq_false]
    exact ⟨_, rfl⟩
  obtain ⟨l, hexec⟩ := hexec
  obtain ⟨hthr, hmem, htrees⟩ := countDies_keep l (s.newTree (die % 2) (tree % 64) v) (die % 2) 7 (die % 2)
  refine ⟨_, hexec, hthr, .of_mem hmem, ?_⟩
  rw [State.redTree, htrees, State.newTree, State.getDie_modDie_same]
  exact Tbl.get_put_same _ _ _ _

/-! ### The load window and writes of bytes (R207, R418) -/

/-- Byte `a` of the load window of core `c` stands at its place of the map. -/
theorem State.mmioWrite_window {c a : Nat} (hc : c < 128) (ha : a < 0x100000) (bs : List Byte) :
    s.mmioWrite w (0x4040000000 + c / 64 * 0x80000000 + 0x100000 * (c % 64) + a) bs = s.loadWindowWrite w c a bs := by
  have hdie : (0x4040000000 + c / 64 * 0x80000000 + 0x100000 * (c % 64) + a - 0x4000000000) / 0x80000000 = c / 64 := by omega
  have hoff : (0x4040000000 + c / 64 * 0x80000000 + 0x100000 * (c % 64) + a - 0x4000000000) % 0x80000000 =
      0x40000000 + 0x100000 * (c % 64) + a := by omega
  have hwin : 64 * (c / 64) + (0x40000000 + 0x100000 * (c % 64) + a - 0x40000000) / 0x100000 = c := by omega
  have hbyte : (0x40000000 + 0x100000 * (c % 64) + a) % 0x100000 = a := by omega
  unfold mmioWrite
  dsimp only
  rw [hdie, hoff, if_pos (by omega), hwin, hbyte]

theorem exec_ulmLoadWindowWrite_beyond {addr : Nat} (w : Writer) (data : List (BitVec 8)) (hcore : core < 128) (haddr : 0x100000 ≤ addr) :
    exec (.ulmLoadWindowWrite w core addr data) s = .next (s.refuse (core / 64)) := by
  rw [exec_ulmLoadWindowWrite, execUlmLoadWindowWrite, if_neg (by omega), if_pos haddr]

theorem exec_ulmLoadWindowWrite_inside {addr : Nat} (data : List (BitVec 8)) (hcore : core < 128) (haddr : addr < 0x100000)
    (hposted : s.postedA = []) (hretrain : s.retraining = false) :
    exec (.ulmLoadWindowWrite (.master 0) core addr data) s =
      .next { s.loadWindowWrite (.master 0) core addr data with postedA := [] } := by
  rw [exec_ulmLoadWindowWrite, execUlmLoadWindowWrite, if_neg (by omega), if_neg (by omega), State.hostBytes_direct hposted hretrain,
    State.mmioWrite_window hcore haddr]

theorem putUlm_stored (s : State) (c a : Nat) (bs : List Byte) : Stored s (s.putUlm c a bs) (ulmLoc c a) bs :=
  s.putBytes_stored _ bs

theorem State.thr_clearPosted (t : State) : ({ t with postedA := [] } : State).thr = t.thr := rfl

theorem Stored.clearPosted {s t : State} {l : Nat} {bs : List Byte} (h : Stored s t l bs) : Stored s { t with postedA := [] } l bs := h

theorem stored_nil {s t : State} (h : t.mem = s.mem) (l : Nat) : Stored s t l [] := ⟨rfl, fun k _ => by rw [h]⟩

theorem State.loadWindowWrite_loaded {a : Nat} {bs : List Byte} (hown : s.isOwner 0 = true) (hunlocked : s.coreUnlocked core = true)
    (hfits : a + bs.length ≤ 0x100000) : s.loadWindowWrite (.master 0) core a bs = s.putUlm core a bs :=
  if_pos (by simp [byOwner, hown, hunlocked, hfits])

theorem runs_ulmLoadWindowWrite_loaded {addr : Nat} {data : List (BitVec 8)} (hcore : core < 128) (hposted : s.postedA = [])
    (hretrain : s.retraining = false) (hown : s.isOwner 0 = true) (hunlocked : s.coreUnlocked core = true)
    (hfits : addr + data.length ≤ 0x100000) :
    Runs (.ulmLoadWindowWrite (.master 0) core addr data) s fun t => Stored s t (ulmLoc core addr) data ∧ t.thr = s.thr := by
  by_cases haddr : addr < 0x100000
  · have hexec := exec_ulmLoadWindowWrite_inside data hcore haddr hposted hretrain
    have hstored := putUlm_stored s core addr data
    have hthr : (s.putUlm core addr data).thr = s.thr := (s.putUlm_unitWrite core addr data).thr
    rw [State.loadWindowWrite_loaded hown hunlocked hfits] at hexec
    generalize s.putUlm core addr data = u at hexec hstored hthr
    exact ⟨_, hexec, hstored.clearPosted, u.thr_clearPosted.trans hthr⟩
  · have hdata : data = [] := List.eq_nil_of_length_eq_zero (by omega)
    rw [hdata]
    exact ⟨_, exec_ulmLoadWindowWrite_beyond _ _ hcore (by omega), stored_nil (State.countDie_mem _ _ _) _, State.modDie_thr _ _ _⟩

theorem runs_ulmLoadWindowWrite_refused {addr : Nat} {data : List (BitVec 8)} (hcore : core < 128) (hposted : s.postedA = [])
    (hretrain : s.retraining = false) (hbad : s.isOwner 0 = false ∨ s.coreUnlocked core = false ∨ 0x100000 < addr + data.length) :
    Runs (.ulmLoadWindowWrite (.master 0) core addr data) s fun t => t = s.refuse (core / 64) := by
  by_cases haddr : addr < 0x100000
  · have hexec := exec_ulmLoadWindowWrite_inside data hcore haddr hposted hretrain
    rw [State.loadWindowWrite, if_neg] at hexec
    · exact ⟨_, hexec, State.clearPosted (t := s.refuse (core / 64)) hposted⟩
    · obtain hown | hunlocked | hlong := hbad
      · simp [State.byOwner, hown]
      · simp [hunlocked]
      · simp [show ¬ addr + data.length ≤ 0x100000 by omega]
  · exact ⟨_, exec_ulmLoadWindowWrite_beyond _ _ hcore (by omega), rfl⟩

/-- A write of bytes into the map over PF0 is applied at once. -/
theorem exec_mmioRegisterWrite_pf0 {off size : Nat} (h : ByPf0 s) (hsize : size = 4 ∨ size = 8) (hal : off % size = 0)
    (hoff : off + size ≤ 0x100000000) : exec (.mmioRegisterWrite (.master 0) off size v) s =
      .next { s.mmioWrite (.master 0) (0x4000000000 + off) ((wordBytes v).take size) with postedA := [] } := by
  obtain ⟨-, -, hposted, hretrain⟩ := h
  rw [exec_mmioRegisterWrite, execMmioRegisterWrite, if_pos ⟨by omega, hal, hoff⟩, State.hostBytes_direct hposted hretrain]

/-- An aligned doubleword of die 0's half reaches its register. -/
theorem State.mmioWrite_dword {q : Nat} (hq : q < 0x40000000) (hal : q % 8 = 0) (v : Word) :
    s.mmioWrite w (0x4000000000 + q) ((wordBytes v).take 8) = s.mmioWrite8 w 0 q v := by
  have hdie : (0x4000000000 + q - 0x4000000000) / 0x80000000 = 0 := by omega
  have hoff : (0x4000000000 + q - 0x4000000000) % 0x80000000 = q := by omega
  have htake : (wordBytes v).take 8 = wordBytes v := List.take_of_length_le (by simp)
  unfold mmioWrite
  dsimp only
  rw [hdie, hoff, htake, if_neg (by omega), if_pos ⟨length_wordBytes v, hal⟩, bytesWord_wordBytes]

theorem runs_mmioRegisterWrite (h : ByPf0 s) (core : Nat) (v : Word) :
    Runs (.mmioRegisterWrite (.master 0) 0x10 8 v) s (fun t => t = { s with ltp := ofN (field v 0 3) }) ∧
    Runs (.mmioRegisterWrite (.master 0) 0x10 4 v) s (fun t => t = s.refuse 0) ∧
    (core < 64 → s.coreUnlocked core = true → Runs (.mmioRegisterWrite (.master 0) (0x60010 + 32 * core) 8 v) s fun t =>
      t = s.modCore core fun k => { k with htabInit := v &&& 0xFFF80 }) := by
  obtain ⟨-, -, hposted, -⟩ := id h
  refine ⟨⟨_, exec_mmioRegisterWrite_pf0 h (.inr rfl) (by decide) (by decide), ?_⟩,
    ⟨_, exec_mmioRegisterWrite_pf0 h (.inl rfl) (by decide) (by decide), ?_⟩,
    fun hcore hunlocked => ⟨_, exec_mmioRegisterWrite_pf0 h (.inr rfl) (by omega) (by omega), ?_⟩⟩
  · rw [State.mmioWrite_dword (by decide) (by decide), State.mmioWrite8_ltp h.inRecovery, if_pos h.byOwner, State.writeLtp]
    exact State.clearPosted (t := { s with ltp := ofN (field v 0 3) }) hposted
  · have hnarrow : s.mmioWrite (.master 0) (0x4000000000 + 0x10) ((wordBytes v).take 4) = s.refuse 0 := by
      have hlen : ((wordBytes v).take 4).length = 4 := by simp
      unfold State.mmioWrite
      dsimp only
      rw [if_neg (by decide), hlen, if_neg (by decide), if_pos (by decide)]
    rw [hnarrow]
    exact State.clearPosted (t := s.refuse 0) hposted
  · have hreg := State.mmioWrite8_coreReg (d := 0) h.inRecovery hcore (by decide : 2 < 3) v
    rw [show 0x60000 + 32 * core + 8 * 2 = 0x60010 + 32 * core by omega, if_neg (by decide), if_neg (by decide), h.byOwner,
      show 64 * 0 + core = core by omega, hunlocked, Bool.true_and, if_pos rfl] at hreg
    rw [State.mmioWrite_dword (by omega) (by omega), hreg]
    exact State.clearPosted (t := s.modCore core fun k => { k with htabInit := v &&& 0xFFF80 }) hposted

end Sys2Proof.Machine

/-! SUPPORT. The debug port and the halt groups (O53). -/

namespace Sys2Proof.Machine

/-! ### A stop of a group reaches its cores (R403) -/

namespace State

theorem stopCore_stops (s : State) (c : Nat) (r : StopReq) : ((s.stopCore c r).getCore c).stop.isSome = true := by
  unfold stopCore
  split
  case isTrue h => exact h
  case isFalse =>
    obtain ⟨hcore, -⟩ := (settleStops_threadsOnly (s.modCore c fun k => { k with stop := some r }) c).keeps
    rw [getCore, hcore]
    exact congrArg (fun k : Core => k.stop.isSome) (s.getCore_modCore_same c fun k => { k with stop := some r })

theorem stopCore_keepsStopped {s : State} (c b : Nat) (r : StopReq) (h : (s.getCore b).stop.isSome = true) :
    ((s.stopCore c r).getCore b).stop.isSome = true := by
  unfold stopCore
  split
  case isTrue => exact h
  case isFalse =>
    obtain ⟨hcore, -⟩ := (settleStops_threadsOnly (s.modCore c fun k => { k with stop := some r }) c).keeps
    rw [getCore, hcore]
    change ((s.modCore c _).getCore b).stop.isSome = true
    rw [getCore_modCore]
    split
    · rfl
    · exact h

theorem stopSet_core (s : State) (n : Nat) (r : StopReq) : (s.stopSet n r).core = s.core := by
  unfold stopSet
  split
  · rfl
  · refine (ThreadsOnly.foldl (fun t q => ?_) _ _).keeps.1
    split <;> rfl

/-- What each step of a fold keeps, the fold keeps. -/
theorem foldl_proj {α β : Type} (proj : State → β) {f : State → α → State} (hf : ∀ s x, proj (f s x) = proj s) (l : List α) (s : State) :
    proj (l.foldl f s) = proj s := by
  induction l generalizing s with
  | nil => rfl
  | cons x l ih => exact (ih _).trans (hf s x)

theorem stopCores_stop {p : Nat → Bool} (r : StopReq) (c : Nat) (hc : p c = true) (l : List Nat) (s : State)
    (h : c ∈ l ∨ (s.getCore c).stop.isSome = true) :
    ((l.foldl (fun t b => if p b = true then t.stopCore b r else t) s).getCore c).stop.isSome = true := by
  induction l generalizing s with
  | nil => exact h.resolve_left List.not_mem_nil
  | cons b l ih =>
    refine ih _ ?_
    dsimp only
    by_cases hb : c = b
    · subst hb
      rw [if_pos hc]
      exact .inr (s.stopCore_stops c r)
    · refine h.imp (fun hmem => (List.mem_cons.1 hmem).resolve_left hb) fun hstop => ?_
      split
      · exact stopCore_keepsStopped b c r hstop
      · exact hstop

theorem stopGroup_stops (s : State) (d g src : Nat) {c : Nat} (hc : c < 128) (hin : s.inGroup d g (c / 64) (s.coreHgm c) = true) :
    ((s.stopGroup d g src).getCore c).stop.isSome = true := by
  unfold stopGroup
  rw [getCore, (markGroups_keepsStops _).core, foldl_proj State.core]
  · exact stopCores_stop (p := fun c => s.inGroup d g (c / 64) (s.coreHgm c)) _ c hin _ s (.inl (List.mem_range.2 hc))
  · intro t n
    split
    · exact stopSet_core t n _
    · rfl

end State

theorem runs_debugStopRequest (s : State) (die g : Nat) : Runs (.debugStopRequest die g) s fun t => ∀ c, c < 128 →
    s.inGroup (die % 2) (g % 32) (c / 64) (s.coreHgm c) = true → (t.getCore c).stop.isSome = true := by
  refine ⟨_, exec_debugStopRequest die g s, fun c hc hin => ?_⟩
  rw [State.getCore, (State.markGroups_keepsStops _).core]
  exact s.stopGroup_stops (die % 2) (g % 32) 1 hc hin

/-! ### Code written by the debug port (R213) -/

theorem runs_debugCodeWrite {s : State} {core : Nat} {v : Word} (hcore : core < 128) (hal : v.toNat % 2 = 0) :
    ((s.getCore core).assigned = true → (s.getPart (s.partOf (.thr core 7))).dbg = true → v.toNat < 0x100000 →
      ∀ h : BitVec 16, Runs (.debugCodeWrite core v h) s fun t => Stored s t (ulmLoc core v.toNat) (leBytes 2 h.toNat) ∧ t.thr = s.thr) ∧
    ((s.getPart (s.partOf (.thr core 7))).dbg = false →
      ∀ h : BitVec 16, Runs (.debugCodeWrite core v h) s fun t => t = s.refuse (core / 64)) := by
  have hexec : ∀ h : BitVec 16, exec (.debugCodeWrite core v h) s = .next (s.debugWrite core v.toNat (leBytes 2 h.toNat)) := fun h =>
    (exec_debugCodeWrite core v h s).trans (if_neg (by omega))
  constructor
  · intro hassigned hdbg hulm h
    have hwrite : s.debugWrite core v.toNat (leBytes 2 h.toNat) = s.putUlm core v.toNat (leBytes 2 h.toNat) := by
      simp [State.debugWrite, hassigned, hdbg, hulm]
    exact ⟨_, (hexec h).trans (congrArg _ hwrite), putUlm_stored s core _ _, (s.putUlm_unitWrite core _ _).thr⟩
  · intro hdbg h
    refine ⟨_, hexec h, ?_⟩
    simp [State.debugWrite, hdbg]

/-! ### GO resumes the members of a group (R402) -/

namespace State

/-- The state of a thread and the one it is held in, once it resumes. -/
def resumed (x : TState × TState) : TState × TState := if x.1 = .stopped then (x.2, .free) else x

/-- The state of the thread or sequencer of a key, and the one it is held in. -/
def stHeld (s : State) (key : Nat) : TState × TState := ((Tbl.get {} s.thr key).st, (Tbl.get {} s.thr key).held)

theorem stHeld_resumeThread (s : State) (a : Agent) (x : Nat) :
    (s.resumeThread a).stHeld x = if x = a.key then resumed (s.stHeld x) else s.stHeld x := by
  simp only [stHeld, resumeThread, modThread, setThread, Tbl.get_put]
  split
  case isTrue h =>
    rw [resumed, thread, h]
    split <;> rfl
  case isFalse => rfl

theorem stHeld_modCore (s : State) (c : Nat) (f : Core → Core) : (s.modCore c f).stHeld = s.stHeld := rfl
theorem stHeld_modSet (s : State) (n : Nat) (f : SetSt → SetSt) : (s.modSet n f).stHeld = s.stHeld := rfl

/-- The agents of the keys from `b` on resume. -/
theorem stHeld_resumeThreads {f : Nat → Agent} {b : Nat} (hf : ∀ i, (f i).key = b + i) (s : State) (n x : Nat) :
    ((List.range n).foldl (fun t i => t.resumeThread (f i)) s).stHeld x =
      if b ≤ x ∧ x < b + n then resumed (s.stHeld x) else s.stHeld x := by
  obtain ⟨hin, hout⟩ := foldl_cells stHeld (fun t i => t.resumeThread (f i)) (fun i x => x = b + i) (fun _ _ => resumed)
    (fun t i x h => by rw [stHeld_resumeThread, hf, if_pos h])
    (fun t i x h => by rw [stHeld_resumeThread, hf, if_neg h])
    (fun i j x hi hj => by omega) s n
  split
  case isTrue h => exact hin (x - b) (by omega) x (by omega)
  case isFalse h => exact hout x fun i hi => by omega

/-- A core that resumes: the threads of it that are STOPPED go on in the state that they were held in. -/
theorem stHeld_resumeCore (s : State) (c x : Nat) : (s.resumeCore c).stHeld x = if x / 8 = c then resumed (s.stHeld x) else s.stHeld x := by
  rw [resumeCore, stHeld_modCore, stHeld_resumeThreads (b := 8 * c) fun _ => rfl]
  congr 1
  exact propext (by omega)

/-- Sequencers are no threads of a core. -/
theorem stHeld_resumeSet (s : State) (n : Nat) {x : Nat} (hx : x < 1024) : (s.resumeSet n).stHeld x = s.stHeld x := by
  rw [resumeSet, stHeld_modSet, stHeld_resumeThreads (b := 1024 + 3 * n) fun _ => rfl, if_neg (by omega)]

theorem resumeThreads_threadsOnly {α : Type} (f : α → Agent) (l : List α) (s : State) :
    ThreadsOnly s (l.foldl (fun t i => t.resumeThread (f i)) s) :=
  .foldl (fun t i => (rfl : ThreadsOnly t (t.resumeThread (f i)))) l s

theorem getCore_resumeCore_stop (s : State) (c b : Nat) :
    ((s.resumeCore c).getCore b).stop = if c = b then none else (s.getCore b).stop := by
  obtain ⟨hcore, -⟩ := (resumeThreads_threadsOnly (Agent.thr c) (List.range 8) s).keeps
  rw [resumeCore, getCore_modCore, getCore, getCore, hcore]
  by_cases h : c = b
  · rw [if_pos h, if_pos h.symm]
  · rw [if_neg h, if_neg (Ne.symm h)]
    rfl

/-- The dies and the bytes of memory are as before. -/
def KeepsDies (s t : State) : Prop := t.die = s.die ∧ t.mem = s.mem

theorem KeepsDies.foldl {α : Type} {f : State → α → State} (hf : ∀ s x, KeepsDies s (f s x)) (l : List α) :
    ∀ s, KeepsDies s (l.foldl f s) := by
  induction l with
  | nil => exact fun _ => ⟨rfl, rfl⟩
  | cons x l ih =>
    intro s
    obtain ⟨hdie, hmem⟩ := hf s x
    obtain ⟨hdies, hmems⟩ := ih (f s x)
    exact ⟨hdies.trans hdie, hmems.trans hmem⟩

theorem ThreadsOnly.keepsDies {s t : State} (h : ThreadsOnly s t) : KeepsDies s t := ⟨by rw [h], by rw [h]⟩

theorem resumeCore_keepsDies (s : State) (c : Nat) : KeepsDies s (s.resumeCore c) := by
  obtain ⟨hdie, hmem⟩ := (resumeThreads_threadsOnly (Agent.thr c) (List.range 8) s).keepsDies
  unfold resumeCore
  exact ⟨(modCore_die _ c _).trans hdie, (modCore_mem _ c _).trans hmem⟩

theorem resumeSet_keepsDies (s : State) (n : Nat) : KeepsDies s (s.resumeSet n) := by
  obtain ⟨hdie, hmem⟩ := (resumeThreads_threadsOnly (Agent.seq n) (List.range 3) s).keepsDies
  unfold resumeSet
  exact ⟨(modSet_die _ n _).trans hdie, (modSet_mem _ n _).trans hmem⟩

theorem resumeSet_core (s : State) (n : Nat) : (s.resumeSet n).core = s.core := by
  unfold resumeSet
  exact (modSet_core _ n _).trans (resumeThreads_threadsOnly (Agent.seq n) (List.range 3) s).keeps.1

theorem getSet_resumeSet_stop (s : State) (n m : Nat) :
    ((s.resumeSet n).getSet m).stop = if n = m then none else (s.getSet m).stop := by
  have hthreads := resumeThreads_threadsOnly (Agent.seq n) (List.range 3) s
  have hsets : ((List.range 3).foldl (fun t q => t.resumeThread (.seq n q)) s).sets = s.sets := by
    rw [hthreads]
  rw [resumeSet, modSet, getSet, Tbl.get_put, getSet, getSet, hsets]
  by_cases h : n = m
  · rw [if_pos h, if_pos h.symm]
  · rw [if_neg h, if_neg (Ne.symm h)]

/-! ### STOPPED of the groups (R402) -/

/-- HGC of group `i % 32` of die `i / 32`. -/
def hgcAt (s : State) (i : Nat) : Word := Tbl.get 0 (s.getDie (i / 32)).hgc (i % 32)

theorem hgcAt_putHgc (s : State) (i x : Nat) (f : Word → Word) :
    (s.modDie (i / 32) fun d => { d with hgc := Tbl.put 0 d.hgc (i % 32) (f (Tbl.get 0 d.hgc (i % 32))) }).hgcAt x =
      if x = i then f (s.hgcAt x) else s.hgcAt x := by
  unfold hgcAt
  rw [getDie_modDie]
  by_cases hdie : x / 32 = i / 32
  · rw [if_pos hdie, Tbl.get_put, hdie]
    by_cases hgroup : x % 32 = i % 32
    · rw [if_pos hgroup, if_pos (by omega), hgroup]
    · rw [if_neg hgroup, if_neg (by omega)]
  · rw [if_neg hdie, if_neg (by omega)]

/-- STOPPED reads 0 of a group that has come to no rest. -/
theorem unmarkGroups_clear {s : State} {i : Nat} (hi : i < 64) (hrest : s.groupAtRest (i / 32) (i % 32) = false) :
    bitAt (s.unmarkGroups.hgcAt i) 2 = false := by
  obtain ⟨hin, -⟩ := foldl_cells hgcAt (fun t i =>
      if bitAt (Tbl.get 0 (t.getDie (i / 32)).hgc (i % 32)) 2 && !s.groupAtRest (i / 32) (i % 32) then
        t.modDie (i / 32) fun x => { x with hgc := Tbl.put 0 x.hgc (i % 32) (setField (Tbl.get 0 x.hgc (i % 32)) 2 1 0) }
      else t) (fun i x => x = i)
    (fun i _ w => if bitAt w 2 && !s.groupAtRest (i / 32) (i % 32) then setField w 2 1 0 else w)
    (fun t i x hx => by
      subst hx
      change hgcAt (if bitAt (t.hgcAt x) 2 && _ then _ else t) x = if bitAt (t.hgcAt x) 2 && _ then _ else _
      split
      · rw [hgcAt_putHgc t x x fun w => setField w 2 1 0, if_pos rfl]
      · rfl)
    (fun t i x hx => by
      split
      · rw [hgcAt_putHgc t i x fun w => setField w 2 1 0, if_neg hx]
      · rfl)
    (fun i j x hi hj => hi.symm.trans hj) s 64
  rw [unmarkGroups, hin i hi i rfl, hrest, Bool.not_false, Bool.and_true]
  split
  case isTrue => 
    unfold bitAt
    rw [getLsbD_setField _ _ _ _ _ (by decide), if_pos (by decide)]
    rfl
  case isFalse h => exact Bool.eq_false_iff.2 h

theorem unmarkGroups_coresAndDies (s : State) : CoresAndDies s s.unmarkGroups :=
  .foldl (fun t i => by
    split
    · exact .modDie _ _ _
    · exact .refl t) _ s

theorem unmarkGroups_core (s : State) : s.unmarkGroups.core = s.core :=
  foldl_proj State.core (fun t i => by split <;> rfl) _ s

/-! ### GO of a group (R402) -/

/-- The cores of a group resume, then its Sets. -/
def resumeCores (s : State) (p : Nat → Bool) : State := (List.range 128).foldl (fun t c => if p c then t.resumeCore c else t) s
def resumeSets (s : State) (p : Nat → Bool) : State := (List.range 16).foldl (fun t n => if p n then t.resumeSet n else t) s

/-- The member cores and Sets of group `g` of die `d`. -/
def memberCore (s : State) (d g c : Nat) : Bool := s.inGroup d g (c / 64) (s.coreHgm c)
def memberSet (s : State) (d g n : Nat) : Bool := s.inGroup d g (n / 8) (s.setHgm n)

theorem groupGo_eq (s : State) (d g : Nat) :
    s.groupGo d g = ((s.resumeCores (s.memberCore d g)).resumeSets (s.memberSet d g)).unmarkGroups := rfl

variable {s : State} {p : Nat → Bool}

theorem resumeCores_keepsDies : KeepsDies s (s.resumeCores p) :=
  .foldl (fun t c => by
    split
    · exact resumeCore_keepsDies t c
    · exact ⟨rfl, rfl⟩) _ s

theorem resumeSets_keepsDies : KeepsDies s (s.resumeSets p) :=
  .foldl (fun t n => by
    split
    · exact resumeSet_keepsDies t n
    · exact ⟨rfl, rfl⟩) _ s

theorem resumeSets_core : (s.resumeSets p).core = s.core :=
  foldl_proj State.core (fun t n => by
    split
    · exact resumeSet_core t n
    · rfl) _ s

theorem resumeSets_stHeld {x : Nat} (hx : x < 1024) : (s.resumeSets p).stHeld x = s.stHeld x := by
  unfold resumeSets
  induction List.range 16 generalizing s with
  | nil => rfl
  | cons n l ih =>
    rw [List.foldl_cons, ih]
    split
    · exact stHeld_resumeSet s n hx
    · rfl

theorem resumeCores_stop {c : Nat} (hc : c < 128) (hp : p c = true) : ((s.resumeCores p).getCore c).stop = none := by
  refine (foldl_cells (fun t x => (t.getCore x).stop) (fun t c => if p c then t.resumeCore c else t) (fun i x => p i = true ∧ i = x)
    (fun _ _ _ => none) (fun t i x h => ?_) (fun t i x h => ?_) (fun i j x hi hj => hi.2.trans hj.2.symm) s 128).1 c hc c ⟨hp, rfl⟩
  · rw [if_pos h.1, getCore_resumeCore_stop, if_pos h.2]
  · split
    case isTrue hi => rw [getCore_resumeCore_stop, if_neg fun hx => h ⟨hi, hx⟩]
    case isFalse => rfl

theorem resumeSets_stop {n : Nat} (hn : n < 16) (hp : p n = true) : ((s.resumeSets p).getSet n).stop = none := by
  refine (foldl_cells (fun t x => (t.getSet x).stop) (fun t n => if p n then t.resumeSet n else t) (fun i x => p i = true ∧ i = x)
    (fun _ _ _ => none) (fun t i x h => ?_) (fun t i x h => ?_) (fun i j x hi hj => hi.2.trans hj.2.symm) s 16).1 n hn n ⟨hp, rfl⟩
  · rw [if_pos h.1, getSet_resumeSet_stop, if_pos h.2]
  · split
    case isTrue hi => rw [getSet_resumeSet_stop, if_neg fun hx => h ⟨hi, hx⟩]
    case isFalse => rfl

theorem resumeCores_stHeld {c x : Nat} (hc : c < 128) (hp : p c = true) (hx : x / 8 = c) :
    (s.resumeCores p).stHeld x = resumed (s.stHeld x) := by
  refine (foldl_cells stHeld (fun t c => if p c then t.resumeCore c else t) (fun i x => p i = true ∧ x / 8 = i) (fun _ _ => resumed)
    (fun t i x h => ?_) (fun t i x h => ?_) (fun i j x hi hj => hi.2.symm.trans hj.2) s 128).1 c hc x ⟨hp, hx⟩
  · rw [if_pos h.1, stHeld_resumeCore, if_pos h.2]
  · split
    case isTrue hi => rw [stHeld_resumeCore, if_neg fun hx => h ⟨hi, hx⟩]
    case isFalse => rfl

/-- A group of which no member is stopped is not at rest. -/
theorem groupAtRest_of_running {t : State} {d g : Nat} (hcores : ∀ c, c < 128 → t.memberCore d g c = true → (t.getCore c).stop = none)
    (hsets : ∀ n, n < 16 → t.memberSet d g n = true → (t.getSet n).stop = none) : t.groupAtRest d g = false := by
  refine Bool.eq_false_iff.2 fun hrest => ?_
  unfold groupAtRest at hrest
  simp only [Bool.and_eq_true, List.all_eq_true, List.mem_filter, List.mem_range, Bool.or_eq_true, Bool.not_eq_true',
    List.isEmpty_eq_false_iff_exists_mem] at hrest
  obtain ⟨⟨hsome, hcore⟩, hset⟩ := hrest
  obtain ⟨c, hc, hin⟩ | ⟨n, hn, hin⟩ := hsome
  · obtain ⟨-, hstop⟩ := hcore c ⟨hc, hin⟩
    rw [hcores c hc hin] at hstop
    exact absurd hstop (by decide)
  · have hstop := hset n ⟨hn, hin⟩
    rw [setAtRest, hsets n hn hin] at hstop
    exact absurd hstop (by simp)

end State

/-- GO of a group: its members resume, and STOPPED reads 0. -/
theorem runs_hgcGo (s : State) (die g : Nat) :
    Runs (.hgcGo die g) s fun t => bitAt (Tbl.get 0 (t.getDie (die % 2)).hgc (g % 32)) 2 = false ∧ SameBytes s t ∧
      ∀ c k, c < 128 → k < 8 → s.inGroup (die % 2) (g % 32) (c / 64) (s.coreHgm c) = true → (t.getCore c).stop = none ∧
        (t.thread (.thr c k)).st =
          if (s.thread (.thr c k)).st = .stopped then (s.thread (.thr c k)).held else (s.thread (.thr c k)).st := by
  generalize hd : die % 2 = d
  generalize hg : g % 32 = j
  have hd2 : d < 2 := by omega
  have hj32 : j < 32 := by omega
  have hexec : exec (.hgcGo die g) s = .next (s.groupGo d j) := by rw [exec_hgcGo, execHgcGo, hd, hg]
  rw [State.groupGo_eq] at hexec
  refine ⟨_, hexec, ?_⟩
  obtain ⟨hdie1, hmem1⟩ := State.resumeCores_keepsDies (s := s) (p := s.memberCore d j)
  obtain ⟨hdie2, hmem2⟩ := State.resumeSets_keepsDies (s := s.resumeCores (s.memberCore d j)) (p := s.memberSet d j)
  have hcores : ∀ c, c < 128 → s.memberCore d j c = true →
      (((s.resumeCores (s.memberCore d j)).resumeSets (s.memberSet d j)).getCore c).stop = none := fun c hc hin => by
    rw [State.getCore, State.resumeSets_core]
    exact State.resumeCores_stop hc hin
  have hsets : ∀ n, n < 16 → s.memberSet d j n = true →
      (((s.resumeCores (s.memberCore d j)).resumeSets (s.memberSet d j)).getSet n).stop = none := fun n hn hin =>
    State.resumeSets_stop hn hin
  have hheld : ∀ c k, c < 128 → k < 8 → s.memberCore d j c = true →
      ((s.resumeCores (s.memberCore d j)).resumeSets (s.memberSet d j)).stHeld (8 * c + k) = State.resumed (s.stHeld (8 * c + k)) :=
    fun c k hc hk hin => (State.resumeSets_stHeld (by omega)).trans (State.resumeCores_stHeld hc hin (by omega))
  generalize (s.resumeCores (s.memberCore d j)).resumeSets (s.memberSet d j) = u at hdie2 hmem2 hcores hsets hheld ⊢
  have hdie : u.die = s.die := hdie2.trans hdie1
  have hgetDie : ∀ e, u.getDie e = s.getDie e := fun e => by rw [State.getDie, hdie]; rfl
  have hin : ∀ (e : Nat) (m : BitVec 32), u.inGroup d j e m = s.inGroup d j e m := fun e m => by
    rw [State.inGroup, hgetDie, hgetDie]
    rfl
  have hrest : u.groupAtRest d j = false := by
    refine State.groupAtRest_of_running (fun c hc hm => hcores c hc ?_) (fun n hn hm => hsets n hn ?_)
    · rw [State.memberCore, hin, State.coreHgm, hgetDie] at hm
      exact hm
    · rw [State.memberSet, hin, State.setHgm, hgetDie] at hm
      exact hm
  refine ⟨?_, .of_mem ?_, fun c k hc hk hmember => ⟨?_, ?_⟩⟩
  · have hclear := State.unmarkGroups_clear (s := u) (i := 32 * d + j) (by omega)
    unfold State.hgcAt at hclear
    rw [show (32 * d + j) / 32 = d by omega, show (32 * d + j) % 32 = j by omega] at hclear
    exact hclear hrest
  · exact u.unmarkGroups_coresAndDies.mem.trans (hmem2.trans hmem1)
  · rw [State.getCore, u.unmarkGroups_core]
    exact hcores c hc hmember
  · rw [u.unmarkGroups_coresAndDies.thread]
    have hst := congrArg Prod.fst (hheld c k hc hk hmember)
    rw [State.resumed, apply_ite Prod.fst] at hst
    exact hst

end Sys2Proof.Machine

/-! SUPPORT. Grants, withdrawals and the start of a partition (O53). -/

namespace Sys2Proof.Machine

/-! ### What a scrub of a core or Set leaves (R216, R413) -/

/-- The ULM of core `c` reads as one that nothing has written. -/
def BlankUlm (t : State) (c : Nat) : Prop := ∀ a, a < 0x100000 → Memory.read t.mem (ulmLoc c a) = Memory.read [] (ulmLoc c a)

theorem BlankUlm.modCore {t : State} {c : Nat} (h : BlankUlm t c) (b : Nat) (f : Core → Core) : BlankUlm (t.modCore b f) c := h

namespace State

theorem scrubCore_mem (s : State) (c : Nat) : (s.scrubCore c).mem = ((s.emptyL1 c).scrub (ulmLoc c 0) 0x100000).mem := by
  unfold scrubCore
  refine ((ThreadsOnly.foldl (fun t i => ?_) _ _).keeps.2.1).trans (modCore_mem _ _ _)
  rfl

theorem scrubCore_blank (s : State) (c : Nat) : BlankUlm (s.scrubCore c) c := by
  intro a ha
  rw [scrubCore_mem, scrub_read, if_pos]
  · rfl
  · unfold ulmLoc
    omega

theorem scrubSet_getSet (s : State) (n : Nat) : ((s.scrubSet n).getSet n).tiles = [] ∧ ((s.scrubSet n).getSet n).wb = [] := by
  unfold scrubSet
  dsimp only
  generalize s.scrub (seqLoc n 0 0) (3 * 2 ^ 17) = u
  rw [getSet, foldl_proj State.sets (f := fun t q => t.setThread (.seq n q) {}) (fun t q => rfl), ← getSet, getSet_modSet_same]
  exact ⟨rfl, rfl⟩

end State

/-! ### Grants and withdrawals (R412, R413) -/

variable {s : State} {p : Nat}

section
variable (hp : p < 8) (hown : s.isOwner 0 = true) (hstate : (s.getPart p).state = .unlocked)
include hp hown hstate

theorem exec_grantResource_unlocked {r : Resource} {u : State} (h : s.grant p r = some u) : exec (.grantResource p r) s = .next u := by
  rw [exec_grantResource, execGrantResource, if_pos ⟨hp, hown, hstate⟩, h, Option.getD_some]

theorem exec_withdrawResource_unlocked {r : Resource} {u : State} (h : s.withdraw p r = some u) :
    exec (.withdrawResource p r) s = .next u := by
  rw [exec_withdrawResource, execWithdrawResource, if_pos ⟨hp, hown, hstate⟩, h, Option.getD_some]

theorem runs_grantCore {c : Nat} (hc : c < 128) (hfree : (s.getCore c).assigned = false) (hacts : s.actsFree c = true) :
    Runs (.grantResource p (.core c)) s fun t =>
      (t.getCore c).assigned = true ∧ (t.getCore c).asid = BitVec.ofNat 16 p ∧ BlankUlm t c := by
  refine ⟨_, exec_grantResource_unlocked hp hown hstate (if_pos ⟨hc, by simp [hfree], hacts⟩), ?_, ?_,
    BlankUlm.modCore (s.scrubCore_blank c) c _⟩
  · rw [State.getCore_modCore_same]
  · rw [State.getCore_modCore_same]

theorem runs_grantSet {n : Nat} (hn : n < 16) (hfree : (s.getSet n).assigned = false) :
    Runs (.grantResource p (.set n)) s fun t =>
      (t.getSet n).assigned = true ∧ (t.getSet n).part = p ∧ (t.getSet n).tiles = [] ∧ (t.getSet n).wb = [] := by
  refine ⟨_, exec_grantResource_unlocked hp hown hstate (if_pos ⟨hn, by simp [hfree]⟩), ?_⟩
  obtain ⟨htiles, hwb⟩ := s.scrubSet_getSet n
  refine ⟨?_, ?_, ?_, ?_⟩
  all_goals rw [State.getSet_modSet_same]
  · exact htiles
  · exact hwb

theorem runs_grantKey {n : Nat} (hlow : 1 ≤ n) (hhigh : n ≤ 63) (hfree : s.keyGranted n = false) :
    Runs (.grantResource p (.key n)) s fun t => t = s.modPart p fun x => { x with keys := x.keys ++ [n] } :=
  ⟨_, exec_grantResource_unlocked hp hown hstate (if_pos ⟨hlow, hhigh, by simp [hfree]⟩), rfl⟩

/-- A granted block of counters starts at its reset values. -/
theorem runs_grantCounters {d n : Nat} (hd : d < 2) (hn : n < 64) (hfree : Tbl.get 0 (s.getDie d).grantDc n = 0) :
    Runs (.grantResource p (.counters d n)) s fun t =>
      Tbl.get 0 (t.getDie d).grantDc n = p + 1 ∧ ∀ j, j / 64 = n → t.dc d j = {} := by
  refine ⟨_, exec_grantResource_unlocked hp hown hstate (if_pos ⟨hd, hn, hfree⟩), ?_, fun j hj => ?_⟩
  · rw [State.grantBlock, State.getDie_modDie_same]
    exact Tbl.get_put_same 0 (s.getDie d).grantDc n (p + 1)
  · rw [State.dc, State.grantBlock, State.getDie_modDie_same]
    refine (Tbl.get_filter_key ({} : DepCtr) (fun k => !decide (k / 64 = n)) _ j).trans ?_
    rw [decide_eq_true hj]
    rfl

theorem runs_grantDbg : Runs (.grantResource p .dbg) s fun t => t = s.modPart p fun x => { x with dbg := true } :=
  ⟨_, exec_grantResource_unlocked hp hown hstate rfl, rfl⟩

theorem runs_withdrawCore {c : Nat} (hc : c < 128) (hheld : (s.getCore c).assigned = true) (hpart : s.partOf (.thr c 7) = p)
    (hacts : s.actsFree c = true) :
    Runs (.withdrawResource p (.core c)) s fun t => (t.getCore c).assigned = false ∧ BlankUlm t c := by
  refine ⟨_, exec_withdrawResource_unlocked hp hown hstate (if_pos ⟨hc, hheld, hpart, hacts⟩), ?_, BlankUlm.modCore (s.scrubCore_blank c) c _⟩
  rw [State.getCore_modCore_same]

theorem runs_withdrawKey {n : Nat} (hkey : n ∈ (s.getPart p).keys) :
    Runs (.withdrawResource p (.key n)) s fun t => t = s.modPart p fun x => { x with keys := x.keys.erase n } :=
  ⟨_, exec_withdrawResource_unlocked hp hown hstate (if_pos (List.contains_iff_mem.2 hkey)), rfl⟩

end

theorem State.getPart_modPart_same (s : State) (p : Nat) (f : Part → Part) : (s.modPart p f).getPart p = f (s.getPart p) :=
  Tbl.get_put_same _ _ _ _

/-! ### The start of a partition (R414, R418) -/

/-- A fold that writes one value per key of a list. -/
theorem Tbl.get_foldl_put {α : Type} [DecidableEq α] (d : α) (f : Nat → α) (l : List Nat) (t : List (Nat × α)) (n : Nat) :
    Tbl.get d (l.foldl (fun t k => Tbl.put d t k (f k)) t) n = if n ∈ l then f n else Tbl.get d t n := by
  induction l generalizing t with
  | nil => simp
  | cons k l ih =>
    rw [List.foldl_cons, ih, Tbl.get_put]
    by_cases hl : n ∈ l
    · simp [hl]
    · by_cases hk : n = k <;> simp [hl, hk]

namespace State

theorem mem_coresOf {c : Nat} : c ∈ s.coresOf p ↔ c < 128 ∧ (s.getCore c).assigned = true ∧ s.partOf (.thr c 7) = p := by
  simp [coresOf]

/-- What a core has of its start: HTAB, HTABINIT and whether it is started. -/
def htabs (s : State) (c : Nat) : BitVec 64 × BitVec 64 × Bool := ((s.getCore c).htab, (s.getCore c).htabInit, (s.getCore c).started)

theorem htabs_modCore (s : State) (c x : Nat) (f : Core → Core) : (s.modCore c f).htabs x =
    if x = c then ((f (s.getCore c)).htab, (f (s.getCore c)).htabInit, (f (s.getCore c)).started) else s.htabs x := by
  unfold htabs
  rw [getCore_modCore]
  split <;> rfl

theorem startCore_htabs (s : State) (c x : Nat) : (s.startCore c).htabs x =
    if x = c then ((s.htabs x).2.1, (s.htabs x).2.1, decide ((s.htabs x).2.1 ≠ 0)) else s.htabs x := by
  have hlate : (s.startCore c).htabs x = (s.modCore c fun k =>
      { k with htab := (s.getCore c).htabInit, started := decide ((s.getCore c).htabInit ≠ 0) }).htabs x := by
    unfold startCore
    dsimp only
    split
    · rfl
    · rw [htabs_modCore]
      split
      case isTrue h => rw [h]; rfl
      case isFalse => rfl
  rw [hlate, htabs_modCore]
  split
  case isTrue h => rw [h]; rfl
  case isFalse => rfl

/-- T7 of a started core has every register 0; the others are as before. -/
theorem startCore_getX (s : State) (c x : Nat) : ((s.startCore c).thread (.thr x 7)).getX =
    if x = c then fun _ => 0 else (s.thread (.thr x 7)).getX := by
  have hlate : (s.startCore c).thread (.thr x 7) = (s.modThread (.thr c 7) fun t =>
      { ({} : Thread) with
        st := t.st, held := t.held, gen := t.gen, opTag := t.opTag, fetchEpoch := t.fetchEpoch }).thread (.thr x 7) := by
    unfold startCore
    dsimp only
    split <;> rfl
  rw [hlate]
  split
  case isTrue h =>
    rw [h, thread_modThread_same]
    funext r
    unfold Thread.getX
    split <;> rfl
  case isFalse h =>
    rw [thread_modThread_other]
    simp only [Agent.key]
    omega

theorem startCore_rest (s : State) (c : Nat) : (s.startCore c).part = s.part ∧ (s.startCore c).keys = s.keys := by
  unfold startCore
  dsimp only
  split <;> exact ⟨rfl, rfl⟩

/-- The cores of `p` that start. -/
def startCores (s : State) (q : Nat → Bool) : State := (List.range 128).foldl (fun t c => if q c then t.startCore c else t) s

theorem startCores_htabs (s : State) {q : Nat → Bool} {c : Nat} (hc : c < 128) (hq : q c = true) :
    (s.startCores q).htabs c = ((s.htabs c).2.1, (s.htabs c).2.1, decide ((s.htabs c).2.1 ≠ 0)) := by
  refine (foldl_cells htabs (fun t c => if q c then t.startCore c else t) (fun i x => q i = true ∧ x = i)
    (fun _ _ h => (h.2.1, h.2.1, decide (h.2.1 ≠ 0))) (fun t i x h => ?_) (fun t i x h => ?_)
    (fun i j x hi hj => hi.2.symm.trans hj.2) s 128).1 c hc c ⟨hq, rfl⟩
  · rw [if_pos h.1, startCore_htabs, if_pos h.2]
  · split
    case isTrue hi => rw [startCore_htabs, if_neg fun hx => h ⟨hi, hx⟩]
    case isFalse => rfl

theorem startCores_getX (s : State) {q : Nat → Bool} {c : Nat} (hc : c < 128) (hq : q c = true) (r : BitVec 5) :
    ((s.startCores q).thread (.thr c 7)).getX r = 0 := by
  refine congrFun ((foldl_cells (fun t x => (t.thread (.thr x 7)).getX) (fun t c => if q c then t.startCore c else t)
    (fun i x => q i = true ∧ x = i) (fun _ _ _ _ => 0) (fun t i x h => ?_) (fun t i x h => ?_)
    (fun i j x hi hj => hi.2.symm.trans hj.2) s 128).1 c hc c ⟨hq, rfl⟩) r
  · rw [if_pos h.1, startCore_getX, if_pos h.2]
  · split
    case isTrue hi => rw [startCore_getX, if_neg fun hx => h ⟨hi, hx⟩]
    case isFalse => rfl

theorem startCores_rest (s : State) (q : Nat → Bool) : (s.startCores q).part = s.part ∧ (s.startCores q).keys = s.keys := by
  have hstep : ∀ t c, (if q c then startCore t c else t).part = t.part ∧ (if q c then startCore t c else t).keys = t.keys := fun t c => by
    split
    · exact startCore_rest t c
    · exact ⟨rfl, rfl⟩
  exact ⟨foldl_proj State.part (fun t c => (hstep t c).1) _ s, foldl_proj State.keys (fun t c => (hstep t c).2) _ s⟩

end State

theorem runs_startInterface (hp : p < 8) (hstate : (s.getPart p).state = .locked) :
    Runs (.startInterface p) s fun t => (t.getPart p).state = .running ∧
      (∀ k ∈ (s.getPart p).keys, (Tbl.get none t.keys k).isSome = true) ∧
      ∀ c ∈ s.coresOf p, (t.getCore c).htab = (s.getCore c).htabInit ∧
        (t.getCore c).started = decide ((s.getCore c).htabInit ≠ 0) ∧ ∀ r, (t.thread (.thr c 7)).getX r = 0 := by
  have hexec := exec_startInterface p s
  rw [execStartInterface, if_pos ⟨hp, hstate⟩, State.partStart] at hexec
  generalize hkeys : (s.getPart p).keys.foldl (fun t k => Tbl.put none t k (some (Config.freeKey s.freeCtr k))) s.keys = keys at hexec
  generalize hu : ({ s with keys := keys } : State).modPart p (fun x => { x with state := .running }) = u at hexec
  let q : Nat → Bool := fun c => (s.getCore c).assigned && decide (s.partOf (.thr c 7) = p)
  have hfold : exec (.startInterface p) s = .next (u.startCores q) := by
    rw [hexec]
    exact congrArg _ (List.foldl_filter ..)
  obtain ⟨hpart, hukeys⟩ := u.startCores_rest q
  refine ⟨_, hfold, ?_, fun k hk => ?_, fun c hc => ?_⟩
  · rw [State.getPart, hpart, ← State.getPart, ← hu, State.getPart_modPart_same]
  · rw [hukeys, ← hu]
    change (Tbl.get none keys k).isSome = true
    rw [← hkeys, Tbl.get_foldl_put, if_pos hk]
    rfl
  · obtain ⟨hlt, hassigned, hof⟩ := State.mem_coresOf.1 hc
    have hq : q c = true := by simp [q, hassigned, hof]
    have hhtabs := u.startCores_htabs hlt hq
    have hinit : u.htabs c = s.htabs c := by rw [← hu]; rfl
    rw [hinit] at hhtabs
    exact ⟨congrArg Prod.fst hhtabs, congrArg (·.2.2) hhtabs, u.startCores_getX hlt hq⟩

end Sys2Proof.Machine

/-! SUPPORT. What the end of a copy leaves (O53): the partitions, the keys, the threads but for the marks of their waits, and the cores and
Sets but for their engines, caches and the clocks of their messages. -/

namespace Sys2Proof.Machine

/-- A partition without the queues and pending sends whose clocks an epoch change resets. -/
def Part.settled (x : Part) : Part := { x with queues := [], pend := [] }

/-- A core without its engine, scoreboard, caches and counted events; of its messages how many there are. -/
def Core.settled (k : Core) : Core × Nat × Nat × Nat :=
  ({ k with inbox := [], t6q := [], sendBuf := [], niWait := [], icache := [], epoch := 0, l1 := [], pushQ := [], rtb := [], pm := []
            sb := [], ce := {} }, k.inbox.length, k.t6q.length, k.sendBuf.length)

/-- A Set without its engine and its messages. -/
def SetSt.settled (k : SetSt) : SetSt := { k with ce := {}, sendBuf := [], niWait := [] }

structure EngineStep (s t : State) : Prop where
  keys : t.keys = s.keys
  part : ∀ p, (t.getPart p).settled = (s.getPart p).settled
  thread : ∀ a, (t.thread a).unmarked = (s.thread a).unmarked
  core : ∀ c, (t.getCore c).settled = (s.getCore c).settled
  sets : ∀ n, (t.getSet n).settled = (s.getSet n).settled

namespace EngineStep

theorem refl (s : State) : EngineStep s s := ⟨rfl, fun _ => rfl, fun _ => rfl, fun _ => rfl, fun _ => rfl⟩

theorem trans {s t u : State} (h : EngineStep s t) (g : EngineStep t u) : EngineStep s u :=
  ⟨g.keys.trans h.keys, fun p => (g.part p).trans (h.part p), fun a => (g.thread a).trans (h.thread a),
    fun c => (g.core c).trans (h.core c), fun n => (g.sets n).trans (h.sets n)⟩

theorem foldl {α : Type} {f : State → α → State} (hf : ∀ s x, EngineStep s (f s x)) (l : List α) :
    ∀ s, EngineStep s (l.foldl f s) := by
  induction l with
  | nil => exact refl
  | cons x l ih => exact fun s => (hf s x).trans (ih _)

/-- A change of the rest of the machine. -/
theorem of_eq {s t : State} (hkeys : t.keys = s.keys) (hpart : t.part = s.part) (hthr : t.thr = s.thr) (hcore : t.core = s.core)
    (hsets : t.sets = s.sets) : EngineStep s t :=
  ⟨hkeys, fun p => by rw [State.getPart, State.getPart, hpart], fun a => by rw [State.thread, State.thread, hthr],
    fun c => by rw [State.getCore, State.getCore, hcore], fun n => by rw [State.getSet, State.getSet, hsets]⟩

theorem modDie (s : State) (d : Nat) (f : Die → Die) : EngineStep s (s.modDie d f) := .of_eq rfl rfl rfl rfl rfl

theorem modCore (s : State) (c : Nat) (f : Core → Core) (hf : ∀ k, (f k).settled = k.settled := by intro; rfl) :
    EngineStep s (s.modCore c f) := by
  refine ⟨rfl, fun _ => rfl, fun _ => rfl, fun b => ?_, fun _ => rfl⟩
  rw [State.getCore_modCore]
  split
  case isTrue h => rw [hf, h]
  case isFalse => rfl

theorem modSet (s : State) (n : Nat) (f : SetSt → SetSt) (hf : ∀ k, (f k).settled = k.settled := by intro; rfl) :
    EngineStep s (s.modSet n f) := by
  refine ⟨rfl, fun _ => rfl, fun _ => rfl, fun _ => rfl, fun m => ?_⟩
  rw [State.getSet, State.modSet, Tbl.get_put]
  split
  case isTrue h => rw [hf, h]
  case isFalse => rfl

theorem of_unitWrite {s t : State} (h : UnitWrite s t) : EngineStep s t := by
  obtain ⟨heq, hcore, -⟩ := h
  exact ⟨by rw [heq], fun p => by rw [heq]; rfl, fun a => by rw [heq]; rfl, fun c => by rw [hcore c]; rfl, fun n => by rw [heq]; rfl⟩

theorem of_cachesOnly {s t : State} (h : CachesOnly s t) : EngineStep s t := by
  obtain ⟨heq, hthr, hcore, -⟩ := h
  exact ⟨by rw [heq], fun p => by rw [heq]; rfl, fun a => by rw [hthr a]; rfl, fun c => by rw [hcore c]; rfl, fun n => by rw [heq]; rfl⟩

end EngineStep

namespace State

/-! ### Releases (R231, R233) -/

theorem dropCopies_engine (s : State) (h : Nat) : EngineStep s (s.dropCopies h) :=
  ⟨rfl, fun _ => rfl, fun _ => rfl, fun c => by
    refine Tbl.get_map_proj ({} : Core) Core.settled _ (fun e => ?_) _ c
    split <;> exact ⟨rfl, rfl⟩, fun _ => rfl⟩

theorem epochChange_engine (s : State) (h : Nat) : EngineStep s (s.epochChange h) := by
  refine (dropCopies_engine s h).trans ⟨rfl, fun p => ?_, fun a => ?_, fun c => ?_, fun n => ?_⟩
  · refine Tbl.get_map_proj ({} : Part) Part.settled _ (fun e => ?_) _ p
    exact ⟨rfl, rfl⟩
  · refine Tbl.get_map_proj ({} : Thread) Thread.unmarked _ (fun e => ?_) _ _
    refine ⟨rfl, ?_⟩
    unfold Thread.unmarked
    rw [Option.map_map]
    rfl
  · refine Tbl.get_map_proj ({} : Core) Core.settled _ (fun e => ?_) _ c
    refine ⟨rfl, ?_⟩
    simp only [Core.settled, List.length_map]
  · refine Tbl.get_map_proj ({} : SetSt) SetSt.settled _ (fun e => ?_) _ n
    exact ⟨rfl, rfl⟩

theorem countWrites_engine (s : State) (h : Nat) : EngineStep s (s.countWrites h) := by
  unfold countWrites
  split
  · split
    · exact epochChange_engine s h
    · exact .modDie _ _ _
  · exact .refl s

theorem mergeClock_engine (s : State) (d : Nat) (k : Clock) : EngineStep s (s.mergeClock d k) := by
  unfold mergeClock
  split
  · exact .refl s
  · exact .modDie _ _ _

theorem releaseOn_engine (s : State) (d : Nat) : EngineStep s (s.releaseOn d) :=
  ((countWrites_engine s 0).trans (countWrites_engine _ 1)).trans (mergeClock_engine _ _ _)

/-! ### Counters and barriers (R368 to R371) -/

/-- Every thread is changed, in the marks of its wait alone. -/
theorem mapWaits_engine (s : State) (g : Nat × Thread → Nat × Thread) (hg : ∀ e, (g e).1 = e.1 ∧ (g e).2.unmarked = e.2.unmarked) :
    EngineStep s { s with thr := s.thr.map g } :=
  ⟨rfl, fun _ => rfl, fun _ => Tbl.get_map_proj ({} : Thread) Thread.unmarked g hg _ _, fun _ => rfl, fun _ => rfl⟩

theorem releaseWaiters_engine (s : State) (p : WaitKind → Bool) (k : Clock) : EngineStep s (s.releaseWaiters p k) := by
  refine mapWaits_engine s _ fun e => ?_
  split
  case h_1 w hw =>
    split
    · exact ⟨rfl, by simp only [Thread.unmarked, hw]; rfl⟩
    · exact ⟨rfl, rfl⟩
  case h_2 => exact ⟨rfl, rfl⟩

theorem doomWaiters_engine (s : State) (p : WaitKind → Bool) : EngineStep s (s.doomWaiters p) := by
  refine mapWaits_engine s _ fun e => ?_
  split
  case h_1 w hw =>
    split
    · exact ⟨rfl, by simp only [Thread.unmarked, hw]; rfl⟩
    · exact ⟨rfl, rfl⟩
  case h_2 => exact ⟨rfl, rfl⟩

theorem onPackets_engine (s : State) (d i : Nat) (f : QEntry → QEntry) : EngineStep s (s.onPackets d i f) :=
  ⟨rfl, fun p => by
    refine Tbl.get_map_proj ({} : Part) Part.settled _ (fun e => ?_) _ p
    exact ⟨rfl, rfl⟩, fun _ => rfl, fun _ => rfl, fun _ => rfl⟩

theorem setDc_engine (s : State) (d i : Nat) (c : DepCtr) : EngineStep s (s.setDc d i c) := .modDie _ _ _
theorem setBar_engine (s : State) (d i : Nat) (b : Barrier) : EngineStep s (s.setBar d i b) := .modDie _ _ _

theorem releaseDc_engine (s : State) (d i : Nat) : EngineStep s (s.releaseDc d i) :=
  (releaseWaiters_engine _ _ _).trans (onPackets_engine _ _ _ _)

theorem poisonDc_engine (s : State) (d i : Nat) : EngineStep s (s.poisonDc d i) := by
  unfold poisonDc
  split
  · exact .refl s
  · exact (((EngineStep.modDie _ _ _).trans (.modDie _ _ _)).trans (doomWaiters_engine _ _)).trans (onPackets_engine _ _ _ _)

theorem poisonBar_engine (s : State) (d i : Nat) : EngineStep s (s.poisonBar d i) := by
  unfold poisonBar
  split
  · exact .refl s
  · exact ((EngineStep.modDie _ _ _).trans (.modDie _ _ _)).trans (doomWaiters_engine _ _)

theorem decDc_engine (s : State) (d i : Nat) (amount : Word) (k : Clock) : EngineStep s (s.decDc d i amount k).1 := by
  have hmerged : EngineStep s ((s.mergeClock d k).setDc d i { s.dc d i with clock := joinClock (s.dc d i).clock k }) :=
    (mergeClock_engine s d k).trans (setDc_engine _ _ _ _)
  unfold decDc
  dsimp only
  split
  · exact hmerged
  split
  · exact hmerged.trans (poisonDc_engine _ _ _)
  split
  · exact hmerged.trans ((setDc_engine _ _ _ _).trans (releaseDc_engine _ _ _))
  split
  · exact hmerged.trans ((setDc_engine _ _ _ _).trans (releaseDc_engine _ _ _))
  · exact hmerged.trans (setDc_engine _ _ _ _)

theorem arriveBar_engine (s : State) (d i : Nat) (k : Clock) : EngineStep s (s.arriveBar d i k) := by
  have hmerged : EngineStep s ((s.mergeClock d k).setBar d i { s.bar d i with clock := joinClock (s.bar d i).clock k }) :=
    (mergeClock_engine s d k).trans (setBar_engine _ _ _ _)
  unfold arriveBar
  dsimp only
  split
  · exact hmerged
  split
  · exact hmerged.trans (poisonBar_engine _ _ _)
  split
  · exact hmerged.trans ((setBar_engine _ _ _ _).trans (releaseWaiters_engine _ _ _))
  · exact hmerged.trans (setBar_engine _ _ _ _)

theorem decDcOn_engine (s : State) (e d i : Nat) (amount : Word) : EngineStep s (s.decDcOn e d i amount) :=
  (releaseOn_engine s e).trans (decDc_engine _ _ _ _ _)

theorem arriveBarOn_engine (s : State) (e d i : Nat) : EngineStep s (s.arriveBarOn e d i) :=
  (releaseOn_engine s e).trans (arriveBar_engine _ _ _ _)

/-! ### Reels, trees and the end of a copy (R258, R289, R354) -/

theorem fillSlotOn_engine (s : State) (d h i : Nat) (bad : Bool) : EngineStep s (s.fillSlotOn d h i bad) := by
  have hdrop : EngineStep (s.mergeClock d (s.reelClock h 1)) ((s.mergeClock d (s.reelClock h 1)).dropOld d none) := by
    unfold dropOld
    dsimp only
    split
    · exact .refl _
    · exact .modDie _ _ _
  have hfill : ∀ u : State, EngineStep u (u.fillSlot h i bad) := fun u => by
    unfold fillSlot
    split
    · exact .of_unitWrite (putBytes_unitWrite _ _ _)
    · exact .refl u
  exact (((mergeClock_engine s _ _).trans hdrop).trans (releaseOn_engine _ d)).trans ((hfill _).trans (.of_eq rfl rfl rfl rfl rfl))

theorem depositEnd_engine (s : State) (p tree i : Nat) (good : Bool) (k : Clock) : EngineStep s (s.depositEnd p tree i good k) := by
  unfold depositEnd
  dsimp only
  split
  · exact .refl s
  · split
    · unfold putNodeFrom
      split
      · exact .of_unitWrite (((putPlain_unitWrite _ _ _ _ _).trans (carry_unitWrite _ _ _ _)).trans (markWrote_unitWrite _ _))
      · exact .refl s
    · exact .refl s

theorem completeCopy_engine (s : State) (a : Agent) (c : Copy) (good : Bool) : EngineStep s (s.completeCopy a c good) := by
  unfold completeCopy
  extract_lets d i s2
  have hdone : EngineStep s s2 := by
    dsimp only [s2]
    split
    · exact decDcOn_engine _ _ _ _ _
    · split
      · exact arriveBarOn_engine _ _ _ _
      · exact (releaseOn_engine _ _).trans (poisonBar_engine _ _ _)
    · exact fillSlotOn_engine _ _ _ _ _
    · exact .refl s
  clear_value s2
  refine hdone.trans ?_
  cases c.role with
  | plain => exact .refl s2
  | deposit p t n => exact (releaseOn_engine s2 _).trans (depositEnd_engine _ _ _ _ _ _)
  | restore p t n => exact .refl s2
  | residency k j fill =>
    dsimp only
    split
    · exact .of_unitWrite (putUlm_unitWrite _ _ _ _)
    · exact .refl s2

/-! ### The engine (R206, R209, R260) -/

theorem modCe_engine (s : State) (a : Agent) (f : CopyEngine → CopyEngine) : EngineStep s (s.modCe a f) := by
  cases a with
  | thr c i => exact .modCore s c fun k => { k with ce := f k.ce }
  | seq n q => exact .modSet s n fun k => { k with ce := f k.ce }

theorem retireSb_engine (s : State) (o : SbOwner) : EngineStep s (s.retireSb o) :=
  ⟨rfl, fun _ => rfl, fun _ => rfl, fun c => by
    refine Tbl.get_map_proj ({} : Core) Core.settled _ (fun e => ?_) _ c
    split <;> exact ⟨rfl, rfl⟩, fun _ => rfl⟩

theorem endCopy_engine (s : State) (e : Agent) (c : Copy) (st : CState) (cause : BitVec 8) : EngineStep s (s.endCopy e c st cause) :=
  ((modCe_engine s e _).trans (retireSb_engine _ _)).trans (completeCopy_engine _ _ _ _)

theorem storeAt_engine (s : State) (l k : Nat) (bs : List Byte) (unc : Bool) (src : Nat × Bool) :
    EngineStep s (s.storeAt l k bs unc src) := by
  unfold storeAt
  cases placeOf l with
  | mmio =>
    dsimp only
    split
    · exact .modDie _ _ _
    · exact .refl s
  | host => exact .of_eq rfl rfl rfl rfl rfl
  | hbm d => exact .of_unitWrite ((putPlain_unitWrite _ _ _ _ _).trans (markWrote_unitWrite _ _))
  | ulm => exact .of_unitWrite (putPlain_unitWrite _ _ _ _ _)
  | none => exact .refl s

theorem copyPiece_engine (s : State) (c : Copy) (q : Nat) : EngineStep s (s.copyPiece c q) := by
  have hwrite : ∀ (u : State) d bs, EngineStep u (u.writeSeg d c.prog bs) := fun u d bs => by
    unfold writeSeg
    split
    · exact .refl u
    · exact storeAt_engine _ _ _ _ _ _
  unfold copyPiece
  split
  · exact .refl s
  · dsimp only
    refine EngineStep.trans ?_ (.foldl (fun u d => hwrite u d _) _ _)
    split
    · exact .refl s
    · exact .of_cachesOnly (readFrom_caches _ _ _ _)

theorem toLine_engine (c : Copy) (n : Nat) (s : State) : EngineStep s (toLine c n s).1 := by
  induction n generalizing c s with
  | zero => exact .refl s
  | succ n ih =>
    unfold toLine
    split
    · exact .refl s
    · split
      · exact (copyPiece_engine s c _).trans (ih _ _)
      · exact .refl s

/-- The copies of an engine that are cancelled (R260, R408). -/
theorem cancelCopies_engine (s : State) (e : Agent) : EngineStep s (s.cancelCopies e) :=
  .foldl (fun t c => by
    split
    · refine EngineStep.trans ?_ (endCopy_engine _ _ _ _ _)
      split
      · exact toLine_engine c 129 t
      · exact .refl t
    · exact .refl t) _ s

end State

end Sys2Proof.Machine

/-! SUPPORT. Queue-level resets (O53): what the reset of a core or Set leaves of the rest of the machine. -/

namespace Sys2Proof.Machine

/-- What a reset of another core leaves of a core: its grant, whether it is started, its own reset and its stop. -/
def Core.station (k : Core) : Core :=
  { assigned := k.assigned, asid := k.asid, started := k.started, resetting := k.resetting, stop := k.stop }

/-- The keys stay, and the partitions but for the clocks in their queues. -/
def PartsStay (s t : State) : Prop := t.keys = s.keys ∧ ∀ p, (t.getPart p).settled = (s.getPart p).settled

/-- Keys, partitions and the stations of the cores stay; of the threads, those whose key is not in `S`, but for the marks of a wait. -/
structure Stays (S : Nat → Prop) (s t : State) : Prop where
  parts : PartsStay s t
  thread : ∀ a : Agent, ¬ S a.key → (t.thread a).unmarked = (s.thread a).unmarked
  core : ∀ c, (t.getCore c).station = (s.getCore c).station

theorem PartsStay.refl (s : State) : PartsStay s s := ⟨rfl, fun _ => rfl⟩

theorem PartsStay.trans {s t u : State} (h : PartsStay s t) (g : PartsStay t u) : PartsStay s u :=
  ⟨g.1.trans h.1, fun p => (g.2 p).trans (h.2 p)⟩

theorem PartsStay.of_eq {s t : State} (hkeys : t.keys = s.keys) (hpart : t.part = s.part) : PartsStay s t :=
  ⟨hkeys, fun p => by rw [State.getPart, State.getPart, hpart]⟩

theorem PartsStay.foldl {α : Type} {f : State → α → State} (hf : ∀ s x, PartsStay s (f s x)) (l : List α) :
    ∀ s, PartsStay s (l.foldl f s) := by
  induction l with
  | nil => exact refl
  | cons x l ih => exact fun s => (hf s x).trans (ih _)

theorem PartsStay.state {s t : State} (h : PartsStay s t) (p : Nat) : (t.getPart p).state = (s.getPart p).state :=
  (congrArg Part.state (h.2 p) :)

theorem PartsStay.stopping {s t : State} (h : PartsStay s t) (p : Nat) : (t.getPart p).stopping = (s.getPart p).stopping :=
  (congrArg Part.stopping (h.2 p) :)

theorem PartsStay.partKeys {s t : State} (h : PartsStay s t) (p : Nat) : (t.getPart p).keys = (s.getPart p).keys :=
  (congrArg Part.keys (h.2 p) :)

namespace Stays

variable {S : Nat → Prop} {s t u : State}

theorem refl (s : State) : Stays S s s := ⟨.refl s, fun _ _ => rfl, fun _ => rfl⟩

theorem trans (h : Stays S s t) (g : Stays S t u) : Stays S s u :=
  ⟨h.parts.trans g.parts, fun a ha => (g.thread a ha).trans (h.thread a ha), fun c => (g.core c).trans (h.core c)⟩

theorem mono {R : Nat → Prop} (h : Stays S s t) (hR : ∀ x, S x → R x) : Stays R s t :=
  ⟨h.parts, fun a ha => h.thread a fun hS => ha (hR _ hS), h.core⟩

theorem foldl {α : Type} {f : State → α → State} (l : List α) (hf : ∀ s, ∀ x ∈ l, Stays S s (f s x)) : ∀ s, Stays S s (l.foldl f s) := by
  induction l with
  | nil => exact refl
  | cons x l ih =>
    exact fun s => (hf s x List.mem_cons_self).trans (ih (fun s y hy => hf s y (List.mem_cons_of_mem _ hy)) _)

theorem of_engine (h : EngineStep s t) : Stays S s t :=
  ⟨⟨h.keys, h.part⟩, fun a _ => h.thread a, fun c => congrArg (fun x => Core.station x.1) (h.core c)⟩

theorem of_eq (hkeys : t.keys = s.keys) (hpart : t.part = s.part) (hthr : t.thr = s.thr) (hcore : t.core = s.core) : Stays S s t :=
  ⟨.of_eq hkeys hpart, fun a _ => by rw [State.thread, State.thread, hthr], fun c => by rw [State.getCore, State.getCore, hcore]⟩

theorem of_accounts (h : AccountsOnly s t) : Stays S s t := by
  obtain ⟨heq, hcore⟩ := h
  exact ⟨.of_eq (by rw [heq]) (by rw [heq]), fun a _ => by rw [heq]; rfl, fun c => by rw [hcore c]; rfl⟩

theorem modCore (s : State) (c : Nat) (f : Core → Core) (hf : ∀ k, (f k).station = k.station := by intro; rfl) :
    Stays S s (s.modCore c f) := by
  refine ⟨.refl s, fun _ _ => rfl, fun b => ?_⟩
  rw [State.getCore_modCore]
  split
  case isTrue h => rw [hf, h]
  case isFalse => rfl

theorem modThread (s : State) {a : Agent} (f : Thread → Thread) (ha : S a.key) : Stays S s (s.modThread a f) :=
  ⟨.refl s, fun b hb => by rw [State.thread_modThread_other (a := a) (b := b) s f fun h => hb (h ▸ ha)], fun _ => rfl⟩

end Stays

namespace State

/-! ### Items and faulted copies (R258) -/

theorem appendItem_stays (S : Nat → Prop) (s : State) (c : Nat) (code sub : BitVec 8) (kind : Nat) (thr : Option Nat)
    (tval epc actid actst : Word) (ref : ItemRef) : Stays S s (s.appendItem c code sub kind thr tval epc actid actst ref) := by
  unfold appendItem enterItem
  dsimp only
  split
  · exact .modCore _ _ _
  · exact (Stays.of_engine (.of_unitWrite (putUlm_unitWrite _ _ _ _))).trans (.modCore _ _ _)

theorem faultCopy_stays (S : Nat → Prop) (s : State) (e : Agent) (c : Copy) (cause : BitVec 8) : Stays S s (s.faultCopy e c cause) :=
  (Stays.of_engine (endCopy_engine s e c .fault cause)).trans (appendItem_stays S _ _ _ _ _ _ _ _ _ _ _)

theorem faultKeyed_stays (S : Nat → Prop) (s : State) (p : Nat) : Stays S s (s.faultKeyed p) :=
  .foldl _ (fun _ _ _ => .foldl _ (fun _ _ _ => faultCopy_stays S _ _ _ _) _) s

/-! ### The threads of a core that is reset (R408) -/

theorem putRcbWord_stays (S : Nat → Prop) (s : State) (p : Nat) (rcb : Word) (i : Nat) (v : Word) : Stays S s (s.putRcbWord p rcb i v) := by
  unfold putRcbWord
  split
  · exact .of_engine (.of_unitWrite (((putPlain_unitWrite _ _ _ _ _).trans (ackAt_unitWrite _ _ _ _)).trans (ackAt_unitWrite _ _ _ _)))
  · exact .refl s

theorem completeLaunch_stays (S : Nat → Prop) (s : State) (c : Nat) (t : Thread) (bad : Bool) : Stays S s (s.completeLaunch c t bad) := by
  unfold completeLaunch
  split
  · exact .refl s
  · dsimp only
    cases t.cctr with
    | none => exact putRcbWord_stays S _ _ _ _ _
    | some k => exact (Stays.of_engine (decDcOn_engine _ _ _ _ _)).trans (putRcbWord_stays S _ _ _ _ _)

theorem freeSlotOf_stays (S : Nat → Prop) (s : State) (c : Nat) (t : Thread) : Stays S s (s.freeSlotOf c t) := by
  unfold freeSlotOf freeSlot
  split
  · exact .refl s
  · exact .modCore _ _ _

section
variable {S : Nat → Prop} {c tid : Nat} (hS : S (8 * c + tid))
include hS

theorem freeThread_stays (s : State) : Stays S s (s.freeThread c tid) :=
  (Stays.modThread (a := .thr c tid) s _ hS).trans (.of_accounts (freeThread_accounts s c tid))

/-- An escalation that tells nobody. -/
theorem escalate_stays (s : State) (byCp : Bool) (code sub : BitVec 8) (tval epc : Word) :
    Stays S s (s.escalate c tid byCp false code sub tval epc) := by
  have hleft : Stays S s ((s.leaveLines (.thr c tid)).countCore c 0x14) :=
    .of_accounts ((leaveLines_accounts _ _).trans (countCore_accounts _ _ _))
  have hended := hleft.trans (.of_accounts (accountEnd_accounts _ c tid
    (((s.leaveLines (.thr c tid)).countCore c 0x14).thread (.thr c tid)) 3))
  unfold escalate
  dsimp only
  rw [if_neg Bool.false_ne_true]
  split
  · exact hended.trans (freeThread_stays hS _)
  · exact ((hended.trans (completeLaunch_stays S _ _ _ _)).trans (freeSlotOf_stays S _ _ _)).trans (freeThread_stays hS _)

theorem dropHosted_stays (s : State) (byCp : Bool) (code sub : BitVec 8) (tval : Word) :
    Stays S s (s.dropHosted c tid byCp false code sub tval) := by
  unfold dropHosted
  split
  · exact .refl s
  case h_2 h hh =>
    dsimp only
    rw [if_neg Bool.false_ne_true]
    have hended := (Stays.of_accounts (S := S) ((countCore_accounts s c 0x14).trans (accountEnd_accounts _ c tid (s.hostedThread h) 3))).trans
      (freeSlotOf_stays S _ c (s.hostedThread h))
    exact (hended.trans (completeLaunch_stays S _ _ _ _)).trans
      ((Stays.modThread (a := .thr c tid) _ _ hS).trans (.of_accounts (settleStage_accounts _ _)))

theorem clearThread_stays (s : State) : Stays S s (s.clearThread c tid) := by
  unfold clearThread
  exact (freeThread_stays hS s).trans (.modThread (a := .thr c tid) _ _ hS)

end

/-- The thread of a reset core: FREE, or OFF with its core. -/
def Idle (s : State) (a : Agent) : Prop := (s.thread a).st = .free ∨ (s.thread a).st = .off

theorem clearThread_idle (s : State) (c i : Nat) : (s.clearThread c i).Idle (.thr c i) := by
  unfold Idle clearThread
  rw [thread_modThread_same]
  dsimp only
  split
  · exact .inr rfl
  · exact .inl rfl

theorem Idle.of_stays {S : Nat → Prop} {s t : State} {a : Agent} (h : s.Idle a) (hst : Stays S s t) (ha : ¬ S a.key) : t.Idle a := by
  unfold Idle
  rw [Thread.of_unmarked Thread.st (hst.thread a ha)]
  exact h

theorem countDropped_stays (S : Nat → Prop) (s : State) (c n : Nat) : Stays S s (s.countDropped c n) := by
  unfold countDropped
  split
  · exact .refl s
  · exact .modCore _ _ _

/-- The activation and the hosted context of one thread are killed. -/
def killAct (c : Nat) (t : State) (i : Nat) : State :=
  let u := if (t.thread (.thr c i)).live then t.escalate c i false false 0 0 0 0 else t
  (u.dropHosted c i false false 0 0 0).clearThread c i

theorem killActs_eq (s : State) (c : Nat) : s.killActs c = (List.range 6).foldl (killAct c) (s.countDropped c (s.keptBy c)) := rfl

theorem killAct_stays {S : Nat → Prop} {c i : Nat} (hS : S (8 * c + i)) (s : State) : Stays S s (killAct c s i) := by
  unfold killAct
  dsimp only
  refine ((Stays.trans ?_ (dropHosted_stays hS _ _ _ _ _)).trans (clearThread_stays hS _))
  split
  · exact escalate_stays hS _ _ _ _ _ _
  · exact .refl s

/-- Keys of the threads of core `c`. -/
def OfCore (c : Nat) (x : Nat) : Prop := x / 8 = c

theorem killActs_stays (s : State) (c : Nat) : Stays (OfCore c) s (s.killActs c) := by
  rw [killActs_eq]
  refine (countDropped_stays _ s c _).trans (.foldl _ (fun t i hi => killAct_stays ?_ t) _)
  have := List.mem_range.1 hi
  show (8 * c + i) / 8 = c
  omega

theorem killActs_idle (s : State) (c : Nat) {i : Nat} (hi : i < 6) : (s.killActs c).Idle (.thr c i) := by
  rw [killActs_eq]
  generalize s.countDropped c (s.keptBy c) = u
  have hall : ∀ n i, i < n → ((List.range n).foldl (killAct c) u).Idle (.thr c i) := by
    intro n
    induction n with
    | zero => exact fun i hi => absurd hi (Nat.not_lt_zero i)
    | succ n ih =>
      intro i hi
      rw [List.range_succ, List.foldl_append, List.foldl_cons, List.foldl_nil]
      by_cases hlast : i = n
      · subst hlast
        exact clearThread_idle _ c i
      · refine (ih i (by omega)).of_stays (killAct_stays (S := fun x => x = 8 * c + n) rfl _) ?_
        show ¬ 8 * c + i = 8 * c + n
        omega
  exact hall 6 i hi

/-! ### The reset of a core (R408, R409) -/

theorem traceReset_stays (S : Nat → Prop) (s : State) (c : Nat) : Stays S s (s.traceReset c) := by
  unfold traceReset traceRecord
  split
  · exact .refl s
  · exact .of_eq rfl rfl rfl rfl

theorem countEvent_stays (S : Nat → Prop) (s : State) (c t ev : Nat) : Stays S s (s.countEvent c t ev) := by
  unfold countEvent countEvents
  split
  · exact .refl s
  · exact .modCore _ _ _

theorem endScan_stays (s : State) (c result : Nat) : Stays (OfCore c) s (s.endScan c result) := by
  have hT7 : OfCore c (Agent.thr c 7).key := show (8 * c + 7) / 8 = c by omega
  unfold endScan
  split
  · exact .refl s
  · dsimp only
    split
    · exact .modCore _ _ _
    · exact ((Stays.modCore _ _ _).trans (countEvent_stays _ _ _ _ _)).trans (.modThread _ _ hT7)

theorem settleStops_stays (s : State) (c : Nat) : Stays (OfCore c) s (s.settleStops c) :=
  .foldl _ (fun t i hi => by
    have := List.mem_range.1 hi
    split
    · exact .modThread (a := .thr c i) _ _ (show (8 * c + i) / 8 = c by omega)
    · exact .refl t) s

/-- A core with its queues empty, out of its reset. -/
def emptyQueues (k : Core) : Core :=
  { k with
    t7q := [], itemWait := [], t7cur := none, sendBuf := [], niWait := [], inbox := [], overflow := false, t6q := [], preemptOut := false
    q := k.q.map fun e => (e.1, { e.2 with entries := [] }), resetting := false }

def emptied (s : State) (c : Nat) : State := s.modCore c emptyQueues

/-- The messages of the input buffers of core `c` are gone. -/
def dropInput (s : State) (c : Nat) : State := { s with mesh := s.mesh.filter fun m => !(m.received && decide (m.dst = c)) }

/-- So are its activations, and what T6 and T7 do. -/
def cleared (s : State) (c : Nat) : State :=
  (((((s.endScan c 3).countDropped c (s.droppedBy c)).killActs c).clearThread c 6).clearThread c 7).dropInput c

theorem dropInput_stays (S : Nat → Prop) (s : State) (c : Nat) : Stays S s (s.dropInput c) := .of_eq rfl rfl rfl rfl

/-- Its copies are cancelled, T7 stands at its entry, and a trace is closed. -/
def restarted (s : State) (c : Nat) (pc : Word) : State :=
  ((s.cancelCopies (.thr c 7)).modThread (.thr c 7) fun t => { t with pc := pc }).traceReset c

/-- A core after its reset, where no stop holds it. -/
def fresh (s : State) (c : Nat) : State := ((s.cleared c).emptied c).restarted c (ofN (field (s.block c 0x1000) 0 20))

theorem coreReset_eq (s : State) (c : Nat) :
    s.coreReset c = if ((s.fresh c).getCore c).stop.isSome then (s.fresh c).settleStops c else s.fresh c := by
  unfold coreReset
  extract_lets s1 s2 s3 s4 s5 s6 s7
  have h4 : s4 = s.cleared c := rfl
  have h5 : s5 = (s4.emptied c).cancelCopies (.thr c 7) := rfl
  have h7 : s7 = s.fresh c := by
    rw [fresh, restarted, ← h4, ← h5]
  rw [h7]

theorem clearThread_core_stays (s : State) {c i : Nat} (hi : i < 8) : Stays (OfCore c) s (s.clearThread c i) :=
  clearThread_stays (show (8 * c + i) / 8 = c by omega) s

theorem cleared_stays (s : State) (c : Nat) : Stays (OfCore c) s (s.cleared c) := by
  unfold cleared
  exact (((((endScan_stays s c 3).trans (countDropped_stays _ _ _ _)).trans (killActs_stays _ c)).trans
    (clearThread_core_stays _ (by decide))).trans (clearThread_core_stays _ (by decide))).trans (dropInput_stays _ _ c)

theorem cleared_idle (s : State) (c : Nat) {i : Nat} (hi : i < 8) : (s.cleared c).Idle (.thr c i) := by
  have hother : ∀ (u : State) j, i ≠ j → u.Idle (.thr c i) → (u.clearThread c j).Idle (.thr c i) := fun u j hne h =>
    h.of_stays (clearThread_stays (S := fun x => x = 8 * c + j) rfl u) (show ¬ 8 * c + i = 8 * c + j by omega)
  unfold cleared
  generalize (s.endScan c 3).countDropped c (s.droppedBy c) = u
  refine Idle.of_stays (S := fun _ => False) ?_ (dropInput_stays _ _ c) not_false
  by_cases h7 : i = 7
  · subst h7
    exact clearThread_idle _ c 7
  refine hother _ 7 h7 ?_
  by_cases h6 : i = 6
  · subst h6
    exact clearThread_idle _ c 6
  · exact hother _ 6 h6 (killActs_idle u c (by omega))

theorem restarted_stays (s : State) (c : Nat) (pc : Word) : Stays (OfCore c) s (s.restarted c pc) :=
  ((Stays.of_engine (cancelCopies_engine s (.thr c 7))).trans (.modThread _ _ (show (8 * c + 7) / 8 = c by omega))).trans
    (traceReset_stays _ _ _)

/-- The queues of a core that restarts stay empty. -/
theorem restarted_queues (s : State) (c : Nat) (pc : Word) : ((s.restarted c pc).getCore c).settled = (s.getCore c).settled := by
  have htrace : ∀ u : State, (u.traceReset c).core = u.core := fun u => by
    unfold traceReset traceRecord
    split <;> rfl
  unfold restarted
  rw [getCore, htrace, modThread_core]
  exact (cancelCopies_engine s (.thr c 7)).core c

theorem restarted_idle {s : State} {c i : Nat} (h : s.Idle (.thr c i)) (pc : Word) : (s.restarted c pc).Idle (.thr c i) := by
  have hcopies : (s.cancelCopies (.thr c 7)).Idle (.thr c i) :=
    h.of_stays (S := fun _ => False) (.of_engine (cancelCopies_engine s _)) not_false
  refine Idle.of_stays (S := fun _ => False) ?_ (traceReset_stays _ _ c) not_false
  unfold Idle
  by_cases h7 : (Agent.thr c i).key = (Agent.thr c 7).key
  · rw [thread, h7]
    unfold Idle thread at hcopies
    rw [h7] at hcopies
    rw [← thread, thread_modThread_same]
    exact hcopies
  · rw [thread_modThread_other _ _ h7]
    exact hcopies

end State

/-! ### What a completed reset gives -/

theorem State.endStop_not_stopping {s : State} {p : Nat} (h : (s.getPart p).stopping = false) : s.endStop p = s := by
  unfold endStop
  rw [h]
  rfl

theorem runs_queueResetComplete_core {s : State} {c : Nat} (hreset : (s.getCore c).resetting = true) (hdone : s.t6Done c = true)
    (hstop : (s.getCore c).stop = none) (hpart : (s.getPart (s.partOf (.thr c 7))).stopping = false) :
    Runs (.queueResetComplete false c) s fun t => (t.getCore c).inbox = [] ∧ (t.getCore c).t6q = [] ∧
      (t.getCore c).t7q = [] ∧ (t.getCore c).sendBuf = [] ∧ (t.getCore c).resetting = false ∧
      ∀ k, k < 8 → (t.thread (.thr c k)).st = .free ∨ (t.thread (.thr c k)).st = .off := by
  have hexec : exec (.queueResetComplete false c) s = .next ((s.coreReset c).endStop (s.partOf (.thr c 7))) := by
    rw [exec_queueResetComplete, execQueueResetComplete, if_neg Bool.false_ne_true, hreset, hdone]
    rfl
  have hclear := s.cleared_stays c
  have hidle : ∀ k, k < 8 → (s.cleared c).Idle (.thr c k) := fun k hk => s.cleared_idle c hk
  rw [State.coreReset_eq, State.fresh] at hexec
  generalize ofN (field (s.block c 0x1000) 0 20) = pc at hexec
  generalize s.cleared c = u at hexec hclear hidle
  have hempty : (u.emptied c).getCore c = _ := State.getCore_modCore_same u c _
  have hrestart := (u.emptied c).restarted_stays c pc
  have hqueues := (u.emptied c).restarted_queues c pc
  have hidles : ∀ k, k < 8 → ((u.emptied c).restarted c pc).Idle (.thr c k) := fun k hk =>
    State.restarted_idle (s := u.emptied c) (hidle k hk) pc
  have hstopped : (((u.emptied c).restarted c pc).getCore c).stop = none := by
    refine (congrArg Core.stop (hrestart.core c) :).trans ?_
    rw [hempty]
    exact (congrArg Core.stop (hclear.core c) :).trans hstop
  have hstopping : (((u.emptied c).restarted c pc).getPart (s.partOf (.thr c 7))).stopping = false :=
    (hrestart.parts.stopping _).trans ((hclear.parts.stopping _).trans hpart)
  generalize (u.emptied c).restarted c pc = t at hexec hqueues hidles hstopped hstopping
  rw [hstopped, Option.isSome_none, if_neg Bool.false_ne_true, State.endStop_not_stopping hstopping] at hexec
  rw [hempty] at hqueues
  obtain ⟨hcore, hinbox, ht6q, hsend⟩ :
      _ ∧ (t.getCore c).inbox.length = 0 ∧ (t.getCore c).t6q.length = 0 ∧ (t.getCore c).sendBuf.length = 0 := by
    simpa only [State.emptyQueues, Core.settled, Prod.mk.injEq, List.length_nil] using hqueues
  exact ⟨t, hexec, List.eq_nil_of_length_eq_zero hinbox, List.eq_nil_of_length_eq_zero ht6q, (congrArg Core.t7q hcore :),
    List.eq_nil_of_length_eq_zero hsend, (congrArg Core.resetting hcore :), hidles⟩

end Sys2Proof.Machine

/-! SUPPORT. The reset of a Set, and the stop and the error of a partition (O53). -/

namespace Sys2Proof.Machine

theorem PartsStay.modCore (s : State) (c : Nat) (f : Core → Core) : PartsStay s (s.modCore c f) := .of_eq rfl rfl
theorem PartsStay.modSet (s : State) (n : Nat) (f : SetSt → SetSt) : PartsStay s (s.modSet n f) := .of_eq rfl rfl
theorem PartsStay.setThread (s : State) (a : Agent) (t : Thread) : PartsStay s (s.setThread a t) := .of_eq rfl rfl

theorem PartsStay.of_engine {s t : State} (h : EngineStep s t) : PartsStay s t := ⟨h.keys, h.part⟩

namespace State

/-! ### The reset of a Set (R408) -/

theorem seqEnd_parts (s : State) (n q : Nat) (exit : Word) (fault : Option (Word × Word)) : PartsStay s (s.seqEnd n q exit fault) := by
  obtain ⟨heq, -⟩ := s.leaveLines_accounts (.seq n q)
  have hleft : PartsStay s (s.leaveLines (.seq n q)) := .of_eq (by rw [heq]) (by rw [heq])
  exact hleft.trans (.of_eq rfl rfl)

/-- What is under way in Set `n` has ended, up to its queues. -/
def endPrograms (s : State) (n : Nat) : State :=
  let k := s.getSet n
  let s1 := k.engQ.foldl (fun t e => t.retireSb (.mxrd n e.serial)) s
  let s2 := (List.range 3).foldl (fun t q =>
    if ((Tbl.get none (t.getSet n).cur q)).isSome then t.seqEnd n q 0x8000000000000016 none else t) s1
  let s3 := s2.countDropped (8 * n) (k.sendBuf.length + k.niWait.length +
    (s.mesh.filter fun m => m.received && decide (m.dst = 128 + n)).length)
  { s3 with mesh := s3.mesh.filter fun m => !(m.received && decide (m.dst = 128 + n)) }

/-- A Set with its queues, slots and bins empty, out of its reset. -/
def SetSt.emptied (k : SetSt) : SetSt :=
  { k with
    engQ := [], loadQ := [], forkQ := [], sem := [], semLine := k.semLine.filter fun e => e.2.1.any fun a => decide (a < 1024)
    bins := k.bins.map fun e => (e.1, { e.2 with state := 0, rows := 0, buf := none, closing := false })
    bufs := [], wb := [], stages := [], mxUce := false, sendBuf := [], niWait := []
    q := k.q.map fun e => (e.1, { e.2 with entries := [] }), resetting := false }

/-- The sequencers of Set `n` ask for nothing any more. -/
def dropAsked (s : State) (n : Nat) : State := (List.range 3).foldl (fun t q => t.modThread (.seq n q) fun u => { u with outst := [] }) s

theorem setReset_eq (s : State) (n : Nat) :
    s.setReset n = ((((s.endPrograms n).modSet n SetSt.emptied).dropAsked n).cancelCopies (.seq n 2)).traceReset (8 * n) := by
  unfold setReset
  extract_lets k s1 s2 s3 s4 s5 s6
  have h4 : s4 = s.endPrograms n := rfl
  have h5 : s5 = s4.modSet n SetSt.emptied := rfl
  have h6 : s6 = s5.dropAsked n := rfl
  rw [← h4, ← h5, ← h6]

theorem endPrograms_parts (s : State) (n : Nat) : PartsStay s (s.endPrograms n) := by
  unfold endPrograms
  extract_lets k s1 s2 s3
  have h1 : PartsStay s s1 := .foldl (fun t e => .of_engine (retireSb_engine t _)) _ s
  have h2 : PartsStay s1 s2 := .foldl (fun t q => by
    split
    · exact seqEnd_parts t n q _ _
    · exact .refl t) _ s1
  exact (h1.trans h2).trans ((countDropped_stays (fun _ => False) s2 (8 * n) _).parts.trans (.of_eq rfl rfl))

theorem dropAsked_keeps (s : State) (n : Nat) : ThreadsOnly s (s.dropAsked n) := .foldl (fun _ _ => by exact rfl) _ s

theorem setReset_parts (s : State) (n : Nat) : PartsStay s (s.setReset n) := by
  rw [setReset_eq]
  have hasked : PartsStay ((s.endPrograms n).modSet n SetSt.emptied) (((s.endPrograms n).modSet n SetSt.emptied).dropAsked n) := by
    have h := dropAsked_keeps ((s.endPrograms n).modSet n SetSt.emptied) n
    exact .of_eq (by rw [h]) (by rw [h])
  exact ((((endPrograms_parts s n).trans (.of_eq rfl rfl)).trans hasked).trans (.of_engine (cancelCopies_engine _ _))).trans
    (traceReset_stays (fun _ => False) _ _).parts

/-- The reset Set but for its engine and its messages. -/
theorem setReset_settled (s : State) (n : Nat) :
    ((s.setReset n).getSet n).settled = (SetSt.emptied ((s.endPrograms n).getSet n)).settled := by
  have htrace : ∀ u : State, (u.traceReset (8 * n)).sets = u.sets := fun u => by
    unfold traceReset traceRecord
    split <;> rfl
  have hcopies := (cancelCopies_engine (((s.endPrograms n).modSet n SetSt.emptied).dropAsked n) (.seq n 2)).sets n
  rw [setReset_eq, getSet, htrace, ← getSet, hcopies]
  generalize s.endPrograms n = u
  have hsets : ((u.modSet n SetSt.emptied).dropAsked n).sets = (u.modSet n SetSt.emptied).sets := by
    rw [dropAsked_keeps (u.modSet n SetSt.emptied) n]
  rw [getSet, hsets, ← getSet, getSet_modSet_same]

end State

theorem runs_queueResetComplete_set {s : State} {set : Nat} (hreset : (s.getSet set).resetting = true) :
    Runs (.queueResetComplete true set) s fun t => (t.getSet set).engQ = [] ∧ (t.getSet set).loadQ = [] ∧
      (t.getSet set).forkQ = [] ∧ (t.getSet set).wb = [] ∧ (t.getSet set).stages = [] ∧ (t.getSet set).resetting = false := by
  have hexec : exec (.queueResetComplete true set) s = .next (s.setReset set) := by
    rw [exec_queueResetComplete, execQueueResetComplete, if_pos rfl, if_pos hreset]
  have h := s.setReset_settled set
  generalize s.setReset set = t at hexec h
  generalize (s.endPrograms set).getSet set = k at h
  exact ⟨t, hexec, (congrArg SetSt.engQ h :), (congrArg SetSt.loadQ h :), (congrArg SetSt.forkQ h :), (congrArg SetSt.wb h :),
    (congrArg SetSt.stages h :), (congrArg SetSt.resetting h :)⟩

/-! ### The cores of a partition that leaves RUN (R408, R413, R415) -/

namespace State

/-- A core that is halted: it has started no more, and is reset at once, or is to be reset once T6 is done. -/
def halt (s : State) (c : Nat) : State :=
  let u := s.modCore c fun k => { k with started := false }
  if u.t6Done c then u.coreReset c else (u.killActs c).startCoreReset c

theorem haltCores_eq (s : State) (p : Nat) : s.haltCores p = (s.coresOf p).foldl halt s := rfl

/-- What the reset or the halt of core `c` does: its station is now `x`, the other cores' are as before, and so are the other threads. -/
structure CoreTurns (c : Nat) (x : Core) (s t : State) : Prop where
  parts : PartsStay s t
  thread : ∀ a : Agent, ¬ OfCore c a.key → (t.thread a).unmarked = (s.thread a).unmarked
  self : (t.getCore c).station = x
  other : ∀ b, b ≠ c → (t.getCore b).station = (s.getCore b).station

theorem CoreTurns.of_stays {s t : State} {c : Nat} (h : Stays (OfCore c) s t) : CoreTurns c (s.getCore c).station s t :=
  ⟨h.parts, h.thread, h.core c, fun b _ => h.core b⟩

theorem CoreTurns.trans {s t u : State} {c : Nat} {x y : Core} (h : CoreTurns c x s t) (g : CoreTurns c y t u) : CoreTurns c y s u :=
  ⟨h.parts.trans g.parts, fun a ha => (g.thread a ha).trans (h.thread a ha), g.self, fun b hb => (g.other b hb).trans (h.other b hb)⟩

theorem CoreTurns.after {s t u : State} {c : Nat} {x : Core} (h : CoreTurns c x s t) (g : Stays (OfCore c) t u) : CoreTurns c x s u :=
  h.self ▸ h.trans (.of_stays g)

theorem CoreTurns.modCore (s : State) (c : Nat) (f : Core → Core) : CoreTurns c (f (s.getCore c)).station s (s.modCore c f) :=
  ⟨.refl s, fun _ _ => rfl, by rw [getCore_modCore_same], fun b hb => by rw [getCore_modCore, if_neg hb]⟩

theorem coreReset_turns (s : State) (c : Nat) : CoreTurns c { (s.getCore c).station with resetting := false } s (s.coreReset c) := by
  have hfresh : CoreTurns c { (s.getCore c).station with resetting := false } s (s.fresh c) := by
    have hclear := s.cleared_stays c
    have hself : ∀ u : State, (u.getCore c).station = (s.getCore c).station →
        CoreTurns c { (s.getCore c).station with resetting := false } u (u.emptied c) := fun u hu => hu ▸ CoreTurns.modCore u c emptyQueues
    exact ((CoreTurns.of_stays hclear).trans (hself _ (hclear.core c))).after (restarted_stays _ c _)
  rw [coreReset_eq]
  split
  · exact hfresh.after (settleStops_stays _ c)
  · exact hfresh

theorem t6Done_congr {s t : State} {c : Nat} (h : (t.thread (.thr c 6)).unmarked = (s.thread (.thr c 6)).unmarked) :
    t.t6Done c = s.t6Done c := by
  have hst : (t.thread (.thr c 6)).st = (s.thread (.thr c 6)).st := Thread.of_unmarked Thread.st h
  have hheld : trapHeld (t.thread (.thr c 6)) = trapHeld (s.thread (.thr c 6)) :=
    Thread.of_unmarked trapHeld h fun v => by
      unfold trapHeld Thread.unmarked
      cases v.wait <;> rfl
  unfold t6Done
  dsimp only
  rw [hst, hheld]

theorem halt_turns (s : State) (c : Nat) :
    CoreTurns c { (s.getCore c).station with started := false, resetting := !s.t6Done c } s (s.halt c) := by
  have hstart : CoreTurns c { (s.getCore c).station with started := false } s (s.modCore c fun k => { k with started := false }) :=
    CoreTurns.modCore s c fun k => { k with started := false }
  have hdone : (s.modCore c fun k => { k with started := false }).t6Done c = s.t6Done c := rfl
  unfold halt
  dsimp only
  rw [hdone]
  generalize (s.modCore c fun k => { k with started := false }) = u at hstart
  split
  case isTrue h =>
    rw [h]
    have hreset := coreReset_turns u c
    rw [hstart.self] at hreset
    exact hstart.trans hreset
  case isFalse h =>
    rw [Bool.eq_false_iff.2 h]
    have hkilled := hstart.after (killActs_stays u c)
    have hreset := CoreTurns.modCore (u.killActs c) c fun k => { k with resetting := true }
    have hself : ({ (u.killActs c).getCore c with resetting := true } : Core).station =
        { (s.getCore c).station with started := false, resetting := true } :=
      congrArg (fun k : Core => { k with resetting := true }) hkilled.self
    rw [hself] at hreset
    exact hkilled.trans hreset

/-- The cores of a list that are halted, one after another: T6 of a core and its station are its own business. -/
theorem halts_turn (l : List Nat) (hnodup : l.Nodup) (s : State) :
    PartsStay s (l.foldl halt s) ∧
    (∀ b, b ∉ l → ((l.foldl halt s).getCore b).station = (s.getCore b).station) ∧
    ∀ b ∈ l, ((l.foldl halt s).getCore b).station = { (s.getCore b).station with started := false, resetting := !s.t6Done b } := by
  induction l generalizing s with
  | nil => exact ⟨.refl s, fun _ _ => rfl, fun b hb => absurd hb List.not_mem_nil⟩
  | cons c l ih =>
    obtain ⟨hnot, hrest⟩ := List.nodup_cons.1 hnodup
    have hturn := s.halt_turns c
    obtain ⟨hparts, hout, hin⟩ := ih hrest (s.halt c)
    refine ⟨hturn.parts.trans hparts, fun b hb => ?_, fun b hb => ?_⟩
    · rw [List.mem_cons, not_or] at hb
      exact (hout b hb.2).trans (hturn.other b hb.1)
    · by_cases hbc : b = c
      · subst hbc
        exact (hout b hnot).trans hturn.self
      · refine (hin b ((List.mem_cons.1 hb).resolve_left hbc)).trans ?_
        rw [hturn.other b hbc, t6Done_congr (hturn.thread (.thr b 6) (show ¬ (8 * b + 6) / 8 = c by omega))]

/-! ### Scrubs, keys and tables (R321, R345, R413, R414) -/

theorem flushBacking_coresAndDies (s : State) (b : List (Nat × Nat)) : CoresAndDies s (s.flushBacking b) := by
  unfold flushBacking
  dsimp only
  exact (CoresAndDies.foldl (fun _ _ => .foldl (fun _ _ => .modDie _ _ _) _ _) _ s).trans rfl

theorem CoresAndDies.parts {s t : State} (h : CoresAndDies s t) : PartsStay s t := .of_eq (by rw [h]) (by rw [h])

theorem scrub_parts (s : State) (l n : Nat) : PartsStay s (s.scrub l n) := by
  unfold scrub
  extract_lets s1
  have h1 : PartsStay s s1 := .of_eq rfl rfl
  exact (h1.trans (CoresAndDies.parts (flushBacking_coresAndDies s1 _))).trans (.of_engine (.of_unitWrite (staleLines_unitWrite _ _ _)))

theorem scrubCore_parts (s : State) (c : Nat) : PartsStay s (s.scrubCore c) := by
  unfold scrubCore
  extract_lets s1
  have h1 : PartsStay s s1 :=
    ((CoresAndDies.parts (s.emptyL1_coresAndDies c)).trans (scrub_parts _ _ _)).trans (PartsStay.modCore _ c _)
  clear_value s1
  refine h1.trans (PartsStay.foldl (fun t i => ?_) _ s1)
  exact PartsStay.setThread t _ _

theorem scrubSet_parts (s : State) (n : Nat) : PartsStay s (s.scrubSet n) := by
  unfold scrubSet
  extract_lets s1 s2
  have h2 : PartsStay s s2 := (scrub_parts s _ _).trans (PartsStay.modSet _ n _)
  clear_value s2
  refine h2.trans (PartsStay.foldl (fun t q => ?_) _ s2)
  exact PartsStay.setThread t _ _

/-- Core `c` of a partition that has stopped. -/
def stripCore (s : State) (c : Nat) : State := (s.scrubCore c).modCore c fun k => { k with t7q := [], itemWait := [] }

theorem stripCore_parts (s : State) (c : Nat) : PartsStay s (s.stripCore c) := (scrubCore_parts s c).trans (PartsStay.modCore _ c _)

/-- The Sets of a partition that has stopped. -/
def stripSet (s : State) (n : Nat) : State := (s.setReset n).scrubSet n

theorem stripSet_parts (s : State) (n : Nat) : PartsStay s (s.stripSet n) := (setReset_parts s n).trans (scrubSet_parts _ n)

theorem scrubCore_blankOther {s : State} {c : Nat} (b : Nat) (h : BlankUlm s c) : BlankUlm (s.scrubCore b) c := by
  intro a ha
  rw [scrubCore_mem, scrub_read]
  split
  · rfl
  · rw [(s.emptyL1_coresAndDies b).mem]
    exact h a ha

theorem stripCores_blank {c : Nat} (l : List Nat) (s : State) (h : c ∈ l ∨ BlankUlm s c) : BlankUlm (l.foldl stripCore s) c := by
  induction l generalizing s with
  | nil => exact h.resolve_left List.not_mem_nil
  | cons b l ih =>
    refine ih _ ?_
    by_cases hb : c = b
    · subst hb
      exact .inr (BlankUlm.modCore (s.scrubCore_blank c) c _)
    · exact h.imp (fun hmem => (List.mem_cons.1 hmem).resolve_left hb) fun hblank => BlankUlm.modCore (scrubCore_blankOther b hblank) b _

theorem wipeKeys_wiped (s : State) (p : Nat) {k : Nat} (hk : k ∈ (s.getPart p).keys) : Tbl.get none (s.wipeKeys p).keys k = none := by
  refine (Tbl.get_foldl_put none (fun _ => none) (s.getPart p).keys s.keys k).trans ?_
  rw [if_pos hk]

/-- The last of a stop: keys, tables and frames go, and the partition is CONFIG_UNLOCKED. -/
def unlock (s : State) (p : Nat) : State :=
  (((s.wipeKeys p).dropTables p).dropFrames p).modPart p fun x => { x with state := .unlocked, stopping := false }

theorem unlock_keys (s : State) (p : Nat) : (s.unlock p).keys = (s.wipeKeys p).keys := rfl
theorem unlock_mem (s : State) (p : Nat) : (s.unlock p).mem = s.mem := rfl
theorem unlock_state (s : State) (p : Nat) : ((s.unlock p).getPart p).state = .unlocked := by
  rw [unlock, getPart_modPart_same]

/-- The Sets and the cores of a partition that has stopped are reset and scrubbed. -/
def stripped (s : State) (p : Nat) : State := (s.coresOf p).foldl stripCore ((s.setsOf p).foldl stripSet (s.faultKeyed p))

theorem stripped_parts (s : State) (p : Nat) : PartsStay s (s.stripped p) :=
  ((faultKeyed_stays (fun _ => False) s p).parts.trans (PartsStay.foldl stripSet_parts _ _)).trans (PartsStay.foldl stripCore_parts _ _)

theorem endStop_unlocks {s : State} {p : Nat} (hstop : (s.getPart p).stopping = true)
    (hreset : ∀ c ∈ s.coresOf p, (s.getCore c).resetting = false) : s.endStop p = (s.stripped p).unlock p := by
  have hnone : (s.coresOf p).any (fun c => (s.getCore c).resetting) = false :=
    List.any_eq_false.2 fun c hc => by rw [hreset c hc]; exact Bool.false_ne_true
  unfold endStop
  rw [hstop, hnone]
  exact if_neg Bool.false_ne_true

theorem endStop_stops {s : State} {p : Nat} (hstop : (s.getPart p).stopping = true)
    (hreset : ∀ c ∈ s.coresOf p, (s.getCore c).resetting = false) :
    ((s.endStop p).getPart p).state = .unlocked ∧ (∀ k ∈ (s.getPart p).keys, Tbl.get none (s.endStop p).keys k = none) ∧
      ∀ c ∈ s.coresOf p, BlankUlm (s.endStop p) c := by
  have hparts := s.stripped_parts p
  have hblank : ∀ c ∈ s.coresOf p, BlankUlm (s.stripped p) c := fun c hc => stripCores_blank _ _ (.inl hc)
  rw [endStop_unlocks hstop hreset]
  generalize s.stripped p = u at hparts hblank
  refine ⟨unlock_state u p, fun k hk => ?_, fun c hc a ha => ?_⟩
  · rw [unlock_keys]
    exact u.wipeKeys_wiped p (hparts.partKeys p ▸ hk)
  · rw [unlock_mem]
    exact hblank c hc a ha

/-! ### A partition leaves RUN (R413, R415) -/

theorem coresOf_congr {s t : State} (p : Nat) (h : ∀ c, (t.getCore c).assigned = (s.getCore c).assigned ∧
    (t.getCore c).asid = (s.getCore c).asid) : t.coresOf p = s.coresOf p := by
  refine List.filter_congr fun c _ => ?_
  obtain ⟨hassigned, hasid⟩ := h c
  rw [hassigned, partOf, partOf, hasid]

/-- The grant of a core whose station is known. -/
theorem grant_of_station {k l : Core} {b r : Bool} (h : k.station = l.station ∨ k.station = { l.station with started := b, resetting := r }) :
    k.assigned = l.assigned ∧ k.asid = l.asid := by
  obtain h | h := h
  · exact ⟨(congrArg Core.assigned h :), (congrArg Core.asid h :)⟩
  · exact ⟨(congrArg Core.assigned h :), (congrArg Core.asid h :)⟩

theorem coresOf_nodup (s : State) (p : Nat) : (s.coresOf p).Nodup := by
  unfold coresOf
  exact List.Nodup.filter _ List.nodup_range

/-- The cores of a partition after its copies have been faulted and its cores halted. -/
theorem halted (s : State) (p : Nat) : PartsStay s ((s.faultKeyed p).haltCores p) ∧
    ((s.faultKeyed p).haltCores p).coresOf p = s.coresOf p ∧
    ∀ c ∈ s.coresOf p, (((s.faultKeyed p).haltCores p).getCore c).station =
      { (s.getCore c).station with started := false, resetting := !s.t6Done c } := by
  have hfault := faultKeyed_stays (fun _ => False) s p
  have hlist : (s.faultKeyed p).coresOf p = s.coresOf p := coresOf_congr p fun c =>
    grant_of_station (b := false) (r := false) (.inl (hfault.core c))
  obtain ⟨hparts, hout, hin⟩ := halts_turn _ (s.coresOf_nodup p) (s.faultKeyed p)
  rw [haltCores_eq, hlist]
  have hmember : ∀ c ∈ s.coresOf p, (((s.coresOf p).foldl halt (s.faultKeyed p)).getCore c).station =
      { (s.getCore c).station with started := false, resetting := !s.t6Done c } := fun c hc => by
    rw [hin c hc, hfault.core c, t6Done_congr (hfault.thread (.thr c 6) not_false)]
  refine ⟨hfault.parts.trans hparts, coresOf_congr p fun c => ?_, hmember⟩
  by_cases hc : c ∈ s.coresOf p
  · exact grant_of_station (.inr (hmember c hc))
  · exact grant_of_station (b := false) (r := false) (.inl ((hout c hc).trans (hfault.core c)))

end State

theorem runs_partitionError {s : State} {p : Nat} (hp : p < 8) :
    ((s.getPart p).state = .running → Runs (.partitionError p) s fun t => (t.getPart p).state = .error ∧
      (∀ k ∈ (s.getPart p).keys, Tbl.get none t.keys k = none) ∧ ∀ c ∈ s.coresOf p, (t.getCore c).started = false) ∧
    ((s.getPart p).state ≠ .running → Runs (.partitionError p) s fun t => t = s) := by
  have hexec := exec_partitionError p s
  rw [execPartitionError, if_pos hp, State.partError] at hexec
  constructor
  · intro hrun
    rw [if_pos hrun] at hexec
    obtain ⟨hparts, -, hcores⟩ := s.halted p
    generalize (s.faultKeyed p).haltCores p = u at hexec hparts hcores
    refine ⟨_, hexec, ?_, fun k hk => u.wipeKeys_wiped p (hparts.partKeys p ▸ hk), fun c hc => (congrArg Core.started (hcores c hc) :)⟩
    rw [State.getPart_modPart_same]
  · intro hrun
    rw [if_neg hrun] at hexec
    exact ⟨_, hexec, rfl⟩

theorem runs_stopInterface {s : State} {p : Nat} (hp : p < 8) (hstate : (s.getPart p).state ≠ .unlocked) :
    ((∀ c ∈ s.coresOf p, s.t6Done c = true) → Runs (.stopInterface p) s fun t => (t.getPart p).state = .unlocked ∧
      (∀ k ∈ (s.getPart p).keys, Tbl.get none t.keys k = none) ∧ ∀ c ∈ s.coresOf p, BlankUlm t c) ∧
    ((∃ c ∈ s.coresOf p, s.t6Done c = false) → Runs (.stopInterface p) s fun t =>
      (t.getPart p).state = (s.getPart p).state ∧ (t.getPart p).stopping = true) := by
  have hexec := exec_stopInterface p s
  rw [execStopInterface, if_pos ⟨hp, hstate⟩, State.partStop] at hexec
  obtain ⟨hparts, hlist, hcores⟩ := s.halted p
  generalize (s.faultKeyed p).haltCores p = u at hexec hparts hlist hcores
  have hpart := State.getPart_modPart_same u p fun x => { x with stopping := true }
  have hlist' : (u.modPart p fun x => { x with stopping := true }).coresOf p = s.coresOf p := hlist
  have hreset : ∀ c ∈ s.coresOf p, ((u.modPart p fun x => { x with stopping := true }).getCore c).resetting = !s.t6Done c :=
    fun c hc => (congrArg Core.resetting (hcores c hc) :)
  generalize (u.modPart p fun x => { x with stopping := true }) = v at hexec hpart hlist' hreset
  have hstopping : (v.getPart p).stopping = true := by rw [hpart]
  constructor
  · intro hdone
    obtain ⟨hunlocked, hkeys, hblank⟩ := State.endStop_stops hstopping fun c hc => by
      rw [hlist'] at hc
      rw [hreset c hc, hdone c hc]
      rfl
    refine ⟨_, hexec, hunlocked, fun k hk => hkeys k ?_, fun c hc => hblank c (hlist' ▸ hc)⟩
    rw [hpart]
    exact hparts.partKeys p ▸ hk
  · rintro ⟨c, hc, hbusy⟩
    have hwaits : v.endStop p = v := by
      unfold State.endStop
      rw [if_pos]
      rw [Bool.or_eq_true, List.any_eq_true, hlist']
      exact .inr ⟨c, hc, by rw [hreset c hc, hbusy]; rfl⟩
    rw [hwaits] at hexec
    refine ⟨v, hexec, ?_, hstopping⟩
    rw [hpart]
    exact hparts.state p

end Sys2Proof.Machine

/-! SUPPORT. The obligation on the device's events (O53). -/

namespace Sys2Proof.Machine

/-- Settles O53: each event by its own lemma above. -/
theorem deviceEvents : Obligations.DeviceEvents := by
  unfold Obligations.DeviceEvents
  intro s die g core set m dest n p addr fn i tree v w data d flows pf0 reaches blank
  have hd : d < 2 := Nat.mod_lt die (by decide)
  refine ⟨runs_debugStopRequest s die g, fun hcore hal => runs_debugCodeWrite hcore hal, runs_hgcGo s die g, runs_cpbrkWrite s n v,
    fun hm hreach => runs_ownership dest hm hreach, runs_offerTimeout, fun hpf0 => runs_domainWrite hpf0 v,
    fun hown hflows => runs_domainWrite_refused hown hflows v, runs_msixTrigger,
    fun hcore hreach => ⟨runs_coreReset hcore hreach, runs_scanctlStart hcore hreach⟩, fun hset hreach => runs_setReset hset hreach,
    runs_queueResetComplete_core, runs_queueResetComplete_set, runs_traceOpen s die v, runs_traceClose s die,
    fun hport hreach hfree => runs_ingressRouteWrite hport hreach hfree, ?tree,
    fun hcore ⟨hposted, hretrain⟩ => ⟨?load, ?window⟩, fun hpf0 => runs_mmioRegisterWrite hpf0 core v, ?grants,
    runs_startInterface, runs_stopInterface, fun hp => (runs_partitionError hp).1, fun hp => (runs_partitionError hp).2⟩
  case tree => exact runs_reductionTreeWrite
  case load => exact fun hown hunlocked hfits => runs_ulmLoadWindowWrite_loaded hcore hposted hretrain hown hunlocked hfits
  case window => exact fun hbad => runs_ulmLoadWindowWrite_refused hcore hposted hretrain hbad
  case grants =>
    exact fun hp hown hstate => ⟨runs_grantCore hp hown hstate, runs_grantSet hp hown hstate, runs_grantKey hp hown hstate,
      runs_grantCounters hp hown hstate hd, runs_grantDbg hp hown hstate, runs_withdrawCore hp hown hstate,
      runs_withdrawKey hp hown hstate, ⟨_, if_pos ⟨hp, hstate⟩, rfl⟩⟩

end Sys2Proof.Machine
